-- ==== Sys2Proof/Word.lean ====
section
/-! DEFINITION. The word types of the VXZ-512 (R73): bytes, 32-bit words of V registers, 64-bit words of G registers. -/

namespace Sys2Proof

/-- A byte of memory. -/
abbrev Byte := BitVec 8
/-- A V register of one lane (R11). -/
abbrev Word := BitVec 32
/-- A G register (R11). -/
abbrev DWord := BitVec 64
/-- A residue element or a quad (R73, R87). -/
abbrev QWord := BitVec 128

end Sys2Proof
end

