-- ==== Sys2Proof/Config.lean ====
section
/-! DEFINITION. What the manual leaves to the part or leaves open: free values (opaque constants, log entries 3, 6 to 9, 11, 33, 92, 94 and 112) and
the sizes the manual states. -/

namespace Sys2Proof.Config

/-- %cyc of a core when the package enters SERVICE (R171): a free value (log entry 7). -/
opaque cycBase : Nat → Nat
/-- A fresh free value (log entry 7): the argument is the state's counter of free values. -/
opaque freeValue : Nat → Nat
/-- Whether a scratchpad byte keeps an earlier workgroup's value (R414): a free choice (log entry 9). -/
opaque scratchKept : Nat → Bool
/-- Words of the 4 KiB self-test and error log (R24): offset and counters to a free value (log entry 11). -/
opaque logWord : Nat → List Nat → Nat
/-- Bytes of an image's header (R21); the manual gives no number (log entry 3). -/
opaque headerBytes : Nat
/-- Offset of the version in an image's header (R21); the manual gives none (log entry 3). -/
opaque versionAt : Nat
/-- Offset of the length in an image's header (R21); the manual gives none (log entry 3). -/
opaque lengthAt : Nat
/-- The two numbers of the signature that follows an image, from a slot's bytes (R21); the manual gives no encoding (log entry 3). -/
opaque imageSignature : List Nat → Nat × Nat
/-- The public key that a slot's image names, a point of P-384 (R21); the manual does not say where it stands (log entry 3). -/
opaque imageKey : List Nat → Nat × Nat
/-- Hash of a public key as the root of trust holds it (R21); the manual does not name the function (log entry 3). -/
opaque keyHash : Nat × Nat → Nat
/-- The physical function's error vector (R22, R130, R401): the manual gives no number (log entry 94). -/
opaque errorVector : Nat
/-- The front-end cycle count of a die (R125) at a value of the model's clock: not comparable between dies (log entry 6). -/
opaque frontEndCycles : Nat → Nat → Nat
/-- Whether FAULTADDR of a malformed method op is the op's address (R355) or zero (R112): the two rules differ (log entry 54). -/
opaque methodAddress : Bool
/-- Which of several partitions gives a region its replication thresholds (R234): a free choice (log entry 33). -/
opaque regionPartition : Nat → Nat

/-- Which word leaves a full L1 (R223): a free choice (log entry 92). -/
opaque l1Victim : Nat → Nat
/-- Which word leaves a full instruction cache (R18): a free choice (log entry 92). -/
opaque icacheVictim : Nat → Nat

/-- What a word of a function's MSI-X window reads (R402): its function, its place in the window, the word as the host wrote it, and the
function's masked and pending vectors as masks. The manual gives the window no layout: a free value (log entry 112). -/
opaque msixWord : Nat → Nat → Nat → Nat → Nat → Nat
/-- The vector that a write of a word of an MSI-X window masks (true) or unmasks (false), if any (R402, R403): function, place, value; a free
choice (log entry 112). -/
opaque msixMask : Nat → Nat → Nat → Option (Nat × Bool)

/-- Clusters of the package (R16). -/
def clusters : Nat := 128
/-- Cores of the package (R16). -/
def cores : Nat := 512
/-- Bytes of one image slot: half of the 256 MiB flash (R20; log entry 3). -/
def slotBytes : Nat := 134217728
/-- Bytes of the module memory: 32 GiB (R20). -/
def moduleBytes : Nat := 34359738368
/-- Virtual functions in SERVICE, and where they lie among the functions (R402). -/
def virtualFunctions : Nat := 128
def firstVfOffset : Nat := 1
def vfStride : Nat := 1
/-- Slices of the shared cache in the package (R16). -/
def cacheSlices : Nat := 256
/-- Lines of 128 bytes in a 4 MiB slice (R16, R239). -/
def sliceLines : Nat := 32768
/-- Words of 4 bytes in a 320 KiB L1 (R18). -/
def l1Words : Nat := 81920
/-- Words of 4 bytes in a 64 KiB instruction cache (R18). -/
def icacheWords : Nat := 16384
/-- Entries of a core's translation cache (R212). -/
def tlbEntries : Nat := 2048
/-- Nodes of a core's node cache (R386). -/
def nodeEntries : Nat := 256
/-- Entries of a cluster's reservation table (R302). -/
def reservationEntries : Nat := 32
/-- Snoop-filter entries of a slice (R232). -/
def snoopEntries : Nat := 16384
/-- Beacons of a slice (R267). -/
def beacons : Nat := 256
/-- Order entries of a lantern (R353). -/
def orderEntries : Nat := 1024
/-- Parked fragments of a lantern (R353). -/
def parkedFragments : Nat := 4096
/-- Requests in an interval of the replication counts (R234). -/
def intervalRequests : Nat := 65536

end Sys2Proof.Config
end

