-- ==== Sys2Proof/Machine/Bits.lean ====
section
/-! DEFINITION. Bit helpers of the pseudocode (R10, R15) on natural numbers and words, and lane masks. -/

namespace Sys2Proof.Machine

/-- bits(x, hi, lo) (R15). -/
def bits (x hi lo : Nat) : Nat := x / 2 ^ lo % 2 ^ (hi + 1 - lo)

/-- zext(x, n) (R15). -/
def zext (x n : Nat) : Nat := x % 2 ^ n

/-- sext(x, n) (R15), for n of at least 1. -/
def sext (x n : Nat) : Int :=
  let y := x % 2 ^ n
  if y < 2 ^ (n - 1) then (y : Int) else (y : Int) - (2 ^ n : Nat)

/-- x mod 2^n as a natural number, for any integer x (R10: mod is never negative). -/
def wrapInt (x : Int) (n : Nat) : Nat := (x % ((2 ^ n : Nat) : Int)).toNat

/-- Number of set bits among the low n bits. -/
def popcount : Nat → Nat → Nat
  | 0, _ => 0
  | n + 1, x => x % 2 + popcount n (x / 2)

/-- Trailing zero bits among the low n bits; n when all are zero. -/
def trailingZeros : Nat → Nat → Nat
  | 0, _ => 0
  | n + 1, x => if x % 2 == 1 then 0 else 1 + trailingZeros n (x / 2)

/-- Leading zero bits of the low n bits. -/
def leadingZeros (n x : Nat) : Nat :=
  let y := x % 2 ^ n
  if y == 0 then n else n - 1 - Nat.log2 y

/-- The low n bits in reverse order. -/
def reverseBits : Nat → Nat → Nat
  | 0, _ => 0
  | n + 1, x => x % 2 * 2 ^ n + reverseBits n (x / 2)

/-- Rotation left of an n-bit value. -/
def rotl (n x k : Nat) : Nat :=
  let y := x % 2 ^ n
  let j := k % n
  (y * 2 ^ j) % 2 ^ n + y / 2 ^ (n - j)

/-- Bit b of a mask. -/
def hasBit (mask b : Nat) : Bool := mask.testBit b

/-- The set bits of a mask below n, in ascending order. -/
def bitsBelow (n mask : Nat) : List Nat := (List.range n).filter fun b => hasBit mask b

/-- The lanes of a lane mask, ascending (R10). -/
def lanesOf (mask : Nat) : List Nat := bitsBelow 32 mask

/-- The mask with exactly these bits. -/
def maskOf (bs : List Nat) : Nat := bs.foldl (fun m b => m ||| 2 ^ b) 0

/-- Bits of a that are not in b. -/
def maskDiff (a b : Nat) : Nat := a &&& (a ^^^ b)

/-- The lowest set bit of a mask, 0 when empty. -/
def lowestBit (mask : Nat) : Nat := if mask == 0 then 0 else trailingZeros 256 mask

/-- A little-endian number from its bytes (R3). -/
def natOfBytes : List Byte → Nat
  | [] => 0
  | b :: bs => b.toNat + 256 * natOfBytes bs

/-- The n low bytes of a number, little-endian (R3). -/
def bytesOfNat : Nat → Nat → List Byte
  | 0, _ => []
  | n + 1, x => BitVec.ofNat 8 x :: bytesOfNat n (x / 256)

/-- Sum of a list of naturals. -/
def sumNat (xs : List Nat) : Nat := xs.foldl (· + ·) 0

/-- Ceiling division. -/
def ceilDiv (a b : Nat) : Nat := (a + b - 1) / b

/-- Insertion into a list sorted by a key, after the entries of an equal key. -/
def insertBy {α : Type} (key : α → Nat) (x : α) : List α → List α
  | [] => [x]
  | y :: ys => if key y ≤ key x then y :: insertBy key x ys else x :: y :: ys

/-- A stable sort by an ascending key. -/
def sortBy {α : Type} (key : α → Nat) (xs : List α) : List α := xs.foldl (fun acc x => insertBy key x acc) []

/-- The entry with the least key, the earliest among equals. -/
def minBy {α : Type} (key : α → Nat) : List α → Option α
  | [] => none
  | x :: xs => some (xs.foldl (fun m y => if key y < key m then y else m) x)

/-- A list without the later copies of its members. -/
def uniq {α : Type} [BEq α] (xs : List α) : List α :=
  xs.foldl (fun acc x => if acc.contains x then acc else acc ++ [x]) []

/-- The integer square root, one bit of the root a step. -/
def isqrtGo : Nat → Nat → Nat → Nat
  | 0, _, r => r
  | k + 1, n, r =>
    let r' := r + 2 ^ k
    isqrtGo k n (if r' * r' ≤ n then r' else r)

/-- floor(√n). -/
def isqrt (n : Nat) : Nat := isqrtGo (Nat.log2 n / 2 + 1) n 0

end Sys2Proof.Machine
end

