-- ==== Sys2Proof/Machine/Maps.lean ====
section
/-! DEFINITION. Finite maps as lists of key and value pairs with rising keys, the form every table of the state has. -/

namespace Sys2Proof.Machine

/-- A finite map: keys rise strictly. -/
abbrev AMap (α : Type) := List (Nat × α)

/-- A map to numbers that reads 0 at an unlisted key; a listed value is never 0. -/
abbrev Sparse := List (Nat × Nat)

/-- The value at a key. -/
def aGet {α : Type} (k : Nat) : AMap α → Option α
  | [] => none
  | (k', v) :: m => if k' = k then some v else aGet k m

/-- The map with one value replaced or added. -/
def aSet {α : Type} (k : Nat) (v : α) : AMap α → AMap α
  | [] => [(k, v)]
  | (k', v') :: m =>
    if k < k' then (k, v) :: (k', v') :: m
    else if k' = k then (k, v) :: m
    else (k', v') :: aSet k v m

/-- The map without a key. -/
def aErase {α : Type} (k : Nat) : AMap α → AMap α
  | [] => []
  | (k', v) :: m => if k' = k then aErase k m else (k', v) :: aErase k m

/-- The map with the value at a key changed, where there is one. -/
def aMod {α : Type} (k : Nat) (f : α → α) (m : AMap α) : AMap α :=
  match aGet k m with
  | some v => aSet k (f v) m
  | none => m

/-- The values of a map, by rising key. -/
def aVals {α : Type} (m : AMap α) : List α := m.map (·.2)

/-- The keys of a map, rising. -/
def aKeys {α : Type} (m : AMap α) : List Nat := m.map (·.1)

/-- A number at a key, 0 where none is listed. -/
def spGet (m : Sparse) (k : Nat) : Nat := (aGet k m).getD 0

/-- A number stored at a key; 0 takes the entry out. -/
def spSet (m : Sparse) (k v : Nat) : Sparse := if v = 0 then aErase k m else aSet k v m

/-- Several numbers stored, in order. -/
def spSetAll (m : Sparse) (kvs : List (Nat × Nat)) : Sparse := kvs.foldl (fun m kv => spSet m kv.1 kv.2) m

/-- Keys rise strictly. -/
def aSorted {α : Type} : AMap α → Bool
  | [] => true
  | [_] => true
  | (k, _) :: (k', v') :: m => decide (k < k') && aSorted ((k', v') :: m)

/-- The list with the entry at an index replaced. -/
def setAt {α : Type} : List α → Nat → α → List α
  | [], _, _ => []
  | _ :: xs, 0, y => y :: xs
  | x :: xs, i + 1, y => x :: setAt xs i y

/-- The number at an index, 0 beyond the end. -/
def nth (xs : List Nat) (i : Nat) : Nat := xs.getD i 0

end Sys2Proof.Machine
end

