-- ==== Sys2Proof/Syntax.lean ====
section
/-! DEFINITION. The instructions of the VXZ-512: one constructor per row of spec/opcode_table.json. The encoded instructions
(spec/03_clause.md R60 to R63) come first; their register and immediate fields are the numbers that stand in the encoding. The
part's own events (rows 0 to 112 and the last row) follow: what an event is about stands in the state's subject. -/

namespace Sys2Proof

/-- Number of a V register (R57). -/
abbrev VReg := Nat
/-- Number of a G register (R57). -/
abbrev GReg := Nat
/-- Number of a P register (R57). -/
abbrev PReg := Nat

/-- One constructor per row of spec/opcode_table.json. -/
inductive Instr where
  /-- IADD (R172): Integer add modulo 2^32 in each active lane. -/
  | iadd (d a b : Nat)
  /-- ISUB (R172): Integer subtract modulo 2^32. -/
  | isub (d a b : Nat)
  /-- IMUL (R172): Low 32 bits of the product. -/
  | imul (d a b : Nat)
  /-- IMULH (R172): High 32 bits of the signed product. -/
  | imulh (d a b : Nat)
  /-- IMULHU (R172): High 32 bits of the unsigned product. -/
  | imulhu (d a b : Nat)
  /-- IMIN (R172): Signed minimum. -/
  | imin (d a b : Nat)
  /-- IMAX (R172): Signed maximum. -/
  | imax (d a b : Nat)
  /-- IMINU (R172): Unsigned minimum. -/
  | iminu (d a b : Nat)
  /-- IMAXU (R172): Unsigned maximum. -/
  | imaxu (d a b : Nat)
  /-- IADDSAT (R172): Saturating signed add. -/
  | iaddsat (d a b : Nat)
  /-- IADD64 (R172): 64-bit add of register pairs. -/
  | iadd64 (d a b : Nat)
  /-- ISUB64 (R172): 64-bit subtract of register pairs. -/
  | isub64 (d a b : Nat)
  /-- AND (R172): Bitwise AND. -/
  | and (d a b : Nat)
  /-- OR (R172): Bitwise OR. -/
  | or (d a b : Nat)
  /-- XOR (R172): Bitwise XOR. -/
  | xor (d a b : Nat)
  /-- ANDN (R172): x AND NOT y. -/
  | andn (d a b : Nat)
  /-- SHL (R172): Shift left by bits [4:0] of the second operand. -/
  | shl (d a b : Nat)
  /-- SHR (R172): Logical shift right. -/
  | shr (d a b : Nat)
  /-- SAR (R172): Arithmetic shift right. -/
  | sar (d a b : Nat)
  /-- ROTL (R172): Rotate left. -/
  | rotl (d a b : Nat)
  /-- SHL64 (R172): 64-bit pair shift left. -/
  | shl64 (d a b : Nat)
  /-- SHR64 (R172): 64-bit pair logical shift right. -/
  | shr64 (d a b : Nat)
  /-- POPC (R172): Population count. -/
  | popc (d a : Nat)
  /-- CLZ (R172): Count leading zeros. -/
  | clz (d a : Nat)
  /-- CTZ (R172): Count trailing zeros. -/
  | ctz (d a : Nat)
  /-- BREV (R172): Bit reverse. -/
  | brev (d a : Nat)
  /-- BSWAP (R172): Byte swap. -/
  | bswap (d a : Nat)
  /-- BFE (R173): Signed bit-field extract. -/
  | bfe (d a b : Nat)
  /-- BFEU (R173): Unsigned bit-field extract. -/
  | bfeu (d a b : Nat)
  /-- BFI (R173): Bit-field insert into the destination. -/
  | bfi (d a b : Nat)
  /-- ICMP_I32 (R174): Signed 32-bit compare into a predicate. -/
  | icmpI32 (p c a b : Nat)
  /-- ICMP_N32 (R174): Unsigned 32-bit compare into a predicate. -/
  | icmpN32 (p c a b : Nat)
  /-- ICMP_I64 (R174): Signed 64-bit pair compare. -/
  | icmpI64 (p c a b : Nat)
  /-- ICMP_N64 (R174): Unsigned 64-bit pair compare. -/
  | icmpN64 (p c a b : Nat)
  /-- FCMP_F32 (R196): binary32 compare into a predicate. -/
  | fcmpF32 (p c a b : Nat)
  /-- FCMP_F64 (R196): binary64 pair compare. -/
  | fcmpF64 (p c a b : Nat)
  /-- FCMP_F16 (R196): binary16 compare of the low halves. -/
  | fcmpF16 (p c a b : Nat)
  /-- IADDI (R175): Add a sign-extended 12-bit immediate. -/
  | iaddi (d a i : Nat)
  /-- ANDI (R175): AND with a zero-extended immediate. -/
  | andi (d a i : Nat)
  /-- ORI (R175): OR with a zero-extended immediate. -/
  | ori (d a i : Nat)
  /-- XORI (R175): XOR with a zero-extended immediate. -/
  | xori (d a i : Nat)
  /-- SHLI (R175): Shift left by an immediate. -/
  | shli (d a n : Nat)
  /-- SHRI (R175): Logical shift right by an immediate. -/
  | shri (d a n : Nat)
  /-- SARI (R175): Arithmetic shift right by an immediate. -/
  | sari (d a n : Nat)
  /-- ROTLI (R175): Rotate left by an immediate. -/
  | rotli (d a n : Nat)
  /-- MOVI (R176): Write a zero-extended 16-bit immediate. -/
  | movi (d i : Nat)
  /-- MOVHI (R176): Write the immediate into bits [31:16], keeping the low half. -/
  | movhi (d i : Nat)
  /-- SEL (R177): Select between two registers by a predicate. -/
  | sel (d a b p n : Nat)
  /-- IMAD (R178): Integer multiply-add modulo 2^32 (two words). -/
  | imad (d a b c : Nat)
  /-- LIT (R176): Write a 32-bit literal from the second word. -/
  | lit (d i : Nat)
  /-- PAND (R179): Predicate AND. -/
  | pand (d a b : Nat)
  /-- POR (R179): Predicate OR. -/
  | por (d a b : Nat)
  /-- PXOR (R179): Predicate XOR. -/
  | pxor (d a b : Nat)
  /-- PANDN (R179): Predicate AND NOT. -/
  | pandn (d a b : Nat)
  /-- FADD (R192): binary32 add. -/
  | fadd (d a b : Nat)
  /-- FSUB (R192): binary32 subtract. -/
  | fsub (d a b : Nat)
  /-- FMUL (R192): binary32 multiply. -/
  | fmul (d a b : Nat)
  /-- FMAC (R192): Fused multiply-accumulate into the destination. -/
  | fmac (d a b : Nat)
  /-- FMIN (R192): minimumNumber. -/
  | fmin (d a b : Nat)
  /-- FMAX (R192): maximumNumber. -/
  | fmax (d a b : Nat)
  /-- FNEG (R192): Invert the sign bit. -/
  | fneg (d a : Nat)
  /-- FABS (R192): Clear the sign bit. -/
  | fabs (d a : Nat)
  /-- FRND (R192): Round to an integral value by the mode in b. -/
  | frnd (d a m : Nat)
  /-- FCPYS (R192): Copy sign. -/
  | fcpys (d a b : Nat)
  /-- FMA (R193): Fused x*y+z (two words). -/
  | fma (d a b c : Nat)
  /-- FMS (R193): Fused x*y-z (two words). -/
  | fms (d a b c : Nat)
  /-- FNMA (R193): Fused -(x*y)+z (two words). -/
  | fnma (d a b c : Nat)
  /-- HADD2 (R194): Packed binary16 add. -/
  | hadd2 (d a b : Nat)
  /-- HMUL2 (R194): Packed binary16 multiply. -/
  | hmul2 (d a b : Nat)
  /-- HFMA2 (R194): Packed binary16 fused multiply-add. -/
  | hfma2 (d a b : Nat)
  /-- HMIN2 (R194): Packed binary16 minimum. -/
  | hmin2 (d a b : Nat)
  /-- HMAX2 (R194): Packed binary16 maximum. -/
  | hmax2 (d a b : Nat)
  /-- BADD2 (R194): Packed BF16 add. -/
  | badd2 (d a b : Nat)
  /-- BMUL2 (R194): Packed BF16 multiply. -/
  | bmul2 (d a b : Nat)
  /-- BFMA2 (R194): Packed BF16 fused multiply-add. -/
  | bfma2 (d a b : Nat)
  /-- DADD (R195): binary64 add. -/
  | dadd (d a b : Nat)
  /-- DSUB (R195): binary64 subtract. -/
  | dsub (d a b : Nat)
  /-- DMUL (R195): binary64 multiply. -/
  | dmul (d a b : Nat)
  /-- DFMA (R195): binary64 fused multiply-add into the destination pair. -/
  | dfma (d a b : Nat)
  /-- DMIN (R195): binary64 minimumNumber. -/
  | dmin (d a b : Nat)
  /-- DMAX (R195): binary64 maximumNumber. -/
  | dmax (d a b : Nat)
  /-- CVT_F32_I32 (R197): i32 to binary32. -/
  | cvtF32I32 (d a : Nat)
  /-- CVT_F32_N32 (R197): n32 to binary32. -/
  | cvtF32N32 (d a : Nat)
  /-- CVT_I32_F32 (R198): binary32 to i32. -/
  | cvtI32F32 (d a : Nat)
  /-- CVT_N32_F32 (R198): binary32 to n32. -/
  | cvtN32F32 (d a : Nat)
  /-- CVT_F16_F32 (R197): binary32 to binary16. -/
  | cvtF16F32 (d a : Nat)
  /-- CVT_F32_F16 (R199): binary16 to binary32. -/
  | cvtF32F16 (d a : Nat)
  /-- CVT_BF16_F32 (R197): binary32 to BF16. -/
  | cvtBf16F32 (d a : Nat)
  /-- CVT_F32_BF16 (R199): BF16 to binary32. -/
  | cvtF32Bf16 (d a : Nat)
  /-- CVT_F64_F32 (R199): binary32 to binary64. -/
  | cvtF64F32 (d a : Nat)
  /-- CVT_F32_F64 (R197): binary64 to binary32. -/
  | cvtF32F64 (d a : Nat)
  /-- CVT_F64_I64 (R197): i64 to binary64. -/
  | cvtF64I64 (d a : Nat)
  /-- CVT_I64_F64 (R198): binary64 to i64. -/
  | cvtI64F64 (d a : Nat)
  /-- CVT_E4M3X2_F32 (R197): Two binary32 values to two E4M3 bytes. -/
  | cvtE4m3x2F32 (d a b : Nat)
  /-- CVT_E5M2X2_F32 (R197): Two binary32 values to two E5M2 bytes. -/
  | cvtE5m2x2F32 (d a b : Nat)
  /-- CVT_F32_E4M3 (R197): E4M3 byte k to binary32. -/
  | cvtF32E4m3 (d a k : Nat)
  /-- CVT_F32_E5M2 (R197): E5M2 byte k to binary32. -/
  | cvtF32E5m2 (d a k : Nat)
  /-- FRCP (R202): Reciprocal on the transform pipe. -/
  | frcp (d a l : Nat)
  /-- FRSQ (R202): Reciprocal square root. -/
  | frsq (d a l : Nat)
  /-- FSQRT (R202): Square root. -/
  | fsqrt (d a l : Nat)
  /-- FEXP2 (R202): Base-2 exponential. -/
  | fexp2 (d a l : Nat)
  /-- FLOG2 (R202): Base-2 logarithm. -/
  | flog2 (d a l : Nat)
  /-- FSIN (R202): Sine of an argument in turns. -/
  | fsin (d a l : Nat)
  /-- FCOS (R202): Cosine of an argument in turns. -/
  | fcos (d a l : Nat)
  /-- XQROW (R322): Quantise each lane's row of a register tile. -/
  | xqrow (v g l x : Nat)
  /-- XQCOL (R322): Quantise each column of a register tile. -/
  | xqcol (v g l x : Nat)
  /-- XTRANS (R322): Transpose a register tile. -/
  | xtrans (v l x : Nat)
  /-- XSIG (R322): Eight signed-projection signatures of a register tile. -/
  | xsig (v l x : Nat)
  /-- SHFLIDX (R180): Read V[a] of the lane indexed by a register. -/
  | shflidx (d a b : Nat)
  /-- SHFLUP (R180): Read from lane l minus delta. -/
  | shflup (d a b : Nat)
  /-- SHFLDN (R180): Read from lane l plus delta. -/
  | shfldn (d a b : Nat)
  /-- SHFLXOR (R180): Read from lane l XOR delta. -/
  | shflxor (d a b : Nat)
  /-- SHFLIDXI (R180): Shuffle by an immediate lane index. -/
  | shflidxi (d a k : Nat)
  /-- SHFLUPI (R180): Shuffle up by an immediate. -/
  | shflupi (d a k : Nat)
  /-- SHFLDNI (R180): Shuffle down by an immediate. -/
  | shfldni (d a k : Nat)
  /-- SHFLXORI (R180): Shuffle XOR by an immediate. -/
  | shflxori (d a k : Nat)
  /-- REDADD (R181): Integer sum over the active lanes. -/
  | redadd (d a : Nat)
  /-- REDADDF (R182): FP32 sum in a fixed tree over the active lanes. -/
  | redaddf (d a : Nat)
  /-- REDMIN (R181): Signed minimum over the active lanes. -/
  | redmin (d a : Nat)
  /-- REDMAX (R181): Signed maximum over the active lanes. -/
  | redmax (d a : Nat)
  /-- BALLOT (R181): Bit mask of the active lanes whose predicate is true. -/
  | ballot (d a : Nat)
  /-- VOTEANY (R181): True if the predicate holds in any active lane. -/
  | voteany (d a : Nat)
  /-- VOTEALL (R181): True if the predicate holds in every active lane. -/
  | voteall (d a : Nat)
  /-- UADD (R183): Uniform 64-bit add. -/
  | uadd (d a b : Nat)
  /-- USUB (R183): Uniform subtract. -/
  | usub (d a b : Nat)
  /-- UMUL (R183): Uniform multiply. -/
  | umul (d a b : Nat)
  /-- UAND (R183): Uniform AND. -/
  | uand (d a b : Nat)
  /-- UOR (R183): Uniform OR. -/
  | uor (d a b : Nat)
  /-- UXOR (R183): Uniform XOR. -/
  | uxor (d a b : Nat)
  /-- USHL (R183): Uniform shift left. -/
  | ushl (d a b : Nat)
  /-- USHR (R183): Uniform logical shift right. -/
  | ushr (d a b : Nat)
  /-- USAR (R183): Uniform arithmetic shift right. -/
  | usar (d a b : Nat)
  /-- UMIN (R183): Uniform signed minimum. -/
  | umin (d a b : Nat)
  /-- UMAX (R183): Uniform signed maximum. -/
  | umax (d a b : Nat)
  /-- USLT (R183): Uniform signed less-than. -/
  | uslt (d a b : Nat)
  /-- USLTN (R183): Uniform unsigned less-than. -/
  | usltn (d a b : Nat)
  /-- USEQ (R183): Uniform equality. -/
  | useq (d a b : Nat)
  /-- UMOVI (R184): Write a sign-extended 21-bit immediate to a G register. -/
  | umovi (d i : Nat)
  /-- ULIT (R184): Write a zero-extended 32-bit literal to a G register (two words). -/
  | ulit (d i : Nat)
  /-- ULITHI (R184): Write a literal into bits [63:32] of a G register (two words). -/
  | ulithi (d i : Nat)
  /-- MOVSR (R170): Read a special value into V registers. -/
  | movsr (d s : Nat)
  /-- RDLANE (R185): Copy one lane's V register into a G register. -/
  | rdlane (d a n : Nat)
  /-- BCAST (R185): Broadcast the low half of a G register to V. -/
  | bcast (d a : Nat)
  /-- BCASTHI (R185): Broadcast the high half of a G register to V. -/
  | bcasthi (d a : Nat)
  /-- ULD (R186): Uniform 8-byte load into a G register. -/
  | uld (d a l t : Nat)
  /-- BRC (R163): Per-lane conditional branch, splitting the path. -/
  | brc (p n o : Nat)
  /-- UBRC (R163): Uniform branch on a G register condition. -/
  | ubrc (g c o : Nat)
  /-- CALL (R164): Branch, saving the next clause's address in G31. -/
  | call (o : Nat)
  /-- JMP (R164): Jump to the address in a G register. -/
  | jmp (g : Nat)
  /-- JSET (R165): Push a JOIN entry with a join address. -/
  | jset (o : Nat)
  /-- REORDER (R167): Deposit lanes into the lift by key and end them (two words). -/
  | reorder (a b n o : Nat)
  /-- TRAP (R116): Raise SWTRAP with an immediate. -/
  | trap (i : Nat)
  /-- BRK (R116): Raise BREAK with an immediate. -/
  | brk (i : Nat)
  /-- TRAPRET (R116): Leave supervisor level, replaying or skipping the faulting instruction. -/
  | trapret (s : Nat)
  /-- CSRRD (R116): Read a control and status register into a G register. -/
  | csrrd (g c : Nat)
  /-- CSRWR (R116): Write a control and status register from a G register. -/
  | csrwr (g c : Nat)
  /-- TLBINV_PAGE (R116): Drop the translation of one page device-wide. -/
  | tlbinvPage (g : Nat)
  /-- LDW (R218): Per-lane word load. -/
  | ldw (d o g l t : Nat)
  /-- LDD (R218): Per-lane doubleword load into a pair. -/
  | ldd (d o g l t : Nat)
  /-- LDQ (R218): Per-lane quadword load into a quad. -/
  | ldq (d o g l t : Nat)
  /-- LDBN (R218): Zero-extending byte load. -/
  | ldbn (d o g l : Nat)
  /-- LDBS (R218): Sign-extending byte load. -/
  | ldbs (d o g l : Nat)
  /-- LDHN (R218): Zero-extending halfword load. -/
  | ldhn (d o g l : Nat)
  /-- LDHS (R218): Sign-extending halfword load. -/
  | ldhs (d o g l : Nat)
  /-- STW (R218): Per-lane word store. -/
  | stw (d o g t : Nat)
  /-- STD (R218): Per-lane doubleword store. -/
  | std (d o g t : Nat)
  /-- STQ (R218): Per-lane quadword store. -/
  | stq (d o g t : Nat)
  /-- STB (R218): Byte store. -/
  | stb (d o g : Nat)
  /-- STH (R218): Halfword store. -/
  | sth (d o g : Nat)
  /-- LDS (R221): Scratchpad load of the size coded in rt. -/
  | lds (d o g l s : Nat)
  /-- STS (R221): Scratchpad store of the size coded in rt. -/
  | sts (d o g s : Nat)
  /-- ATOM (R262): Memory atomic with order and scope (two words). -/
  | atom (d o g l t nr c b r s op : Nat)
  /-- ATOMS (R264): Scratchpad atomic (two words). -/
  | atoms (d o g l nr c b r op : Nat)
  /-- FENCE (R257): Release and/or acquire at a scope on the CORE path. -/
  | fence (o e : Nat)
  /-- FENCEX (R258): Release for one access path, then acquire for another. -/
  | fencex (a b s : Nat)
  /-- CFLUSH (R242): Clean, write back or push whole lines. -/
  | cflush (v g t : Nat)
  /-- PREF (R243): Prefetch lines, with no architectural effect except RO fills. -/
  | pref (v g t : Nat)
  /-- WAITC (R266): Arm a beacon and sleep until a word meets a condition (two words). -/
  | waitc (g p w cond s gc : Nat)
  /-- BARARR (R276): Gang arrival on a barrier, returning the generation. -/
  | bararr (v g b : Nat)
  /-- BARWAIT (R276): Wait for a barrier generation. -/
  | barwait (p g b : Nat)
  /-- BARSYNC (R276): Arrive on a barrier and wait for the generation. -/
  | barsync (p g b : Nat)
  /-- BARQRY (R276): Read a barrier's state word. -/
  | barqry (v b : Nat)
  /-- BATCH (R278): Close the open batch and return its number. -/
  | batch (v : Nat)
  /-- WAITB (R278): Wait for batches to complete and report errors. -/
  | waitb (p g c : Nat)
  /-- SQPUT (R144): Put records into the outgoing stage queue. -/
  | sqput (v : Nat)
  /-- SQGET (R144): Take records from the incoming stage queue. -/
  | sqget (v g p : Nat)
  /-- CPYT (R286): Dense tensor copy. -/
  | cpyt (g x b : Nat)
  /-- CPYG (R287): Row gather. -/
  | cpyg (v g x b : Nat)
  /-- CPYS (R287): Row scatter. -/
  | cpys (v g x b : Nat)
  /-- CPYQ (R288): Two-way block quantisation (two words). -/
  | cpyq (g x b k h : Nat)
  /-- CPYZ (R292): Compress and encrypt into PKZ slots (two words). -/
  | cpyz (v g x b k : Nat)
  /-- CPYX (R292): Decrypt and expand PKZ slots (two words). -/
  | cpyx (v g x b k : Nat)
  /-- MMA (R310): Matrix multiply-accumulate into a tile, optionally as a crew (two words). -/
  | mma (v g s r w h f t : Nat)
  /-- MJOB (R312): Run a job card's blocked product (two words). -/
  | mjob (v g x b f : Nat)
  /-- ACCZ (R318): Zero an accumulator tile with an anchor. -/
  | accz (v g : Nat)
  /-- ACCADD (R318): Add vector values exactly into tile elements. -/
  | accadd (v g q : Nat)
  /-- ACCRD (R318): Read a tile element or its metadata into a quad. -/
  | accrd (v g l q : Nat)
  /-- ACCWR (R318): Write a tile element or its metadata from a quad. -/
  | accwr (v g q : Nat)
  /-- DRAIN (R320): Convert a tile, rounding once, to a tensor (two words). -/
  | drain (v g x b e z m f h : Nat)
  /-- BDSET (R327): Set a bond register. -/
  | bdset (g n : Nat)
  /-- BDGET (R327): Read a bond or mode register. -/
  | bdget (d m n : Nat)
  /-- MDSET (R327): Set a mode register. -/
  | mdset (g n : Nat)
  /-- TTCON (R334): One tensor-train contraction step (two words). -/
  | ttcon (w g k x b : Nat)
  /-- TTPROG (R334): Run the chain descriptor's contraction program. -/
  | ttprog (w g x b : Nat)
  /-- STEPBEG (R340): Open a step of a step stream. -/
  | stepbeg (g : Nat)
  /-- STEPEND (R340): Close the step, writing PRIMED and STEPNO back. -/
  | stepend (x b : Nat)
  /-- SKIPRD (R344): Read a skip-map word. -/
  | skiprd (d g : Nat)
  /-- SKIPWR (R344): Write a skip-map word. -/
  | skipwr (s g : Nat)
  /-- PRIM (R366): Submit triangles to the frame's binner (two words). -/
  | prim (v g f c : Nat)
  /-- POST (R360): Post fragment values to a target's lantern. -/
  | post (v g s : Nat)
  /-- KILL (R360): Resolve the lane's order entry in one target. -/
  | kill (g : Nat)
  /-- ZPROBE (R361): Test whether later depth at the pixel can pass. -/
  | zprobe (v g p : Nat)
  /-- TGTOPEN (R362): Open a target and wait until it is OPEN. -/
  | tgtopen (g : Nat)
  /-- TGTSEAL (R362): Seal a target and wait until it is SEALING. -/
  | tgtseal (g : Nat)
  /-- TGTWAIT (R362): Wait while a target is SEALING, then report SEALED. -/
  | tgtwait (g p : Nat)
  /-- SMP (R363): Bilinear sample of a target plane (two words). -/
  | smp (v g l q wr : Nat)
  /-- SMPL (R363): Texel load from a target plane. -/
  | smpl (v g l q : Nat)
  /-- RAYSUB (R379): Submit rays from slots to the workgroup's ray queue. -/
  | raysub (v g t : Nat)
  /-- RAYGET (R382): Take queued rays for the walker lanes. -/
  | rayget (v g p : Nat)
  /-- MBXGET (R380): Wait for and take completed ray tags. -/
  | mbxget (v l p : Nat)
  /-- NODELD (R387): Load 16 bytes of a node under its sequence counter. -/
  | nodeld (v l k : Nat)
  /-- BOXT (R388): Test the ray against a box node. -/
  | boxt (v l : Nat)
  /-- TRIT (R389): Test the ray against a triangle leaf. -/
  | trit (v l : Nat)
  /-- RPUSH (R384): Push onto the lane stack, spilling to scratchpad. -/
  | rpush (v g : Nat)
  /-- RPOP (R384): Pop from the lane stack. -/
  | rpop (v g p : Nat)
  /-- RSAVE (R390): Save a walk into its slot and suspend it. -/
  | rsave (v g : Nat)
  /-- RLOAD (R390): Load a suspended walk from its slot. -/
  | rload (v g : Nat)
  /-- RCOMMIT (R391): Commit a closer hit and shorten TMAX. -/
  | rcommit (v h : Nat)
  /-- RDONE (R392): Finish a ray and post its completion to the owner's mailbox. -/
  | rdone (v : Nat)
  /-- NODEPUB (R393): Publish a node in place under its sequence counter. -/
  | nodepub (v g : Nat)
  /-- NOP_C (R166): No operation in the CTRL major. -/
  | nopC
  /-- JOIN (R153): Arrive at the topmost entry, popping PEND entries. -/
  | join
  /-- REGANG (R157): Wait for the whole gang to rejoin. -/
  | regang
  /-- EXIT (R166): End every active lane of the path. -/
  | exit
  /-- YIELD (R166): Give up issue until another path issues. -/
  | yield
  /-- TLBINV_ALL (R116): Drop every translation of the context. -/
  | tlbinvAll
  /-- SQEND (R144): Close the stage queue for the gang. -/
  | sqend
  /-- KILL_ALL (R360): Resolve every unresolved entry of the lane. -/
  | killAll
  /-- SUPPLY_GOOD (R22): The 48 V supply becomes good and controller core 0 starts the boot ROM, taking the package from OFF to ROM. -/
  | supplyGood
  /-- BOOT_ROM_PASS (R21): The boot ROM finishes trying the image slots: it starts the first image it accepts (LOADING), or goes to SAFE with FAILSTAGE 1 if it accepts none. -/
  | bootRomPass
  /-- IMAGE_INITIALISED (R22): The module operating-system image finishes initialising and the package goes from LOADING to TRAINING. -/
  | imageInitialised
  /-- TRAINING_COMPLETE (R22): HBM and link training ends: the package goes to SELFTEST, with failed Polnu Link ports marked down, or to SAFE with FAILSTAGE 2 or 3. -/
  | trainingComplete
  /-- SELFTEST_COMPLETE (R22): Self-test ends: on a pass the stores are cleared, the virtual functions are reported and the package enters SERVICE; on a failure it goes to SAFE with FAILSTAGE 4 and FAILUNIT set. -/
  | selftestComplete
  /-- PACKAGE_MACHINE_CHECK (R28): Package-level state consumes a poisoned unit: every live context goes to FAULTED with an MCHECK record and the package goes to SAFE. -/
  | packageMachineCheck
  /-- DIE_LINK_FAILURE (R397): A die link fails beyond replay or stops answering: the package goes to SAFE with FAILSTAGE 5, and requests in flight on it are not completed. -/
  | dieLinkFailure
  /-- PF_FUNCTION_LEVEL_RESET (R22): A function-level reset of the physical function restarts the package from ROM, destroying every context and clearing the PKGSTAT failure fields. -/
  | pfFunctionLevelReset
  /-- SUPPLY_LOST (R22): Loss of supply takes the package to OFF from any state. -/
  | supplyLost
  /-- LOG (R24): The management mailbox command returns 256 bytes of the self-test and error log, starting at offset MBARG0. -/
  | log
  /-- RETRY (R24): The management mailbox command restarts the package from ROM. -/
  | retry
  /-- IMAGE (R24): The management mailbox command copies a new image from host memory into the slot that is not running. -/
  | image
  /-- PARTCFG (R24): The management mailbox command creates, changes or deletes a partition of clusters, refusing with BUSY when the partition is in use. -/
  | partcfg
  /-- REPLCFG (R24): The management mailbox command sets TRAISE and TLOWER for a partition. -/
  | replcfg
  /-- DROOP_TRIP (R25): A cluster's supply sags below its threshold: its clock period doubles and DROOPCNT counts the event. -/
  | droopTrip
  /-- DROOP_RECOVERY (R25): The supply has recovered and at least 32 stretched cycles have elapsed, so the cluster's clock stretch ends and MAXRUN is updated. -/
  | droopRecovery
  /-- SOFT_ERROR (R27): An error strikes protected storage: a correctable error is corrected and counted, and an uncorrectable one marks its 64-bit unit poisoned. -/
  | softError
  /-- WSPHASE_ADVANCE (R240): Every 64 base-die cycles a die's WSPHASE counter advances, opening and closing bank refresh windows; reads held by a window are released when it closes. -/
  | wsphaseAdvance
  /-- CREATE (R103): The function mailbox command creates a context with its translation root, partition, occupancy limit, PASID and weight-store windows (FREE to READY). -/
  | create
  /-- PREEMPT (R99): The function mailbox command moves a RUNNING context to PREEMPTING. -/
  | preempt
  /-- RESET (R100): The function mailbox command discards a FAULTED or SAVED context's state and returns the context to READY. -/
  | reset
  /-- DESTROY (R100): The function mailbox command stops the context's slices without saving, abandons its engine commands and moves it to DESTROYED. -/
  | destroy
  /-- QUERY (R103): The function mailbox command returns the context's state, its weight-store windows and, in FAULTED, its fault record. -/
  | query
  /-- WRREG (R410): The function mailbox command writes a supervisor-writable context-scope register of a READY, SAVED or FAULTED context. -/
  | wrreg
  /-- KEYLOAD (R291): The function mailbox command loads a 256-bit key into a key slot of the function. -/
  | keyload
  /-- KEYCLR (R103): The function mailbox command clears one key slot of the function, or every slot. -/
  | keyclr
  /-- POLICY (R104): The function mailbox command sets the context's translation service policy to REFUSE, ARMED or HOST. -/
  | policy
  /-- SERVE (R103): The function mailbox command answers a pending HOST-policy page request as served or refused. -/
  | serve
  /-- CONTEXT_SCHEDULE (R100): The scheduler picks a READY context that has a runnable packet and places it on its partition (READY to RUNNING). -/
  | contextSchedule
  /-- CONTEXT_IDLE (R100): A RUNNING context has no runnable packet and no resident workgroup, so it returns to READY. -/
  | contextIdle
  /-- TIME_SLICE_EXPIRY (R100): A context's time slice expires and pre-emption begins (RUNNING to PREEMPTING). -/
  | timeSliceExpiry
  /-- PRIORITY_PREEMPT (R100): The module operating system chooses a higher-priority context and pre-empts a RUNNING context. -/
  | priorityPreempt
  /-- PREEMPTION_COMPLETE (R117): Every slice has stopped and every item of R118 is saved, so the context goes to SAVED and its partition resources are released. -/
  | preemptionComplete
  /-- CONTEXT_RESTORE (R120): The scheduler picks a SAVED context: it is restored when the partition meets R120, and otherwise goes to FAULTED with RESTORECAP. -/
  | contextRestore
  /-- CONTEXT_RELEASE (R100): The module operating system has released every resource of a DESTROYED context, which becomes FREE. -/
  | contextRelease
  /-- SLICE_PREEMPT_STOP (R69): During pre-emption a slice reaches a side-table clause and stops, saving the registers marked live in that entry. -/
  | slicePreemptStop
  /-- PREEMPT_FALLBACK (R69): A slice issues 4,096 instructions after a pre-emption request without stopping, so it is stopped at its exact position with every register saved. -/
  | preemptFallback
  /-- PATH_STARVATION (R140): A ready path goes unchosen for 64 scheduler cycles and becomes starving, so it takes precedence at its group scheduler. -/
  | pathStarvation
  /-- QWPTR (R128): A doorbell write of QWPTR stores the value and starts, extends or errors the queue's readable range according to the queue state. -/
  | qwptr
  /-- QUEUE_ENABLE (R128): A QCTL write with EN = 1 enables a DISABLED queue, or recovers a queue in ERROR with QRPTR set to the stored QWPTR. -/
  | queueEnable
  /-- QUEUE_DISABLE (R128): A QCTL write with EN = 0 disables the queue and drops the packets not yet started. -/
  | queueDisable
  /-- REGISTER_WRITE (R122): A write to a register with no behaviour of its own, such as QBASE or QRECBASE, stores its value subject to the state rules. -/
  | registerWrite
  /-- NOP (R125): A NOP packet is taken and does nothing. -/
  | nop
  /-- LAUNCH (R132): A LAUNCH packet checks its descriptor and side table, empties the instruction cache and starts the kernel's grid. -/
  | launch
  /-- FRAME (R365): A FRAME packet rasterises the queue's open frame, if there is one, and opens a new frame with the given bin memory. -/
  | frame
  /-- SIGNAL_WRITE (R125): A SIGNAL packet with OP WRITE releases earlier packets' writes at SYSTEM scope and then writes VALUE to ADDR. -/
  | signalWrite
  /-- SIGNAL_ADD (R125): A SIGNAL packet with OP ADD releases earlier packets' writes at SYSTEM scope and then atomically adds VALUE at ADDR. -/
  | signalAdd
  /-- WAITV (R125): A WAITV packet reads a 64-bit word with acquire order and holds the queue until COND holds. -/
  | waitv
  /-- WAITV_RECHECK (R125): A write to a device-memory word watched by a WAITV makes it compare again, and it completes if COND holds. -/
  | waitvRecheck
  /-- WAITV_POLL_TIMER (R125): Every 65,536 cycles a WAITV on a host-memory word re-reads it and compares. -/
  | waitvPollTimer
  /-- FENCE_PACKET (R125): A FENCE packet waits for earlier packets, releases and acquires at its scope, and empties the partition's read-only caches. -/
  | fencePacket
  /-- TGT_CREATE (R349): A TGT packet with OP CREATE checks the target descriptor and moves the target to CREATED. -/
  | tgtCreate
  /-- TGT_OPEN (R349): A TGT packet with OP OPEN captures the descriptor and methods, clears the planes, and opens the target bound to the queue's frame. -/
  | tgtOpen
  /-- TGT_SEAL (R349): A TGT packet with OP SEAL rasterises the bound frame's bins for the target and moves it to SEALING. -/
  | tgtSeal
  /-- TGT_RELEASE (R349): A TGT packet with OP RELEASE moves a CREATED or SEALED target to RELEASED. -/
  | tgtRelease
  /-- WSTORE (R125): A WSTORE packet, once no kernel of the context runs, copies bytes into the weight store and clears poison that it covers. -/
  | wstore
  /-- MARK (R125): A MARK packet writes VALUE and the serving die's front-end cycle count. -/
  | mark
  /-- WRAP (R125): A WRAP packet sets the queue's read position to offset 0. -/
  | wrap
  /-- PACKET_COMPLETE (R125): A started packet completes, raising the queue's vector if INTR is set and letting barriered successors start. -/
  | packetComplete
  /-- PIPELINE_SET_START (R136): When the partition can hold every workgroup of the next pipeline set, the device places them and starts them in ascending stage order. -/
  | pipelineSetStart
  /-- WORKGROUP_FINISH (R138): A workgroup whose slices have all exited, and whose commands have all completed, releases its scratchpad and accumulator tiles. -/
  | workgroupFinish
  /-- SERVICE_REQUEST (R213): The module operating system receives a missing-translation request and handles it under the context's service policy. -/
  | serviceRequest
  /-- SERVICE_ANSWER (R214): A translation service answer arrives: served lanes form park groups and waiting paths or engines walk again; a refusal leads to PROT. -/
  | serviceAnswer
  /-- PARK_GROUP_START (R155): The park slot starts the next served park group, which replays the faulting instruction for its lanes alone. -/
  | parkGroupStart
  /-- LOAD_DATA_RETURN (R218): The data of a load returns, its destination registers are written together, and the LOADS count falls. -/
  | loadDataReturn
  /-- STORE_ACCEPT (R51): The L1 or the scratchpad accepts a store's data and the STORES count falls. -/
  | storeAccept
  /-- ATOMIC_PERFORMED (R262): An atomic is performed at its place for each lane, returning the old value and merging FP flags where the op has them. -/
  | atomicPerformed
  /-- XPIPE_WRITEBACK (R200): The transform pipe writes an XMATH or XTILE destination, merges XMATH flags, and lowers the XPIPE count. -/
  | xpipeWriteback
  /-- RAY_TEST_RESULT (R386): The ray tester writes the result of NODELD, BOXT or TRIT and lowers the RAYT count. -/
  | rayTestResult
  /-- HOME_REQUEST (R228): A request reaches a line's home slice and is served word by word, with recalls and replica collapses made first where needed. -/
  | homeRequest
  /-- SPAN_RECALL (R226): An owner receives a recall of an OWN span, writes back its dirty bytes and drops the span. -/
  | spanRecall
  /-- REPLICA_CONFIRM (R230): A die confirms its new replica and the directory goes from BUSY-R to RSH. -/
  | replicaConfirm
  /-- OWN_CONFIRM (R230): A die confirms an owned grant and the directory goes from BUSY-X to REX. -/
  | ownConfirm
  /-- INVALIDATION_CONFIRM (R230): The last replica invalidation is confirmed, so the directory returns to UNC and the waiting request proceeds. -/
  | invalidationConfirm
  /-- OWNED_WRITEBACK (R230): The write-back from an owning die arrives, so the directory returns from BUSY-W to UNC and the waiting request proceeds. -/
  | ownedWriteback
  /-- PROXY_EVICTION (R231): A replica or owned copy at a proxy slice is evicted after writing back its dirty bytes, updating the home's sharer set. -/
  | proxyEviction
  /-- REPLICATION_INTERVAL_END (R234): A region's request count reaches 65,536, so its adaptive replication degree is updated and its counts restart. -/
  | replicationIntervalEnd
  /-- COMMAND_FAULT_DELIVERY (R295): A pending fault of a failed engine command, or of a failed peer store, is delivered when the chosen path next starts a clause at user level. -/
  | commandFaultDelivery
  /-- SQPUT_RESUME (R144): A waiting SQPUT finds room for all its records and appends them, or raises STAGEQ if its consumer has finished. -/
  | sqputResume
  /-- SQGET_RESUME (R144): A waiting SQGET is earliest in line and finds enough records, or an ended queue, so it takes records and writes its count. -/
  | sqgetResume
  /-- TAG_COMPLETE (R153): Every lane of a join tag has arrived or ended, so its entries are popped and the arrived lanes continue as one path at the join address. -/
  | tagComplete
  /-- REGANG_COMPLETE (R157): Every live lane of the gang is AT REGANG at one address, so the gang merges, copies its G registers and continues as one path. -/
  | regangComplete
  /-- CONTINUATION_GANG_LAUNCH (R160): A lift group holds 4S entries while S slices and a gang index are free, so the lift launches a continuation gang. -/
  | continuationGangLaunch
  /-- LIFT_FLUSH (R161): The workgroup holds no live lane while the lift holds entries, so every partial group is launched in ascending key order. -/
  | liftFlush
  /-- GANG_FORM_COMPLETE (R272): Every live lane of a gang waits at one BARARR or BARSYNC, so the instruction takes effect once for the gang. -/
  | gangFormComplete
  /-- BARRIER_WAIT_END (R273): A BARSYNC or BARWAIT wait ends when its generation has completed, writing P and acquiring. -/
  | barrierWaitEnd
  /-- BATCH_WAIT_END (R278): A WAITB finds its batches complete, writes P, optionally clears the errors, and acquires at DEVICE scope. -/
  | batchWaitEnd
  /-- BEACON_WAKE (R267): A write reaches the home slice of a watched word and the condition holds, or the beacon table overflows, so a WAITC wakes and writes P. -/
  | beaconWake
  /-- CREW_FORM (R300): The last member arrives at the rendezvous latch and the crew forms as one command, with its barrier reservation made. -/
  | crewForm
  /-- RESERVATION_ACCEPT (R302): A reservation-table entry frees, so a waiting MAT, chain or step command is accepted and ASYNC falls. -/
  | reservationAccept
  /-- MATRIX_PASS (R302): The matrix engine grants one pass to an entry and performs it: an MMA or MJOB pass, ACCZ, DRAIN, or a chain contraction step. -/
  | matrixPass
  /-- ENGINE_COMMAND_COMPLETE (R314): A MAT, chain or step command completes or fails, performs its writes at DEVICE scope, updates its batch and arrives on its barrier. -/
  | engineCommandComplete
  /-- COPY_COMPLETE (R296): A copy command completes or fails, performs its writes at DEVICE scope, lowers its batch and arrives on its barrier. -/
  | copyComplete
  /-- FRAGMENT_APPLY (R352): A posted fragment becomes eligible at its lantern and its method runs for each covered sample, in key order. -/
  | fragmentApply
  /-- TARGET_SEAL_COMPLETE (R349): Every order entry of a SEALING target is resolved, so the seal method runs, read-only lines are dropped, and the target becomes SEALED. -/
  | targetSealComplete
  /-- TARGET_WAIT_END (R362): A TGTOPEN or TGTWAIT wait ends as the target state changes, writing P and acquiring where stated. -/
  | targetWaitEnd
  /-- PRIMITIVE_BINNED (R368): The binner snaps, culls and records a PRIM issue's triangles, releasing the waiting path. -/
  | primitiveBinned
  /-- PARTIAL_RENDER (R373): A triangle does not fit in bin memory, so every bin is rasterised, target lines are written back and bin memory is emptied. -/
  | partialRender
  /-- FRAGMENT_PASS_START (R372): A fragment pass starts: FRAGDESC is checked again and the bins are taken in order for rasterisation. -/
  | fragmentPassStart
  /-- RASTER_EMIT (R372): The rasteriser emits a fragment, making its order entries in bound targets and packing it into a fragment workgroup. -/
  | rasterEmit
  /-- WALKER_GANG_START (R381): The ray queue is non-empty and S slices and a gang index are free, so a walker gang starts at WALKER. -/
  | walkerGangStart
  /-- MBXGET_RESUME (R380): A waiting MBXGET finds every active lane with a completed tag or none outstanding, so it takes the tags and acquires. -/
  | mbxgetResume
  /-- POLNU_PORT_DOWN (R398): A Polnu Link port that cannot recover is marked down and its traffic fails. -/
  | polnuPortDown
  /-- PEER_REQUEST_RECEIVED (R399): A request from a peer arrives and is served at its home slice if a window admits it, otherwise answered with NAK. -/
  | peerRequestReceived
  /-- PEER_READ_DATA (R400): RDATA flits of a peer read arrive and complete the read. -/
  | peerReadData
  /-- PEER_WRITE_ACK (R400): A WACK arrives, completing a peer write or atomic at the peer's ordering point. -/
  | peerWriteAck
  /-- PEER_NAK (R401): A peer answers a request with NAK, failing the access as R401 states. -/
  | peerNak
  /-- PEER_TIMEOUT (R401): No answer to a peer request arrives within 2^25 cycles, so the access fails. -/
  | peerTimeout
  /-- VF_FUNCTION_LEVEL_RESET (R403): A function-level reset of a virtual function destroys its contexts, resets its queues, clears its key slots and discards its page requests. -/
  | vfFunctionLevelReset
  /-- MSIX_UNMASK (R403): A masked MSI-X vector with its pending bit set is unmasked and its message is sent. -/
  | msixUnmask
  /-- ATS_RESPONSE (R404): A host ATS or PRI response arrives: success restarts translation, and failure is a refusal. -/
  | atsResponse
  /-- ATS_INVALIDATION (R405): A host ATS invalidation drops covered translations package-wide and completes once the requests that used them are sent. -/
  | atsInvalidation
  /-- HOST_ERROR_COMPLETION (R406): A host read or atomic completes with Unsupported Request or Completer Abort, delivered as PROT with DETAIL 10. -/
  | hostErrorCompletion
  /-- READ_ONLY_DROP_END (R409): Thirty-two cycles after a FENCEX drop of a core's read-only cache began, the drop ends and the RO reads of every gang that stalled during it go on and miss. -/
  | readOnlyDropEnd
  deriving DecidableEq, Repr

end Sys2Proof
end

