-- ==== Sys2Proof/Machine/State.lean ====
section
/-! DEFINITION. The state of the VXZ-512: every piece the manual gives the package, its contexts, queues, launches, workgroups,
gangs, paths, caches, engines, targets, frames, rays and links, as plain data. Registers that software sees are bit vectors in
banks that read 0 where nothing is listed; the rest are records in finite maps keyed by number. -/

namespace Sys2Proof.Machine

/-- A bank of n-bit registers; an unlisted register holds 0. -/
abbrev Bank (n : Nat) := AMap (BitVec n)

/-- Memory: bytes by address, addresses rising, no listed byte 0 (R22, log entry 5). Device memory is at its physical address,
host memory at 2^53 plus the host address, the weight store at 2^54 plus die · 2^30 plus offset. -/
abbrev Memory := List Host.Cell

/-- The canonical form of a bank: keys rise strictly, and no listed register holds 0. -/
def Bank.wf {n : Nat} (m : Bank n) : Bool := aSorted m && m.all fun e => e.2 != 0

/-- The canonical form of memory: addresses rise strictly, and no listed byte is 0, the value of an unlisted one. -/
def Memory.wf (m : Memory) : Bool := Bank.wf (n := 8) m

/-- The package's states (R22). -/
inductive PkgState where
  | off | rom | loading | training | selftest | service | safe
  deriving DecidableEq, Repr

/-- What the package answers to a peer (R398, R399): data, an acknowledgement with an atomic's old value, or a refusal. -/
inductive PeerAnswer where
  | data (bytes : List Nat)
  | wack (old : Option Nat)
  | nak
  deriving DecidableEq, Repr

/-- The package: its state, PKGSTAT fields, flash, root of trust, log counters, links (R20 to R24, R398, R399). -/
structure Package where
  /-- R22. -/
  state : PkgState
  /-- PKGSTAT.FAILSTAGE (R23). -/
  failStage : Nat
  /-- PKGSTAT.DIE (R23). -/
  failDie : Nat
  /-- PKGSTAT.UNIT (R23). -/
  failUnit : Nat
  /-- Bytes of image slot A, none when no image was written (R20, R21). -/
  slotA : Option (List Nat)
  /-- Bytes of image slot B (R20, R21). -/
  slotB : Option (List Nat)
  /-- The running slot: 0 A, 1 B (R21, R24). -/
  running : Option Nat
  /-- Minimum version of the root of trust (R21). -/
  minVersion : Nat
  /-- Hash of the accepted key (R21). -/
  keyHash : Nat
  /-- Ports of the Polnu Link that are up, a mask of 12 (R22, R398). -/
  portsUp : Nat
  /-- Ports configured as reaching each fabric id (R399). -/
  routes : AMap (List Nat)
  /-- This device's fabric id, which its requests carry (R398); the module operating system sets it (log entry 3). -/
  fabricId : Nat
  /-- Export windows, up to 16: base, size, reader ids, writer ids (R399). -/
  windows : List (Nat × Nat × List Nat × List Nat)
  /-- Log: failed peer and host accesses (R401). -/
  failedAccesses : Nat
  /-- Log: lost queue records (R130). -/
  lostRecords : Nat
  /-- Log: errors counted per die and storage kind (R27, R28), keyed die · 16 + kind. -/
  errorCounts : AMap Nat
  /-- Times the physical function's error vector was raised (R22, R130, R401, log entry 94). -/
  errorVector : Nat
  /-- Answers sent to peers in order, each with the peer's fabric id (R399, R400). -/
  answers : List (Nat × PeerAnswer)
  /-- Module memory, by offset (R20, R22). -/
  moduleMem : Memory
  /-- A poisoned unit of package-level state has been consumed: die and unit of the machine check that is due (R28). -/
  failing : Option (Nat × Nat)
  deriving DecidableEq, Repr

/-- A partition (R98, R234). -/
structure Partition where
  dense : Bool
  clusters : Nat
  traise : Nat
  tlower : Nat
  deriving DecidableEq, Repr

/-- The clock stretch of one cluster (R25): whether its supply is still below the threshold, the stretched cycles of the stretch so far,
and those since its last trip. -/
structure Droop where
  low : Bool
  run : Nat
  last : Nat
  deriving DecidableEq, Repr

/-- Context states (R100). -/
inductive CtxState where
  | free | ready | running | preempting | saved | faulted | destroyed
  deriving DecidableEq, Repr

/-- A fault as it is delivered (R107, R112). -/
structure Trap where
  code : Nat
  lanes : Nat
  detail : Nat
  word : Nat
  two : Bool
  addr : Nat
  deriving DecidableEq, Repr

/-- A context fault record (R113). -/
structure FaultRecord where
  hostErr : Nat
  core : Nat
  info : Nat
  pc : Nat
  addr : Nat
  code : Nat
  deriving DecidableEq, Repr

/-- A context (R97 to R104). -/
structure Context where
  state : CtxState
  /-- Level-1 table (R103, R206). -/
  root : Nat
  part : Nat
  occLimit : Nat
  pasid : Nat
  pasidEn : Bool
  /-- Weight-store windows, base and size per die (R323). -/
  windows : List (Nat × Nat)
  /-- Service policy: 0 REFUSE, 1 ARMED, 2 HOST (R104). -/
  policy : Nat
  /-- The context fault record while FAULTED (R113). -/
  record : Option FaultRecord
  deriving DecidableEq, Repr

/-- A request for a missing translation (R213, R104, R404). Key of the page: virtual 64 KiB page, or host page. -/
structure ServiceReq where
  ctx : Nat
  core : Nat
  /-- 64 KiB-aligned virtual address (R213), or 4 KiB host page (R404). -/
  page : Nat
  host : Bool
  /-- Bit 0 read, 1 write, 2 fetch, over the waiting lanes (R104). -/
  access : Nat
  /-- Whether the module operating system has taken it: a record written and the answer awaited (R104). -/
  taken : Bool
  /-- The answer, once known: served or refused (R213). -/
  answer : Option Bool
  deriving DecidableEq, Repr

/-- An entry of a translation cache (R212, R404): pages of 64 KiB, 64 MiB, or a 4 KiB host page. -/
structure TlbEntry where
  core : Nat
  ctx : Nat
  va : Nat
  size : Nat
  leaf : Nat
  deriving DecidableEq, Repr

/-- A host translation obtained by ATS, in a core's translation cache (R212, R213, R404). -/
structure AtsEntry where
  core : Nat
  ctx : Nat
  page : Nat
  target : Nat
  deriving DecidableEq, Repr

/-- Why a queue is held (R128). -/
inductive Hold where
  | none | waitv | barrier
  /-- A WSTORE that waits for the context's kernels (R125). -/
  | wstore
  /-- A LAUNCH behind a WSTORE that is held or runs (R125). -/
  | launch
  deriving DecidableEq, Repr

/-- Queue states (R128). -/
inductive QueueState where
  | disabled | idle | active | blocked | error
  deriving DecidableEq, Repr

/-- What a started packet still awaits before it completes (R125). -/
inductive PacketWait where
  | done
  | launch (id : Nat)
  /-- A FRAME whose queue's old frame is completed first (R125, R365). -/
  | frame
  | seal (desc : Nat)
  | waitv
  /-- A WSTORE that has copied this many lines (R125, R128). -/
  | wstore (lines : Nat)
  deriving DecidableEq, Repr

/-- A started packet (R125): number of its start, ring offset, header, what it waits for. -/
structure Packet where
  seq : Nat
  off : Nat
  header : Nat
  body : List Nat
  wait : PacketWait
  deriving DecidableEq, Repr

/-- A queue's state beside its registers (R121, R128). -/
structure Queue where
  state : QueueState
  hold : Hold
  packets : List Packet
  nextSeq : Nat
  /-- The open frame (R365). -/
  frame : Option Nat
  /-- Page whose service the queue awaits (R126): its key, and the packet's offset, header and address should it be refused. -/
  waiting : Option (Nat × Nat × Nat × Nat)
  /-- A peer's answer to the access of the queue's packet, which has still to take it (R125, R400). -/
  answer : Option Nat
  deriving DecidableEq, Repr

/-- The fields of a launch descriptor (R131). -/
structure LaunchDesc where
  codeAddr : Nat
  codeWords : Nat
  nside : Nat
  sideAddr : Nat
  dataAddr : Nat
  constAddr : Nat
  nx : Nat
  ny : Nat
  nz : Nat
  vregs : Nat
  gang : Nat
  stages : Nat
  wgSize : Nat
  scratch : Nat
  raySlots : Nat
  accTiles : Nat
  deriving DecidableEq, Repr

/-- A side-table entry as far as the hardware uses it (R68, R69). -/
structure SideEntry where
  addr : Nat
  vlive : Nat
  glive : Nat
  plive : Nat
  deriving DecidableEq, Repr

/-- A running launch (R131 to R136, R372). -/
structure Launch where
  ctx : Nat
  queue : Nat
  /-- The packet that owns it (R372). -/
  packet : Nat
  prio : Nat
  desc : LaunchDesc
  side : List SideEntry
  /-- The next pipeline set to start (R136). -/
  nextSet : Nat
  /-- The fragment pass this launch runs, for a fragment launch (R372). -/
  pass : Option Nat
  /-- Cores of the last set placed, by stage: the room that its next set may need (R139). -/
  room : List Nat
  deriving DecidableEq, Repr

/-- A barrier (R268) and whether its generations held an engine arrival (R274), bit i for generation GEN − i. -/
structure Barrier where
  gen : Nat
  errHist : Nat
  err : Bool
  res : Nat
  arrived : Nat
  count : Nat
  engine : Bool
  /-- Bit i set: generation GEN − 1 − i held an engine arrival (R274). -/
  engineHist : Nat
  deriving DecidableEq, Repr

/-- An entry of the lift (R159). -/
structure LiftEntry where
  key : Nat
  payload : List Nat
  cont : Nat
  deriving DecidableEq, Repr

/-- A gang of the lift that waits for its slices and its index (R161). -/
structure LiftGang where
  slices : Nat
  entries : List LiftEntry
  deriving DecidableEq, Repr

/-- An incoming stage queue (R141): records of 16 words, producer gangs that have not closed it, waiting paths in order. -/
structure StageQueue where
  records : List (List Nat)
  openGangs : List Nat
  waiters : List Nat
  deriving DecidableEq, Repr

/-- Metadata of an accumulator tile (R88, R297). -/
structure Tile where
  anchor : Int
  lost : Bool
  inv : Bool
  /-- Two bits per element (R88). -/
  smap : Nat
  /-- WRAP 0, NV 1, OF 2, UF 3, NX 4 (R297). -/
  dstat : Nat
  /-- Infinities that each element has received since it was zeroed, two bits per element, +∞ and −∞: INV depends on them whatever their
  order, also where a NaN came between (R92). -/
  infs : Nat
  deriving DecidableEq, Repr

/-- A block of a step-stream descriptor (R337). -/
structure StepBlock where
  mt : Nat
  nt : Nat
  kt : Nat
  sigBase : Nat
  outBase : Nat
  deriving DecidableEq, Repr

/-- Step state of a workgroup (R339). -/
structure StepState where
  isOpen : Bool
  addr : Nat
  blocks : List StepBlock
  period : Nat
  tau : Nat
  primed : Nat
  stepNo : Nat
  refresh : Bool
  done : Nat
  /-- One map per block, bit m · NT + n (R339). -/
  maps : AMap Nat
  deriving DecidableEq, Repr

/-- What kind of gang (R147, R160, R372, R381). -/
inductive GangKind where
  | placed | continuation | walker | fragment
  deriving DecidableEq, Repr

/-- An entry of a divergence stack (R152). Masks are lanes of the gang. -/
structure StackEntry where
  slice : Nat
  tag : Nat
  isJoin : Bool
  group : Nat
  /-- ARRIVED of a JOIN entry, DEFER of a PEND entry. -/
  lanes : Nat
  /-- Join address, or the header of the resume position. -/
  addr : Nat
  word : Nat
  cls : Nat
  n : Nat
  sup : Bool
  /-- Pushed by the park path (R152). -/
  park : Bool
  /-- The record of a BARSYNC that the deferred lanes keep through a handler (R416). -/
  barsync : Option (Nat × Nat)
  deriving DecidableEq, Repr

/-- A position inside a clause (R56). -/
structure Position where
  hdr : Nat
  word : Nat
  cls : Nat
  n : Nat
  deriving DecidableEq, Repr

/-- Lanes waiting by one JOIN or REGANG issue (R150, R157). -/
structure WaitIssue where
  lanes : Nat
  pos : Position
  sup : Bool
  regang : Bool
  /-- Address of the REGANG, or tag of the JOIN. -/
  key : Nat
  /-- TRAPBASE when it issued (R109). -/
  base : Nat
  /-- The record of a BARSYNC that its lanes keep through a handler (R416). -/
  barsync : Option (Nat × Nat)
  deriving DecidableEq, Repr

/-- A park record of one slice (R155, R214). -/
structure ParkRecord where
  slice : Nat
  pos : Position
  sup : Bool
  /-- Lane, address and the page it awaits. -/
  lanes : List (Nat × Nat × Nat)
  /-- TRAPBASE when their instruction issued (R109). -/
  base : Nat
  /-- The record of a BARSYNC that the lanes keep through a handler (R416). -/
  barsync : Option (Nat × Nat)
  deriving DecidableEq, Repr

/-- A park group (R155, R214): lanes at one position, and the refusal it enters the handler with. -/
structure ParkGroup where
  slice : Nat
  pos : Position
  sup : Bool
  lanes : Nat
  refused : Option Trap
  /-- TRAPBASE when their instruction issued (R109). -/
  base : Nat
  /-- The record of a BARSYNC that the lanes keep through a handler (R416). -/
  barsync : Option (Nat × Nat)
  deriving DecidableEq, Repr

/-- A fault of a failed command or failed store, pending for a path of a gang (R295, R401). -/
structure PendingFault where
  order : Nat
  lanes : Nat
  trap : Trap
  /-- TRAPBASE when the instruction issued (R109). -/
  base : Nat
  deriving DecidableEq, Repr

/-- A copy of an A operand (R308): width code, whether scales are held, active lanes, registers by lane. -/
structure AOperand where
  width : Nat
  sreg : Bool
  lanes : Nat
  rows : List (List Nat)
  deriving DecidableEq, Repr

/-- A lane's fragment (R372): key, pixel, barycentrics, covered samples. -/
structure FragLane where
  lane : Nat
  psn : Nat
  pixel : Nat
  b1 : Nat
  b2 : Nat
  samples : Nat
  deriving DecidableEq, Repr

/-- State of a mailbox tag (R380): idle when absent; outstanding or completed with its slot. -/
structure MailTag where
  lane : Nat
  tag : Nat
  slot : Nat
  completed : Bool
  deriving DecidableEq, Repr

/-- A gang (R147 to R161, R277). -/
structure Gang where
  wg : Nat
  idx : Nat
  kind : GangKind
  /-- Workgroup slices it was given; slice i of the gang is entry i (R147). -/
  slices : List Nat
  sched : Nat
  /-- Lanes that have not ended (R150). -/
  live : Nat
  stack : List StackEntry
  waits : List WaitIssue
  parks : List ParkRecord
  groups : List ParkGroup
  nextTag : Nat
  /-- Number of the open batch (R277). -/
  openBatch : Nat
  /-- Batches recorded as ended in error (R277). -/
  errBatches : List Nat
  faults : List PendingFault
  latch : Option AOperand
  frags : List FragLane
  mail : List MailTag
  /-- Lane stacks, keyed lane: depth and the hidden entries, top last (R384). -/
  lanes : AMap (Nat × List Nat)
  /-- A walker gang that has issued a RAYGET (R381). -/
  rayget : Bool
  /-- The path that began the gang's last gang-forming wait, unless lanes have ended since (R272). -/
  lastForm : Option Nat
  /-- The gang has closed its workgroup's stage queue by SQEND (R144). -/
  closed : Bool
  /-- Instructions that each slice has issued since the pre-emption request (R69). -/
  since : List Nat
  deriving DecidableEq, Repr

/-- What a path waits for (R140). -/
inductive Wait where
  /-- Nothing: it may issue. -/
  | none
  /-- Translation service of these pages; the instruction or fetch is made again (R115, R155). -/
  | service (pages : List Nat)
  /-- Gang-forming wait of BARARR or BARSYNC (R272). -/
  | form
  /-- Generation wait of BARWAIT or BARSYNC (R273). -/
  | barrier (b t pd : Nat)
  /-- WAITB (R278). -/
  | batch (k pd : Nat) (clr : Bool)
  /-- BATCH at the last batch number (R278). -/
  | allBatches
  /-- Beacon of a WAITC (R266). -/
  | beacon (pd scope : Nat)
  /-- Rendezvous latch (R300). -/
  | latch
  /-- A command that its engine has not accepted (R302). -/
  | command (id : Nat)
  | sqput
  | sqget
  /-- TGTOPEN, TGTWAIT (R362). -/
  | target
  /-- A POST whose fragments are not all admitted (R353): lanes left, and the fault its other lanes met (R360). -/
  | admitting (left : List Nat) (fault : Option Trap)
  /-- A PRIM not accepted by the binner (R367). -/
  | binner
  /-- MBXGET (R380). -/
  | mailbox
  /-- Release part of a fence or fencing instruction (R257, R258). -/
  | fence
  /-- Earlier accesses of its lanes, which its own has to follow (R246, R253). -/
  | order
  /-- Its turn in the tile order, taken at issue (R313, R340). -/
  | tile (turn : Nat)
  /-- YIELD (R166): issued instructions of its scheduler when it began. -/
  | yield
  /-- A publication or atomic at its home slice (R262, R393). -/
  | home
  /-- A drop of the read-only cache in progress (R409). -/
  | roDrop
  deriving DecidableEq, Repr

/-- A path (R147): lanes of one gang that share a position and issue together. -/
structure Path where
  gang : Nat
  lanes : Nat
  /-- Slices in which it is in slot 1 (R147). -/
  slot1 : Nat
  park : Bool
  pos : Position
  sup : Bool
  wait : Wait
  /-- The instruction the wait belongs to. -/
  cur : Option Instr
  /-- TRAPBASE when that instruction issued (R109). -/
  base : Nat
  /-- Pages whose service was refused for the instruction at the position (R213, R214). -/
  refused : List Nat
  /-- Lanes that alone issue the next instruction, after TRAPRET (R116). -/
  replay : Option Nat
  /-- Faults that wait for the slice's other path to leave supervisor level, each with TRAPBASE when it was raised (R109, R111). -/
  pending : List (Trap × Nat)
  /-- Generation joined by a BARSYNC, and that BARSYNC's address (R416). -/
  barsync : Option (Nat × Nat)
  /-- Consecutive scheduler cycles ready and not chosen (R140). -/
  starve : Nat
  starving : Bool
  /-- The YIELD bit of the clause whose last instruction it issued last: another ready path is preferred for the next issue slot (R53). -/
  prefer : Bool
  /-- Stopped for pre-emption (R117). -/
  stopped : Bool
  deriving DecidableEq, Repr

/-- The wait-mask counts (R51). -/
inductive Count where
  | loads | stores | xpipe | matreg | rayt | async
  deriving DecidableEq, Repr

/-- One lane's part of an access in flight: bytes at a physical address, the value stored or loaded. -/
structure LaneAccess where
  lane : Nat
  va : Nat
  pa : Nat
  size : Nat
  value : Nat
  done : Bool
  /-- Request type after the page's default (R64, R218). -/
  rt : Nat
  leaf : Nat
  deriving DecidableEq, Repr

/-- Kinds of work in flight (R244, R51). -/
inductive OpKind where
  | load | uload | store | atom | xpipe | ray | sample | mailbox
  deriving DecidableEq, Repr

/-- An instruction's work in flight: its accesses, the registers it will write, its count and lookahead. -/
structure Op where
  kind : OpKind
  gang : Nat
  ctx : Nat
  path : Nat
  lanes : Nat
  /-- Lanes of the path that issued it, whose slices take its flags (R189). -/
  pathLanes : Nat
  /-- TRAPBASE when it issued (R109). -/
  base : Nat
  instr : Instr
  count : Option Count
  /-- Further instructions the path may issue (R66). -/
  ahead : Option Nat
  rt : Nat
  core : Nat
  accesses : List LaneAccess
  /-- V registers to write: bank key and value. -/
  writes : List (Nat × Nat)
  flags : Nat
  /-- Requests at home slices or links not yet served. -/
  left : Nat
  /-- Lanes that failed: lane, rank of the check, code, DETAIL, address (R211). -/
  failed : List (Nat × Nat × Nat × Nat × Nat)
  deriving DecidableEq, Repr

/-- Who holds a word in an L1 (R225 to R227, R236). -/
inductive L1Kind where
  | own | si | nc
  deriving DecidableEq, Repr

/-- A word of a line in an L1: data, per-byte dirty mask, kind; keyed core · 2^56 + address / 4. -/
structure L1Word where
  data : BitVec 32
  /-- For each byte the fill or store that brought it, by the state's count; 0 for a byte not held (R225, R244). -/
  since : List Nat
  dirty : Nat
  /-- Bytes of the widest store whose dirty bytes it holds: what goes to memory together (R219, R244). -/
  unit : Nat
  kind : L1Kind
  ctx : Nat
  deriving DecidableEq, Repr

/-- An OWN span of a line in an owner map (R226), oldest grant first; recalled when marked. Its holder is a core, or 512 plus the die
for a proxy slice in the home slice's map. -/
structure Span where
  core : Nat
  first : Nat
  len : Nat
  recalled : Bool
  deriving DecidableEq, Repr

/-- Directory states of a line at its home (R230). -/
inductive DirState where
  | unc
  | busyR (e : Nat) (s : Nat)
  | busyX (e : Nat)
  | busyC (left : Nat)
  | busyW (e : Nat)
  | rsh (s : Nat)
  | rex (e : Nat)
  deriving DecidableEq, Repr

/-- What a request at a home slice does (R227, R228, R263). -/
inductive HomeKind where
  | read | own | write | atom
  deriving DecidableEq, Repr

/-- A request of a lane at a home slice (R228). -/
structure HomeReq where
  op : Nat
  lane : Nat
  kind : HomeKind
  core : Nat
  die : Nat
  ctx : Nat
  first : Nat
  len : Nat
  pin : Nat
  /-- Request type (R64, R227); 6 for an engine's, which no L1 allocates. -/
  rt : Nat
  /-- Bytes to write, with their addresses (R225). -/
  bytes : List (Nat × Nat)
  /-- Units of them that stood poisoned in the L1 (R28): address / 8. -/
  bad : List Nat
  /-- Gang on whose behalf a write is made. -/
  gang : Nat
  deriving DecidableEq, Repr

/-- A line's home state: directory, the home slice's owner map, queue of requests, and the owner map of the proxy slice of the die that
owns the line (R226, R230, R231). -/
structure Line where
  dir : DirState
  spans : List Span
  queue : List HomeReq
  proxy : List Span
  deriving DecidableEq, Repr

/-- Counts of a region (R234, R235). -/
structure Region where
  degree : Nat
  rread : Nat
  wcol : Nat
  requests : Nat
  lastRread : Nat
  lastWcol : Nat
  intervals : Nat
  deriving DecidableEq, Repr

/-- A line in the shared cache of a die (R238), least recently used first: the context that allocated it, whether in state P, and
whether an ST fill marked it as the first victim of its set (R227). -/
structure CacheLine where
  die : Nat
  line : Nat
  ctx : Nat
  peer : Bool
  firstVictim : Bool
  deriving DecidableEq, Repr

/-- A line of a core's read-only cache (R255), most recently used last. -/
structure RoLine where
  core : Nat
  line : Nat
  ctx : Nat
  bytes : List Nat
  deriving DecidableEq, Repr

/-- A node of a core's node cache (R386), most recently used last. -/
structure NodeLine where
  core : Nat
  addr : Nat
  ctx : Nat
  bytes : List Nat
  deriving DecidableEq, Repr

/-- An armed beacon (R265 to R267). -/
structure Beacon where
  path : Nat
  addr : Nat
  size : Nat
  cond : Nat
  value : Nat
  /-- Woken, and whether with r true. -/
  woken : Option Bool
  deriving DecidableEq, Repr

/-- A tensor descriptor as read (R280). -/
structure Desc where
  addr : Nat
  base : Nat
  kind : Nat
  fmt : Nat
  rank : Nat
  block : Nat
  dims : List Nat
  strides : List Int
  scale : Nat
  deriving DecidableEq, Repr

/-- A format block as read (R304). -/
structure FormatBlock where
  addr : Nat
  afmt : Nat
  bfmt : Nat
  block : Nat
  anchor : Int
  ascale : Nat
  ascol : Nat
  bk0 : Nat
  bn0 : Nat
  deriving DecidableEq, Repr

/-- A job card as read (R311). -/
structure JobCard where
  addr : Nat
  zero : Bool
  step : Bool
  stepId : Nat
  ct0 : Nat
  am0 : Nat
  ak0 : Nat
  bk0 : Nat
  bn0 : Nat
  cms : Nat
  /-- COUNT, DAM, DAK, DBK, DBN, DCT per level. -/
  levels : List (Nat × Int × Int × Int × Int × Int)
  deriving DecidableEq, Repr

/-- A chain descriptor as read (R328), with the bonds and modes taken at issue (R334). -/
structure Chain where
  addr : Nat
  ncore : Nat
  wfmt : Nat
  bfmt : Nat
  anchor : Int
  ping : Nat
  pong : Nat
  cap : Nat
  stat : Nat
  cores : List Nat
  bonds : List Nat
  modes : List (Nat × Nat)
  deriving DecidableEq, Repr

/-- One contraction step of an issued chain command (R330, R331). -/
structure ChainStep where
  core : Nat
  ascending : Bool
  mode : Nat
  side : Nat
  batch : Nat
  lo : Nat
  hi : Nat
  deriving DecidableEq, Repr

/-- A member of a crew (R299, R306): its gang, C tile and A operand. -/
structure Member where
  gang : Nat
  lanes : Nat
  tile : Nat
  a : AOperand
  /-- A came from the gang's reuse latch, and its registers were not read (R308). -/
  latched : Bool
  /-- REUSE: the latch keeps A (R308). -/
  reuse : Bool
  deriving DecidableEq, Repr

/-- What a command does (R284, R309 to R320, R334, R344). -/
inductive CmdBody where
  | copy (src dst : Desc)
  | gather (src dst : Desc) (rows : List Nat)
  | scatter (src dst : Desc) (rows : List Nat)
  | quant (src row col : Desc)
  | encrypt (plain pkz : Desc) (key stream first : Nat)
  | decrypt (pkz plain : Desc) (key stream first : Nat)
  | mma (fmt : FormatBlock) (b : Desc) (members : List Member)
  | mjob (fmt : FormatBlock) (card : JobCard) (a b : Desc) (members : Nat)
  | accz (tile : Nat) (anchor : Int)
  | drain (tile org : Nat) (dst : Desc) (fmt mode : Nat) (zero werr : Bool)
  | chain (d : Chain) (steps : List ChainStep)
  | stepBegin (addr : Nat)
  | stepEnd
  deriving DecidableEq, Repr

/-- A member that waits in the rendezvous latch (R300): its path and gang, its instruction, its crew word, the bytes it is compared
by (format block, and job card), what it would run alone, its issuing lanes, and what its gang's A latch becomes (R308). -/
structure LatchMember where
  path : Nat
  gang : Nat
  instr : Instr
  word : Nat
  bytes : List Nat
  body : CmdBody
  lanes : Nat
  deriving DecidableEq, Repr

/-- A workgroup (R134 to R138). -/
structure Workgroup where
  ctx : Nat
  launch : Nat
  n : Nat
  stage : Nat
  x : Nat
  y : Nat
  z : Nat
  /-- Core it is placed on, or was placed on when its context was saved (R119). -/
  core : Option Nat
  /-- Slices held by no live gang (IDLE), of its WGSIZE · S (R149). -/
  idle : List Nat
  lift : List LiftEntry
  liftGangs : List LiftGang
  /-- The stage queue it consumes, stage 1 upward (R141). -/
  incoming : StageQueue
  barriers : List Barrier
  /-- BD0 to BD15 (R326). -/
  bonds : List Nat
  /-- MD0 to MD15 (R326). -/
  modes : List Nat
  step : StepState
  /-- The forming crew of the rendezvous latch: members that have arrived, in order (R300). -/
  latch : List LatchMember
  rayQueue : List Nat
  /-- All slices released: every lane has ended and nothing waits in the lift or the ray queue (R138). -/
  finished : Bool
  deriving DecidableEq, Repr

/-- An issued engine command (R285, R296, R302). Its key in the map is its issue order. -/
structure Cmd where
  ctx : Nat
  wg : Nat
  core : Nat
  instr : Instr
  body : CmdBody
  /-- TRAPBASE when it issued (R109). -/
  base : Nat
  /-- Gangs that issued it, each with the batch that it joined at acceptance (R277, R302), 0 before, and the lanes that issued it. -/
  owners : List (Nat × Nat × Nat)
  bar : Option Nat
  accepted : Bool
  passedOver : Nat
  /-- Next element, block, row or pass (R283, R294). -/
  next : Nat
  /-- Set once all elements or passes are done or it has failed. -/
  ended : Bool
  failed : Bool
  /-- Fault to deliver, when the failure has one (R295). -/
  trap : Option Trap
  /-- Page whose service it awaits, and the address that needs it (R294). -/
  page : Option (Nat × Nat)
  /-- Flags gathered for the status word or DSTAT (R320, R331). -/
  flags : Nat
  /-- What the engine has read and still uses: the B window of an MMA or of the point of a job's loop nest that its crew is at (R307), element
  codes, k fastest, and scale bytes; or the codes of CPYQ's source tile (R288). -/
  fetched : Option (List Nat × List Nat)
  /-- Units of the weight store that the step in progress has read (R240): address and bytes. -/
  units : List (Nat × List Nat)
  /-- What precedes a job's first pass has been done (R312, R341). -/
  planned : Bool
  /-- The contraction step in progress (R334). -/
  step : Nat
  /-- Passes of that step that have been granted (R303). -/
  pass : Nat
  /-- Skip decisions and changed tiles of a step-tracked job (R341). -/
  skips : List (Nat × Nat)
  changed : List (Nat × Nat × List Nat)
  deriving DecidableEq, Repr

/-- An order entry at a lantern (R351, R352). -/
structure OrderEntry where
  key : Nat
  seq : Nat
  gang : Nat
  lane : Nat
  x : Nat
  y : Nat
  samples : Nat
  /-- The admitted fragment that carries it (R407): slot, colour values, depth. -/
  frag : Option (Nat × List Nat × Nat)
  /-- The launch whose lane posted it (R125). -/
  launch : Nat
  /-- TRAPBASE when it was posted, for a fault of its lantern (R28, R109). -/
  base : Nat
  deriving DecidableEq, Repr

/-- A target descriptor's fields (R346). -/
structure TargetDesc where
  flags : Nat
  samples : Nat
  ncolor : Nat
  width : Nat
  height : Nat
  cfmt : List Nat
  color : List Nat
  depth : Nat
  cover : Nat
  methods : Nat
  pmask : Nat
  sealm : Nat
  levels : Nat
  clearc : List Nat
  clearz : Nat
  consts : List (List Nat)
  deriving DecidableEq, Repr

/-- A captured target (R347, R350). -/
structure Target where
  ctx : Nat
  addr : Nat
  desc : TargetDesc
  /-- Ops of each slot, 32 each; empty for slots not named. -/
  ops : List (List Nat)
  /-- Queue whose open frame it is bound to (R350). -/
  bound : Option Nat
  sealing : Bool
  entries : List OrderEntry
  /-- Pages whose service was refused to its lanterns (R213). -/
  refused : List Nat
  /-- Physical lines that its planes have had since OPEN: first and last of each range (R255, R349). -/
  lines : List (Nat × Nat)
  /-- Pixels on which its seal method has run, row by row (R356). -/
  sealed : Nat
  deriving DecidableEq, Repr

/-- A snapped triangle (R368), with its place in bin memory once it is recorded there (R369). -/
structure Tri where
  off : Option Nat
  key : Nat
  order : Nat
  xs : List Int
  ys : List Int
  zs : List Nat
  qs : List Nat
  a2 : Int
  deriving DecidableEq, Repr

/-- Raster state fixed by a frame's first PRIM (R367). -/
structure Raster where
  fragDesc : Nat
  width : Nat
  height : Nat
  samples : Nat
  deriving DecidableEq, Repr

/-- A PRIM issue waiting for the binner (R367, R373): path, triangles left. -/
structure PrimIssue where
  path : Nat
  packet : Nat
  raster : Raster
  tris : List Tri
  deriving DecidableEq, Repr

/-- An open frame (R365). -/
structure Frame where
  ctx : Nat
  queue : Nat
  id : Nat
  base : Nat
  size : Nat
  used : Nat
  raster : Option Raster
  /-- Triangles recorded in bin memory, as the binner recorded them: what is rasterised is the bytes found there (R365). -/
  tris : List Tri
  prims : List PrimIssue
  /-- Pages whose service was refused to its binner (R213). -/
  refused : List Nat
  deriving DecidableEq, Repr

/-- A fragment (R370, R371). -/
structure Frag where
  bin : Nat
  key : Nat
  seq : Nat
  x : Nat
  y : Nat
  mask : Nat
  z : Nat
  b1 : Nat
  b2 : Nat
  deriving DecidableEq, Repr

/-- A fragment pass (R372). -/
structure Pass where
  ctx : Nat
  /-- Queue of the packet that owns it (R372). -/
  queue : Nat
  /-- The frame whose bins it rasterises. -/
  frame : Nat
  /-- Packet that owns it, or whose launch does (R372). -/
  packet : Nat
  raster : Raster
  /-- BINBASE of its frame, and the triangles that it rasterises (R365). -/
  binBase : Nat
  tris : List Tri
  /-- Targets unbound since it was made, whose order entries it still makes (R349); it makes those of targets bound to the frame too (R351). -/
  targets : List Nat
  started : Bool
  /-- The page whose service its start awaits, and the address that needs it (R126, R372). -/
  page : Option (Nat × Nat)
  /-- The address whose service was refused to its start (R126). -/
  refused : Option Nat
  launch : Option Nat
  /-- Fragments not yet emitted, in order. -/
  todo : List Frag
  /-- Emitted fragments of the workgroup being packed. -/
  packing : List Frag
  /-- Workgroups packed but not placed: their fragments, in order. -/
  ready : List (List Frag)
  deriving DecidableEq, Repr

/-- What a request to or from a peer asks (R398, R400): bytes to read, bytes to write, or an atomic with its op and operands. -/
inductive PeerOp where
  | read (size : Nat)
  | write (bytes : List Nat)
  | atomic (op x y : Nat)
  deriving DecidableEq, Repr

/-- A request to a peer in flight (R398 to R401), keyed by tag. -/
structure PeerReq where
  /-- The operation it belongs to, and the lane; without an operation, the command, the queue or the record that sent it. -/
  op : Nat
  lane : Nat
  ctx : Nat
  addr : Nat
  ask : PeerOp
  /-- An atomic that returns no value (R261). -/
  silent : Bool
  gang : Nat
  core : Nat
  /-- Virtual address of the access, for FAULTADDR (R401). -/
  va : Nat
  /-- What its data fills on arrival: 0 the P line alone, 1 the core's L1, 2 its read-only cache, 3 nothing, since a write of the die, an acquire
  or a drop has come after it (R237, R241, R246, R409). -/
  fill : Nat
  /-- TRAPBASE when its instruction issued (R109). -/
  base : Nat
  /-- The port that carries it (R399). -/
  port : Option Nat
  /-- This device's fabric id (R398). -/
  requester : Nat
  deriving DecidableEq, Repr

/-- A publication of a node in progress (R393). -/
structure Publication where
  path : Nat
  /-- Gang and lanes that published: later paths of these lanes wait for it too (R258). -/
  gang : Nat
  lanes : Nat
  ctx : Nat
  addr : Nat
  bytes : List Nat
  /-- SEQ is odd already, and its value then. -/
  began : Option Nat
  deriving DecidableEq, Repr

/-- What a request that the device makes of the host does (R404). -/
inductive HostKind where
  | read | write | atomic
  /-- A PRI page request. -/
  | page
  deriving DecidableEq, Repr

/-- A request that the device has sent to the host (R404): the PASID it carries, the host address and the length. -/
structure HostSend where
  pasid : Option Nat
  kind : HostKind
  addr : Nat
  size : Nat
  deriving DecidableEq, Repr

/-- An ATS invalidation whose completion is due once no request in flight uses the dropped translation (R405). -/
structure Invalidation where
  ctx : Nat
  page : Nat
  /-- Host pages that the page was translated to. -/
  targets : List Nat
  deriving DecidableEq, Repr

/-- An MSI-X vector of a function (R403). -/
structure Vector where
  masked : Bool
  pending : Bool
  sent : Nat
  /-- The PASID that its message carries: that of the context whose queue raised it last (R404). -/
  pasid : Option Nat
  deriving DecidableEq, Repr

/-- A place an error can strike (R27, R28). -/
inductive ErrorPlace where
  /-- HBM or weight store, or the copy of a line that a shared cache alone holds up to date: address / 8. -/
  | mem (pa : Nat)
  /-- A die's shared cache: address / 8. -/
  | shared (die unit : Nat)
  /-- A core's L1: address / 8. -/
  | l1 (core unit : Nat)
  /-- A core's read-only cache: address / 8. -/
  | ro (core unit : Nat)
  | scratch (wg unit : Nat)
  | element (key half : Nat)
  /-- A V register of a lane. -/
  | register (gang lane reg : Nat)
  /-- A G register of a slice. -/
  | uniform (gang slice reg : Nat)
  /-- The P registers of a slice. -/
  | predicate (gang slice : Nat)
  /-- A lantern's buffer: the target, and the order entry whose fragment it holds. -/
  | lantern (target seq : Nat)
  /-- A workgroup's lift buffer. -/
  | lift (wg : Nat)
  /-- The directory entry of a line. -/
  | directory (line : Nat)
  /-- A slice's snoop filter. -/
  | snoop (slice : Nat)
  /-- A core's instruction cache or fetch: the key of the word. -/
  | fetch (core key : Nat)
  /-- Module memory: offset / 8. -/
  | moduleMem (unit : Nat)
  /-- State of the system controller. -/
  | controller
  /-- A line of host memory whose next read by an engine, a queue or a fetch the host answers with an error: address / 128 (R406, log
  entry 113). -/
  | hostRead (line : Nat)
  deriving DecidableEq, Repr

/-- A request that arrives from a peer (R399): its fabric id, the offset, and what it asks. -/
structure PeerIn where
  fabric : Nat
  off : Nat
  op : PeerOp
  deriving DecidableEq, Repr

/-- What an event is about: the operand an event's instruction reads from the state (log entry 1). -/
inductive Subject where
  | none
  /-- HBM stack that failed, die link that failed, ports trained (R22). -/
  | training (stack : Option (Nat × Nat)) (link : Option (Nat × Nat)) (ports : Nat)
  /-- Failing die and unit of self-test (R22). -/
  | selftest (failing : Option (Nat × Nat))
  /-- Die and unit (R22, R397). -/
  | unit (die unit : Nat)
  | error (place : ErrorPlace) (uncorrectable : Bool)
  /-- One number: a function, context, path, workgroup, op, command, line, region, cluster, die, core, port, as the event says. -/
  | one (a : Nat)
  | two (a b : Nat)
  | three (a b c : Nat)
  /-- Register write: function (0 physical, i + 1 virtual i), offset, value (R402). -/
  | write (fn off value : Nat)
  | peerIn (req : PeerIn)
  /-- Response to a page of a context (R404). -/
  | ats (ctx page : Nat) (answer : Option Nat)
  deriving DecidableEq, Repr

/-- One turn of the agenda (log entry 1). -/
inductive Turn where
  | event (i : Instr) (about : Subject)
  | issue (path : Nat)
  /-- An L1 evicts a word (R227). -/
  | evict (core addr : Nat)
  /-- A slice of the shared cache makes room for a context: it evicts the victim of R238. -/
  | evictLine (slice ctx : Nat)
  /-- A translation is dropped from a core's cache (R212). -/
  | dropTlb (core va : Nat)
  /-- The host writes bytes of memory (R22 of the links: host port). -/
  | hostWrite (addr : Nat) (bytes : List Nat)
  /-- The host writes bytes of device memory (R415, log entry 114). -/
  | hostPut (addr : Nat) (bytes : List Nat)
  /-- The host masks a vector (R403). -/
  | mask (fn vector : Nat)
  /-- The module operating system exports windows: base, size, reader ids, writer ids (R399). -/
  | exports (windows : List (Nat × Nat × List Nat × List Nat))
  /-- The module operating system configures the ports that reach a peer (R399). -/
  | route (fabric : Nat) (ports : List Nat)
  /-- The module operating system gives the device its fabric id (R398, R399). -/
  | fabric (id : Nat)
  /-- A publication in progress takes its next step (R393). -/
  | publish (k : Nat)
  deriving DecidableEq, Repr

/-- The whole machine. -/
structure State where
  /-- R20 to R24. -/
  pkg : Package
  /-- Mailbox registers, function · 64 + register: 0 MBCMD, 1 MBSTAT, 2 to 31 MBARG0 to 29, 32 to 63 MBRES0 to 31 (R101). -/
  mbx : Bank 64
  /-- MBCMD and the parameters that a running command was given, as written: function · 64 + register (R101). -/
  mbxRun : Bank 64
  /-- R98. -/
  parts : AMap Partition
  /-- Clusters that run stretched (R25). -/
  droops : AMap Droop
  /-- WSPHASE of each die (R240). -/
  wsphase : Bank 16
  /-- Next 64 KiB that the scrubber of a weight-store bank takes, die · 64 + bank (R27). -/
  scrub : Bank 8
  /-- Contexts, VF · 16 + number; absent: FREE (R97, R100). -/
  ctxs : AMap Context
  /-- Context-scope registers, context · 8 + 0 TRAPBASE, 1 TDTBASE, 2 WALKER, 3 DROOPCNT, 4 REPLSEL, 5 PRCOUNT (R106). -/
  ctxRegs : Bank 64
  services : List ServiceReq
  /-- Key slots, VF · 16 + slot (R291); absent: empty. -/
  keys : AMap (BitVec 256)
  /-- MSI-X vectors, function · 256 + vector (R403); absent: unmasked, nothing pending, none sent (log entry 4). -/
  vectors : AMap Vector
  /-- Words of the MSI-X windows as the host wrote them, function · 512 + word (R402, log entry 112). -/
  msix : Bank 64
  /-- Queue registers, (context · 16 + queue) · 8 + 0 QBASE, 1 QCTL, 2 QWPTR, 3 QRPTR, 4 QRECBASE, 5 QRECW (R121). -/
  queueRegs : Bank 64
  queues : AMap Queue
  /-- Records not yet written because their page awaits service: queue, key of the page, and eight 64-bit words (R130). -/
  records : List (Nat × Nat × List Nat)
  launches : AMap Launch
  wgs : AMap Workgroup
  gangs : AMap Gang
  paths : AMap Path
  /-- V registers, (gang · 32 + lane) · 128 + number (R11). -/
  v : Bank 32
  /-- G registers, (gang · 8 + slice) · 32 + number (R11, R154). -/
  g : Bank 64
  /-- P registers, (gang · 32 + lane) · 8 + number (R11). -/
  p : Bank 1
  /-- Slice-scope registers, (gang · 8 + slice) · 16 + 0 FPMODE, 1 FPSTAT, 2 TRAPPC, 3 TRAPINFO, 4 FAULTADDR, 5 to 8
  TRAPSAVE0 to 3 (R106); 9 and 10 hold the header address, and the class and N, of the clause that a fault interrupted (R56). -/
  csr : Bank 64
  /-- Accumulator elements, (workgroup · 96 + tile) · 1024 + element (R87, R297). -/
  acc : Bank 128
  /-- Tile metadata, workgroup · 96 + tile (R88, R297). -/
  tiles : AMap Tile
  /-- Scratchpad bytes, workgroup · 2^18 + offset (R221). -/
  scratch : Memory
  /-- Scratchpad bytes that earlier workgroups of a context left on a core, (context · 512 + core) · 2^18 + offset (R414). -/
  oldScratch : Memory
  mem : Memory
  /-- Poisoned 64-bit units (R28). -/
  poison : List ErrorPlace
  ops : AMap Op
  l1 : AMap L1Word
  /-- Home state of lines (physical address / 128) that differ from UNC with no span and no request (R230). -/
  lines : AMap Line
  /-- Snoop-filter entries, oldest first: slice and line (R232). -/
  snoop : List (Nat × Nat)
  /-- Counts of regions at their counter slices: counter slice · 2^40 + region (R222, R234). -/
  regions : AMap Region
  /-- Lines held by the shared cache (R223, R238). -/
  cache : List CacheLine
  ro : List RoLine
  /-- Cores whose read-only cache is being dropped (R409). -/
  roDrops : List Nat
  nodes : List NodeLine
  tlb : List TlbEntry
  ats : List AtsEntry
  /-- Requests sent to the host, in order (R404, R406). -/
  hostSent : List HostSend
  /-- Invalidations whose completion is not yet sent (R405). -/
  invals : List Invalidation
  /-- Invalidation completions sent, in order: context and page (R405). -/
  invalDone : List (Nat × Nat)
  /-- Words in the cores' instruction caches (R18, R55), keyed context · 2^64, plus 2^63 at supervisor level, plus core · 2^54, plus the
  virtual address / 4. -/
  icache : AMap (BitVec 32)
  /-- Armed beacons, oldest first (R267). -/
  beacons : List Beacon
  cmds : AMap Cmd
  /-- Captured targets, context · 2^64 + descriptor address (R347, R350). -/
  targets : AMap Target
  frames : AMap Frame
  passes : AMap Pass
  peers : AMap PeerReq
  /-- Lines of peers that could not be read for a context's lanterns and binner, whose next read of them fails (R401): context and line. -/
  far : List (Nat × Nat)
  pubs : List Publication
  /-- The model's clock: one tick for each issue and each idle turn (log entry 7). -/
  clock : Nat
  /-- The group scheduler after the one that issued last: the schedulers take turns (log entry 1). -/
  turnSched : Nat
  /-- Counter of fresh identifiers (log entry 7). -/
  fresh : Nat
  /-- Counter of free values taken (log entry 7). -/
  free : Nat
  /-- Count of the fills of and stores into L1s (R244, log entry 91). -/
  stamp : Nat
  /-- Turns to take before the model's own order (log entry 1). -/
  agenda : List Turn
  /-- What the event now taken is about (log entry 1). -/
  subject : Subject
  /-- The path whose instruction is issuing (log entry 2). -/
  issuing : Option Nat
  deriving DecidableEq, Repr

/-- Why the machine stops with a fault. -/
inductive Fault where
  /-- Raised by an encoded instruction given to exec while no path issues: no instruction of the part issues without a path
  (R147); safe, since the part never does this (log entry 2). -/
  | noPath
  deriving DecidableEq, Repr

/-- Why the machine refuses an instruction. -/
inductive Refusal where
  /-- Raised by no meaning: an instruction of the table that the model gives no meaning; safe. -/
  | notModelled (mnemonic : String)
  deriving DecidableEq, Repr

/-- The package after reset (R22, R23; the flash and the root of trust are log entry 3). -/
def Package.reset : Package :=
  { state := .off, failStage := 0, failDie := 0, failUnit := 0, slotA := none, slotB := none, running := none,
    minVersion := 0, keyHash := 0, portsUp := 0, routes := [], fabricId := 0, windows := [], failedAccesses := 0, lostRecords := 0,
    errorCounts := [], errorVector := 0, answers := [], moduleMem := [], failing := none }

/-- The machine right after reset: no supply yet (R22), no context, nothing in any memory or cache. -/
def State.reset : State :=
  { pkg := Package.reset, mbx := [], mbxRun := [], parts := [], droops := [], wsphase := [], scrub := [], ctxs := [], ctxRegs := [], services := [],
    keys := [], vectors := [], msix := [], queueRegs := [], queues := [], records := [], launches := [], wgs := [], gangs := [], paths := [], v := [],
    g := [], p := [], csr := [], acc := [], tiles := [], scratch := [], oldScratch := [], mem := [], poison := [], ops := [],
    l1 := [], lines := [], snoop := [], regions := [], cache := [], ro := [], roDrops := [], nodes := [], tlb := [],
    ats := [], hostSent := [], invals := [], invalDone := [], icache := [], beacons := [], cmds := [], targets := [], frames := [], passes := [], peers := [], far := [], pubs := [],
    clock := 0, turnSched := 0, fresh := 1, free := 0, stamp := 0, agenda := [], subject := .none, issuing := none }

end Sys2Proof.Machine
end

