-- ==== Sys2Proof/Machine/Regs.lean ====
section
/-! DEFINITION. Register banks and the accessors of R11 and R109: V, G and P registers, slice-scope and context-scope registers,
the current path and its position (R56). -/

namespace Sys2Proof.Machine

/-- The number in a bank. -/
def bGet {n : Nat} (m : Bank n) (k : Nat) : Nat := ((aGet k m).getD 0).toNat

/-- A bank with a register's low n bits replaced (R10); 0 takes the entry out. -/
def bSet {n : Nat} (m : Bank n) (k x : Nat) : Bank n :=
  if BitVec.ofNat n x = 0 then aErase k m else aSet k (BitVec.ofNat n x) m

/-- Several registers written, in order. -/
def bSetAll {n : Nat} (m : Bank n) (kvs : List (Nat × Nat)) : Bank n := kvs.foldl (fun m kv => bSet m kv.1 kv.2) m

/-- Place of V[r] of a lane. -/
def vKey (gid l r : Nat) : Nat := (gid * 32 + l) * 128 + r
/-- Place of G[r] of a slice. -/
def gKey (gid c r : Nat) : Nat := (gid * 8 + c) * 32 + r
/-- Place of P[r] of a lane. -/
def pKey (gid l r : Nat) : Nat := (gid * 32 + l) * 8 + r
/-- Place of a slice-scope register. -/
def csrKey (gid c i : Nat) : Nat := (gid * 8 + c) * 16 + i

/-- Slices of a gang that hold one of these lanes (R134). -/
def slicesOf (lanes : Nat) : List Nat := (List.range 8).filter fun c => bits lanes (4 * c + 3) (4 * c) != 0

/-- Lanes of one slice in a lane mask. -/
def sliceLanes (c lanes : Nat) : Nat := bits lanes (4 * c + 3) (4 * c) * 2 ^ (4 * c)

/-- The lowest-numbered slice of a lane mask. -/
def lowSlice (lanes : Nat) : Nat := (slicesOf lanes).headD 0

/-- V[r][l] (R11). -/
def getV (s : State) (gid l r : Nat) : Nat := bGet s.v (vKey gid l r)
/-- P[r][l] (R11): P7 reads true. -/
def getP (s : State) (gid l r : Nat) : Bool := if r = 7 then true else bGet s.p (pKey gid l r) = 1
/-- G[r] in a slice (R169). -/
def getGs (s : State) (gid c r : Nat) : Nat := bGet s.g (gKey gid c r)

/-- V registers written: lane, register, value. -/
def setVs (s : State) (gid : Nat) (ws : List (Nat × Nat × Nat)) : State :=
  { s with v := bSetAll s.v (ws.map fun w => (vKey gid w.1 w.2.1, w.2.2)) }

/-- P registers written: lane, value; P7 discards the write (R11). -/
def setPs (s : State) (gid r : Nat) (ws : List (Nat × Bool)) : State :=
  if r = 7 then s else { s with p := bSetAll s.p (ws.map fun w => (pKey gid w.1 r, w.2.toNat)) }

/-- G[r] written in these slices (R169). -/
def setGs (s : State) (gid : Nat) (cs : List Nat) (r x : Nat) : State :=
  { s with g := bSetAll s.g (cs.map fun c => (gKey gid c r, x)) }

/-- Lanes that issue the path's next instruction: its own, or those TRAPRET replays (R116). -/
def active (q : Path) : Nat := match q.replay with
  | some m => m &&& q.lanes
  | none => q.lanes

/-- G[r] as a path reads it: of its lowest slice, whichever of its lanes issue (R116, R147, R169). -/
def getG (s : State) (q : Path) (r : Nat) : Nat := getGs s q.gang (lowSlice q.lanes) r

/-- G[r] as a path writes it: in every slice of the path (R147, R169); an instruction that is issued for no lane writes nothing (R116). -/
def setG (s : State) (q : Path) (r x : Nat) : State := setGs s q.gang (if active q = 0 then [] else slicesOf q.lanes) r x

/-- A slice-scope register of the path's lowest slice (R109). -/
def getCsr (s : State) (q : Path) (i : Nat) : Nat := bGet s.csr (csrKey q.gang (lowSlice q.lanes) i)

/-- A slice-scope register written in every slice of the path (R109). -/
def setCsr (s : State) (q : Path) (i x : Nat) : State :=
  { s with csr := bSetAll s.csr ((slicesOf q.lanes).map fun c => (csrKey q.gang c i, x)) }

/-- Index of FPSTAT among the slice-scope registers. -/
def csrFpStat : Nat := 1

/-- FPSTAT as a path reads it: the OR over its slices (R109). -/
def getFpStat (s : State) (q : Path) : Nat :=
  (slicesOf q.lanes).foldl (fun a c => a ||| bGet s.csr (csrKey q.gang c csrFpStat)) 0

/-- FPMODE of a path: its lowest slice's (R191). -/
def fpMode (s : State) (q : Path) : Nat := bits (getCsr s q 0) 1 0

/-- The union of flags merged into FPSTAT of every slice of a lane mask of a gang (R189). -/
def mergeFlagsIn (s : State) (gid lanes flags : Nat) : State :=
  { s with csr := bSetAll s.csr ((slicesOf lanes).map fun c =>
      (csrKey gid c csrFpStat, bGet s.csr (csrKey gid c csrFpStat) ||| flags)) }

/-- Flags merged for a path (R189). -/
def mergeFlags (s : State) (q : Path) (flags : Nat) : State := mergeFlagsIn s q.gang q.lanes flags

/-- The same register in every lane of a mask, by a function of the lane. -/
def laneWrites (lanes d : Nat) (f : Nat → Nat) : List (Nat × Nat × Nat) := (lanesOf lanes).map fun l => (l, d, f l)

/-- A register pair in every lane of a mask: the low register gets the low half (R73). -/
def pairWrites (lanes d : Nat) (f : Nat → Nat) : List (Nat × Nat × Nat) :=
  (lanesOf lanes).flatMap fun l => [(l, d, f l % 2 ^ 32), (l, d + 1, f l / 2 ^ 32)]

/-- A register pair read (R73). -/
def getPair (s : State) (gid l r : Nat) : Nat := getV s gid l r + 2 ^ 32 * getV s gid l (r + 1)

/-- n consecutive registers read as one little-endian number (R73, R218). -/
def getRegs (s : State) (gid l r : Nat) : Nat → Nat
  | 0 => 0
  | n + 1 => getRegs s gid l r n + getV s gid l (r + n) * 2 ^ (32 * n)

/-- Bank entries that write n consecutive registers from one little-endian number. -/
def regWrites (gid l r n x : Nat) : List (Nat × Nat) :=
  (List.range n).map fun i => (vKey gid l (r + i), bits x (32 * i + 31) (32 * i))

/-- The position after an instruction of k words (R46, R56). -/
def nextPos (pos : Position) (k : Nat) : Position :=
  if pos.n < pos.word + k then ⟨pos.hdr + 4 * (pos.n + 1), 0, 0, 0⟩ else { pos with word := pos.word + k }

/-- Address of the instruction word at a position. -/
def wordAddr (pos : Position) : Nat := pos.hdr + 4 * pos.word

/-- A path record replaced. -/
def setPath (s : State) (p : Nat) (q : Path) : State := { s with paths := aSet p q s.paths }

/-- The path moves past its instruction, all its lanes together; a BARSYNC record is cleared by any other instruction
at user level (R116, R416). -/
def advance (s : State) (p : Nat) (q : Path) (k : Nat) : State :=
  setPath s p { q with pos := nextPos q.pos k, replay := none, refused := [], wait := .none, cur := none,
                       barsync := if q.sup then q.barsync else none }

/-- The path continues at a header address: the clause ends (R54). -/
def jump (s : State) (p : Nat) (q : Path) (a : Nat) : State :=
  setPath s p { q with pos := ⟨a, 0, 0, 0⟩, replay := none, refused := [], wait := .none, cur := none,
                       barsync := if q.sup then q.barsync else none }

/-- A meaning for the issuing path; without one the machine stops (log entry 2). -/
def onPath (s : State) (f : Nat → Path → State) : Host.Outcome State Fault Refusal :=
  match s.issuing with
  | none => .fault .noPath
  | some p => match aGet p s.paths with
    | none => .fault .noPath
    | some q => .next (f p q)

/-- The gang of a path. -/
def gangOf (s : State) (q : Path) : Option Gang := aGet q.gang s.gangs
/-- The workgroup of a gang. -/
def wgOf (s : State) (g : Gang) : Option Workgroup := aGet g.wg s.wgs
/-- The workgroup of a path. -/
def wgOfPath (s : State) (q : Path) : Option Workgroup := (gangOf s q).bind (wgOf s)
/-- The launch of a path. -/
def launchOfPath (s : State) (q : Path) : Option Launch := (wgOfPath s q).bind fun w => aGet w.launch s.launches
/-- Workgroup number of a path. -/
def wgIdOf (s : State) (q : Path) : Nat := ((gangOf s q).map (·.wg)).getD 0
/-- Context of a path. -/
def ctxOf (s : State) (q : Path) : Nat := ((wgOfPath s q).map (·.ctx)).getD 0
/-- Core of a path. -/
def coreOf (s : State) (q : Path) : Nat := ((wgOfPath s q).bind (·.core)).getD 0
/-- Launch descriptor of a path. -/
def descOf (s : State) (q : Path) : Option LaunchDesc := (launchOfPath s q).map (·.desc)

/-- A gang record changed. -/
def modGang (s : State) (gid : Nat) (f : Gang → Gang) : State := { s with gangs := aMod gid f s.gangs }
/-- A workgroup record changed. -/
def modWg (s : State) (w : Nat) (f : Workgroup → Workgroup) : State := { s with wgs := aMod w f s.wgs }
/-- A context record changed. -/
def modCtx (s : State) (c : Nat) (f : Context → Context) : State := { s with ctxs := aMod c f s.ctxs }
/-- A path record changed. -/
def modPath (s : State) (p : Nat) (f : Path → Path) : State := { s with paths := aMod p f s.paths }
/-- A command record changed. -/
def modCmd (s : State) (k : Nat) (f : Cmd → Cmd) : State := { s with cmds := aMod k f s.cmds }
/-- A queue record changed. -/
def modQueue (s : State) (k : Nat) (f : Queue → Queue) : State := { s with queues := aMod k f s.queues }
/-- An operation in flight changed. -/
def modOp (s : State) (k : Nat) (f : Op → Op) : State := { s with ops := aMod k f s.ops }

/-- A fresh identifier. -/
def freshId (s : State) : Nat × State := (s.fresh, { s with fresh := s.fresh + 1 })

/-- A free value (log entry 7). -/
def freeVal (s : State) : Nat × State := (Config.freeValue s.free, { s with free := s.free + 1 })

/-- A context record, FREE where none is held (R97). -/
def Context.blank : Context :=
  { state := .free, root := 0, part := 0, occLimit := 0, pasid := 0, pasidEn := false, windows := [], policy := 0, record := none }

/-- A context. -/
def ctxAt (s : State) (c : Nat) : Context := (aGet c s.ctxs).getD Context.blank

/-- Whether a context is RUNNING. -/
def isRunning (s : State) (c : Nat) : Bool := decide ((ctxAt s c).state = .running)

/-- A path's wait may end: pre-emption stops it in place at once (R158), and FAULTED for good (R113). -/
def waitEnds (s : State) (q : Path) : Bool := isRunning s (ctxOf s q)

/-- A gang's lanes may come together: its context is RUNNING (R158). -/
def gangLive (s : State) (g : Gang) : Bool := ((wgOf s g).map fun w => isRunning s w.ctx).getD false

/-- A context-scope register (R106). -/
def ctxReg (s : State) (c i : Nat) : Nat := bGet s.ctxRegs (c * 8 + i)
/-- A context-scope register written. -/
def setCtxReg (s : State) (c i x : Nat) : State := { s with ctxRegs := bSet s.ctxRegs (c * 8 + i) x }

/-- Numbers of the context-scope registers. -/
def rTrapBase : Nat := 0
def rTdtBase : Nat := 1
def rWalker : Nat := 2
def rDroopCnt : Nat := 3
def rReplSel : Nat := 4
def rPrCount : Nat := 5

/-- TRAPBASE of a path's context (R106, R111). -/
def trapBase (s : State) (q : Path) : Nat := ctxReg s (ctxOf s q) rTrapBase

/-- TRAPBASE for a fault of a path's instruction: as it stood when the instruction first issued, where it has waited since (R109). -/
def baseOf (s : State) (q : Path) : Nat := if q.cur.isSome then q.base else trapBase s q

/-- The path waits at its instruction. -/
def waitAt (s : State) (p : Nat) (q : Path) (i : Instr) (w : Wait) : State :=
  setPath s p { q with wait := w, cur := some i, base := baseOf s q }

/-- A queue, DISABLED where none is held (R121). -/
def queueAt (s : State) (k : Nat) : Queue :=
  (aGet k s.queues).getD
    { state := .disabled, hold := .none, packets := [], nextSeq := 0, frame := none, waiting := none, answer := none }
/-- A queue register (R121). -/
def qReg (s : State) (k i : Nat) : Nat := bGet s.queueRegs (k * 8 + i)
/-- A queue register written. -/
def setQReg (s : State) (k i x : Nat) : State := { s with queueRegs := bSet s.queueRegs (k * 8 + i) x }
/-- A queue record stored. -/
def setQueue (s : State) (k : Nat) (q : Queue) : State := { s with queues := aSet k q s.queues }

/-- Numbers of the queue registers. -/
def qBase : Nat := 0
def qCtl : Nat := 1
def qWptr : Nat := 2
def qRptr : Nat := 3
def qRecBase : Nat := 4
def qRecW : Nat := 5

/-- An MSI-X vector raised for a context, or for none: a message with the context's PASID, or the pending bit while masked (R403, R404). -/
def raiseVector (s : State) (fn vec : Nat) (pasid : Option Nat) : State :=
  let k := fn * 256 + vec
  let v := (aGet k s.vectors).getD ⟨false, false, 0, none⟩
  { s with vectors := aSet k (if v.masked then ⟨true, true, v.sent, pasid⟩ else ⟨false, v.pending, v.sent + 1, pasid⟩) s.vectors }

/-- The PASID that the requests of a context carry (R404). -/
def pasidOf (s : State) (c : Nat) : Option Nat := if (ctxAt s c).pasidEn then some (ctxAt s c).pasid else none

/-- The physical function's error vector raised (R22, R130, R401). Which of its sixteen vectors that is, and that a package machine check
raises the same one, the manual does not say: the number is a free value (log entry 94). -/
def raiseError (s : State) : State :=
  raiseVector { s with pkg := { s.pkg with errorVector := s.pkg.errorVector + 1 } } 0 (Config.errorVector % 16) none

/-- Names of the slice-scope registers. -/
def csrFpMode : Nat := 0
def csrTrapPc : Nat := 2
def csrTrapInfo : Nat := 3
def csrFaultAddr : Nat := 4
def csrTrapSave : Nat := 5
/-- Places beside them of the clause that a fault interrupted: its header address, and its class times 16 plus its N (R56). -/
def csrClauseHdr : Nat := 9
def csrClause : Nat := 10

end Sys2Proof.Machine
end

