-- ==== Sys2Proof/Machine/Memory.lean ====
section
/-! DEFINITION. Memory below and in the L1s: bytes by physical address, poison, the beacons a write wakes, words of L1s, OWN spans and
their recall, and the lines of the shared cache with their victims (R222 to R228, R232, R236 to R239, R267). -/

namespace Sys2Proof.Machine

/-- Where host memory begins among the model's addresses. -/
def hostBase : Nat := 2 ^ 53
/-- Where the weight stores begin. -/
def wsBase : Nat := 2 ^ 54
/-- Where peer addresses begin: 2^55 plus the 52-bit peer address (R399). -/
def peerBase : Nat := 2 ^ 55

/-- An address of device memory (R222). -/
def isDevice (a : Nat) : Bool := a < hostBase
/-- An address of host memory. -/
def isHost (a : Nat) : Bool := hostBase ≤ a && a < wsBase
/-- An address of a peer's window. -/
def isPeer (a : Nat) : Bool := peerBase ≤ a

/-- Place of a byte as a die holds it: its own copy of a peer's byte, which other dies' copies do not follow (R237); every other byte has one
place. -/
def copyAt (die a : Nat) : Nat := if isPeer a then a + die * 2 ^ 56 else a

/-- Device memory that is installed (R222). -/
def installed (pa : Nat) : Bool := pa / 2 ^ 40 < 4 && pa % 2 ^ 40 < 103079215104

/-- Home die (R222). -/
def homeDie (a : Nat) : Nat := bits a 41 40
/-- Index within a die of a line's home slice, of its proxy slices, and of the slice of a peer line (R222). -/
def lineSlice (a : Nat) : Nat := bits a 12 7 ^^^ bits a 18 13
/-- Home slice of the package, die · 64 + slice within the die (R222). -/
def homeSlice (a : Nat) : Nat := homeDie a * 64 + lineSlice a
/-- Bank of the package, and with it the lantern (R222). -/
def homeBank (a : Nat) : Nat := homeSlice a * 4 + bits a 20 19
/-- Region of a device address (R222). -/
def regionOf (a : Nat) : Nat := a / 2 ^ 21
/-- Counter slice of a region: slice PA[26:21] of its home die (R222). -/
def counterSlice (a : Nat) : Nat := homeDie a * 64 + bits a 26 21
/-- Place of a region's counts, at its counter slice (R222, R234). -/
def regionKey (a : Nat) : Nat := counterSlice a * 2 ^ 40 + regionOf a
/-- Die of a core. -/
def dieOf (core : Nat) : Nat := core / 128
/-- Cluster of a core (R16). -/
def clusterOf (core : Nat) : Nat := core / 4

/-- Fields of a table entry (R207). -/
def eV (e : Nat) : Bool := hasBit e 0
def eLeaf (e : Nat) : Bool := hasBit e 1
def eW (e : Nat) : Bool := hasBit e 2
def eX (e : Nat) : Bool := hasBit e 3
def eS (e : Nat) : Bool := hasBit e 4
def eA (e : Nat) : Bool := hasBit e 5
def eD (e : Nat) : Bool := hasBit e 6
def eDrt (e : Nat) : Nat := bits e 9 7
def eNc (e : Nat) : Bool := hasBit e 10
def eLoc (e : Nat) : Nat := bits e 12 11
def eAddr (e : Nat) : Nat := bits e 51 13 * 2 ^ 13
def ePin (e : Nat) : Nat := bits e 54 52

/-- n bytes at an address, little-endian (R3, R12). -/
def readMem (m : Memory) (a : Nat) : Nat → Nat
  | 0 => 0
  | n + 1 => bGet m a + 256 * readMem m (a + 1) n

/-- n bytes at an address, as a list. -/
def readBytes (m : Memory) (a n : Nat) : List Nat := (List.range n).map fun i => bGet m (a + i)

/-- The low n bytes of a number as a list, low byte first (R3). -/
def toBytes : Nat → Nat → List Nat
  | 0, _ => []
  | n + 1, x => x % 256 :: toBytes n (x / 256)

/-- A number from its bytes, low byte first (R3). -/
def ofBytes : List Nat → Nat
  | [] => 0
  | b :: bs => b + 256 * ofBytes bs

/-- Bytes stored from an address upward. -/
def writeMem (m : Memory) : Nat → List Nat → Memory
  | _, [] => m
  | a, b :: bs => writeMem (bSet m a b) (a + 1) bs

/-- The condition of a beacon or a WAITV on a word of n bytes (R265): 0 EQ, 1 NE, 2 LTU, 3 GEU, 4 LT, 5 GE. -/
def wordCond (cond n x y : Nat) : Bool :=
  match cond with
  | 0 => x = y
  | 1 => x != y
  | 2 => x < y
  | 3 => y ≤ x
  | 4 => sext x (8 * n) < sext y (8 * n)
  | _ => sext y (8 * n) ≤ sext x (8 * n)

/-- Whether two byte ranges have a byte in common. -/
def overlap (a n b m : Nat) : Bool := a < b + m && b < a + n

/-- Beacons that a write of n bytes at an address has woken (R267). -/
def wakeBeacons (m : Memory) (a n : Nat) (bs : List Beacon) : List Beacon :=
  bs.map fun b =>
    if b.woken = none && overlap a n b.addr b.size && wordCond b.cond b.size (readMem m b.addr b.size) b.value
    then { b with woken := some true } else b

/-- Poison that a write of n bytes leaves: units it covers whole are clean again (R28). -/
def unpoison (a n : Nat) (ps : List ErrorPlace) : List ErrorPlace :=
  ps.filter fun p => match p with
    | .mem u => !(a ≤ 8 * u && 8 * u + 8 ≤ a + n)
    | .shared _ u => !(a ≤ 8 * u && 8 * u + 8 ≤ a + n)
    | _ => true

/-- Bytes take their place in memory: at the home slice, at the host, or in a weight store (R228, R267). -/
def memPut (s : State) (a : Nat) (bytes : List Nat) : State :=
  let m := writeMem s.mem a bytes
  { s with mem := m, beacons := wakeBeacons m a bytes.length s.beacons, poison := unpoison a bytes.length s.poison }

/-- Bytes with their addresses. -/
def bytesAt (a : Nat) (bytes : List Nat) : List (Nat × Nat) := bytes.zipIdx.map fun b => (a + b.2, b.1)

/-- An address among bytes with their addresses. -/
def hasAddr (bs : List (Nat × Nat)) (a : Nat) : Bool := bs.any fun b => b.1 == a

/-- Bytes with their addresses take their place as one write: the beacons it meets are evaluated once, on the new value of their words,
and units it covers whole are clean again (R28, R244, R267). -/
def memPutAll (s : State) (bs : List (Nat × Nat)) : State :=
  let m := bs.foldl (fun m b => bSet m b.1 b.2) s.mem
  { s with
    mem := m
    beacons := s.beacons.map fun b =>
      if b.woken = none && bs.any (fun x => b.addr ≤ x.1 && x.1 < b.addr + b.size) &&
          wordCond b.cond b.size (readMem m b.addr b.size) b.value
      then { b with woken := some true } else b
    poison := s.poison.filter fun p => match p with
      | .mem u => !((List.range 8).all fun i => hasAddr bs (8 * u + i))
      | .shared _ u => !((List.range 8).all fun i => hasAddr bs (8 * u + i))
      | _ => true }

/-- Units that become poisoned (R28). -/
def addPoison (s : State) (es : List ErrorPlace) : State := { s with poison := s.poison ++ es.filter fun e => !s.poison.contains e }

/-- Dirty bytes of an L1 take their place in memory as one write; units of them that stood poisoned in the L1 are poisoned there (R28). -/
def putBack (s : State) (bs : List (Nat × Nat)) (bad : List Nat) : State := addPoison (memPutAll s bs) (bad.map ErrorPlace.mem)

/-- Place of a word of a core's L1. -/
def l1Key (core a : Nat) : Nat := core * 2 ^ 56 + a / 4
/-- A word of a core's L1. -/
def l1At (s : State) (core a : Nat) : Option L1Word := aGet (l1Key core a) s.l1

/-- Whether an L1 word holds a byte (R225). -/
def byteHeld (w : L1Word) (i : Nat) : Bool := nth w.since i != 0
/-- A byte of an L1 word. -/
def wordByte (w : L1Word) (i : Nat) : Nat := bits w.data.toNat (8 * i + 7) (8 * i)

/-- A byte that a core's L1 holds. -/
def l1ByteAt (s : State) (core a : Nat) : Option Nat :=
  ((l1At s core a).filter fun w => byteHeld w (a % 4)).map fun w => wordByte w (a % 4)

/-- Whether an L1 holds every byte of a range. -/
def l1Has (s : State) (core a n : Nat) : Bool := (List.range n).all fun i => (l1ByteAt s core (a + i)).isSome

/-- When an L1 byte came (R244). -/
def l1Since (s : State) (core a : Nat) : Nat := ((l1At s core a).map fun w => nth w.since (a % 4)).getD 0

/-- n bytes as an L1 holds them. -/
def l1Read (s : State) (core a n : Nat) : Nat := ofBytes ((List.range n).map fun i => (l1ByteAt s core (a + i)).getD 0)

/-- The home state of a line: UNC with no span where nothing is held (R230). -/
def lineAt (s : State) (ln : Nat) : Line := (aGet ln s.lines).getD ⟨.unc, [], [], []⟩

/-- The holder of a span is a core, not a proxy slice (R226). -/
def byCore (x : Span) : Bool := x.core < Config.cores

/-- A line's home state stored; a snoop filter's entry goes when the last span of its map goes (R232). -/
def setLine (s : State) (ln : Nat) (l : Line) : State :=
  { s with lines := if l = ⟨.unc, [], [], []⟩ then aErase ln s.lines else aSet ln l s.lines,
           snoop := s.snoop.filter fun e => e.2 != ln ||
             (if e.1 / 64 = homeDie (ln * 128) then l.spans.any byCore else !l.proxy.isEmpty) }

/-- Dirty bytes of an L1 word with their addresses (R225). -/
def dirtyBytes (a : Nat) (w : L1Word) : List (Nat × Nat) :=
  ((List.range 4).filter fun i => hasBit w.dirty i).map fun i => (a / 4 * 4 + i, wordByte w i)

/-- Addresses of the words of a span of a line. -/
def spanWords (ln first len : Nat) : List Nat := (List.range len).map fun i => ln * 128 + 4 * (first + i)

/-- Words of a byte range. -/
def wordsOf (a n : Nat) : List Nat := (List.range ((a + n - 1) / 4 - a / 4 + 1)).map fun i => (a / 4 + i) * 4

/-- Dirty bytes that an L1 holds in some words, for the words that satisfy a test. -/
def dirtyIn (s : State) (core : Nat) (ok : L1Word → Bool) (words : List Nat) : List (Nat × Nat) :=
  words.flatMap fun a => match l1At s core a with
    | some w => if ok w then dirtyBytes a w else []
    | none => []

/-- Poison of an L1's units stays as long as the L1 holds a byte of the unit (R27). -/
def trimPoison (s : State) (core : Nat) : State :=
  { s with poison := s.poison.filter fun p => match p with
      | .l1 c u => c != core || (List.range 8).any fun i => (l1ByteAt s core (8 * u + i)).isSome
      | _ => true }

/-- Words leave an L1, and with them the poison of its units (R27). -/
def dropWords (s : State) (core : Nat) (words : List Nat) : State :=
  trimPoison { s with l1 := words.foldl (fun m a => aErase (l1Key core a) m) s.l1 } core

/-- A word without its clean bytes; OWN words stay whole. -/
def cleanGone (w : L1Word) : Option L1Word :=
  if w.kind = .own then some w
  else if w.dirty = 0 then none
  else some { w with since := w.since.zipIdx.map fun b => if hasBit w.dirty b.2 then b.1 else 0 }

/-- The clean copies of some words leave an L1; dirty bytes and OWN spans stay (R227, R246). -/
def dropClean (s : State) (core : Nat) (words : List Nat) : State :=
  let clean (m : AMap L1Word) (a : Nat) : AMap L1Word := match (aGet (l1Key core a) m).map cleanGone with
    | some (some x) => aSet (l1Key core a) x m
    | some none => aErase (l1Key core a) m
    | none => m
  trimPoison { s with l1 := words.foldl clean s.l1 } core

/-- Units among some bytes that stand poisoned in an L1 (R28). -/
def badUnits (s : State) (core : Nat) (bs : List (Nat × Nat)) : List Nat :=
  (uniq (bs.map fun b => b.1 / 8)).filter fun u => s.poison.contains (.l1 core u)

/-- Words of an L1 that stay, clean. -/
def markClean (s : State) (core : Nat) (words : List Nat) : State :=
  { s with l1 := words.foldl (fun m a => match aGet (l1Key core a) m with
      | some w => aSet (l1Key core a) { w with dirty := 0, unit := 0 } m
      | none => m) s.l1 }

/-- A span's words leave their owner's L1 after the dirty bytes are written back, as one write (R226). -/
def dropSpan (s : State) (ln : Nat) (x : Span) : State :=
  let words := spanWords ln x.first x.len
  let bs := dirtyIn s x.core (fun _ => true) words
  dropWords (putBack s bs (badUnits s x.core bs)) x.core words

/-- Whether two spans have a word in common. -/
def meets (x y : Span) : Bool := overlap x.first x.len y.first y.len

/-- A span recalled: its owner writes back its dirty bytes and drops it; a proxy slice recalls the spans of its own map that it meets
first (R226). -/
def recallSpan (s : State) (ln : Nat) (x : Span) : State :=
  let under := if byCore x then [] else (lineAt s ln).proxy.filter (meets x)
  let s := (if byCore x then [x] else under).foldl (fun s y => dropSpan s ln y) s
  let l := lineAt s ln
  let gone (y : Span) : Bool := y.core == x.core && y.first == x.first
  setLine s ln { l with spans := l.spans.filter (fun y => !gone y), proxy := l.proxy.filter fun y => !gone y && !under.contains y }

/-- Several spans of a line recalled. -/
def recallAll (s : State) (ln : Nat) (xs : List Span) : State := xs.foldl (fun s x => recallSpan s ln x) s

/-- The owner map of a line in which a core's L1 stands: its home slice's, or its die's proxy slice's (R226). -/
def mapOf (l : Line) (ln core : Nat) : List Span := if dieOf core = homeDie (ln * 128) then l.spans else l.proxy

/-- Spans of a line, held by L1s, that meet a word range (R226, R228). -/
def spansMeeting (l : Line) (first len : Nat) : List Span :=
  (l.spans.filter byCore ++ l.proxy).filter fun x => overlap x.first x.len first len

/-- The core whose dirty byte goes to memory before a byte is read at its home slice: the reading core's own, which writes it back first
(R246), or the owner's of its OWN span (R228). -/
def dirtyHolder (s : State) (own : Option Nat) (a : Nat) : Option Nat :=
  let dirty (c : Nat) : Bool := match l1At s c a with
    | some w => hasBit w.dirty (a % 4)
    | none => false
  match own.filter dirty with
  | some c => some c
  | none => (((spansMeeting (lineAt s (a / 128)) (a % 128 / 4) 1).head?).map (·.core)).filter dirty

/-- A byte as it is read at its home slice is in a poisoned unit (R27, R28): in memory or in the copy that a die's shared cache holds, unless
dirty bytes will cover the unit; or in the L1 whose dirty byte it is. -/
def badUnit (s : State) (die : Nat) (own : Option Nat) (a : Nat) : Bool :=
  !s.poison.isEmpty &&
    (let u := a / 8
     let holders := (List.range 8).map fun i => dirtyHolder s own (8 * u + i)
     ((s.poison.contains (.mem (copyAt die a / 8)) || s.poison.contains (.shared die u)) && holders.any (·.isNone)) ||
       holders.any fun h => (h.map fun c => s.poison.contains (.l1 c u)).getD false)

/-- The host answers the next read of a byte with an error (R406). -/
def hostFails (s : State) (a : Nat) : Bool := isHost a && s.poison.contains (.hostRead (a / 128))

/-- A read of a byte below the L1s brings no good data (R28, R406). -/
def badByte (s : State) (die : Nat) (own : Option Nat) (a : Nat) : Bool := badUnit s die own a || hostFails s a

/-- Address of the first poisoned byte among n bytes that an engine of a die reads (R28, R112). -/
def poisonedAt (s : State) (die a n : Nat) : Option Nat :=
  (List.range n).findSome? fun i => if badByte s die none (a + i) then some (a + i) else none

/-- First word and length of a byte range within one line (R225). -/
def wordSpan (a n : Nat) : Nat × Nat := (a % 128 / 4, (a % 128 + n - 1) / 4 - a % 128 / 4 + 1)

/-- One OWN span of a core covers a byte range (R226). -/
def ownedHere (s : State) (core a n : Nat) : Bool :=
  let sp := wordSpan a n
  (mapOf (lineAt s (a / 128)) (a / 128) core).any fun x => x.core == core && x.first ≤ sp.1 && sp.1 + sp.2 ≤ x.first + x.len

/-- An L1 hit: every byte is there, under one OWN span or all brought by one fill or one store, so that what is returned stood in memory
at one moment (R244). -/
def l1Hits (s : State) (core a n : Nat) : Bool :=
  l1Has s core a n && (ownedHere s core a n || (List.range n).all fun i => l1Since s core (a + i) == l1Since s core a)

/-- Address of the first byte of a range in a poisoned unit, as a core's access meets it (R27, R28): in its L1 where that serves the access,
else as the home slice returns it once the core's dirty bytes are there. -/
def poisonedVia (useL1 : Bool) (s : State) (core a n : Nat) : Option Nat :=
  let hit := useL1 && l1Hits s core a n
  (List.range n).findSome? fun i =>
    if (if hit then s.poison.contains (.l1 core ((a + i) / 8)) else badByte s (dieOf core) (some core) (a + i)) then some (a + i) else none

/-- The same for an access that its L1 may serve. -/
def poisonedFor (s : State) (core a n : Nat) : Option Nat := poisonedVia true s core a n

/-- The lines that n bytes touch. -/
def linesOf (a n : Nat) : List Nat := (List.range ((a + n - 1) / 128 - a / 128 + 1)).map (· + a / 128)

/-- The value a byte has at its home slice once owners are recalled (R228), without recalling them. -/
def peekByte (s : State) (a : Nat) : Nat :=
  match (spansMeeting (lineAt s (a / 128)) (a % 128 / 4) 1).head? with
  | none => bGet s.mem a
  | some x => match l1At s x.core a with
    | some w => if hasBit w.dirty (a % 4) then wordByte w (a % 4) else bGet s.mem a
    | none => bGet s.mem a

/-- n bytes as their home slice would return them. -/
def peek (s : State) (a n : Nat) : Nat := ofBytes ((List.range n).map fun i => peekByte s (a + i))

/-- Addresses of the words of a core's L1 that satisfy a test. -/
def l1Words (s : State) (core : Nat) (ok : Nat → L1Word → Bool) : List Nat :=
  (s.l1.filter fun e => e.1 / 2 ^ 56 == core && ok (e.1 % 2 ^ 56 * 4) e.2).map fun e => e.1 % 2 ^ 56 * 4

/-- A byte put into an L1 word at a stamp, clean, or dirty by a store of some bytes. -/
def l1PutByte (t : Nat) (unit core ctx : Nat) (kind : L1Kind) (m : AMap L1Word) (b : Nat × Nat) : AMap L1Word :=
  let w := (aGet (l1Key core b.1) m).getD ⟨0, [0, 0, 0, 0], 0, 0, kind, ctx⟩
  let i := b.1 % 4
  let old := w.data.toNat
  let data := old - wordByte w i * 2 ^ (8 * i) + b.2 % 256 * 2 ^ (8 * i)
  aSet (l1Key core b.1)
    { data := BitVec.ofNat 32 data, since := w.since.set i t, kind := if w.kind = .own then .own else kind, ctx := ctx,
      unit := Nat.max w.unit unit,
      dirty := if unit != 0 then w.dirty ||| 2 ^ i else maskDiff w.dirty (2 ^ i) } m

/-- A request put at the end of a line's queue at its home slice (R231). -/
def askLine (s : State) (ln : Nat) (r : HomeReq) : State :=
  let l := lineAt s ln
  setLine s ln { l with queue := l.queue ++ [r] }

/-- Dirty bytes sent to their line's home slice as one write of a core, under a request type; units of them may be poisoned (R28). -/
def sendBack (s : State) (core ctx rt ln : Nat) (bs : List (Nat × Nat)) (bad : List Nat) : State :=
  if bs.isEmpty then s
  else
    let w := bs.map fun b => b.1 % 128 / 4
    let lo := (minBy id w).getD 0
    let hi := w.foldl Nat.max 0
    askLine s ln { op := 0, lane := 0, kind := .write, core := core, die := dieOf core, ctx := ctx, first := lo, len := hi - lo + 1, pin := 0,
                   rt := rt, bytes := bs, bad := bad, gang := 0 }

/-- Words of an L1 with those whose dirty bytes came by the same store as theirs: a doubleword or a quadword reaches memory whole
(R219, R244, log entry 71). -/
def joined (s : State) (core : Nat) (words : List Nat) : List Nat :=
  uniq (words.flatMap fun a => match l1At s core a with
    | some w => if w.dirty != 0 && 4 < w.unit then wordsOf (a / w.unit * w.unit) w.unit else [a]
    | none => [a])

/-- The dirty bytes that a core's L1 holds in some words of a line, but for OWN spans, are written back as one write: to the line's home
slice where the page is coherent, in place where it is not. The words stay, clean (R225, R227, R236, R244). -/
def writeBackAs (rt : Nat) (s : State) (core ln : Nat) (words : List Nat) : State :=
  let words := joined s core words
  let si := dirtyIn s core (fun w => w.kind = .si && isDevice (ln * 128)) words
  let nc := dirtyIn s core (fun w => w.kind = .nc || (w.kind = .si && !isDevice (ln * 128))) words
  if si.isEmpty && nc.isEmpty then s
  else
    let mine := words.filter fun a => match l1At s core a with
      | some w => w.kind != .own
      | none => false
    let bad := badUnits s core (si ++ nc)
    let s := markClean (if nc.isEmpty then s else putBack s nc bad) core mine
    sendBack s core (((mine.head?).bind (l1At s core)).map (·.ctx) |>.getD 0) rt ln si bad

/-- Words of a line written back by a release, an eviction, or before another access of the core to them. -/
def writeBackWords (s : State) (core ln : Nat) (words : List Nat) : State := writeBackAs 2 s core ln words

/-- Every dirty byte of a line in a core's L1, but for OWN spans, written back. -/
def writeBackLine (s : State) (core ln : Nat) : State := writeBackWords s core ln (spanWords ln 0 32)

/-- The dirty bytes of a byte range in a core's L1 are written back (R225, R246). -/
def writeBackRange (s : State) (core a n : Nat) : State :=
  (linesOf a n).foldl (fun s ln => writeBackWords s core ln ((wordsOf a n).filter fun w => w / 128 == ln)) s

/-- A word leaves an L1: a span it belongs to is given up whole, and dirty bytes are written back (R226, R227, R236). -/
def evictWord (s : State) (core a : Nat) : State :=
  let ln := a / 128
  let sp := (mapOf (lineAt s ln) ln core).filter fun x => x.core == core && overlap x.first x.len (a % 128 / 4) 1
  dropWords (writeBackWords (recallAll s ln sp) core ln [a / 4 * 4]) core [a]

/-- Words of a core's L1 beyond its 320 KiB leave it (R18, R223). Which word leaves, among those of other lines than the one just used,
the manual does not say: a free choice (log entry 92). -/
def trimL1 (core ln : Nat) : Nat → State → State
  | 0, s => s
  | fuel + 1, s =>
    let mine := l1Words s core fun _ _ => true
    if mine.length ≤ Config.l1Words then s
    else
      let others := mine.filter fun a => a / 128 != ln
      match others[Config.l1Victim s.stamp % others.length]? with
      | some a => trimL1 core ln fuel (evictWord s core a)
      | none => s

/-- Bytes of one line put into an L1 as one fill or one store. -/
def l1Put (s : State) (core ctx : Nat) (kind : L1Kind) (dirty : Bool) (bs : List (Nat × Nat)) : State :=
  match bs.head? with
  | none => s
  | some b =>
    let s := { s with
      l1 := bs.foldl (l1PutByte (s.stamp + 1) (if dirty then bs.length else 0) core ctx kind) s.l1
      stamp := s.stamp + 1
      poison := s.poison.filter fun p => match p with
        | .l1 c u => !(c == core && (List.range 8).all fun i => hasAddr bs (8 * u + i))
        | _ => true }
    trimL1 core (b.1 / 128) 32 s

/-- Bytes changed where an L1 holds them, without allocation (R227, R237). -/
def l1Update (s : State) (core ctx a : Nat) (kind : L1Kind) (bytes : List Nat) : State :=
  l1Put s core ctx kind false ((bytesAt a bytes).filter fun b => (l1ByteAt s core b.1).isSome)

/-- Bytes of a line that writes of a core, not yet served at the home slice, will write. -/
def pendingAt (s : State) (core a : Nat) : Bool :=
  (lineAt s (a / 128)).queue.any fun r => r.kind = .write && r.core == core && hasAddr r.bytes a

/-- The words of a byte range filled in an L1 with the bytes memory holds (R225). Bytes that are dirty there, that a write of the core
still has to bring to the home slice, or that are poisoned in memory are not filled. -/
def l1Fill (s : State) (core ctx a n : Nat) (kind : L1Kind) : State :=
  let bs := (wordsOf a n).flatMap fun w => (List.range 4).filterMap fun i =>
    let dirty := match l1At s core w with
      | some x => hasBit x.dirty i
      | none => false
    if dirty || pendingAt s core (w + i) || badByte s (dieOf core) none (w + i) then none
    else some (w + i, bGet s.mem (copyAt (dieOf core) (w + i)))
  l1Put s core ctx kind false bs

/-- The slice of the package that holds a die's copy of a line (R222, R237). -/
def holderSlice (die ln : Nat) : Nat := die * 64 + lineSlice (ln * 128)

/-- Lines that a slice holds. -/
def sliceHolds (s : State) (slice : Nat) : List CacheLine := s.cache.filter fun x => holderSlice x.die x.line == slice

/-- A context's limit of lines per slice (R239): 0 where there is none. -/
def occCap (s : State) (c : Nat) : Nat := Nat.min (((aGet c s.ctxs).map (·.occLimit)).getD 0) Config.sliceLines

/-- How far a context exceeds its limit in a slice, plus one; 0 below the limit and without one (R238). -/
def overBy (s : State) (xs : List CacheLine) (c : Nat) : Nat :=
  let n := (xs.filter fun x => x.ctx == c).length
  if occCap s c = 0 || n < occCap s c then 0 else n - occCap s c + 1

/-- A home copy whose directory state is not UNC (R238). -/
def heldHome (s : State) (x : CacheLine) : Bool := !x.peer && x.die == homeDie (x.line * 128) && (lineAt s x.line).dir != .unc

/-- A line in a transient state (R230). -/
def busyLine (l : Line) : Bool :=
  match l.dir with
  | .unc => false
  | .rsh _ => false
  | .rex _ => false
  | _ => true

/-- The victim of a slice when a context allocates in it (R238), an ST fill first (R227). The manual gives no number of ways: a slice is
one set (log entry 93). Of two other contexts that exceed their limits by the same amount the manual names none: the one whose line is the
least recently used (log entry 128). Lines in a transient state are not chosen. -/
def victimOf (s : State) (slice c : Nat) : Option CacheLine :=
  let xs := sliceHolds s slice
  let calm := xs.filter fun x => !busyLine (lineAt s x.line)
  let pool := if (calm.filter fun x => !heldHome s x).isEmpty then calm else calm.filter fun x => !heldHome s x
  let worst := (uniq (pool.map (·.ctx))).foldl (fun (b : Option Nat) k =>
    if k != c && overBy s xs k != 0 && (b.map (overBy s xs)).getD 0 < overBy s xs k then some k else b) none
  ((pool.find? (·.firstVictim)).or
    (if overBy s xs c != 0 then pool.find? fun x => x.ctx == c else none)).or
    ((worst.bind fun k => pool.find? fun x => x.ctx == k).or pool.head?)

/-- Lines leave the shared caches, and with them the poison of their copies (R27). -/
def dropCached (s : State) (gone : CacheLine → Bool) : State :=
  { s with cache := s.cache.filter fun x => !gone x,
           poison := s.poison.filter fun p => match p with
             | .shared d u => !(s.cache.any fun x => gone x && x.die == d && x.line == u / 16)
             | _ => true }

/-- A line no longer held by a die (R230, R231). -/
def unholdLine (s : State) (die ln : Nat) : State := dropCached s fun x => x.die == die && x.line == ln

/-- The owning die of a line gives it up: its spans are recalled, and its copy is gone (R230, O to I). -/
def giveUp (s : State) (e ln : Nat) : State :=
  let s := recallAll (unholdLine s e ln) ln (lineAt s ln).proxy
  let l := lineAt s ln
  setLine s ln { l with spans := l.spans.filter byCore, dir := .unc }

/-- A die's copy of a line leaves its slice (R230, R231, R237). A P line and an idle home copy are dropped. A home copy of a shared or an owned
line leaves by way of its eviction row: BUSY-C or BUSY-W, which the confirmations of the other dies end. A replica or an owned copy goes after
its dirty bytes are written back. -/
def evictCopy (s : State) (x : CacheLine) : State :=
  let ln := x.line
  let s := unholdLine s x.die ln
  let l := lineAt s ln
  let home := x.die == homeDie (ln * 128)
  if x.peer then s
  else match l.dir with
    | .rsh sh =>
      if home then setLine s ln { l with dir := .busyC sh }
      else
        let sh := maskDiff sh (2 ^ x.die)
        setLine s ln { l with dir := if sh = 0 then .unc else .rsh sh }
    | .rex e => if home then setLine s ln { l with dir := .busyW e } else if x.die = e then giveUp s e ln else s
    | _ => s

/-- A slice makes room for a line of a context: its victim leaves (R238). -/
def makeRoom (s : State) (slice c : Nat) : State :=
  match victimOf s slice c with
  | some x => evictCopy s x
  | none => s

/-- A line held in a die's shared cache for a context, as most recently used; a full slice first evicts its victim (R223, R238). -/
def holdLine (s : State) (die ln ctx : Nat) (peer firstVictim : Bool) : State :=
  match s.cache.find? fun x => x.die == die && x.line == ln with
  | some x => { s with cache := (s.cache.filter fun y => !(y.die == die && y.line == ln)) ++ [x] }
  | none =>
    let slice := holderSlice die ln
    let s := if Config.sliceLines ≤ (sliceHolds s slice).length then makeRoom s slice ctx else s
    { s with cache := s.cache ++ [⟨die, ln, ctx, peer, firstVictim⟩] }

/-- Whether a die's shared cache holds a peer line in state P (R237). -/
def hasP (s : State) (die ln : Nat) : Bool := s.cache.any fun x => x.peer && x.die == die && x.line == ln

end Sys2Proof.Machine
end

