-- ==== Sys2Proof/Machine/Home.lean ====
section
/-! DEFINITION. The home slices and the directory (R226 to R235): the queue of a line, grants, replicas, collapses, write-backs, the
events that move them, and what goes by way of them: reads and writes of engines, releases and acquires (R257), and fills of the
read-only cache (R255). -/

namespace Sys2Proof.Machine

/-- The adaptive degree at the end of an interval (R234). -/
def nextDegree (r : Region) (traise tlower : Nat) : Nat :=
  if tlower ≤ r.wcol then r.degree - 1 else if traise ≤ r.rread then Nat.min (r.degree + 1) 3 else r.degree

/-- Thresholds of a region (R234): the defaults where no partition is configured; those of the partition where there is one; of
several, the manual does not say whose, and a free choice picks one (log entry 33). -/
def thresholds (s : State) (region : Nat) : Nat × Nat :=
  match aVals s.parts with
  | [] => (4096, 1024)
  | [p] => (p.traise, p.tlower)
  | p :: ps =>
    let q := (p :: ps).getD (Config.regionPartition region % (ps.length + 1)) p
    (q.traise, q.tlower)

/-- A region's interval ends (R234, R235): the degree is updated, the counts are kept for REPLCNT and restart. -/
def endInterval (s : State) (key : Nat) (r : Region) : Region :=
  let t := thresholds s (key % 2 ^ 40)
  ⟨nextDegree r t.1 t.2, 0, 0, 0, r.rread, r.wcol, (r.intervals + 1) % 256⟩

/-- A region's counts (R234): an interval whose request count has been reached has ended. -/
def regionNow (s : State) (key : Nat) : Region :=
  let r := (aGet key s.regions).getD ⟨0, 0, 0, 0, 0, 0, 0⟩
  if Config.intervalRequests ≤ r.requests then endInterval s key r else r

/-- A region's counts changed. -/
def countRegion (s : State) (a : Nat) (f : Region → Region) : State :=
  { s with regions := aSet (regionKey a) (f (regionNow s (regionKey a))) s.regions }

/-- A request at a home slice is counted (R234). -/
def countRequest (s : State) (a : Nat) (remotePinFree : Bool) : State :=
  countRegion s a fun r => { r with requests := r.requests + 1, rread := r.rread + remotePinFree.toNat }

/-- A BUSY-C entry caused by a write is counted (R234). -/
def countCollapse (s : State) (a : Nat) : State := countRegion s a fun r => { r with wcol := r.wcol + 1 }

/-- Replication degree a request uses (R233). -/
def degreeOf (s : State) (pa pin : Nat) : Nat :=
  if 4 ≤ pin then pin - 4 else (regionNow s (regionKey pa)).degree

/-- Dies of a sharer set (R230). -/
def shareCount (m : Nat) : Nat := popcount 4 m

/-- A beacon covers some byte of a range (R267). -/
def beaconCovers (s : State) (a n : Nat) : Bool := s.beacons.any fun b => overlap a n b.addr b.size

/-- A poisoned unit of package-level state is consumed (R27, R28): the package has to go to SAFE, for this die and unit. -/
def consumePackage (s : State) (place : ErrorPlace) (die unit : Nat) : State :=
  if s.poison.contains place then
    { s with pkg := { s.pkg with failing := some (die, unit) }, poison := s.poison.filter fun e => e != place }
  else s

/-- Unit number of a bank (R23), given as bank of the package. -/
def bankUnit (bank : Nat) : Nat := 160 + bank % 256

/-- A snoop-filter entry for a line with spans held by L1s of a die; a full slice displaces its oldest entry, whose spans are recalled
(R232). -/
def noteSnoop (s : State) (die ln : Nat) : State :=
  let sl := holderSlice die ln
  let s := consumePackage s (.snoop sl) die (bankUnit (sl * 4))
  if s.snoop.contains (sl, ln) then s
  else
    let mine := s.snoop.filter fun e => e.1 == sl
    let s := if Config.snoopEntries ≤ mine.length then match mine.head? with
        | some e =>
          let l := lineAt s e.2
          recallAll s e.2 (if die = homeDie (e.2 * 128) then l.spans.filter byCore else l.proxy)
        | none => s
      else s
    { s with snoop := s.snoop ++ [(sl, ln)] }

/-- Room for one more span in an owner map of four (R226): the span granted earliest is recalled. -/
def roomIn (s : State) (ln : Nat) (map : List Span) : State :=
  if 4 ≤ map.length then match map.head? with
    | some x => recallSpan s ln x
    | none => s
  else s

/-- An OWN span granted to a core's L1 in the owner map of its die (R226). -/
def grantSpan (s : State) (ln core ctx first len : Nat) : State :=
  let home := dieOf core = homeDie (ln * 128)
  let s := roomIn s ln (mapOf (lineAt s ln) ln core)
  let l := lineAt s ln
  let x : Span := ⟨core, first, len, false⟩
  let s := setLine s ln (if home then { l with spans := l.spans ++ [x] } else { l with proxy := l.proxy ++ [x] })
  l1Fill (noteSnoop s (dieOf core) ln) core ctx (ln * 128 + 4 * first) (4 * len) .own

/-- A span granted to a die's proxy slice in the home slice's owner map (R226, R230). -/
def grantProxy (s : State) (ln die first len : Nat) : State :=
  let s := roomIn s ln (lineAt s ln).spans
  let l := lineAt s ln
  setLine s ln { l with spans := l.spans ++ [⟨Config.cores + die, first, len, false⟩] }

/-- A value arrives for one lane of an operation. -/
def opArrive (s : State) (op lane value : Nat) : State :=
  modOp s op fun o => { o with left := o.left - 1, accesses := o.accesses.map fun a =>
    if a.lane == lane then { a with value := if o.kind = .store then a.value else value, done := o.kind != .store } else a }

/-- Lane access of an operation. -/
def opAccess (s : State) (op lane : Nat) : Option LaneAccess :=
  (aGet op s.ops).bind fun o => o.accesses.find? fun a => a.lane == lane

/-- A request leaves a replica at its die's proxy slice where that is permitted (R230): every read but UC. -/
def mayReplicate (r : HomeReq) : Bool := r.kind = .read && r.rt != 3

/-- A request that is served at home or at a proxy slice is counted (R234), and its line is held there, unless it is UC (R227). -/
def arriveAt (s : State) (ln : Nat) (r : HomeReq) (atHome : Bool) : State :=
  let hd := homeDie (ln * 128)
  let s := if atHome then countRequest s (ln * 128) (r.kind = .read && r.die != hd && r.pin = 0) else s
  if r.rt = 3 then s else holdLine s (if atHome then hd else r.die) ln r.ctx false (r.rt = 5)

/-- A request served once nothing holds it up (R228): the bytes read, the span granted, or the bytes written; at home or at a proxy slice. A UC or
ST read leaves no older clean copy of its bytes in the core's L1, since the core's reads do not go backwards (R246). -/
def serveReq (s : State) (ln : Nat) (r : HomeReq) (atHome : Bool) : State :=
  let s := arriveAt s ln r atHome
  let a := ln * 128 + 4 * r.first
  let value (s : State) : Nat := ((opAccess s r.op r.lane).map fun x => readMem s.mem x.pa x.size).getD 0
  match r.kind with
  | .write => putBack s r.bytes r.bad
  | .own =>
    let s := if beaconCovers s a (4 * r.len) then l1Fill s r.core r.ctx a (4 * r.len) .si
      else grantSpan s ln r.core r.ctx r.first r.len
    opArrive s r.op r.lane (value s)
  | .read =>
    let s := if r.rt = 1 || r.rt = 2 then l1Fill s r.core r.ctx a (4 * r.len) .si
      else if r.core < Config.cores && (r.rt = 3 || r.rt = 5) then dropClean s r.core (spanWords ln r.first r.len) else s
    opArrive s r.op r.lane (value s)
  | .atom => s

/-- The head of a line's queue served and removed, with the directory's next state. -/
def serveHead (s : State) (ln : Nat) (r : HomeReq) (dir : DirState) (atHome : Bool) : State :=
  let l := lineAt s ln
  serveReq (setLine s ln { l with queue := l.queue.tail, dir := dir }) ln r atHome

/-- Spans that a request has to recall first (R225, R226, R228): those that hold a word of its bytes, or of its span. -/
def blocking (l : Line) (r : HomeReq) : List Span :=
  (spansMeeting l r.first r.len).filter fun x => r.bytes.isEmpty || r.bytes.any fun b => overlap x.first x.len (b.1 % 128 / 4) 1

/-- Spans of a line marked for recall (R226). -/
def markRecall (s : State) (ln : Nat) (sps : List Span) : State :=
  let l := lineAt s ln
  let mark (x : Span) : Span := if sps.contains x then { x with recalled := true } else x
  setLine s ln { l with spans := l.spans.map mark, proxy := l.proxy.map mark }

/-- The request at the head of a line's queue reaches the home slice in UNC (R230). -/
def homeUnc (s : State) (ln : Nat) (r : HomeReq) : State :=
  let l := lineAt s ln
  let away := r.die != homeDie (ln * 128)
  if !(blocking l r).isEmpty then markRecall s ln (blocking l r)
  else if r.kind = .own && away then
    serveHead (grantProxy (holdLine s r.die ln r.ctx false false) ln r.die r.first r.len) ln r (.busyX r.die) true
  else if mayReplicate r && away && 0 < degreeOf s (ln * 128) r.pin then
    serveHead (holdLine s r.die ln r.ctx false (r.rt = 5)) ln r (.busyR r.die 0) true
  else serveHead s ln r .unc true

/-- The words that a core asks to own hold dirty SI bytes in its L1. -/
def ownDirty (s : State) (ln : Nat) (r : HomeReq) : Bool :=
  r.kind = .own && !(dirtyIn s r.core (fun w => w.kind = .si) (spanWords ln r.first r.len)).isEmpty

/-- These go to the home slice before the span is granted, ahead of the request. -/
def cleanFirst (s : State) (ln : Nat) (r : HomeReq) : State :=
  let s := writeBackWords s r.core ln (spanWords ln r.first r.len)
  let l := lineAt s ln
  setLine s ln { l with queue := l.queue.getLast?.toList ++ l.queue.dropLast }

/-- HOME_REQUEST: the oldest request of a line acts on the directory (R228, R230, R231). A UC read is performed at home even where its die
holds a replica. -/
def homeStep (s : State) (ln : Nat) : State :=
  match (lineAt s ln).queue.head? with
  | none => s
  | some r =>
    let s := consumePackage s (.directory ln) (homeDie (ln * 128)) (bankUnit (homeBank (ln * 128)))
    let l := lineAt s ln
    if ownDirty s ln r && !busyLine l then cleanFirst s ln r
    else match l.dir with
    | .unc => homeUnc s ln r
    | .rsh sh =>
      let deg := degreeOf s (ln * 128) r.pin
      let near := mayReplicate r && hasBit sh r.die
      if r.kind != .read || (!near && deg < shareCount sh) then
        setLine (if r.kind = .write || r.kind = .atom then countCollapse s (ln * 128) else s) ln { l with dir := .busyC sh }
      else if !(blocking l r).isEmpty then markRecall s ln (blocking l r)
      else if mayReplicate r && r.die != homeDie (ln * 128) && !near && shareCount sh < deg then
        serveHead (holdLine s r.die ln r.ctx false (r.rt = 5)) ln r (.busyR r.die sh) true
      else serveHead s ln r (.rsh sh) (!near)
    | .rex e =>
      if r.die != e then setLine s ln { l with dir := .busyW e }
      else if !(blocking l r).isEmpty then markRecall s ln (blocking l r)
      else serveHead s ln r (.rex e) false
    | _ => s

/-- A die's replica is invalidated (R230); after the last one the line is UNC. -/
def invalidate (s : State) (ln die left : Nat) : State :=
  let left := maskDiff left (2 ^ die)
  let s := unholdLine s die ln
  setLine s ln { lineAt s ln with dir := if left = 0 then .unc else .busyC left }

/-- The first span marked for recall is written back and dropped (R226). -/
def recallMarked (s : State) (ln : Nat) : State :=
  match ((lineAt s ln).spans ++ (lineAt s ln).proxy).find? (·.recalled) with
  | some x => recallSpan s ln x
  | none => s

/-- What a line does next at its home: its transient state ends, a marked span is recalled, or the oldest request acts (R230, R231). -/
def lineStep (s : State) (ln : Nat) : State :=
  let l := lineAt s ln
  match l.dir with
  | .busyR e sh => setLine s ln { l with dir := .rsh (sh ||| 2 ^ e) }
  | .busyX e => setLine s ln { l with dir := .rex e }
  | .busyC left => invalidate s ln (lowestBit left) left
  | .busyW e => giveUp s e ln
  | _ => if (l.spans ++ l.proxy).any (·.recalled) then recallMarked s ln else homeStep s ln

/-- A line's steps until it stands still with no request queued. -/
def settleSteps (ln : Nat) : Nat → State → State
  | 0, s => s
  | fuel + 1, s =>
    let l := lineAt s ln
    if l.queue.isEmpty && !busyLine l && !((l.spans ++ l.proxy).any (·.recalled)) then s
    else settleSteps ln fuel (lineStep s ln)

/-- Every request queued for a line served, in order (R231); each takes fewer than 32 steps. -/
def settleLine (s : State) (ln : Nat) : State := settleSteps ln (32 * ((lineAt s ln).queue.length + 2)) s

/-- On whose behalf a request is made: die (none for the line's own home die), context, PIN and NC of the leaf (R233, R236), and request type: 3
for UC, 6 for an engine's of which the manual names none. -/
structure Who where
  die : Option Nat
  ctx : Nat
  pin : Nat
  nc : Bool
  rt : Nat
  deriving DecidableEq, Repr

/-- A request made for a core. -/
def whoOf (core ctx pin : Nat) : Who := ⟨some (dieOf core), ctx, pin, false, 6⟩
/-- A request made for a core through a leaf. -/
def whoLeaf (core ctx leaf : Nat) : Who := ⟨some (dieOf core), ctx, ePin leaf, eNc leaf, 6⟩
/-- A request of the module operating system, the host or a peer, made at the line's home die. -/
def whoHome (ctx : Nat) : Who := ⟨none, ctx, 0, false, 6⟩

/-- A request of an engine for a span of a line. -/
def engReq (w : Who) (kind : HomeKind) (ln a n : Nat) (bytes : List (Nat × Nat)) : HomeReq :=
  let sp := wordSpan a n
  { op := 0, lane := 0, kind := kind, core := Config.cores, die := w.die.getD (homeDie (ln * 128)), ctx := w.ctx, first := sp.1, len := sp.2,
    pin := w.pin, rt := w.rt, bytes := bytes, bad := [], gang := 0 }

/-- The part of a byte range that lies in a line. -/
def partIn (ln a n : Nat) : Nat × Nat :=
  let lo := Nat.max a (ln * 128)
  (lo, Nat.min (a + n) (ln * 128 + 128) - lo)

/-- A request that is served before anything else happens: the line's queue, with the request at its end, is worked off (R230, R231). -/
def homeDo (s : State) (ln : Nat) (r : HomeReq) : State := settleLine (askLine s ln r) ln

/-- Requests of one kind for each line of a byte range, served. -/
def homeEach (s : State) (w : Who) (kind : HomeKind) (a n : Nat) (bytes : List (Nat × Nat)) : State :=
  (linesOf a n).foldl (fun s ln =>
    let p := partIn ln a n
    homeDo s ln (engReq w kind ln p.1 p.2 (bytes.filter fun b => b.1 / 128 == ln))) s

/-- A request at the home slice of a page that is not coherent (R236): counted, and its line held there unless it is UC. No directory, owner
map or replica takes part. -/
def ncRequest (s : State) (w : Who) (read : Bool) (a n : Nat) : State :=
  (linesOf a n).foldl (fun s ln =>
    let hd := homeDie (ln * 128)
    let s := countRequest s (ln * 128) (read && w.die.getD hd != hd && w.pin = 0)
    if w.rt = 3 then s else holdLine s hd ln w.ctx false (w.rt = 5)) s

/-- A request of a context that goes out to the host carries its PASID (R404). -/
def hostSend (s : State) (c : Nat) (kind : HostKind) (a n : Nat) : State :=
  if isHost a then { s with hostSent := s.hostSent ++ [⟨pasidOf s c, kind, a - hostBase, n⟩] } else s

/-- A read at the home slice (R228): owners recalled, then the bytes. Host and weight-store bytes have no home slice. -/
def homeRead (s : State) (w : Who) (a n : Nat) : State × List Nat :=
  let s := if !isDevice a then hostSend s w.ctx .read a n else if w.nc then ncRequest s w true a n else homeEach s w .read a n []
  (s, readBytes s.mem (copyAt (w.die.getD 0) a) n)

/-- A write at the home slice (R228): owners recalled, replicas collapsed, then the bytes. -/
def homeWrite (s : State) (w : Who) (a : Nat) (bytes : List Nat) : State :=
  if !isDevice a then memPut (hostSend s w.ctx .write a bytes.length) a bytes
  else if w.nc then memPut (ncRequest s w false a bytes.length) a bytes
  else homeEach s w .write a bytes.length (bytesAt a bytes)

/-- An atomic's turn at the home slice (R262, R263): afterwards its bytes may be read and written in place. -/
def homeOpen (s : State) (w : Who) (a n : Nat) : State := if isDevice a then homeEach s w .atom a n [] else s

/-- Exclusive ownership of a span obtained for a core's L1 before anything else happens (R226, R263). -/
def obtainOwn (s : State) (core ctx pin a n : Nat) : State :=
  let sp := wordSpan a n
  homeDo s (a / 128)
    { op := 0, lane := 0, kind := .own, core := core, die := dieOf core, ctx := ctx, first := sp.1, len := sp.2, pin := pin, rt := 0,
      bytes := [], bad := [], gang := 0 }

/-- Every dirty SI byte of a core's L1 on coherent pages written back and accepted (R257, release part). -/
def flushDirtySi (s : State) (core : Nat) : State :=
  let lines := uniq ((l1Words s core fun a w => w.kind = .si && w.dirty != 0 && isDevice a).map (· / 128))
  lines.foldl (fun s ln => settleLine (writeBackLine s core ln) ln) s

/-- Bytes that an atomic op acts on (R261). -/
def atomSize (op : Nat) : Nat := if op = 11 || op = 12 then 16 else if 13 ≤ op then 8 else 4

/-- Bytes that a peer request covers. -/
def askSize : PeerOp → Nat
  | .read n => n
  | .write bytes => bytes.length
  | .atomic op _ _ => atomSize op

/-- A request that reads. -/
def isRead : PeerOp → Bool
  | .read _ => true
  | _ => false

/-- Reads of a peer still in flight that some of these requests are do not leave their data in any cache. -/
def unkeep (s : State) (which : PeerReq → Bool) : State :=
  { s with peers := s.peers.map fun e => if isRead e.2.ask && which e.2 then (e.1, { e.2 with fill := 3 }) else e }

/-- Acquire at a scope (R227, R237, R257): SI copies of coherent lines at CLUSTER or wider; at SYSTEM also SI copies of host
and peer lines and the context's P lines, those still on their way among them. -/
def acquire (s : State) (scope core ctx : Nat) : State :=
  if scope = 0 then s
  else
    let s := flushDirtySi s core
    let s := dropWords s core (l1Words s core fun a w => w.kind = .si && (isDevice a || scope = 4))
    if scope = 4 then unkeep (dropCached s (fun c => c.peer && c.ctx == ctx)) fun r => r.ctx == ctx || r.core == core else s

/-- Cores whose L1 holds some byte of a range. -/
def coresWith (s : State) (a n : Nat) : List Nat := uniq ((s.l1.filter fun e => overlap (e.1 % 2 ^ 56 * 4) 4 a n).map fun e => e.1 / 2 ^ 56)

/-- The host writes device memory (R415): at the home slice, after what cores and requests have for it; no L1 keeps an older copy. -/
def hostStore (s : State) (a : Nat) (bytes : List Nat) : State :=
  let n := bytes.length
  if !((List.range n).all fun i => installed (a + i)) then s
  else
    let s := (coresWith s a n).foldl (fun s core => writeBackRange s core a n) s
    let s := homeWrite s (whoHome 0) a bytes
    (coresWith s a n).foldl (fun s core => dropClean s core (wordsOf a n)) s

/-- Set of a read-only cache (R255). -/
def roSet (ln : Nat) : Nat := ln % 32

/-- Lines leave a read-only cache, and with them the poison of its units (R27). -/
def roDrop (s : State) (gone : RoLine → Bool) : State :=
  { s with ro := s.ro.filter fun x => !gone x,
           poison := s.poison.filter fun p => match p with
             | .ro c u => !(s.ro.any fun x => gone x && x.core == c && x.line == u / 16)
             | _ => true }

/-- A line placed in a core's read-only cache as most recently used; the least recently used of a full set leaves (R255). -/
def roInsert (s : State) (x : RoLine) : State :=
  let rest := s.ro.filter fun y => !(y.core == x.core && y.line == x.line)
  let same := rest.filter fun y => y.core == x.core && roSet y.line == roSet x.line
  let s := { s with ro := rest }
  let s := if 16 ≤ same.length then match same.head? with
    | some v => roDrop s fun y => y.core == v.core && y.line == v.line
    | none => s
    else s
  { s with ro := s.ro ++ [x] }

/-- A line of a core's read-only cache (R255). -/
def roFind (s : State) (core ln : Nat) : Option RoLine := s.ro.find? fun x => x.core == core && x.line == ln

/-- Address of the first byte of a range in a poisoned unit, as a read through the read-only path meets it: in the resident line, or in
the line that fills it (R27, R28). -/
def poisonedRo (s : State) (core a n : Nat) : Option Nat :=
  if (roFind s core (a / 128)).isSome then
    (List.range n).findSome? fun i => if s.poison.contains (.ro core ((a + i) / 8)) then some (a + i) else none
  else poisonedFor s core a n

/-- A peer line that a die's proxy slice holds is used (R238). -/
def touchP (s : State) (die ctx ln : Nat) : State := if hasP s die ln then holdLine s die ln ctx true false else s

/-- What a fill of the read-only cache brings (R255): the line's bytes, words that the core's L1 holds from the L1 and the others at the home
slice, and the units of it that are poisoned. -/
def roLine (s : State) (w : Who) (core ctx ln : Nat) : State × List Nat × List Nat :=
  let words := (spanWords ln 0 32).filter fun a => !l1Has s core a 4
  let bad := (List.range 16).filter fun i => ((List.range 2).any fun j =>
    let a := ln * 128 + 8 * i + 4 * j
    if l1Has s core a 4 then s.poison.contains (.l1 core (a / 8)) else (poisonedVia false s core a 4).isSome)
  let s := if words.length = 32 then (homeRead s w (ln * 128) 128).1 else words.foldl (fun s a => (homeRead s w a 4).1) s
  let s := if isPeer (ln * 128) then touchP s (dieOf core) ctx ln else s
  (s, (List.range 128).map (fun i => (l1ByteAt s core (ln * 128 + i)).getD (bGet s.mem (copyAt (dieOf core) (ln * 128 + i)))), bad)

/-- A line filled into a core's read-only cache (R255). A poisoned unit stays poisoned in the copy. -/
def roFill (s : State) (w : Who) (core ctx ln : Nat) : State :=
  let x := roLine s w core ctx ln
  addPoison (roInsert x.1 ⟨core, ln, ctx, x.2.1⟩) (x.2.2.map fun i => ErrorPlace.ro core (ln * 16 + i))

/-- A read through the read-only cache (R255, R408): a hit returns the resident bytes; a miss fills the line first. -/
def roRead (s : State) (w : Who) (core ctx a n : Nat) : State × List Nat :=
  let s := match roFind s core (a / 128) with
    | some x => roInsert s x
    | none => roFill s w core ctx (a / 128)
  (s, (List.range n).map fun i => nth (((roFind s core (a / 128)).map (·.bytes)).getD []) (a % 128 + i))

/-- HOME_REQUEST (R228). -/
def execHomeRequest (s : State) : Host.Outcome State Fault Refusal :=
  match s.subject with
  | .one ln => .next (homeStep s ln)
  | _ => .next s

/-- SPAN_RECALL (R226): the first span marked for recall is written back and dropped. -/
def execSpanRecall (s : State) : Host.Outcome State Fault Refusal :=
  match s.subject with
  | .one ln => .next (recallMarked s ln)
  | _ => .next s

/-- REPLICA_CONFIRM (R230): BUSY-R to RSH. -/
def execReplicaConfirm (s : State) : Host.Outcome State Fault Refusal :=
  match s.subject with
  | .one ln => match (lineAt s ln).dir with
    | .busyR e sh => .next (setLine s ln { lineAt s ln with dir := .rsh (sh ||| 2 ^ e) })
    | _ => .next s
  | _ => .next s

/-- OWN_CONFIRM (R230): BUSY-X to REX. -/
def execOwnConfirm (s : State) : Host.Outcome State Fault Refusal :=
  match s.subject with
  | .one ln => match (lineAt s ln).dir with
    | .busyX e => .next (setLine s ln { lineAt s ln with dir := .rex e })
    | _ => .next s
  | _ => .next s

/-- INVALIDATION_CONFIRM (R230): a die's replica is gone; after the last one the line is UNC and the waiting request proceeds. -/
def execInvalidationConfirm (s : State) : Host.Outcome State Fault Refusal :=
  match s.subject with
  | .two ln die => match (lineAt s ln).dir with
    | .busyC left =>
      let t := invalidate s ln die left
      .next (if (lineAt t ln).dir = .unc then homeStep t ln else t)
    | _ => .next s
  | _ => .next s

/-- OWNED_WRITEBACK (R230): the owning die's spans are written back, the line is UNC and the waiting request proceeds. -/
def execOwnedWriteback (s : State) : Host.Outcome State Fault Refusal :=
  match s.subject with
  | .one ln => match (lineAt s ln).dir with
    | .busyW e => .next (homeStep (giveUp s e ln) ln)
    | _ => .next s
  | _ => .next s

/-- PROXY_EVICTION (R231): a replica or an owned copy leaves a proxy slice after its dirty bytes are written back. -/
def execProxyEviction (s : State) : Host.Outcome State Fault Refusal :=
  match s.subject with
  | .two ln die => match (lineAt s ln).dir with
    | .rsh sh =>
      let sh := maskDiff sh (2 ^ die)
      .next (setLine (unholdLine s die ln) ln { lineAt s ln with dir := if sh = 0 then .unc else .rsh sh })
    | .rex e => .next (if e = die then giveUp s e ln else s)
    | _ => .next s
  | _ => .next s

/-- REPLICATION_INTERVAL_END (R234, R235): a region, named by the place of its counts, whose requests have reached the length of an
interval. -/
def execReplicationIntervalEnd (s : State) : Host.Outcome State Fault Refusal :=
  match s.subject with
  | .one key => match aGet key s.regions with
    | some _ => .next { s with regions := aSet key (regionNow s key) s.regions }
    | none => .next s
  | _ => .next s

/-- READ_ONLY_DROP_END (R409): the drop of a core's read-only cache ends. -/
def execReadOnlyDropEnd (s : State) : Host.Outcome State Fault Refusal :=
  match s.subject with
  | .one core =>
    if s.roDrops.contains core then
      .next (roDrop { s with roDrops := s.roDrops.filter fun c => c != core } fun x => x.core == core)
    else .next s
  | _ => .next s

end Sys2Proof.Machine
end

