-- ==== Sys2Proof/Machine/Num.lean ====
section
/-! DEFINITION. Numbers to the bit (spec/04_numbers.md R75 to R83): formats, rounding with its flags, and the arithmetic,
comparisons and conversions that spec/10_lane_float.md states over them (R191 to R199). A floating value is handled by its
bits; exact values are sign, magnitude and a power of two. -/

namespace Sys2Proof.Machine

/-- A floating-point format (R75): exponent width, fraction width, bias, largest finite code, and what it has. -/
structure Fmt where
  ew : Nat
  fw : Nat
  bias : Nat
  maxCode : Nat
  hasInf : Bool
  hasNan : Bool
  deriving DecidableEq, Repr

def f64 : Fmt := ⟨11, 52, 1023, 0x7FEFFFFFFFFFFFFF, true, true⟩
def f32 : Fmt := ⟨8, 23, 127, 0x7F7FFFFF, true, true⟩
def f16 : Fmt := ⟨5, 10, 15, 0x7BFF, true, true⟩
def bf16 : Fmt := ⟨8, 7, 127, 0x7F7F, true, true⟩
def e5m2 : Fmt := ⟨5, 2, 15, 0x7B, true, true⟩
def e4m3 : Fmt := ⟨4, 3, 7, 0x7E, false, true⟩
def e3m2 : Fmt := ⟨3, 2, 3, 0x1F, false, false⟩
def e2m3 : Fmt := ⟨2, 3, 1, 0x1F, false, false⟩
def e2m1 : Fmt := ⟨2, 1, 1, 0x7, false, false⟩

/-- The sign bit's weight. -/
def Fmt.signBit (f : Fmt) : Nat := 2 ^ (f.ew + f.fw)

/-- FPSTAT flags as FPSTAT holds them (R189). -/
def flagNV : Nat := 1
def flagDZ : Nat := 2
def flagOF : Nat := 4
def flagUF : Nat := 8
def flagNX : Nat := 16

/-- A value as its bits mean it (R75, R77). A NaN keeps its fraction; a finite value is (−1)^neg · m · 2^e. -/
inductive FVal where
  | nan (neg : Bool) (frac : Nat)
  | inf (neg : Bool)
  | fin (neg : Bool) (m : Nat) (e : Int)
  deriving DecidableEq, Repr

/-- Reading bits in a format (R75). -/
def unpack (f : Fmt) (x : Nat) : FVal :=
  let neg := hasBit x (f.ew + f.fw)
  let ex := bits x (f.ew + f.fw - 1) f.fw
  let fr := x % 2 ^ f.fw
  let code := x % f.signBit
  if f.hasNan && code > (if f.hasInf then f.maxCode + 1 else f.maxCode) then .nan neg fr
  else if f.hasInf && code > f.maxCode then .inf neg
  else if ex == 0 then .fin neg fr (1 - (f.bias : Int) - f.fw)
  else .fin neg (fr + 2 ^ f.fw) ((ex : Int) - f.bias - f.fw)

def isNan (f : Fmt) (x : Nat) : Bool :=
  match unpack f x with
  | .nan _ _ => true
  | _ => false

/-- A signalling NaN: a NaN whose quiet bit is clear; E4M3's NaN is quiet (R77). -/
def isSnan (f : Fmt) (x : Nat) : Bool := isNan f x && f.hasInf && !hasBit x (f.fw - 1)

/-- The bits with the quiet bit set. -/
def quieten (f : Fmt) (x : Nat) : Nat := x ||| 2 ^ (f.fw - 1)

/-- The default NaN (R77). -/
def defaultNan (f : Fmt) : Nat :=
  if f.hasInf then (2 ^ f.ew - 1) * 2 ^ f.fw + 2 ^ (f.fw - 1) else f.maxCode + 1

def signed (f : Fmt) (neg : Bool) (code : Nat) : Nat := if neg then code + f.signBit else code

def infBits (f : Fmt) (neg : Bool) : Nat := signed f neg (if f.hasInf then f.maxCode + 1 else f.maxCode)

/-- Rounding modes of FPMODE (R79): 0 RNE, 1 RZ, 2 RU, 3 RD. Whether a magnitude with this remainder is raised by one unit. -/
def roundUp (mode : Nat) (neg : Bool) (q r d : Nat) : Bool :=
  if r == 0 then false
  else match mode with
    | 0 => 2 * r > d || (2 * r == d && q % 2 == 1)
    | 1 => false
    | 2 => !neg
    | _ => neg

/-- The overflow result of R80. -/
def overflowCode (f : Fmt) (mode : Nat) (neg : Bool) : Nat :=
  if f.hasInf && (mode == 0 || (mode == 2 && !neg) || (mode == 3 && neg)) then f.maxCode + 1 else f.maxCode

/-- round() (R14, R80) of the exact value (−1)^neg · n/d · 2^e with n and d positive: the bits and the flags. -/
def roundMag (f : Fmt) (mode : Nat) (neg : Bool) (n d : Nat) (e : Int) : Nat × Nat :=
  let l0 : Int := (Nat.log2 n : Int) - Nat.log2 d
  -- the exponent of n/d is l0 or l0 - 1
  let below := if l0 ≥ 0 then n < d * 2 ^ l0.toNat else n * 2 ^ (-l0).toNat < d
  let ex : Int := (if below then l0 - 1 else l0) + e
  let emin : Int := 1 - (f.bias : Int)
  let q : Int := (if ex < emin then emin else ex) - f.fw
  let sh := e - q
  let num := if sh ≥ 0 then n * 2 ^ sh.toNat else n
  let den := if sh ≥ 0 then d else d * 2 ^ (-sh).toNat
  let t0 := num / den
  let r := num % den
  let t := if roundUp mode neg t0 r den then t0 + 1 else t0
  let code : Int := if t < 2 ^ f.fw then (t : Int)
    else (q + f.fw + f.bias) * ((2 ^ f.fw : Nat) : Int) + t - ((2 ^ f.fw : Nat) : Int)
  let inexact := r != 0
  if code > (f.maxCode : Int) then (signed f neg (overflowCode f mode neg), flagOF ||| flagNX)
  else (signed f neg code.toNat, (if inexact then flagNX else 0) ||| (if inexact && ex < emin then flagUF else 0))

/-- round() of an exact dyadic m · 2^e; an exact zero takes the given sign. -/
def roundDyadic (f : Fmt) (mode : Nat) (zeroNeg : Bool) (m : Int) (e : Int) : Nat × Nat :=
  if m == 0 then (signed f zeroNeg 0, 0) else roundMag f mode (m < 0) m.natAbs 1 e

/-- An exact integer times a power of two (R10: values are exact). -/
structure Dyadic where
  m : Int
  e : Int
  deriving DecidableEq, Repr

def Dyadic.zero : Dyadic := ⟨0, 0⟩

def Dyadic.add (a b : Dyadic) : Dyadic :=
  if a.e ≤ b.e then ⟨a.m + b.m * ((2 ^ (b.e - a.e).toNat : Nat) : Int), a.e⟩
  else ⟨a.m * ((2 ^ (a.e - b.e).toNat : Nat) : Int) + b.m, b.e⟩

def Dyadic.neg (a : Dyadic) : Dyadic := ⟨-a.m, a.e⟩
def Dyadic.sub (a b : Dyadic) : Dyadic := a.add b.neg
def Dyadic.mul (a b : Dyadic) : Dyadic := ⟨a.m * b.m, a.e + b.e⟩
def Dyadic.lt (a b : Dyadic) : Bool := (a.sub b).m < 0
def Dyadic.le (a b : Dyadic) : Bool := (a.sub b).m ≤ 0
def Dyadic.isZero (a : Dyadic) : Bool := a.m == 0
def Dyadic.abs (a : Dyadic) : Dyadic := ⟨(a.m.natAbs : Int), a.e⟩
def Dyadic.ofInt (x : Int) : Dyadic := ⟨x, 0⟩

/-- The exact value of a finite pattern; zero for the others. -/
def FVal.dyadic : FVal → Dyadic
  | .fin neg m e => ⟨if neg then -(m : Int) else m, e⟩
  | _ => Dyadic.zero

def FVal.isNeg : FVal → Bool
  | .nan s _ => s
  | .inf s => s
  | .fin s _ _ => s

def FVal.isZeroVal : FVal → Bool
  | .fin _ m _ => m == 0
  | _ => false

def FVal.negate : FVal → FVal
  | .nan s p => .nan s p
  | .inf s => .inf !s
  | .fin s m e => .fin (!s) m e

def isFinite (f : Fmt) (x : Nat) : Bool :=
  match unpack f x with
  | .fin _ _ _ => true
  | _ => false

/-- The exact value of finite bits. -/
def dyadicOf (f : Fmt) (x : Nat) : Dyadic := (unpack f x).dyadic

/-- The first NaN operand, quieted, and NV if any operand signals (R77, R78). -/
def nanResult (f : Fmt) (xs : List Nat) : Option (Nat × Nat) :=
  match xs.find? (isNan f) with
  | none => none
  | some x => some (quieten f x, if xs.any (isSnan f) then flagNV else 0)

/-- The sign of an exact zero sum: both operands' sign where they agree, else − only under RD (R191). -/
def zeroSumNeg (mode : Nat) (na nb : Bool) : Bool := if na == nb then na else mode == 3

/-- The sum of two values without NaNs, rounded once (R191). -/
def sumVals (f : Fmt) (mode : Nat) (a b : FVal) : Nat × Nat :=
  match a, b with
  | .inf sa, .inf sb => if sa == sb then (infBits f sa, 0) else (defaultNan f, flagNV)
  | .inf sa, _ => (infBits f sa, 0)
  | _, .inf sb => (infBits f sb, 0)
  | _, _ =>
    let s := a.dyadic.add b.dyadic
    let zn := if a.isZeroVal && b.isZeroVal then zeroSumNeg mode a.isNeg b.isNeg else mode == 3
    roundDyadic f mode zn s.m s.e

/-- The exact product of two values without NaNs; none for 0 · ∞. -/
def prodVals (a b : FVal) : Option FVal :=
  let s := a.isNeg != b.isNeg
  match a, b with
  | .fin _ m e, .fin _ m' e' => some (.fin s (m * m') (e + e'))
  | .inf _, .fin _ m _ => if m == 0 then none else some (.inf s)
  | .fin _ m _, .inf _ => if m == 0 then none else some (.inf s)
  | _, _ => some (.inf s)

/-- A value rounded into a format (R14): zeros and infinities keep their sign. -/
def roundVal (f : Fmt) (mode : Nat) (v : FVal) : Nat × Nat :=
  match v with
  | .nan s _ => (signed f s (defaultNan f), 0)
  | .inf s => (infBits f s, 0)
  | .fin s m e => if m == 0 then (signed f s 0, 0) else roundMag f mode s m 1 e

/-- a + b (R191, R192). -/
def fpAdd (f : Fmt) (mode a b : Nat) : Nat × Nat :=
  match nanResult f [a, b] with
  | some r => r
  | none => sumVals f mode (unpack f a) (unpack f b)

/-- a − b. A NaN operand is not negated. -/
def fpSub (f : Fmt) (mode a b : Nat) : Nat × Nat :=
  match nanResult f [a, b] with
  | some r => r
  | none => sumVals f mode (unpack f a) (unpack f b).negate

/-- a · b (R191). -/
def fpMul (f : Fmt) (mode a b : Nat) : Nat × Nat :=
  match nanResult f [a, b] with
  | some r => r
  | none =>
    match prodVals (unpack f a) (unpack f b) with
    | none => (defaultNan f, flagNV)
    | some p => roundVal f mode p

/-- ±(a·b) ± c, rounded once (R191, R193). 0 · ∞ gives the default NaN whatever c holds. -/
def fpFma (f : Fmt) (mode : Nat) (negP negC : Bool) (a b c : Nat) : Nat × Nat :=
  let prod := if isNan f a || isNan f b then none else prodVals (unpack f a) (unpack f b)
  if !(isNan f a) && !(isNan f b) && prod.isNone then (defaultNan f, flagNV)
  else match nanResult f [a, b, c] with
    | some r => r
    | none =>
      match prod with
      | none => (defaultNan f, flagNV)
      | some p =>
        sumVals f mode (if negP then p.negate else p) (if negC then (unpack f c).negate else unpack f c)

/-- A total key for ordering patterns without NaN, −0 below +0 (R78). -/
def orderKey (f : Fmt) (x : Nat) : Int :=
  let code := x % f.signBit
  if hasBit x (f.ew + f.fw) then -(code : Int) - 1 else code

/-- minimumNumber and maximumNumber (R78): NV for a signalling operand only. -/
def fpMinMax (f : Fmt) (max : Bool) (a b : Nat) : Nat × Nat :=
  let fl := if isSnan f a || isSnan f b then flagNV else 0
  if isNan f a && isNan f b then (quieten f a, fl)
  else if isNan f a then (b, fl)
  else if isNan f b then (a, fl)
  else if max then (if orderKey f a < orderKey f b then b else a, fl)
  else (if orderKey f b < orderKey f a then b else a, fl)

/-- Ordered comparison of two values without NaN: −1, 0 or 1; −0 equals +0 (R196). -/
def fpOrder (a b : FVal) : Int :=
  match a, b with
  | .inf sa, .inf sb => if sa == sb then 0 else if sa then -1 else 1
  | .inf sa, _ => if sa then -1 else 1
  | _, .inf sb => if sb then 1 else -1
  | _, _ =>
    let d := a.dyadic.sub b.dyadic
    if d.m < 0 then -1 else if d.m == 0 then 0 else 1

/-- FCMP (R196): cond 0 EQ, 1 NE, 2 LT, 3 LE, 4 GT, 5 GE, 6 UN, 7 ORD. -/
def fpCompare (f : Fmt) (cond a b : Nat) : Bool × Nat :=
  let un := isNan f a || isNan f b
  let sn := isSnan f a || isSnan f b
  let fl := if sn || (un && 2 ≤ cond && cond ≤ 5) then flagNV else 0
  let o := fpOrder (unpack f a) (unpack f b)
  let r := match cond with
    | 0 => !un && o == 0
    | 1 => un || o != 0
    | 2 => !un && o < 0
    | 3 => !un && o ≤ 0
    | 4 => !un && o > 0
    | 5 => !un && o ≥ 0
    | 6 => un
    | _ => !un
  (r, fl)

/-- An exact value rounded to an integer under a mode (R79, R198). -/
def roundToInt (mode : Nat) (neg : Bool) (m : Nat) (e : Int) : Int × Bool :=
  if e ≥ 0 then
    let v : Int := ((m * 2 ^ e.toNat : Nat) : Int)
    (if neg then -v else v, false)
  else
    let d := 2 ^ (-e).toNat
    let q := m / d
    let r := m % d
    let t := if roundUp mode neg q r d then q + 1 else q
    (if neg then -(t : Int) else t, r != 0)

/-- FRND (R192): an integral value of the same format; mode by the b field (near, trunc, floor, ceil). -/
def fpRound (f : Fmt) (b a : Nat) : Nat × Nat :=
  match unpack f a with
  | .nan _ _ => (quieten f a, if isSnan f a then flagNV else 0)
  | .inf _ => (a, 0)
  | .fin neg m e =>
    if m == 0 then (a, 0)
    else
      let mode := if b == 0 then 0 else if b == 1 then 1 else if b == 2 then 3 else 2
      let (v, _) := roundToInt mode neg m e
      if v == 0 then (signed f neg 0, 0) else ((roundMag f 0 (v < 0) v.natAbs 1 0).1, 0)

/-- Floating to integer (R198): lo and hi bound the range; the result is the low n bits. -/
def fpToInt (f : Fmt) (mode : Nat) (lo hi : Int) (n a : Nat) : Nat × Nat :=
  match unpack f a with
  | .nan _ _ => (0, flagNV)
  | .inf s => (wrapInt (if s then lo else hi) n, flagNV)
  | .fin neg m e =>
    let (v, nx) := roundToInt mode neg m e
    if v < lo then (wrapInt lo n, flagNV)
    else if v > hi then (wrapInt hi n, flagNV)
    else (wrapInt v n, if nx then flagNX else 0)

/-- Integer to floating under a mode (R197). -/
def intToFp (f : Fmt) (mode : Nat) (x : Int) : Nat × Nat := roundDyadic f mode false x 0

/-- A NaN moved between formats (R78, R199): sign kept, the payload's high bits kept, quieted. -/
def nanConvert (src dst : Fmt) (x : Nat) : Nat :=
  let neg := hasBit x (src.ew + src.fw)
  let fr := x % 2 ^ src.fw
  let fr' := if dst.fw ≥ src.fw then fr * 2 ^ (dst.fw - src.fw) else fr / 2 ^ (src.fw - dst.fw)
  quieten dst (signed dst neg ((2 ^ dst.ew - 1) * 2 ^ dst.fw + fr'))

/-- Conversion between binary formats and BF16 (R197, R199). -/
def fpConvert (src dst : Fmt) (mode x : Nat) : Nat × Nat :=
  match unpack src x with
  | .nan _ _ => (nanConvert src dst x, if isSnan src x then flagNV else 0)
  | v => roundVal dst mode v

/-- Conversion from binary32 or binary64 to a narrow element format (R81); `sat` is the saturating E5M2 form. -/
def toNarrow (src dst : Fmt) (sat : Bool) (x : Nat) : Nat × Nat :=
  match unpack src x with
  | .nan neg _ =>
    if dst.hasNan then (signed dst neg (defaultNan dst), if isSnan src x then flagNV else 0) else (0, flagNV)
  | .inf neg =>
    if dst.hasInf then (if sat then (signed dst neg dst.maxCode, 0) else (infBits dst neg, 0))
    else (signed dst neg dst.maxCode, flagOF ||| flagNX)
  | .fin neg m e =>
    if m == 0 then (signed dst neg 0, 0)
    else
      let (r, fl) := roundMag dst 0 neg m 1 e
      if sat && r % dst.signBit > dst.maxCode then (signed dst neg dst.maxCode, fl) else (r, fl)

/-- Conversion from FP8 to binary32 (R81, R199): exact; a NaN gives the default NaN with its sign. -/
def fromNarrow (src dst : Fmt) (x : Nat) : Nat × Nat :=
  match unpack src x with
  | .nan neg _ => (signed dst neg (defaultNan dst), if isSnan src x then flagNV else 0)
  | v => roundVal dst 0 v

/-- floor(log2 |m·2^e|) of a nonzero value. -/
def Dyadic.log2 (a : Dyadic) : Int := (Nat.log2 a.m.natAbs : Int) + a.e

/-- A non-rational value known to lie strictly between n·2^e and (n+1)·2^e, rounded once. -/
def roundSticky (f : Fmt) (mode : Nat) (neg : Bool) (n : Nat) (e : Int) (exact : Bool) : Nat × Nat :=
  if exact then roundMag f mode neg n 1 e else roundMag f mode neg (2 * n + 1) 1 (e - 1)

end Sys2Proof.Machine
end

