-- ==== Sys2Proof/WellFormed.lean ====
section
/-! DEFINITION. Which encoded instructions exist (R58 to R65): every field within its width, pairs even, quads multiples of
four, and no reserved value. An event row has no encoding; it is well formed as it stands. -/

namespace Sys2Proof

/-- The CSRNUM values of R106. -/
def csrListed (c : Nat) : Bool :=
  c == 0x000 || c == 0x001 || c == 0x002 || (0x010 ≤ c && c ≤ 0x016) || (0x100 ≤ c && c ≤ 0x106)
    || (0x110 ≤ c && c ≤ 0x113) || c == 0x120

/-- The register count of an A width code (R306). -/
def aWidth (w : Nat) : Nat :=
  if w == 0 then 4 else if w == 1 then 6 else if w == 2 then 8 else if w == 3 then 16 else if w == 4 then 32 else 64

/-- R58 to R65 and the owning chapters: the fields a row's encoding can hold. -/
def Instr.wellFormed (i : Instr) : Bool :=
  match i with
  | .iadd d a b => d < 128 && a < 128 && b < 128
  | .isub d a b => d < 128 && a < 128 && b < 128
  | .imul d a b => d < 128 && a < 128 && b < 128
  | .imulh d a b => d < 128 && a < 128 && b < 128
  | .imulhu d a b => d < 128 && a < 128 && b < 128
  | .imin d a b => d < 128 && a < 128 && b < 128
  | .imax d a b => d < 128 && a < 128 && b < 128
  | .iminu d a b => d < 128 && a < 128 && b < 128
  | .imaxu d a b => d < 128 && a < 128 && b < 128
  | .iaddsat d a b => d < 128 && a < 128 && b < 128
  | .iadd64 d a b => d < 128 && a < 128 && b < 128 && d % 2 == 0 && a % 2 == 0 && b % 2 == 0
  | .isub64 d a b => d < 128 && a < 128 && b < 128 && d % 2 == 0 && a % 2 == 0 && b % 2 == 0
  | .and d a b => d < 128 && a < 128 && b < 128
  | .or d a b => d < 128 && a < 128 && b < 128
  | .xor d a b => d < 128 && a < 128 && b < 128
  | .andn d a b => d < 128 && a < 128 && b < 128
  | .shl d a b => d < 128 && a < 128 && b < 128
  | .shr d a b => d < 128 && a < 128 && b < 128
  | .sar d a b => d < 128 && a < 128 && b < 128
  | .rotl d a b => d < 128 && a < 128 && b < 128
  | .shl64 d a b => d < 128 && a < 128 && b < 128 && d % 2 == 0 && a % 2 == 0
  | .shr64 d a b => d < 128 && a < 128 && b < 128 && d % 2 == 0 && a % 2 == 0
  | .popc d a => d < 128 && a < 128
  | .clz d a => d < 128 && a < 128
  | .ctz d a => d < 128 && a < 128
  | .brev d a => d < 128 && a < 128
  | .bswap d a => d < 128 && a < 128
  | .bfe d a b => d < 128 && a < 128 && b < 128
  | .bfeu d a b => d < 128 && a < 128 && b < 128
  | .bfi d a b => d < 128 && a < 128 && b < 128
  | .icmpI32 p c a b => p < 8 && c < 16 && a < 128 && b < 128 && c < 6
  | .icmpN32 p c a b => p < 8 && c < 16 && a < 128 && b < 128 && c < 6
  | .icmpI64 p c a b => p < 8 && c < 16 && a < 128 && b < 128 && a % 2 == 0 && b % 2 == 0 && c < 6
  | .icmpN64 p c a b => p < 8 && c < 16 && a < 128 && b < 128 && a % 2 == 0 && b % 2 == 0 && c < 6
  | .fcmpF32 p c a b => p < 8 && c < 16 && a < 128 && b < 128 && c < 8
  | .fcmpF64 p c a b => p < 8 && c < 16 && a < 128 && b < 128 && a % 2 == 0 && b % 2 == 0 && c < 8
  | .fcmpF16 p c a b => p < 8 && c < 16 && a < 128 && b < 128 && c < 8
  | .iaddi d a i => d < 128 && a < 128 && i < 4096
  | .andi d a i => d < 128 && a < 128 && i < 4096
  | .ori d a i => d < 128 && a < 128 && i < 4096
  | .xori d a i => d < 128 && a < 128 && i < 4096
  | .shli d a n => d < 128 && a < 128 && n < 32
  | .shri d a n => d < 128 && a < 128 && n < 32
  | .sari d a n => d < 128 && a < 128 && n < 32
  | .rotli d a n => d < 128 && a < 128 && n < 32
  | .movi d i => d < 128 && i < 65536
  | .movhi d i => d < 128 && i < 65536
  | .sel d a b p n => d < 128 && a < 128 && b < 128 && p < 8 && n < 2
  | .imad d a b c => d < 128 && a < 128 && b < 128 && c < 128
  | .lit d i => d < 128 && i < 4294967296
  | .pand d a b => d < 8 && a < 8 && b < 8
  | .por d a b => d < 8 && a < 8 && b < 8
  | .pxor d a b => d < 8 && a < 8 && b < 8
  | .pandn d a b => d < 8 && a < 8 && b < 8
  | .fadd d a b => d < 128 && a < 128 && b < 128
  | .fsub d a b => d < 128 && a < 128 && b < 128
  | .fmul d a b => d < 128 && a < 128 && b < 128
  | .fmac d a b => d < 128 && a < 128 && b < 128
  | .fmin d a b => d < 128 && a < 128 && b < 128
  | .fmax d a b => d < 128 && a < 128 && b < 128
  | .fneg d a => d < 128 && a < 128
  | .fabs d a => d < 128 && a < 128
  | .frnd d a m => d < 128 && a < 128 && m < 4
  | .fcpys d a b => d < 128 && a < 128 && b < 128
  | .fma d a b c => d < 128 && a < 128 && b < 128 && c < 128
  | .fms d a b c => d < 128 && a < 128 && b < 128 && c < 128
  | .fnma d a b c => d < 128 && a < 128 && b < 128 && c < 128
  | .hadd2 d a b => d < 128 && a < 128 && b < 128
  | .hmul2 d a b => d < 128 && a < 128 && b < 128
  | .hfma2 d a b => d < 128 && a < 128 && b < 128
  | .hmin2 d a b => d < 128 && a < 128 && b < 128
  | .hmax2 d a b => d < 128 && a < 128 && b < 128
  | .badd2 d a b => d < 128 && a < 128 && b < 128
  | .bmul2 d a b => d < 128 && a < 128 && b < 128
  | .bfma2 d a b => d < 128 && a < 128 && b < 128
  | .dadd d a b => d < 128 && a < 128 && b < 128 && d % 2 == 0 && a % 2 == 0 && b % 2 == 0
  | .dsub d a b => d < 128 && a < 128 && b < 128 && d % 2 == 0 && a % 2 == 0 && b % 2 == 0
  | .dmul d a b => d < 128 && a < 128 && b < 128 && d % 2 == 0 && a % 2 == 0 && b % 2 == 0
  | .dfma d a b => d < 128 && a < 128 && b < 128 && d % 2 == 0 && a % 2 == 0 && b % 2 == 0
  | .dmin d a b => d < 128 && a < 128 && b < 128 && d % 2 == 0 && a % 2 == 0 && b % 2 == 0
  | .dmax d a b => d < 128 && a < 128 && b < 128 && d % 2 == 0 && a % 2 == 0 && b % 2 == 0
  | .cvtF32I32 d a => d < 128 && a < 128
  | .cvtF32N32 d a => d < 128 && a < 128
  | .cvtI32F32 d a => d < 128 && a < 128
  | .cvtN32F32 d a => d < 128 && a < 128
  | .cvtF16F32 d a => d < 128 && a < 128
  | .cvtF32F16 d a => d < 128 && a < 128
  | .cvtBf16F32 d a => d < 128 && a < 128
  | .cvtF32Bf16 d a => d < 128 && a < 128
  | .cvtF64F32 d a => d < 128 && a < 128 && d % 2 == 0
  | .cvtF32F64 d a => d < 128 && a < 128 && a % 2 == 0
  | .cvtF64I64 d a => d < 128 && a < 128 && d % 2 == 0 && a % 2 == 0
  | .cvtI64F64 d a => d < 128 && a < 128 && d % 2 == 0 && a % 2 == 0
  | .cvtE4m3x2F32 d a b => d < 128 && a < 128 && b < 128
  | .cvtE5m2x2F32 d a b => d < 128 && a < 128 && b < 128
  | .cvtF32E4m3 d a k => d < 128 && a < 128 && k < 4
  | .cvtF32E5m2 d a k => d < 128 && a < 128 && k < 4
  | .frcp d a l => d < 128 && a < 128 && l < 16
  | .frsq d a l => d < 128 && a < 128 && l < 16
  | .fsqrt d a l => d < 128 && a < 128 && l < 16
  | .fexp2 d a l => d < 128 && a < 128 && l < 16
  | .flog2 d a l => d < 128 && a < 128 && l < 16
  | .fsin d a l => d < 128 && a < 128 && l < 16
  | .fcos d a l => d < 128 && a < 128 && l < 16
  | .xqrow v g l x => v < 128 && g < 32 && l < 16 && x < 32
  | .xqcol v g l x => v < 128 && g < 32 && l < 16 && x < 32
  | .xtrans v l x => v < 128 && l < 16 && x < 32
  | .xsig v l x => v < 128 && l < 16 && x < 32
  | .shflidx d a b => d < 128 && a < 128 && b < 128
  | .shflup d a b => d < 128 && a < 128 && b < 128
  | .shfldn d a b => d < 128 && a < 128 && b < 128
  | .shflxor d a b => d < 128 && a < 128 && b < 128
  | .shflidxi d a k => d < 128 && a < 128 && k < 32
  | .shflupi d a k => d < 128 && a < 128 && k < 32
  | .shfldni d a k => d < 128 && a < 128 && k < 32
  | .shflxori d a k => d < 128 && a < 128 && k < 32
  | .redadd d a => d < 128 && a < 128
  | .redaddf d a => d < 128 && a < 128
  | .redmin d a => d < 128 && a < 128
  | .redmax d a => d < 128 && a < 128
  | .ballot d a => d < 128 && a < 8
  | .voteany d a => d < 8 && a < 8
  | .voteall d a => d < 8 && a < 8
  | .uadd d a b => d < 32 && a < 32 && b < 32
  | .usub d a b => d < 32 && a < 32 && b < 32
  | .umul d a b => d < 32 && a < 32 && b < 32
  | .uand d a b => d < 32 && a < 32 && b < 32
  | .uor d a b => d < 32 && a < 32 && b < 32
  | .uxor d a b => d < 32 && a < 32 && b < 32
  | .ushl d a b => d < 32 && a < 32 && b < 32
  | .ushr d a b => d < 32 && a < 32 && b < 32
  | .usar d a b => d < 32 && a < 32 && b < 32
  | .umin d a b => d < 32 && a < 32 && b < 32
  | .umax d a b => d < 32 && a < 32 && b < 32
  | .uslt d a b => d < 32 && a < 32 && b < 32
  | .usltn d a b => d < 32 && a < 32 && b < 32
  | .useq d a b => d < 32 && a < 32 && b < 32
  | .umovi d i => d < 32 && i < 2097152
  | .ulit d i => d < 32 && i < 4294967296
  | .ulithi d i => d < 32 && i < 4294967296
  | .movsr d s => d < 128 && s < 128 && s < 15 && (s < 13 || d % 2 == 0)
  | .rdlane d a n => d < 32 && a < 128 && n < 32
  | .bcast d a => d < 128 && a < 32
  | .bcasthi d a => d < 128 && a < 32
  | .uld d a l t => d < 32 && a < 32 && l < 16 && t < 8 && t != 6
  | .brc p n o => p < 8 && n < 2 && o < 4194304
  | .ubrc g c o => g < 32 && c < 8 && o < 262144 && c < 6
  | .call o => o < 67108864
  | .jmp g => g < 32
  | .jset o => o < 4194304
  | .nopC => true
  | .join => true
  | .regang => true
  | .exit => true
  | .yield => true
  | .reorder a b n o => a < 128 && b < 128 && n < 8 && o < 4294967296
  | .trap i => i < 65536
  | .brk i => i < 65536
  | .trapret s => s < 2
  | .csrrd g c => g < 32 && c < 4096 && csrListed c
  | .csrwr g c => g < 32 && c < 4096 && csrListed c
  | .tlbinvPage g => g < 32
  | .tlbinvAll => true
  | .ldw d o g l t => d < 128 && o < 128 && g < 32 && l < 16 && t < 8 && t != 6
  | .ldd d o g l t => d < 128 && o < 128 && g < 32 && l < 16 && t < 8 && t != 6 && d % 2 == 0
  | .ldq d o g l t => d < 128 && o < 128 && g < 32 && l < 16 && t < 8 && t != 6 && d % 4 == 0
  | .ldbn d o g l => d < 128 && o < 128 && g < 32 && l < 16
  | .ldbs d o g l => d < 128 && o < 128 && g < 32 && l < 16
  | .ldhn d o g l => d < 128 && o < 128 && g < 32 && l < 16
  | .ldhs d o g l => d < 128 && o < 128 && g < 32 && l < 16
  | .stw d o g t => d < 128 && o < 128 && g < 32 && t < 8 && t != 4 && t != 6
  | .std d o g t => d < 128 && o < 128 && g < 32 && t < 8 && t != 4 && t != 6 && d % 2 == 0
  | .stq d o g t => d < 128 && o < 128 && g < 32 && t < 8 && t != 4 && t != 6 && d % 4 == 0
  | .stb d o g => d < 128 && o < 128 && g < 32
  | .sth d o g => d < 128 && o < 128 && g < 32
  | .lds d o g l s => d < 128 && o < 128 && g < 32 && l < 16 && s < 8 && s < 7 && (s != 5 || d % 2 == 0) && (s != 6 || d % 4 == 0)
  | .sts d o g s => d < 128 && o < 128 && g < 32 && s < 8 && (s != 5 || d % 2 == 0) && (s != 6 || d % 4 == 0) && (s == 0 || s == 2 || s == 4 || s == 5 || s == 6)
  | .atom d o g l t nr c b r s op => d < 128 && o < 128 && g < 32 && l < 16 && t < 8 && nr < 2 && c < 128 && b < 128 && r < 4 && s < 8 && op < 32 && t != 4 && t != 6 && op < 16 && s < 5 && (nr == 1 || (op != 11 && op != 12)) && (c == 0 || op == 9 || op == 15) && (nr == 0 || (d == 0 && l == 0)) && (op < 13 || (d % 2 == 0 && b % 2 == 0 && c % 2 == 0)) && (op != 12 || b % 2 == 0)
  | .atoms d o g l nr c b r op => d < 128 && o < 128 && g < 32 && l < 16 && nr < 2 && c < 128 && b < 128 && r < 4 && op < 32 && op < 10 && (c == 0 || op == 9) && (nr == 0 || (d == 0 && l == 0))
  | .fence o e => o < 4 && e < 8 && e < 5
  | .fencex a b s => a < 8 && b < 8 && s < 8 && a < 7 && b < 7 && s < 5
  | .cflush v g t => v < 128 && g < 32 && t < 8 && (t == 1 || t == 3 || t == 5 || t == 7)
  | .pref v g t => v < 128 && g < 32 && t < 8 && t != 6
  | .waitc g p w cond s gc => g < 32 && p < 8 && w < 4 && cond < 8 && s < 8 && gc < 32 && w < 2 && cond < 6 && s < 5
  | .bararr v g b => v < 32 && g < 32 && b < 16
  | .barwait p g b => p < 8 && g < 32 && b < 16
  | .barsync p g b => p < 8 && g < 32 && b < 16
  | .barqry v b => v < 32 && b < 16
  | .batch v => v < 32
  | .waitb p g c => p < 8 && g < 32 && c < 2
  | .sqput v => v < 128 && v % 4 == 0
  | .sqget v g p => v < 128 && g < 32 && p < 8 && v % 4 == 0
  | .sqend => true
  | .cpyt g x b => g < 32 && x < 2 && b < 16 && (x == 1 || b == 0)
  | .cpyg v g x b => v < 128 && g < 32 && x < 2 && b < 16 && (x == 1 || b == 0)
  | .cpys v g x b => v < 128 && g < 32 && x < 2 && b < 16 && (x == 1 || b == 0)
  | .cpyq g x b k h => g < 32 && x < 2 && b < 16 && k < 65536 && h < 65536 && (x == 1 || b == 0)
  | .cpyz v g x b k => v < 32 && g < 32 && x < 2 && b < 16 && k < 16 && (x == 1 || b == 0)
  | .cpyx v g x b k => v < 32 && g < 32 && x < 2 && b < 16 && k < 16 && (x == 1 || b == 0)
  | .mma v g s r w h f t => v < 128 && g < 32 && s < 2 && r < 2 && w < 8 && h < 65536 && f < 32 && t < 128 && w < 6 && (s == 0 || w < 3) && (w != 5 || v % 2 == 0)
  | .mjob v g x b f => v < 32 && g < 32 && x < 2 && b < 16 && f < 32 && (x == 1 || b == 0)
  | .accz v g => v < 128 && g < 32
  | .accadd v g q => v < 128 && g < 32 && q < 32
  | .accrd v g l q => v < 128 && g < 32 && l < 16 && q < 32
  | .accwr v g q => v < 128 && g < 32 && q < 32
  | .drain v g x b e z m f h => v < 128 && g < 32 && x < 2 && b < 16 && e < 2 && z < 2 && m < 4 && f < 8 && h < 65536 && (x == 1 || b == 0) && f < 6
  | .bdset g n => g < 32 && n < 16
  | .bdget d m n => d < 32 && m < 2 && n < 16
  | .mdset g n => g < 32 && n < 16
  | .ttcon w g k x b => w < 32 && g < 32 && k < 32 && x < 2 && b < 16 && (x == 1 || b == 0) && k < 17
  | .ttprog w g x b => w < 32 && g < 32 && x < 2 && b < 16 && (x == 1 || b == 0)
  | .stepbeg g => g < 32
  | .stepend x b => x < 2 && b < 16 && (x == 1 || b == 0)
  | .skiprd d g => d < 32 && g < 32
  | .skipwr s g => s < 32 && g < 32
  | .prim v g f c => v < 128 && g < 32 && f < 2 && c < 4 && c < 3
  | .post v g s => v < 128 && g < 32 && s < 16
  | .kill g => g < 32
  | .killAll => true
  | .zprobe v g p => v < 128 && g < 32 && p < 8
  | .tgtopen g => g < 32
  | .tgtseal g => g < 32
  | .tgtwait g p => g < 32 && p < 8
  | .smp v g l q wr => v < 128 && g < 32 && l < 16 && q < 32 && wr < 2
  | .smpl v g l q => v < 128 && g < 32 && l < 16 && q < 32
  | .raysub v g t => v < 128 && g < 32 && t < 8
  | .rayget v g p => v < 128 && g < 32 && p < 8
  | .mbxget v l p => v < 128 && l < 16 && p < 8
  | .nodeld v l k => v < 128 && l < 16 && k < 8 && v % 4 == 0
  | .boxt v l => v < 128 && l < 16 && v % 4 == 0
  | .trit v l => v < 128 && l < 16 && v % 4 == 0
  | .rpush v g => v < 128 && g < 32 && v % 2 == 0
  | .rpop v g p => v < 128 && g < 32 && p < 8 && v % 2 == 0
  | .rsave v g => v < 128 && g < 32 && v % 4 == 0
  | .rload v g => v < 128 && g < 32 && v % 4 == 0
  | .rcommit v h => v < 128 && h < 32
  | .rdone v => v < 128
  | .nodepub v g => v < 128 && g < 32 && v % 4 == 0
  | .supplyGood => true
  | .bootRomPass => true
  | .imageInitialised => true
  | .trainingComplete => true
  | .selftestComplete => true
  | .packageMachineCheck => true
  | .dieLinkFailure => true
  | .pfFunctionLevelReset => true
  | .supplyLost => true
  | .log => true
  | .retry => true
  | .image => true
  | .partcfg => true
  | .replcfg => true
  | .droopTrip => true
  | .droopRecovery => true
  | .softError => true
  | .wsphaseAdvance => true
  | .create => true
  | .preempt => true
  | .reset => true
  | .destroy => true
  | .query => true
  | .wrreg => true
  | .keyload => true
  | .keyclr => true
  | .policy => true
  | .serve => true
  | .contextSchedule => true
  | .contextIdle => true
  | .timeSliceExpiry => true
  | .priorityPreempt => true
  | .preemptionComplete => true
  | .contextRestore => true
  | .contextRelease => true
  | .slicePreemptStop => true
  | .preemptFallback => true
  | .pathStarvation => true
  | .qwptr => true
  | .queueEnable => true
  | .queueDisable => true
  | .registerWrite => true
  | .nop => true
  | .launch => true
  | .frame => true
  | .signalWrite => true
  | .signalAdd => true
  | .waitv => true
  | .waitvRecheck => true
  | .waitvPollTimer => true
  | .fencePacket => true
  | .tgtCreate => true
  | .tgtOpen => true
  | .tgtSeal => true
  | .tgtRelease => true
  | .wstore => true
  | .mark => true
  | .wrap => true
  | .packetComplete => true
  | .pipelineSetStart => true
  | .workgroupFinish => true
  | .serviceRequest => true
  | .serviceAnswer => true
  | .parkGroupStart => true
  | .loadDataReturn => true
  | .storeAccept => true
  | .atomicPerformed => true
  | .xpipeWriteback => true
  | .rayTestResult => true
  | .homeRequest => true
  | .spanRecall => true
  | .replicaConfirm => true
  | .ownConfirm => true
  | .invalidationConfirm => true
  | .ownedWriteback => true
  | .proxyEviction => true
  | .replicationIntervalEnd => true
  | .commandFaultDelivery => true
  | .sqputResume => true
  | .sqgetResume => true
  | .tagComplete => true
  | .regangComplete => true
  | .continuationGangLaunch => true
  | .liftFlush => true
  | .gangFormComplete => true
  | .barrierWaitEnd => true
  | .batchWaitEnd => true
  | .beaconWake => true
  | .crewForm => true
  | .reservationAccept => true
  | .matrixPass => true
  | .engineCommandComplete => true
  | .copyComplete => true
  | .fragmentApply => true
  | .targetSealComplete => true
  | .targetWaitEnd => true
  | .primitiveBinned => true
  | .partialRender => true
  | .fragmentPassStart => true
  | .rasterEmit => true
  | .walkerGangStart => true
  | .mbxgetResume => true
  | .polnuPortDown => true
  | .peerRequestReceived => true
  | .peerReadData => true
  | .peerWriteAck => true
  | .peerNak => true
  | .peerTimeout => true
  | .vfFunctionLevelReset => true
  | .msixUnmask => true
  | .atsResponse => true
  | .atsInvalidation => true
  | .hostErrorCompletion => true
  | .readOnlyDropEnd => true

/-- An instruction that is well formed. -/
abbrev WellFormed (i : Instr) : Prop := i.wellFormed = true

/-- The rows of spec/opcode_table.json that are events: they have no encoding. -/
def Instr.isEvent (i : Instr) : Bool :=
  match i with
  | .iadd _ _ _ => false
  | .isub _ _ _ => false
  | .imul _ _ _ => false
  | .imulh _ _ _ => false
  | .imulhu _ _ _ => false
  | .imin _ _ _ => false
  | .imax _ _ _ => false
  | .iminu _ _ _ => false
  | .imaxu _ _ _ => false
  | .iaddsat _ _ _ => false
  | .iadd64 _ _ _ => false
  | .isub64 _ _ _ => false
  | .and _ _ _ => false
  | .or _ _ _ => false
  | .xor _ _ _ => false
  | .andn _ _ _ => false
  | .shl _ _ _ => false
  | .shr _ _ _ => false
  | .sar _ _ _ => false
  | .rotl _ _ _ => false
  | .shl64 _ _ _ => false
  | .shr64 _ _ _ => false
  | .popc _ _ => false
  | .clz _ _ => false
  | .ctz _ _ => false
  | .brev _ _ => false
  | .bswap _ _ => false
  | .bfe _ _ _ => false
  | .bfeu _ _ _ => false
  | .bfi _ _ _ => false
  | .icmpI32 _ _ _ _ => false
  | .icmpN32 _ _ _ _ => false
  | .icmpI64 _ _ _ _ => false
  | .icmpN64 _ _ _ _ => false
  | .fcmpF32 _ _ _ _ => false
  | .fcmpF64 _ _ _ _ => false
  | .fcmpF16 _ _ _ _ => false
  | .iaddi _ _ _ => false
  | .andi _ _ _ => false
  | .ori _ _ _ => false
  | .xori _ _ _ => false
  | .shli _ _ _ => false
  | .shri _ _ _ => false
  | .sari _ _ _ => false
  | .rotli _ _ _ => false
  | .movi _ _ => false
  | .movhi _ _ => false
  | .sel _ _ _ _ _ => false
  | .imad _ _ _ _ => false
  | .lit _ _ => false
  | .pand _ _ _ => false
  | .por _ _ _ => false
  | .pxor _ _ _ => false
  | .pandn _ _ _ => false
  | .fadd _ _ _ => false
  | .fsub _ _ _ => false
  | .fmul _ _ _ => false
  | .fmac _ _ _ => false
  | .fmin _ _ _ => false
  | .fmax _ _ _ => false
  | .fneg _ _ => false
  | .fabs _ _ => false
  | .frnd _ _ _ => false
  | .fcpys _ _ _ => false
  | .fma _ _ _ _ => false
  | .fms _ _ _ _ => false
  | .fnma _ _ _ _ => false
  | .hadd2 _ _ _ => false
  | .hmul2 _ _ _ => false
  | .hfma2 _ _ _ => false
  | .hmin2 _ _ _ => false
  | .hmax2 _ _ _ => false
  | .badd2 _ _ _ => false
  | .bmul2 _ _ _ => false
  | .bfma2 _ _ _ => false
  | .dadd _ _ _ => false
  | .dsub _ _ _ => false
  | .dmul _ _ _ => false
  | .dfma _ _ _ => false
  | .dmin _ _ _ => false
  | .dmax _ _ _ => false
  | .cvtF32I32 _ _ => false
  | .cvtF32N32 _ _ => false
  | .cvtI32F32 _ _ => false
  | .cvtN32F32 _ _ => false
  | .cvtF16F32 _ _ => false
  | .cvtF32F16 _ _ => false
  | .cvtBf16F32 _ _ => false
  | .cvtF32Bf16 _ _ => false
  | .cvtF64F32 _ _ => false
  | .cvtF32F64 _ _ => false
  | .cvtF64I64 _ _ => false
  | .cvtI64F64 _ _ => false
  | .cvtE4m3x2F32 _ _ _ => false
  | .cvtE5m2x2F32 _ _ _ => false
  | .cvtF32E4m3 _ _ _ => false
  | .cvtF32E5m2 _ _ _ => false
  | .frcp _ _ _ => false
  | .frsq _ _ _ => false
  | .fsqrt _ _ _ => false
  | .fexp2 _ _ _ => false
  | .flog2 _ _ _ => false
  | .fsin _ _ _ => false
  | .fcos _ _ _ => false
  | .xqrow _ _ _ _ => false
  | .xqcol _ _ _ _ => false
  | .xtrans _ _ _ => false
  | .xsig _ _ _ => false
  | .shflidx _ _ _ => false
  | .shflup _ _ _ => false
  | .shfldn _ _ _ => false
  | .shflxor _ _ _ => false
  | .shflidxi _ _ _ => false
  | .shflupi _ _ _ => false
  | .shfldni _ _ _ => false
  | .shflxori _ _ _ => false
  | .redadd _ _ => false
  | .redaddf _ _ => false
  | .redmin _ _ => false
  | .redmax _ _ => false
  | .ballot _ _ => false
  | .voteany _ _ => false
  | .voteall _ _ => false
  | .uadd _ _ _ => false
  | .usub _ _ _ => false
  | .umul _ _ _ => false
  | .uand _ _ _ => false
  | .uor _ _ _ => false
  | .uxor _ _ _ => false
  | .ushl _ _ _ => false
  | .ushr _ _ _ => false
  | .usar _ _ _ => false
  | .umin _ _ _ => false
  | .umax _ _ _ => false
  | .uslt _ _ _ => false
  | .usltn _ _ _ => false
  | .useq _ _ _ => false
  | .umovi _ _ => false
  | .ulit _ _ => false
  | .ulithi _ _ => false
  | .movsr _ _ => false
  | .rdlane _ _ _ => false
  | .bcast _ _ => false
  | .bcasthi _ _ => false
  | .uld _ _ _ _ => false
  | .brc _ _ _ => false
  | .ubrc _ _ _ => false
  | .call _ => false
  | .jmp _ => false
  | .jset _ => false
  | .nopC => false
  | .join => false
  | .regang => false
  | .exit => false
  | .yield => false
  | .reorder _ _ _ _ => false
  | .trap _ => false
  | .brk _ => false
  | .trapret _ => false
  | .csrrd _ _ => false
  | .csrwr _ _ => false
  | .tlbinvPage _ => false
  | .tlbinvAll => false
  | .ldw _ _ _ _ _ => false
  | .ldd _ _ _ _ _ => false
  | .ldq _ _ _ _ _ => false
  | .ldbn _ _ _ _ => false
  | .ldbs _ _ _ _ => false
  | .ldhn _ _ _ _ => false
  | .ldhs _ _ _ _ => false
  | .stw _ _ _ _ => false
  | .std _ _ _ _ => false
  | .stq _ _ _ _ => false
  | .stb _ _ _ => false
  | .sth _ _ _ => false
  | .lds _ _ _ _ _ => false
  | .sts _ _ _ _ => false
  | .atom _ _ _ _ _ _ _ _ _ _ _ => false
  | .atoms _ _ _ _ _ _ _ _ _ => false
  | .fence _ _ => false
  | .fencex _ _ _ => false
  | .cflush _ _ _ => false
  | .pref _ _ _ => false
  | .waitc _ _ _ _ _ _ => false
  | .bararr _ _ _ => false
  | .barwait _ _ _ => false
  | .barsync _ _ _ => false
  | .barqry _ _ => false
  | .batch _ => false
  | .waitb _ _ _ => false
  | .sqput _ => false
  | .sqget _ _ _ => false
  | .sqend => false
  | .cpyt _ _ _ => false
  | .cpyg _ _ _ _ => false
  | .cpys _ _ _ _ => false
  | .cpyq _ _ _ _ _ => false
  | .cpyz _ _ _ _ _ => false
  | .cpyx _ _ _ _ _ => false
  | .mma _ _ _ _ _ _ _ _ => false
  | .mjob _ _ _ _ _ => false
  | .accz _ _ => false
  | .accadd _ _ _ => false
  | .accrd _ _ _ _ => false
  | .accwr _ _ _ => false
  | .drain _ _ _ _ _ _ _ _ _ => false
  | .bdset _ _ => false
  | .bdget _ _ _ => false
  | .mdset _ _ => false
  | .ttcon _ _ _ _ _ => false
  | .ttprog _ _ _ _ => false
  | .stepbeg _ => false
  | .stepend _ _ => false
  | .skiprd _ _ => false
  | .skipwr _ _ => false
  | .prim _ _ _ _ => false
  | .post _ _ _ => false
  | .kill _ => false
  | .killAll => false
  | .zprobe _ _ _ => false
  | .tgtopen _ => false
  | .tgtseal _ => false
  | .tgtwait _ _ => false
  | .smp _ _ _ _ _ => false
  | .smpl _ _ _ _ => false
  | .raysub _ _ _ => false
  | .rayget _ _ _ => false
  | .mbxget _ _ _ => false
  | .nodeld _ _ _ => false
  | .boxt _ _ => false
  | .trit _ _ => false
  | .rpush _ _ => false
  | .rpop _ _ _ => false
  | .rsave _ _ => false
  | .rload _ _ => false
  | .rcommit _ _ => false
  | .rdone _ => false
  | .nodepub _ _ => false
  | .supplyGood => true
  | .bootRomPass => true
  | .imageInitialised => true
  | .trainingComplete => true
  | .selftestComplete => true
  | .packageMachineCheck => true
  | .dieLinkFailure => true
  | .pfFunctionLevelReset => true
  | .supplyLost => true
  | .log => true
  | .retry => true
  | .image => true
  | .partcfg => true
  | .replcfg => true
  | .droopTrip => true
  | .droopRecovery => true
  | .softError => true
  | .wsphaseAdvance => true
  | .create => true
  | .preempt => true
  | .reset => true
  | .destroy => true
  | .query => true
  | .wrreg => true
  | .keyload => true
  | .keyclr => true
  | .policy => true
  | .serve => true
  | .contextSchedule => true
  | .contextIdle => true
  | .timeSliceExpiry => true
  | .priorityPreempt => true
  | .preemptionComplete => true
  | .contextRestore => true
  | .contextRelease => true
  | .slicePreemptStop => true
  | .preemptFallback => true
  | .pathStarvation => true
  | .qwptr => true
  | .queueEnable => true
  | .queueDisable => true
  | .registerWrite => true
  | .nop => true
  | .launch => true
  | .frame => true
  | .signalWrite => true
  | .signalAdd => true
  | .waitv => true
  | .waitvRecheck => true
  | .waitvPollTimer => true
  | .fencePacket => true
  | .tgtCreate => true
  | .tgtOpen => true
  | .tgtSeal => true
  | .tgtRelease => true
  | .wstore => true
  | .mark => true
  | .wrap => true
  | .packetComplete => true
  | .pipelineSetStart => true
  | .workgroupFinish => true
  | .serviceRequest => true
  | .serviceAnswer => true
  | .parkGroupStart => true
  | .loadDataReturn => true
  | .storeAccept => true
  | .atomicPerformed => true
  | .xpipeWriteback => true
  | .rayTestResult => true
  | .homeRequest => true
  | .spanRecall => true
  | .replicaConfirm => true
  | .ownConfirm => true
  | .invalidationConfirm => true
  | .ownedWriteback => true
  | .proxyEviction => true
  | .replicationIntervalEnd => true
  | .commandFaultDelivery => true
  | .sqputResume => true
  | .sqgetResume => true
  | .tagComplete => true
  | .regangComplete => true
  | .continuationGangLaunch => true
  | .liftFlush => true
  | .gangFormComplete => true
  | .barrierWaitEnd => true
  | .batchWaitEnd => true
  | .beaconWake => true
  | .crewForm => true
  | .reservationAccept => true
  | .matrixPass => true
  | .engineCommandComplete => true
  | .copyComplete => true
  | .fragmentApply => true
  | .targetSealComplete => true
  | .targetWaitEnd => true
  | .primitiveBinned => true
  | .partialRender => true
  | .fragmentPassStart => true
  | .rasterEmit => true
  | .walkerGangStart => true
  | .mbxgetResume => true
  | .polnuPortDown => true
  | .peerRequestReceived => true
  | .peerReadData => true
  | .peerWriteAck => true
  | .peerNak => true
  | .peerTimeout => true
  | .vfFunctionLevelReset => true
  | .msixUnmask => true
  | .atsResponse => true
  | .atsInvalidation => true
  | .hostErrorCompletion => true
  | .readOnlyDropEnd => true

end Sys2Proof
end

