-- ==== Sys2Proof/Decode.lean ====
section
/-! DEFINITION. The encodings of spec/03_clause.md R57 to R67, both ways. `skeleton` chooses the row by the major and the fn
(or size, type, kind) field and pulls the fields out; `decode` accepts the words only where the instruction so read is well
formed and encodes to exactly these words, so every field that a format requires to be zero is checked. -/

namespace Sys2Proof

/-- Why a word is no instruction; each of these is ILLINSTR (R58, R61). -/
inductive Reject where
  /-- Major 0x00, 0x0F, 0x17, 0x1E, 0x1F, 0x3E or 0x3F, or an fn, type, kind or size code that R60 does not list. -/
  | unassigned
  /-- A nonzero zero field, a reserved value, an odd pair or a misaligned quad. -/
  | badField
  /-- Fewer words than the instruction takes. -/
  | truncated
  deriving DecidableEq, Repr

/-- Major 0x01 IARITH (R60). -/
def skIarith (w _w1 : Nat) : Option Instr :=
  if w % 32 = 0 then some (.iadd (w / 524288 % 128) (w / 4096 % 128) (w / 32 % 128))
  else if w % 32 = 1 then some (.isub (w / 524288 % 128) (w / 4096 % 128) (w / 32 % 128))
  else if w % 32 = 2 then some (.imul (w / 524288 % 128) (w / 4096 % 128) (w / 32 % 128))
  else if w % 32 = 3 then some (.imulh (w / 524288 % 128) (w / 4096 % 128) (w / 32 % 128))
  else if w % 32 = 4 then some (.imulhu (w / 524288 % 128) (w / 4096 % 128) (w / 32 % 128))
  else if w % 32 = 5 then some (.imin (w / 524288 % 128) (w / 4096 % 128) (w / 32 % 128))
  else if w % 32 = 6 then some (.imax (w / 524288 % 128) (w / 4096 % 128) (w / 32 % 128))
  else if w % 32 = 7 then some (.iminu (w / 524288 % 128) (w / 4096 % 128) (w / 32 % 128))
  else if w % 32 = 8 then some (.imaxu (w / 524288 % 128) (w / 4096 % 128) (w / 32 % 128))
  else if w % 32 = 9 then some (.iaddsat (w / 524288 % 128) (w / 4096 % 128) (w / 32 % 128))
  else if w % 32 = 10 then some (.iadd64 (w / 524288 % 128) (w / 4096 % 128) (w / 32 % 128))
  else if w % 32 = 11 then some (.isub64 (w / 524288 % 128) (w / 4096 % 128) (w / 32 % 128))
  else none

/-- Major 0x02 ILOGIC (R60). -/
def skIlogic (w _w1 : Nat) : Option Instr :=
  if w % 32 = 0 then some (.and (w / 524288 % 128) (w / 4096 % 128) (w / 32 % 128))
  else if w % 32 = 1 then some (.or (w / 524288 % 128) (w / 4096 % 128) (w / 32 % 128))
  else if w % 32 = 2 then some (.xor (w / 524288 % 128) (w / 4096 % 128) (w / 32 % 128))
  else if w % 32 = 3 then some (.andn (w / 524288 % 128) (w / 4096 % 128) (w / 32 % 128))
  else if w % 32 = 4 then some (.shl (w / 524288 % 128) (w / 4096 % 128) (w / 32 % 128))
  else if w % 32 = 5 then some (.shr (w / 524288 % 128) (w / 4096 % 128) (w / 32 % 128))
  else if w % 32 = 6 then some (.sar (w / 524288 % 128) (w / 4096 % 128) (w / 32 % 128))
  else if w % 32 = 7 then some (.rotl (w / 524288 % 128) (w / 4096 % 128) (w / 32 % 128))
  else if w % 32 = 8 then some (.shl64 (w / 524288 % 128) (w / 4096 % 128) (w / 32 % 128))
  else if w % 32 = 9 then some (.shr64 (w / 524288 % 128) (w / 4096 % 128) (w / 32 % 128))
  else none

/-- Major 0x03 IBITS (R60). -/
def skIbits (w _w1 : Nat) : Option Instr :=
  if w % 32 = 0 then some (.popc (w / 524288 % 128) (w / 4096 % 128))
  else if w % 32 = 1 then some (.clz (w / 524288 % 128) (w / 4096 % 128))
  else if w % 32 = 2 then some (.ctz (w / 524288 % 128) (w / 4096 % 128))
  else if w % 32 = 3 then some (.brev (w / 524288 % 128) (w / 4096 % 128))
  else if w % 32 = 4 then some (.bswap (w / 524288 % 128) (w / 4096 % 128))
  else if w % 32 = 5 then some (.bfe (w / 524288 % 128) (w / 4096 % 128) (w / 32 % 128))
  else if w % 32 = 6 then some (.bfeu (w / 524288 % 128) (w / 4096 % 128) (w / 32 % 128))
  else if w % 32 = 7 then some (.bfi (w / 524288 % 128) (w / 4096 % 128) (w / 32 % 128))
  else none

/-- Major 0x04 CMP (R60). -/
def skCmp (w _w1 : Nat) : Option Instr :=
  if w % 32 = 0 then some (.icmpI32 (w / 8388608 % 8) (w / 524288 % 16) (w / 4096 % 128) (w / 32 % 128))
  else if w % 32 = 1 then some (.icmpN32 (w / 8388608 % 8) (w / 524288 % 16) (w / 4096 % 128) (w / 32 % 128))
  else if w % 32 = 5 then some (.icmpI64 (w / 8388608 % 8) (w / 524288 % 16) (w / 4096 % 128) (w / 32 % 128))
  else if w % 32 = 6 then some (.icmpN64 (w / 8388608 % 8) (w / 524288 % 16) (w / 4096 % 128) (w / 32 % 128))
  else if w % 32 = 2 then some (.fcmpF32 (w / 8388608 % 8) (w / 524288 % 16) (w / 4096 % 128) (w / 32 % 128))
  else if w % 32 = 3 then some (.fcmpF64 (w / 8388608 % 8) (w / 524288 % 16) (w / 4096 % 128) (w / 32 % 128))
  else if w % 32 = 4 then some (.fcmpF16 (w / 8388608 % 8) (w / 524288 % 16) (w / 4096 % 128) (w / 32 % 128))
  else none

/-- Major 0x05 IADDI (R60). -/
def skIaddi (w _w1 : Nat) : Option Instr :=
  some (.iaddi (w / 524288 % 128) (w / 4096 % 128) (w % 4096))

/-- Major 0x06 ANDI (R60). -/
def skAndi (w _w1 : Nat) : Option Instr :=
  some (.andi (w / 524288 % 128) (w / 4096 % 128) (w % 4096))

/-- Major 0x07 ORI (R60). -/
def skOri (w _w1 : Nat) : Option Instr :=
  some (.ori (w / 524288 % 128) (w / 4096 % 128) (w % 4096))

/-- Major 0x08 XORI (R60). -/
def skXori (w _w1 : Nat) : Option Instr :=
  some (.xori (w / 524288 % 128) (w / 4096 % 128) (w % 4096))

/-- Major 0x09 SHFI (R60). -/
def skShfi (w _w1 : Nat) : Option Instr :=
  if w / 1024 % 4 = 0 then some (.shli (w / 524288 % 128) (w / 4096 % 128) (w % 32))
  else if w / 1024 % 4 = 1 then some (.shri (w / 524288 % 128) (w / 4096 % 128) (w % 32))
  else if w / 1024 % 4 = 2 then some (.sari (w / 524288 % 128) (w / 4096 % 128) (w % 32))
  else if w / 1024 % 4 = 3 then some (.rotli (w / 524288 % 128) (w / 4096 % 128) (w % 32))
  else none

/-- Major 0x0A MOVI (R60). -/
def skMovi (w _w1 : Nat) : Option Instr :=
  if w / 262144 % 2 = 0 then some (.movi (w / 524288 % 128) (w % 65536))
  else if w / 262144 % 2 = 1 then some (.movhi (w / 524288 % 128) (w % 65536))
  else none

/-- Major 0x0B SEL (R60). -/
def skSel (w _w1 : Nat) : Option Instr :=
  some (.sel (w / 524288 % 128) (w / 4096 % 128) (w / 32 % 128) (w / 4 % 8) (w / 2 % 2))

/-- Major 0x0C IMAD (R60). -/
def skImad (w w1 : Nat) : Option Instr :=
  if w % 32 = 0 then some (.imad (w / 524288 % 128) (w / 4096 % 128) (w / 32 % 128) (w1 % 128))
  else none

/-- Major 0x0D LIT (R60). -/
def skLit (w w1 : Nat) : Option Instr :=
  if w % 32 = 0 then some (.lit (w / 524288 % 128) (w1))
  else none

/-- Major 0x0E PLOG (R60). -/
def skPlog (w _w1 : Nat) : Option Instr :=
  if w % 32 = 0 then some (.pand (w / 8388608 % 8) (w / 1048576 % 8) (w / 131072 % 8))
  else if w % 32 = 1 then some (.por (w / 8388608 % 8) (w / 1048576 % 8) (w / 131072 % 8))
  else if w % 32 = 2 then some (.pxor (w / 8388608 % 8) (w / 1048576 % 8) (w / 131072 % 8))
  else if w % 32 = 3 then some (.pandn (w / 8388608 % 8) (w / 1048576 % 8) (w / 131072 % 8))
  else none

/-- Major 0x10 FARITH (R60). -/
def skFarith (w _w1 : Nat) : Option Instr :=
  if w % 32 = 0 then some (.fadd (w / 524288 % 128) (w / 4096 % 128) (w / 32 % 128))
  else if w % 32 = 1 then some (.fsub (w / 524288 % 128) (w / 4096 % 128) (w / 32 % 128))
  else if w % 32 = 2 then some (.fmul (w / 524288 % 128) (w / 4096 % 128) (w / 32 % 128))
  else if w % 32 = 3 then some (.fmac (w / 524288 % 128) (w / 4096 % 128) (w / 32 % 128))
  else if w % 32 = 4 then some (.fmin (w / 524288 % 128) (w / 4096 % 128) (w / 32 % 128))
  else if w % 32 = 5 then some (.fmax (w / 524288 % 128) (w / 4096 % 128) (w / 32 % 128))
  else if w % 32 = 6 then some (.fneg (w / 524288 % 128) (w / 4096 % 128))
  else if w % 32 = 7 then some (.fabs (w / 524288 % 128) (w / 4096 % 128))
  else if w % 32 = 8 then some (.frnd (w / 524288 % 128) (w / 4096 % 128) (w / 32 % 4))
  else if w % 32 = 9 then some (.fcpys (w / 524288 % 128) (w / 4096 % 128) (w / 32 % 128))
  else none

/-- Major 0x11 FMA (R60). -/
def skFma (w w1 : Nat) : Option Instr :=
  if w % 32 = 0 then some (.fma (w / 524288 % 128) (w / 4096 % 128) (w / 32 % 128) (w1 % 128))
  else if w % 32 = 1 then some (.fms (w / 524288 % 128) (w / 4096 % 128) (w / 32 % 128) (w1 % 128))
  else if w % 32 = 2 then some (.fnma (w / 524288 % 128) (w / 4096 % 128) (w / 32 % 128) (w1 % 128))
  else none

/-- Major 0x12 HARITH (R60). -/
def skHarith (w _w1 : Nat) : Option Instr :=
  if w % 32 = 0 then some (.hadd2 (w / 524288 % 128) (w / 4096 % 128) (w / 32 % 128))
  else if w % 32 = 1 then some (.hmul2 (w / 524288 % 128) (w / 4096 % 128) (w / 32 % 128))
  else if w % 32 = 2 then some (.hfma2 (w / 524288 % 128) (w / 4096 % 128) (w / 32 % 128))
  else if w % 32 = 3 then some (.hmin2 (w / 524288 % 128) (w / 4096 % 128) (w / 32 % 128))
  else if w % 32 = 4 then some (.hmax2 (w / 524288 % 128) (w / 4096 % 128) (w / 32 % 128))
  else if w % 32 = 8 then some (.badd2 (w / 524288 % 128) (w / 4096 % 128) (w / 32 % 128))
  else if w % 32 = 9 then some (.bmul2 (w / 524288 % 128) (w / 4096 % 128) (w / 32 % 128))
  else if w % 32 = 10 then some (.bfma2 (w / 524288 % 128) (w / 4096 % 128) (w / 32 % 128))
  else none

/-- Major 0x13 DARITH (R60). -/
def skDarith (w _w1 : Nat) : Option Instr :=
  if w % 32 = 0 then some (.dadd (w / 524288 % 128) (w / 4096 % 128) (w / 32 % 128))
  else if w % 32 = 1 then some (.dsub (w / 524288 % 128) (w / 4096 % 128) (w / 32 % 128))
  else if w % 32 = 2 then some (.dmul (w / 524288 % 128) (w / 4096 % 128) (w / 32 % 128))
  else if w % 32 = 3 then some (.dfma (w / 524288 % 128) (w / 4096 % 128) (w / 32 % 128))
  else if w % 32 = 4 then some (.dmin (w / 524288 % 128) (w / 4096 % 128) (w / 32 % 128))
  else if w % 32 = 5 then some (.dmax (w / 524288 % 128) (w / 4096 % 128) (w / 32 % 128))
  else none

/-- Major 0x14 CVT (R60). -/
def skCvt (w _w1 : Nat) : Option Instr :=
  if w % 32 = 0 then some (.cvtF32I32 (w / 524288 % 128) (w / 4096 % 128))
  else if w % 32 = 1 then some (.cvtF32N32 (w / 524288 % 128) (w / 4096 % 128))
  else if w % 32 = 2 then some (.cvtI32F32 (w / 524288 % 128) (w / 4096 % 128))
  else if w % 32 = 3 then some (.cvtN32F32 (w / 524288 % 128) (w / 4096 % 128))
  else if w % 32 = 4 then some (.cvtF16F32 (w / 524288 % 128) (w / 4096 % 128))
  else if w % 32 = 5 then some (.cvtF32F16 (w / 524288 % 128) (w / 4096 % 128))
  else if w % 32 = 6 then some (.cvtBf16F32 (w / 524288 % 128) (w / 4096 % 128))
  else if w % 32 = 7 then some (.cvtF32Bf16 (w / 524288 % 128) (w / 4096 % 128))
  else if w % 32 = 8 then some (.cvtF64F32 (w / 524288 % 128) (w / 4096 % 128))
  else if w % 32 = 9 then some (.cvtF32F64 (w / 524288 % 128) (w / 4096 % 128))
  else if w % 32 = 10 then some (.cvtF64I64 (w / 524288 % 128) (w / 4096 % 128))
  else if w % 32 = 11 then some (.cvtI64F64 (w / 524288 % 128) (w / 4096 % 128))
  else if w % 32 = 12 then some (.cvtE4m3x2F32 (w / 524288 % 128) (w / 4096 % 128) (w / 32 % 128))
  else if w % 32 = 13 then some (.cvtE5m2x2F32 (w / 524288 % 128) (w / 4096 % 128) (w / 32 % 128))
  else if w % 32 = 14 then some (.cvtF32E4m3 (w / 524288 % 128) (w / 4096 % 128) (w / 32 % 4))
  else if w % 32 = 15 then some (.cvtF32E5m2 (w / 524288 % 128) (w / 4096 % 128) (w / 32 % 4))
  else none

/-- Major 0x15 XMATH (R60). -/
def skXmath (w _w1 : Nat) : Option Instr :=
  if w % 32 = 0 then some (.frcp (w / 524288 % 128) (w / 4096 % 128) (w / 256 % 16))
  else if w % 32 = 1 then some (.frsq (w / 524288 % 128) (w / 4096 % 128) (w / 256 % 16))
  else if w % 32 = 2 then some (.fsqrt (w / 524288 % 128) (w / 4096 % 128) (w / 256 % 16))
  else if w % 32 = 3 then some (.fexp2 (w / 524288 % 128) (w / 4096 % 128) (w / 256 % 16))
  else if w % 32 = 4 then some (.flog2 (w / 524288 % 128) (w / 4096 % 128) (w / 256 % 16))
  else if w % 32 = 5 then some (.fsin (w / 524288 % 128) (w / 4096 % 128) (w / 256 % 16))
  else if w % 32 = 6 then some (.fcos (w / 524288 % 128) (w / 4096 % 128) (w / 256 % 16))
  else none

/-- Major 0x16 XTILE (R60). -/
def skXtile (w _w1 : Nat) : Option Instr :=
  if w / 2097152 % 32 = 0 then some (.xqrow (w / 16384 % 128) (w / 512 % 32) (w / 32 % 16) (w % 32))
  else if w / 2097152 % 32 = 1 then some (.xqcol (w / 16384 % 128) (w / 512 % 32) (w / 32 % 16) (w % 32))
  else if w / 2097152 % 32 = 2 then some (.xtrans (w / 16384 % 128) (w / 32 % 16) (w % 32))
  else if w / 2097152 % 32 = 3 then some (.xsig (w / 16384 % 128) (w / 32 % 16) (w % 32))
  else none

/-- Major 0x18 LANEX (R60). -/
def skLanex (w _w1 : Nat) : Option Instr :=
  if w % 32 = 0 then some (.shflidx (w / 524288 % 128) (w / 4096 % 128) (w / 32 % 128))
  else if w % 32 = 1 then some (.shflup (w / 524288 % 128) (w / 4096 % 128) (w / 32 % 128))
  else if w % 32 = 2 then some (.shfldn (w / 524288 % 128) (w / 4096 % 128) (w / 32 % 128))
  else if w % 32 = 3 then some (.shflxor (w / 524288 % 128) (w / 4096 % 128) (w / 32 % 128))
  else if w % 32 = 4 then some (.shflidxi (w / 524288 % 128) (w / 4096 % 128) (w / 32 % 32))
  else if w % 32 = 5 then some (.shflupi (w / 524288 % 128) (w / 4096 % 128) (w / 32 % 32))
  else if w % 32 = 6 then some (.shfldni (w / 524288 % 128) (w / 4096 % 128) (w / 32 % 32))
  else if w % 32 = 7 then some (.shflxori (w / 524288 % 128) (w / 4096 % 128) (w / 32 % 32))
  else none

/-- Major 0x19 GANGOP (R60). -/
def skGangop (w _w1 : Nat) : Option Instr :=
  if w % 32 = 0 then some (.redadd (w / 524288 % 128) (w / 4096 % 128))
  else if w % 32 = 1 then some (.redaddf (w / 524288 % 128) (w / 4096 % 128))
  else if w % 32 = 2 then some (.redmin (w / 524288 % 128) (w / 4096 % 128))
  else if w % 32 = 3 then some (.redmax (w / 524288 % 128) (w / 4096 % 128))
  else if w % 32 = 4 then some (.ballot (w / 524288 % 128) (w / 4096 % 8))
  else if w % 32 = 5 then some (.voteany (w / 524288 % 8) (w / 4096 % 8))
  else if w % 32 = 6 then some (.voteall (w / 524288 % 8) (w / 4096 % 8))
  else none

/-- Major 0x1A UALU (R60). -/
def skUalu (w _w1 : Nat) : Option Instr :=
  if w % 32 = 0 then some (.uadd (w / 2097152 % 32) (w / 65536 % 32) (w / 2048 % 32))
  else if w % 32 = 1 then some (.usub (w / 2097152 % 32) (w / 65536 % 32) (w / 2048 % 32))
  else if w % 32 = 2 then some (.umul (w / 2097152 % 32) (w / 65536 % 32) (w / 2048 % 32))
  else if w % 32 = 3 then some (.uand (w / 2097152 % 32) (w / 65536 % 32) (w / 2048 % 32))
  else if w % 32 = 4 then some (.uor (w / 2097152 % 32) (w / 65536 % 32) (w / 2048 % 32))
  else if w % 32 = 5 then some (.uxor (w / 2097152 % 32) (w / 65536 % 32) (w / 2048 % 32))
  else if w % 32 = 6 then some (.ushl (w / 2097152 % 32) (w / 65536 % 32) (w / 2048 % 32))
  else if w % 32 = 7 then some (.ushr (w / 2097152 % 32) (w / 65536 % 32) (w / 2048 % 32))
  else if w % 32 = 8 then some (.usar (w / 2097152 % 32) (w / 65536 % 32) (w / 2048 % 32))
  else if w % 32 = 9 then some (.umin (w / 2097152 % 32) (w / 65536 % 32) (w / 2048 % 32))
  else if w % 32 = 10 then some (.umax (w / 2097152 % 32) (w / 65536 % 32) (w / 2048 % 32))
  else if w % 32 = 11 then some (.uslt (w / 2097152 % 32) (w / 65536 % 32) (w / 2048 % 32))
  else if w % 32 = 12 then some (.usltn (w / 2097152 % 32) (w / 65536 % 32) (w / 2048 % 32))
  else if w % 32 = 13 then some (.useq (w / 2097152 % 32) (w / 65536 % 32) (w / 2048 % 32))
  else none

/-- Major 0x1B UMOVI (R60). -/
def skUmovi (w _w1 : Nat) : Option Instr :=
  some (.umovi (w / 2097152 % 32) (w % 2097152))

/-- Major 0x1C ULIT (R60). -/
def skUlit (w w1 : Nat) : Option Instr :=
  if w % 32 = 0 then some (.ulit (w / 2097152 % 32) (w1))
  else if w % 32 = 1 then some (.ulithi (w / 2097152 % 32) (w1))
  else none

/-- Major 0x1D UXFER (R60). -/
def skUxfer (w _w1 : Nat) : Option Instr :=
  if w % 32 = 0 then some (.movsr (w / 524288 % 128) (w / 4096 % 128))
  else if w % 32 = 1 then some (.rdlane (w / 524288 % 32) (w / 4096 % 128) (w / 32 % 32))
  else if w % 32 = 2 then some (.bcast (w / 524288 % 128) (w / 4096 % 32))
  else if w % 32 = 3 then some (.bcasthi (w / 524288 % 128) (w / 4096 % 32))
  else if w % 32 = 4 then some (.uld (w / 524288 % 32) (w / 4096 % 32) (w / 256 % 16) (w / 32 % 8))
  else none

/-- Major 0x20 BRC (R60). -/
def skBrc (w _w1 : Nat) : Option Instr :=
  some (.brc (w / 8388608 % 8) (w / 4194304 % 2) (w % 4194304))

/-- Major 0x21 UBRC (R60). -/
def skUbrc (w _w1 : Nat) : Option Instr :=
  some (.ubrc (w / 2097152 % 32) (w / 262144 % 8) (w % 262144))

/-- Major 0x22 CALL (R60). -/
def skCall (w _w1 : Nat) : Option Instr :=
  some (.call (w % 67108864))

/-- Major 0x23 JMP (R60). -/
def skJmp (w _w1 : Nat) : Option Instr :=
  some (.jmp (w / 2097152 % 32))

/-- Major 0x24 JSET (R60). -/
def skJset (w _w1 : Nat) : Option Instr :=
  some (.jset (w % 4194304))

/-- Major 0x25 CTRL (R60). -/
def skCtrl (w _w1 : Nat) : Option Instr :=
  if w % 32 = 0 then some .nopC
  else if w % 32 = 1 then some .join
  else if w % 32 = 2 then some .regang
  else if w % 32 = 3 then some .exit
  else if w % 32 = 4 then some .yield
  else none

/-- Major 0x26 REORDER (R60). -/
def skReorder (w w1 : Nat) : Option Instr :=
  some (.reorder (w / 4096 % 128) (w / 32 % 128) (w / 4 % 8) (w1))

/-- Major 0x27 SYS (R60). -/
def skSys (w _w1 : Nat) : Option Instr :=
  if w / 65536 % 32 = 0 then some (.trap (w % 65536))
  else if w / 65536 % 32 = 1 then some (.brk (w % 65536))
  else if w / 65536 % 32 = 2 then some (.trapret (w % 2))
  else if w / 65536 % 32 = 3 then some (.csrrd (w / 2097152 % 32) (w % 4096))
  else if w / 65536 % 32 = 4 then some (.csrwr (w / 2097152 % 32) (w % 4096))
  else if w / 65536 % 32 = 5 ∧ w % 4 = 0 then some (.tlbinvPage (w / 2097152 % 32))
  else if w / 65536 % 32 = 5 ∧ w % 4 = 1 then some .tlbinvAll
  else none

/-- Major 0x28 LDW (R60). -/
def skLdw (w _w1 : Nat) : Option Instr :=
  some (.ldw (w / 524288 % 128) (w / 4096 % 128) (w / 128 % 32) (w / 8 % 16) (w % 8))

/-- Major 0x29 LDD (R60). -/
def skLdd (w _w1 : Nat) : Option Instr :=
  some (.ldd (w / 524288 % 128) (w / 4096 % 128) (w / 128 % 32) (w / 8 % 16) (w % 8))

/-- Major 0x2A LDQ (R60). -/
def skLdq (w _w1 : Nat) : Option Instr :=
  some (.ldq (w / 524288 % 128) (w / 4096 % 128) (w / 128 % 32) (w / 8 % 16) (w % 8))

/-- Major 0x2B LDSUB (R60). -/
def skLdsub (w _w1 : Nat) : Option Instr :=
  if w % 8 = 0 then some (.ldbn (w / 524288 % 128) (w / 4096 % 128) (w / 128 % 32) (w / 8 % 16))
  else if w % 8 = 1 then some (.ldbs (w / 524288 % 128) (w / 4096 % 128) (w / 128 % 32) (w / 8 % 16))
  else if w % 8 = 2 then some (.ldhn (w / 524288 % 128) (w / 4096 % 128) (w / 128 % 32) (w / 8 % 16))
  else if w % 8 = 3 then some (.ldhs (w / 524288 % 128) (w / 4096 % 128) (w / 128 % 32) (w / 8 % 16))
  else none

/-- Major 0x2C STW (R60). -/
def skStw (w _w1 : Nat) : Option Instr :=
  some (.stw (w / 524288 % 128) (w / 4096 % 128) (w / 128 % 32) (w % 8))

/-- Major 0x2D STD (R60). -/
def skStd (w _w1 : Nat) : Option Instr :=
  some (.std (w / 524288 % 128) (w / 4096 % 128) (w / 128 % 32) (w % 8))

/-- Major 0x2E STQ (R60). -/
def skStq (w _w1 : Nat) : Option Instr :=
  some (.stq (w / 524288 % 128) (w / 4096 % 128) (w / 128 % 32) (w % 8))

/-- Major 0x2F STSUB (R60). -/
def skStsub (w _w1 : Nat) : Option Instr :=
  if w % 8 = 0 then some (.stb (w / 524288 % 128) (w / 4096 % 128) (w / 128 % 32))
  else if w % 8 = 1 then some (.sth (w / 524288 % 128) (w / 4096 % 128) (w / 128 % 32))
  else none

/-- Major 0x30 LDS (R60). -/
def skLds (w _w1 : Nat) : Option Instr :=
  some (.lds (w / 524288 % 128) (w / 4096 % 128) (w / 128 % 32) (w / 8 % 16) (w % 8))

/-- Major 0x31 STS (R60). -/
def skSts (w _w1 : Nat) : Option Instr :=
  some (.sts (w / 524288 % 128) (w / 4096 % 128) (w / 128 % 32) (w % 8))

/-- Major 0x32 ATOM (R60). -/
def skAtom (w w1 : Nat) : Option Instr :=
  some (.atom (w / 524288 % 128) (w / 4096 % 128) (w / 128 % 32) (w / 8 % 16) (w % 8) (w1 / 16777216 % 2) (w1 / 131072 % 128) (w1 / 1024 % 128) (w1 / 256 % 4) (w1 / 32 % 8) (w1 % 32))

/-- Major 0x33 ATOMS (R60). -/
def skAtoms (w w1 : Nat) : Option Instr :=
  some (.atoms (w / 524288 % 128) (w / 4096 % 128) (w / 128 % 32) (w / 8 % 16) (w1 / 16777216 % 2) (w1 / 131072 % 128) (w1 / 1024 % 128) (w1 / 256 % 4) (w1 % 32))

/-- Major 0x34 SYNC (R60). -/
def skSync (w _w1 : Nat) : Option Instr :=
  if w / 2097152 % 32 = 0 then some (.fence (w / 8 % 4) (w % 8))
  else if w / 2097152 % 32 = 1 then some (.fencex (w / 131072 % 8) (w / 16384 % 8) (w % 8))
  else if w / 2097152 % 32 = 2 then some (.cflush (w / 16384 % 128) (w / 512 % 32) (w % 8))
  else if w / 2097152 % 32 = 3 then some (.pref (w / 16384 % 128) (w / 512 % 32) (w % 8))
  else none

/-- Major 0x35 WAITC (R60). -/
def skWaitc (w w1 : Nat) : Option Instr :=
  if w / 2097152 % 32 = 0 then some (.waitc (w / 512 % 32) (w % 8) (w1 / 4096 % 4) (w1 / 512 % 8) (w1 / 64 % 8) (w1 % 32))
  else none

/-- Major 0x36 BAR (R60). -/
def skBar (w _w1 : Nat) : Option Instr :=
  if w / 2097152 % 32 = 0 then some (.bararr (w / 16384 % 32) (w / 512 % 32) (w % 16))
  else if w / 2097152 % 32 = 1 then some (.barwait (w / 16384 % 8) (w / 512 % 32) (w % 16))
  else if w / 2097152 % 32 = 2 then some (.barsync (w / 16384 % 8) (w / 512 % 32) (w % 16))
  else if w / 2097152 % 32 = 3 then some (.barqry (w / 16384 % 32) (w % 16))
  else if w / 2097152 % 32 = 4 then some (.batch (w / 16384 % 32))
  else if w / 2097152 % 32 = 5 then some (.waitb (w / 16384 % 8) (w / 512 % 32) (w % 2))
  else none

/-- Major 0x37 SQ (R60). -/
def skSq (w _w1 : Nat) : Option Instr :=
  if w / 2097152 % 32 = 0 then some (.sqput (w / 16384 % 128))
  else if w / 2097152 % 32 = 1 then some (.sqget (w / 16384 % 128) (w / 512 % 32) (w % 8))
  else if w / 2097152 % 32 = 2 then some .sqend
  else none

/-- Major 0x38 COPY (R60). -/
def skCopy (w w1 : Nat) : Option Instr :=
  if w / 2097152 % 32 = 0 then some (.cpyt (w / 512 % 32) (w / 16 % 2) (w % 16))
  else if w / 2097152 % 32 = 1 then some (.cpyg (w / 16384 % 128) (w / 512 % 32) (w / 16 % 2) (w % 16))
  else if w / 2097152 % 32 = 2 then some (.cpys (w / 16384 % 128) (w / 512 % 32) (w / 16 % 2) (w % 16))
  else if w / 2097152 % 32 = 3 then some (.cpyq (w / 512 % 32) (w / 16 % 2) (w % 16) (w1 / 65536) (w1 % 65536))
  else if w / 2097152 % 32 = 4 then some (.cpyz (w / 16384 % 32) (w / 512 % 32) (w / 16 % 2) (w % 16) (w1 % 16))
  else if w / 2097152 % 32 = 5 then some (.cpyx (w / 16384 % 32) (w / 512 % 32) (w / 16 % 2) (w % 16) (w1 % 16))
  else none

/-- Major 0x39 MAT (R60). -/
def skMat (w w1 : Nat) : Option Instr :=
  if w / 2097152 % 32 = 0 then some (.mma (w / 16384 % 128) (w / 512 % 32) (w / 16 % 2) (w / 8 % 2) (w % 8) (w1 / 65536) (w1 / 256 % 32) (w1 % 128))
  else if w / 2097152 % 32 = 1 then some (.mjob (w / 16384 % 32) (w / 512 % 32) (w / 16 % 2) (w % 16) (w1 % 32))
  else if w / 2097152 % 32 = 2 then some (.accz (w / 16384 % 128) (w / 512 % 32))
  else if w / 2097152 % 32 = 3 then some (.accadd (w / 16384 % 128) (w / 512 % 32) (w % 32))
  else if w / 2097152 % 32 = 4 then some (.accrd (w / 16384 % 128) (w / 512 % 32) (w / 32 % 16) (w % 32))
  else if w / 2097152 % 32 = 5 then some (.accwr (w / 16384 % 128) (w / 512 % 32) (w % 32))
  else if w / 2097152 % 32 = 6 then some (.drain (w / 16384 % 128) (w / 512 % 32) (w / 16 % 2) (w % 16) (w1 / 4194304 % 2) (w1 / 2097152 % 2) (w1 / 524288 % 4) (w1 / 65536 % 8) (w1 % 65536))
  else none

/-- Major 0x3A CHAIN (R60). -/
def skChain (w w1 : Nat) : Option Instr :=
  if w / 2097152 % 32 = 0 then some (.bdset (w / 512 % 32) (w % 16))
  else if w / 2097152 % 32 = 1 then some (.bdget (w / 16384 % 32) (w / 16 % 2) (w % 16))
  else if w / 2097152 % 32 = 2 then some (.mdset (w / 512 % 32) (w % 16))
  else if w / 2097152 % 32 = 3 then some (.ttcon (w / 16384 % 32) (w / 512 % 32) (w % 32) (w1 / 16 % 2) (w1 % 16))
  else if w / 2097152 % 32 = 4 then some (.ttprog (w / 16384 % 32) (w / 512 % 32) (w / 16 % 2) (w % 16))
  else none

/-- Major 0x3B STEP (R60). -/
def skStep (w _w1 : Nat) : Option Instr :=
  if w / 2097152 % 32 = 0 then some (.stepbeg (w / 512 % 32))
  else if w / 2097152 % 32 = 1 then some (.stepend (w / 16 % 2) (w % 16))
  else if w / 2097152 % 32 = 2 then some (.skiprd (w / 16384 % 32) (w / 512 % 32))
  else if w / 2097152 % 32 = 3 then some (.skipwr (w / 16384 % 32) (w / 512 % 32))
  else none

/-- Major 0x3C GFX (R60). -/
def skGfx (w w1 : Nat) : Option Instr :=
  if w / 2097152 % 32 = 0 then some (.prim (w / 16384 % 128) (w / 512 % 32) (w1 / 4 % 2) (w1 % 4))
  else if w / 2097152 % 32 = 1 then some (.post (w / 16384 % 128) (w / 512 % 32) (w % 16))
  else if w / 2097152 % 32 = 2 ∧ w % 2 = 0 then some (.kill (w / 512 % 32))
  else if w / 2097152 % 32 = 2 ∧ w % 2 = 1 then some .killAll
  else if w / 2097152 % 32 = 3 then some (.zprobe (w / 16384 % 128) (w / 512 % 32) (w % 8))
  else if w / 2097152 % 32 = 4 then some (.tgtopen (w / 512 % 32))
  else if w / 2097152 % 32 = 5 then some (.tgtseal (w / 512 % 32))
  else if w / 2097152 % 32 = 6 then some (.tgtwait (w / 512 % 32) (w % 8))
  else if w / 2097152 % 32 = 7 then some (.smp (w / 16384 % 128) (w / 512 % 32) (w / 32 % 16) (w % 32) (w1 % 2))
  else if w / 2097152 % 32 = 8 then some (.smpl (w / 16384 % 128) (w / 512 % 32) (w / 32 % 16) (w % 32))
  else none

/-- Major 0x3D RAY (R60). -/
def skRay (w _w1 : Nat) : Option Instr :=
  if w / 2097152 % 32 = 0 then some (.raysub (w / 16384 % 128) (w / 512 % 32) (w % 8))
  else if w / 2097152 % 32 = 1 then some (.rayget (w / 16384 % 128) (w / 512 % 32) (w % 8))
  else if w / 2097152 % 32 = 2 then some (.mbxget (w / 16384 % 128) (w / 32 % 16) (w % 8))
  else if w / 2097152 % 32 = 3 then some (.nodeld (w / 16384 % 128) (w / 32 % 16) (w % 8))
  else if w / 2097152 % 32 = 4 then some (.boxt (w / 16384 % 128) (w / 32 % 16))
  else if w / 2097152 % 32 = 5 then some (.trit (w / 16384 % 128) (w / 32 % 16))
  else if w / 2097152 % 32 = 6 then some (.rpush (w / 16384 % 128) (w / 512 % 32))
  else if w / 2097152 % 32 = 7 then some (.rpop (w / 16384 % 128) (w / 512 % 32) (w % 8))
  else if w / 2097152 % 32 = 8 then some (.rsave (w / 16384 % 128) (w / 512 % 32))
  else if w / 2097152 % 32 = 9 then some (.rload (w / 16384 % 128) (w / 512 % 32))
  else if w / 2097152 % 32 = 10 then some (.rcommit (w / 16384 % 128) (w % 32))
  else if w / 2097152 % 32 = 11 then some (.rdone (w / 16384 % 128))
  else if w / 2097152 % 32 = 12 then some (.nodepub (w / 16384 % 128) (w / 512 % 32))
  else none

/-- The row that the words name, with its fields (R60, R62); none where R61 assigns none. -/
def skeleton (w w1 : Nat) : Option Instr :=
  match w / 67108864 with
  | 1 => skIarith w w1
  | 2 => skIlogic w w1
  | 3 => skIbits w w1
  | 4 => skCmp w w1
  | 5 => skIaddi w w1
  | 6 => skAndi w w1
  | 7 => skOri w w1
  | 8 => skXori w w1
  | 9 => skShfi w w1
  | 10 => skMovi w w1
  | 11 => skSel w w1
  | 12 => skImad w w1
  | 13 => skLit w w1
  | 14 => skPlog w w1
  | 16 => skFarith w w1
  | 17 => skFma w w1
  | 18 => skHarith w w1
  | 19 => skDarith w w1
  | 20 => skCvt w w1
  | 21 => skXmath w w1
  | 22 => skXtile w w1
  | 24 => skLanex w w1
  | 25 => skGangop w w1
  | 26 => skUalu w w1
  | 27 => skUmovi w w1
  | 28 => skUlit w w1
  | 29 => skUxfer w w1
  | 32 => skBrc w w1
  | 33 => skUbrc w w1
  | 34 => skCall w w1
  | 35 => skJmp w w1
  | 36 => skJset w w1
  | 37 => skCtrl w w1
  | 38 => skReorder w w1
  | 39 => skSys w w1
  | 40 => skLdw w w1
  | 41 => skLdd w w1
  | 42 => skLdq w w1
  | 43 => skLdsub w w1
  | 44 => skStw w w1
  | 45 => skStd w w1
  | 46 => skStq w w1
  | 47 => skStsub w w1
  | 48 => skLds w w1
  | 49 => skSts w w1
  | 50 => skAtom w w1
  | 51 => skAtoms w w1
  | 52 => skSync w w1
  | 53 => skWaitc w w1
  | 54 => skBar w w1
  | 55 => skSq w w1
  | 56 => skCopy w w1
  | 57 => skMat w w1
  | 58 => skChain w w1
  | 59 => skStep w w1
  | 60 => skGfx w w1
  | 61 => skRay w w1
  | _ => none

/-- The majors that R60 assigns; the others are reserved (R61). -/
def majorAssigned (m : Nat) : Bool :=
  (1 ≤ m && m ≤ 0x0E) || (0x10 ≤ m && m ≤ 0x16) || (0x18 ≤ m && m ≤ 0x1D) || (0x20 ≤ m && m ≤ 0x3D)

/-- Whether a clause of this class admits this major (R48). -/
def classAdmits (cls m : Nat) : Bool :=
  match cls with
  | 0 => true
  | 1 => 0x01 ≤ m && m ≤ 0x1D && m != 0x15 && m != 0x16
  | 2 => 0x28 ≤ m && m ≤ 0x35
  | 3 => m == 0x15 || m == 0x16
  | 4 => 0x36 ≤ m && m ≤ 0x3B
  | 5 => m == 0x3C || m == 0x3D
  | 6 => 0x20 ≤ m && m ≤ 0x26
  | _ => m == 0x27

/-- Whether a first word's instruction takes two words (R60, R62): R60 gives the words of most majors whole, of any fn. -/
def takesTwo (w : Nat) : Bool :=
  let m := w / 67108864
  let efn := w / 2097152 % 32
  match m with
  | 0x0C => true
  | 0x0D => true
  | 0x11 => true
  | 0x1C => true
  | 0x26 => true
  | 0x32 => true
  | 0x33 => true
  | 0x35 => true
  | 0x38 => 3 ≤ efn && efn ≤ 5
  | 0x39 => efn == 0 || efn == 1 || efn == 6
  | 0x3A => efn == 3
  | 0x3C => efn == 0 || efn == 7
  | _ => false

/-- The words of a well-formed instruction (R57 to R63), first word first; an event has none. -/
def encode (i : Instr) : List Nat :=
  match i with
  | .iadd d a b => [0x4000000 + d * 524288 + a * 4096 + b * 32]
  | .isub d a b => [0x4000001 + d * 524288 + a * 4096 + b * 32]
  | .imul d a b => [0x4000002 + d * 524288 + a * 4096 + b * 32]
  | .imulh d a b => [0x4000003 + d * 524288 + a * 4096 + b * 32]
  | .imulhu d a b => [0x4000004 + d * 524288 + a * 4096 + b * 32]
  | .imin d a b => [0x4000005 + d * 524288 + a * 4096 + b * 32]
  | .imax d a b => [0x4000006 + d * 524288 + a * 4096 + b * 32]
  | .iminu d a b => [0x4000007 + d * 524288 + a * 4096 + b * 32]
  | .imaxu d a b => [0x4000008 + d * 524288 + a * 4096 + b * 32]
  | .iaddsat d a b => [0x4000009 + d * 524288 + a * 4096 + b * 32]
  | .iadd64 d a b => [0x400000a + d * 524288 + a * 4096 + b * 32]
  | .isub64 d a b => [0x400000b + d * 524288 + a * 4096 + b * 32]
  | .and d a b => [0x8000000 + d * 524288 + a * 4096 + b * 32]
  | .or d a b => [0x8000001 + d * 524288 + a * 4096 + b * 32]
  | .xor d a b => [0x8000002 + d * 524288 + a * 4096 + b * 32]
  | .andn d a b => [0x8000003 + d * 524288 + a * 4096 + b * 32]
  | .shl d a b => [0x8000004 + d * 524288 + a * 4096 + b * 32]
  | .shr d a b => [0x8000005 + d * 524288 + a * 4096 + b * 32]
  | .sar d a b => [0x8000006 + d * 524288 + a * 4096 + b * 32]
  | .rotl d a b => [0x8000007 + d * 524288 + a * 4096 + b * 32]
  | .shl64 d a b => [0x8000008 + d * 524288 + a * 4096 + b * 32]
  | .shr64 d a b => [0x8000009 + d * 524288 + a * 4096 + b * 32]
  | .popc d a => [0xc000000 + d * 524288 + a * 4096]
  | .clz d a => [0xc000001 + d * 524288 + a * 4096]
  | .ctz d a => [0xc000002 + d * 524288 + a * 4096]
  | .brev d a => [0xc000003 + d * 524288 + a * 4096]
  | .bswap d a => [0xc000004 + d * 524288 + a * 4096]
  | .bfe d a b => [0xc000005 + d * 524288 + a * 4096 + b * 32]
  | .bfeu d a b => [0xc000006 + d * 524288 + a * 4096 + b * 32]
  | .bfi d a b => [0xc000007 + d * 524288 + a * 4096 + b * 32]
  | .icmpI32 p c a b => [0x10000000 + p * 8388608 + c * 524288 + a * 4096 + b * 32]
  | .icmpN32 p c a b => [0x10000001 + p * 8388608 + c * 524288 + a * 4096 + b * 32]
  | .icmpI64 p c a b => [0x10000005 + p * 8388608 + c * 524288 + a * 4096 + b * 32]
  | .icmpN64 p c a b => [0x10000006 + p * 8388608 + c * 524288 + a * 4096 + b * 32]
  | .fcmpF32 p c a b => [0x10000002 + p * 8388608 + c * 524288 + a * 4096 + b * 32]
  | .fcmpF64 p c a b => [0x10000003 + p * 8388608 + c * 524288 + a * 4096 + b * 32]
  | .fcmpF16 p c a b => [0x10000004 + p * 8388608 + c * 524288 + a * 4096 + b * 32]
  | .iaddi d a i => [0x14000000 + d * 524288 + a * 4096 + i]
  | .andi d a i => [0x18000000 + d * 524288 + a * 4096 + i]
  | .ori d a i => [0x1c000000 + d * 524288 + a * 4096 + i]
  | .xori d a i => [0x20000000 + d * 524288 + a * 4096 + i]
  | .shli d a n => [0x24000000 + d * 524288 + a * 4096 + n]
  | .shri d a n => [0x24000400 + d * 524288 + a * 4096 + n]
  | .sari d a n => [0x24000800 + d * 524288 + a * 4096 + n]
  | .rotli d a n => [0x24000c00 + d * 524288 + a * 4096 + n]
  | .movi d i => [0x28000000 + d * 524288 + i]
  | .movhi d i => [0x28040000 + d * 524288 + i]
  | .sel d a b p n => [0x2c000000 + d * 524288 + a * 4096 + b * 32 + p * 4 + n * 2]
  | .imad d a b c => [0x30000000 + d * 524288 + a * 4096 + b * 32, c]
  | .lit d i => [0x34000000 + d * 524288, i]
  | .pand d a b => [0x38000000 + d * 8388608 + a * 1048576 + b * 131072]
  | .por d a b => [0x38000001 + d * 8388608 + a * 1048576 + b * 131072]
  | .pxor d a b => [0x38000002 + d * 8388608 + a * 1048576 + b * 131072]
  | .pandn d a b => [0x38000003 + d * 8388608 + a * 1048576 + b * 131072]
  | .fadd d a b => [0x40000000 + d * 524288 + a * 4096 + b * 32]
  | .fsub d a b => [0x40000001 + d * 524288 + a * 4096 + b * 32]
  | .fmul d a b => [0x40000002 + d * 524288 + a * 4096 + b * 32]
  | .fmac d a b => [0x40000003 + d * 524288 + a * 4096 + b * 32]
  | .fmin d a b => [0x40000004 + d * 524288 + a * 4096 + b * 32]
  | .fmax d a b => [0x40000005 + d * 524288 + a * 4096 + b * 32]
  | .fneg d a => [0x40000006 + d * 524288 + a * 4096]
  | .fabs d a => [0x40000007 + d * 524288 + a * 4096]
  | .frnd d a m => [0x40000008 + d * 524288 + a * 4096 + m * 32]
  | .fcpys d a b => [0x40000009 + d * 524288 + a * 4096 + b * 32]
  | .fma d a b c => [0x44000000 + d * 524288 + a * 4096 + b * 32, c]
  | .fms d a b c => [0x44000001 + d * 524288 + a * 4096 + b * 32, c]
  | .fnma d a b c => [0x44000002 + d * 524288 + a * 4096 + b * 32, c]
  | .hadd2 d a b => [0x48000000 + d * 524288 + a * 4096 + b * 32]
  | .hmul2 d a b => [0x48000001 + d * 524288 + a * 4096 + b * 32]
  | .hfma2 d a b => [0x48000002 + d * 524288 + a * 4096 + b * 32]
  | .hmin2 d a b => [0x48000003 + d * 524288 + a * 4096 + b * 32]
  | .hmax2 d a b => [0x48000004 + d * 524288 + a * 4096 + b * 32]
  | .badd2 d a b => [0x48000008 + d * 524288 + a * 4096 + b * 32]
  | .bmul2 d a b => [0x48000009 + d * 524288 + a * 4096 + b * 32]
  | .bfma2 d a b => [0x4800000a + d * 524288 + a * 4096 + b * 32]
  | .dadd d a b => [0x4c000000 + d * 524288 + a * 4096 + b * 32]
  | .dsub d a b => [0x4c000001 + d * 524288 + a * 4096 + b * 32]
  | .dmul d a b => [0x4c000002 + d * 524288 + a * 4096 + b * 32]
  | .dfma d a b => [0x4c000003 + d * 524288 + a * 4096 + b * 32]
  | .dmin d a b => [0x4c000004 + d * 524288 + a * 4096 + b * 32]
  | .dmax d a b => [0x4c000005 + d * 524288 + a * 4096 + b * 32]
  | .cvtF32I32 d a => [0x50000000 + d * 524288 + a * 4096]
  | .cvtF32N32 d a => [0x50000001 + d * 524288 + a * 4096]
  | .cvtI32F32 d a => [0x50000002 + d * 524288 + a * 4096]
  | .cvtN32F32 d a => [0x50000003 + d * 524288 + a * 4096]
  | .cvtF16F32 d a => [0x50000004 + d * 524288 + a * 4096]
  | .cvtF32F16 d a => [0x50000005 + d * 524288 + a * 4096]
  | .cvtBf16F32 d a => [0x50000006 + d * 524288 + a * 4096]
  | .cvtF32Bf16 d a => [0x50000007 + d * 524288 + a * 4096]
  | .cvtF64F32 d a => [0x50000008 + d * 524288 + a * 4096]
  | .cvtF32F64 d a => [0x50000009 + d * 524288 + a * 4096]
  | .cvtF64I64 d a => [0x5000000a + d * 524288 + a * 4096]
  | .cvtI64F64 d a => [0x5000000b + d * 524288 + a * 4096]
  | .cvtE4m3x2F32 d a b => [0x5000000c + d * 524288 + a * 4096 + b * 32]
  | .cvtE5m2x2F32 d a b => [0x5000000d + d * 524288 + a * 4096 + b * 32]
  | .cvtF32E4m3 d a k => [0x5000000e + d * 524288 + a * 4096 + k * 32]
  | .cvtF32E5m2 d a k => [0x5000000f + d * 524288 + a * 4096 + k * 32]
  | .frcp d a l => [0x54000000 + d * 524288 + a * 4096 + l * 256]
  | .frsq d a l => [0x54000001 + d * 524288 + a * 4096 + l * 256]
  | .fsqrt d a l => [0x54000002 + d * 524288 + a * 4096 + l * 256]
  | .fexp2 d a l => [0x54000003 + d * 524288 + a * 4096 + l * 256]
  | .flog2 d a l => [0x54000004 + d * 524288 + a * 4096 + l * 256]
  | .fsin d a l => [0x54000005 + d * 524288 + a * 4096 + l * 256]
  | .fcos d a l => [0x54000006 + d * 524288 + a * 4096 + l * 256]
  | .xqrow v g l x => [0x58000000 + v * 16384 + g * 512 + l * 32 + x]
  | .xqcol v g l x => [0x58200000 + v * 16384 + g * 512 + l * 32 + x]
  | .xtrans v l x => [0x58400000 + v * 16384 + l * 32 + x]
  | .xsig v l x => [0x58600000 + v * 16384 + l * 32 + x]
  | .shflidx d a b => [0x60000000 + d * 524288 + a * 4096 + b * 32]
  | .shflup d a b => [0x60000001 + d * 524288 + a * 4096 + b * 32]
  | .shfldn d a b => [0x60000002 + d * 524288 + a * 4096 + b * 32]
  | .shflxor d a b => [0x60000003 + d * 524288 + a * 4096 + b * 32]
  | .shflidxi d a k => [0x60000004 + d * 524288 + a * 4096 + k * 32]
  | .shflupi d a k => [0x60000005 + d * 524288 + a * 4096 + k * 32]
  | .shfldni d a k => [0x60000006 + d * 524288 + a * 4096 + k * 32]
  | .shflxori d a k => [0x60000007 + d * 524288 + a * 4096 + k * 32]
  | .redadd d a => [0x64000000 + d * 524288 + a * 4096]
  | .redaddf d a => [0x64000001 + d * 524288 + a * 4096]
  | .redmin d a => [0x64000002 + d * 524288 + a * 4096]
  | .redmax d a => [0x64000003 + d * 524288 + a * 4096]
  | .ballot d a => [0x64000004 + d * 524288 + a * 4096]
  | .voteany d a => [0x64000005 + d * 524288 + a * 4096]
  | .voteall d a => [0x64000006 + d * 524288 + a * 4096]
  | .uadd d a b => [0x68000000 + d * 2097152 + a * 65536 + b * 2048]
  | .usub d a b => [0x68000001 + d * 2097152 + a * 65536 + b * 2048]
  | .umul d a b => [0x68000002 + d * 2097152 + a * 65536 + b * 2048]
  | .uand d a b => [0x68000003 + d * 2097152 + a * 65536 + b * 2048]
  | .uor d a b => [0x68000004 + d * 2097152 + a * 65536 + b * 2048]
  | .uxor d a b => [0x68000005 + d * 2097152 + a * 65536 + b * 2048]
  | .ushl d a b => [0x68000006 + d * 2097152 + a * 65536 + b * 2048]
  | .ushr d a b => [0x68000007 + d * 2097152 + a * 65536 + b * 2048]
  | .usar d a b => [0x68000008 + d * 2097152 + a * 65536 + b * 2048]
  | .umin d a b => [0x68000009 + d * 2097152 + a * 65536 + b * 2048]
  | .umax d a b => [0x6800000a + d * 2097152 + a * 65536 + b * 2048]
  | .uslt d a b => [0x6800000b + d * 2097152 + a * 65536 + b * 2048]
  | .usltn d a b => [0x6800000c + d * 2097152 + a * 65536 + b * 2048]
  | .useq d a b => [0x6800000d + d * 2097152 + a * 65536 + b * 2048]
  | .umovi d i => [0x6c000000 + d * 2097152 + i]
  | .ulit d i => [0x70000000 + d * 2097152, i]
  | .ulithi d i => [0x70000001 + d * 2097152, i]
  | .movsr d s => [0x74000000 + d * 524288 + s * 4096]
  | .rdlane d a n => [0x74000001 + d * 524288 + a * 4096 + n * 32]
  | .bcast d a => [0x74000002 + d * 524288 + a * 4096]
  | .bcasthi d a => [0x74000003 + d * 524288 + a * 4096]
  | .uld d a l t => [0x74000004 + d * 524288 + a * 4096 + l * 256 + t * 32]
  | .brc p n o => [0x80000000 + p * 8388608 + n * 4194304 + o]
  | .ubrc g c o => [0x84000000 + g * 2097152 + c * 262144 + o]
  | .call o => [0x88000000 + o]
  | .jmp g => [0x8c000000 + g * 2097152]
  | .jset o => [0x90000000 + o]
  | .nopC => [0x94000000]
  | .join => [0x94000001]
  | .regang => [0x94000002]
  | .exit => [0x94000003]
  | .yield => [0x94000004]
  | .reorder a b n o => [0x98000000 + a * 4096 + b * 32 + n * 4, o]
  | .trap i => [0x9c000000 + i]
  | .brk i => [0x9c010000 + i]
  | .trapret s => [0x9c020000 + s]
  | .csrrd g c => [0x9c030000 + g * 2097152 + c]
  | .csrwr g c => [0x9c040000 + g * 2097152 + c]
  | .tlbinvPage g => [0x9c050000 + g * 2097152]
  | .tlbinvAll => [0x9c050001]
  | .ldw d o g l t => [0xa0000000 + d * 524288 + o * 4096 + g * 128 + l * 8 + t]
  | .ldd d o g l t => [0xa4000000 + d * 524288 + o * 4096 + g * 128 + l * 8 + t]
  | .ldq d o g l t => [0xa8000000 + d * 524288 + o * 4096 + g * 128 + l * 8 + t]
  | .ldbn d o g l => [0xac000000 + d * 524288 + o * 4096 + g * 128 + l * 8]
  | .ldbs d o g l => [0xac000001 + d * 524288 + o * 4096 + g * 128 + l * 8]
  | .ldhn d o g l => [0xac000002 + d * 524288 + o * 4096 + g * 128 + l * 8]
  | .ldhs d o g l => [0xac000003 + d * 524288 + o * 4096 + g * 128 + l * 8]
  | .stw d o g t => [0xb0000000 + d * 524288 + o * 4096 + g * 128 + t]
  | .std d o g t => [0xb4000000 + d * 524288 + o * 4096 + g * 128 + t]
  | .stq d o g t => [0xb8000000 + d * 524288 + o * 4096 + g * 128 + t]
  | .stb d o g => [0xbc000000 + d * 524288 + o * 4096 + g * 128]
  | .sth d o g => [0xbc000001 + d * 524288 + o * 4096 + g * 128]
  | .lds d o g l s => [0xc0000000 + d * 524288 + o * 4096 + g * 128 + l * 8 + s]
  | .sts d o g s => [0xc4000000 + d * 524288 + o * 4096 + g * 128 + s]
  | .atom d o g l t nr c b r s op => [0xc8000000 + d * 524288 + o * 4096 + g * 128 + l * 8 + t, nr * 16777216 + c * 131072 + b * 1024 + r * 256 + s * 32 + op]
  | .atoms d o g l nr c b r op => [0xcc000000 + d * 524288 + o * 4096 + g * 128 + l * 8, nr * 16777216 + c * 131072 + b * 1024 + r * 256 + op]
  | .fence o e => [0xd0000000 + o * 8 + e]
  | .fencex a b s => [0xd0200000 + a * 131072 + b * 16384 + s]
  | .cflush v g t => [0xd0400000 + v * 16384 + g * 512 + t]
  | .pref v g t => [0xd0600000 + v * 16384 + g * 512 + t]
  | .waitc g p w cond s gc => [0xd4000000 + g * 512 + p, w * 4096 + cond * 512 + s * 64 + gc]
  | .bararr v g b => [0xd8000000 + v * 16384 + g * 512 + b]
  | .barwait p g b => [0xd8200000 + p * 16384 + g * 512 + b]
  | .barsync p g b => [0xd8400000 + p * 16384 + g * 512 + b]
  | .barqry v b => [0xd8600000 + v * 16384 + b]
  | .batch v => [0xd8800000 + v * 16384]
  | .waitb p g c => [0xd8a00000 + p * 16384 + g * 512 + c]
  | .sqput v => [0xdc000000 + v * 16384]
  | .sqget v g p => [0xdc200000 + v * 16384 + g * 512 + p]
  | .sqend => [0xdc400000]
  | .cpyt g x b => [0xe0000000 + g * 512 + x * 16 + b]
  | .cpyg v g x b => [0xe0200000 + v * 16384 + g * 512 + x * 16 + b]
  | .cpys v g x b => [0xe0400000 + v * 16384 + g * 512 + x * 16 + b]
  | .cpyq g x b k h => [0xe0600000 + g * 512 + x * 16 + b, k * 65536 + h]
  | .cpyz v g x b k => [0xe0800000 + v * 16384 + g * 512 + x * 16 + b, k]
  | .cpyx v g x b k => [0xe0a00000 + v * 16384 + g * 512 + x * 16 + b, k]
  | .mma v g s r w h f t => [0xe4000000 + v * 16384 + g * 512 + s * 16 + r * 8 + w, h * 65536 + f * 256 + t]
  | .mjob v g x b f => [0xe4200000 + v * 16384 + g * 512 + x * 16 + b, f]
  | .accz v g => [0xe4400000 + v * 16384 + g * 512]
  | .accadd v g q => [0xe4600000 + v * 16384 + g * 512 + q]
  | .accrd v g l q => [0xe4800000 + v * 16384 + g * 512 + l * 32 + q]
  | .accwr v g q => [0xe4a00000 + v * 16384 + g * 512 + q]
  | .drain v g x b e z m f h => [0xe4c00000 + v * 16384 + g * 512 + x * 16 + b, e * 4194304 + z * 2097152 + m * 524288 + f * 65536 + h]
  | .bdset g n => [0xe8000000 + g * 512 + n]
  | .bdget d m n => [0xe8200000 + d * 16384 + m * 16 + n]
  | .mdset g n => [0xe8400000 + g * 512 + n]
  | .ttcon w g k x b => [0xe8600000 + w * 16384 + g * 512 + k, x * 16 + b]
  | .ttprog w g x b => [0xe8800000 + w * 16384 + g * 512 + x * 16 + b]
  | .stepbeg g => [0xec000000 + g * 512]
  | .stepend x b => [0xec200000 + x * 16 + b]
  | .skiprd d g => [0xec400000 + d * 16384 + g * 512]
  | .skipwr s g => [0xec600000 + s * 16384 + g * 512]
  | .prim v g f c => [0xf0000000 + v * 16384 + g * 512, f * 4 + c]
  | .post v g s => [0xf0200000 + v * 16384 + g * 512 + s]
  | .kill g => [0xf0400000 + g * 512]
  | .killAll => [0xf0400001]
  | .zprobe v g p => [0xf0600000 + v * 16384 + g * 512 + p]
  | .tgtopen g => [0xf0800000 + g * 512]
  | .tgtseal g => [0xf0a00000 + g * 512]
  | .tgtwait g p => [0xf0c00000 + g * 512 + p]
  | .smp v g l q wr => [0xf0e00000 + v * 16384 + g * 512 + l * 32 + q, wr]
  | .smpl v g l q => [0xf1000000 + v * 16384 + g * 512 + l * 32 + q]
  | .raysub v g t => [0xf4000000 + v * 16384 + g * 512 + t]
  | .rayget v g p => [0xf4200000 + v * 16384 + g * 512 + p]
  | .mbxget v l p => [0xf4400000 + v * 16384 + l * 32 + p]
  | .nodeld v l k => [0xf4600000 + v * 16384 + l * 32 + k]
  | .boxt v l => [0xf4800000 + v * 16384 + l * 32]
  | .trit v l => [0xf4a00000 + v * 16384 + l * 32]
  | .rpush v g => [0xf4c00000 + v * 16384 + g * 512]
  | .rpop v g p => [0xf4e00000 + v * 16384 + g * 512 + p]
  | .rsave v g => [0xf5000000 + v * 16384 + g * 512]
  | .rload v g => [0xf5200000 + v * 16384 + g * 512]
  | .rcommit v h => [0xf5400000 + v * 16384 + h]
  | .rdone v => [0xf5600000 + v * 16384]
  | .nodepub v g => [0xf5800000 + v * 16384 + g * 512]
  | .supplyGood => []
  | .bootRomPass => []
  | .imageInitialised => []
  | .trainingComplete => []
  | .selftestComplete => []
  | .packageMachineCheck => []
  | .dieLinkFailure => []
  | .pfFunctionLevelReset => []
  | .supplyLost => []
  | .log => []
  | .retry => []
  | .image => []
  | .partcfg => []
  | .replcfg => []
  | .droopTrip => []
  | .droopRecovery => []
  | .softError => []
  | .wsphaseAdvance => []
  | .create => []
  | .preempt => []
  | .reset => []
  | .destroy => []
  | .query => []
  | .wrreg => []
  | .keyload => []
  | .keyclr => []
  | .policy => []
  | .serve => []
  | .contextSchedule => []
  | .contextIdle => []
  | .timeSliceExpiry => []
  | .priorityPreempt => []
  | .preemptionComplete => []
  | .contextRestore => []
  | .contextRelease => []
  | .slicePreemptStop => []
  | .preemptFallback => []
  | .pathStarvation => []
  | .qwptr => []
  | .queueEnable => []
  | .queueDisable => []
  | .registerWrite => []
  | .nop => []
  | .launch => []
  | .frame => []
  | .signalWrite => []
  | .signalAdd => []
  | .waitv => []
  | .waitvRecheck => []
  | .waitvPollTimer => []
  | .fencePacket => []
  | .tgtCreate => []
  | .tgtOpen => []
  | .tgtSeal => []
  | .tgtRelease => []
  | .wstore => []
  | .mark => []
  | .wrap => []
  | .packetComplete => []
  | .pipelineSetStart => []
  | .workgroupFinish => []
  | .serviceRequest => []
  | .serviceAnswer => []
  | .parkGroupStart => []
  | .loadDataReturn => []
  | .storeAccept => []
  | .atomicPerformed => []
  | .xpipeWriteback => []
  | .rayTestResult => []
  | .homeRequest => []
  | .spanRecall => []
  | .replicaConfirm => []
  | .ownConfirm => []
  | .invalidationConfirm => []
  | .ownedWriteback => []
  | .proxyEviction => []
  | .replicationIntervalEnd => []
  | .commandFaultDelivery => []
  | .sqputResume => []
  | .sqgetResume => []
  | .tagComplete => []
  | .regangComplete => []
  | .continuationGangLaunch => []
  | .liftFlush => []
  | .gangFormComplete => []
  | .barrierWaitEnd => []
  | .batchWaitEnd => []
  | .beaconWake => []
  | .crewForm => []
  | .reservationAccept => []
  | .matrixPass => []
  | .engineCommandComplete => []
  | .copyComplete => []
  | .fragmentApply => []
  | .targetSealComplete => []
  | .targetWaitEnd => []
  | .primitiveBinned => []
  | .partialRender => []
  | .fragmentPassStart => []
  | .rasterEmit => []
  | .walkerGangStart => []
  | .mbxgetResume => []
  | .polnuPortDown => []
  | .peerRequestReceived => []
  | .peerReadData => []
  | .peerWriteAck => []
  | .peerNak => []
  | .peerTimeout => []
  | .vfFunctionLevelReset => []
  | .msixUnmask => []
  | .atsResponse => []
  | .atsInvalidation => []
  | .hostErrorCompletion => []
  | .readOnlyDropEnd => []

/-- The instruction at the head of the words, or why there is none (R58, R61). A one-word instruction leaves what follows. -/
def decode (ws : List Nat) : Except Reject Instr :=
  match ws with
  | [] => .error .truncated
  | w :: rest =>
    let w1 := rest.headD 0
    match skeleton w w1 with
    | none => .error .unassigned
    | some i =>
      if takesTwo w && rest.isEmpty then .error .truncated
      else if i.wellFormed && encode i == (if takesTwo w then [w, w1] else [w]) then .ok i
      else .error .badField

/-- The little-endian words of a byte list (R3); a last group of fewer than four bytes is dropped. -/
def wordsOfBytes : List (BitVec 8) → List Nat
  | a :: b :: c :: d :: rest => (a.toNat + b.toNat * 0x100 + c.toNat * 0x10000 + d.toNat * 0x1000000) :: wordsOfBytes rest
  | _ => []

/-- The four bytes of a word as memory holds it (R3). -/
def bytesOfWord (w : Nat) : List (BitVec 8) :=
  [BitVec.ofNat 8 w, BitVec.ofNat 8 (w / 0x100), BitVec.ofNat 8 (w / 0x10000), BitVec.ofNat 8 (w / 0x1000000)]

/-- Decoding from the bytes as they lie in memory. -/
def decodeBytes (bs : List (BitVec 8)) : Except Reject Instr := decode (wordsOfBytes bs)

/-- The two words of a table row's bits: the first word in bits [31:0], the second above it; bits at and above nbits are zero. -/
def tableWords (nbits w : Nat) : List Nat :=
  let v := w % 2 ^ nbits
  [v % 0x100000000, v / 0x100000000 % 0x100000000]

/-- The instruction the decoder reads from a table row's bits, its words laid out little-endian. -/
def decodeTableWord (nbits w : Nat) : Option Instr :=
  match decodeBytes ((tableWords nbits w).flatMap bytesOfWord) with
  | .ok i => some i
  | .error _ => none

/-- A run of V registers that an instruction names: its first register, its length, and whether it is read and written. -/
structure VSpan where
  first : Nat
  len : Nat
  read : Bool
  written : Bool
  deriving DecidableEq, Repr

/-- The registers an instruction names: V spans in field order, G registers, tiles and barriers (R58, R66, R140). -/
structure Usage where
  v : List VSpan := []
  gsrc : List Nat := []
  gdst : List Nat := []
  tiles : List Nat := []
  bars : List Nat := []
  deriving DecidableEq, Repr

/-- What each row names, from its chapter. -/
def Instr.usage (i : Instr) : Usage :=
  match i with
  | .iadd d a b => { v := [⟨d, 1, false, true⟩, ⟨a, 1, true, false⟩, ⟨b, 1, true, false⟩] }
  | .isub d a b => { v := [⟨d, 1, false, true⟩, ⟨a, 1, true, false⟩, ⟨b, 1, true, false⟩] }
  | .imul d a b => { v := [⟨d, 1, false, true⟩, ⟨a, 1, true, false⟩, ⟨b, 1, true, false⟩] }
  | .imulh d a b => { v := [⟨d, 1, false, true⟩, ⟨a, 1, true, false⟩, ⟨b, 1, true, false⟩] }
  | .imulhu d a b => { v := [⟨d, 1, false, true⟩, ⟨a, 1, true, false⟩, ⟨b, 1, true, false⟩] }
  | .imin d a b => { v := [⟨d, 1, false, true⟩, ⟨a, 1, true, false⟩, ⟨b, 1, true, false⟩] }
  | .imax d a b => { v := [⟨d, 1, false, true⟩, ⟨a, 1, true, false⟩, ⟨b, 1, true, false⟩] }
  | .iminu d a b => { v := [⟨d, 1, false, true⟩, ⟨a, 1, true, false⟩, ⟨b, 1, true, false⟩] }
  | .imaxu d a b => { v := [⟨d, 1, false, true⟩, ⟨a, 1, true, false⟩, ⟨b, 1, true, false⟩] }
  | .iaddsat d a b => { v := [⟨d, 1, false, true⟩, ⟨a, 1, true, false⟩, ⟨b, 1, true, false⟩] }
  | .iadd64 d a b => { v := [⟨d, 2, false, true⟩, ⟨a, 2, true, false⟩, ⟨b, 2, true, false⟩] }
  | .isub64 d a b => { v := [⟨d, 2, false, true⟩, ⟨a, 2, true, false⟩, ⟨b, 2, true, false⟩] }
  | .and d a b => { v := [⟨d, 1, false, true⟩, ⟨a, 1, true, false⟩, ⟨b, 1, true, false⟩] }
  | .or d a b => { v := [⟨d, 1, false, true⟩, ⟨a, 1, true, false⟩, ⟨b, 1, true, false⟩] }
  | .xor d a b => { v := [⟨d, 1, false, true⟩, ⟨a, 1, true, false⟩, ⟨b, 1, true, false⟩] }
  | .andn d a b => { v := [⟨d, 1, false, true⟩, ⟨a, 1, true, false⟩, ⟨b, 1, true, false⟩] }
  | .shl d a b => { v := [⟨d, 1, false, true⟩, ⟨a, 1, true, false⟩, ⟨b, 1, true, false⟩] }
  | .shr d a b => { v := [⟨d, 1, false, true⟩, ⟨a, 1, true, false⟩, ⟨b, 1, true, false⟩] }
  | .sar d a b => { v := [⟨d, 1, false, true⟩, ⟨a, 1, true, false⟩, ⟨b, 1, true, false⟩] }
  | .rotl d a b => { v := [⟨d, 1, false, true⟩, ⟨a, 1, true, false⟩, ⟨b, 1, true, false⟩] }
  | .shl64 d a b => { v := [⟨d, 2, false, true⟩, ⟨a, 2, true, false⟩, ⟨b, 1, true, false⟩] }
  | .shr64 d a b => { v := [⟨d, 2, false, true⟩, ⟨a, 2, true, false⟩, ⟨b, 1, true, false⟩] }
  | .popc d a => { v := [⟨d, 1, false, true⟩, ⟨a, 1, true, false⟩] }
  | .clz d a => { v := [⟨d, 1, false, true⟩, ⟨a, 1, true, false⟩] }
  | .ctz d a => { v := [⟨d, 1, false, true⟩, ⟨a, 1, true, false⟩] }
  | .brev d a => { v := [⟨d, 1, false, true⟩, ⟨a, 1, true, false⟩] }
  | .bswap d a => { v := [⟨d, 1, false, true⟩, ⟨a, 1, true, false⟩] }
  | .bfe d a b => { v := [⟨d, 1, false, true⟩, ⟨a, 1, true, false⟩, ⟨b, 1, true, false⟩] }
  | .bfeu d a b => { v := [⟨d, 1, false, true⟩, ⟨a, 1, true, false⟩, ⟨b, 1, true, false⟩] }
  | .bfi d a b => { v := [⟨d, 1, true, true⟩, ⟨a, 1, true, false⟩, ⟨b, 1, true, false⟩] }
  | .icmpI32 _ _ a b => { v := [⟨a, 1, true, false⟩, ⟨b, 1, true, false⟩] }
  | .icmpN32 _ _ a b => { v := [⟨a, 1, true, false⟩, ⟨b, 1, true, false⟩] }
  | .icmpI64 _ _ a b => { v := [⟨a, 2, true, false⟩, ⟨b, 2, true, false⟩] }
  | .icmpN64 _ _ a b => { v := [⟨a, 2, true, false⟩, ⟨b, 2, true, false⟩] }
  | .fcmpF32 _ _ a b => { v := [⟨a, 1, true, false⟩, ⟨b, 1, true, false⟩] }
  | .fcmpF64 _ _ a b => { v := [⟨a, 2, true, false⟩, ⟨b, 2, true, false⟩] }
  | .fcmpF16 _ _ a b => { v := [⟨a, 1, true, false⟩, ⟨b, 1, true, false⟩] }
  | .iaddi d a _ => { v := [⟨d, 1, false, true⟩, ⟨a, 1, true, false⟩] }
  | .andi d a _ => { v := [⟨d, 1, false, true⟩, ⟨a, 1, true, false⟩] }
  | .ori d a _ => { v := [⟨d, 1, false, true⟩, ⟨a, 1, true, false⟩] }
  | .xori d a _ => { v := [⟨d, 1, false, true⟩, ⟨a, 1, true, false⟩] }
  | .shli d a _ => { v := [⟨d, 1, false, true⟩, ⟨a, 1, true, false⟩] }
  | .shri d a _ => { v := [⟨d, 1, false, true⟩, ⟨a, 1, true, false⟩] }
  | .sari d a _ => { v := [⟨d, 1, false, true⟩, ⟨a, 1, true, false⟩] }
  | .rotli d a _ => { v := [⟨d, 1, false, true⟩, ⟨a, 1, true, false⟩] }
  | .movi d _ => { v := [⟨d, 1, false, true⟩] }
  | .movhi d _ => { v := [⟨d, 1, true, true⟩] }
  | .sel d a b _ _ => { v := [⟨d, 1, false, true⟩, ⟨a, 1, true, false⟩, ⟨b, 1, true, false⟩] }
  | .imad d a b c => { v := [⟨d, 1, false, true⟩, ⟨a, 1, true, false⟩, ⟨b, 1, true, false⟩, ⟨c, 1, true, false⟩] }
  | .lit d _ => { v := [⟨d, 1, false, true⟩] }
  | .pand _ _ _ => {}
  | .por _ _ _ => {}
  | .pxor _ _ _ => {}
  | .pandn _ _ _ => {}
  | .fadd d a b => { v := [⟨d, 1, false, true⟩, ⟨a, 1, true, false⟩, ⟨b, 1, true, false⟩] }
  | .fsub d a b => { v := [⟨d, 1, false, true⟩, ⟨a, 1, true, false⟩, ⟨b, 1, true, false⟩] }
  | .fmul d a b => { v := [⟨d, 1, false, true⟩, ⟨a, 1, true, false⟩, ⟨b, 1, true, false⟩] }
  | .fmac d a b => { v := [⟨d, 1, true, true⟩, ⟨a, 1, true, false⟩, ⟨b, 1, true, false⟩] }
  | .fmin d a b => { v := [⟨d, 1, false, true⟩, ⟨a, 1, true, false⟩, ⟨b, 1, true, false⟩] }
  | .fmax d a b => { v := [⟨d, 1, false, true⟩, ⟨a, 1, true, false⟩, ⟨b, 1, true, false⟩] }
  | .fneg d a => { v := [⟨d, 1, false, true⟩, ⟨a, 1, true, false⟩] }
  | .fabs d a => { v := [⟨d, 1, false, true⟩, ⟨a, 1, true, false⟩] }
  | .frnd d a _ => { v := [⟨d, 1, false, true⟩, ⟨a, 1, true, false⟩] }
  | .fcpys d a b => { v := [⟨d, 1, false, true⟩, ⟨a, 1, true, false⟩, ⟨b, 1, true, false⟩] }
  | .fma d a b c => { v := [⟨d, 1, false, true⟩, ⟨a, 1, true, false⟩, ⟨b, 1, true, false⟩, ⟨c, 1, true, false⟩] }
  | .fms d a b c => { v := [⟨d, 1, false, true⟩, ⟨a, 1, true, false⟩, ⟨b, 1, true, false⟩, ⟨c, 1, true, false⟩] }
  | .fnma d a b c => { v := [⟨d, 1, false, true⟩, ⟨a, 1, true, false⟩, ⟨b, 1, true, false⟩, ⟨c, 1, true, false⟩] }
  | .hadd2 d a b => { v := [⟨d, 1, false, true⟩, ⟨a, 1, true, false⟩, ⟨b, 1, true, false⟩] }
  | .hmul2 d a b => { v := [⟨d, 1, false, true⟩, ⟨a, 1, true, false⟩, ⟨b, 1, true, false⟩] }
  | .hfma2 d a b => { v := [⟨d, 1, true, true⟩, ⟨a, 1, true, false⟩, ⟨b, 1, true, false⟩] }
  | .hmin2 d a b => { v := [⟨d, 1, false, true⟩, ⟨a, 1, true, false⟩, ⟨b, 1, true, false⟩] }
  | .hmax2 d a b => { v := [⟨d, 1, false, true⟩, ⟨a, 1, true, false⟩, ⟨b, 1, true, false⟩] }
  | .badd2 d a b => { v := [⟨d, 1, false, true⟩, ⟨a, 1, true, false⟩, ⟨b, 1, true, false⟩] }
  | .bmul2 d a b => { v := [⟨d, 1, false, true⟩, ⟨a, 1, true, false⟩, ⟨b, 1, true, false⟩] }
  | .bfma2 d a b => { v := [⟨d, 1, true, true⟩, ⟨a, 1, true, false⟩, ⟨b, 1, true, false⟩] }
  | .dadd d a b => { v := [⟨d, 2, false, true⟩, ⟨a, 2, true, false⟩, ⟨b, 2, true, false⟩] }
  | .dsub d a b => { v := [⟨d, 2, false, true⟩, ⟨a, 2, true, false⟩, ⟨b, 2, true, false⟩] }
  | .dmul d a b => { v := [⟨d, 2, false, true⟩, ⟨a, 2, true, false⟩, ⟨b, 2, true, false⟩] }
  | .dfma d a b => { v := [⟨d, 2, true, true⟩, ⟨a, 2, true, false⟩, ⟨b, 2, true, false⟩] }
  | .dmin d a b => { v := [⟨d, 2, false, true⟩, ⟨a, 2, true, false⟩, ⟨b, 2, true, false⟩] }
  | .dmax d a b => { v := [⟨d, 2, false, true⟩, ⟨a, 2, true, false⟩, ⟨b, 2, true, false⟩] }
  | .cvtF32I32 d a => { v := [⟨d, 1, false, true⟩, ⟨a, 1, true, false⟩] }
  | .cvtF32N32 d a => { v := [⟨d, 1, false, true⟩, ⟨a, 1, true, false⟩] }
  | .cvtI32F32 d a => { v := [⟨d, 1, false, true⟩, ⟨a, 1, true, false⟩] }
  | .cvtN32F32 d a => { v := [⟨d, 1, false, true⟩, ⟨a, 1, true, false⟩] }
  | .cvtF16F32 d a => { v := [⟨d, 1, false, true⟩, ⟨a, 1, true, false⟩] }
  | .cvtF32F16 d a => { v := [⟨d, 1, false, true⟩, ⟨a, 1, true, false⟩] }
  | .cvtBf16F32 d a => { v := [⟨d, 1, false, true⟩, ⟨a, 1, true, false⟩] }
  | .cvtF32Bf16 d a => { v := [⟨d, 1, false, true⟩, ⟨a, 1, true, false⟩] }
  | .cvtF64F32 d a => { v := [⟨d, 2, false, true⟩, ⟨a, 1, true, false⟩] }
  | .cvtF32F64 d a => { v := [⟨d, 1, false, true⟩, ⟨a, 2, true, false⟩] }
  | .cvtF64I64 d a => { v := [⟨d, 2, false, true⟩, ⟨a, 2, true, false⟩] }
  | .cvtI64F64 d a => { v := [⟨d, 2, false, true⟩, ⟨a, 2, true, false⟩] }
  | .cvtE4m3x2F32 d a b => { v := [⟨d, 1, false, true⟩, ⟨a, 1, true, false⟩, ⟨b, 1, true, false⟩] }
  | .cvtE5m2x2F32 d a b => { v := [⟨d, 1, false, true⟩, ⟨a, 1, true, false⟩, ⟨b, 1, true, false⟩] }
  | .cvtF32E4m3 d a _ => { v := [⟨d, 1, false, true⟩, ⟨a, 1, true, false⟩] }
  | .cvtF32E5m2 d a _ => { v := [⟨d, 1, false, true⟩, ⟨a, 1, true, false⟩] }
  | .frcp d a _ => { v := [⟨d, 1, false, true⟩, ⟨a, 1, true, false⟩] }
  | .frsq d a _ => { v := [⟨d, 1, false, true⟩, ⟨a, 1, true, false⟩] }
  | .fsqrt d a _ => { v := [⟨d, 1, false, true⟩, ⟨a, 1, true, false⟩] }
  | .fexp2 d a _ => { v := [⟨d, 1, false, true⟩, ⟨a, 1, true, false⟩] }
  | .flog2 d a _ => { v := [⟨d, 1, false, true⟩, ⟨a, 1, true, false⟩] }
  | .fsin d a _ => { v := [⟨d, 1, false, true⟩, ⟨a, 1, true, false⟩] }
  | .fcos d a _ => { v := [⟨d, 1, false, true⟩, ⟨a, 1, true, false⟩] }
  | .xqrow v g _ x => { v := [⟨v, 32, true, false⟩, ⟨(4 * x), 9, false, true⟩], gsrc := [g] }
  | .xqcol v g _ x => { v := [⟨v, 32, true, false⟩, ⟨(4 * x), 9, false, true⟩], gsrc := [g] }
  | .xtrans v _ x => { v := [⟨v, 32, true, false⟩, ⟨(4 * x), 32, false, true⟩] }
  | .xsig v _ x => { v := [⟨v, 32, true, false⟩, ⟨(4 * x), 8, false, true⟩] }
  | .shflidx d a b => { v := [⟨d, 1, false, true⟩, ⟨a, 1, true, false⟩, ⟨b, 1, true, false⟩] }
  | .shflup d a b => { v := [⟨d, 1, false, true⟩, ⟨a, 1, true, false⟩, ⟨b, 1, true, false⟩] }
  | .shfldn d a b => { v := [⟨d, 1, false, true⟩, ⟨a, 1, true, false⟩, ⟨b, 1, true, false⟩] }
  | .shflxor d a b => { v := [⟨d, 1, false, true⟩, ⟨a, 1, true, false⟩, ⟨b, 1, true, false⟩] }
  | .shflidxi d a _ => { v := [⟨d, 1, false, true⟩, ⟨a, 1, true, false⟩] }
  | .shflupi d a _ => { v := [⟨d, 1, false, true⟩, ⟨a, 1, true, false⟩] }
  | .shfldni d a _ => { v := [⟨d, 1, false, true⟩, ⟨a, 1, true, false⟩] }
  | .shflxori d a _ => { v := [⟨d, 1, false, true⟩, ⟨a, 1, true, false⟩] }
  | .redadd d a => { v := [⟨d, 1, false, true⟩, ⟨a, 1, true, false⟩] }
  | .redaddf d a => { v := [⟨d, 1, false, true⟩, ⟨a, 1, true, false⟩] }
  | .redmin d a => { v := [⟨d, 1, false, true⟩, ⟨a, 1, true, false⟩] }
  | .redmax d a => { v := [⟨d, 1, false, true⟩, ⟨a, 1, true, false⟩] }
  | .ballot d _ => { v := [⟨d, 1, false, true⟩] }
  | .voteany _ _ => {}
  | .voteall _ _ => {}
  | .uadd d a b => { gsrc := [a, b], gdst := [d] }
  | .usub d a b => { gsrc := [a, b], gdst := [d] }
  | .umul d a b => { gsrc := [a, b], gdst := [d] }
  | .uand d a b => { gsrc := [a, b], gdst := [d] }
  | .uor d a b => { gsrc := [a, b], gdst := [d] }
  | .uxor d a b => { gsrc := [a, b], gdst := [d] }
  | .ushl d a b => { gsrc := [a, b], gdst := [d] }
  | .ushr d a b => { gsrc := [a, b], gdst := [d] }
  | .usar d a b => { gsrc := [a, b], gdst := [d] }
  | .umin d a b => { gsrc := [a, b], gdst := [d] }
  | .umax d a b => { gsrc := [a, b], gdst := [d] }
  | .uslt d a b => { gsrc := [a, b], gdst := [d] }
  | .usltn d a b => { gsrc := [a, b], gdst := [d] }
  | .useq d a b => { gsrc := [a, b], gdst := [d] }
  | .umovi d _ => { gdst := [d] }
  | .ulit d _ => { gdst := [d] }
  | .ulithi d _ => { gsrc := [d], gdst := [d] }
  | .movsr d s => { v := [⟨d, (if s == 13 || s == 14 then 2 else 1), false, true⟩] }
  | .rdlane d a _ => { v := [⟨a, 1, true, false⟩], gdst := [d] }
  | .bcast d a => { v := [⟨d, 1, false, true⟩], gsrc := [a] }
  | .bcasthi d a => { v := [⟨d, 1, false, true⟩], gsrc := [a] }
  | .uld d a _ _ => { gsrc := [a], gdst := [d] }
  | .brc _ _ _ => {}
  | .ubrc g _ _ => { gsrc := [g] }
  | .call _ => { gdst := [31] }
  | .jmp g => { gsrc := [g] }
  | .jset _ => {}
  | .nopC => {}
  | .join => {}
  | .regang => {}
  | .exit => {}
  | .yield => {}
  | .reorder a b n _ => { v := [⟨a, 1, true, false⟩, ⟨b, (n + 1), true, false⟩] }
  | .trap _ => {}
  | .brk _ => {}
  | .trapret _ => {}
  | .csrrd g _ => { gdst := [g] }
  | .csrwr g _ => { gsrc := [g] }
  | .tlbinvPage g => { gsrc := [g] }
  | .tlbinvAll => {}
  | .ldw d o g _ _ => { v := [⟨d, 1, false, true⟩, ⟨o, (if o == 127 then 0 else 1), true, false⟩], gsrc := [g] }
  | .ldd d o g _ _ => { v := [⟨d, 2, false, true⟩, ⟨o, (if o == 127 then 0 else 1), true, false⟩], gsrc := [g] }
  | .ldq d o g _ _ => { v := [⟨d, 4, false, true⟩, ⟨o, (if o == 127 then 0 else 1), true, false⟩], gsrc := [g] }
  | .ldbn d o g _ => { v := [⟨d, 1, false, true⟩, ⟨o, (if o == 127 then 0 else 1), true, false⟩], gsrc := [g] }
  | .ldbs d o g _ => { v := [⟨d, 1, false, true⟩, ⟨o, (if o == 127 then 0 else 1), true, false⟩], gsrc := [g] }
  | .ldhn d o g _ => { v := [⟨d, 1, false, true⟩, ⟨o, (if o == 127 then 0 else 1), true, false⟩], gsrc := [g] }
  | .ldhs d o g _ => { v := [⟨d, 1, false, true⟩, ⟨o, (if o == 127 then 0 else 1), true, false⟩], gsrc := [g] }
  | .stw d o g _ => { v := [⟨d, 1, true, false⟩, ⟨o, (if o == 127 then 0 else 1), true, false⟩], gsrc := [g] }
  | .std d o g _ => { v := [⟨d, 2, true, false⟩, ⟨o, (if o == 127 then 0 else 1), true, false⟩], gsrc := [g] }
  | .stq d o g _ => { v := [⟨d, 4, true, false⟩, ⟨o, (if o == 127 then 0 else 1), true, false⟩], gsrc := [g] }
  | .stb d o g => { v := [⟨d, 1, true, false⟩, ⟨o, (if o == 127 then 0 else 1), true, false⟩], gsrc := [g] }
  | .sth d o g => { v := [⟨d, 1, true, false⟩, ⟨o, (if o == 127 then 0 else 1), true, false⟩], gsrc := [g] }
  | .lds d o g _ s => { v := [⟨d, (if s == 6 then 4 else if s == 5 then 2 else 1), false, true⟩, ⟨o, (if o == 127 then 0 else 1), true, false⟩], gsrc := [g] }
  | .sts d o g s => { v := [⟨d, (if s == 6 then 4 else if s == 5 then 2 else 1), true, false⟩, ⟨o, (if o == 127 then 0 else 1), true, false⟩], gsrc := [g] }
  | .atom d o g _ _ nr c b _ _ op => { v := [⟨d, (if nr == 1 then 0 else if op ≥ 13 then 2 else 1), false, true⟩, ⟨o, (if o == 127 then 0 else 1), true, false⟩, ⟨b, (if op ≥ 12 then 2 else 1), true, false⟩, ⟨c, (if op == 15 then 2 else if op == 9 then 1 else 0), true, false⟩], gsrc := [g] }
  | .atoms d o g _ nr c b _ op => { v := [⟨d, (if nr == 1 then 0 else 1), false, true⟩, ⟨o, (if o == 127 then 0 else 1), true, false⟩, ⟨b, 1, true, false⟩, ⟨c, (if op == 9 then 1 else 0), true, false⟩], gsrc := [g] }
  | .fence _ _ => {}
  | .fencex _ _ _ => {}
  | .cflush v g _ => { v := [⟨v, (if v == 127 then 0 else 1), true, false⟩], gsrc := [g] }
  | .pref v g _ => { v := [⟨v, (if v == 127 then 0 else 1), true, false⟩], gsrc := [g] }
  | .waitc g _ _ _ _ gc => { gsrc := [g, gc] }
  | .bararr v g b => { gsrc := [g], gdst := [v], bars := [b] }
  | .barwait _ g b => { gsrc := [g], bars := [b] }
  | .barsync _ g b => { gsrc := [g], bars := [b] }
  | .barqry v b => { gdst := [v], bars := [b] }
  | .batch v => { gdst := [v] }
  | .waitb _ g _ => { gsrc := [g] }
  | .sqput v => { v := [⟨v, 16, true, false⟩] }
  | .sqget v g _ => { v := [⟨v, 16, false, true⟩], gdst := [g] }
  | .sqend => {}
  | .cpyt g x b => { gsrc := [g], bars := (if x == 1 then [b] else []) }
  | .cpyg v g x b => { v := [⟨v, 1, true, false⟩], gsrc := [g], bars := (if x == 1 then [b] else []) }
  | .cpys v g x b => { v := [⟨v, 1, true, false⟩], gsrc := [g], bars := (if x == 1 then [b] else []) }
  | .cpyq g x b _ _ => { gsrc := [g], bars := (if x == 1 then [b] else []) }
  | .cpyz v g x b _ => { gsrc := [g, v], bars := (if x == 1 then [b] else []) }
  | .cpyx v g x b _ => { gsrc := [g, v], bars := (if x == 1 then [b] else []) }
  | .mma v g s _ w _ f t => { v := [⟨v, (if s == 1 then 9 else aWidth w), true, false⟩], gsrc := [g, f], tiles := [t] }
  | .mjob v g x b f => { gsrc := [v, g, f], bars := (if x == 1 then [b] else []) }
  | .accz v g => { gsrc := [g], tiles := [v] }
  | .accadd v g q => { v := [⟨(4 * q), 4, true, false⟩], gsrc := [g], tiles := [v] }
  | .accrd v g _ q => { v := [⟨(4 * q), 4, false, true⟩], gsrc := [g], tiles := [v] }
  | .accwr v g q => { v := [⟨(4 * q), 4, true, false⟩], gsrc := [g], tiles := [v] }
  | .drain v g x b _ _ _ _ _ => { gsrc := [g], tiles := [v], bars := (if x == 1 then [b] else []) }
  | .bdset g _ => { gsrc := [g] }
  | .bdget d _ _ => { gdst := [d] }
  | .mdset g _ => { gsrc := [g] }
  | .ttcon w g _ x b => { gsrc := [w, g], gdst := [w], bars := (if x == 1 then [b] else []) }
  | .ttprog w g x b => { gsrc := [w, g], gdst := [w], bars := (if x == 1 then [b] else []) }
  | .stepbeg g => { gsrc := [g] }
  | .stepend x b => { bars := (if x == 1 then [b] else []) }
  | .skiprd d g => { gsrc := [g], gdst := [d] }
  | .skipwr s g => { gsrc := [g, s] }
  | .prim v g _ _ => { v := [⟨v, 13, true, false⟩], gsrc := [g] }
  | .post v g _ => { v := [⟨v, 5, true, false⟩], gsrc := [g] }
  | .kill g => { gsrc := [g] }
  | .killAll => {}
  | .zprobe v g _ => { v := [⟨v, 1, true, false⟩], gsrc := [g] }
  | .tgtopen g => { gsrc := [g] }
  | .tgtseal g => { gsrc := [g] }
  | .tgtwait g _ => { gsrc := [g] }
  | .smp v g _ q _ => { v := [⟨(4 * q), 4, false, true⟩, ⟨v, 3, true, false⟩], gsrc := [g] }
  | .smpl v g _ q => { v := [⟨(4 * q), 4, false, true⟩, ⟨v, 3, true, false⟩], gsrc := [g] }
  | .raysub v g _ => { v := [⟨v, 1, true, false⟩], gsrc := [g] }
  | .rayget v g _ => { v := [⟨v, 1, false, true⟩], gdst := [g] }
  | .mbxget v _ _ => { v := [⟨v, 1, false, true⟩] }
  | .nodeld v _ _ => { v := [⟨(v + 8), 2, true, false⟩, ⟨(v + 10), 6, false, true⟩] }
  | .boxt v _ => { v := [⟨v, 10, true, false⟩, ⟨(v + 10), 6, false, true⟩] }
  | .trit v _ => { v := [⟨v, 10, true, false⟩, ⟨(v + 10), 6, false, true⟩] }
  | .rpush v g => { v := [⟨v, 2, true, false⟩], gsrc := [g] }
  | .rpop v g _ => { v := [⟨v, 2, false, true⟩], gsrc := [g] }
  | .rsave v g => { v := [⟨v, 4, true, false⟩], gsrc := [g] }
  | .rload v g => { v := [⟨v, 4, true, true⟩], gsrc := [g] }
  | .rcommit v h => { v := [⟨v, 1, true, false⟩, ⟨(4 * h), 4, true, false⟩] }
  | .rdone v => { v := [⟨v, 1, true, false⟩] }
  | .nodepub v g => { v := [⟨v, 32, true, false⟩], gsrc := [g] }
  | .supplyGood => {}
  | .bootRomPass => {}
  | .imageInitialised => {}
  | .trainingComplete => {}
  | .selftestComplete => {}
  | .packageMachineCheck => {}
  | .dieLinkFailure => {}
  | .pfFunctionLevelReset => {}
  | .supplyLost => {}
  | .log => {}
  | .retry => {}
  | .image => {}
  | .partcfg => {}
  | .replcfg => {}
  | .droopTrip => {}
  | .droopRecovery => {}
  | .softError => {}
  | .wsphaseAdvance => {}
  | .create => {}
  | .preempt => {}
  | .reset => {}
  | .destroy => {}
  | .query => {}
  | .wrreg => {}
  | .keyload => {}
  | .keyclr => {}
  | .policy => {}
  | .serve => {}
  | .contextSchedule => {}
  | .contextIdle => {}
  | .timeSliceExpiry => {}
  | .priorityPreempt => {}
  | .preemptionComplete => {}
  | .contextRestore => {}
  | .contextRelease => {}
  | .slicePreemptStop => {}
  | .preemptFallback => {}
  | .pathStarvation => {}
  | .qwptr => {}
  | .queueEnable => {}
  | .queueDisable => {}
  | .registerWrite => {}
  | .nop => {}
  | .launch => {}
  | .frame => {}
  | .signalWrite => {}
  | .signalAdd => {}
  | .waitv => {}
  | .waitvRecheck => {}
  | .waitvPollTimer => {}
  | .fencePacket => {}
  | .tgtCreate => {}
  | .tgtOpen => {}
  | .tgtSeal => {}
  | .tgtRelease => {}
  | .wstore => {}
  | .mark => {}
  | .wrap => {}
  | .packetComplete => {}
  | .pipelineSetStart => {}
  | .workgroupFinish => {}
  | .serviceRequest => {}
  | .serviceAnswer => {}
  | .parkGroupStart => {}
  | .loadDataReturn => {}
  | .storeAccept => {}
  | .atomicPerformed => {}
  | .xpipeWriteback => {}
  | .rayTestResult => {}
  | .homeRequest => {}
  | .spanRecall => {}
  | .replicaConfirm => {}
  | .ownConfirm => {}
  | .invalidationConfirm => {}
  | .ownedWriteback => {}
  | .proxyEviction => {}
  | .replicationIntervalEnd => {}
  | .commandFaultDelivery => {}
  | .sqputResume => {}
  | .sqgetResume => {}
  | .tagComplete => {}
  | .regangComplete => {}
  | .continuationGangLaunch => {}
  | .liftFlush => {}
  | .gangFormComplete => {}
  | .barrierWaitEnd => {}
  | .batchWaitEnd => {}
  | .beaconWake => {}
  | .crewForm => {}
  | .reservationAccept => {}
  | .matrixPass => {}
  | .engineCommandComplete => {}
  | .copyComplete => {}
  | .fragmentApply => {}
  | .targetSealComplete => {}
  | .targetWaitEnd => {}
  | .primitiveBinned => {}
  | .partialRender => {}
  | .fragmentPassStart => {}
  | .rasterEmit => {}
  | .walkerGangStart => {}
  | .mbxgetResume => {}
  | .polnuPortDown => {}
  | .peerRequestReceived => {}
  | .peerReadData => {}
  | .peerWriteAck => {}
  | .peerNak => {}
  | .peerTimeout => {}
  | .vfFunctionLevelReset => {}
  | .msixUnmask => {}
  | .atsResponse => {}
  | .atsInvalidation => {}
  | .hostErrorCompletion => {}
  | .readOnlyDropEnd => {}

end Sys2Proof
end

