-- ==== Sys2Proof/Machine/Translate.lean ====
section
/-! DEFINITION. Virtual addresses: the walk of the four-level tables, malformed entries, permissions, the translation cache, ATS
and the requests for service (R205 to R213, R404), and peer requests (R398 to R401). -/

namespace Sys2Proof.Machine

/-- What an access does, for its permission check (R210, R242). -/
inductive Acc where
  | read | write | fetch
  /-- An atomic: permission and D as a write, its data checked as a read (R210, R262). -/
  | atomic
  /-- CFLUSH: only S is checked (R242). -/
  | flush
  /-- REPLCNT: no permission, no A, no service (R209, R235). -/
  | probe
  deriving DecidableEq, Repr

/-- Fault codes (R110). -/
def cIllInstr : Nat := 0x01
def cIllClause : Nat := 0x02
def cRegAlloc : Nat := 0x03
def cPriv : Nat := 0x04
def cAlign : Nat := 0x05
def cProt : Nat := 0x07
def cScratch : Nat := 0x08
def cBarCount : Nat := 0x09
def cDivCap : Nat := 0x0A
def cScaleLayout : Nat := 0x0B
def cBondOvf : Nat := 0x0C
def cDescriptor : Nat := 0x0D
def cCrew : Nat := 0x0E
def cTgtState : Nat := 0x0F
def cMethod : Nat := 0x10
def cRaySlot : Nat := 0x11
def cStageQ : Nat := 0x12
def cTagFail : Nat := 0x13
def cWeightWr : Nat := 0x14
def cReorder : Nat := 0x15
def cSwTrap : Nat := 0x16
def cBreak : Nat := 0x17
def cMCheck : Nat := 0x18
def cMonitor : Nat := 0x19

/-- A leaf that R207 and R208 accept, for a page of 2^k bytes (k 16 or 26). -/
def leafOk (k e : Nat) : Bool :=
  eLeaf e && !hasBit e 55 && eDrt e < 6 && eLoc e != 3 && !(1 ≤ ePin e && ePin e ≤ 3) && eAddr e % 2 ^ k == 0 &&
  (eLoc e != 0 || installed (eAddr e))

/-- A table pointer that R207 and R208 accept: bits [12:2] other than A zero, and PIN not 1 to 3. -/
def tableOk (e : Nat) : Bool :=
  !eLeaf e && !hasBit e 55 && bits e 12 6 == 0 && bits e 4 2 == 0 && !(1 ≤ ePin e && ePin e ≤ 3) && installed (eAddr e)

/-- Index of a level in an address (R205). -/
def levelIndex (lvl va : Nat) : Nat :=
  match lvl with
  | 1 => bits va 55 46
  | 2 => bits va 45 36
  | 3 => bits va 35 26
  | _ => bits va 25 16

/-- What a walk finds (R208): a leaf with its page size as a power of two, an invalid entry with its address, value and level, a malformed one,
or one that is poisoned. -/
inductive WalkRes where
  | leaf (value k : Nat)
  | invalid (at_ value lvl : Nat)
  | malformed
  /-- An entry in a poisoned unit (R28). -/
  | poisoned
  deriving DecidableEq, Repr

/-- The walk from one level down (R206, R208): entries read at their home slices; the entries it passed are returned. -/
def walkFrom (w : Who) (va : Nat) : Nat → Nat → Nat → List (Nat × Nat) → State → State × WalkRes × List (Nat × Nat)
  | 0, _, _, path, s => (s, .malformed, path)
  | fuel + 1, lvl, table, path, s =>
    let a := table + 8 * levelIndex lvl va
    let r := homeRead s w a 8
    let e := ofBytes r.2
    let path := path ++ [(a, e)]
    if (poisonedAt s (w.die.getD (homeDie a)) a 8).isSome then (r.1, .poisoned, path)
    else if !eV e then (r.1, .invalid a e lvl, path)
    else if lvl ≤ 2 then
      if tableOk e then walkFrom w va fuel (lvl + 1) (eAddr e) path r.1 else (r.1, .malformed, path)
    else if lvl = 3 then
      if eLeaf e then (if leafOk 26 e then (r.1, .leaf e 26, path) else (r.1, .malformed, path))
      else if tableOk e then walkFrom w va fuel 4 (eAddr e) path r.1 else (r.1, .malformed, path)
    else if leafOk 16 e then (r.1, .leaf e 16, path) else (r.1, .malformed, path)

/-- A walk of a context's tables (R206), made for a die, or by the module operating system. -/
def walk (s : State) (w : Who) (va : Nat) : State × WalkRes × List (Nat × Nat) := walkFrom w va 4 1 (ctxAt s w.ctx).root [] s

/-- A and D set in the entries of a walk whose access passed its checks (R209). -/
def markWalk (s : State) (w : Who) (path : List (Nat × Nat)) (dirty : Bool) : State :=
  path.foldl (fun s ae =>
    let e := ae.2 ||| 2 ^ 5
    let e := if dirty && eLeaf ae.2 then e ||| 2 ^ 6 else e
    if e = ae.2 then s else homeWrite s w ae.1 (toBytes 8 e)) s

/-- The cached translation of an address (R212). -/
def tlbFind (s : State) (core c va : Nat) : Option TlbEntry :=
  s.tlb.find? fun t => t.core == core && t.ctx == c && t.va ≤ va && va < t.va + t.size

/-- Entries of a core's translation cache: translations of the tables, and of the host by ATS (R212). -/
def tlbCount (s : State) (core : Nat) : Nat :=
  (s.tlb.filter fun x => x.core == core).length + (s.ats.filter fun x => x.core == core).length

/-- Room for an entry in a core's translation cache: the oldest of a full cache leaves (R212). -/
def tlbRoom (s : State) (core : Nat) : State :=
  if tlbCount s core < Config.tlbEntries then s
  else match s.tlb.find? fun x => x.core == core with
    | some v => { s with tlb := s.tlb.filter fun x => x != v }
    | none => match s.ats.find? fun x => x.core == core with
      | some v => { s with ats := s.ats.filter fun x => x != v }
      | none => s

/-- A translation cached (R212). -/
def tlbInsert (s : State) (t : TlbEntry) : State :=
  let s := tlbRoom { s with tlb := s.tlb.filter fun x => !(x.core == t.core && x.ctx == t.ctx && x.va == t.va && x.size == t.size) } t.core
  { s with tlb := s.tlb ++ [t] }

/-- A host translation obtained by ATS cached (R212, R404). -/
def atsInsert (s : State) (t : AtsEntry) : State :=
  let s := tlbRoom { s with ats := s.ats.filter fun x => !(x.core == t.core && x.ctx == t.ctx && x.page == t.page) } t.core
  { s with ats := s.ats ++ [t] }

/-- Outcome of translating one address (R210): an address with its leaf, and the entries of the walk that found it, none for a hit; a
page to be served; or a check failed, with its rank in R210, its code and DETAIL. -/
inductive Xl where
  | ok (pa leaf : Nat) (walked : List (Nat × Nat))
  | miss (page : Nat) (host : Bool)
  | bad (rank code detail : Nat)
  deriving DecidableEq, Repr

/-- Check 4 of R210. -/
def permitted (sup : Bool) (acc : Acc) (leaf : Nat) : Bool :=
  match acc with
  | .probe => true
  | .flush => sup || !eS leaf
  | .read => sup || !eS leaf
  | .write => (sup || !eS leaf) && eW leaf
  | .atomic => (sup || !eS leaf) && eW leaf
  | .fetch => (sup || !eS leaf) && eX leaf

/-- An access that sets D (R209). -/
def dirties (acc : Acc) : Bool := acc = .write || acc = .atomic

/-- The address of a byte under its leaf: device, peer, or host through ATS (R207, R213, R399, R404). -/
def leafTarget (s : State) (c core va : Nat) (leaf k : Nat) (walked : List (Nat × Nat)) : Xl :=
  let a := eAddr leaf + va % 2 ^ k
  match eLoc leaf with
  | 0 => .ok a leaf walked
  | 2 => .ok (peerBase + a) leaf walked
  | _ =>
    if !(ctxAt s c).pasidEn then .bad 3 cProt 3
    else match s.ats.find? fun t => t.core == core && t.ctx == c && t.page == a / 4096 * 4096 with
      | some t => .ok (hostBase + t.target + a % 4096) leaf walked
      | none => .miss (a / 4096 * 4096) true

/-- Check 4 of R210 after check 3. -/
def permit (sup : Bool) (acc : Acc) (x : Xl) : Xl :=
  match x with
  | .ok pa leaf w => if permitted sup acc leaf then .ok pa leaf w else .bad 4 cProt 1
  | x => x

/-- Checks 1 to 4 of R210 for an access at an address that has to be aligned to n bytes. Nothing is marked yet (R209). A poisoned entry is
consumed by the walk: MCHECK, at the address of the access, in the place of check 3 (R28, log entry 115). -/
def translate (s : State) (c core : Nat) (sup : Bool) (acc : Acc) (va n : Nat) : State × Xl :=
  if 2 ^ 56 ≤ va then (s, .bad 1 cProt 4)
  else if va % n != 0 then (s, .bad 2 cAlign 0)
  else
    match (tlbFind s core c va).filter fun t => !dirties acc || eD t.leaf with
    | some t => (s, permit sup acc (leafTarget s c core va t.leaf (Nat.log2 t.size) []))
    | none =>
      let w := walk s (whoOf core c 0) va
      match w.2.1 with
      | .invalid _ _ _ => (w.1, .miss (va / 65536 * 65536) false)
      | .malformed => (w.1, .bad 3 cProt 2)
      | .poisoned => (w.1, .bad 3 cMCheck 0)
      | .leaf e k => (w.1, permit sup acc (leafTarget w.1 c core va e k w.2.2))

/-- An access that passed its checks marks the entries its walk read, and its translation is cached (R209, R212). -/
def commitXl (s : State) (c core : Nat) (acc : Acc) (va : Nat) (walked : List (Nat × Nat)) : State :=
  match walked.getLast? with
  | none => s
  | some ae =>
    if acc = .probe then s
    else
      let k := if walked.length = 4 then 16 else 26
      let s := markWalk s (whoOf core c 0) walked (dirties acc)
      let leaf := ae.2 ||| (if dirties acc then 2 ^ 6 + 2 ^ 5 else 2 ^ 5)
      tlbInsert s ⟨core, c, va / 2 ^ k * 2 ^ k, 2 ^ k, leaf % 2 ^ 64⟩

/-- Bit of an access kind in a page request record (R104). Whether an atomic sets the read bit too the manual does not say: the model counts it as
a write alone (log entry 126). -/
def accBit : Acc → Nat
  | .write => 2
  | .atomic => 2
  | .fetch => 4
  | _ => 1

/-- A request for service of a page, one for each page of a context and core; the kinds of access add up (R104, R213). A context under
pre-emption asks for none: what waits then asks again after the restore (R117). -/
def askService (s : State) (c core page : Nat) (host : Bool) (acc : Acc) : State :=
  if (ctxAt s c).state = .preempting then s
  else if s.services.any fun r => r.ctx == c && r.core == core && r.page == page && r.host == host then
    { s with services := s.services.map fun r =>
        if r.ctx == c && r.core == core && r.page == page && r.host == host then { r with access := r.access ||| accBit acc }
        else r }
  else { s with services := s.services ++ [⟨c, core, page, host, accBit acc, false, none⟩] }

/-- Key under which waiters name a page: host pages apart from virtual pages. -/
def pageKey (page : Nat) (host : Bool) : Nat := page + (if host then 2 ^ 60 else 0)

/-- Key under which a queue waits for a peer's answer. -/
def peerKey : Nat := 2 ^ 63

/-- The number under which a queue's requests travel to peers, as commands do under theirs. -/
def frontId (k : Nat) : Nat := 2 ^ 80 + k

/-- The number under which a queue's TGT packets go to peers: they go on to be answered while later packets start (R125, R127). -/
def tgtId (k : Nat) : Nat := frontId (2 ^ 60 + k)

/-- A port that is up and reaches a peer's line: requests to one line use one port (R399). -/
def peerPort (s : State) (pa : Nat) : Option Nat :=
  let up := ((aGet (bits pa 51 44) s.pkg.routes).getD []).filter fun p => hasBit s.pkg.portsUp p
  if up.isEmpty then none else up[bits pa 43 7 % up.length]?

/-- A request that carries an atomic. -/
def isAtomic : PeerOp → Bool
  | .atomic _ _ _ => true
  | _ => false

/-- A request of which only an acknowledgement comes back: a write, or an atomic that returns no value (R400, R401). -/
def posted (r : PeerReq) : Bool := !isRead r.ask && (!isAtomic r.ask || r.silent)

/-- A request sent to a peer (R398 to R400): keyed by its tag, with the port of its line, this device's fabric id, and TRAPBASE as it stood when
its instruction issued (R109). What earlier reads of the die bring is older than a write: it is not kept (R246). -/
def sendPeer (s : State) (r : PeerReq) : State :=
  let f := freshId s
  let base := ((aGet r.op s.ops).map (·.base)).getD (ctxReg s r.ctx rTrapBase)
  let s := if isRead r.ask then f.2 else unkeep f.2 fun x =>
    dieOf x.core == dieOf r.core && overlap x.addr (askSize x.ask) r.addr (askSize r.ask)
  { s with peers := aSet f.1 { r with base := base, port := peerPort s (r.addr - peerBase), requester := s.pkg.fabricId } s.peers }

/-- A request for n bytes of a peer on behalf of a lane of an operation, or of a command, queue or path. -/
def askPeer (s : State) (op lane ctx addr n gang core va fill : Nat) : State :=
  sendPeer s { op := op, lane := lane, ctx := ctx, addr := addr, ask := .read n, silent := false, gang := gang, core := core, va := va,
               fill := fill, base := 0, port := none, requester := 0 }

/-- A whole line of a peer asked for on behalf of a command, queue or path, unless it has been asked for already. -/
def askPeerLine (s : State) (who ctx ln gang core va : Nat) : State :=
  if s.peers.any fun e => e.2.op == 0 && e.2.lane == who && e.2.ctx == ctx && e.2.core == core && e.2.addr == ln * 128 && isRead e.2.ask then s
  else askPeer s 0 who ctx (ln * 128) 128 gang core va 0

/-- The number under which prefetches travel to peers. -/
def prefetchId : Nat := 2 ^ 79

/-- Key under which a path keeps that a line of a peer could not be read for its instruction (R401). -/
def farKey (ln : Nat) : Nat := 2 ^ 62 + ln

/-- A line of a peer could not be read for the path that asked, or for a context's lanterns and binner (R401). -/
def lineFar (s : State) (c who ln : Nat) : Bool :=
  if who = 0 then s.far.contains (c, ln) else ((aGet who s.paths).map fun q => q.refused.contains (farKey ln)) = some true

/-- Bytes written at a peer. -/
def writePeer (s : State) (op lane ctx addr : Nat) (bytes : List Nat) (gang core va : Nat) : State :=
  sendPeer s { op := op, lane := lane, ctx := ctx, addr := addr, ask := .write bytes, silent := false, gang := gang, core := core, va := va,
               fill := 0, base := 0, port := none, requester := 0 }

/-- An atomic at a peer. -/
def atomPeer (s : State) (op lane ctx addr code x y : Nat) (silent : Bool) (gang core va : Nat) : State :=
  sendPeer s { op := op, lane := lane, ctx := ctx, addr := addr, ask := .atomic code x y, silent := silent, gang := gang, core := core,
               va := va, fill := 0, base := 0, port := none, requester := 0 }

/-- A failed peer or host access is counted and raises the physical function's error vector (R401). -/
def countFailedAccess (s : State) : State :=
  raiseError { s with pkg := { s.pkg with failedAccesses := s.pkg.failedAccesses + 1 } }

/-- The fault of a read that brings no good data from an address on (R28, R406): MCHECK; or, where the host answers with an error, PROT with
DETAIL 10, which is counted. -/
def readFault (s : State) (pa : Nat) : State × Nat × Nat :=
  if hostFails s pa then
    (countFailedAccess { s with poison := s.poison.filter (· != .hostRead (pa / 128)) }, cProt, 10)
  else (s, cMCheck, 0)

/-- Outcome of an engine's access to a unit (R294, R295): the bytes; a page to await; a peer's answer to await; a failure. -/
inductive Eng where
  | ok (bytes : List Nat)
  | page (key addr : Nat)
  | peer
  | fail (code detail addr : Nat)
  deriving DecidableEq, Repr

/-- Byte ranges of a block cut at page ends, at most so many cuts. -/
def pageParts (size : Nat) : Nat → Nat → Nat → List (Nat × Nat)
  | 0, va, n => [(va, n)]
  | k + 1, va, n =>
    let first := Nat.min n (size - va % size)
    if first = n then [(va, n)] else (va, first) :: pageParts size k (va + first) (n - first)

/-- Byte ranges of a block on both sides of each page end (R216), for pages of a size: first address, length. -/
def blockParts (va n size : Nat) : List (Nat × Nat) := pageParts size (n / size + 1) va n

/-- A translated part of a block: its virtual address, its physical address, its length, and its leaf. -/
structure Part where
  va : Nat
  pa : Nat
  n : Nat
  leaf : Nat
  deriving DecidableEq, Repr

/-- What a part of a block met: its part and the walk; a page to await; or a check failed: rank, code, DETAIL, address. -/
inductive PartOut where
  | ok (part : Part) (walked : List (Nat × Nat))
  | miss (page : Nat) (host : Bool) (addr : Nat)
  | bad (rank code detail addr : Nat)
  deriving DecidableEq, Repr

/-- What a read of bad data raises at an address (R28, R406): MCHECK, or PROT with DETAIL 10 where the host answers with an error. -/
def badCode (s : State) (pa : Nat) : Nat × Nat := if hostFails s pa then (cProt, 10) else (cMCheck, 0)

/-- Checks 1 to 5 of R210 for one part of a block, at the level of kernel code; the data of a read may be poisoned (R28), and a peer out
of reach (R401). -/
def checkPart (s : State) (c core : Nat) (acc : Acc) (pn : Nat × Nat) : State × PartOut :=
  let r := translate s c core false acc (pn.1 % 2 ^ 64) 1
  match r.2 with
  | .bad rank code detail => (r.1, .bad rank code detail pn.1)
  | .miss page host => (r.1, .miss page host pn.1)
  | .ok pa leaf w =>
    let far := if !isPeer pa || (peerPort r.1 (pa - peerBase)).isSome then none
      else (linesOf pa pn.2).find? fun ln => !(acc = .read && hasP r.1 (dieOf core) ln)
    match far with
    | some ln => (r.1, .bad 5 cProt 9 (pn.1 + (ln * 128 - pa)))
    | none =>
    match if acc = .read then poisonedAt r.1 (dieOf core) pa pn.2 else none with
      | some a => (r.1, .bad 5 (badCode r.1 a).1 (badCode r.1 a).2 (pn.1 + (a - pa)))
      | none => (r.1, .ok ⟨pn.1, pa, pn.2, leaf⟩ w)

/-- Several parts checked in order. -/
def checkParts (s : State) (c core : Nat) (acc : Acc) (ps : List (Nat × Nat)) : State × List PartOut :=
  ps.foldl (fun (a : State × List PartOut) pn =>
    let r := checkPart a.1 c core acc pn
    (r.1, a.2 ++ [r.2])) (s, [])

/-- Parts of a block: pages of 64 KiB, and of 4 KiB where they lie in host memory, which ATS maps by host pages (R216, R404). -/
def partsOf (s : State) (c core : Nat) (acc : Acc) (va n : Nat) : List (Nat × Nat) :=
  let host (a : Nat) : Bool := match (translate s c core false acc (a % 2 ^ 64) 1).2 with
    | .ok pa _ _ => isHost pa
    | .miss _ h => h
    | .bad _ _ _ => false
  (blockParts va n 65536).flatMap fun p => if host p.1 then blockParts p.1 p.2 4096 else [p]

/-- The fault of a block some of whose parts failed (R216): the first byte of the lowest failing part, with its code and DETAIL, unless
the parts' codes differ: then the code and DETAIL of the earliest check. -/
def blockFault (outs : List PartOut) : Option Eng :=
  let bads := outs.filterMap fun x => match x with
    | .bad rank code detail addr => some (rank, code, detail, addr)
    | _ => none
  match bads.head?, minBy (fun b => b.1) bads with
  | some b, some m =>
    if bads.all fun x => x.2.1 == b.2.1 then some (.fail b.2.1 b.2.2.1 b.2.2.2) else some (.fail m.2.1 m.2.2.1 b.2.2.2)
  | _, _ => none

/-- A failed access that raises a fault is counted where it failed at a peer or at the host (R401, R406). -/
def settleFail (s : State) (c core : Nat) (acc : Acc) (code detail va : Nat) : State :=
  if code = cProt && detail = 9 then countFailedAccess s
  else if code = cProt && detail = 10 then
    match translate s c core false acc (va % 2 ^ 64) 1 with
    | (s, .ok pa _ _) => (readFault s pa).1
    | (s, _) => s
  else s

/-- What several blocks that an engine handles as one unit come to before any byte is used or written (R216, R294): their parts, each with the
walk that found it; a page that any of them awaits; or the fault of the unit. Nothing is marked (R209). -/
def engCheckAll (s : State) (c core : Nat) (acc : Acc) (blocks : List (Nat × Nat)) : State × Except Eng (List (Part × List (Nat × Nat))) :=
  let go := blocks.foldl (fun (a : State × List PartOut) b =>
    let r := checkParts a.1 c core acc (partsOf a.1 c core acc b.1 b.2)
    (r.1, a.2 ++ r.2)) (s, [])
  match go.2.findSome? fun x => match x with
    | .miss page host addr => some (page, host, addr)
    | _ => none with
  | some (page, host, at_) => (askService go.1 c core page host acc, .error (.page (pageKey page host) at_))
  | none => match blockFault go.2 with
    | some (.fail code detail va) => (settleFail go.1 c core acc code detail va, .error (.fail code detail va))
    | some e => (go.1, .error e)
    | none => (go.1, .ok (go.2.filterMap fun x => match x with
        | .ok p w => some (p, w)
        | _ => none))

/-- Entries of the walks of parts that are read or written now are marked, and their translations cached (R209, R212). -/
def commitParts (s : State) (c core : Nat) (acc : Acc) (ps : List (Part × List (Nat × Nat))) : State :=
  ps.foldl (fun s p => commitXl s c core acc (p.1.va % 2 ^ 64) p.2) s

/-- The parts of several blocks, checked and marked. -/
def engTranslateAll (s : State) (c core : Nat) (acc : Acc) (blocks : List (Nat × Nat)) : State × Except Eng (List Part) :=
  let r := engCheckAll s c core acc blocks
  match r.2 with
  | .error e => (r.1, .error e)
  | .ok ps => (commitParts r.1 c core acc ps, .ok (ps.map (·.1)))

/-- Translation of one block for an engine or a queue (R216, R294). -/
def engTranslate (s : State) (c core : Nat) (acc : Acc) (va n : Nat) : State × Except Eng (List Part) :=
  engTranslateAll s c core acc [(va, n)]

/-- The first line of a peer that has to be fetched before parts can be read (R400), with the address of the first byte that needs it. -/
def missingPart (s : State) (core : Nat) (ps : List Part) : Option (Nat × Nat) :=
  ps.findSome? fun p => if isPeer p.pa then
      ((linesOf p.pa p.n).find? fun ln => !hasP s (dieOf core) ln).map fun ln => (ln, p.va + (ln * 128 - p.pa))
    else none

/-- Lines of a peer that have to be fetched before a range can be read (R400). -/
def missingPeer (s : State) (core : Nat) (parts : List (Nat × Nat)) : List Nat :=
  (parts.flatMap fun p => if isPeer p.1 then linesOf p.1 p.2 else []).filter fun ln => !hasP s (dieOf core) ln

/-- A command of the copy engine. -/
def isCopy : CmdBody → Bool
  | .copy _ _ => true
  | .gather _ _ _ => true
  | .scatter _ _ _ => true
  | .quant _ _ _ => true
  | .encrypt _ _ _ _ _ => true
  | .decrypt _ _ _ _ _ => true
  | _ => false

/-- Request type of the accesses made for a command (R293): UC for the copy engine. -/
def cmdType (s : State) (cmd : Nat) : Nat := if ((aGet cmd s.cmds).map fun c => isCopy c.body) = some true then 3 else 6

/-- On whose behalf a command's access through a leaf is made. -/
def whoCmd (s : State) (c core cmd leaf : Nat) : Who := { whoLeaf core c leaf with rt := cmdType s cmd }

/-- Translated parts read in order. -/
def readParts (s : State) (c core cmd : Nat) (parts : List Part) : State × List Nat :=
  parts.foldl (fun (acc : State × List Nat) p =>
    let s := if isPeer p.pa then (linesOf p.pa p.n).foldl (fun s ln => touchP s (dieOf core) c ln) acc.1 else acc.1
    let h := homeRead s (whoCmd s c core cmd p.leaf) p.pa p.n
    (h.1, acc.2 ++ h.2)) (s, [])

/-- Parts read on behalf of a command, or the request for a peer's line that has to come first (R400). -/
def engReadParts (s : State) (c core cmd : Nat) (parts : List Part) : State × Eng :=
  match missingPart s core parts with
  | some x =>
    if lineFar s c cmd x.1 then ({ s with far := s.far.filter (· != (c, x.1)) }, .fail cProt 9 x.2)
    else (askPeerLine s cmd c x.1 0 core x.2, .peer)
  | none =>
    let r := readParts s c core cmd parts
    (r.1, .ok r.2)

/-- An engine's read of n bytes at a virtual address on behalf of a command (R293, R295, R401). -/
def engRead (s : State) (c core cmd va n : Nat) : State × Eng :=
  let t := engTranslate s c core .read va n
  match t.2 with
  | .error e => (t.1, e)
  | .ok parts => engReadParts t.1 c core cmd parts

/-- Bytes written at the peer change the bytes of the die's P copies and of the issuing core's L1 copies, and nothing more is held (R237). -/
def updateCopies (s : State) (c core pa : Nat) (bytes : List Nat) : State :=
  let s := (linesOf pa bytes.length).foldl (fun s ln =>
    let x := partIn ln pa bytes.length
    if isPeer pa && hasP s (dieOf core) ln then memPut s (copyAt (dieOf core) x.1) ((bytes.drop (x.1 - pa)).take x.2) else s) s
  l1Update s core c pa .si bytes

/-- Bytes written on behalf of a command at a peer: one request for each line (R399, R400). -/
def writeAtPeer (s : State) (c core cmd va pa : Nat) (bytes : List Nat) : State :=
  (linesOf pa bytes.length).foldl (fun s ln =>
    let x := partIn ln pa bytes.length
    writePeer s 0 cmd c x.1 ((bytes.drop (x.1 - pa)).take x.2) 0 core (va + (x.1 - pa))) (updateCopies s c core pa bytes)

/-- Bytes written at translated parts: to the peer, to the host, or at home (R237, R293, R400). An engine counts as the core that issued its
command, whose L1 copies of host and peer bytes follow (R247). -/
def writeParts (s : State) (c core cmd : Nat) : List Part → List Nat → State
  | [], _ => s
  | p :: ps, bytes =>
    let now := bytes.take p.n
    let s := if isPeer p.pa then writeAtPeer s c core cmd p.va p.pa now
      else if isHost p.pa then homeWrite (updateCopies s c core p.pa now) (whoCmd s c core cmd p.leaf) p.pa now
      else homeWrite s (whoCmd s c core cmd p.leaf) p.pa now
    writeParts s c core cmd ps (bytes.drop p.n)

/-- An engine's write of bytes at a virtual address on behalf of a command (R216, R293). -/
def engWrite (s : State) (c core cmd va : Nat) (bytes : List Nat) : State × Eng :=
  let t := engTranslate s c core .write va bytes.length
  match t.2 with
  | .error e => (t.1, e)
  | .ok parts => (writeParts t.1 c core cmd parts bytes, .ok [])

/-- An engine's write of several runs that it handles as one unit: every run is checked before any byte is written (R216). -/
def engWriteAll (s : State) (c core cmd : Nat) (runs : List (Nat × List Nat)) : State × Eng :=
  let t := engTranslateAll s c core .write (runs.map fun r => (r.1, r.2.length))
  match t.2 with
  | .error e => (t.1, e)
  | .ok parts => (writeParts t.1 c core cmd parts (runs.flatMap (·.2)), .ok [])

/-- An engine's read of several runs that it handles as one unit: every run is checked before any byte is used (R216). -/
def engReadAll (s : State) (c core cmd : Nat) (runs : List (Nat × Nat)) : State × Eng :=
  let t := engTranslateAll s c core .read runs
  match t.2 with
  | .error e => (t.1, e)
  | .ok parts => engReadParts t.1 c core cmd parts

end Sys2Proof.Machine
end

