-- ==== Sys2Proof/Machine/Ops.lean ====
section
/-! DEFINITION. Shared operations: vectors and records (R130, R403), the context's entry into FAULTED (R113), taking an exception
(R111, R114) and returning from one (R116), the forming and ending of paths (R147 to R156), parking (R155) and per-lane outcomes
(R211). -/

namespace Sys2Proof.Machine

/-- The vector of a queue raised for its context (R121, R404). -/
def raiseQueue (s : State) (k : Nat) : State :=
  raiseVector s (k / 256 + 1) (bits (qReg s k qCtl) 15 8) (pasidOf s (k / 16))

/-- The core whose translation cache serves queue and record accesses (log entry 12). -/
def frontCore : Nat := 0

/-- A record that could not be written is counted, and raises the physical function's error vector (R130). -/
def countLostRecord (s : State) : State := raiseError { s with pkg := { s.pkg with lostRecords := s.pkg.lostRecords + 1 } }

/-- Some line of these parts is poisoned (R130). -/
def partsPoisoned (s : State) (core : Nat) (ps : List Part) : Bool :=
  ps.any fun p => (linesOf p.pa p.n).any fun ln => (List.range 128).any fun i => badUnit s (dieOf core) none (ln * 128 + i)

/-- The number under which a queue's records travel to peers. -/
def recordId (k : Nat) : Nat := 2 ^ 81 + k

/-- A record of eight 64-bit words written to a queue's record ring (R130): kept while its page awaits service, lost on a refusal, a
protection failure or a poisoned line. Nothing is marked for a record that is not written (R209). -/
def writeRecord (s : State) (k : Nat) (words : List Nat) : State :=
  let a := qReg s k qRecBase + 64 * (qReg s k qRecW % 64)
  let bytes := words.flatMap (toBytes 8)
  let done (s : State) : State := raiseQueue (setQReg s k qRecW ((qReg s k qRecW + 1) % 2 ^ 32)) k
  let t := engCheckAll s (k / 16) frontCore .write [(a % 2 ^ 64, 64)]
  match t.2 with
  | .error (.page key _) => { t.1 with records := t.1.records ++ [(k, key, words)] }
  | .error _ => done (countLostRecord t.1)
  | .ok parts =>
    if partsPoisoned t.1 frontCore (parts.map (·.1)) then done (countLostRecord t.1)
    else
      let s := commitParts t.1 (k / 16) frontCore .write parts
      done (writeParts s (k / 16) frontCore (recordId k) (parts.map (·.1)) bytes)

/-- CTXID of a context (R108). -/
def ctxId (c : Nat) : Nat := c % 16 * 256 + c / 16

/-- The eight words of a context fault record (R113). -/
def faultRecordWords (c : Nat) (r : FaultRecord) : List Nat :=
  [1 + r.hostErr * 2 ^ 16 + ctxId c * 2 ^ 32 + r.core * 2 ^ 48, r.info, r.pc, r.addr, r.code, 0, 0, 0]

/-- The context goes to FAULTED (R113): its commands and beacons are abandoned and its record written. Only the first fault of a
context that is RUNNING or PREEMPTING counts, or a restore that R120 refuses. -/
def contextFault (s : State) (c queue : Nat) (r : FaultRecord) : State :=
  let x := ctxAt s c
  if x.state = .running || x.state = .preempting || (x.state = .saved && r.hostErr = 3) then
    let s := modCtx s c fun x => { x with state := .faulted, record := some r }
    let ps := (s.paths.filter fun e => ctxOf s e.2 == c).map (·.1)
    let s := { s with cmds := s.cmds.filter fun e => e.2.ctx != c,
                      beacons := s.beacons.filter fun b => !ps.contains b.path }
    writeRecord s (c * 16 + queue) (faultRecordWords c r)
  else s

/-- A context goes to FAULTED with an MCHECK record on one of its queues (R22, R28, R113). No path has met the fault: TRAPINFO, TRAPPC and
CODEADDR of its record are 0 (log entry 99). -/
def machineCheckOn (s : State) (c queue : Nat) : State :=
  let st := (ctxAt s c).state
  if st = .free || st = .destroyed || st = .faulted then s
  else contextFault (modCtx s c fun x => { x with state := .running }) c queue ⟨4, 0xFFFF, 0, 0, 0, 0⟩

/-- The same on queue 0, for an error of no queue's work (R22). -/
def machineCheckContext (s : State) (c : Nat) : State := machineCheckOn s c 0

/-- TRAPINFO of a fault (R107). -/
def trapInfo (t : Trap) : Nat :=
  t.lanes % 2 ^ 32 * 2 ^ 32 + t.detail % 2 ^ 16 * 2 ^ 16 + t.word % 16 * 2 ^ 12 + t.two.toNat * 2 ^ 8 + t.code % 2 ^ 8

/-- Paths that share a slice with a lane mask of a gang, other than one (R111). -/
def sharers (s : State) (p gid lanes : Nat) : List Path :=
  (s.paths.filter fun e => e.1 != p && e.2.gang == gid &&
    (slicesOf e.2.lanes).any fun c => (slicesOf lanes).contains c).map (·.2)

/-- The record a fault leaves when it sends its context to FAULTED (R113). -/
def recordOf (s : State) (q : Path) (t : Trap) (hostErr : Nat) : FaultRecord :=
  ⟨hostErr, coreOf s q, trapInfo t, q.pos.hdr, t.addr % 2 ^ 64, ((descOf s q).map (·.codeAddr)).getD 0⟩

/-- Queue whose launch started a path's work (R113, R130). -/
def queueOf (s : State) (q : Path) : Nat := ((launchOfPath s q).map (·.queue)).getD 0

/-- Supervisor lanes of these slices that hold no slot: parked, or waiting at a JOIN or REGANG (R111, R153, R155). -/
def supervisorApart (s : State) (gid lanes : Nat) : Bool :=
  match aGet gid s.gangs with
  | none => false
  | some g =>
    let here (c : Nat) : Bool := (slicesOf lanes).contains c
    (g.waits.any fun w => w.sup && (slicesOf w.lanes).any here) || (g.parks.any fun r => r.sup && here r.slice) ||
      g.groups.any fun x => x.sup && here x.slice

/-- No other lane of the path's slices is at supervisor level (R111). -/
def levelFree (s : State) (p : Nat) (q : Path) : Bool :=
  !((sharers s p q.gang q.lanes).any (·.sup)) && !supervisorApart s q.gang q.lanes

/-- TAKING AN EXCEPTION (R111, R114): a double fault at supervisor level and a zero TRAPBASE send the context to FAULTED; a path
whose slice has other lanes at supervisor level keeps the fault pending; otherwise TRAPPC, TRAPINFO and FAULTADDR are written in
every slice of the path and it continues at supervisor level at the header at TRAPBASE + 64 · CODE. Once the context is FAULTED a fault
changes nothing (R113). -/
def takeTrapAt (s : State) (p : Nat) (q : Path) (t : Trap) (base : Nat) : State :=
  if (ctxAt s (ctxOf s q)).state = .faulted then s
  else if q.sup then contextFault s (ctxOf s q) (queueOf s q) (recordOf s q t 2)
  else if base = 0 then contextFault s (ctxOf s q) (queueOf s q) (recordOf s q t 1)
  else if !levelFree s p q then
    setPath s p { q with pending := q.pending ++ [(t, base)], wait := .none, cur := none }
  else
    let s1 := setCsr (setCsr (setCsr s q csrTrapPc q.pos.hdr) q csrTrapInfo (trapInfo t)) q csrFaultAddr t.addr
    let s2 := setCsr (setCsr s1 q csrClauseHdr q.pos.hdr) q csrClause (q.pos.cls * 16 + q.pos.n)
    setPath s2 p { q with sup := true, pos := ⟨base + 64 * t.code, 0, 0, 0⟩,
                          wait := .none, cur := none, replay := none, refused := [] }

/-- A fault of a path's instruction, through TRAPBASE as it stood when the instruction issued (R109). -/
def takeTrap (s : State) (p : Nat) (q : Path) (t : Trap) : State := takeTrapAt s p q t (baseOf s q)

/-- The first fault pending in a path, delivered once its slices have no lane at supervisor level (R111). -/
def deliverNext (s : State) (p : Nat) : State :=
  match aGet p s.paths with
  | none => s
  | some q => match q.pending with
    | [] => s
    | t :: ts => if q.sup || !levelFree s p q then s else takeTrapAt s p { q with pending := ts } t.1 t.2

/-- The position to which TRAPRET returns (R56, R116): word w after the header at TRAPPC. The class and N of the clause that the fault
interrupted still apply; only a handler that moved TRAPPC, or that names a word where the fault had none, has the header there read for them
(a position with word ≠ 0 and N = 0 says so). -/
def returnPos (s : State) (q : Path) (w : Nat) : Position :=
  let h := getCsr s q csrTrapPc
  let c := getCsr s q csrClause
  if w != 0 && c % 16 != 0 && getCsr s q csrClauseHdr == h then
    (if w ≤ c % 16 then ⟨h, w, c / 16, c % 16⟩ else ⟨h + 4 * (c % 16 + 1), 0, 0, 0⟩)
  else ⟨h, w, 0, 0⟩

/-- RETURN FROM AN EXCEPTION (R116): the level drops, the path resumes at TRAPPC at the word TRAPINFO names, moved past the
instruction with SKIP; without SKIP the instruction there issues for the lanes of LANES alone. Faults pending in the path, and in the paths of
its slices, are taken next, one in each slice. -/
def trapReturn (s : State) (p : Nat) (q : Path) (skip : Bool) : State :=
  let info := getCsr s q csrTrapInfo
  let w := if skip then bits info 15 12 + 1 + bits info 8 8 else bits info 15 12
  let pos := returnPos s q w
  let q := { q with sup := false, wait := .none, cur := none, pos := pos,
                    replay := if skip || pos.word = 0 then none else some (bits info 63 32 &&& q.lanes) }
  let others := s.paths.filter fun e => e.1 != p && e.2.gang == q.gang && (slicesOf e.2.lanes).any fun c => (slicesOf q.lanes).contains c
  (p :: others.map (·.1)).foldl deliverNext (setPath s p q)

/-- Whether an instruction takes two words (R62). -/
def twoWords (i : Instr) : Bool := (encode i).length == 2

/-- Words of an instruction. -/
def sizeOf (i : Instr) : Nat := if twoWords i then 2 else 1

/-- A fault of an instruction at the path's position (R107). -/
def mkTrap (q : Path) (i : Instr) (code detail lanes addr : Nat) : Trap :=
  ⟨code, lanes, detail, q.pos.word, twoWords i, addr⟩

/-- A fault delivered to the whole path, with every active lane in LANES (R110, R111). -/
def trapAll (s : State) (p : Nat) (q : Path) (i : Instr) (code detail addr : Nat) : State :=
  takeTrap s p q (mkTrap q i code detail (active q) addr)

/-- What one lane met (R211): a pass; a page to await, with the lane's address; or a check failed: rank, code, DETAIL and address. -/
inductive LaneOut where
  | pass (pa leaf : Nat)
  | miss (page : Nat) (host : Bool) (addr : Nat)
  | fail (rank code detail addr : Nat)
  deriving DecidableEq, Repr

/-- A failed peer or host access of ULD and ATOM is a fault of the whole path (R401, R406). -/
def faultsWhole (i : Instr) (code detail : Nat) : Bool :=
  code == cProt && (detail == 9 || detail == 10) && match i with
    | .uld _ _ _ _ => true
    | .atom _ _ _ _ _ _ _ _ _ _ _ => true
    | _ => false

/-- The fault of several lanes' failures (R211): that of the earliest check any lane met, of the lowest lane that met it; LANES
holds every failing lane. -/
def laneTrap (q : Path) (i : Instr) (outs : List (Nat × LaneOut)) : Option Trap :=
  let fails := outs.filterMap fun x => match x.2 with
    | .fail rank code detail addr => some (x.1, rank, code, detail, addr)
    | _ => none
  (minBy (fun f => f.2.1) fails).map fun f =>
    mkTrap q i f.2.2.1 f.2.2.2.1 (if faultsWhole i f.2.2.1 f.2.2.2.1 then active q else maskOf (fails.map (·.1))) f.2.2.2.2

/-- The failures among lane outcomes, as an operation in flight keeps them. -/
def failsOf (outs : List (Nat × LaneOut)) : List (Nat × Nat × Nat × Nat × Nat) :=
  outs.filterMap fun x => match x.2 with
    | .fail rank code detail addr => some (x.1, rank, code, detail, addr)
    | _ => none

/-- The fault of an operation's failed lanes (R211). -/
def failTrap (q : Path) (i : Instr) (fails : List (Nat × Nat × Nat × Nat × Nat)) : Option Trap :=
  laneTrap q i (sortBy (·.1) fails |>.map fun f => (f.1, .fail f.2.1 f.2.2.1 f.2.2.2.1 f.2.2.2.2))

/-- Lanes that met a missing translation, with their addresses and page keys. -/
def missLanes (outs : List (Nat × LaneOut)) : List (Nat × Nat × Nat) :=
  outs.filterMap fun x => match x.2 with
    | .miss page host addr => some (x.1, addr, pageKey page host)
    | _ => none

/-- A path with some lanes taken out; a path without lanes is gone. -/
def dropLanes (s : State) (p : Nat) (q : Path) (lanes : Nat) : State :=
  let left := maskDiff q.lanes lanes
  if left = 0 then { s with paths := aErase p s.paths } else setPath s p { q with lanes := left }

/-- Slices among these in which slot 0 is taken by a path of the gang other than one (R147). -/
def slot0Taken (s : State) (p gid lanes : Nat) : Nat :=
  maskOf ((slicesOf lanes).filter fun c => s.paths.any fun e =>
    e.1 != p && e.2.gang == gid && !e.2.park && (slicesOf e.2.lanes).contains c && !hasBit e.2.slot1 c)

/-- A new path of a gang (R147): regular paths take slot 0 where it is free. Lanes that were waiting on a BARSYNC before their fault keep its
record (R416). -/
def newPath (s : State) (gid lanes : Nat) (pos : Position) (sup park : Bool) (barsync : Option (Nat × Nat)) : State :=
  if lanes = 0 then s
  else
    let f := freshId s
    setPath f.2 f.1
      { gang := gid, lanes := lanes, slot1 := if park then 0 else slot0Taken s f.1 gid lanes, park := park, pos := pos,
        sup := sup, wait := .none, cur := none, base := 0, refused := [], replay := none, pending := [], barsync := barsync, starve := 0,
        starving := false, prefer := false, stopped := false }

/-- Lanes at resume positions, gathered into one path for each distinct position (R153). -/
def resumeLanes (s : State) (gid : Nat) (es : List StackEntry) : State :=
  let keyOf (e : StackEntry) := (e.addr, e.word, e.sup, e.park, e.barsync)
  let keys := uniq (es.map keyOf)
  keys.foldl (fun s k =>
    let mine := es.filter fun e => keyOf e == k
    match mine.head? with
    | none => s
    | some e => newPath s gid (mine.foldl (fun m x => m ||| x.lanes) 0) ⟨e.addr, e.word, e.cls, e.n⟩ e.sup e.park e.barsync) s

/-- The topmost entry of a stack that meets a lane mask (R152); the list holds the most recent first. -/
def topEntry (stack : List StackEntry) (lanes : Nat) : Option StackEntry :=
  stack.find? fun e => e.group &&& lanes != 0

/-- Entries that the lanes of a mask pop, one in each slice where their topmost entry is PEND (R153, R157). -/
def pendOnTop (stack : List StackEntry) (lanes : Nat) : List StackEntry :=
  (slicesOf lanes).filterMap fun c => (topEntry stack (sliceLanes c lanes)).filter fun e => !e.isJoin

/-- A stack without some of its entries. -/
def popEntries (stack gone : List StackEntry) : List StackEntry :=
  stack.filter fun e => !gone.any fun x => x.slice == e.slice && x.tag == e.tag

/-- Every awaited lane of a tag is ARRIVED or ENDED (R153). -/
def tagDone (g : Gang) (tag : Nat) : Bool :=
  let es := g.stack.filter fun e => e.isJoin && e.tag == tag
  !es.isEmpty && es.all fun e => maskDiff (e.group &&& g.live) e.lanes == 0

/-- Every live lane of the gang is AT REGANG at one address (R157). -/
def regangDone (g : Gang) : Bool :=
  let at_ := g.waits.filter (·.regang)
  match at_.head? with
  | none => false
  | some w => g.live != 0 && maskDiff g.live ((at_.filter fun x => x.key == w.key).foldl (fun m x => m ||| x.lanes) 0) == 0

/-- Every live lane of the gang is ARRIVED or AT REGANG, and no tag and no REGANG can complete (R157). -/
def joinDeadlock (g : Gang) : Bool :=
  g.live != 0 && maskDiff g.live (g.waits.foldl (fun m x => m ||| x.lanes) 0) == 0 &&
  !(g.stack.any fun e => e.isJoin && tagDone g e.tag) && !regangDone g

/-- The deadlock of R157 delivered to the lanes of one waiting issue, returned to RUNNING at its instruction. -/
def breakDeadlock (s : State) (gid : Nat) (w : WaitIssue) : State :=
  let s := modGang s gid fun g =>
    { g with waits := g.waits.filter (fun x => x != w),
             stack := g.stack.map fun e => if e.isJoin then { e with lanes := maskDiff e.lanes w.lanes } else e }
  let f := s.fresh
  let s := newPath s gid w.lanes w.pos w.sup false w.barsync
  match aGet f s.paths with
  | some q => takeTrapAt s f q ⟨cDivCap, w.lanes, 3, w.pos.word, false, 0⟩ w.base
  | none => s

/-- The deadlock check after lanes end (R157): it goes to the lanes that began waiting with the gang's lowest live lane. -/
def checkJoinDeadlock (s : State) (gid : Nat) : State :=
  match aGet gid s.gangs with
  | none => s
  | some g =>
    if joinDeadlock g then
      match g.waits.find? fun w => hasBit w.lanes (lowestBit g.live) with
      | some w => breakDeadlock s gid w
      | none => s
    else s

/-- Order entries of lanes that end are resolved by kill tokens (R351); entries that an admitted fragment carries stay (R407). -/
def killTokens (s : State) (gid lanes : Nat) : State :=
  { s with targets := s.targets.map fun e => (e.1, { e.2 with entries := e.2.entries.filter fun o =>
      !(o.gang == gid && hasBit lanes o.lane && o.frag.isNone) }) }

/-- Member ids of a crew word (R299). -/
def crewIds (w : Nat) : List Nat := (List.range (bits w 2 0)).map fun i => bits w (8 * i + 15) (8 * i + 8)

/-- CREW delivered to every path that waits in a workgroup's latch, which is emptied (R301). -/
def emptyLatch (s : State) (w code detail : Nat) : State :=
  match aGet w s.wgs with
  | none => s
  | some g =>
    let s := modWg s w fun x => { x with latch := [] }
    g.latch.foldl (fun s m => match aGet m.path s.paths with
      | some q => trapAll s m.path q m.instr code detail 0
      | none => s) s

/-- A wait on generation T ends (R273). -/
def barrierDone (b : Barrier) (t : Nat) : Bool :=
  let d := (b.gen + 65536 - t % 65536) % 65536
  decide (1 ≤ d) && decide (d ≤ 32768)

/-- A barrier of a workgroup, IDLE where it has none of that number (R268). -/
def barrierAt (w : Workgroup) (b : Nat) : Barrier := w.barriers.getD b ⟨0, 0, false, 0, 0, 0, false, 0⟩

/-- Lanes of a gang in the gang-forming wait (R272). -/
def formLanes (s : State) (gid : Nat) (at_ : Option Nat) : Nat :=
  (s.paths.filter fun e => e.2.gang == gid && e.2.wait = .form && (at_.isNone || at_ = some (wordAddr e.2.pos))).foldl
    (fun m e => m ||| e.2.lanes) 0

/-- Every live lane of the gang is in the gang-forming wait (R272). -/
def allForming (s : State) (gid : Nat) (g : Gang) : Bool := g.live != 0 && maskDiff g.live (formLanes s gid none) == 0

/-- Every live lane of the gang is in the gang-forming wait at one address (R272). -/
def formed (s : State) (gid : Nat) (g : Gang) : Bool :=
  match s.paths.find? fun e => e.2.gang == gid && e.2.wait = .form with
  | some e => g.live != 0 && maskDiff g.live (formLanes s gid (some (wordAddr e.2.pos))) == 0
  | none => false

/-- Whether the lift could launch a gang now (R160, R161). -/
def liftReady (s : State) (wid : Nat) (w : Workgroup) : Bool :=
  let d := (aGet w.launch s.launches).map (·.desc)
  let sl := (d.map (·.gang)).getD 1
  let size := (d.map (·.wgSize)).getD 1
  let idx := (List.range size).any fun i => !(s.gangs.any fun e => e.2.wg == wid && e.2.idx == i)
  idx && match w.liftGangs with
    | g :: _ => decide (g.slices ≤ w.idle.length)
    | [] => decide (sl ≤ w.idle.length) &&
        w.lift.any fun e => decide (4 * sl ≤ (w.lift.filter fun x => x.key == e.key).length)

/-- A gang index of a workgroup is free (R160). -/
def indexFree (s : State) (wid : Nat) (w : Workgroup) : Bool :=
  (List.range (((aGet w.launch s.launches).map fun l => l.desc.wgSize).getD 1)).any fun i =>
    !(s.gangs.any fun e => e.2.wg == wid && e.2.idx == i)

/-- A walker gang can start (R381). -/
def walkerReady (s : State) (wid : Nat) (w : Workgroup) : Bool :=
  !w.rayQueue.isEmpty && decide (((aGet w.launch s.launches).map fun l => l.desc.gang).getD 1 ≤ w.idle.length) && indexFree s wid w &&
  (s.gangs.all fun e => e.2.wg != wid || e.2.kind != .walker || e.2.rayget) && ctxReg s w.ctx rWalker != 0

/-- The deadlock of R272 (DETAIL 5): every live lane of the workgroup waits at a barrier, none has RES above zero, and no wait
can end. -/
def barrierDeadlock (s : State) (wid : Nat) : Bool :=
  match aGet wid s.wgs with
  | none => false
  | some w =>
    let gs := s.gangs.filter fun e => e.2.wg == wid
    let atBarrier (q : Path) : Bool := match q.wait with
      | .form => true
      | .barrier _ _ _ => true
      | _ => false
    let canEnd (q : Path) : Bool := match q.wait with
      | .barrier b t _ => barrierDone (barrierAt w b) t
      | _ => false
    !gs.isEmpty && gs.all (fun e =>
      maskDiff e.2.live ((s.paths.filter fun x => x.2.gang == e.1 && atBarrier x.2).foldl (fun m x => m ||| x.2.lanes) 0) == 0 &&
      !formed s e.1 e.2) &&
    w.barriers.all (fun b => b.res == 0) && !liftReady s wid w && !walkerReady s wid w &&
    !(s.paths.any fun x => gs.any (fun e => e.1 == x.2.gang) && canEnd x.2)

/-- A barrier fault delivered to a waiting path, whose lanes return to its instruction (R272). -/
def barrierFault (s : State) (p detail : Nat) : State :=
  match aGet p s.paths with
  | some q => match q.cur with
    | some i => trapAll s p q i cBarCount detail 0
    | none => s
  | none => s

/-- The path of a gang that holds a lane. -/
def pathOfLane (s : State) (gid l : Nat) : Option Nat :=
  (s.paths.find? fun e => e.2.gang == gid && hasBit e.2.lanes l).map (·.1)

/-- The path that holds the lowest live lane of a workgroup, gangs by their indexes. -/
def lowestPath (s : State) (wid : Nat) : Option Nat :=
  (minBy (fun e : Nat × Gang => e.2.idx) (s.gangs.filter fun e => e.2.wg == wid)).bind fun e => pathOfLane s e.1 (lowestBit e.2.live)

/-- BARCOUNT DETAIL 5 where no path's own arrival or wait completed the deadlock (R272): to the waiting path with the workgroup's lowest live
lane. So also where an engine's arrival took the last reservation without completing its generation (log entry 106). -/
def endDeadlock (s : State) (wid : Nat) : State :=
  if barrierDeadlock s wid then
    match lowestPath s wid with
    | some p => barrierFault s p 5
    | none => s
  else s

/-- The barrier errors that the end of lanes completes (R272): to the waiting path with the lowest live lane of the gang, or for
DETAIL 5 of the workgroup. -/
def checkBarrierEnd (s : State) (wid gid : Nat) : State :=
  let s := match aGet gid s.gangs with
    | some g =>
      if allForming s gid g && !formed s gid g then
        match pathOfLane s gid (lowestBit g.live) with
        | some p => barrierFault s p 3
        | none => s
      else s
    | none => s
  endDeadlock s wid

/-- Lanes of a gang that wait in MBXGET (R383). -/
def mailLanes (s : State) (gid : Nat) : Nat :=
  (s.paths.filter fun e => e.2.gang == gid && e.2.wait = .mailbox).foldl (fun m e => m ||| e.2.lanes) 0

/-- Every live lane of a workgroup waits in MBXGET, and there is one (R383). -/
def allInMailbox (s : State) (wid : Nat) : Bool :=
  let gs := s.gangs.filter fun e => e.2.wg == wid
  !gs.isEmpty && gs.all fun e => maskDiff e.2.live (mailLanes s e.1) == 0

/-- A lift group could launch once every live lane waits in MBXGET (R161, R383). -/
def flushReady (s : State) (wid : Nat) (w : Workgroup) : Bool :=
  let sl := ((aGet w.launch s.launches).map fun l => l.desc.gang).getD 1
  let need := match w.liftGangs with
    | g :: _ => some g.slices
    | [] => (minBy (·.key) w.lift).map fun e =>
        Nat.min sl (ceilDiv (w.lift.filter fun x => x.key == e.key).length 4)
  match need with
  | some n => indexFree s wid w && decide (n ≤ w.idle.length)
  | none => false

/-- The deadlock of R383 (DETAIL 6). -/
def mailDeadlock (s : State) (wid : Nat) : Bool :=
  match aGet wid s.wgs with
  | none => false
  | some w =>
    allInMailbox s wid && (s.gangs.any fun e => e.2.wg == wid && e.2.mail.any fun m => !m.completed) &&
    !(s.paths.any fun e => e.2.wait = .mailbox && ((aGet e.2.gang s.gangs).map fun g => decide (g.wg = wid) &&
      (lanesOf (active e.2)).all fun l =>
        g.mail.any (fun m => m.lane == l && m.completed) || !(g.mail.any fun m => m.lane == l)) = some true) &&
    !walkerReady s wid w && !flushReady s wid w

/-- RAYSLOT with DETAIL 6 delivered to a path that waits in MBXGET, whose lanes return to the instruction (R383). -/
def mailFault (s : State) (p : Nat) : State :=
  match aGet p s.paths with
  | some q => match q.cur with
    | some i => trapAll s p q i cRaySlot 6 0
    | none => s
  | none => s

/-- The deadlock of R383 completed by the end of lanes: to the waiting path with the workgroup's lowest live lane. -/
def checkMailEnd (s : State) (wid : Nat) : State :=
  if mailDeadlock s wid then
    match minBy (fun e : Nat × Gang => e.2.idx) (s.gangs.filter fun e => e.2.wg == wid) with
    | some e => match pathOfLane s e.1 (lowestBit e.2.live) with
      | some p => mailFault s p
      | none => s
    | none => s
  else s

/-- What the end of a gang does (R156, R301, R141): its stage queue closes, its A latch empties, and a forming crew that lists it
fails. Its slices are IDLE by then (R149). -/
def endGang (s : State) (gid : Nat) (g : Gang) : State :=
  let s := { s with gangs := aErase gid s.gangs, paths := s.paths.filter fun e => e.2.gang != gid }
  match aGet g.wg s.wgs with
  | none => s
  | some w =>
    let s := { s with wgs := s.wgs.map fun e =>
        if e.2.launch == w.launch && e.2.n == w.n && e.2.stage == w.stage + 1 then
          (e.1, { e.2 with incoming := { e.2.incoming with openGangs := e.2.incoming.openGangs.filter fun x => x != gid } })
        else e }
    match w.latch.head? with
    | none => s
    | some m => if (crewIds m.word).contains g.idx then emptyLatch s g.wg cCrew 3 else s

/-- Lanes end (R156): they leave every GROUP and awaited set, entries without a live lane are discarded, a PEND entry on top of a
slot that ended whole is popped, completions are checked again, and a slice whose last live lane ended is IDLE (R149). -/
def endLanes (s : State) (gid lanes : Nat) : State :=
  match aGet gid s.gangs with
  | none => s
  | some g =>
    let lanes := lanes &&& g.live
    let s := killTokens s gid lanes
    let live := maskDiff g.live lanes
    let whole := (s.paths.filter fun e => e.2.gang == gid && e.2.lanes &&& lanes != 0).flatMap fun e =>
      (slicesOf e.2.lanes).filter fun c => maskDiff (sliceLanes c e.2.lanes) lanes == 0
    let left := g.stack.filter fun e => e.group &&& live != 0
    let pops := (uniq whole).filterMap fun c =>
      (left.find? fun e => e.slice == c && e.group &&& lanes != 0).filter fun e => !e.isJoin
    let stack := (popEntries left pops).map fun e =>
      { e with group := maskDiff e.group lanes, lanes := maskDiff e.lanes lanes }
    let g' := { g with live := live, stack := stack, lastForm := none, mail := g.mail.filter (fun m => !hasBit lanes m.lane),
                       lanes := g.lanes.filter (fun e => !hasBit lanes e.1),
                       waits := (g.waits.map fun w => { w with lanes := maskDiff w.lanes lanes }).filter fun w => w.lanes != 0 }
    let gone := (slicesOf g.live).filter fun c => sliceLanes c live == 0
    let s := modWg s g.wg fun w => { w with idle := sortBy id (w.idle ++ gone.map fun c => nth g.slices c) }
    let s := { s with gangs := aSet gid g' s.gangs,
                      paths := (s.paths.map fun e => if e.2.gang == gid then
                        (e.1, { e.2 with lanes := maskDiff e.2.lanes lanes }) else e).filter fun e => e.2.lanes != 0 }
    let s := if live = 0 then endGang s gid g'
      else checkJoinDeadlock (resumeLanes s gid (pops.map fun e => { e with lanes := maskDiff e.lanes lanes })) gid
    checkMailEnd (checkBarrierEnd s g.wg gid) g.wg

/-- Lanes of a path that met XLATE on a load or store park, one record for each slice (R155, R214). -/
def parkLanes (s : State) (p : Nat) (q : Path) (miss : List (Nat × Nat × Nat)) : State :=
  let lanes := maskOf (miss.map (·.1))
  let recs := (slicesOf lanes).map fun c : Nat =>
    ({ slice := c, pos := q.pos, sup := q.sup,
       lanes := miss.filter fun m => m.1 / 4 == c, base := baseOf s q, barsync := q.barsync } : ParkRecord)
  dropLanes (modGang s q.gang fun g => { g with parks := g.parks ++ recs }) p q lanes

/-- The outcome of an instruction whose lanes were checked one by one (R211): lanes without a translation park, and then a fault of
the others is delivered to the path that is left; with no fault the path goes on. -/
def settleLanes (s : State) (p : Nat) (q : Path) (i : Instr) (outs : List (Nat × LaneOut)) : State :=
  let miss := missLanes outs
  let trap := laneTrap q i outs
  let s := if miss.isEmpty then s else parkLanes s p q miss
  match aGet p s.paths with
  | none => s
  | some q' => match trap with
    | some t => takeTrap s p q' t
    | none => advance s p q' (sizeOf i)

/-- The outcome of an instruction that waits whole for translation (R115): a page missing in any lane holds the path; otherwise a
fault of some lanes is delivered after the others took their effect. -/
def settleWhole (s : State) (p : Nat) (q : Path) (i : Instr) (outs : List (Nat × LaneOut)) (effect : State → State) : State :=
  let miss := missLanes outs
  if !miss.isEmpty then waitAt s p q i (.service (uniq (miss.map (·.2.2))))
  else
    let s := effect s
    match aGet p s.paths with
    | none => s
    | some q' => match laneTrap q i outs with
      | some t => takeTrap s p q' t
      | none => advance s p q' (sizeOf i)

/-- Lanes that passed, with their addresses and leaves. -/
def passLanes (outs : List (Nat × LaneOut)) : List (Nat × Nat × Nat) :=
  outs.filterMap fun x => match x.2 with
    | .pass pa leaf => some (x.1, pa, leaf)
    | _ => none

/-- A page refused to a path for its instruction (R213, R214): the virtual page or, when the walk found one, the host page. -/
def isRefused (q : Path) (va : Nat) (x : Xl) : Bool :=
  q.refused.contains (pageKey (va / 65536 * 65536) false) || match x with
    | .miss page host => q.refused.contains (pageKey page host)
    | _ => false

/-- Checks 1 to 4 of R210 for a lane's access aligned to al; a page whose service was refused is check 3 (R211). -/
def laneXl (s : State) (q : Path) (acc : Acc) (va al : Nat) : State × Xl :=
  let r := translate s (ctxOf s q) (coreOf s q) q.sup acc va al
  match r.2 with
  | .bad rank code detail => (r.1, .bad rank code detail)
  | x => (r.1, if isRefused q va x then .bad 3 cProt 3 else x)

/-- What these checks say of a lane, with nothing read, counted or asked for: what an instruction that may have to wait looks at first. -/
def laneDry (s : State) (q : Path) (acc : Acc) (va al : Nat) : LaneOut :=
  match (laneXl s q acc va al).2 with
  | .ok pa leaf _ => .pass pa leaf
  | .miss page host => .miss page host va
  | .bad rank code detail => .fail rank code detail va

/-- The same for every active lane at its own address. -/
def dryLanes (s : State) (q : Path) (acc : Acc) (al : Nat) (va : Nat → Nat) : List (Nat × LaneOut) :=
  (lanesOf (active q)).map fun l => (l, laneDry s q acc (va l) al)

/-- Service asked for the pages that lanes miss (R213). -/
def askMissing (s : State) (q : Path) (acc : Acc) (outs : List (Nat × LaneOut)) : State :=
  outs.foldl (fun s x => match x.2 with
    | .miss page host _ => askService s (ctxOf s q) (coreOf s q) page host acc
    | _ => s) s

/-- No port that is up reaches a peer's byte (R401). -/
def outOfReach (s : State) (pa : Nat) : Bool := isPeer pa && (peerPort s (pa - peerBase)).isNone

/-- The first byte of a range in a line of a peer that could not be read for the path's instruction (R386, R401). -/
def farByte (q : Path) (pa n : Nat) : Option Nat :=
  (List.range n).findSome? fun i => if isPeer pa && q.refused.contains (farKey ((pa + i) / 128)) then some (pa + i) else none

/-- A peer's data is held on this side of the link for one of a core's paths (R237, R241, R255, R386): in its L1, in its die's shared cache, in its
read-only cache or in its node cache. -/
def heldNear (s : State) (core pa n : Nat) : Bool :=
  l1Hits s core pa n || hasP s (dieOf core) (pa / 128) || (roFind s core (pa / 128)).isSome ||
  s.nodes.any fun x => x.core == core && x.addr == pa

/-- One lane's checks 1 to 5 of R210 for an access of n bytes, aligned to al, with a test of the data for poison and a further check of
the instruction's own chapter; a missing page asks for service (R211). Only an access that passes marks the entries of its walk, and D only
where its write can be performed (R209, R401). -/
def laneCheckBy (poison : State → Nat → Nat → Option Nat) (further : State → Nat → Nat → Option (Nat × Nat × Nat))
    (s : State) (q : Path) (acc : Acc) (va n al : Nat) : State × LaneOut :=
  let c := ctxOf s q
  let core := coreOf s q
  let r := laneXl s q acc va al
  match r.2 with
  | .bad rank code detail => (r.1, .fail rank code detail va)
  | .miss page host => (askService r.1 c core page host acc, .miss page host va)
  | .ok pa leaf w =>
    if acc = .read && outOfReach r.1 pa && !heldNear r.1 core pa n then
      (countFailedAccess r.1, .fail 5 cProt 9 va)
    else match if acc = .read || acc = .atomic then poison r.1 pa leaf else none with
      | some a =>
        let f := readFault r.1 a
        (f.1, .fail 5 f.2.1 f.2.2 (va + (a - pa)))
      | none => match further r.1 pa leaf with
        | some (rank, code, detail) => (r.1, .fail rank code detail va)
        | none => (commitXl r.1 c core (if dirties acc && outOfReach r.1 pa then .read else acc) va w, .pass pa leaf)

/-- One lane's checks on the CORE path. -/
def laneCheck (s : State) (q : Path) (acc : Acc) (va n al : Nat) : State × LaneOut :=
  laneCheckBy (fun s pa _ => poisonedFor s (coreOf s q) pa n) (fun _ _ _ => none) s q acc va n al

/-- The same checks made for every active lane at its own address. -/
def checkLanes (check : State → Nat → State × LaneOut) (s : State) (q : Path) (va : Nat → Nat) : State × List (Nat × LaneOut) :=
  (lanesOf (active q)).foldl (fun (a : State × List (Nat × LaneOut)) l =>
    let r := check a.1 (va l)
    (r.1, a.2 ++ [(l, r.2)])) (s, [])

/-- The checks of every active lane on the CORE path. -/
def laneChecks (s : State) (q : Path) (acc : Acc) (n al : Nat) (va : Nat → Nat) : State × List (Nat × LaneOut) :=
  checkLanes (fun s a => laneCheck s q acc a n al) s q va

end Sys2Proof.Machine
end

