-- ==== Sys2Proof/Machine/Operands.lean ====
section
/-! DEFINITION. Operand forms of the lane and uniform instructions (R57, R73, R168, R169): what they read, what they write, and
how the path goes on. Every source of every lane is read before any destination is written (R10). -/

namespace Sys2Proof.Machine

/-- V[d] := f(lane) in every active lane, in an instruction of k words. -/
def laneForm (s : State) (k d : Nat) (f : Path → Nat → Nat) : Host.Outcome State Fault Refusal :=
  onPath s fun p q => advance (setVs s q.gang (laneWrites (active q) d (f q))) p q k

/-- V[d] := f(V[a]). -/
def unForm (s : State) (d a : Nat) (f : Nat → Nat) : Host.Outcome State Fault Refusal :=
  laneForm s 1 d fun q l => f (getV s q.gang l a)

/-- V[d] := f(V[a], V[b]). -/
def binForm (s : State) (d a b : Nat) (f : Nat → Nat → Nat) : Host.Outcome State Fault Refusal :=
  laneForm s 1 d fun q l => f (getV s q.gang l a) (getV s q.gang l b)

/-- The pair V[d..d+1] := f(lane). -/
def pairForm (s : State) (d : Nat) (f : Path → Nat → Nat) : Host.Outcome State Fault Refusal :=
  onPath s fun p q => advance (setVs s q.gang (pairWrites (active q) d (f q))) p q 1

/-- P[d] := f(lane) in every active lane. -/
def predForm (s : State) (d : Nat) (f : Path → Nat → Bool) : Host.Outcome State Fault Refusal :=
  onPath s fun p q => advance (setPs s q.gang d ((lanesOf (active q)).map fun l => (l, f q l))) p q 1

/-- P[d] := P[a] op P[b] (R179). -/
def plogForm (s : State) (d a b : Nat) (f : Bool → Bool → Bool) : Host.Outcome State Fault Refusal :=
  predForm s d fun q l => f (getP s q.gang l a) (getP s q.gang l b)

/-- G[d] := f(path) in every slice of the path, in an instruction of k words (R169). -/
def uniForm (s : State) (k d : Nat) (f : Path → Nat) : Host.Outcome State Fault Refusal :=
  onPath s fun p q => advance (setG s q d (f q)) p q k

/-- G[d] := f(G[a], G[b]). -/
def uBinForm (s : State) (d a b : Nat) (f : Nat → Nat → Nat) : Host.Outcome State Fault Refusal :=
  uniForm s 1 d fun q => f (getG s q a) (getG s q b)

/-- The lane that lane l reads in a shuffle: the source lane x where it is active in the path, else itself (R180). -/
def shuffleSource (q : Path) (x : Int) (l : Nat) : Nat := if 0 ≤ x && x < 32 && hasBit (active q) x.toNat then x.toNat else l

/-- V[d][l] := V[a][j] for a source lane j that is active in the path, else V[a][l] (R180). -/
def shuffleForm (s : State) (d a : Nat) (j : Path → Nat → Int) : Host.Outcome State Fault Refusal :=
  laneForm s 1 d fun q l => getV s q.gang (shuffleSource q (j q l) l) a

/-- Source lane of each mnemonic of R180 for lane l, of its amount: SHFLIDX, SHFLUP, SHFLDN, SHFLXOR. -/
def lanexIdx (_ k : Nat) : Int := k
def lanexUp (l k : Nat) : Int := (l : Int) - (k : Int)
def lanexDown (l k : Nat) : Int := (l : Int) + (k : Int)
def lanexXor (l k : Nat) : Int := ((l ^^^ k : Nat) : Int)

/-- An address operand: G[g], plus the sign-extended V[off] of the lane unless off is 127, modulo 2^64 (R59, R218). -/
def laneAddr (s : State) (q : Path) (g off l : Nat) : Nat :=
  if off = 127 then getG s q g else wrapInt ((getG s q g : Int) + sext (getV s q.gang l off) 32) 64

end Sys2Proof.Machine
end

