-- ==== Sys2Proof/Machine/Flags.lean ====
section
/-! DEFINITION. The operand forms of instructions that merge flags into FPSTAT (R188 to R191): each lane gives a result and flags,
and the union of the flags of all active lanes is merged in every slice of the path. -/

namespace Sys2Proof.Machine

/-- The union of the flags of the active lanes (R189). -/
def orFlags (lanes : Nat) (f : Nat → Nat × Nat) : Nat := (lanesOf lanes).foldl (fun a l => a ||| (f l).2) 0

/-- V[d] := the result of each lane, flags merged, in an instruction of k words. -/
def flagForm (s : State) (k d : Nat) (f : Path → Nat → Nat × Nat) : Host.Outcome State Fault Refusal :=
  onPath s fun p q =>
    advance (mergeFlags (setVs s q.gang (laneWrites (active q) d fun l => (f q l).1)) q (orFlags (active q) (f q))) p q k

/-- The pair V[d..d+1] := the result of each lane, flags merged. -/
def flagPairForm (s : State) (d : Nat) (f : Path → Nat → Nat × Nat) : Host.Outcome State Fault Refusal :=
  onPath s fun p q =>
    advance (mergeFlags (setVs s q.gang (pairWrites (active q) d fun l => (f q l).1)) q (orFlags (active q) (f q))) p q 1

/-- P[d] := the truth of each lane, flags merged (R196). -/
def flagPredForm (s : State) (d : Nat) (f : Path → Nat → Bool × Nat) : Host.Outcome State Fault Refusal :=
  onPath s fun p q =>
    advance (mergeFlags (setPs s q.gang d ((lanesOf (active q)).map fun l => (l, (f q l).1))) q
      (orFlags (active q) fun l => ((f q l).1.toNat, (f q l).2))) p q 1

/-- Two 16-bit elements of one register, each by its own operation; the flags of both (R74, R194). -/
def halves (f : Nat → Nat × Nat) : Nat × Nat :=
  ((f 0).1 + 2 ^ 16 * (f 1).1, (f 0).2 ||| (f 1).2)

/-- Element i of a packed register. -/
def half (x i : Nat) : Nat := bits x (16 * i + 15) (16 * i)

/-- FP32 form on V[a], V[b] under the path's rounding mode. -/
def f32Form (s : State) (d a b : Nat) (f : Nat → Nat → Nat → Nat × Nat) : Host.Outcome State Fault Refusal :=
  flagForm s 1 d fun q l => f (fpMode s q) (getV s q.gang l a) (getV s q.gang l b)

/-- Fused FP32 form of two words on V[a], V[b], V[c] (R193). -/
def fmaForm (s : State) (d a b c : Nat) (negP negC : Bool) : Host.Outcome State Fault Refusal :=
  flagForm s 2 d fun q l =>
    fpFma f32 (fpMode s q) negP negC (getV s q.gang l a) (getV s q.gang l b) (getV s q.gang l c)

/-- Packed 16-bit form on V[a], V[b] and V[d] (R194). -/
def packForm (s : State) (d a b : Nat) (f : Nat → Nat → Nat → Nat → Nat × Nat) : Host.Outcome State Fault Refusal :=
  flagForm s 1 d fun q l => halves fun i =>
    f (fpMode s q) (half (getV s q.gang l a) i) (half (getV s q.gang l b) i) (half (getV s q.gang l d) i)

/-- FP64 form on the pairs a, b and d (R195). -/
def f64Form (s : State) (d a b : Nat) (f : Nat → Nat → Nat → Nat → Nat × Nat) : Host.Outcome State Fault Refusal :=
  flagPairForm s d fun q l =>
    f (fpMode s q) (getPair s q.gang l a) (getPair s q.gang l b) (getPair s q.gang l d)

/-- One-operand conversion on V[a] (R197). -/
def cvtForm (s : State) (d a : Nat) (f : Nat → Nat → Nat × Nat) : Host.Outcome State Fault Refusal :=
  flagForm s 1 d fun q l => f (fpMode s q) (getV s q.gang l a)

end Sys2Proof.Machine
end

