-- ==== Sys2Proof/Machine/Integer.lean ====
section
/-! DEFINITION. Lane integer, predicate, cross-lane and uniform instructions (R168 to R187), but for ULD and MOVSR's sources. -/

namespace Sys2Proof.Machine

/-- The outcome of a meaning. -/
abbrev Out := Host.Outcome State Fault Refusal

/-- x op y as signed 32-bit numbers, by their order (R172). -/
def slt (n x y : Nat) : Bool := sext x n < sext y n

/-- Arithmetic shift right of an n-bit value. -/
def sarBits (n x k : Nat) : Nat := wrapInt (sext x n / (2 ^ k : Nat)) n

/-- ICMP conditions 0 to 5: EQ, NE, LT, LE, GT, GE on integers (R60, R174). -/
def intCond (c : Nat) (x y : Int) : Bool :=
  match c with
  | 0 => x = y
  | 1 => x != y
  | 2 => x < y
  | 3 => x ≤ y
  | 4 => y < x
  | _ => y ≤ x

/-- Position and width of a bit field (R173). -/
def fieldPos (y : Nat) : Nat := bits y 4 0
def fieldLen (y : Nat) : Nat := Nat.min (bits y 12 8) (32 - bits y 4 0)
/-- The field of x that y names (R173). -/
def fieldOf (x y : Nat) : Nat := x / 2 ^ fieldPos y % 2 ^ fieldLen y

/-- Byte order reversed (R172). -/
def bswap32 (x : Nat) : Nat := bits x 7 0 * 2 ^ 24 + bits x 15 8 * 2 ^ 16 + bits x 23 16 * 2 ^ 8 + bits x 31 24

/-- IADD (R172): sum modulo 2^32. -/
def execIadd (d a b : Nat) (s : State) : Out := binForm s d a b fun x y => x + y

/-- ISUB (R172): difference modulo 2^32. -/
def execIsub (d a b : Nat) (s : State) : Out := binForm s d a b fun x y => x + 2 ^ 32 - y

/-- IMUL (R172): low product. -/
def execImul (d a b : Nat) (s : State) : Out := binForm s d a b fun x y => x * y

/-- IMULH (R172): high half of the signed product. -/
def execImulh (d a b : Nat) (s : State) : Out := binForm s d a b fun x y => wrapInt (sext x 32 * sext y 32 / (2 ^ 32 : Nat)) 32

/-- IMULHU (R172): high half of the unsigned product. -/
def execImulhu (d a b : Nat) (s : State) : Out := binForm s d a b fun x y => x * y / 2 ^ 32

/-- IMIN (R172): smaller as i32. -/
def execImin (d a b : Nat) (s : State) : Out := binForm s d a b fun x y => if slt 32 y x then y else x

/-- IMAX (R172): larger as i32. -/
def execImax (d a b : Nat) (s : State) : Out := binForm s d a b fun x y => if slt 32 x y then y else x

/-- IMINU (R172): smaller as n32. -/
def execIminu (d a b : Nat) (s : State) : Out := binForm s d a b fun x y => Nat.min x y

/-- IMAXU (R172): larger as n32. -/
def execImaxu (d a b : Nat) (s : State) : Out := binForm s d a b fun x y => Nat.max x y

/-- IADDSAT (R172): signed sum clamped. -/
def execIaddsat (d a b : Nat) (s : State) : Out := binForm s d a b fun x y => wrapInt (max (-(2 ^ 31 : Int)) (min (2 ^ 31 - 1) (sext x 32 + sext y 32))) 32

/-- IADD64 (R172): on pairs, modulo 2^64. -/
def execIadd64 (d a b : Nat) (s : State) : Out :=
  pairForm s d fun q l => (getPair s q.gang l a + getPair s q.gang l b) % 2 ^ 64

/-- ISUB64 (R172): on pairs, modulo 2^64. -/
def execIsub64 (d a b : Nat) (s : State) : Out :=
  pairForm s d fun q l => (getPair s q.gang l a + 2 ^ 64 - getPair s q.gang l b) % 2 ^ 64

/-- AND (R172): bitwise. -/
def execAnd (d a b : Nat) (s : State) : Out := binForm s d a b fun x y => x &&& y

/-- OR (R172): bitwise. -/
def execOr (d a b : Nat) (s : State) : Out := binForm s d a b fun x y => x ||| y

/-- XOR (R172): bitwise. -/
def execXor (d a b : Nat) (s : State) : Out := binForm s d a b fun x y => x ^^^ y

/-- ANDN (R172): x AND NOT y. -/
def execAndn (d a b : Nat) (s : State) : Out := binForm s d a b fun x y => maskDiff x y

/-- SHL (R172): left shift. -/
def execShl (d a b : Nat) (s : State) : Out := binForm s d a b fun x y => x * 2 ^ bits y 4 0

/-- SHR (R172): logical right shift. -/
def execShr (d a b : Nat) (s : State) : Out := binForm s d a b fun x y => x / 2 ^ bits y 4 0

/-- SAR (R172): arithmetic right shift. -/
def execSar (d a b : Nat) (s : State) : Out := binForm s d a b fun x y => sarBits 32 x (bits y 4 0)

/-- ROTL (R172): left rotation. -/
def execRotl (d a b : Nat) (s : State) : Out := binForm s d a b fun x y => rotl 32 x (bits y 4 0)

/-- SHL64 (R172): a pair shifted by a register. -/
def execShl64 (d a b : Nat) (s : State) : Out :=
  pairForm s d fun q l => getPair s q.gang l a * 2 ^ bits (getV s q.gang l b) 5 0 % 2 ^ 64

/-- SHR64 (R172): a pair shifted by a register. -/
def execShr64 (d a b : Nat) (s : State) : Out :=
  pairForm s d fun q l => getPair s q.gang l a / 2 ^ bits (getV s q.gang l b) 5 0

/-- POPC (R172): set bits. -/
def execPopc (d a : Nat) (s : State) : Out := unForm s d a fun x => popcount 32 x

/-- CLZ (R172): leading zeros, 32 for 0. -/
def execClz (d a : Nat) (s : State) : Out := unForm s d a fun x => leadingZeros 32 x

/-- CTZ (R172): trailing zeros, 32 for 0. -/
def execCtz (d a : Nat) (s : State) : Out := unForm s d a fun x => trailingZeros 32 x

/-- BREV (R172): bits reversed. -/
def execBrev (d a : Nat) (s : State) : Out := unForm s d a fun x => reverseBits 32 x

/-- BSWAP (R172): bytes reversed. -/
def execBswap (d a : Nat) (s : State) : Out := unForm s d a fun x => bswap32 x

/-- BFE (R172): signed field (R173). -/
def execBfe (d a b : Nat) (s : State) : Out := binForm s d a b fun x y => if fieldLen y = 0 then 0 else wrapInt (sext (fieldOf x y) (fieldLen y)) 32

/-- BFEU (R172): unsigned field (R173). -/
def execBfeu (d a b : Nat) (s : State) : Out := binForm s d a b fun x y => fieldOf x y

/-- BFI (R173): the low bits of V[a] put into the field of V[d]. -/
def execBfi (d a b : Nat) (s : State) : Out :=
  laneForm s 1 d fun q l =>
    let y := getV s q.gang l b
    let x := getV s q.gang l d
    x - fieldOf x y * 2 ^ fieldPos y + getV s q.gang l a % 2 ^ fieldLen y * 2 ^ fieldPos y

/-- ICMP_I32 (R174): P[p] := (V[a] cond V[b]). -/
def execIcmpI32 (p c a b : Nat) (s : State) : Out :=
  predForm s p fun q l => intCond c (sext (getV s q.gang l a) 32) (sext (getV s q.gang l b) 32)

/-- ICMP_N32 (R174): P[p] := (V[a] cond V[b]). -/
def execIcmpN32 (p c a b : Nat) (s : State) : Out :=
  predForm s p fun q l => intCond c ((getV s q.gang l a)) ((getV s q.gang l b))

/-- ICMP_I64 (R174): P[p] := (V[a] cond V[b]) on pairs. -/
def execIcmpI64 (p c a b : Nat) (s : State) : Out :=
  predForm s p fun q l => intCond c (sext (getPair s q.gang l a) 64) (sext (getPair s q.gang l b) 64)

/-- ICMP_N64 (R174): P[p] := (V[a] cond V[b]) on pairs. -/
def execIcmpN64 (p c a b : Nat) (s : State) : Out :=
  predForm s p fun q l => intCond c ((getPair s q.gang l a)) ((getPair s q.gang l b))

/-- IADDI (R175): with the 12-bit immediate. -/
def execIaddi (d a i : Nat) (s : State) : Out := unForm s d a fun x => wrapInt ((x : Int) + sext i 12) 32

/-- ANDI (R175): with the 12-bit immediate. -/
def execAndi (d a i : Nat) (s : State) : Out := unForm s d a fun x => x &&& i

/-- ORI (R175): with the 12-bit immediate. -/
def execOri (d a i : Nat) (s : State) : Out := unForm s d a fun x => x ||| i

/-- XORI (R175): with the 12-bit immediate. -/
def execXori (d a i : Nat) (s : State) : Out := unForm s d a fun x => x ^^^ i

/-- SHLI (R175): by the amount n. -/
def execShli (d a n : Nat) (s : State) : Out := unForm s d a fun x => x * 2 ^ n

/-- SHRI (R175): by the amount n. -/
def execShri (d a n : Nat) (s : State) : Out := unForm s d a fun x => x / 2 ^ n

/-- SARI (R175): by the amount n. -/
def execSari (d a n : Nat) (s : State) : Out := unForm s d a fun x => sarBits 32 x n

/-- ROTLI (R175): by the amount n. -/
def execRotli (d a n : Nat) (s : State) : Out := unForm s d a fun x => rotl 32 x n

/-- MOVI (R176). -/
def execMovi (d i : Nat) (s : State) : Out := laneForm s 1 d fun _ _ => i

/-- MOVHI (R176): bits [15:0] are kept. -/
def execMovhi (d i : Nat) (s : State) : Out := laneForm s 1 d fun q l => i * 2 ^ 16 + bits (getV s q.gang l d) 15 0

/-- LIT (R176). -/
def execLit (d i : Nat) (s : State) : Out := laneForm s 2 d fun _ _ => i

/-- SEL (R177): n inverts the predicate. -/
def execSel (d a b p n : Nat) (s : State) : Out :=
  laneForm s 1 d fun q l => if getP s q.gang l p != (n == 1) then getV s q.gang l a else getV s q.gang l b

/-- IMAD (R178). -/
def execImad (d a b c : Nat) (s : State) : Out :=
  laneForm s 2 d fun q l => getV s q.gang l a * getV s q.gang l b + getV s q.gang l c

/-- PAND (R179). -/
def execPand (d a b : Nat) (s : State) : Out := plogForm s d a b fun x y => x && y

/-- POR (R179). -/
def execPor (d a b : Nat) (s : State) : Out := plogForm s d a b fun x y => x || y

/-- PXOR (R179). -/
def execPxor (d a b : Nat) (s : State) : Out := plogForm s d a b fun x y => x != y

/-- PANDN (R179). -/
def execPandn (d a b : Nat) (s : State) : Out := plogForm s d a b fun x y => x && !y

/-- SHFLIDX (R180). -/
def execShflidx (d a b : Nat) (s : State) : Out := shuffleForm s d a fun q l => lanexIdx l (bits (getV s q.gang l b) 4 0)

/-- SHFLIDXI (R180): with the amount k. -/
def execShflidxi (d a k : Nat) (s : State) : Out := shuffleForm s d a fun _ l => lanexIdx l k

/-- SHFLUP (R180). -/
def execShflup (d a b : Nat) (s : State) : Out := shuffleForm s d a fun q l => lanexUp l (bits (getV s q.gang l b) 4 0)

/-- SHFLUPI (R180): with the amount k. -/
def execShflupi (d a k : Nat) (s : State) : Out := shuffleForm s d a fun _ l => lanexUp l k

/-- SHFLDN (R180). -/
def execShfldn (d a b : Nat) (s : State) : Out := shuffleForm s d a fun q l => lanexDown l (bits (getV s q.gang l b) 4 0)

/-- SHFLDNI (R180): with the amount k. -/
def execShfldni (d a k : Nat) (s : State) : Out := shuffleForm s d a fun _ l => lanexDown l k

/-- SHFLXOR (R180). -/
def execShflxor (d a b : Nat) (s : State) : Out := shuffleForm s d a fun q l => lanexXor l (bits (getV s q.gang l b) 4 0)

/-- SHFLXORI (R180): with the amount k. -/
def execShflxori (d a k : Nat) (s : State) : Out := shuffleForm s d a fun _ l => lanexXor l k

/-- The values of V[a] over the active lanes. -/
def gangVals (s : State) (q : Path) (a : Nat) : List Nat := (lanesOf (active q)).map fun l => getV s q.gang l a

/-- REDADD (R181). -/
def execRedadd (d a : Nat) (s : State) : Out := laneForm s 1 d fun q _ => sumNat (gangVals s q a)

/-- One level of the tree of R182: pairs at distance span are added, the lower index first. -/
def treeLevel (mode span : Nat) (x : List (Option Nat) × Nat) : List (Option Nat) × Nat :=
  (List.range (32 / (2 * span))).foldl (fun acc k =>
    let i := 2 * span * k
    match acc.1.getD i none, acc.1.getD (i + span) none with
    | some u, some v => (setAt acc.1 i (some (fpAdd f32 mode u v).1), acc.2 ||| (fpAdd f32 mode u v).2)
    | none, some v => (setAt acc.1 i (some v), acc.2)
    | _, none => acc) x

/-- The FP32 sum in the fixed tree of R182, with its flags. -/
def treeSum (mode : Nat) (xs : List (Option Nat)) : Nat × Nat :=
  let r := treeLevel mode 16 (treeLevel mode 8 (treeLevel mode 4 (treeLevel mode 2 (treeLevel mode 1 (xs, 0)))))
  ((r.1.getD 0 none).getD 0, r.2)

/-- The 32 places of the tree: active lanes hold V[a] (R182). -/
def treeLeaves (s : State) (q : Path) (a : Nat) : List (Option Nat) :=
  (List.range 32).map fun l => if hasBit (active q) l then some (getV s q.gang l a) else none

/-- REDADDF (R182): the tree's result in every active lane, its flags merged. -/
def execRedaddf (d a : Nat) (s : State) : Out := flagForm s 1 d fun q _ => treeSum (fpMode s q) (treeLeaves s q a)

/-- REDMIN (R181). -/
def execRedmin (d a : Nat) (s : State) : Out :=
  laneForm s 1 d fun q _ => (gangVals s q a).tail.foldl (fun m x => if slt 32 x m then x else m) ((gangVals s q a).headD 0)

/-- REDMAX (R181). -/
def execRedmax (d a : Nat) (s : State) : Out :=
  laneForm s 1 d fun q _ => (gangVals s q a).tail.foldl (fun m x => if slt 32 m x then x else m) ((gangVals s q a).headD 0)

/-- Active lanes in which P[a] is true, as a mask (R181). -/
def ballotMask (s : State) (q : Path) (a : Nat) : Nat := maskOf ((lanesOf (active q)).filter fun l => getP s q.gang l a)

/-- BALLOT (R181). -/
def execBallot (d a : Nat) (s : State) : Out := laneForm s 1 d fun q _ => ballotMask s q a

/-- VOTEANY (R181). -/
def execVoteany (d a : Nat) (s : State) : Out := predForm s d fun q _ => ballotMask s q a != 0

/-- VOTEALL (R181). -/
def execVoteall (d a : Nat) (s : State) : Out := predForm s d fun q _ => (lanesOf (active q)).all fun l => getP s q.gang l a

/-- UADD (R183). -/
def execUadd (d a b : Nat) (s : State) : Out := uBinForm s d a b fun x y => x + y

/-- USUB (R183). -/
def execUsub (d a b : Nat) (s : State) : Out := uBinForm s d a b fun x y => x + 2 ^ 64 - y

/-- UMUL (R183). -/
def execUmul (d a b : Nat) (s : State) : Out := uBinForm s d a b fun x y => x * y

/-- UAND (R183). -/
def execUand (d a b : Nat) (s : State) : Out := uBinForm s d a b fun x y => x &&& y

/-- UOR (R183). -/
def execUor (d a b : Nat) (s : State) : Out := uBinForm s d a b fun x y => x ||| y

/-- UXOR (R183). -/
def execUxor (d a b : Nat) (s : State) : Out := uBinForm s d a b fun x y => x ^^^ y

/-- USHL (R183). -/
def execUshl (d a b : Nat) (s : State) : Out := uBinForm s d a b fun x y => x * 2 ^ bits y 5 0

/-- USHR (R183). -/
def execUshr (d a b : Nat) (s : State) : Out := uBinForm s d a b fun x y => x / 2 ^ bits y 5 0

/-- USAR (R183). -/
def execUsar (d a b : Nat) (s : State) : Out := uBinForm s d a b fun x y => sarBits 64 x (bits y 5 0)

/-- UMIN (R183). -/
def execUmin (d a b : Nat) (s : State) : Out := uBinForm s d a b fun x y => if slt 64 y x then y else x

/-- UMAX (R183). -/
def execUmax (d a b : Nat) (s : State) : Out := uBinForm s d a b fun x y => if slt 64 x y then y else x

/-- USLT (R183). -/
def execUslt (d a b : Nat) (s : State) : Out := uBinForm s d a b fun x y => (slt 64 x y).toNat

/-- USLTN (R183). -/
def execUsltn (d a b : Nat) (s : State) : Out := uBinForm s d a b fun x y => (decide (x < y)).toNat

/-- USEQ (R183). -/
def execUseq (d a b : Nat) (s : State) : Out := uBinForm s d a b fun x y => (x == y).toNat

/-- UMOVI (R184). -/
def execUmovi (d i : Nat) (s : State) : Out := uniForm s 1 d fun _ => wrapInt (sext i 21) 64

/-- ULIT (R184). -/
def execUlit (d i : Nat) (s : State) : Out := uniForm s 2 d fun _ => i

/-- ULITHI (R184, R169): bits [31:0] kept from the path's lowest slice. -/
def execUlithi (d i : Nat) (s : State) : Out := uniForm s 2 d fun q => i * 2 ^ 32 + bits (getG s q d) 31 0

/-- A field of a lane's fragment, zero where the lane has none (R170, R372). -/
def fragField (s : State) (q : Path) (l : Nat) (f : FragLane → Nat) : Nat :=
  match (gangOf s q).bind fun g => g.frags.find? fun x => x.lane == l with
  | some x => f x
  | none => 0

/-- Whether a path's gang is a fragment gang, whose %nwg.x reads 0 (R372). -/
def isFragmentWg (s : State) (q : Path) : Bool := ((launchOfPath s q).bind (·.pass)).isSome

/-- %cyc of a core: the free value at reset plus the model's clock (R171, log entry 7). -/
def cycOf (s : State) (core : Nat) : Nat := (Config.cycBase core + s.clock) % 2 ^ 64

/-- A special value in a lane (R63, R170). -/
def specialReg (s : State) (q : Path) (n l : Nat) : Nat :=
  match n with
  | 0 => l
  | 1 => l / 4
  | 2 => ((gangOf s q).map (·.idx)).getD 0
  | 3 => ((wgOfPath s q).map (·.x)).getD 0
  | 4 => ((wgOfPath s q).map (·.y)).getD 0
  | 5 => ((wgOfPath s q).map (·.z)).getD 0
  | 6 => if isFragmentWg s q then 0 else ((descOf s q).map (·.nx)).getD 0
  | 7 => ((descOf s q).map (·.ny)).getD 0
  | 8 => ((descOf s q).map (·.nz)).getD 0
  | 9 => ((wgOfPath s q).map (·.stage)).getD 0
  | 10 => coreOf s q
  | 11 => fragField s q l (·.psn)
  | 12 => fragField s q l (·.pixel)
  | 13 => fragField s q l (·.b1) + 2 ^ 32 * fragField s q l (·.b2)
  | _ => cycOf s (coreOf s q)

/-- MOVSR (R185): %bary and %cyc fill a pair. -/
def execMovsr (d n : Nat) (s : State) : Out :=
  if 13 ≤ n then pairForm s d fun q l => specialReg s q n l else laneForm s 1 d fun q l => specialReg s q n l

/-- RDLANE (R185): 0 when the lane is not active in the path. -/
def execRdlane (d a n : Nat) (s : State) : Out :=
  uniForm s 1 d fun q => if hasBit (active q) n then getV s q.gang n a else 0

/-- BCAST (R185). -/
def execBcast (d a : Nat) (s : State) : Out := laneForm s 1 d fun q _ => bits (getG s q a) 31 0

/-- BCASTHI (R185). -/
def execBcasthi (d a : Nat) (s : State) : Out := laneForm s 1 d fun q _ => bits (getG s q a) 63 32

end Sys2Proof.Machine
end

