-- ==== Sys2Proof/Machine/Residue.lean ====
section
/-! DEFINITION. The residue accumulator (spec/04_numbers.md R84 to R96), the element formats of spec/15_copy.md R281, block
quantisation (R288, R95) and the exact signature sums of XSIG (R322). -/

namespace Sys2Proof.Machine

def m31 : Nat := 2 ^ 31 - 1
def m32 : Nat := 2 ^ 32 - 1
def m33 : Nat := 2 ^ 33 - 1
/-- M of R87. -/
def mAll : Nat := m31 * m32 * m33

/-- The channels of an element (R87), an all-ones channel read as zero. -/
def ch32 (e : Nat) : Nat := bits e 31 0 % m32
def ch31 (e : Nat) : Nat := bits e 62 32 % m31
def ch33 (e : Nat) : Nat := bits e 96 64 % m33
def chg (e : Nat) : Nat := bits e 111 104

/-- An element from its channels; `anchor` is the ANCHOR field. -/
def packElem (c31 c32 c33 cg anchor : Nat) : Nat :=
  c32 + c31 * 2 ^ 32 + c33 * 2 ^ 64 + cg * 2 ^ 104 + anchor * 2 ^ 112

/-- P / 2^A rounded to an integer, ties to even, and whether it is exact (R90). -/
def anchorRound (a : Int) (p : Dyadic) : Int × Bool :=
  let (v, nx) := roundToInt 0 (p.m < 0) p.m.natAbs (p.e - a)
  (v, !nx)

/-- R90 on the channels of an element; the ANCHOR field and reserved bits are kept. -/
def addUnits (e : Nat) (q : Int) : Nat :=
  let upd (c m : Nat) : Nat := (((c : Int) + q) % (m : Int)).toNat
  let keep := bits e 127 112 * 2 ^ 112 + bits e 103 97 * 2 ^ 97 + bits e 63 63 * 2 ^ 63
  packElem (upd (ch31 e) m31) (upd (ch32 e) m32) (upd (ch33 e) m33) (upd (chg e) 256) 0 + keep

/-- A finite partial added into an element (R90): the element, and whether bits were lost. -/
def addPartial (a : Int) (e : Nat) (p : Dyadic) : Nat × Bool :=
  let (q, exact) := anchorRound a p
  (addUnits e q, !exact)

/-- X of R89. -/
def reconstruct (e : Nat) : Int :=
  let x := (ch31 e * (m32 * m33) * 0x55555555 + ch32 e * (m31 * m33) * 0xFFFFFFFD + ch33 e * (m31 * m32) * 0xAAAAAAAD) % mAll
  if 2 * x ≤ mAll - 1 then (x : Int) else (x : Int) - mAll

/-- The wrap flag of R93. -/
def wrapped (e : Nat) : Bool := wrapInt (reconstruct e) 8 != chg e

/-- A partial as a product or a sum of products gives it (R90, R91). -/
inductive Partial where
  | fin (p : Dyadic)
  | pinf
  | ninf
  | nan (inv : Bool)
  deriving DecidableEq, Repr

/-- Special states (R88): 0 FIN, 1 PINF, 2 NINF, 3 NAN. R91's table: the new state and whether INV is set. -/
def combineSpecial (st : Nat) (p : Partial) : Nat × Bool :=
  match p with
  | .fin _ => (st, false)
  | .nan inv => (3, inv)
  | .pinf => match st with
    | 0 => (1, false)
    | 1 => (1, false)
    | 2 => (3, true)
    | _ => (3, false)
  | .ninf => match st with
    | 0 => (2, false)
    | 1 => (3, true)
    | 2 => (2, false)
    | _ => (3, false)

/-- The product of two element values as a partial (R90, R91). -/
def productPartial (a b : FVal) : Partial :=
  match a, b with
  | .nan _ _, _ => .nan false
  | _, .nan _ _ => .nan false
  | _, _ =>
    match prodVals a b with
    | none => .nan true
    | some (.inf s) => if s then .ninf else .pinf
    | some v => .fin v.dyadic

/-- The infinity that a partial is, as a set: bit 0 +∞, bit 1 −∞. -/
def infOf (p : Partial) : Nat :=
  match p with
  | .pinf => 1
  | .ninf => 2
  | _ => 0

/-- The infinities received at an element: those kept for it, and the one that its special state names (R91). -/
def infsSeen (kept st : Nat) : Nat := kept ||| (if st = 3 then 0 else st)

/-- The sum of partials as one partial: exact when all are finite, else by R91's combination from FIN. INV is that of the multiset (R92):
a NaN that made INV, or infinities of both signs, whichever came first. -/
def sumPartials (ps : List Partial) : Partial :=
  let step (acc : Nat × Bool × Dyadic) (p : Partial) : Nat × Bool × Dyadic :=
    let (st, inv) := combineSpecial acc.1 p
    match p with
    | .fin d => (st, acc.2.1, acc.2.2.add d)
    | _ => (st, acc.2.1 || inv, acc.2.2)
  let (st, inv, d) := ps.foldl step (0, false, Dyadic.zero)
  match st with
  | 0 => .fin d
  | 1 => .pinf
  | 2 => .ninf
  | _ => .nan (inv || ps.foldl (fun m p => m ||| infOf p) 0 == 3)

/-- A partial times a power of two; none is a NaN scale (R84). Under a NaN scale the partial is NaN, and INV stays clear even where a
product of the block is ∞ × 0: R91 says both of such a product and not which yields (log entry 105). -/
def scalePartial (p : Partial) (s : Option Int) : Partial :=
  match s with
  | none => .nan false
  | some k => match p with
    | .fin d => .fin ⟨d.m, d.e + k⟩
    | q => q

/-- The exponent of an E8M0 scale byte; none for NaN (R84). -/
def scaleExp (b : Nat) : Option Int := if b == 255 then none else some ((b : Int) - 127)

/-- A value added to an element with its special state: element, state, lost, inv (R90, R91). -/
def accumulate (a : Int) (e st : Nat) (p : Partial) : Nat × Nat × Bool × Bool :=
  match p with
  | .fin d =>
    let (e', lost) := addPartial a e d
    (e', st, lost, false)
  | _ =>
    let (st', inv) := combineSpecial st p
    (e, st', false, inv)

/-- The element formats of R281 with a floating layout. -/
def elemFmt (code : Nat) : Option Fmt :=
  match code with
  | 4 => some f16
  | 5 => some bf16
  | 6 => some f32
  | 7 => some f64
  | 8 => some e4m3
  | 9 => some e5m2
  | 10 => some e3m2
  | 11 => some e2m3
  | 12 => some e2m1
  | _ => none

/-- Bits of one element of a format of R281. -/
def elemBits (code : Nat) : Nat :=
  match code with
  | 0 => 8
  | 1 => 16
  | 2 => 32
  | 3 => 64
  | 4 => 16
  | 5 => 16
  | 6 => 32
  | 7 => 64
  | 8 => 8
  | 9 => 8
  | 10 => 6
  | 11 => 6
  | 12 => 4
  | 13 => 8
  | 14 => 4
  | _ => 2304

/-- An element's value (R75, R83); `scaled` is a block-scaled operand. -/
def elemVal (code : Nat) (scaled : Bool) (x : Nat) : FVal :=
  match elemFmt code with
  | some f => unpack f x
  | none =>
    let n := sext x (elemBits code)
    .fin (n < 0) n.natAbs (if scaled then (if code == 13 then -6 else -2) else 0)

/-- DRAIN of one element (R94): bits, FPSTAT-style flags, wrap. -/
def drainElem (f : Fmt) (mode : Nat) (a : Int) (e st : Nat) : Nat × Nat × Bool :=
  match st with
  | 0 =>
    let x := reconstruct e
    let (v, fl) := roundDyadic f mode false x a
    (v, fl, wrapped e)
  | 1 => (infBits f false, 0, false)
  | 2 => (infBits f true, 0, false)
  | _ => (defaultNan f, 0, false)

/-- A special state as the value that R81 converts. -/
def specialVal (st : Nat) : FVal :=
  match st with
  | 1 => .inf false
  | 2 => .inf true
  | _ => .nan false 1

/-- emax of the quantised formats (R95, R288), by R281's code. -/
def elemEmax (code : Nat) : Int :=
  match code with
  | 8 => 8
  | 9 => 15
  | 10 => 4
  | 11 => 2
  | 12 => 2
  | _ => 0

/-- The shared exponent of a block from its largest finite magnitude (R95, R288). -/
def sharedExp (code : Nat) (amax : Dyadic) : Int :=
  if amax.isZero then 0 else max (-127) (min 127 (amax.log2 - elemEmax code))

/-- The largest finite magnitude of a block. -/
def blockMax (vs : List FVal) : Dyadic :=
  vs.foldl (fun m v => match v with
    | .fin _ _ _ => if Dyadic.lt m v.dyadic.abs then v.dyadic.abs else m
    | _ => m) Dyadic.zero

/-- One element quantised at a shared exponent (R288): its code. Non-finite values follow R81, saturating. -/
def quantElem (code : Nat) (x : Int) (v : FVal) : Nat :=
  match elemFmt code with
  | some f =>
    match v with
    | .nan neg _ => if f.hasNan then signed f neg (defaultNan f) else 0
    | .inf neg => signed f neg f.maxCode
    | .fin neg m e =>
      if m == 0 then signed f neg 0
      else
        let (r, _) := roundMag f 0 neg m 1 (e - x)
        if r % f.signBit > f.maxCode then signed f neg f.maxCode else r
  | none =>
    let n := elemBits code
    let hi : Int := ((2 ^ (n - 1) : Nat) : Int) - 1
    let lo : Int := -((2 ^ (n - 1) : Nat) : Int)
    match v with
    | .nan _ _ => 0
    | .inf neg => wrapInt (if neg then lo else hi) n
    | .fin neg m e =>
      let (r, _) := roundToInt 0 neg m (e - x + (if code == 13 then 6 else 2))
      wrapInt (max lo (min hi r)) n

/-- A block quantised (R288): scale byte and element codes. -/
def quantBlock (code : Nat) (vs : List FVal) : Nat × List Nat :=
  let x := sharedExp code (blockMax vs)
  ((x + 127).toNat, vs.map (quantElem code x))

/-- σk(r, c) of XSIG (R322): whether the sign is negative. -/
def sigNeg (k r c : Nat) : Bool := popcount 10 (37 * r + 101 * c + 59 * k) % 2 == 1

/-- An exact sum of signed values rounded to binary32 under XSIG's rules for NaN and infinities (R322). -/
def exactSum32 (vs : List FVal) : Nat :=
  let nan := vs.any fun v => match v with
    | .nan _ _ => true
    | _ => false
  let pinf := vs.any fun v => v == FVal.inf false
  let ninf := vs.any fun v => v == FVal.inf true
  if nan || (pinf && ninf) then defaultNan f32
  else if pinf then infBits f32 false
  else if ninf then infBits f32 true
  else
    let s := vs.foldl (fun (acc : Dyadic) v => acc.add v.dyadic) Dyadic.zero
    (roundDyadic f32 0 false s.m s.e).1

/-- Projection k of a 32×32 window given row by row (R322, R342). -/
def projection (k : Nat) (rows : List (List FVal)) : Nat :=
  let signRow (r : Nat) (row : List FVal) : List FVal :=
    (row.zipIdx).map fun (v, c) => if sigNeg k r c then v.negate else v
  exactSum32 ((rows.zipIdx).flatMap fun (row, r) => signRow r row)

/-- The byte offset of a scale within its tile (R85). -/
def scaleOffset (r b : Nat) : Nat := (r % 8) * 16 + b * 4 + r / 8

end Sys2Proof.Machine
end

