-- ==== Sys2Proof/Machine/LoadStore.lean ====
section
/-! DEFINITION. Translated and scratchpad loads and stores, ULD and atomics, and the events that return, accept and perform them
(R186, R215 to R221, R227, R236, R237, R260 to R264, R400, R401). -/

namespace Sys2Proof.Machine

/-- Request type after the page default (R64, R218). -/
def effType (rt leaf : Nat) : Nat := if rt = 7 then eDrt leaf else rt

/-- A coherent page of device memory (R236). -/
def coherent (pa leaf : Nat) : Bool := isDevice pa && !eNc leaf

/-- Request type after the default, on a store: RO acts as WT (R218). -/
def storeType (rt leaf : Nat) : Nat := if effType rt leaf = 4 then 1 else effType rt leaf

/-- An operation's accesses are of the CORE path and still hold later ones up (R246, R253). -/
def holdsOrder (o : Op) : Bool := o.kind = .load || o.kind = .uload || o.kind = .store || o.kind = .atom

/-- An earlier access of a lane to some byte of a range has not taken effect yet (R246, R253): one in flight, or a write to a peer that
is not acknowledged. -/
def laneConflict (s : State) (gid lane pa n : Nat) : Bool :=
  (s.ops.any fun e => e.2.gang == gid && holdsOrder e.2 && e.2.accesses.any fun a =>
    !a.done && (a.lane == lane || (e.2.kind = .uload && hasBit e.2.lanes lane)) && a.rt != 4 && overlap a.pa a.size pa n) ||
  (s.peers.any fun e => !isRead e.2.ask && e.2.gang == gid && e.2.lane == lane && overlap e.2.addr (askSize e.2.ask) pa n)

/-- Some access of an instruction has to follow an earlier one of its lane; a read through the read-only path does not. -/
def anyConflict (s : State) (gid : Nat) (as : List LaneAccess) : Bool :=
  as.any fun a => a.rt != 4 && laneConflict s gid a.lane a.pa a.size

/-- Dirty bytes of a range that stand in the way of an access that the L1 does not serve go ahead of it (R246): to the home slice, or from
a page that is not coherent by an eviction (R236). -/
def clearWay (s : State) (core leaf pa n : Nat) : State :=
  if coherent pa leaf then writeBackRange s core pa n
  else if (dirtyIn s core (fun w => w.kind != .own) (wordsOf pa n)).isEmpty then s
  else dropClean (writeBackRange s core pa n) core (wordsOf pa n)

/-- The L1 serves a read of a request type (R226, R227): not a UC one, and an OWN one on a coherent page only under its span. -/
def l1Serves (s : State) (core t leaf pa n : Nat) : Bool :=
  t != 3 && l1Hits s core pa n && (t != 0 || !coherent pa leaf || ownedHere s core pa n)

/-- Types that allocate in the L1 (R227). -/
def allocates (t : Nat) : Bool := t = 0 || t = 1 || t = 2

/-- Lane values of a load satisfied without waiting for a home slice or a peer: read-only cache, L1 hit, NC page, host memory, P line (R227,
R236, R237, R255). A UC or ST read leaves no older clean copy of its bytes in the L1, since the core's reads do not go backwards (R246). -/
def loadNow (s : State) (core ctx t leaf pa n : Nat) : State × Option Nat :=
  let who := { whoLeaf core ctx leaf with rt := t }
  let die := dieOf core
  if t = 4 then
    if isPeer pa && (roFind s core (pa / 128)).isNone && !hasP s die (pa / 128) then (s, none)
    else
      let r := roRead s who core ctx pa n
      (r.1, some (ofBytes r.2))
  else if l1Serves s core t leaf pa n then (s, some (l1Read s core pa n))
  else if isPeer pa then
    if hasP s die (pa / 128) then
      let s := touchP s die ctx (pa / 128)
      let s := if allocates t then l1Fill s core ctx pa n .si else dropClean s core (wordsOf pa n)
      (s, some (readMem s.mem (copyAt die pa) n))
    else (s, none)
  else if coherent pa leaf then (if t = 0 then s else clearWay s core leaf pa n, none)
  else
    let s := clearWay s core leaf pa n
    let s := if isDevice pa then ncRequest s who true pa n else hostSend s ctx .read pa n
    let s := if allocates t then l1Fill s core ctx pa n (if isDevice pa then .nc else .si) else dropClean s core (wordsOf pa n)
    (s, some (readMem s.mem pa n))

/-- A request of a lane queued at a line's home slice (R231). -/
def askHome (s : State) (pa n : Nat) (r : HomeReq) : State :=
  let sp := wordSpan pa n
  askLine s (pa / 128) { r with first := sp.1, len := sp.2 }

/-- Parts in which an access reaches a peer: a quadword goes as its two halves (R219, R400). -/
def peerParts (pa n : Nat) : List (Nat × Nat) := if n = 16 then [(pa, 8), (pa + 8, 8)] else [(pa, n)]

/-- A lane's read of a peer sent (R398, R400): the words of its span, or the whole line for the read-only cache, asked for once for all lanes
of the load (R408). The number of requests whose answers the lane awaits is returned. -/
def askPeerLane (s : State) (op gid core ctx : Nat) (a : LaneAccess) : State × Nat :=
  if a.rt = 4 then
    let ln := a.pa / 128 * 128
    (if s.peers.any fun e => e.2.op == op && e.2.fill == 2 && e.2.addr == ln then s else askPeer s op a.lane ctx ln 128 gid core a.va 2, 1)
  else
    let ps := peerParts a.pa a.size
    (ps.foldl (fun s x => askPeer s op a.lane ctx (x.1 / 4 * 4) (4 * (wordSpan x.1 x.2).2) gid core (a.va + (x.1 - a.pa))
      (if allocates a.rt then 1 else 0)) s, ps.length)

/-- One lane of a load: its value now, or a request under way at home or at the peer. -/
def loadLane (s : State) (op gid core ctx : Nat) (a : LaneAccess) : State × LaneAccess × Nat :=
  let r := loadNow s core ctx a.rt a.leaf a.pa a.size
  match r.2 with
  | some v => (r.1, { a with value := v, done := true }, 0)
  | none =>
    if isPeer a.pa then
      let u := askPeerLane r.1 op gid core ctx a
      (u.1, a, u.2)
    else
      (askHome r.1 a.pa a.size
        { op := op, lane := a.lane, kind := if a.rt = 0 then .own else .read, core := core, die := dieOf core, ctx := ctx,
          first := 0, len := 0, pin := ePin a.leaf, rt := a.rt, bytes := [], bad := [], gang := gid }, a, 1)

/-- The lanes of an operation started in ascending order. -/
def startLanes (s : State) (op gid core ctx : Nat) (as : List LaneAccess)
    (f : State → Nat → Nat → Nat → Nat → LaneAccess → State × LaneAccess × Nat) : State × List LaneAccess × Nat :=
  as.foldl (fun (acc : State × List LaneAccess × Nat) a =>
    let r := f acc.1 op gid core ctx a
    (r.1, acc.2.1 ++ [r.2.1], acc.2.2 + r.2.2)) (s, [], 0)

/-- An operation placed in flight under its number. -/
def putOp (s : State) (k : Nat) (o : Op) : State := { s with ops := aSet k o s.ops }

/-- Accesses of the lanes that passed. -/
def accessesOf (outs : List (Nat × LaneOut)) (n rt : Nat) (typ : Nat → Nat → Nat) (va value : Nat → Nat) : List LaneAccess :=
  (passLanes outs).map fun x =>
    { lane := x.1, va := va x.1, pa := x.2.1, size := n, value := value x.1, done := false, rt := typ rt x.2.2, leaf := x.2.2 }

/-- Accesses with those of one line together, in the order of the lines' first lanes: a load on the read-only path reads all its words of a
line from one copy (R408). -/
def byLine (as : List LaneAccess) : List LaneAccess :=
  (uniq (as.map fun a => a.pa / 128)).flatMap fun ln => as.filter fun a => a.pa / 128 == ln

/-- The lanes of a load started: line by line where some read through the read-only cache, else ascending. -/
def startLoad (s : State) (op gid core ctx : Nat) (as : List LaneAccess) : State × List LaneAccess × Nat :=
  if as.any fun a => a.rt = 4 then
    let r := startLanes s op gid core ctx (byLine as) loadLane
    (r.1, sortBy (·.lane) r.2.1, r.2.2)
  else startLanes s op gid core ctx as loadLane

/-- Whether a failure of these accesses can still reach the instruction, so that the path waits for them (R401, R406). -/
def remote (as : List LaneAccess) : Bool := as.any fun a => !isDevice a.pa

/-- The instruction's lanes settled once its operation is in flight: a path with remote accesses waits for them (R401). -/
def settleOp (s : State) (p : Nat) (q : Path) (i : Instr) (outs : List (Nat × LaneOut)) (k : Nat) (wait : Bool) : State :=
  if wait then
    let miss := missLanes outs
    let s := modOp s k fun o => { o with failed := failsOf outs }
    let s := if miss.isEmpty then s else parkLanes s p q miss
    match aGet p s.paths with
    | some q' => waitAt s p q' i .home
    | none => s
  else settleLanes s p q i outs

/-- Check 5 of R210 for a load of a request type: in the read-only cache, or where the CORE path reads. -/
def loadPoison (s : State) (q : Path) (rt n : Nat) (s' : State) (pa leaf : Nat) : Option Nat :=
  let t := effType rt leaf
  let core := coreOf s q
  if t = 4 then poisonedRo s' core pa n else poisonedVia (l1Serves s' core t leaf pa n) s' core pa n

/-- A read on the read-only path has to wait for the end of a drop (R409). -/
def roHeld (s : State) (q : Path) (as : List LaneAccess) : Bool := as.any (·.rt == 4) && s.roDrops.contains (coreOf s q)

/-- Vector loads (R217, R218): n bytes into the registers from d; sg is the sign extension. What the load has to wait for is looked at first:
nothing is counted or marked by an issue that waits. -/
def vectorLoad (i : Instr) (off g la rt n : Nat) (s : State) : Out :=
  onPath s fun p q =>
    let va := laneAddr s q g off
    let first := accessesOf (dryLanes s q .read n va) n rt effType va (fun _ => 0)
    if roHeld s q first then waitAt s p q i .roDrop
    else if anyConflict s q.gang first then waitAt s p q i .order
    else
      let c := checkLanes (fun s a => laneCheckBy (loadPoison s q rt n) (fun _ _ _ => none) s q .read a n n) s q va
      let as := accessesOf c.2 n rt effType va (fun _ => 0)
      if as.isEmpty then settleLanes c.1 p q i c.2
      else
        let f := freshId c.1
        let r := startLoad f.2 f.1 q.gang (coreOf s q) (ctxOf s q) as
        let o : Op :=
          { kind := .load, gang := q.gang, ctx := ctxOf s q, path := p, pathLanes := q.lanes, base := baseOf s q,
            lanes := maskOf (as.map (·.lane)), instr := i, count := some .loads, ahead := some la, rt := rt, core := coreOf s q,
            accesses := r.2.1, writes := [], flags := 0, left := r.2.2, failed := [] }
        settleOp (putOp r.1 f.1 o) p q i c.2 f.1 (remote as)

/-- LDW (R217, R218). -/
def execLdw (d o g l t : Nat) (s : State) : Out := vectorLoad (.ldw d o g l t) o g l t 4 s
/-- LDD (R217, R218). -/
def execLdd (d o g l t : Nat) (s : State) : Out := vectorLoad (.ldd d o g l t) o g l t 8 s
/-- LDQ (R217, R218). -/
def execLdq (d o g l t : Nat) (s : State) : Out := vectorLoad (.ldq d o g l t) o g l t 16 s
/-- LDBN (R217, R218). -/
def execLdbn (d o g l : Nat) (s : State) : Out := vectorLoad (.ldbn d o g l) o g l 7 1 s
/-- LDBS (R217, R218). -/
def execLdbs (d o g l : Nat) (s : State) : Out := vectorLoad (.ldbs d o g l) o g l 7 1 s
/-- LDHN (R217, R218). -/
def execLdhn (d o g l : Nat) (s : State) : Out := vectorLoad (.ldhn d o g l) o g l 7 2 s
/-- LDHS (R217, R218). -/
def execLdhs (d o g l : Nat) (s : State) : Out := vectorLoad (.ldhs d o g l) o g l 7 2 s

/-- Destination, registers and extension of a load (R218, R220): first register, registers, bits to sign-extend from. -/
def loadDest (i : Instr) : Nat × Nat × Option Nat :=
  match i with
  | .ldw d _ _ _ _ => (d, 1, none)
  | .ldd d _ _ _ _ => (d, 2, none)
  | .ldq d _ _ _ _ => (d, 4, none)
  | .ldbn d _ _ _ => (d, 1, none)
  | .ldbs d _ _ _ => (d, 1, some 8)
  | .ldhn d _ _ _ => (d, 1, none)
  | .ldhs d _ _ _ => (d, 1, some 16)
  | .lds d _ _ _ sz =>
    match sz with
    | 1 => (d, 1, some 8)
    | 3 => (d, 1, some 16)
    | 5 => (d, 2, none)
    | 6 => (d, 4, none)
    | _ => (d, 1, none)
  | .atom d _ _ _ _ _ _ _ _ _ op => (d, if 13 ≤ op then 2 else 1, none)
  | .atoms d _ _ _ _ _ _ _ _ => (d, 1, none)
  | _ => (0, 1, none)

/-- The registers that a returned access writes (R218). -/
def returnWrites (o : Op) : List (Nat × Nat) :=
  let d := loadDest o.instr
  o.accesses.flatMap fun a =>
    let x := match d.2.2 with
      | some b => wrapInt (sext a.value b) 32
      | none => a.value
    regWrites o.gang a.lane d.1 d.2.1 x

/-- A path that waited for an operation goes on, or meets the fault its lanes met (R211, R401). -/
def resumeAfter (s : State) (k : Nat) (o : Op) : State :=
  match aGet o.path s.paths with
  | some q =>
    if q.wait = .home && q.cur = some o.instr then match failTrap q o.instr o.failed with
      | some t =>
        let all := o.kind = .uload
        takeTrapAt s o.path q (if all then { t with lanes := active q } else t) o.base
      | none => advance s o.path q (sizeOf o.instr)
    else s
  | none => { s with ops := aErase k s.ops }

/-- LOAD_DATA_RETURN (R218, R51): the destinations are written together and the count falls. ULD writes every slice of its path (R147,
R169). -/
def execLoadDataReturn (s : State) : Out :=
  match s.subject with
  | .one k => match aGet k s.ops with
    | some o =>
      if o.left != 0 then .next s
      else
        let s1 := { s with ops := aErase k s.ops }
        match o.kind with
        | .load => .next (resumeAfter { s1 with v := bSetAll s1.v (returnWrites o) } k o)
        | .sample => .next (resumeAfter { s1 with v := bSetAll s1.v o.writes } k o)
        | .uload => match o.instr with
          | .uld d _ _ _ => .next (resumeAfter (match o.accesses.head? with
              | some a => setGs s1 o.gang (slicesOf o.pathLanes) d a.value
              | none => s1) k o)
          | _ => .next s
        | _ => .next s
    | none => .next s
  | _ => .next s

/-- The value a store's lane writes: n bytes from V[d] upward (R218). -/
def storeValue (s : State) (q : Path) (d n l : Nat) : Nat := getRegs s q.gang l d (ceilDiv n 4) % 256 ^ n

/-- Vector stores (R217, R218): the bytes are accepted by STORE_ACCEPT; an OWN store first obtains its span (R227). -/
def vectorStore (i : Instr) (d off g rt n : Nat) (s : State) : Out :=
  onPath s fun p q =>
    let va := laneAddr s q g off
    if anyConflict s q.gang (accessesOf (dryLanes s q .write n va) n rt storeType va (fun _ => 0)) then waitAt s p q i .order
    else
      let c := laneChecks s q .write n n va
      let as := accessesOf c.2 n rt storeType va (storeValue s q d n)
      if as.isEmpty then settleLanes c.1 p q i c.2
      else
        let f := freshId c.1
        let r := startLanes f.2 f.1 q.gang (coreOf s q) (ctxOf s q) as fun s op gid core ctx a =>
          if a.rt = 0 && coherent a.pa a.leaf && !ownedHere s core a.pa a.size && !beaconCovers s a.pa a.size then
            (askHome s a.pa a.size
              { op := op, lane := a.lane, kind := .own, core := core, die := dieOf core, ctx := ctx, first := 0, len := 0,
                pin := ePin a.leaf, rt := 0, bytes := [], bad := [], gang := gid }, a, 1)
          else (s, a, 0)
        let o : Op :=
          { kind := .store, gang := q.gang, ctx := ctxOf s q, path := p, pathLanes := q.lanes, base := baseOf s q,
            lanes := maskOf (as.map (·.lane)), instr := i, count := some .stores, ahead := none, rt := rt, core := coreOf s q,
            accesses := r.2.1, writes := [], flags := 0, left := r.2.2, failed := [] }
        settleLanes (putOp r.1 f.1 o) p q i c.2

/-- STW (R217, R218). -/
def execStw (d o g t : Nat) (s : State) : Out := vectorStore (.stw d o g t) d o g t 4 s
/-- STD (R217, R218). -/
def execStd (d o g t : Nat) (s : State) : Out := vectorStore (.std d o g t) d o g t 8 s
/-- STQ (R217, R218). -/
def execStq (d o g t : Nat) (s : State) : Out := vectorStore (.stq d o g t) d o g t 16 s
/-- STB (R217, R218). -/
def execStb (d o g : Nat) (s : State) : Out := vectorStore (.stb d o g) d o g 7 1 s
/-- STH (R217, R218). -/
def execSth (d o g : Nat) (s : State) : Out := vectorStore (.sth d o g) d o g 7 2 s

/-- A fault of a failed store or command kept for a path of its gang (R295, R401): one for each failed instruction. -/
def pendFault (s : State) (gid order lanes base : Nat) (t : Trap) : State :=
  modGang s gid fun g =>
    if g.faults.any fun f => f.order == order then
      { g with faults := g.faults.map fun f => if f.order == order then { f with lanes := f.lanes ||| lanes } else f }
    else { g with faults := sortBy (·.order) (g.faults ++ [⟨order, lanes, { t with lanes := 0, word := 0, two := false }, base⟩]) }

/-- A write sent on to the home slice of a coherent line (R227). -/
def writeThrough (s : State) (k : Nat) (o : Op) (ctx : Nat) (a : LaneAccess) : State :=
  askHome s a.pa a.size
    { op := k, lane := a.lane, kind := .write, core := o.core, die := dieOf o.core, ctx := ctx, first := 0, len := 0,
      pin := ePin a.leaf, rt := a.rt, bytes := bytesAt a.pa (toBytes a.size a.value), bad := [], gang := o.gang }

/-- OWN spans of the core that a store of another type meets are given up first (R228). -/
def yieldSpans (s : State) (core pa n : Nat) : State :=
  let sp := wordSpan pa n
  recallAll s (pa / 128) ((mapOf (lineAt s (pa / 128)) (pa / 128) core).filter fun x => x.core == core && overlap x.first x.len sp.1 sp.2)

/-- What the L1 keeps of a store that is written through (R227, R237): WT keeps the bytes as a clean copy; UC and ST only change bytes
that are there. -/
def keepStored (s : State) (core ctx : Nat) (a : LaneAccess) (kind : L1Kind) (wt : Bool) : State :=
  let bytes := toBytes a.size a.value
  if wt then l1Put s core ctx kind false (bytesAt a.pa bytes) else l1Update s core ctx a.pa kind bytes

/-- A store to a coherent page accepted (R227): an OWN store in the L1 under its span, obtained again where it was recalled meanwhile,
and as WT where a beacon covers the bytes (R267); an SI store in the L1; WT, UC and ST on their way to the home slice, after dirty bytes that
the core has among theirs (R244). -/
def acceptCoherent (k : Nat) (o : Op) (ctx : Nat) (s : State) (a : LaneAccess) : State :=
  let bytes := bytesAt a.pa (toBytes a.size a.value)
  let s := if a.rt = 0 then
      (if ownedHere s o.core a.pa a.size || beaconCovers s a.pa a.size then s else obtainOwn s o.core ctx (ePin a.leaf) a.pa a.size)
    else s
  if a.rt = 0 && ownedHere s o.core a.pa a.size then l1Put s o.core ctx .own true bytes
  else
    let s := yieldSpans s o.core a.pa a.size
    if a.rt = 2 then l1Put s o.core ctx .si true bytes
    else writeThrough (keepStored (clearWay s o.core a.leaf a.pa a.size) o.core ctx a .si (allocates a.rt)) k o ctx a

/-- One lane of a store to a peer accepted (R237, R400, R401): the bytes of its P line and of the core's L1 copies change, and the write is
sent, a quadword as two; with no port up nothing is written and the lane's fault is kept. -/
def acceptPeer (k : Nat) (o : Op) (ctx : Nat) (s : State) (a : LaneAccess) : State :=
  if outOfReach s a.pa then pendFault (countFailedAccess s) o.gang k (2 ^ a.lane) o.base ⟨cProt, 2 ^ a.lane, 9, 0, false, a.va⟩
  else
    let bytes := toBytes a.size a.value
    let s := keepStored s o.core ctx a .si (allocates a.rt)
    let s := if hasP s (dieOf o.core) (a.pa / 128) then memPut s (copyAt (dieOf o.core) a.pa) bytes else s
    (peerParts a.pa a.size).foldl (fun s x =>
      writePeer s k a.lane ctx x.1 ((bytes.drop (x.1 - a.pa)).take x.2) o.gang o.core (a.va + (x.1 - a.pa))) s

/-- One lane of a store accepted (R227, R236, R237, R400). -/
def acceptLane (k : Nat) (o : Op) (ctx : Nat) (s : State) (a : LaneAccess) : State :=
  let bytes := toBytes a.size a.value
  if coherent a.pa a.leaf then acceptCoherent k o ctx s a
  else if isDevice a.pa then
    if a.rt = 0 || a.rt = 2 then l1Put s o.core ctx .nc true (bytesAt a.pa bytes)
    else
      let s := clearWay s o.core a.leaf a.pa a.size
      let s := ncRequest s { whoLeaf o.core ctx a.leaf with rt := a.rt } false a.pa a.size
      memPut (keepStored s o.core ctx a .nc (a.rt = 1)) a.pa bytes
  else if isPeer a.pa then acceptPeer k o ctx s a
  else memPut (hostSend (keepStored s o.core ctx a .si (allocates a.rt)) ctx .write a.pa a.size) a.pa bytes

/-- An earlier store or atomic that this one has to follow: of the same lanes (R253), or of the same issue, which a replayed access
follows (R215). -/
def opBlocked (s : State) (k : Nat) (o : Op) : Bool :=
  s.ops.any fun e => e.1 < k && e.2.gang == o.gang && (e.2.kind = .store || e.2.kind = .atom) &&
    (e.2.lanes &&& o.lanes != 0 || e.2.instr == o.instr)

/-- A store or an atomic of a context that has still to be sent to one of these host pages (R405). -/
def stillToSend (c : Nat) (targets : List Nat) (o : Op) : Bool :=
  o.ctx == c && (o.kind = .store || o.kind = .atom) &&
    o.accesses.any fun a => isHost a.pa && !a.done && targets.contains ((a.pa - hostBase) / 4096 * 4096)

/-- The completions of ATS invalidations are sent once every request that used the dropped translations has been sent (R405). -/
def sendInvalDone (s : State) : State :=
  let due (v : Invalidation) : Bool := !(s.ops.any fun e => stillToSend v.ctx v.targets e.2)
  { s with invals := s.invals.filter fun v => !due v,
           invalDone := s.invalDone ++ (s.invals.filter due).map fun v => (v.ctx, v.page) }

/-- STORE_ACCEPT (R51): the lanes' bytes are accepted in ascending lane order, so the higher lane's lie later (R215). -/
def execStoreAccept (s : State) : Out :=
  match s.subject with
  | .one k => match aGet k s.ops with
    | some o =>
      if o.left != 0 || o.kind != .store || opBlocked s k o then .next s
      else
        let ctx := o.ctx
        let t := o.accesses.foldl (acceptLane k o ctx) s
        .next (sendInvalDone { t with ops := aErase k t.ops })
    | none => .next s
  | _ => .next s

/-- ULD (R186): one 8-byte load for the whole path, which waits whole for service. What it has to follow is looked at first. -/
def execUld (d a l t : Nat) (s : State) : Out :=
  onPath s fun p q =>
    let i := Instr.uld d a l t
    let va := getG s q a
    let acc (pa leaf : Nat) : LaneAccess :=
      { lane := 0, va := va, pa := pa, size := 8, value := 0, done := false, rt := effType t leaf, leaf := leaf }
    let first := match laneDry s q .read va 8 with
      | .pass pa leaf => [acc pa leaf]
      | _ => []
    if roHeld s q first then waitAt s p q i .roDrop
    else if (lanesOf (active q)).any fun l => anyConflict s q.gang (first.map fun x => { x with lane := l }) then waitAt s p q i .order
    else
      let r := laneCheckBy (loadPoison s q t 8) (fun _ _ _ => none) s q .read va 8 8
      match r.2 with
      | .miss page host _ => waitAt r.1 p q i (.service [pageKey page host])
      | .fail _ code detail addr => trapAll r.1 p q i code detail addr
      | .pass pa leaf =>
        let f := freshId r.1
        let u := startLanes f.2 f.1 q.gang (coreOf s q) (ctxOf s q) [acc pa leaf] loadLane
        let o : Op :=
          { kind := .uload, gang := q.gang, ctx := ctxOf s q, path := p, pathLanes := q.lanes, base := baseOf s q, lanes := active q,
            instr := i, count := some .loads, ahead := some l, rt := t, core := coreOf s q, accesses := u.2.1, writes := [], flags := 0,
            left := u.2.2, failed := [] }
        let s := putOp u.1 f.1 o
        if isDevice pa then advance s p q 1 else waitAt s p q i .home

/-- Size in bytes of a scratchpad size code (R220). -/
def scratchSize (code : Nat) : Nat :=
  match code with
  | 0 => 1
  | 1 => 1
  | 2 => 2
  | 3 => 2
  | 5 => 8
  | 6 => 16
  | _ => 4

/-- Bytes of a workgroup's addressable scratchpad (R221). -/
def scratchBytes (s : State) (q : Path) : Nat := ((descOf s q).map fun d => d.scratch + 128 * d.raySlots).getD 0

/-- Place of a scratchpad byte. -/
def scratchKey (wg a : Nat) : Nat := wg * 2 ^ 18 + a

/-- A lane's scratchpad offset (R221): signed, before its checks. -/
def scratchAddr (s : State) (q : Path) (g off l : Nat) : Int :=
  (bits (getG s q g) 17 0 : Nat) + (if off = 127 then 0 else sext (getV s q.gang l off) 32)

/-- Address of the first byte of a scratchpad range in a poisoned unit (R28, R112). -/
def poisonedScratch (s : State) (wg a n : Nat) : Option Nat :=
  (List.range n).findSome? fun i => if s.poison.contains (.scratch wg ((a + i) / 8)) then some (a + i) else none

/-- ALIGN before SCRATCH for one scratchpad access (R221), and MCHECK on a poisoned unit that is loaded, which is check 5 of R210 and so
comes before SCRATCH among the lanes (R28, R211). -/
def scratchCheck (s : State) (q : Path) (load : Bool) (n : Nat) (a : Int) : LaneOut :=
  if a % (n : Int) != 0 then .fail 2 cAlign 0 (wrapInt a 64)
  else if a < 0 || (scratchBytes s q : Int) < a + n then .fail 7 cScratch 0 (wrapInt a 64)
  else match if load then poisonedScratch s (wgIdOf s q) a.toNat n else none with
    | some b => .fail 5 cMCheck 0 b
    | none => .pass a.toNat 0

/-- The checks of every active lane of a scratchpad access. -/
def scratchChecks (s : State) (q : Path) (load : Bool) (g off n : Nat) : List (Nat × LaneOut) :=
  (lanesOf (active q)).map fun l => (l, scratchCheck s q load n (scratchAddr s q g off l))

/-- n bytes of a workgroup's scratchpad. -/
def scratchRead (s : State) (wg a n : Nat) : Nat := readMem s.scratch (scratchKey wg a) n

/-- Bytes stored in a workgroup's scratchpad; poison of units covered whole is cleared (R221). -/
def scratchWrite (s : State) (wg a : Nat) (bytes : List Nat) : State :=
  { s with scratch := writeMem s.scratch (scratchKey wg a) bytes,
           poison := s.poison.filter fun e => match e with
             | .scratch w u => !(w == wg && a ≤ 8 * u && 8 * u + 8 ≤ a + bytes.length)
             | _ => true }

/-- LDS (R220, R221): the whole-path check of the base, then the lanes. -/
def execLds (d o g l sz : Nat) (s : State) : Out :=
  onPath s fun p q =>
    let i := Instr.lds d o g l sz
    if bits (getG s q g) 63 18 != 0 then trapAll s p q i cScratch 0 (getG s q g)
    else
      let n := scratchSize sz
      let outs := scratchChecks s q true g o n
      let as := accessesOf outs n 0 (fun _ _ => 3) (fun _ => 0) (fun _ => 0)
      let as := as.map fun a => { a with value := scratchRead s (wgIdOf s q) a.pa n, done := true }
      let f := freshId s
      let op : Op :=
        { kind := .load, gang := q.gang, ctx := ctxOf s q, path := p, pathLanes := q.lanes, base := baseOf s q, lanes := maskOf (as.map (·.lane)), instr := i, count := some .loads,
          ahead := some l, rt := 3, core := coreOf s q, accesses := as, writes := [], flags := 0, left := 0, failed := [] }
      settleLanes (if as.isEmpty then s else putOp f.2 f.1 op) p q i outs

/-- STS (R220, R221): lanes store in ascending order at issue, which is the workgroup's issue order (R252). -/
def execSts (d o g sz : Nat) (s : State) : Out :=
  onPath s fun p q =>
    let i := Instr.sts d o g sz
    if bits (getG s q g) 63 18 != 0 then trapAll s p q i cScratch 0 (getG s q g)
    else
      let n := scratchSize sz
      let outs := scratchChecks s q false g o n
      let s' := (passLanes outs).foldl (fun s' x =>
        scratchWrite s' (wgIdOf s q) x.2.1 (toBytes n (storeValue s q d n x.1))) s
      settleLanes s' p q i outs

/-- AADDX and AADDXD on a memory residue cell (R96): the cell after, and the flags. -/
def cellAdd (f : Fmt) (old x : Nat) : Nat × Nat :=
  match unpack f x with
  | .fin neg m e =>
    let r := addPartial (sext (bits old 127 112) 16) old (FVal.dyadic (.fin neg m e))
    (r.1, if r.2 then flagNX else 0)
  | _ => (old, flagNV)

/-- Value an atomic stores, and its flags (R261): old, x = V[b], y = V[c]. -/
def atomNew (op old x y : Nat) : Nat × Nat :=
  match op with
  | 0 => ((old + x) % 2 ^ 32, 0)
  | 1 => (if slt 32 x old then x else old, 0)
  | 2 => (if slt 32 old x then x else old, 0)
  | 3 => (Nat.min old x, 0)
  | 4 => (Nat.max old x, 0)
  | 5 => (old &&& x, 0)
  | 6 => (old ||| x, 0)
  | 7 => (old ^^^ x, 0)
  | 8 => (x, 0)
  | 9 => (if old = y then x else old, 0)
  | 10 => fpAdd f32 0 old x
  | 11 => cellAdd f32 old x
  | 12 => cellAdd f64 old x
  | 13 => ((old + x) % 2 ^ 64, 0)
  | 14 => (x, 0)
  | _ => (if old = y then x else old, 0)

/-- The core of a gang. -/
def coreOfGang (s : State) (gid : Nat) : Nat := (((aGet gid s.gangs).bind (wgOf s)).bind (·.core)).getD 0

/-- Earlier loads and atomics of lanes have returned: what an acquire waits for (R253). -/
def loadsReady (s : State) (gid lanes : Nat) : Bool :=
  !(s.ops.any fun e => e.2.gang == gid && e.2.lanes &&& lanes != 0 && (e.2.kind = .load || e.2.kind = .uload || e.2.kind = .atom))

/-- A write of a core queued at a line's home slice that a release at a scope waits for (R257): at WG scope UC and ST stores; at CLUSTER and DIE
what crosses no die link (R396); at DEVICE and SYSTEM every one; at any scope the write-backs of a CFLUSH (R242). -/
def releaseWrite (core scope ln : Nat) (r : HomeReq) : Bool :=
  r.kind = .write && r.core == core &&
    ((r.op = 0 && r.rt = 3) || (if scope = 0 then r.rt = 3 || r.rt = 5 else 3 ≤ scope || homeDie (ln * 128) = dieOf core))

/-- The memory part of a release by lanes of a gang is done (R257): loads returned, stores accepted, what is on its way to a home slice served
there, and at SYSTEM peer writes acknowledged. Writes that the lanes may have observed in their core's L1, or in their die's P lines, count as
their own (R250). -/
def releaseReady (s : State) (gid lanes scope : Nat) : Bool :=
  let core := coreOfGang s gid
  !(s.ops.any fun e => e.2.gang == gid && e.2.lanes &&& lanes != 0 &&
      (e.2.kind = .load || e.2.kind = .uload || e.2.kind = .store || e.2.kind = .atom || e.2.kind = .sample)) &&
  !(s.lines.any fun e => e.2.queue.any (releaseWrite core scope e.1)) &&
  (scope != 4 || !(s.peers.any fun e => dieOf e.2.core == dieOf core && !isRead e.2.ask))

/-- What ends in an acquire begins once the path's earlier loads and atomics have returned (R253). -/
def afterLoads (s : State) (p : Nat) (q : Path) (i : Instr) (then_ : State) : State :=
  if loadsReady s q.gang q.lanes then then_ else waitAt s p q i .fence

/-- The write-backs of a release (R257): none at WG scope. -/
def releaseCore (s : State) (scope core : Nat) : State := if scope = 0 then s else flushDirtySi s core

/-- Order codes with a release part and with an acquire part (R65, R248). -/
def hasRelease (order : Nat) : Bool := order != 0
def hasAcquire (order : Nat) : Bool := order != 1

/-- Ops that host and peer memory accept (R263). -/
def remoteAtomic (op : Nat) : Bool := op = 0 || op = 8 || op = 9 || 13 ≤ op

/-- Operand registers of an atomic: a pair for the 64-bit ops and AADDXD (R261). -/
def atomOperand (s : State) (q : Path) (op r l : Nat) : Nat := if 12 ≤ op then getPair s q.gang l r else getV s q.gang l r

/-- Request type of an atomic (R263): DEF, whatever the page's default, goes to the home slice as WT does. -/
def atomType (rt _leaf : Nat) : Nat := if rt = 7 then 1 else rt

/-- An atomic is performed in the L1 (R263, R267): an OWN one on a coherent page, but for a residue cell and for bytes under a beacon. -/
def atomOwn (s : State) (opc t leaf pa n : Nat) : Bool := coherent pa leaf && t = 0 && opc != 11 && opc != 12 && !beaconCovers s pa n

/-- An operation of an atomic, its operands packed in each lane's entry of writes: x below 2^64, y above. -/
def atomOp (s : State) (p : Nat) (q : Path) (i : Instr) (l nr t : Nat) (as : List LaneAccess) (wr : List (Nat × Nat)) (left : Nat)
    (failed : List (Nat × Nat × Nat × Nat × Nat)) : Op :=
  { kind := .atom, gang := q.gang, ctx := ctxOf s q, path := p, pathLanes := q.lanes, base := baseOf s q, lanes := maskOf (as.map (·.lane)),
    instr := i, count := some (if nr = 1 then .stores else .loads), ahead := if nr = 1 then none else some l, rt := t, core := coreOf s q,
    accesses := as, writes := wr, flags := 0, left := left, failed := failed }

/-- A lane's operands as an operation of an atomic holds them. -/
def atomArgs (wr : List (Nat × Nat)) (lane : Nat) : Nat × Nat :=
  let w := ((wr.find? fun w => w.1 == lane).map (·.2)).getD 0
  (w % 2 ^ 64, w / 2 ^ 64)

/-- ATOM (R260 to R263): the whole path waits for translation; a release part holds it until done; the lanes are performed by
ATOMIC_PERFORMED in ascending order. The path waits for an acquire part and for remote answers. Nothing is counted or marked by an issue
that waits. -/
def execAtom (d o g l t nr c b r sc op : Nat) (s : State) : Out :=
  onPath s fun p q =>
    let i := Instr.atom d o g l t nr c b r sc op
    let n := atomSize op
    let va := laneAddr s q g o
    let dry := dryLanes s q .atomic n va
    if !(missLanes dry).isEmpty then waitAt (askMissing s q .atomic dry) p q i (.service (uniq ((missLanes dry).map (·.2.2))))
    else if (hasRelease r && !releaseReady s q.gang q.lanes sc) || (hasAcquire r && !loadsReady s q.gang q.lanes) then waitAt s p q i .fence
    else if anyConflict s q.gang (accessesOf dry n t atomType va (fun _ => 0)) then waitAt s p q i .order
    else
      let core := coreOf s q
      let s1 := if hasRelease r then releaseCore s sc core else s
      let s1 := if r = 3 then acquire s1 sc core (ctxOf s q) else s1
      let poison (s : State) (pa leaf : Nat) : Option Nat :=
        if isDevice pa then poisonedVia (atomOwn s op (atomType t leaf) leaf pa n && ownedHere s core pa n) s core pa n else none
      let far (s : State) (pa _leaf : Nat) : Option (Nat × Nat × Nat) :=
        if !isDevice pa && !remoteAtomic op then some (6, cProt, 5)
        else if nr != 1 && outOfReach s pa then some (5, cProt, 9)
        else none
      let ck := checkLanes (fun s a => laneCheckBy poison far s q .atomic a n n) s1 q va
      let outs := ck.2
      let s2 := (failsOf outs).foldl (fun s f => if f.2.2.2.1 = 9 then countFailedAccess s else s) ck.1
      let as := accessesOf outs n t atomType va (fun _ => 0)
      if as.isEmpty then settleLanes s2 p q i outs
      else
        let f := freshId s2
        let wr := as.map fun a =>
          (a.lane, atomOperand s q op b a.lane + 2 ^ 64 * (if op = 9 || op = 15 then atomOperand s q op c a.lane else 0))
        let u := startLanes f.2 f.1 q.gang core (ctxOf s q) as fun s op' gid core ctx a =>
          if outOfReach s a.pa then
            (pendFault (countFailedAccess s) gid op' (2 ^ a.lane) (baseOf s q) ⟨cProt, 2 ^ a.lane, 9, 0, false, a.va⟩, a, 0)
          else if isPeer a.pa then
            (atomPeer s op' a.lane ctx a.pa op (atomArgs wr a.lane).1 (atomArgs wr a.lane).2 (nr = 1) gid core a.va, a, 1)
          else (s, a, 0)
        let s3 := putOp u.1 f.1 (atomOp s p q i l nr t u.2.1 wr u.2.2 (failsOf outs))
        if remote as || hasAcquire r then waitAt s3 p q i .home else settleLanes s3 p q i outs

/-- One lane of an atomic performed where R263 says: in the L1 with exclusive ownership, at the home slice, or at the host. Performed outside
the L1, it follows what its core and earlier requests have for the bytes, and leaves no older copy in the L1 (R246). -/
def performLane (o : Op) (ctx opc : Nat) (x y : Nat) (s : State) (a : LaneAccess) : State × Nat × Nat :=
  let who := { whoLeaf o.core ctx a.leaf with rt := a.rt }
  let own := atomOwn s opc a.rt a.leaf a.pa a.size
  let held (s : State) : Bool := ownedHere s o.core a.pa a.size && l1Has s o.core a.pa a.size
  let s := if own && !held s then obtainOwn s o.core ctx (ePin a.leaf) a.pa a.size else s
  if own && held s then
    let old := l1Read s o.core a.pa a.size
    let r := atomNew opc old x y
    (l1Put s o.core ctx .own true (bytesAt a.pa (toBytes a.size r.1)), old, r.2)
  else
    let s := clearWay (yieldSpans s o.core a.pa a.size) o.core a.leaf a.pa a.size
    let s := if coherent a.pa a.leaf then homeOpen s who a.pa a.size
      else if isDevice a.pa then ncRequest s who false a.pa a.size
      else hostSend s ctx .atomic a.pa a.size
    let s := dropClean s o.core (wordsOf a.pa a.size)
    let old := readMem s.mem a.pa a.size
    let r := atomNew opc old x y
    (memPut s a.pa (toBytes a.size r.1), old, r.2)

/-- ATOMIC_PERFORMED (R262): every lane in ascending order, the flags merged as each is performed, the old values returned, and
the acquire part. Peer lanes were performed at the peer (R400). -/
def execAtomicPerformed (s : State) : Out :=
  match s.subject with
  | .one k => match aGet k s.ops with
    | some o => match o.instr with
      | .atom _ _ _ _ _ nr _ _ r sc op =>
        if o.left != 0 || opBlocked s k o then .next s
        else
          let ctx := o.ctx
          let res := o.accesses.foldl (fun (acc : State × List LaneAccess) a =>
            if isPeer a.pa then (acc.1, acc.2 ++ [a])
            else
              let w := atomArgs o.writes a.lane
              let u := performLane o ctx op w.1 w.2 acc.1 a
              (mergeFlagsIn u.1 o.gang o.pathLanes u.2.2, acc.2 ++ [{ a with value := u.2.1, done := true }]))
            ({ s with ops := aErase k s.ops }, [])
          let s1 := res.1
          let o' := { o with accesses := res.2 }
          let s2 := if nr = 1 then s1 else { s1 with v := bSetAll s1.v (returnWrites o') }
          let s3 := if hasAcquire r then acquire s2 sc o.core ctx else s2
          .next (sendInvalDone (resumeAfter s3 k o'))
      | _ => .next s
    | none => .next s
  | _ => .next s

/-- ATOMS (R264): ops 0 to 9 on the scratchpad, performed at issue in the workgroup's issue order (R252), lanes ascending; the
values return with LOADS. A release at WG scope waits for the path's earlier accesses, an acquire for its loads (R253). -/
def execAtoms (d o g l nr c b r op : Nat) (s : State) : Out :=
  onPath s fun p q =>
    let i := Instr.atoms d o g l nr c b r op
    if bits (getG s q g) 63 18 != 0 then trapAll s p q i cScratch 0 (getG s q g)
    else if (hasRelease r && !releaseReady s q.gang q.lanes 0) || (hasAcquire r && !loadsReady s q.gang q.lanes) then waitAt s p q i .fence
    else
      let outs := scratchChecks s q true g o 4
      let as := accessesOf outs 4 0 (fun _ _ => 3) (fun _ => 0) (fun _ => 0)
      let res := as.foldl (fun (acc : State × List LaneAccess) a =>
        let old := scratchRead acc.1 (wgIdOf s q) a.pa 4
        let new := (atomNew op old (getV s q.gang a.lane b) (getV s q.gang a.lane c)).1
        (scratchWrite acc.1 (wgIdOf s q) a.pa (toBytes 4 new), acc.2 ++ [{ a with value := old, done := true }])) (s, [])
      let f := freshId res.1
      let op' : Op :=
        { kind := .load, gang := q.gang, ctx := ctxOf s q, path := p, pathLanes := q.lanes, base := baseOf s q, lanes := maskOf (as.map (·.lane)), instr := i, count := some .loads,
          ahead := some l, rt := 3, core := coreOf s q, accesses := res.2, writes := [], flags := 0, left := 0, failed := [] }
      settleLanes (if nr = 1 || as.isEmpty then res.1 else putOp f.2 f.1 op') p q i outs

end Sys2Proof.Machine
end

