-- ==== Sys2Proof/Machine/Sync.lean ====
section
/-! DEFINITION. FENCE and FENCEX (R256 to R259), CFLUSH and PREF (R241 to R243), WAITC and its beacons (R265 to R267). -/

namespace Sys2Proof.Machine

/-- FENCE (R257): the path is held until the release part is done, and for an acquire until its earlier loads and atomics have returned
(R253); then the write-backs, the drops, and the path goes on. -/
def execFence (o e : Nat) (s : State) : Out :=
  onPath s fun p q =>
    if hasRelease o && !releaseReady s q.gang q.lanes e then waitAt s p q (.fence o e) .fence
    else if hasAcquire o && !loadsReady s q.gang q.lanes then waitAt s p q (.fence o e) .fence
    else
      let s := if hasRelease o then releaseCore s e (coreOf s q) else s
      advance (if hasAcquire o then acquire s e (coreOf s q) (ctxOf s q) else s) p q 1

/-- Access paths (R65). -/
def pathCore : Nat := 0
def pathRo : Nat := 1
def pathCopy : Nat := 2
def pathMat : Nat := 3
def pathPix : Nat := 4
def pathRay : Nat := 5

/-- A command of the matrix, chain or step path that writes memory or scratchpad (R258). -/
def matWrites : CmdBody → Bool
  | .drain _ _ _ _ _ _ _ => true
  | .chain _ _ => true
  | .stepEnd => true
  | .mjob _ card _ _ _ => card.step
  | _ => false

/-- A command issued by lanes of a gang. -/
def issuedBy (gid lanes : Nat) (c : Cmd) : Bool := c.owners.any fun o => o.1 == gid && o.2.2 &&& lanes != 0

/-- A path of an engine or lantern, which reads and writes at the home slices (R254). -/
def enginePath (path : Nat) : Bool := path = pathCopy || path = pathMat || path = pathPix || path = pathRay

/-- The release side of FENCEX for a path is done (R258): its accesses, and what the lanes have observed (R250), are performed at the
scope. -/
def pathReleased (s : State) (q : Path) (path scope : Nat) : Bool :=
  if path = pathCore then releaseReady s q.gang q.lanes scope
  else (!enginePath path || releaseReady s q.gang 0 scope) &&
    if path = pathCopy then !(s.cmds.any fun e => issuedBy q.gang q.lanes e.2 && isCopy e.2.body)
    else if path = pathMat then !(s.cmds.any fun e => issuedBy q.gang q.lanes e.2 && matWrites e.2.body)
    else if path = pathPix then
      !(s.targets.any fun e => e.2.entries.any fun o => o.gang == q.gang && hasBit q.lanes o.lane && o.frag.isSome)
    else if path = pathRay then !(s.pubs.any fun x => x.gang == q.gang && x.lanes &&& q.lanes != 0)
    else true

/-- The acquire side of FENCEX for a path (R258, R259, R409). Reads of a peer that the read-only cache has in flight looked up their lines
before the drop: what they bring is not kept. -/
def pathAcquire (s : State) (q : Path) (path scope : Nat) : State :=
  let core := coreOf s q
  if path = pathCore then acquire s scope core (ctxOf s q)
  else if path = pathRo then
    { unkeep (roDrop s (fun x => x.core == core)) (fun r => r.core == core && r.fill == 2) with
             roDrops := if s.roDrops.contains core then s.roDrops else s.roDrops ++ [core] }
  else if path = pathRay then { s with nodes := s.nodes.filter fun x => x.core != core }
  else s

/-- Scope at which one side of a FENCEX acts on the L1: engines stand at the home slices, so that between them and the CORE path even WG scope
writes back and drops SI copies (R254, R258). -/
def sideScope (other scope : Nat) : Nat := if enginePath other then Nat.max scope 1 else scope

/-- FENCEX (R258). After an engine's accesses the copies that the core's L1 keeps are older, also where the read-only cache would take them for
its fills (R255). -/
def execFencex (a b e : Nat) (s : State) : Out :=
  onPath s fun p q =>
    let i := Instr.fencex a b e
    if !pathReleased s q a (if a = pathCore then sideScope b e else e) then waitAt s p q i .fence
    else if b = pathCore && !loadsReady s q.gang q.lanes then waitAt s p q i .fence
    else
      let s := if a = pathRo || a = 6 then s else releaseCore s (if a = pathCore then sideScope b e else e) (coreOf s q)
      let s := if b = pathRo && enginePath a then pathAcquire s q pathCore (sideScope a e) else s
      advance (pathAcquire s q b (if b = pathCore then sideScope a e else e)) p q 1

/-- A line's dirty bytes in an L1 written back as a CFLUSH's, and its OWN spans released: what was owned stays as a clean SI copy (R241
code 1, R242). -/
def cleanLine (s : State) (core ln : Nat) : State :=
  let words := spanWords ln 0 32
  let own := dirtyIn s core (fun w => w.kind = .own) words
  let s := putBack (writeBackAs 3 s core ln words) own (badUnits s core own)
  let release (m : AMap L1Word) (a : Nat) : AMap L1Word :=
    aMod (l1Key core a) (fun w => if w.kind = .own then { w with dirty := 0, unit := 0, kind := .si } else w) m
  let s := { s with l1 := words.foldl release s.l1 }
  let l := lineAt s ln
  setLine s ln { l with spans := l.spans.filter (fun x => x.core != core), proxy := l.proxy.filter fun x => x.core != core }

/-- A line dropped from its home slice, every replica, owned copy and P copy, once what is on its way to the home slice has been served
(R241 code 5). -/
def dropEverywhere (s : State) (ln : Nat) : State :=
  let s := settleLine s ln
  let s := recallAll s ln (lineAt s ln).proxy
  let l := lineAt s ln
  let s := setLine s ln { l with dir := .unc, spans := l.spans.filter byCore }
  dropCached s fun x => x.line == ln

/-- CFLUSH on one line (R241, R242): code 1 cleans, 3 and 7 write back and drop, 5 pushes. -/
def flushLine (code core : Nat) (s : State) (ln : Nat) : State :=
  let s := cleanLine s core ln
  if code = 1 then s
  else
    let s := if code = 5 then dropEverywhere s ln else s
    roDrop (dropWords s core (spanWords ln 0 32)) fun x => x.core == core && x.line == ln

/-- CFLUSH (R242): the whole path waits for translation, and for what its lanes have in flight in the lines (R253); the distinct lines of the
lanes that passed, in order. -/
def execCflush (v g t : Nat) (s : State) : Out :=
  onPath s fun p q =>
    let i := Instr.cflush v g t
    let va := laneAddr s q g v
    let lines := (passLanes (dryLanes s q .flush 1 va)).map fun x => (x.1, x.2.1 / 128 * 128)
    if lines.any fun x => laneConflict s q.gang x.1 x.2 128 then waitAt s p q i .order
    else
      let ck := laneChecks s q .flush 1 1 va
      settleWhole ck.1 p q i ck.2 fun s =>
        (uniq ((passLanes ck.2).map fun x => x.2.1 / 128)).foldl (flushLine t (coreOf s q)) s

/-- What PREF does with one line under a request type (R241, R243): 0 asks for ownership of the whole line, 1 and 2 for an SI copy, 3 and 5
for a copy in the shared cache; 4 fills the read-only cache. A peer's line comes by way of the die's proxy slice. Dirty bytes of the L1 stay
where they are. -/
def prefLine (s : State) (core ctx t leaf pa : Nat) : State :=
  let ln := pa / 128
  let t := if t = 5 then 3 else t
  let who := { whoLeaf core ctx leaf with rt := if t = 3 then 6 else t }
  if isPeer pa && !hasP s (dieOf core) ln then
    if outOfReach s pa then s
    else askPeer s 0 prefetchId ctx (ln * 128) 128 0 core 0 (if t = 4 then 2 else if allocates t then 1 else 0)
  else if t = 4 then (roRead s who core ctx pa 1).1
  else if coherent pa leaf then
    askLine s ln { op := 0, lane := 0, kind := if t = 0 then .own else .read, core := core, die := dieOf core, ctx := ctx, first := 0,
                   len := 32, pin := ePin leaf, rt := who.rt, bytes := [], bad := [], gang := 0 }
  else
    let s := if isPeer pa then touchP s (dieOf core) ctx ln
      else if isDevice pa then ncRequest s who true (ln * 128) 128
      else if t = 3 then s
      else hostSend s ctx .read (ln * 128) 128
    if t = 3 then s else l1Fill s core ctx (ln * 128) 128 (if isDevice pa then .nc else .si)

/-- PREF (R243): a lane that meets a check is dropped, and no page is asked for. PREF.RO is a read of the read-only path: during a drop it
waits for its end (R409). -/
def execPref (v g t : Nat) (s : State) : Out :=
  onPath s fun p q =>
    let core := coreOf s q
    let look (s : State) (l : Nat) : State × Option (Nat × Nat) :=
      let r := translate s (ctxOf s q) core q.sup .probe (laneAddr s q g v l) 1
      match r.2 with
      | .ok pa leaf _ =>
        let bad := if effType t leaf = 4 then poisonedRo r.1 core pa 1 else poisonedFor r.1 core pa 1
        (r.1, if permitted q.sup .read leaf && bad.isNone then some (pa, leaf) else none)
      | _ => (r.1, none)
    if s.roDrops.contains core && (lanesOf (active q)).any fun l => ((look s l).2.map fun x => effType t x.2) = some 4 then
      waitAt s p q (.pref v g t) .roDrop
    else
      let s' := (lanesOf (active q)).foldl (fun s' l =>
        let r := look s' l
        match r.2 with
        | some (pa, leaf) => prefLine r.1 core (ctxOf s q) (effType t leaf) leaf pa
        | none => r.1) s
      advance s' p q 1

/-- The oldest armed beacon of a full slice wakes with r false (R267). -/
def overflowBeacons (s : State) (pa : Nat) : State :=
  let mine := s.beacons.filter fun b => b.woken = none && homeSlice b.addr == homeSlice pa
  if Config.beacons ≤ mine.length then match mine.head? with
    | some v => { s with beacons := s.beacons.map fun b => if b == v then { b with woken := some false } else b }
    | none => s
  else s

/-- P[pd] := r in every active lane, the acquire, and the path goes on (R266). The L1 keeps no clean copy of the monitored word older than what
the WAITC saw (R246). -/
def endWaitc (s : State) (p : Nat) (q : Path) (pd scope pa n : Nat) (r : Bool) : State :=
  let s := setPs s q.gang pd ((lanesOf (active q)).map fun l => (l, r))
  advance (acquire (dropClean s (coreOf s q) (wordsOf pa n)) scope (coreOf s q) (ctxOf s q)) p q 2

/-- WAITC (R266): it begins once the path's earlier loads and atomics have returned, since it ends in an acquire (R253). The core's own
dirty bytes of the word go to the home slice first, so that the path's own stores count (R246). -/
def execWaitc (g pd w cond scope gc : Nat) (s : State) : Out :=
  onPath s fun p q =>
    let i := Instr.waitc g pd w cond scope gc
    let addr := getG s q g
    let n := if w = 0 then 4 else 8
    if !loadsReady s q.gang q.lanes then waitAt s p q i .fence
    else if addr % n != 0 then trapAll s p q i cAlign 0 addr
    else
      let core := coreOf s q
      let r := laneCheckBy (fun s pa _ => poisonedVia false s core pa n) (fun _ _ _ => none) s q .read addr n 1
      match r.2 with
      | .miss page host _ => waitAt r.1 p q i (.service [pageKey page host])
      | .fail _ code detail a => trapAll r.1 p q i code detail a
      | .pass pa leaf =>
        if eNc leaf || eLoc leaf != 0 then trapAll r.1 p q i cMonitor 0 addr
        else
          let s1 := (homeRead (writeBackRange r.1 core pa n) (whoLeaf core (ctxOf s q) leaf) pa n).1
          let s1 := overflowBeacons (dropClean s1 core (wordsOf pa n)) pa
          let c := getG s q gc % 256 ^ n
          if wordCond cond n (readMem s1.mem pa n) c then endWaitc s1 p q pd scope pa n true
          else
            let b : Beacon := { path := p, addr := pa, size := n, cond := cond, value := c, woken := none }
            waitAt { s1 with beacons := s1.beacons ++ [b] } p q i (.beacon pd scope)

/-- BEACON_WAKE (R266, R267): a woken path writes P, acquires and goes on, unless pre-emption has stopped it (R158). -/
def execBeaconWake (s : State) : Out :=
  match s.subject with
  | .one p => match s.beacons.find? fun b => b.path == p && b.woken.isSome, aGet p s.paths with
    | some b, some q => match q.wait with
      | .beacon pd scope =>
        .next <| if !waitEnds s q then s else (endWaitc { s with beacons := s.beacons.filter fun x => x.path != p } p q pd scope b.addr b.size (b.woken = some true))
      | _ => .next s
    | _, _ => .next s
  | _ => .next s

end Sys2Proof.Machine
end

