-- ==== Sys2Proof/Machine/Barrier.lean ====
section
/-! DEFINITION. Barriers and batches (R268 to R278, R416): the barrier's state table, gang arrivals, reservations and engine
arrivals, and the instructions and events that use them. -/

namespace Sys2Proof.Machine

/-- The state word of BARQRY (R268). Only COUNT bounds ARRIVED and RES; what they come to past 4,095 in an UNFIXED barrier the manual does not
say: the model counts on, and the word shows the low 12 bits of each (log entry 118). -/
def barrierWord (b : Barrier) : Nat :=
  b.gen * 2 ^ 48 + b.errHist * 2 ^ 40 + b.err.toNat * 2 ^ 39 + b.res % 4096 * 2 ^ 24 + b.arrived % 4096 * 2 ^ 12 + b.count

/-- A barrier of a workgroup stored. -/
def setBarrier (s : State) (wid b : Nat) (x : Barrier) : State :=
  modWg s wid fun w => { w with barriers := setAt w.barriers b x }

/-- Completion of a generation once ARRIVED reaches COUNT (R270); whether it held an engine arrival is kept (R274). -/
def settleBarrier (b : Barrier) : Barrier :=
  if b.count != 0 && b.arrived == b.count then
    { gen := (b.gen + 1) % 65536, errHist := (2 * b.errHist + b.err.toNat) % 256, err := false, res := b.res, arrived := 0,
      count := 0, engine := false, engineHist := (2 * b.engineHist + b.engine.toNat) % 2 ^ 32768 }
  else b

/-- A gang arrival with a count (R270): the barrier after it, or the DETAIL of its BARCOUNT. -/
def gangArrival (b : Barrier) (c : Nat) : Except Nat Barrier :=
  if b.count != 0 && b.count != c then .error 2
  else if c < b.arrived + 1 + b.res then .error 4
  else .ok (settleBarrier { b with count := c, arrived := b.arrived + 1 })

/-- A reservation (R270): none when it does not fit; while COUNT is 0 nothing bounds it (log entry 118). -/
def reservation (b : Barrier) : Option Barrier :=
  if b.count != 0 && b.count < b.arrived + b.res + 1 then none else some { b with res := b.res + 1 }

/-- An engine arrival (R270); ARRIVED is not bounded while COUNT is 0 (log entry 118). -/
def engineArrival (b : Barrier) (failed : Bool) : Barrier :=
  settleBarrier { b with res := b.res - 1, arrived := b.arrived + 1, err := b.err || failed, engine := true }

/-- P of a wait that ends (R273). -/
def barrierResult (b : Barrier) (t : Nat) : Bool :=
  let d := (b.gen + 65536 - t % 65536) % 65536
  decide (d ≤ 8) && !hasBit b.errHist (d - 1)

/-- Scope of the acquire at the end of a wait (R274). -/
def barrierScope (b : Barrier) (t : Nat) : Nat :=
  if hasBit b.engineHist ((b.gen + 65536 - t % 65536) % 65536 - 1) then 3 else 0

/-- The end of a wait on generation t (R273, R274, R276): P, the acquire, and the path goes on. -/
def endBarrierWait (s : State) (p : Nat) (q : Path) (b t pd : Nat) : State :=
  match wgOfPath s q with
  | none => s
  | some w =>
    let x := barrierAt w b
    let s := setPs s q.gang pd ((lanesOf (active q)).map fun l => (l, barrierResult x t))
    let s := acquire s (barrierScope x t) (coreOf s q) (ctxOf s q)
    advance s p { q with barsync := if q.sup then q.barsync else none } 1

/-- The path waits on generation t, or the wait ends at once; a deadlock that this completes is its fault (R272, R273). -/
def waitBarrier (s : State) (p : Nat) (q : Path) (i : Instr) (b t pd : Nat) : State :=
  match wgOfPath s q with
  | none => s
  | some w =>
    if barrierDone (barrierAt w b) t then endBarrierWait s p q b t pd
    else
      let s := waitAt s p q i (.barrier b t pd)
      if barrierDeadlock s (wgIdOf s q) then barrierFault s p 5 else s

/-- The gang-forming wait begins (R272), after release(WG) (R274); errors that it completes are the path's. -/
def formWait (s : State) (p : Nat) (q : Path) (i : Instr) : State :=
  if !releaseReady s q.gang q.lanes 0 then waitAt s p q i .fence
  else
    let s := modGang (waitAt s p q i .form) q.gang fun g => { g with lastForm := some p }
    match gangOf s q with
    | none => s
    | some g =>
      if allForming s q.gang g && !formed s q.gang g then barrierFault s p 3
      else if barrierDeadlock s (wgIdOf s q) then barrierFault s p 5
      else s

/-- BARARR (R276). -/
def execBararr (v g b : Nat) (s : State) : Out := onPath s fun p q => formWait s p q (.bararr v g b)

/-- BARWAIT (R276). -/
def execBarwait (pd g b : Nat) (s : State) : Out :=
  onPath s fun p q =>
    afterLoads s p q (.barwait pd g b) (waitBarrier s p q (.barwait pd g b) b (bits (getG s q g) 15 0) pd)

/-- BARSYNC (R276): a re-issue whose arrival has already taken effect only waits (R416). -/
def execBarsync (pd g b : Nat) (s : State) : Out :=
  onPath s fun p q =>
    let i := Instr.barsync pd g b
    match q.barsync with
    | some (t, a) => if !q.sup && a == wordAddr q.pos then afterLoads s p q i (waitBarrier s p q i b t pd) else formWait s p q i
    | none => formWait s p q i

/-- BARQRY (R276). -/
def execBarqry (v b : Nat) (s : State) : Out :=
  onPath s fun p q =>
    let x := ((wgOfPath s q).map fun w => barrierWord (barrierAt w b)).getD 0
    advance (setG s q v x) p q 1

/-- The gang arrival of a formed gang (R269, R270): its operand is that of the lowest slice that holds a waiting lane. -/
def formArrival (s : State) (gid : Nat) (g : Gang) (w : Workgroup) (b gc : Nat) : Except Nat Barrier :=
  let x := getGs s gid (lowSlice g.live) gc
  if bits x 63 12 != 0 || bits x 11 0 = 0 then .error 1 else gangArrival (barrierAt w b) (bits x 11 0)

/-- The path that a fault of a formed gang goes to (R272). -/
def formFaultPath (s : State) (gid : Nat) (g : Gang) : Option Nat :=
  match g.lastForm with
  | some p => some p
  | none => pathOfLane s gid (lowestBit g.live)

/-- GANG_FORM_COMPLETE (R272, R276): the instruction takes effect once for the gang; BARARR's paths go on, BARSYNC's wait. -/
def execGangFormComplete (s : State) : Out :=
  match s.subject with
  | .one gid => match aGet gid s.gangs with
    | none => .next s
    | some g => match wgOf s g with
      | none => .next s
      | some w =>
        if !formed s gid g || !gangLive s g then .next s
        else
          let mine := s.paths.filter fun e => e.2.gang == gid && e.2.wait = .form
          let fail (detail : Nat) : State := match formFaultPath s gid g with
            | some p => barrierFault s p detail
            | none => s
          match (mine.head?).bind fun e => e.2.cur with
          | some (.bararr v gc b) => match formArrival s gid g w b gc with
            | .error detail => .next (fail detail)
            | .ok x =>
              let t := (barrierAt w b).gen
              let s := setGs (setBarrier s g.wg b x) gid (List.range g.slices.length) v t
              .next (mine.foldl (fun s e => advance s e.1 e.2 1) s)
          | some (.barsync _ gc b) => match formArrival s gid g w b gc with
            | .error detail => .next (fail detail)
            | .ok x =>
              let t := (barrierAt w b).gen
              let s := setBarrier s g.wg b x
              let s := mine.foldl (fun s e => match e.2.cur with
                | some (.barsync pd _ _) =>
                  setPath s e.1 { e.2 with wait := .barrier b t pd, barsync := if e.2.sup then e.2.barsync else some (t, wordAddr e.2.pos) }
                | _ => s) s
              .next (match g.lastForm with
                | some p => if barrierDeadlock s g.wg then barrierFault s p 5 else s
                | none => endDeadlock s g.wg)
          | _ => .next s
  | _ => .next s

/-- BARRIER_WAIT_END (R273, R274). -/
def execBarrierWaitEnd (s : State) : Out :=
  match s.subject with
  | .one p => match aGet p s.paths with
    | some q => match q.wait, wgOfPath s q with
      | .barrier b t pd, some w => .next (if waitEnds s q && barrierDone (barrierAt w b) t then endBarrierWait s p q b t pd else s)
      | _, _ => .next s
    | none => .next s
  | _ => .next s

/-- Whether a command of a gang's batches 1 to k has not completed (R277). -/
def batchPending (s : State) (gid k : Nat) : Bool :=
  s.cmds.any fun e => e.2.owners.any fun o => o.1 == gid && decide (1 ≤ o.2.1) && decide (o.2.1 ≤ k)

/-- BATCH (R278). -/
def execBatch (v : Nat) (s : State) : Out :=
  onPath s fun p q => match gangOf s q with
    | none => s
    | some g =>
      let done (next : Nat) : State :=
        advance (modGang (setG s q v g.openBatch) q.gang fun g => { g with openBatch := next }) p q 1
      if g.openBatch = 0xFFFFFFFF then
        if q.wait != .allBatches && !g.errBatches.isEmpty then trapAll s p q (.batch v) cBarCount 6 0
        else if batchPending s q.gang 0xFFFFFFFF then waitAt s p q (.batch v) .allBatches
        else done 1
      else done (g.openBatch + 1)

/-- The end of a WAITB (R278). -/
def endBatchWait (s : State) (p : Nat) (q : Path) (k pd : Nat) (clr : Bool) : State :=
  let inRange (n : Nat) : Bool := decide (1 ≤ n) && decide (n ≤ k)
  let r := !(((gangOf s q).map (·.errBatches)).getD []).any inRange
  let s := setPs s q.gang pd ((lanesOf (active q)).map fun l => (l, r))
  let s := if clr then modGang s q.gang fun g => { g with errBatches := g.errBatches.filter fun n => !inRange n } else s
  advance (acquire s 3 (coreOf s q) (ctxOf s q)) p q 1

/-- WAITB (R278). -/
def execWaitb (pd g c : Nat) (s : State) : Out :=
  onPath s fun p q =>
    let k := Nat.min (bits (getG s q g) 31 0) (((gangOf s q).map (·.openBatch)).getD 1 - 1)
    afterLoads s p q (.waitb pd g c)
      (if batchPending s q.gang k then waitAt s p q (.waitb pd g c) (.batch k pd (c == 1)) else endBatchWait s p q k pd (c == 1))

/-- BATCH_WAIT_END (R278). -/
def execBatchWaitEnd (s : State) : Out :=
  match s.subject with
  | .one p => match aGet p s.paths with
    | some q => match q.wait with
      | .batch k pd clr => .next (if !waitEnds s q || batchPending s q.gang k then s else endBatchWait s p q k pd clr)
      | _ => .next s
    | none => .next s
  | _ => .next s

end Sys2Proof.Machine
end

