-- ==== Sys2Proof/Machine/Gangs.lean ====
section
/-! DEFINITION. The start of gangs (R137, R148, R160, R161): their scheduler, their first state, and the launches of the lift. -/

namespace Sys2Proof.Machine

/-- A context's workgroups are on their cores: its image is not only saved (R118, R120). -/
def isPlaced (s : State) (c : Nat) : Bool :=
  let x := ctxAt s c
  x.state != .saved && !(x.state = .faulted && (x.record.map (·.hostErr)) = some 3)

/-- Slices of a gang that are resident on its scheduler (R137, R149): those with a live lane, and those that are IDLE and that no later
gang of the workgroup was given. -/
def residentSlices (s : State) (gid : Nat) (g : Gang) (w : Workgroup) : Nat :=
  (g.slices.zipIdx.filter fun c => sliceLanes c.2 g.live != 0 ||
    (w.idle.contains c.1 && !(s.gangs.any fun e => gid < e.1 && e.2.wg == g.wg && e.2.slices.contains c.1))).length

/-- Resident slices of a group scheduler of a core (R137). -/
def schedLoad (s : State) (core sched : Nat) : Nat :=
  sumNat ((s.gangs.filter fun e => e.2.sched == sched).map fun e => match wgOf s e.2 with
      | some w => if w.core == some core && isPlaced s w.ctx then residentSlices s e.1 e.2 w else 0
      | none => 0)

/-- The group scheduler that a gang is placed on (R137). -/
def chooseSched (s : State) (core : Nat) : Nat := (minBy (schedLoad s core) (List.range 4)).getD 0

/-- Gang indexes of a workgroup that no live gang holds, ascending (R160). -/
def freeIndexes (s : State) (w size : Nat) : List Nat :=
  (List.range size).filter fun i => !(s.gangs.any fun e => e.2.wg == w && e.2.idx == i)

/-- The workgroup that consumes a workgroup's records (R141). -/
def consumerOf (s : State) (w : Workgroup) : Option (Nat × Workgroup) :=
  s.wgs.find? fun e => e.2.launch == w.launch && e.2.n == w.n && e.2.stage == w.stage + 1

/-- What a gang that starts is given. -/
structure GangStart where
  wg : Nat
  kind : GangKind
  slices : List Nat
  idx : Nat
  /-- Lanes that begin live; the others begin ENDED (R161). -/
  live : Nat
  addr : Nat
  /-- G registers that do not begin zero: number and value. -/
  gInit : List (Nat × Nat)
  /-- V registers that do not begin zero: lane, number and value. -/
  vInit : List (Nat × Nat × Nat)
  frags : List FragLane
  deriving DecidableEq, Repr

/-- A gang starts (R148, R160): one path of all its live lanes in slot 0 at user level at the header address, everything else
zero, false or empty; it is open on its workgroup's stage queue (R141). -/
def startGang (s : State) (x : GangStart) : State :=
  let core := ((aGet x.wg s.wgs).bind (·.core)).getD 0
  let gid := s.fresh
  let g : Gang :=
    { wg := x.wg, idx := x.idx, kind := x.kind, slices := x.slices, sched := chooseSched s core, live := x.live, stack := [],
      waits := [], parks := [], groups := [], nextTag := 0, openBatch := 1, errBatches := [], faults := [], latch := none,
      frags := x.frags, mail := [], lanes := [], rayget := false, lastForm := none, closed := false, since := [] }
  let s := { s with fresh := gid + 1, gangs := aSet gid g s.gangs }
  let used := (slicesOf x.live).map fun c => nth x.slices c
  let s := modWg s x.wg fun w => { w with idle := w.idle.filter fun c => !used.contains c }
  let all := List.range x.slices.length
  let s := x.gInit.foldl (fun s r => setGs s gid all r.1 r.2) s
  let s := setVs s gid x.vInit
  let s := match (aGet x.wg s.wgs).bind (consumerOf s) with
    | some c => modWg s c.1 fun w => { w with incoming := { w.incoming with openGangs := w.incoming.openGangs ++ [gid] } }
    | none => s
  newPath s gid x.live ⟨x.addr, 0, 0, 0⟩ false false none

/-- Mask of the first k lanes. -/
def firstLanes (k : Nat) : Nat := 2 ^ k - 1

/-- A poisoned unit of a workgroup's lift buffer (R27, R28) leaves it with the next gang that starts from it, in V0 of its lane 0
(log entry 96). -/
def poisonFirst (gid w : Nat) (s : State) : State :=
  if s.poison.contains (.lift w) then { s with poison := s.poison.filter (· != .lift w) ++ [.register gid 0 0] } else s

/-- A continuation gang of lift entries starts on the lowest IDLE slices with the lowest free index (R160). -/
def startContinuation (s : State) (w idx : Nat) (g : LiftGang) : State :=
  match aGet w s.wgs with
  | none => s
  | some wg =>
    let const := ((aGet wg.launch s.launches).map fun l => l.desc.constAddr).getD 0
    poisonFirst s.fresh w <| startGang s
      { wg := w, kind := .continuation, slices := wg.idle.take g.slices, idx := idx, live := firstLanes g.entries.length,
        addr := ((g.entries.head?).map (·.cont)).getD 0,
        gInit := [(0, const), (1, ((g.entries.head?).map (·.key)).getD 0)],
        vInit := g.entries.zipIdx.flatMap fun e => e.1.payload.zipIdx.map fun v => (e.2, v.2, v.1),
        frags := [] }

/-- Keys of the lift's groups (R159). -/
def liftKeys (lift : List LiftEntry) : List Nat := sortBy id (uniq (lift.map (·.key)))

/-- The lift's entries of a key, in deposit order. -/
def liftGroup (lift : List LiftEntry) (key : Nat) : List LiftEntry := lift.filter fun e => e.key == key

/-- Consecutive parts of a list, each of at most n entries. -/
def chunks {α : Type} (n : Nat) : Nat → List α → List (List α)
  | 0, _ => []
  | fuel + 1, xs => if xs.isEmpty then [] else xs.take n :: chunks n fuel (xs.drop n)

/-- The gangs that flush a group (R161). -/
def flushGangs (s4 : Nat) (group : List LiftEntry) : List LiftGang :=
  (chunks s4 group.length group).map fun es => ⟨ceilDiv es.length 4, es⟩

/-- Slices per gang and gangs of a workgroup's launch. -/
def gangShape (s : State) (w : Workgroup) : Nat × Nat :=
  ((aGet w.launch s.launches).map fun l => (l.desc.gang, l.desc.wgSize)).getD (1, 1)

/-- CONTINUATION_GANG_LAUNCH (R160, R161): the first flushed gang that waits, else the lowest key with 4S entries, once its slices
are IDLE and an index is free. -/
def execContinuationGangLaunch (s : State) : Host.Outcome State Fault Refusal :=
  match s.subject with
  | .one wid => match aGet wid s.wgs with
    | none => .next s
    | some w =>
      let shape := gangShape s w
      match (freeIndexes s wid shape.2).head? with
      | none => .next s
      | some idx => match w.liftGangs with
        | g :: rest =>
          if w.idle.length < g.slices then .next s
          else .next (startContinuation (modWg s wid fun w => { w with liftGangs := rest }) wid idx g)
        | [] =>
          if w.idle.length < shape.1 then .next s
          else match (liftKeys w.lift).find? fun k => 4 * shape.1 ≤ (liftGroup w.lift k).length with
            | none => .next s
            | some k =>
              let es := (liftGroup w.lift k).take (4 * shape.1)
              let rest := w.lift.filter (fun e => e.key != k) ++ (liftGroup w.lift k).drop (4 * shape.1)
              .next (startContinuation (modWg s wid fun w => { w with lift := rest }) wid idx ⟨shape.1, es⟩)
  | _ => .next s

/-- Whether a workgroup holds no live lane but such as wait in MBXGET, which count as ended for the flush (R161, R383). -/
def noLiveLane (s : State) (w : Nat) : Bool := !(s.gangs.any fun e => e.2.wg == w && maskDiff e.2.live (mailLanes s e.1) != 0)

/-- LIFT_FLUSH (R161): without a live lane, and with no group that R160 launches first, every group is launched, keys ascending. -/
def execLiftFlush (s : State) : Host.Outcome State Fault Refusal :=
  match s.subject with
  | .one wid => match aGet wid s.wgs with
    | none => .next s
    | some w =>
      if !noLiveLane s wid || w.lift.isEmpty || !w.liftGangs.isEmpty || liftReady s wid w then .next s
      else
        let gs := (liftKeys w.lift).flatMap fun k => flushGangs (4 * (gangShape s w).1) (liftGroup w.lift k)
        .next (modWg s wid fun w => { w with lift := [], liftGangs := gs })
  | _ => .next s

end Sys2Proof.Machine
end

