-- ==== Sys2Proof/Machine/Tensor.lean ====
section
/-! DEFINITION. Tensor descriptors and handles (R279 to R283), structures read at issue, the units that engines read and write in
virtual memory, the weight store and the scratchpad (R216, R293, R295, R323), and the life of engine commands (R277, R296). -/

namespace Sys2Proof.Machine

/-- n bytes as the CORE path of a core sees them: words its L1 holds, the others at home (R279). -/
def coreRead (s : State) (w : Who) (core a n : Nat) : State × List Nat :=
  let s := if l1Has s core a n then s else (homeRead s w a n).1
  let s := if isPeer a then touchP s (dieOf core) w.ctx (a / 128) else s
  (s, (List.range n).map fun i => (l1ByteAt s core (a + i)).getD (bGet s.mem (copyAt (dieOf core) (a + i))))

/-- One page's part of a structure read at issue by the whole path (R279): its bytes, or none when the path now waits or has taken a
fault. -/
def structPart (s : State) (p : Nat) (q : Path) (i : Instr) (va n : Nat) : State × Option (List Nat) :=
  let core := coreOf s q
  let r := laneCheck s q .read va n 1
  match r.2 with
  | .miss page host _ => (waitAt r.1 p q i (.service [pageKey page host]), none)
  | .fail _ code detail a => (trapAll r.1 p q i code detail a, none)
  | .pass pa leaf =>
    match farByte q pa n, (missingPeer r.1 core [(pa, n)]).head? with
    | some b, _ => (trapAll r.1 p q i cProt 9 (va + (b - pa)), none)
    | none, some ln => (waitAt (askPeerLine r.1 p (ctxOf s q) ln q.gang core (va + (ln * 128 - pa))) p q i .home, none)
    | none, none =>
      let h := coreRead r.1 (whoLeaf core (ctxOf s q) leaf) core pa n
      (h.1, some h.2)

/-- The parts of a structure read in order, up to the first that does not pass. -/
def structParts (s : State) (p : Nat) (q : Path) (i : Instr) : List (Nat × Nat) → State × Option (List Nat)
  | [] => (s, some [])
  | (va, n) :: ps =>
    let r := structPart s p q i va n
    match r.2 with
    | none => r
    | some b =>
      let rest := structParts r.1 p q i ps
      (rest.1, rest.2.map (b ++ ·))

/-- A structure of n bytes read at issue by the whole path (R279): its bytes, or none when the path now waits or has taken a fault. The
path's own earlier stores are performed first. One that is not aligned may lie in two pages; that it is not aligned is found after its
read. -/
def structRead (s : State) (p : Nat) (q : Path) (i : Instr) (va n : Nat) : State × Option (List Nat) :=
  if !releaseReady s q.gang q.lanes 0 then (waitAt s p q i .fence, none)
  else structParts s p q i (partsOf s (ctxOf s q) (coreOf s q) .read va n)

/-- A field of a structure: n bytes at an offset. -/
def fieldAt (b : List Nat) (off n : Nat) : Nat := ofBytes ((b.drop off).take n)

/-- Elements and bytes of a packing unit of a format (R82, R281). -/
def unitElems (fmt : Nat) : Nat := if fmt = 10 || fmt = 11 then 4 else if fmt = 12 || fmt = 14 then 2 else 1
def unitBytes (fmt : Nat) : Nat :=
  if fmt = 10 || fmt = 11 then 3 else if fmt = 12 || fmt = 14 then 1 else elemBits fmt / 8

/-- A tensor descriptor's fields (R280). -/
def descOfBytes (addr : Nat) (b : List Nat) : Desc :=
  { addr := addr, base := fieldAt b 0 8, kind := fieldAt b 8 1, fmt := fieldAt b 9 1, rank := fieldAt b 10 1,
    block := fieldAt b 11 1, dims := (List.range 8).map fun k => fieldAt b (16 + 4 * k) 4,
    strides := (List.range 8).map fun k => sext (fieldAt b (48 + 8 * k) 8) 64, scale := fieldAt b 112 8 }

/-- A stride of a descriptor. -/
def strideOf (d : Desc) (k : Nat) : Int := d.strides.getD k 0

/-- What R282 accepts, of the bytes and the fields. -/
def descOk (b : List Nat) (d : Desc) : Bool :=
  let u := unitElems d.fmt
  fieldAt b 12 4 == 0 && fieldAt b 120 8 == 0 && decide (d.kind ≤ 2) && decide (d.fmt ≤ 15) &&
  (d.block == 0 || d.block == 16 || d.block == 32) && decide (1 ≤ d.rank) && decide (d.rank ≤ 8) &&
  (List.range 8).all (fun k =>
    if k < d.rank then decide (1 ≤ nth d.dims k) && decide (nth d.dims k ≤ 2 ^ 24)
    else nth d.dims k == 1 && strideOf d k == 0) &&
  (if u = 1 then d.base % (if d.fmt = 15 then 32 else unitBytes d.fmt) == 0
    else strideOf d 0 == 1 && nth d.dims 0 % u == 0 &&
      (List.range 8).all fun k => k == 0 || strideOf d k % (u : Int) == 0) &&
  (d.kind != 0 || decide (d.base < 2 ^ 56)) && (d.kind != 1 || decide (d.base < 2 ^ 32)) &&
  (if d.block = 0 then d.scale == 0 else decide (8 ≤ d.fmt) && decide (d.fmt ≤ 14) && d.scale % 128 == 0) &&
  (d.fmt != 15 || (d.rank == 1 && strideOf d 0 == 1))

/-- Descriptors of handles read in order at issue (R279): each with its bytes; none when the path waits or has faulted. -/
def readDescs (s : State) (p : Nat) (q : Path) (i : Instr) : List (Nat × Nat) → State × Option (List (Nat × List Nat × Desc))
  | [] => (s, some [])
  | (h, detail) :: hs =>
    let tdt := ctxReg s (ctxOf s q) rTdtBase
    let va := (tdt + 128 * h) % 2 ^ 64
    if tdt % 128 != 0 then (trapAll s p q i cDescriptor detail va, none)
    else
      let r := structRead s p q i va 128
      match r.2 with
      | none => (r.1, none)
      | some b =>
        let rest := readDescs r.1 p q i hs
        (rest.1, rest.2.map fun ds => (detail, b, descOfBytes va b) :: ds)

/-- The first descriptor that R282 rejects: its DETAIL and address. -/
def badDesc (ds : List (Nat × List Nat × Desc)) : Option (Nat × Nat) :=
  (ds.find? fun x => !descOk x.2.1 x.2.2).map fun x => (x.1, x.2.2.addr)

/-- Byte offsets of the extreme elements of a descriptor, first and last byte (R282). -/
def extent (d : Desc) : Int × Int :=
  let spans := (List.range d.rank).map fun k => ((nth d.dims k : Int) - 1) * strideOf d k
  let lo := spans.foldl (fun a x => if x < 0 then a + x else a) 0
  let hi := spans.foldl (fun a x => if x < 0 then a else a + x) 0
  let u : Int := unitElems d.fmt
  let n : Int := unitBytes d.fmt
  ((d.base : Int) + n * (lo / u), (d.base : Int) + n * (hi / u) + n - 1)

/-- The first scratchpad offset out of range of a KIND 2 descriptor (R282). -/
def scratchOut (size : Nat) (d : Desc) : Option Nat :=
  if d.kind != 2 then none
  else
    let e := extent d
    if e.1 < 0 then some (wrapInt e.1 64)
    else if (size : Int) ≤ e.2 then some (wrapInt (if e.1 < size then (size : Int) else e.1) 64)
    else none

/-- Number of elements. -/
def elemCount (d : Desc) : Nat := ((List.range d.rank).map fun k => nth d.dims k).foldl (· * ·) 1

/-- Element offset of the element with this number in element order (R283): Σ ik · STRIDEk. -/
def elemOffset (d : Desc) (e : Nat) : Int :=
  ((List.range d.rank).foldl (fun (acc : Nat × Int) k =>
    (acc.1 / nth d.dims k, acc.2 + (acc.1 % nth d.dims k : Nat) * strideOf d k)) (e, 0)).2

/-- Address of the unit that holds an element offset (R280). -/
def unitAddr (d : Desc) (off : Int) : Int := (d.base : Int) + (unitBytes d.fmt : Nat) * (off / (unitElems d.fmt : Int))

/-- Address of unit j in element order. -/
def unitAt (d : Desc) (j : Nat) : Int := unitAddr d (elemOffset d (unitElems d.fmt * j))

/-- Units of a tensor. -/
def unitCount (d : Desc) : Nat := elemCount d / unitElems d.fmt

/-- Key under which a command waits for the refresh windows of a die to move (R240). -/
def holdKey (die : Nat) : Nat := 2 ^ 62 + die

/-- A bank of a die's weight store that holds some of these bytes is in its refresh window (R240). -/
def bankClosed (s : State) (die off n : Nat) : Bool :=
  (linesOf off n).any fun ln => bits (bGet s.wsphase die) 15 10 == ln % 64

/-- A context's window on a die: base and size in bytes (R323). -/
def windowOf (s : State) (c die : Nat) : Nat × Nat := (ctxAt s c).windows.getD die (0, 0)

/-- The bytes of a weight-store unit that the step of a command has read already. -/
def unitHeld (s : State) (id pa n : Nat) : Option (List Nat) :=
  ((aGet id s.cmds).bind fun c => c.units.find? fun u => u.1 == pa && u.2.length == n).map (·.2)

/-- An engine's read of a weight-store unit (R240): one that a refresh window holds is awaited, and what was read before it stays read. -/
def storeRead (s : State) (id die off pa a n : Nat) : State × Eng :=
  match unitHeld s id pa n with
  | some b => (s, .ok b)
  | none =>
    if bankClosed s die off n then (s, .page (holdKey die) a)
    else match poisonedAt s die pa n with
      | some x => (s, .fail cMCheck 0 (a + (x - pa)))
      | none =>
        let b := readBytes s.mem pa n
        (modCmd s id fun c => { c with units := (pa, b) :: c.units }, .ok b)

/-- An engine's read of a whole unit at an address of a KIND (R293, R295). -/
def unitRead (s : State) (id : Nat) (c : Cmd) (kind : Nat) (addr : Int) (n : Nat) : State × Eng :=
  let a := wrapInt addr 64
  match kind with
  | 0 => engRead s c.ctx c.core id a n
  | 1 =>
    let die := bits a 31 30
    let off := bits a 29 0
    let w := windowOf s c.ctx die
    if 2 ^ 32 ≤ a then (s, .fail cProt 6 a)
    else if w.2 < off + n then (s, .fail cProt 6 (a + (w.2 - off)))
    else storeRead s id die (w.1 + off) (wsBase + die * 2 ^ 30 + w.1 + off) a n
  | _ => match poisonedScratch s c.wg a n with
    | some x => (s, .fail cMCheck 0 x)
    | none => (s, .ok (readBytes s.scratch (scratchKey c.wg a) n))

/-- An engine's write of a whole unit (R293). -/
def unitWrite (s : State) (id : Nat) (c : Cmd) (kind : Nat) (addr : Int) (bytes : List Nat) : State × Eng :=
  let a := wrapInt addr 64
  match kind with
  | 0 => engWrite s c.ctx c.core id a bytes
  | 1 => (s, .fail cWeightWr 0 a)
  | _ => (scratchWrite s c.wg a bytes, .ok [])

/-- Requests of a command to peers that have no answer yet (R400). -/
def peerBusy (s : State) (id : Nat) : Bool := s.peers.any fun e => e.2.op == 0 && e.2.lane == id

/-- A gang's open batch (R277). -/
def openBatchOf (s : State) (gid : Nat) : Nat := ((aGet gid s.gangs).map (·.openBatch)).getD 1

/-- A command issued by its owners, each a gang and the lanes that issued it (R270, R277, R302): on a barrier it makes its reservation, none
when that does not fit; once accepted it is in its owners' open batches. -/
def issueFor (s : State) (q : Path) (i : Instr) (body : CmdBody) (bar : Option Nat) (accepted : Bool)
    (owners : List (Nat × Nat)) : Option State :=
  let wid := wgIdOf s q
  let go (s : State) : State :=
    let f := freshId s
    let c : Cmd :=
      { ctx := ctxOf s q, wg := wid, core := coreOf s q, instr := i, body := body, base := baseOf s q,
        owners := owners.map fun o => (o.1, if accepted then openBatchOf s o.1 else 0, o.2), bar := bar,
        accepted := accepted, passedOver := 0, next := 0, ended := false, failed := false, trap := none, page := none, flags := 0,
        fetched := none, units := [], planned := false, step := 0, pass := 0, skips := [], changed := [] }
    { f.2 with cmds := aSet f.1 c f.2.cmds }
  match bar with
  | none => some (go s)
  | some b => match (aGet wid s.wgs).bind fun w => reservation (barrierAt w b) with
    | some x => some (go (setBarrier s wid b x))
    | none => none

/-- A command of one path (R277, R285). -/
def issueCmd (s : State) (q : Path) (i : Instr) (body : CmdBody) (bar : Option Nat) (accepted : Bool) : Option State :=
  issueFor s q i body bar accepted [(q.gang, active q)]

/-- A command is over (R296, R314): its owners' batches, their fault, and its arrival on its barrier. -/
def closeCmd (s : State) (id : Nat) (c : Cmd) : State :=
  let s := { s with cmds := aErase id s.cmds }
  let s := if c.failed then c.owners.foldl (fun s o =>
      let s := modGang s o.1 fun g => { g with errBatches := if g.errBatches.contains o.2.1 then g.errBatches else g.errBatches ++ [o.2.1] }
      match c.trap with
      | some t => pendFault s o.1 id o.2.2 c.base t
      | none => s) s
    else s
  match c.bar, aGet c.wg s.wgs with
  | some b, some w => setBarrier s c.wg b (engineArrival (barrierAt w b) c.failed)
  | _, _ => s

/-- The end of a command, whose arrival may leave a deadlock of its workgroup (R272). -/
def finishCmd (s : State) (id : Nat) (c : Cmd) : State :=
  match c.bar with
  | some _ => endDeadlock (closeCmd s id c) c.wg
  | none => closeCmd s id c

/-- What an engine's access does to its command at element j: it goes on, stops for a page or an answer, or fails (R294, R295). -/
def stopCmd (c : Cmd) (j : Nat) (e : Eng) : Cmd :=
  match e with
  | .page key a => { c with next := j, page := some (key, a) }
  | .fail code detail a => { c with next := j, ended := true, failed := true, trap := some ⟨code, 0, detail, 0, false, a⟩ }
  | _ => { c with next := j }

/-- BAR and the barrier of an engine command's aux field (R284). -/
def barOf (x b : Nat) : Option Nat := if x = 1 then some b else none

end Sys2Proof.Machine
end

