-- ==== Sys2Proof/Machine/Tiles.lean ====
section
/-! DEFINITION. Accumulator tiles (R297, R298), the tile order (R313), the passes of a job card (R311), the additions of a pass
(R310), and ACCADD, ACCRD and ACCWR (R317, R318). -/

namespace Sys2Proof.Machine

/-- Place of a tile of a workgroup. -/
def tileKey (wg t : Nat) : Nat := wg * 96 + t
/-- Place of an element of a tile: element (r, c) is e = 32r + c (R297). -/
def elemKey (wg t e : Nat) : Nat := tileKey wg t * 1024 + e

/-- Metadata of a tile (R88, R297). -/
def tileOf (s : State) (wg t : Nat) : Tile := (aGet (tileKey wg t) s.tiles).getD ⟨0, false, false, 0, 0, 0⟩
/-- Metadata of a tile stored. -/
def setTile (s : State) (wg t : Nat) (x : Tile) : State := { s with tiles := aSet (tileKey wg t) x s.tiles }
/-- An element of a tile (R87). -/
def getElem (s : State) (wg t e : Nat) : Nat := bGet s.acc (elemKey wg t e)
/-- An element of a tile stored. -/
def setElem (s : State) (wg t e x : Nat) : State := { s with acc := bSet s.acc (elemKey wg t e) x }

/-- The special state of an element in a special map (R88). -/
def smapAt (m e : Nat) : Nat := bits m (2 * e + 1) (2 * e)
/-- A special map with one state changed. -/
def smapSet (m e x : Nat) : Nat := m - smapAt m e * 2 ^ (2 * e) + x % 4 * 2 ^ (2 * e)

/-- A 64-bit unit of an element is poisoned (R28, R298). -/
def elemPoisoned (s : State) (wg t e : Nat) : Bool :=
  s.poison.any fun x => match x with
    | .element k _ => k == elemKey wg t e
    | _ => false

/-- Poison of elements that are written whole is cleared (R298). -/
def clearElems (s : State) (wg t first n : Nat) : State :=
  { s with poison := s.poison.filter fun x => match x with
      | .element k _ => !(elemKey wg t first ≤ k && k < elemKey wg t first + n)
      | _ => true }

/-- A tile zeroed with an anchor (R88); DSTAT as given. -/
def zeroTile (s : State) (wg t : Nat) (anchor : Int) (dstat : Nat) : State :=
  let lo := elemKey wg t 0
  let s := { s with acc := s.acc.filter fun e => !(lo ≤ e.1 && e.1 < lo + 1024) }
  setTile (clearElems s wg t 0 1024) wg t ⟨anchor, false, false, 0, dstat, 0⟩

/-- A partial added into an element of a tile (R90, R91); infinities of both signs set INV in any order (R92). -/
def addToTile (s : State) (wg t e : Nat) (p : Partial) : State :=
  let x := tileOf s wg t
  let r := accumulate x.anchor (getElem s wg t e) (smapAt x.smap e) p
  let seen := infsSeen (smapAt x.infs e) (smapAt x.smap e) ||| infOf p
  setTile (setElem s wg t e r.1) wg t
    { x with smap := smapSet x.smap e r.2.1, lost := x.lost || r.2.2.1, inv := x.inv || r.2.2.2 || seen == 3, infs := smapSet x.infs e seen }

/-- A pass of a job card (R311): its point of the loop nest and its member, the element origins of its windows, and its C tile. -/
structure PassPlan where
  point : Nat
  member : Nat
  am : Int
  ak : Int
  bk : Int
  bn : Int
  tile : Int
  deriving DecidableEq, Repr

/-- Passes of a job card for a crew of k (R302). -/
def passCount (card : JobCard) (k : Nat) : Nat := k * (card.levels.map (·.1)).foldl (· * ·) 1

/-- Pass j in loop order, innermost level fastest, member 0 first at each point (R311, R312). -/
def passAt (card : JobCard) (k j : Nat) : PassPlan :=
  let m := j % k
  let start : PassPlan :=
    { point := j / k, member := m, am := card.am0 + 32 * m, ak := card.ak0, bk := card.bk0, bn := card.bn0, tile := card.ct0 + m * card.cms }
  (card.levels.reverse.foldl (fun (acc : Nat × PassPlan) l =>
    let i : Int := (acc.1 % l.1 : Nat)
    (acc.1 / l.1,
      { acc.2 with am := acc.2.am + 32 * i * l.2.1, ak := acc.2.ak + 32 * i * l.2.2.1, bk := acc.2.bk + 32 * i * l.2.2.2.1,
                   bn := acc.2.bn + 32 * i * l.2.2.2.2.1, tile := acc.2.tile + i * l.2.2.2.2.2 }))
    (j / k, start)).2

/-- Every pass of a job, in order. -/
def jobPasses (card : JobCard) (k : Nat) : List PassPlan := (List.range (passCount card k)).map (passAt card k)

/-- What a command touches in the tile order (R313, R340): its C tiles, and whether it is a step command or step-tracked job. -/
def cmdDomain (b : CmdBody) : List Nat × Bool :=
  match b with
  | .mma _ _ ms => (ms.map (·.tile), false)
  | .mjob _ card _ _ k => ((jobPasses card k).map fun x => x.tile.toNat, card.step)
  | .accz t _ => ([t], false)
  | .drain t _ _ _ _ _ _ => ([t], false)
  | .stepBegin _ => ([], true)
  | .stepEnd => ([], true)
  | _ => ([], false)

/-- What an instruction that acts in the tile order without a command touches (R313, R340). -/
def instrDomain (i : Instr) : List Nat × Bool :=
  match i with
  | .accadd v _ _ => ([v], false)
  | .accrd v _ _ _ => ([v], false)
  | .accwr v _ _ => ([v], false)
  | .skiprd _ _ => ([], true)
  | .skipwr _ _ => ([], true)
  | _ => ([], false)

/-- Two members of the tile order that may not overlap. -/
def domainsMeet (a b : List Nat × Bool) : Bool := a.1.any (fun t => b.1.contains t) || (a.2 && b.2)

/-- A chain command. -/
def isChain : CmdBody → Bool
  | .chain _ _ => true
  | _ => false

/-- A command of a crew, which enters the tile order when the crew forms (R313). -/
def isCrew : CmdBody → Bool
  | .mma _ _ _ => true
  | .mjob _ _ _ _ _ => true
  | _ => false

/-- Whether every earlier member of a workgroup's tile order that touches the same tiles has finished (R313): accepted commands, and those
of formed crews. -/
def orderClear (s : State) (wg turn : Nat) (d : List Nat × Bool) : Bool :=
  !(s.cmds.any fun e => e.2.wg == wg && (e.2.accepted || isCrew e.2.body) && e.1 < turn && domainsMeet (cmdDomain e.2.body) d) &&
  !(s.paths.any fun e => match e.2.wait, e.2.cur with
    | .tile t, some i => t < turn && wgIdOf s e.2 == wg && domainsMeet (instrDomain i) d
    | _, _ => false)

/-- An instruction that takes its place in the tile order and acts when its turn comes (R313): the path waits till then. -/
def inTileOrder (s : State) (p : Nat) (q : Path) (i : Instr) (act : State → Path → State) : State :=
  let turn := match q.wait with
    | .tile t => t
    | _ => s.fresh
  let s := if turn = s.fresh then { s with fresh := s.fresh + 1 } else s
  if orderClear s (wgIdOf s q) turn (instrDomain i) then act s q else waitAt s p q i (.tile turn)

/-- A vector value as a partial (R318). -/
def valuePartial (v : FVal) : Partial :=
  match v with
  | .nan _ _ => .nan false
  | .inf neg => if neg then .ninf else .pinf
  | x => .fin x.dyadic

/-- The values that ACCADD takes from a lane (R318): by type, 0 FP32, 1 FP64, 2 i32, 3 n32. -/
def addValues (s : State) (q : Path) (type quad l : Nat) : List Partial :=
  let r (k : Nat) : Nat := getV s q.gang l (4 * quad + k)
  match type with
  | 0 => (List.range 4).map fun k => valuePartial (unpack f32 (r k))
  | 1 => (List.range 2).map fun k => valuePartial (unpack f64 (r (2 * k) + 2 ^ 32 * r (2 * k + 1)))
  | 2 => (List.range 4).map fun k => .fin (Dyadic.ofInt (sext (r k) 32))
  | _ => (List.range 4).map fun k => .fin (Dyadic.ofInt (r k))

/-- ACCADD (R318). -/
def execAccadd (v g x : Nat) (s : State) : Out :=
  onPath s fun p q => inTileOrder s p q (.accadd v g x) fun s q =>
    let w := getG s q g
    let wg := wgIdOf s q
    let adds := (lanesOf (active q)).flatMap fun l =>
      (addValues s q (bits w 9 8) x l).zipIdx.map fun y => (32 * l + (bits w 4 0 + y.2) % 32, y.1)
    advance (adds.foldl (fun s y => addToTile s wg v y.1 y.2) s) p q 1

/-- The metadata quad of ACCRD (R318). -/
def metaQuad (t : Tile) (l : Nat) : Nat :=
  bits t.smap (64 * l + 63) (64 * l) * 2 ^ 64 + t.dstat * 2 ^ 35 + t.inv.toNat * 2 ^ 33 + t.lost.toNat * 2 ^ 32 + wrapInt t.anchor 32

/-- ACCRD (R318); a poisoned element is MCHECK in the lanes that read it (R298). -/
def execAccrd (v g l x : Nat) (s : State) : Out :=
  onPath s fun p q => inTileOrder s p q (.accrd v g l x) fun s q =>
    let w := getG s q g
    let wg := wgIdOf s q
    let c := bits w 4 0
    let isMeta := hasBit w 8
    let outs := (lanesOf (active q)).map fun k =>
      (k, if !isMeta && elemPoisoned s wg v (32 * k + c) then LaneOut.fail 0 cMCheck 0 0 else .pass 0 0)
    let value (k : Nat) : Nat :=
      if isMeta then metaQuad (tileOf s wg v) k else getElem s wg v (32 * k + c) % 2 ^ 112
    let ws := (passLanes outs).flatMap fun k => regWrites q.gang k.1 (4 * x) 4 (value k.1)
    settleLanes { s with v := bSetAll s.v ws } p { q with wait := .none } (.accrd v g l x) outs

/-- An element in canonical channels, ANCHOR and reserved bits zero (R87). -/
def canonicalElem (e : Nat) : Nat := packElem (ch31 e) (ch32 e) (ch33 e) (chg e) 0

/-- ACCWR (R318). -/
def execAccwr (v g x : Nat) (s : State) : Out :=
  onPath s fun p q => inTileOrder s p q (.accwr v g x) fun s q =>
    let w := getG s q g
    let wg := wgIdOf s q
    let c := bits w 4 0
    let s := (lanesOf (active q)).foldl (fun s l =>
      let y := getRegs s q.gang l (4 * x) 4
      if hasBit w 8 then
        let t := tileOf s wg v
        let row := bits t.smap (64 * l + 63) (64 * l)
        setTile s wg v { t with smap := t.smap - row * 2 ^ (64 * l) + bits y 127 64 * 2 ^ (64 * l),
                                infs := t.infs - bits t.infs (64 * l + 63) (64 * l) * 2 ^ (64 * l), lost := t.lost || hasBit y 32, inv := t.inv || hasBit y 33 }
      else clearElems (setElem s wg v (32 * l + c) (canonicalElem y)) wg v (32 * l + c) 1) s
    advance s p q 1

/-- A 32×32 operand window: element codes with K fastest, and a scale byte for each row and block of K (R307). -/
structure Window where
  codes : List Nat
  scales : List Nat
  deriving DecidableEq, Repr

/-- The partials that one row of A and one column of B give (R90, R310). -/
def rowPartials (fb : FormatBlock) (a b : Nat → Nat) (ascale bscale : Nat → Nat) : List Partial :=
  let scaled := fb.block != 0
  let prod (k : Nat) : Partial := productPartial (elemVal fb.afmt scaled (a k)) (elemVal fb.bfmt scaled (b k))
  if scaled then (List.range (32 / fb.block)).map fun j =>
    scalePartial (scalePartial (sumPartials ((List.range fb.block).map fun i => prod (fb.block * j + i)))
      (scaleExp (ascale j))) (scaleExp (bscale j))
  else (List.range 32).map prod

/-- The additions of a pass into its tile (R310): A rows that are not padded, every column of B. -/
def addPass (s : State) (wg t : Nat) (fb : FormatBlock) (rows : List Nat) (a : Window) (b : Window) : State :=
  let nb := if fb.block = 0 then 1 else 32 / fb.block
  rows.foldl (fun s r => (List.range 32).foldl (fun s n =>
    (rowPartials fb (fun k => nth a.codes (32 * r + k)) (fun k => nth b.codes (32 * n + k))
      (fun j => nth a.scales (nb * r + j)) (fun j => nth b.scales (nb * n + j))).foldl
      (fun s x => addToTile s wg t (32 * r + n) x) s) s) s

end Sys2Proof.Machine
end

