-- ==== Sys2Proof/Machine/Launch.lean ====
section
/-! DEFINITION. Launches (R68, R131 to R138, R148, R414): the launch descriptor and its side table, the budget of a workgroup, the
placement of a pipeline set, and the start and the end of workgroups. -/

namespace Sys2Proof.Machine

/-- The fields of a launch descriptor (R131). -/
def launchOfBytes (b : List Nat) : LaunchDesc :=
  { codeAddr := fieldAt b 0 8, codeWords := fieldAt b 8 4, nside := fieldAt b 12 4, sideAddr := fieldAt b 16 8,
    dataAddr := fieldAt b 24 8, constAddr := fieldAt b 32 8, nx := fieldAt b 40 4, ny := fieldAt b 44 4, nz := fieldAt b 48 4,
    vregs := fieldAt b 56 1, gang := fieldAt b 57 1, stages := fieldAt b 58 1, wgSize := fieldAt b 59 1,
    scratch := fieldAt b 60 4, raySlots := fieldAt b 64 2, accTiles := fieldAt b 66 1 }

/-- lo ≤ x ≤ hi. -/
def within (lo x hi : Nat) : Bool := decide (lo ≤ x) && decide (x ≤ hi)

/-- Ranges, alignments and reserved bytes of R131. -/
def launchRanges (b : List Nat) (d : LaunchDesc) : Bool :=
  d.codeAddr % 128 == 0 && within 2 d.codeWords (2 ^ 26) && within 1 d.nside (2 ^ 21) && d.sideAddr % 32 == 0 &&
  d.dataAddr % 128 == 0 && d.constAddr % 8 == 0 && within 1 d.nx (2 ^ 20) && within 1 d.ny (2 ^ 20) && within 1 d.nz (2 ^ 20) &&
  fieldAt b 52 4 == 0 && d.vregs % 8 == 0 && within 16 d.vregs 128 && within 1 d.gang 8 && within 1 d.stages 8 &&
  within 1 d.wgSize 64 && decide (d.wgSize * d.gang ≤ 256) && d.scratch % 128 == 0 && decide (d.scratch ≤ 262144) &&
  decide (d.raySlots ≤ 2048) && decide (d.accTiles ≤ 96) && fieldAt b 67 189 == 0

/-- A side-table entry as far as the hardware uses it (R68). -/
def sideOfBytes (b : List Nat) : SideEntry := ⟨fieldAt b 0 4, fieldAt b 8 16, fieldAt b 24 4, fieldAt b 28 1⟩

/-- Reserved bits of a side-table entry are zero (R68). -/
def sideZero (b : List Nat) : Bool := decide (fieldAt b 4 4 < 16) && decide (fieldAt b 28 1 < 128) && fieldAt b 29 3 == 0

/-- ADDR values strictly ascending (R68). -/
def sideAscending : List SideEntry → Bool
  | [] => true
  | [_] => true
  | x :: y :: rest => decide (x.addr < y.addr) && sideAscending (y :: rest)

/-- What R68 accepts, of a code size and the entries' bytes. -/
def sideOk (words : Nat) (bs : List (List Nat)) : Bool :=
  let es := bs.map sideOfBytes
  bs.all sideZero && sideAscending es && es.all (fun e => decide (e.addr < words)) && (es.head?.map (·.addr)) == some 0

/-- Resources of a core (R135). -/
structure Usage where
  slices : Nat
  regs : Nat
  scratch : Nat
  tiles : Nat
  places : Nat
  deriving DecidableEq, Repr

/-- What a workgroup of a stage needs (R135). -/
def needOf (d : LaunchDesc) (stage : Nat) : Usage :=
  { slices := d.wgSize * d.gang, regs := 16 * d.vregs * d.wgSize * d.gang,
    scratch := d.scratch + 128 * d.raySlots + (if stage = 0 then 0 else 4096), tiles := d.accTiles, places := 1 }

/-- Sum of two amounts. -/
def Usage.add (a b : Usage) : Usage :=
  ⟨a.slices + b.slices, a.regs + b.regs, a.scratch + b.scratch, a.tiles + b.tiles, a.places + b.places⟩

/-- Within a core's capacity (R135), with its workgroup places (R98). -/
def Usage.fits (a : Usage) (places : Nat) : Bool :=
  decide (a.slices ≤ 1024) && decide (a.regs ≤ 1048576) && decide (a.scratch ≤ 262144) && decide (a.tiles ≤ 96) &&
    decide (a.places ≤ places)

/-- Workgroup places of a core of a context's partition (R98). -/
def placesOf (s : State) (c : Nat) : Nat :=
  if ((aGet (ctxAt s c).part s.parts).map (·.dense)).getD false then 128 else 64

/-- Cores of a context's partition, ascending (R98). -/
def partCores (s : State) (c : Nat) : List Nat :=
  let m := ((aGet (ctxAt s c).part s.parts).map (·.clusters)).getD 0
  (List.range Config.cores).filter fun k => hasBit m (clusterOf k)

/-- What a workgroup holds of its core (R138): slices, registers and its place until it finishes, the rest until it is released. -/
def heldBy (s : State) (w : Workgroup) : Usage :=
  match aGet w.launch s.launches with
  | none => ⟨0, 0, 0, 0, 0⟩
  | some l =>
    let n := needOf l.desc w.stage
    if w.finished then ⟨0, 0, n.scratch, n.tiles, 0⟩ else n

/-- What is in use on a core (R135). -/
def usageOf (s : State) (core : Nat) : Usage :=
  (s.wgs.filter fun e => e.2.core == some core && isPlaced s e.2.ctx).foldl (fun a e => a.add (heldBy s e.2)) ⟨0, 0, 0, 0, 0⟩

/-- How many amounts of a need fit beside what is in use, at most n. -/
def fitCount (need : Usage) (places : Nat) : Nat → Usage → Nat
  | 0, _ => 0
  | n + 1, u => if (u.add need).fits places then fitCount need places n (u.add need) + 1 else 0

/-- Cores for n equal workgroups, lowest core first, as many as fit. -/
def fillCores (need : Usage) (places : Nat) : Nat → List (Nat × Usage) → List Nat
  | _, [] => []
  | n, (c, u) :: rest =>
    let k := fitCount need places n u
    List.replicate k c ++ fillCores need places (n - k) rest

/-- A core for every workgroup of a pipeline set, or none when they do not all fit at once (R136): the lowest core that admits the
first stage and leaves room for the others, which take the lowest cores (log entry 20). -/
def placeSet (places : Nat) (cores : List (Nat × Usage)) (d : LaunchDesc) : Option (List Nat) :=
  cores.findSome? fun c =>
    if !((c.2.add (needOf d 0)).fits places) then none
    else
      let after := cores.map fun x => if x.1 = c.1 then (x.1, x.2.add (needOf d 0)) else x
      let rest := fillCores (needOf d 1) places (d.stages - 1) after
      if rest.length = d.stages - 1 then some (c.1 :: rest) else none

/-- A context's cores with what is in use on them. -/
def coresInUse (s : State) (c : Nat) : List (Nat × Usage) := (partCores s c).map fun k => (k, usageOf s k)

/-- A context's cores, empty. -/
def coresEmpty (s : State) (c : Nat) : List (Nat × Usage) := (partCores s c).map fun k => (k, ⟨0, 0, 0, 0, 0⟩)

/-- The budget of R132: every stage within one core, and one set within the empty partition. -/
def launchFits (s : State) (c : Nat) (d : LaunchDesc) : Bool :=
  (List.range d.stages).all (fun k => (needOf d k).fits (placesOf s c)) && (placeSet (placesOf s c) (coresEmpty s c) d).isSome

/-- Side-table entries read from an address upward (R132). -/
def readSide (s : State) (c core cmd : Nat) : Nat → Nat → State × Except Eng (List (List Nat))
  | 0, _ => (s, .ok [])
  | n + 1, a =>
    let r := engRead s c core cmd (a % 2 ^ 64) 32
    match r.2 with
    | .ok b =>
      let rest := readSide r.1 c core cmd n (a + 32)
      (rest.1, match rest.2 with
        | .ok bs => .ok (b :: bs)
        | .error e => .error e)
    | e => (r.1, .error e)

/-- The check of R132 on a descriptor's bytes: the side table and the first header are read before it. The entries, or none when
the launch is malformed. A table of more than 2^21 entries is read so far and is malformed (log entry 21). -/
def checkLaunch (s : State) (c core cmd : Nat) (b : List Nat) : State × Except Eng (Option (List SideEntry)) :=
  let d := launchOfBytes b
  let t := readSide s c core cmd (Nat.min d.nside (2 ^ 21)) d.sideAddr
  match t.2 with
  | .error e => (t.1, .error e)
  | .ok bs =>
    let h := engRead t.1 c core cmd d.codeAddr 4
    match h.2 with
    | .ok _ =>
      let good := launchRanges b d && sideOk d.codeWords bs && launchFits h.1 c d
      (h.1, .ok (if good then some (bs.map sideOfBytes) else none))
    | e => (h.1, .error e)

/-- Sets of a launch: X · Y · Z (R134, R136). -/
def setCount (d : LaunchDesc) : Nat := d.nx * d.ny * d.nz

/-- A launch put in place under a fresh number: launch start order is the order of the numbers (R140). -/
def addLaunch (s : State) (l : Launch) : State × Nat :=
  let f := freshId s
  ({ f.2 with launches := aSet f.1 l f.2.launches }, f.1)

/-- A barrier before any arrival (R268). -/
def Barrier.idle : Barrier := ⟨0, 0, false, 0, 0, 0, false, 0⟩

/-- Step state of a workgroup that has opened no stream (R339). -/
def StepState.closed : StepState :=
  { isOpen := false, addr := 0, blocks := [], period := 0, tau := 0, primed := 0, stepNo := 0, refresh := false, done := 0, maps := [] }

/-- A workgroup as it starts (R134, R148): slices none of which is IDLE, nothing in its lift, barriers and queues. -/
def Workgroup.start (ctx launch n stage x y z core : Nat) : Workgroup :=
  { ctx := ctx, launch := launch, n := n, stage := stage, x := x, y := y, z := z, core := some core, idle := [], lift := [],
    liftGangs := [], incoming := ⟨[], [], []⟩, barriers := List.replicate 16 Barrier.idle, bonds := List.replicate 16 1,
    modes := List.replicate 16 0x00010001, step := StepState.closed, latch := [], rayQueue := [], finished := false }

/-- The scratchpad of a workgroup that starts (R414): a free choice keeps or clears each byte of the context's earlier workgroups on
the core (log entry 9). -/
def startScratch (s : State) (wid c core size : Nat) : State :=
  let base := (c * Config.cores + core) * 2 ^ 18
  let kept := s.oldScratch.filter fun e => decide (base ≤ e.1) && decide (e.1 < base + size) &&
    Config.scratchKept (s.free * 2 ^ 18 + (e.1 - base))
  { s with scratch := bSetAll s.scratch (kept.map fun e => (scratchKey wid (e.1 - base), e.2.toNat)), free := s.free + 1 }

/-- The accumulator tiles of a workgroup that starts: free values (log entry 8). -/
def startTiles (s : State) (wid n : Nat) : State :=
  let v (i : Nat) : Nat := Config.freeValue (s.free + i)
  let elems := (List.range (1024 * n)).map fun i => (elemKey wid 0 i, BitVec.ofNat 128 (canonicalElem (v (2 * i))))
  let meta1 (t : Nat) : Tile :=
    { anchor := sext (v (2048 * t + 1)) 16, lost := hasBit (v (2048 * t + 3)) 0, inv := hasBit (v (2048 * t + 3)) 1,
      smap := v (2048 * t + 5) % 2 ^ 2048, dstat := v (2048 * t + 7) % 32, infs := 0 }
  { s with acc := s.acc ++ elems.filter (fun e => e.2 != 0),
           tiles := s.tiles ++ (List.range n).map (fun t => (tileKey wid t, meta1 t)), free := s.free + 2048 * n }

/-- A workgroup's gangs, each whole, in ascending index (R135, R148). -/
def startGangs (s : State) (wid : Nat) (w : Workgroup) (d : LaunchDesc) : State :=
  (List.range d.wgSize).foldl (fun s i => startGang s
    { wg := wid, kind := .placed, slices := (List.range d.gang).map fun c => i * d.gang + c, idx := i,
      live := firstLanes (4 * d.gang), addr := d.codeAddr,
      gInit := [(0, d.constAddr), (1, w.x + w.y * 2 ^ 20 + w.z * 2 ^ 40), (2, w.stage + i * 2 ^ 8)], vInit := [], frags := [] }) s

/-- The gang of a fragment workgroup (R372): a lane for each fragment in order; the lanes after them begin ENDED. -/
def startFragGang (s : State) (wid : Nat) (d : LaunchDesc) (fs : List Frag) : State :=
  let bin := ((fs.head?).map (·.bin)).getD 0
  let k := fs.length
  let used := ceilDiv k 4
  let s := modWg s wid fun w => { w with idle := (List.range d.gang).filter fun c => used ≤ c }
  let gid := s.fresh
  let s := startGang s
    { wg := wid, kind := .fragment, slices := List.range d.gang, idx := 0, live := firstLanes k, addr := d.codeAddr,
      gInit := [(0, d.constAddr), (1, bits bin 15 0 * 32 + bits bin 31 16 * 32 * 2 ^ 16)],
      vInit := fs.zipIdx.flatMap fun f => [(f.2, 0, f.1.z), (f.2, 1, f.1.mask)],
      frags := fs.zipIdx.map fun f =>
        { lane := f.2, psn := f.1.key, pixel := f.1.x + f.1.y * 2 ^ 16, b1 := f.1.b1, b2 := f.1.b2, samples := f.1.mask } }
  let laneOf (o : OrderEntry) : OrderEntry :=
    match fs.zipIdx.find? fun f => f.1.seq == o.seq with
    | some f => { o with gang := gid, lane := f.2 }
    | none => o
  { s with targets := s.targets.map fun e => (e.1, { e.2 with entries := e.2.entries.map laneOf }) }

/-- Gangs of the workgroup that produces for a stage's workgroup, which starts before it: they are open on its queue (R141). -/
def producers (s : State) (lid n stage : Nat) : List Nat :=
  (s.gangs.filter fun e => !e.2.closed && match wgOf s e.2 with
    | some w => w.launch == lid && w.n == n && w.stage + 1 == stage
    | none => false).map (·.1)

/-- One workgroup starts on a core (R136, R148). -/
def startWorkgroup (s : State) (lid : Nat) (l : Launch) (n stage core : Nat) (frags : Option (List Frag)) : State :=
  let d := l.desc
  let f := freshId s
  let wid := f.1
  let pos := if frags.isSome then (n, 0, 0) else (n % d.nx, n / d.nx % d.ny, n / d.nx / d.ny)
  let w := { Workgroup.start l.ctx lid n stage pos.1 pos.2.1 pos.2.2 core with incoming := ⟨[], producers s lid n stage, []⟩ }
  let s := { f.2 with wgs := aSet wid w f.2.wgs }
  let s := startTiles (startScratch s wid l.ctx core (needOf d stage).scratch) wid d.accTiles
  match frags with
  | some fs => startFragGang s wid d fs
  | none => startGangs s wid w d

/-- Fragments of the next workgroup of a fragment launch that is packed and not placed (R372). -/
def nextFrags (s : State) (l : Launch) : Option (List Frag) :=
  (l.pass.bind fun k => aGet k s.passes).bind fun x => x.ready.head?

/-- The launch's next set has work to place: kernels by their number of sets, fragment launches by what is packed (R136, R372). -/
def setWaits (s : State) (l : Launch) : Bool :=
  match l.pass with
  | some _ => (nextFrags s l).isSome
  | none => decide (l.nextSet < setCount l.desc)

/-- No earlier launch of the queue has workgroups still to start (R125, R136). Fragment launches keep their own order (R372). -/
def launchTurn (s : State) (lid : Nat) (l : Launch) : Bool :=
  l.pass.isSome || !(s.launches.any fun e => e.1 < lid && e.2.ctx == l.ctx && e.2.queue == l.queue && e.2.pass.isNone &&
    setWaits s e.2)

/-- A launch has a set to place now. -/
def setDue (s : State) (lid : Nat) (l : Launch) : Bool := isRunning s l.ctx && setWaits s l && launchTurn s lid l

/-- A launch has sets that are not placed yet; a fragment launch while its pass has fragments that are not (R136, R372). -/
def moreSets (s : State) (l : Launch) : Bool :=
  match l.pass with
  | some k => ((aGet k s.passes).map fun x => !(x.todo.isEmpty && x.packing.isEmpty && x.ready.isEmpty)) = some true
  | none => decide (l.nextSet < setCount l.desc)

/-- Room kept for a running launch whose last placed set is its lowest unfinished one (R139): cores, each with what a stage that has left it
held there, so that its next set starts when this one has finished. -/
def keptRoom (s : State) (lid : Nat) (l : Launch) : List (Nat × Usage) :=
  let resident := s.wgs.filter fun e => e.2.launch == lid && !e.2.finished
  if !isRunning s l.ctx || !moreSets s l || resident.any fun e => e.2.n + 1 != l.nextSet then []
  else (l.room.zipIdx.filter fun c => !(resident.any fun e => e.2.stage == c.2)).map fun c => (c.1, needOf l.desc c.2)

/-- The cores that a launch may be placed on, with what is in use on them and what R139 keeps for other launches. -/
def coresFor (s : State) (lid : Nat) (l : Launch) : List (Nat × Usage) :=
  let kept := (s.launches.filter fun e => e.1 != lid).flatMap fun e => keptRoom s e.1 e.2
  (coresInUse s l.ctx).map fun c => (c.1, (kept.filter fun k => k.1 == c.1).foldl (fun u k => u.add k.2) c.2)

/-- Where the launch's next set fits now (R136). -/
def setPlace (s : State) (lid : Nat) (l : Launch) : Option (List Nat) := placeSet (placesOf s l.ctx) (coresFor s lid l) l.desc

/-- Launch x goes before launch l where both have a set to place: the higher PRIO, then the lower queue number, then the earlier (R127). -/
def ranksBefore (x l : Nat × Launch) : Bool :=
  decide (l.2.prio < x.2.prio) || (x.2.prio == l.2.prio && (decide (x.2.queue < l.2.queue) || (x.2.queue == l.2.queue && decide (x.1 < l.1))))

/-- A set of a launch is held back by a launch of its own context that ranks before it and fits (R127). -/
def setHeld (s : State) (lid : Nat) (l : Launch) : Bool :=
  s.launches.any fun e => e.1 != lid && e.2.ctx == l.ctx && setDue s e.1 e.2 && ranksBefore e (lid, l) && (setPlace s e.1 e.2).isSome

/-- PIPELINE_SET_START (R136, R139): the next set of a launch is placed whole and its workgroups start in ascending stage order. -/
def execPipelineSetStart (s : State) : Out :=
  match s.subject with
  | .one lid => match aGet lid s.launches with
    | none => .next s
    | some l =>
      if !setDue s lid l || setHeld s lid l then .next s
      else match setPlace s lid l with
        | none => .next s
        | some cores =>
          let frags := nextFrags s l
          let s1 := cores.zipIdx.foldl (fun s c => startWorkgroup s lid l l.nextSet c.2 c.1 frags) s
          let s2 := { s1 with launches := aSet lid { l with nextSet := l.nextSet + 1, room := cores } s1.launches }
          .next (match l.pass with
            | some k => { s2 with passes := aMod k (fun x => { x with ready := x.ready.tail }) s2.passes }
            | none => s2)
  | _ => .next s

/-- Every slice of a workgroup has ended and nothing of it waits to start a gang (R138, R161, R381). -/
def workgroupOver (s : State) (wid : Nat) (w : Workgroup) : Bool :=
  !(s.gangs.any fun e => e.2.wg == wid) && w.lift.isEmpty && w.liftGangs.isEmpty && w.rayQueue.isEmpty

/-- Commands of a workgroup that have not completed (R138). -/
def commandsLeft (s : State) (wid : Nat) : Bool := s.cmds.any fun e => e.2.wg == wid

/-- A workgroup's scratchpad and tiles are released; what it left in the scratchpad may be seen by later workgroups (R138, R414). -/
def releaseWorkgroup (s : State) (wid : Nat) (w : Workgroup) : State :=
  let lo := scratchKey wid 0
  let mine := s.scratch.filter fun e => decide (lo ≤ e.1) && decide (e.1 < lo + 2 ^ 18)
  let base := (w.ctx * Config.cores + w.core.getD 0) * 2 ^ 18
  { s with wgs := aErase wid s.wgs,
           scratch := s.scratch.filter fun e => !(decide (lo ≤ e.1) && decide (e.1 < lo + 2 ^ 18)),
           oldScratch := mine.foldl (fun m e => bSet m (base + (e.1 - lo)) e.2.toNat) s.oldScratch,
           acc := s.acc.filter (fun e => e.1 / (96 * 1024) != wid), tiles := s.tiles.filter (fun e => e.1 / 96 != wid),
           poison := s.poison.filter fun e => match e with
             | .scratch k _ => k != wid
             | .element k _ => k / (96 * 1024) != wid
             | .lift k => k != wid
             | _ => true }

/-- WORKGROUP_FINISH (R138): slices, registers and place are released, and once its commands have completed the rest. -/
def execWorkgroupFinish (s : State) : Out :=
  match s.subject with
  | .one wid => match aGet wid s.wgs with
    | none => .next s
    | some w =>
      if !workgroupOver s wid w then .next s
      else
        let w := { w with finished := true }
        let s1 := { s with wgs := aSet wid w s.wgs }
        .next (if commandsLeft s1 wid then s1 else releaseWorkgroup s1 wid w)
  | _ => .next s

end Sys2Proof.Machine
end

