-- ==== Sys2Proof/Machine/Bins.lean ====
section
/-! DEFINITION. Frames, PRIM and the binner (R365 to R371, R373, R374): snapping, culling, bin memory, coverage, barycentrics, the
making of fragment passes. -/

namespace Sys2Proof.Machine

/-- A coordinate times 256 as an integer, ties to even (R368). -/
def snapCoord (x : Nat) : Int :=
  match unpack f32 x with
  | .fin neg m e => (roundToInt 0 neg m (e + 8)).1
  | _ => 0

/-- 16.8 coordinates that the binner keeps (R368). -/
def coordOk (x : Int) : Bool := decide (-(2 ^ 23 : Int) ≤ x) && decide (x < 2 ^ 23)

/-- Twice the signed area of a snapped triangle (R368). -/
def area2 (xs ys : List Int) : Int :=
  let x (i : Nat) := xs.getD i 0
  let y (i : Nat) := ys.getD i 0
  (x 1 - x 0) * (y 2 - y 0) - (x 2 - x 0) * (y 1 - y 0)

/-- Lowest and highest of three coordinates. -/
def lowOf (xs : List Int) : Int := xs.foldl min (xs.getD 0 0)
def highOf (xs : List Int) : Int := xs.foldl max (xs.getD 0 0)

/-- Pixel box of a triangle: x0, y0, x1, y1 (R368). -/
def pixelBox (t : Tri) : Int × Int × Int × Int := (lowOf t.xs / 256, lowOf t.ys / 256, highOf t.xs / 256, highOf t.ys / 256)

/-- The box misses the target area (R368). -/
def boxMisses (t : Tri) (r : Raster) : Bool :=
  let b := pixelBox t
  decide (b.2.2.1 < 0) || decide (b.2.2.2 < 0) || decide ((r.width : Int) ≤ b.1) || decide ((r.height : Int) ≤ b.2.1)

/-- The triangle of a lane's thirteen registers, none when it is dropped (R368). -/
def snapTri (r : Raster) (flip cull order : Nat) (regs : List Nat) : Option Tri :=
  let at_ (i k : Nat) : Nat := nth regs (4 * i + k)
  let xs := (List.range 3).map fun i => snapCoord (at_ i 0)
  let ys := (List.range 3).map fun i => snapCoord (at_ i 1)
  let a2 := area2 xs ys
  let t : Tri := { off := none, key := nth regs 12, order := order, xs := xs, ys := ys, zs := (List.range 3).map fun i => at_ i 2,
                   qs := (List.range 3).map fun i => at_ i 3, a2 := a2 }
  let front := decide (0 < a2) != (flip == 1)
  if !((regs.take 12).all (isFinite f32)) || t.qs.any (fun q => Dyadic.le (dyadicOf f32 q) Dyadic.zero) then none
  else if !(xs.all coordOk && ys.all coordOk) || a2 == 0 then none
  else if (cull == 1 && !front) || (cull == 2 && front) then none
  else if boxMisses t r then none
  else some t

/-- Bins (bx, by) that a triangle's box touches within the target area, as bx + by · 2^16 (R369). -/
def binsOf (t : Tri) (r : Raster) : List Nat :=
  let b := pixelBox t
  let lo (x : Int) : Nat := x.toNat / 32
  let hi (x : Int) (n : Nat) : Nat := Nat.min x.toNat (n - 1) / 32
  let span (a z : Nat) : List Nat := (List.range (z + 1 - a)).map (· + a)
  (span (lo b.2.1) (hi b.2.2.2 r.height)).flatMap fun y =>
    (span (lo b.1) (hi b.2.2.1 r.width)).map fun x => x + y * 2 ^ 16

/-- Bytes of bin memory that a triangle takes (R369). -/
def triBytes (t : Tri) (r : Raster) : Nat := 64 + 16 * (binsOf t r).length

/-- Sample places within a pixel (R370). -/
def samplePlaces (n : Nat) : List (Int × Int) :=
  match n with
  | 1 => [(128, 128)]
  | 2 => [(192, 192), (64, 64)]
  | 4 => [(96, 32), (224, 96), (32, 160), (160, 224)]
  | _ => [(144, 80), (112, 176), (208, 144), (80, 48), (48, 208), (176, 240), (240, 112), (16, 16)]

/-- The exact edge function from vertex a to vertex b at a point (R370). -/
def edgeAt (t : Tri) (a b : Nat) (px py : Int) : Int :=
  (t.xs.getD b 0 - t.xs.getD a 0) * (py - t.ys.getD a 0) - (t.ys.getD b 0 - t.ys.getD a 0) * (px - t.xs.getD a 0)

/-- A top or a left edge (R370). -/
def topLeft (t : Tri) (a b : Nat) : Bool :=
  (t.ys.getD b 0 == t.ys.getD a 0 && decide (t.xs.getD a 0 < t.xs.getD b 0)) || decide (t.ys.getD b 0 < t.ys.getD a 0)

/-- A sample is covered (R370). -/
def covered (t : Tri) (px py : Int) : Bool :=
  let edges := if 0 < t.a2 then [(0, 1), (1, 2), (2, 0)] else [(0, 2), (2, 1), (1, 0)]
  edges.all fun e =>
    let v := edgeAt t e.1 e.2 px py
    decide (0 < v) || (v == 0 && topLeft t e.1 e.2)

/-- Mask of a pixel's covered samples (R370). -/
def coverMask (t : Tri) (samples x y : Nat) : Nat :=
  maskOf (((samplePlaces samples).zipIdx.filter fun p => covered t (256 * x + p.1.1) (256 * y + p.1.2)).map (·.2))

/-- round(n / d) of two integers, d not zero, in binary32 under RNE. -/
def quotient32 (n d : Int) : Nat :=
  if n = 0 then 0 else (roundMag f32 0 (decide (n < 0) != decide (d < 0)) n.natAbs d.natAbs 0).1

/-- round(a / b) of two finite binary32 values with b above zero. -/
def divide32 (a b : Nat) : Nat :=
  let x := dyadicOf f32 a
  let y := dyadicOf f32 b
  if x.m = 0 then (if hasBit a 31 then 2 ^ 31 else 0)
  else (roundMag f32 0 (decide (x.m < 0)) x.m.natAbs y.m.natAbs (x.e - y.e)).1

/-- Depth and barycentrics of a pixel (R371): z, b1, b2. -/
def baryOf (t : Tri) (x y : Nat) : Nat × Nat × Nat :=
  let cx : Int := 256 * x + 128
  let cy : Int := 256 * y + 128
  let a0 := quotient32 (edgeAt t 1 2 cx cy) t.a2
  let a1 := quotient32 (edgeAt t 2 0 cx cy) t.a2
  let a2 := quotient32 (edgeAt t 0 1 cx cy) t.a2
  let fma (p q r : Nat) : Nat := (fpFma f32 0 false false p q r).1
  let mul (p q : Nat) : Nat := (fpMul f32 0 p q).1
  let add (p q : Nat) : Nat := (fpAdd f32 0 p q).1
  let z := fma a2 (nth t.zs 2) (fma a1 (nth t.zs 1) (mul a0 (nth t.zs 0)))
  let w1 := mul a1 (nth t.qs 1)
  let w2 := mul a2 (nth t.qs 2)
  let s := add (add (mul a0 (nth t.qs 0)) w1) w2
  let good := isFinite f32 s && Dyadic.lt Dyadic.zero (dyadicOf f32 s)
  (z, if good && isFinite f32 w1 then divide32 w1 s else 0, if good && isFinite f32 w2 then divide32 w2 s else 0)

/-- The fragments of a triangle in one bin, ascending (y, x) (R370, R372). -/
def binFragments (r : Raster) (bin : Nat) (t : Tri) : List Frag :=
  let bx := bits bin 15 0
  let cy := bits bin 31 16
  (List.range 1024).filterMap fun i =>
    let x := 32 * bx + i % 32
    let y := 32 * cy + i / 32
    let m := if x < r.width && y < r.height then coverMask t r.samples x y else 0
    if m = 0 then none
    else
      let b := baryOf t x y
      some { bin := bin, key := t.key, seq := 0, x := x, y := y, mask := m, z := b.1, b1 := b.2.1, b2 := b.2.2 }

/-- The fragments of some triangles, each with the bins that hold it, in emission order (R372): bins ascending (by, bx); in a bin, keys
ascending, then acceptance order. -/
def binnedFragments (r : Raster) (ts : List (Tri × List Nat)) : List Frag :=
  (sortBy id (uniq (ts.flatMap (·.2)))).flatMap fun b =>
    (sortBy (·.key) (sortBy (·.order) ((ts.filter fun t => t.2.contains b).map (·.1)))).flatMap (binFragments r b)

/-- The fragments of triangles that bin memory holds as they were recorded. -/
def passFragments (r : Raster) (ts : List Tri) : List Frag := binnedFragments r (ts.map fun t => (t, binsOf t r))

/-- A triangle's record in bin memory (R369, log entry 107): its key, its place in acceptance order, the snapped coordinates, z and q; then 16
bytes for each bin, the bin and where the triangle lies. -/
def triRecord (t : Tri) (r : Raster) (off : Nat) : List Nat :=
  let ints (xs : List Int) : List Nat := (List.range 3).flatMap fun k => toBytes 4 (wrapInt (xs.getD k 0) 32)
  let nats (xs : List Nat) : List Nat := (List.range 3).flatMap fun k => toBytes 4 (nth xs k)
  toBytes 4 t.key ++ toBytes 8 t.order ++ ints t.xs ++ ints t.ys ++ nats t.zs ++ nats t.qs ++ [0, 0, 0, 0] ++
    (binsOf t r).flatMap fun b => toBytes 4 b ++ toBytes 4 off ++ List.replicate 8 0

/-- A bin within the target area. -/
def binInside (r : Raster) (b : Nat) : Bool := decide (bits b 15 0 * 32 < r.width) && decide (bits b 31 16 * 32 < r.height)

/-- The triangle and the bins that a record's bytes say (R365): whatever they are, no fragment leaves the target area. -/
def recordTri (r : Raster) (b : List Nat) : Tri × List Nat :=
  let ints (o : Nat) : List Int := (List.range 3).map fun k => sext (fieldAt b (o + 4 * k) 4) 32
  let nats (o : Nat) : List Nat := (List.range 3).map fun k => fieldAt b (o + 4 * k) 4
  let xs := ints 12
  let ys := ints 24
  ({ off := none, key := fieldAt b 0 4, order := fieldAt b 4 8, xs := xs, ys := ys, zs := nats 36, qs := nats 48, a2 := area2 xs ys },
    uniq (((List.range (b.length / 16 - 4)).map fun k => fieldAt b (64 + 16 * k) 4).filter (binInside r)))

/-- Targets bound to a frame, ascending (R350). -/
def boundTo (s : State) (frame : Nat) : List (Nat × Target) := s.targets.filter fun e => e.2.bound == some frame

/-- A fragment pass of some triangles of a frame (R372), owned by a packet of a queue; nothing when there is no triangle. -/
def makePass (s : State) (fid : Nat) (f : Frame) (queue packet : Nat) (ts : List Tri) : State :=
  match f.raster with
  | none => s
  | some r =>
    if ts.isEmpty then s
    else
      let n := freshId s
      let x : Pass :=
        { ctx := f.ctx, queue := queue, frame := fid, packet := packet, raster := r, binBase := f.base, tris := ts, targets := [],
          started := false, page := none, refused := none, launch := none, todo := [], packing := [], ready := [] }
      { n.2 with passes := aSet n.1 x n.2.passes }

/-- Every bin of a frame rasterised for a packet of a queue, and bin memory emptied (R365, R373). -/
def rasteriseFrame (s : State) (fid queue packet : Nat) : State :=
  match aGet fid s.frames with
  | none => s
  | some f =>
    let s := makePass s fid f queue packet f.tris
    { s with frames := aMod fid (fun f => { f with tris := [], used := 0 }) s.frames }

/-- A pass still has order entries to make. -/
def passOpen (x : Pass) : Bool := !x.started || !x.todo.isEmpty

/-- Targets unbound from a frame (R349, R365): the passes of its bins that are still open go on to make their order entries. -/
def unbindTargets (s : State) (fid : Nat) (keys : List Nat) : State :=
  { s with
    targets := s.targets.map fun e => if keys.contains e.1 then (e.1, { e.2 with bound := none }) else e
    passes := s.passes.map fun e =>
      if e.2.frame == fid && passOpen e.2 then (e.1, { e.2 with targets := uniq (e.2.targets ++ keys) }) else e }

/-- A pass of the frame has fragments still to emit (R373). -/
def emitting (s : State) (fid : Nat) : Bool :=
  s.passes.any fun e => e.2.frame == fid && passOpen e.2

/-- PRCOUNT counts one more (R374). -/
def countPartial (s : State) (c : Nat) : State := setCtxReg s c rPrCount (Nat.min (bits (ctxReg s c rPrCount) 31 0 + 1) 0xFFFFFFFF)

/-- The raster state block (R367). -/
def rasterOfBytes (b : List Nat) : Raster := ⟨fieldAt b 0 8, fieldAt b 8 2, fieldAt b 10 2, fieldAt b 12 1⟩

/-- Ranges and reserved bytes of the raster state block (R367). -/
def rasterOk (b : List Nat) (r : Raster) : Bool :=
  within 1 r.width 16384 && within 1 r.height 16384 && [1, 2, 4, 8].contains r.samples && fieldAt b 13 51 == 0

/-- What an engine's read does to a path that waits for it: service, a peer's answer, or its fault (R279); a page whose service was refused is
PROT with DETAIL 3 (R115, R213). -/
def pathEng (s : State) (p : Nat) (q : Path) (i : Instr) (e : Eng) : State :=
  match e with
  | .page key addr => if q.refused.contains key then trapAll s p q i cProt 3 addr else waitAt s p q i (.service [key])
  | .fail code detail addr => trapAll s p q i code detail addr
  | _ => waitAt s p q i .home

/-- Check 4 of R367 on the fragment kernel's descriptor: whether it passes. -/
def fragDescOk (b : List Nat) (side : Option (List SideEntry)) : Bool :=
  let d := launchOfBytes b
  side.isSome && d.stages == 1 && d.wgSize == 1 && d.nx == 1 && d.ny == 1 && d.nz == 1

/-- Thirteen registers of a lane (R366). -/
def primRegs (s : State) (q : Path) (v l : Nat) : List Nat := (List.range 13).map fun k => getV s q.gang l (v + k)

/-- PRIM's primitives go to the binner and the path waits for their acceptance (R367). -/
def primAccept (s : State) (p : Nat) (q : Path) (i : Instr) (fid : Nat) (r : Raster) (v f c : Nat) : State :=
  let n := freshId s
  let tris := (lanesOf (active q)).filterMap fun l => snapTri r f c (n.1 * 32 + l) (primRegs s q v l)
  let x : PrimIssue := { path := p, packet := ((launchOfPath s q).map (·.packet)).getD 0, raster := r, tris := tris }
  let s := { n.2 with frames := aMod fid (fun f => { f with raster := some r, prims := f.prims ++ [x] }) n.2.frames }
  waitAt s p q i .binner

/-- PRIM (R366, R367). -/
def execPrim (v g f c : Nat) (s : State) : Out :=
  onPath s fun p q =>
    let i := Instr.prim v g f c
    let a := getG s q g
    let key := ctxOf s q * 16 + queueOf s q
    match ((queueAt s key).frame).bind fun fid => (aGet fid s.frames).map fun x => (fid, x) with
    | none => trapAll s p q i cDescriptor 4 0
    | some (fid, fr) =>
      let blk := structRead s p q i a 64
      match blk.2 with
      | none => blk.1
      | some b =>
        let r := rasterOfBytes b
        if !(a % 64 == 0 && rasterOk b r) then trapAll blk.1 p q i cDescriptor 1 a
        else
          let h := engRead blk.1 (ctxOf s q) (coreOf s q) p r.fragDesc 256
          match h.2 with
          | .ok d =>
            let ck := checkLaunch h.1 (ctxOf s q) (coreOf s q) p d
            match ck.2 with
            | .error e => pathEng ck.1 p q i e
            | .ok side =>
              if !fragDescOk d side then trapAll ck.1 p q i cDescriptor 3 r.fragDesc
              else if fr.raster.isSome && fr.raster != some r then trapAll ck.1 p q i cDescriptor 3 a
              else if (boundTo s fid).any fun t =>
                  t.2.desc.width != r.width || t.2.desc.height != r.height || t.2.desc.samples != r.samples then
                trapAll ck.1 p q i cDescriptor 2 a
              else primAccept ck.1 p q i fid r v f c
          | e => pathEng h.1 p q i e

/-- A record written to bin memory for a frame (R365): whether it need not wait for its page or for a peer. One that cannot be written leaves
the bytes that are there (log entry 107). -/
def binWrite (s : State) (f : Frame) (off : Nat) (bytes : List Nat) : State × Bool :=
  let r := engWrite s f.ctx frontCore 0 (f.base + off) bytes
  match r.2 with
  | .page key _ => (r.1, f.refused.contains key)
  | .peer => (r.1, false)
  | _ => (r.1, true)

/-- Triangles of an issue recorded in order while they fit and none has to wait; the others stay (R369). -/
def recordTris (r : Raster) : List Tri → State → Frame → (State × Frame) × List Tri
  | [], s, f => ((s, f), [])
  | t :: ts, s, f =>
    if f.used + triBytes t r ≤ f.size then
      let w := binWrite s f f.used (triRecord t r f.used)
      if w.2 then recordTris r ts w.1 { f with used := f.used + triBytes t r, tris := f.tris ++ [{ t with off := some f.used }] }
      else ((w.1, f), t :: ts)
    else ((s, f), t :: ts)

/-- The open frame of a queue. -/
def frameOf (s : State) (key : Nat) : Option (Nat × Frame) :=
  ((queueAt s key).frame).bind fun fid => (aGet fid s.frames).map fun f => (fid, f)

/-- PRIMITIVE_BINNED (R368, R369): the earliest waiting PRIM's triangles are recorded while they fit; with the last of them its path
goes on. -/
def execPrimitiveBinned (s : State) : Out :=
  match s.subject with
  | .one key => match frameOf s key with
    | none => .next s
    | some (fid, f) => match f.prims with
      | [] => .next s
      | x :: rest =>
        if emitting s fid then .next s
        else
          let r := recordTris x.raster x.tris s f
          if r.2.isEmpty then
            let s1 := { r.1.1 with frames := aSet fid { r.1.2 with prims := rest } r.1.1.frames }
            .next (match aGet x.path s1.paths with
              | some q => match q.wait with
                | .binner => advance s1 x.path q 2
                | _ => s1
              | none => s1)
          else .next { r.1.1 with frames := aSet fid { r.1.2 with prims := { x with tris := r.2 } :: rest } r.1.1.frames }
  | _ => .next s

end Sys2Proof.Machine
end

