-- ==== Sys2Proof/Machine/Aes.lean ====
section
/-! DEFINITION. AES-256-GCM with a 96-bit IV and a 128-bit tag (R290). Byte strings are lists of numbers below 256. -/

namespace Sys2Proof.Machine

/-- Multiplication in GF(2^8) modulo x^8 + x^4 + x^3 + x + 1. -/
def gf8MulGo : Nat → Nat → Nat → Nat → Nat
  | 0, _, _, acc => acc
  | k + 1, a, b, acc =>
    let a2 := if 128 ≤ a then (2 * a % 256) ^^^ 0x1B else 2 * a
    gf8MulGo k a2 (b / 2) (if b % 2 = 1 then acc ^^^ a else acc)

def gf8Mul (a b : Nat) : Nat := gf8MulGo 8 a b 0

/-- The inverse in GF(2^8), 0 for 0: the 254th power. -/
def gf8Inv (x : Nat) : Nat :=
  let x2 := gf8Mul x x
  let x4 := gf8Mul x2 x2
  let x8 := gf8Mul x4 x4
  let x16 := gf8Mul x8 x8
  let x32 := gf8Mul x16 x16
  let x64 := gf8Mul x32 x32
  let x128 := gf8Mul x64 x64
  gf8Mul x2 (gf8Mul x4 (gf8Mul x8 (gf8Mul x16 (gf8Mul x32 (gf8Mul x64 x128)))))

/-- The AES S-box. -/
def sbox (x : Nat) : Nat :=
  let y := gf8Inv x
  y ^^^ rotl 8 y 1 ^^^ rotl 8 y 2 ^^^ rotl 8 y 3 ^^^ rotl 8 y 4 ^^^ 0x63

/-- Bytewise exclusive or. -/
def xorBytes (a b : List Nat) : List Nat := (a.zip b).map fun x => x.1 ^^^ x.2

/-- The round constant of a key-schedule step. -/
def rcon : Nat → Nat
  | 0 => 1
  | n + 1 => gf8Mul 2 (rcon n)

/-- The key schedule of AES-256: four-byte words, from the eight of the key. -/
def keyWordsGo : Nat → Nat → List (List Nat) → List (List Nat)
  | 0, _, ws => ws
  | k + 1, i, ws =>
    let prev := ws.getD (i - 1) []
    let t := if i % 8 = 0 then xorBytes ((prev.drop 1 ++ prev.take 1).map sbox) [rcon (i / 8 - 1), 0, 0, 0]
      else if i % 8 = 4 then prev.map sbox else prev
    keyWordsGo k (i + 1) (ws ++ [xorBytes (ws.getD (i - 8) []) t])

/-- Bytes in groups of n. -/
def groupsOfBytes (n : Nat) : Nat → List Nat → List (List Nat)
  | 0, _ => []
  | fuel + 1, xs => if xs.isEmpty then [] else xs.take n :: groupsOfBytes n fuel (xs.drop n)

def roundKeys (key : List Nat) : List (List Nat) :=
  groupsOfBytes 16 15 (keyWordsGo 52 8 (groupsOfBytes 4 8 key)).flatten

/-- ShiftRows on a column-major state. -/
def shiftRows (b : List Nat) : List Nat := (List.range 16).map fun i => nth b ((i + 4 * (i % 4)) % 16)

/-- MixColumns. -/
def mixColumns (b : List Nat) : List Nat :=
  (List.range 16).map fun i =>
    let c := i / 4 * 4
    let at_ (k : Nat) : Nat := nth b (c + (i + k) % 4)
    gf8Mul 2 (at_ 0) ^^^ gf8Mul 3 (at_ 1) ^^^ at_ 2 ^^^ at_ 3

/-- One block through AES-256. -/
def aesBlock (ks : List (List Nat)) (b : List Nat) : List Nat :=
  let b := xorBytes b (ks.getD 0 [])
  let b := (List.range 13).foldl (fun b r => xorBytes (mixColumns (shiftRows (b.map sbox))) (ks.getD (r + 1) [])) b
  xorBytes (shiftRows (b.map sbox)) (ks.getD 14 [])

/-- A block as a number, first byte highest. -/
def beNat (b : List Nat) : Nat := b.foldl (fun a x => a * 256 + x) 0

/-- The n bytes of a number, highest first. -/
def beBytes (n x : Nat) : List Nat := (List.range n).map fun i => x / 256 ^ (n - 1 - i) % 256

/-- Multiplication in the field of GHASH, bits of x from the highest down. -/
def ghashMulGo : Nat → Nat → Nat → Nat → Nat
  | 0, _, _, z => z
  | k + 1, x, v, z =>
    let z := if hasBit x k then z ^^^ v else z
    ghashMulGo k x (if v % 2 = 1 then v / 2 ^^^ (0xE1 * 2 ^ 120) else v / 2) z

def ghashMul (x y : Nat) : Nat := ghashMulGo 128 x y 0

/-- GHASH over blocks. -/
def ghash (h : Nat) (blocks : List Nat) : Nat := blocks.foldl (fun y b => ghashMul (y ^^^ b) h) 0

/-- Blocks of 16 bytes, the last padded with zeros. -/
def padBlocks (b : List Nat) : List Nat :=
  (groupsOfBytes 16 (b.length / 16 + 1) b).map fun g => beNat (g ++ List.replicate (16 - g.length) 0)

/-- The keystream applied to bytes, the counter rising from 2. -/
def ctrMode (ks : List (List Nat)) (iv data : List Nat) : List Nat :=
  (groupsOfBytes 16 (data.length / 16 + 1) data).zipIdx.flatMap fun g => xorBytes g.1 (aesBlock ks (iv ++ beBytes 4 (g.2 + 2)))

/-- The tag of GCM. -/
def gcmTag (ks : List (List Nat)) (iv aad ct : List Nat) : List Nat :=
  let h := beNat (aesBlock ks (List.replicate 16 0))
  let y := ghash h (padBlocks aad ++ padBlocks ct ++ [aad.length * 8 * 2 ^ 64 + ct.length * 8])
  xorBytes (beBytes 16 y) (aesBlock ks (iv ++ [0, 0, 0, 1]))

/-- GCM encryption: ciphertext and tag. -/
def gcmEncrypt (key iv aad pt : List Nat) : List Nat × List Nat :=
  let ks := roundKeys key
  let ct := ctrMode ks iv pt
  (ct, gcmTag ks iv aad ct)

/-- GCM decryption: none when the tag differs. -/
def gcmDecrypt (key iv aad ct tag : List Nat) : Option (List Nat) :=
  let ks := roundKeys key
  if gcmTag ks iv aad ct = tag then some (ctrMode ks iv ct) else none

end Sys2Proof.Machine
end

