-- ==== Sys2Proof/Machine/Copy.lean ====
section
/-! DEFINITION. The copy engine (R284 to R296): CPYT, CPYG, CPYS, CPYQ, CPYZ, CPYX and COPY_COMPLETE. -/

namespace Sys2Proof.Machine

/-- A DESCRIPTOR fault of a copy's own conditions (R285 step 3). -/
def badHandles (s : State) (p : Nat) (q : Path) (i : Instr) (detail addr : Nat) : State :=
  trapAll s p q i cDescriptor detail addr

/-- The first of several descriptors that leaves the scratchpad (R282). -/
def scratchFault (s : State) (q : Path) (ds : List Desc) : Option Nat := ds.findSome? (scratchOut (scratchBytes s q))

/-- A copy's checks 2 to 4 and the start of the rest (R285): descriptors read and checked, the word of handles, the instruction's own
conditions (DETAIL and address of the first that fails), SCRATCH; then `rest` on the descriptors. -/
def copyChecks (s : State) (p : Nat) (q : Path) (i : Instr) (handles : List Nat) (wordOk : Bool)
    (own : List Desc → Option (Nat × Nat)) (rest : State → List Desc → State) : State :=
  let r := readDescs s p q i (handles.zipIdx.map fun h => (h.1, h.2 + 1))
  match r.2 with
  | none => r.1
  | some ds => match badDesc ds with
    | some b => badHandles r.1 p q i b.1 b.2
    | none =>
      let fields := ds.map fun d => d.2.2
      if !wordOk then badHandles r.1 p q i 0 0
      else match own fields with
        | some b => badHandles r.1 p q i b.1 b.2
        | none => match scratchFault r.1 q fields with
          | some a => trapAll r.1 p q i cScratch 0 a
          | none => rest r.1 fields

/-- WEIGHTWR of a destination (R285 step 5, R112). -/
def weightDest (ds : List Desc) : Option Nat := (ds.find? fun d => d.kind == 1).map fun d => d.base

/-- The last check and the issue (R285 step 8). -/
def copyIssue (s : State) (p : Nat) (q : Path) (i : Instr) (body : CmdBody) (bar : Option Nat) : State :=
  match issueCmd s q i body bar true with
  | some s => advance s p q (sizeOf i)
  | none => trapAll s p q i cBarCount 4 0

/-- A destination of KIND 1, else the issue. -/
def copyTo (s : State) (p : Nat) (q : Path) (i : Instr) (dsts : List Desc) (body : CmdBody) (bar : Option Nat) : State :=
  match weightDest dsts with
  | some a => trapAll s p q i cWeightWr 0 a
  | none => copyIssue s p q i body bar

/-- Handles of a two-handle copy (R284). -/
def twoHandles (w : Nat) : List Nat := [bits w 15 0, bits w 31 16]

/-- The descriptor at an index. -/
def descAt (ds : List Desc) (k : Nat) : Desc := ds.getD k ⟨0, 0, 0, 0, 0, 0, [], [], 0⟩

/-- CPYT (R286). -/
def execCpyt (g x b : Nat) (s : State) : Out :=
  onPath s fun p q =>
    let i := Instr.cpyt g x b
    let w := getG s q g
    copyChecks s p q i (twoHandles w) (bits w 63 32 == 0)
      (fun ds => let a := descAt ds 0; let d := descAt ds 1
        if a.fmt = d.fmt && a.rank = d.rank && a.dims = d.dims then none else some (2, d.addr))
      fun s ds => copyTo s p q i [descAt ds 1] (.copy (descAt ds 0) (descAt ds 1)) (barOf x b)

/-- Conditions of CPYG and CPYS (R287). -/
def rowConditions (q : Path) (indexedSrc : Bool) (ds : List Desc) : Option (Nat × Nat) :=
  let a := descAt ds 0
  let d := descAt ds 1
  let side := if indexedSrc then d else a
  let ok := a.fmt == d.fmt && a.rank == d.rank && decide (2 ≤ a.rank) && a.dims.take (a.rank - 1) == d.dims.take (a.rank - 1) &&
    decide ((lanesOf (active q)).length ≤ nth side.dims (a.rank - 1))
  if ok then none else some (2, d.addr)

/-- The rows that the active lanes name (R287). -/
def rowsOf (s : State) (q : Path) (v : Nat) : List Nat := (lanesOf (active q)).map fun l => getV s q.gang l v

/-- CPYG (R287). -/
def execCpyg (v g x b : Nat) (s : State) : Out :=
  onPath s fun p q =>
    let i := Instr.cpyg v g x b
    let w := getG s q g
    copyChecks s p q i (twoHandles w) (bits w 63 32 == 0) (rowConditions q true)
      fun s ds => copyTo s p q i [descAt ds 1] (.gather (descAt ds 0) (descAt ds 1) (rowsOf s q v)) (barOf x b)

/-- CPYS (R287). -/
def execCpys (v g x b : Nat) (s : State) : Out :=
  onPath s fun p q =>
    let i := Instr.cpys v g x b
    let w := getG s q g
    copyChecks s p q i (twoHandles w) (bits w 63 32 == 0) (rowConditions q false)
      fun s ds => copyTo s p q i [descAt ds 1] (.scatter (descAt ds 0) (descAt ds 1) (rowsOf s q v)) (barOf x b)

/-- Conditions of CPYQ (R288). -/
def quantConditions (ds : List Desc) : Option (Nat × Nat) :=
  let a := descAt ds 0
  let rows := nth a.dims 1
  let cols := nth a.dims 0
  let out (d : Desc) (k m : Nat) : Bool :=
    decide (8 ≤ d.fmt) && decide (d.fmt ≤ 14) && d.block != 0 && d.rank == 2 && nth d.dims 0 == k && nth d.dims 1 == m
  if !(a.rank == 2 && (a.fmt == 4 || a.fmt == 5 || a.fmt == 6)) then some (1, a.addr)
  else if !out (descAt ds 1) cols rows then some (2, (descAt ds 1).addr)
  else if !out (descAt ds 2) rows cols then some (3, (descAt ds 2).addr)
  else none

/-- An output whose scales fill whole scale tiles (R86). -/
def wholeScales (d : Desc) : Bool := nth d.dims 1 % 32 == 0 && nth d.dims 0 % (4 * d.block) == 0 && d.scale % 128 == 0

/-- CPYQ (R288): `k` is the column handle, `h` the row handle. -/
def execCpyq (g x b k h : Nat) (s : State) : Out :=
  onPath s fun p q =>
    let i := Instr.cpyq g x b k h
    let w := getG s q g
    copyChecks s p q i [bits w 15 0, h, k] (bits w 63 16 == 0) quantConditions
      fun s ds => match weightDest [descAt ds 1, descAt ds 2] with
        | some a => trapAll s p q i cWeightWr 0 a
        | none =>
          if !(wholeScales (descAt ds 1) && wholeScales (descAt ds 2)) then trapAll s p q i cScaleLayout 0 0
          else copyIssue s p q i (.quant (descAt ds 0) (descAt ds 1) (descAt ds 2)) (barOf x b)

/-- Conditions of CPYZ and CPYX (R289, R290). -/
def streamConditions (first : Nat) (plain pkz second : Desc) : Option (Nat × Nat) :=
  let n := nth pkz.dims 0
  if pkz.fmt == 15 && decide (plain.fmt ≤ 14) && unitCount plain * unitBytes plain.fmt == 256 * n &&
    decide (first + n ≤ 2 ^ 32) then none else some (2, second.addr)

/-- The key a command captures (R291). -/
def keyOf (s : State) (c k : Nat) : Option Nat := (aGet (c / 16 * 16 + k) s.keys).map BitVec.toNat

/-- CPYZ and CPYX from their checks on (R285, R292). -/
def streamCopy (s : State) (p : Nat) (q : Path) (i : Instr) (w k : Nat) (enc : Bool) (stream : Nat) (bar : Option Nat) : State :=
  let first := bits w 63 32
  let plainOf (ds : List Desc) : Desc := descAt ds (if enc then 0 else 1)
  let pkzOf (ds : List Desc) : Desc := descAt ds (if enc then 1 else 0)
  copyChecks s p q i (twoHandles w) true (fun ds => streamConditions first (plainOf ds) (pkzOf ds) (descAt ds 1))
    fun s ds => match weightDest [descAt ds 1] with
      | some a => trapAll s p q i cWeightWr 0 a
      | none => match keyOf s (ctxOf s q) k with
        | none => trapAll s p q i cProt 7 0
        | some key =>
          let body := if enc then CmdBody.encrypt (plainOf ds) (pkzOf ds) key stream first
            else CmdBody.decrypt (pkzOf ds) (plainOf ds) key stream first
          copyIssue s p q i body bar

/-- CPYZ (R292). -/
def execCpyz (v g x b k : Nat) (s : State) : Out :=
  onPath s fun p q => streamCopy s p q (.cpyz v g x b k) (getG s q g) k true (getG s q v) (barOf x b)

/-- CPYX (R292). -/
def execCpyx (v g x b k : Nat) (s : State) : Out :=
  onPath s fun p q => streamCopy s p q (.cpyx v g x b k) (getG s q g) k false (getG s q v) (barOf x b)

/-- One unit moved from an address to another (R286). -/
def moveUnit (s : State) (id : Nat) (c : Cmd) (src dst : Desc) (a b : Int) : State × Eng :=
  let r := unitRead s id c src.kind a (unitBytes src.fmt)
  match r.2 with
  | .ok bytes => unitWrite r.1 id c dst.kind b bytes
  | e => (r.1, e)

/-- Units of one row (R280). -/
def rowUnits (d : Desc) : Nat := ((d.dims.take (d.rank - 1)).foldl (· * ·) 1) / unitElems d.fmt

/-- Address of unit u of row j. -/
def rowUnitAt (d : Desc) (j u : Nat) : Int := unitAddr d (elemOffset d (unitElems d.fmt * u) + j * strideOf d (d.rank - 1))

/-- The key bytes of a number: 32 bytes, low first (R103, R291). -/
def keyBytes (k : Nat) : List Nat := toBytes 32 k

/-- The IV of block n of a stream (R290). -/
def ivOf (stream n : Nat) : List Nat := toBytes 8 stream ++ toBytes 4 n

/-- Byte ranges of a plain block in element order, gathered into runs (R289). -/
def plainRuns (d : Desc) (j : Nat) : List (Int × Nat) :=
  let at_ (k : Nat) : Int := unitAt d (k / unitBytes d.fmt) + (k % unitBytes d.fmt : Nat)
  ((List.range 256).foldl (fun (acc : List (Int × Nat)) k =>
    let a := at_ (256 * j + k)
    match acc with
    | (b, n) :: rest => if a = b + n then (b, n + 1) :: rest else (a, 1) :: acc
    | [] => [(a, 1)]) []).reverse

/-- Ranges read one after another. -/
def readEachRun (s : State) (id : Nat) (c : Cmd) (kind : Nat) : List (Int × Nat) → State × Eng
  | [] => (s, .ok [])
  | (a, n) :: rs =>
    let r := unitRead s id c kind a n
    match r.2 with
    | .ok b =>
      let t := readEachRun r.1 id c kind rs
      match t.2 with
      | .ok bs => (t.1, .ok (b ++ bs))
      | e => (t.1, e)
    | e => (r.1, e)

/-- A packed block of several ranges read whole (R216): every part of it is checked before any byte is used. -/
def readWhole (s : State) (id : Nat) (c : Cmd) (kind : Nat) (runs : List (Int × Nat)) : State × Eng :=
  if kind = 0 then engReadAll s c.ctx c.core id (runs.map fun r => (wrapInt r.1 64, r.2)) else readEachRun s id c kind runs

/-- The bytes of several ranges, each with its address. -/
def cutRuns : List (Int × Nat) → List Nat → List (Int × List Nat)
  | [], _ => []
  | (a, n) :: rs, bytes => (a, bytes.take n) :: cutRuns rs (bytes.drop n)

/-- A packed block of several ranges written whole or not at all (R216). Outside virtual memory no write of a copy fails (R285). -/
def writeWhole (s : State) (id : Nat) (c : Cmd) (kind : Nat) (runs : List (Int × Nat)) (bytes : List Nat) : State × Eng :=
  let parts := cutRuns runs bytes
  if kind = 0 then engWriteAll s c.ctx c.core id (parts.map fun r => (wrapInt r.1 64, r.2))
  else (parts.foldl (fun s r => (unitWrite s id c kind r.1 r.2).1) s, .ok [])

/-- The 64 words of a plain block. -/
def wordsOfBlock (b : List Nat) : List Nat := (List.range 64).map fun w => ofBytes ((b.drop (4 * w)).take 4)

/-- A slot from a plain block (R289, R290). -/
def slotOfBlock (key stream n : Nat) (b : List Nat) : List Nat :=
  let ws := wordsOfBlock b
  let mask := toBytes 8 (maskOf ((List.range 64).filter fun w => nth ws w != 0))
  let pt := (ws.filter (· != 0)).flatMap (toBytes 4)
  let e := gcmEncrypt (keyBytes key) (ivOf stream n) mask pt
  mask ++ e.2 ++ e.1 ++ List.replicate (264 - e.1.length) 0

/-- Decrypted words put back at their MASK positions (R292). -/
def expandWords (mask : Nat) (ws : List Nat) : List Nat :=
  ((List.range 64).foldl (fun (acc : List Nat × List Nat) w =>
    if hasBit mask w then (acc.1 ++ [acc.2.headD 0], acc.2.tail) else (acc.1 ++ [0], acc.2)) ([], ws)).1

/-- A plain block from a slot; none when the tag does not match (R292). -/
def blockOfSlot (key stream n : Nat) (slot : List Nat) : Option (List Nat) :=
  let mask := ofBytes (slot.take 8)
  let p := popcount 64 mask
  (gcmDecrypt (keyBytes key) (ivOf stream n) (slot.take 8) ((slot.drop 24).take (4 * p)) ((slot.drop 8).take 16)).map fun pt =>
    (expandWords mask ((List.range p).map fun w => ofBytes ((pt.drop (4 * w)).take 4))).flatMap (toBytes 4)

/-- The value of an element as its unit's bytes hold it (R75, R82). -/
def elemOfUnit (fmt sub : Nat) (bytes : List Nat) : Nat :=
  bits (ofBytes bytes) ((sub + 1) * elemBits fmt - 1) (sub * elemBits fmt)

/-- Element codes packed into a unit's bytes (R82). -/
def packUnit (fmt : Nat) (codes : List Nat) : List Nat :=
  toBytes (unitBytes fmt) (sumNat (codes.zipIdx.map fun c => c.1 * 2 ^ (elemBits fmt * c.2)))

/-- The element codes of a 32×32 source tile, row by row (R288). -/
def readTile (s : State) (id : Nat) (c : Cmd) (d : Desc) (tr tc : Nat) : State × Except Eng (List Nat) :=
  (List.range 1024).foldl (fun (acc : State × Except Eng (List Nat)) k =>
    match acc.2 with
    | .error _ => acc
    | .ok vs =>
      let off : Int := (32 * tc + k % 32 : Nat) * strideOf d 0 + (32 * tr + k / 32 : Nat) * strideOf d 1
      let r := unitRead acc.1 id c d.kind (unitAddr d off) (unitBytes d.fmt)
      match r.2 with
      | .ok b => (r.1, .ok (vs ++ [ofBytes b]))
      | e => (r.1, .error e)) (s, .ok [])

/-- The writes of one output of a tile (R288): element units and scale bytes, for rows of the output that start at (k0, m0). -/
def quantOutput (d : Desc) (k0 m0 : Nat) (at_ : Nat → Nat → FVal) : List (Nat × Int × List Nat) × List (Nat × Int × List Nat) :=
  let u := unitElems d.fmt
  let blocks := (List.range 32).flatMap fun m => (List.range (32 / d.block)).map fun b => (m, b)
  let parts := blocks.map fun mb =>
    let z := quantBlock d.fmt ((List.range d.block).map fun i => at_ mb.1 (d.block * mb.2 + i))
    let units := (List.range (d.block / u)).map fun n =>
      let off : Int := (k0 + d.block * mb.2 + u * n : Nat) * strideOf d 0 + (m0 + mb.1 : Nat) * strideOf d 1
      (d.kind, unitAddr d off, packUnit d.fmt ((z.2.drop (u * n)).take u))
    let kb := (k0 + d.block * mb.2) / d.block
    let hs := nth d.dims 0 / (4 * d.block)
    let sa := d.scale + 128 * (kb / 4 + hs * ((m0 + mb.1) / 32)) + scaleOffset ((m0 + mb.1) % 32) (kb % 4)
    (units, (0, (sa : Int), [z.1]))
  (parts.flatMap (·.1), parts.map (·.2))

/-- Writes made one after another until one does not pass: how many passed. -/
def writeAll (s : State) (id : Nat) (c : Cmd) (n : Nat) : List (Nat × Int × List Nat) → (State × Eng) × Nat
  | [] => ((s, .ok []), n)
  | w :: ws =>
    let r := unitWrite s id c w.1 w.2.1 w.2.2
    match r.2 with
    | .ok _ => writeAll r.1 id c (n + 1) ws
    | e => ((r.1, e), n)

/-- The writes that CPYQ makes for tile t, of its source codes, in their order (R288). -/
def quantWrites (src row col : Desc) (t : Nat) (codes : List Nat) : List (Nat × Int × List Nat) :=
  let tcs := nth src.dims 0 / 32
  let tr := t / tcs
  let tc := t % tcs
  let v (i j : Nat) : FVal := elemVal src.fmt false (nth codes (32 * i + j))
  let a := quantOutput row (32 * tc) (32 * tr) v
  let b := quantOutput col (32 * tr) (32 * tc) fun i j => v j i
  a.1 ++ b.1 ++ a.2 ++ b.2

/-- Writes of each tile (R288): the units and the scale bytes of both outputs. -/
def tileWrites (row col : Desc) : Nat :=
  1024 / unitElems row.fmt + 1024 / unitElems col.fmt + 32 * (32 / row.block) + 32 * (32 / col.block)

/-- CPYQ's next tile, or the rest of the one that it stopped in: its source is read once, before its first write (R288, R294). -/
def quantStep (s : State) (id : Nat) (c : Cmd) (src row col : Desc) : (State × Eng) × Cmd :=
  let per := tileWrites row col
  let t := c.next / per
  let r : State × Except Eng (List Nat) := match c.fetched with
    | some w => (s, .ok w.1)
    | none => readTile s id c src (t / (nth src.dims 0 / 32)) (t % (nth src.dims 0 / 32))
  match r.2 with
  | .error e => ((r.1, e), c)
  | .ok codes =>
    let w := writeAll r.1 id c (c.next % per) ((quantWrites src row col t codes).drop (c.next % per))
    let more := decide (w.2 < per)
    (w.1, { c with next := t * per + w.2, fetched := if more then some (codes, []) else none })

/-- Steps of a copy (R283): units, blocks, or CPYQ's writes. -/
def copySteps (b : CmdBody) : Nat :=
  match b with
  | .copy src _ => unitCount src
  | .gather src _ rows => rowUnits src * rows.length
  | .scatter src _ rows => rowUnits src * rows.length
  | .quant src row col => nth src.dims 0 / 32 * (nth src.dims 1 / 32) * tileWrites row col
  | .encrypt _ pkz _ _ _ => nth pkz.dims 0
  | .decrypt pkz _ _ _ _ => nth pkz.dims 0
  | _ => 0

/-- A step that has passed moves the command on; one that has not leaves it there (R294). -/
def stepped (c : Cmd) (r : State × Eng) : (State × Eng) × Cmd :=
  match r.2 with
  | .ok _ => (r, { c with next := c.next + 1 })
  | _ => (r, c)

/-- The next step of a copy (R286 to R292): the access's outcome, and the command after it. A row out of range is passed over, and the
command fails for it (R287). -/
def copyStep (s : State) (id : Nat) (c : Cmd) : (State × Eng) × Cmd :=
  let j := c.next
  let skip : (State × Eng) × Cmd := stepped { c with failed := true } (s, .ok [])
  match c.body with
  | .copy src dst => stepped c (moveUnit s id c src dst (unitAt src j) (unitAt dst j))
  | .gather src dst rows =>
    let k := j / rowUnits src
    let u := j % rowUnits src
    if nth src.dims (src.rank - 1) ≤ nth rows k then skip
    else stepped c (moveUnit s id c src dst (rowUnitAt src (nth rows k) u) (rowUnitAt dst k u))
  | .scatter src dst rows =>
    let k := j / rowUnits src
    let u := j % rowUnits src
    if nth dst.dims (dst.rank - 1) ≤ nth rows k then skip
    else stepped c (moveUnit s id c src dst (rowUnitAt src k u) (rowUnitAt dst (nth rows k) u))
  | .quant src row col => quantStep s id c src row col
  | .encrypt plain pkz key stream first =>
    let r := readWhole s id c plain.kind (plainRuns plain j)
    match r.2 with
    | .ok b => stepped c (writeWhole r.1 id c pkz.kind [(unitAt pkz j, 288)] (slotOfBlock key stream (first + j) b))
    | e => ((r.1, e), c)
  | .decrypt pkz plain key stream first =>
    let r := unitRead s id c pkz.kind (unitAt pkz j) 288
    match r.2 with
    | .ok slot => match blockOfSlot key stream (first + j) slot with
      | some b => stepped c (writeWhole r.1 id c plain.kind (plainRuns plain j) b)
      | none => ((r.1, .fail cTagFail ((first + j) % 2 ^ 16) (wrapInt (unitAt pkz j) 64)), c)
    | e => ((r.1, e), c)
  | _ => ((s, .ok []), c)

/-- What a command has read of the weight store forgotten: its step has been done. -/
def dropUnits (s : State) (id : Nat) : State := modCmd s id fun x => { x with units := [] }

/-- A copy run from its next step until it ends, stops for a page, or awaits a peer (R294, R296, R401). -/
def runCopy : Nat → State → Nat → Cmd → State × Cmd
  | 0, s, _, c => (s, { c with ended := true })
  | fuel + 1, s, id, c =>
    if copySteps c.body ≤ c.next then (s, { c with ended := true })
    else
      let r := copyStep s id c
      match r.1.2 with
      | .ok _ =>
        let s := dropUnits r.1.1 id
        if peerBusy s id then (s, { r.2 with ended := decide (copySteps c.body ≤ r.2.next) }) else runCopy fuel s id r.2
      | .peer => (r.1.1, r.2)
      | e => (r.1.1, stopCmd r.2 r.2.next e)

/-- A command stored after its turn: what it has read of the weight store for the step that it stands in it keeps (R240). -/
def storeCmd (s : State) (id : Nat) (c : Cmd) : State := modCmd s id fun x => { c with units := x.units }

/-- COPY_COMPLETE (R296): the command's remaining elements in order; when it has ended, its batch and its barrier. -/
def execCopyComplete (s : State) : Out :=
  match s.subject with
  | .one id => match aGet id s.cmds with
    | none => .next s
    | some c =>
      if !isCopy c.body || c.page.isSome || peerBusy s id then .next s
      else if c.ended then .next (finishCmd s id c)
      else
        let r := runCopy (copySteps c.body - c.next) s id c
        let s := storeCmd r.1 id r.2
        .next (if r.2.ended && !peerBusy s id then finishCmd s id r.2 else s)
  | _ => .next s

end Sys2Proof.Machine
end

