-- ==== Sys2Proof/Machine/Matrix.lean ====
section
/-! DEFINITION. The matrix engine (R299 to R316, R319, R320): crews and the rendezvous latch, the reservation table, the format
block and the job card, MMA, MJOB, ACCZ and DRAIN with the work of one grant, and CREW_FORM. -/

namespace Sys2Proof.Machine

/-- A command that takes an entry of the cluster's reservation table (R302, R335, R344). -/
def takesEntry (b : CmdBody) : Bool := !isCopy b

/-- Entries of a cluster's reservation table in use (R302). -/
def entriesUsed (s : State) (cluster : Nat) : Nat :=
  (s.cmds.filter fun e => e.2.accepted && takesEntry e.2.body && clusterOf e.2.core == cluster).length

/-- Whether the reservation table of a core's cluster has a free entry (R302). -/
def entryFree (s : State) (core : Nat) : Bool := entriesUsed s (clusterOf core) < Config.reservationEntries

/-- A path goes past its instruction with its command issued; while the table is full the path is not ready (R302). -/
def pastCommand (s : State) (p : Nat) (q : Path) (i : Instr) (id : Nat) (accepted : Bool) : State :=
  let s := advance s p q (sizeOf i)
  if accepted then s else modPath s p fun q => { q with wait := .command id }

/-- A matrix, chain or step command of one path issued (R302): BARCOUNT when its reservation does not fit. -/
def engineIssue (s : State) (p : Nat) (q : Path) (i : Instr) (body : CmdBody) (bar : Option Nat) : State :=
  let ok := entryFree s (coreOf s q)
  match issueCmd s q i body bar ok with
  | some s' => pastCommand s' p q i s.fresh ok
  | none => trapAll s p q i cBarCount 4 0

/-- A command as its engine accepts it: it joins its owners' open batches (R302). -/
def acceptCmd (s : State) (c : Cmd) : Cmd :=
  { c with accepted := true, owners := c.owners.map fun o => (o.1, openBatchOf s o.1, o.2.2) }

/-- The A latches that members with REUSE fill (R308). -/
def fillLatches (s : State) (b : CmdBody) : State :=
  match b with
  | .mma _ _ ms => ms.foldl (fun s m => if m.reuse then modGang s m.gang fun g => { g with latch := some m.a } else s) s
  | _ => s

/-- The A latches that members without REUSE have used, emptied once the command is accepted (R308). -/
def spendLatches (s : State) (b : CmdBody) : State :=
  match b with
  | .mma _ _ ms => ms.foldl (fun s m => if m.latched && !m.reuse then modGang s m.gang fun g => { g with latch := none } else s) s
  | _ => s

/-- RESERVATION_ACCEPT (R302, R308): an entry is free, and the command enters the table and its owners' open batches; their paths go on. It enters
its workgroup's tile order now, but for a crew's, which entered when it formed (R313). -/
def execReservationAccept (s : State) : Out :=
  match s.subject with
  | .one id => match aGet id s.cmds with
    | none => .next s
    | some c =>
      if c.accepted || !entryFree s c.core then .next s
      else
        let f := if isCrew c.body then (id, s) else freshId s
        .next { spendLatches f.2 c.body with
          cmds := aSet f.1 (acceptCmd s c) (aErase id f.2.cmds)
          paths := f.2.paths.map fun e => if e.2.wait = .command id then (e.1, { e.2 with wait := .none }) else e }
  | _ => .next s

/-- A crew word that R299 accepts for a gang of a workgroup of this size. -/
def crewOk (w size idx : Nat) : Bool :=
  let n := bits w 2 0
  let ids := crewIds w
  decide (1 ≤ n) && decide (n ≤ 6) && bits w 7 3 == 0 && bits w 63 (8 * n + 8) == 0 && ids.all (fun i => decide (i < size)) &&
  (uniq ids).length == n && ids.contains idx

/-- A format block's fields (R304). -/
def formatOfBytes (addr : Nat) (b : List Nat) : FormatBlock :=
  { addr := addr, afmt := fieldAt b 0 1, bfmt := fieldAt b 1 1, block := fieldAt b 2 1, anchor := sext (fieldAt b 4 2) 16,
    ascale := fieldAt b 8 8, ascol := fieldAt b 16 1, bk0 := fieldAt b 20 4, bn0 := fieldAt b 24 4 }

/-- Formats that R305 pairs. -/
def formatPair (a b : Nat) : Bool :=
  (decide (8 ≤ a) && decide (a ≤ 14) && decide (8 ≤ b) && decide (b ≤ 14)) || (a == b && decide (4 ≤ a) && decide (a ≤ 7))

/-- What R304 and R305 accept of a format block; `scales` says that ASCALE and ASCOL are checked (an MMA with SREG = 0). -/
def formatOk (b : List Nat) (fb : FormatBlock) (mjob scales : Bool) : Bool :=
  fieldAt b 3 1 == 0 && fieldAt b 6 2 == 0 && fieldAt b 17 3 == 0 && fieldAt b 28 4 == 0 && formatPair fb.afmt fb.bfmt &&
  (fb.block == 0 || fb.block == 16 || fb.block == 32) && (fb.block == 0 || (decide (8 ≤ fb.afmt) && decide (8 ≤ fb.bfmt))) &&
  (if fb.block = 0 then fb.ascale == 0 && fb.ascol == 0
    else !scales || (decide (fb.ascol ≤ 3) && (fb.block != 16 || fb.ascol % 2 == 0))) &&
  fb.bk0 % 32 == 0 && fb.bn0 % 32 == 0 && (!mjob || (fb.bk0 == 0 && fb.bn0 == 0))

/-- Registers of an A operand by its width code, and the formats it admits (R306). -/
def widthRegs (code : Nat) : Nat := nth [4, 6, 8, 16, 32, 64] code
def widthAdmits (code fmt : Nat) : Bool :=
  match code with
  | 0 => fmt == 12 || fmt == 14
  | 1 => fmt == 10 || fmt == 11
  | 2 => fmt == 8 || fmt == 9 || fmt == 13
  | 3 => fmt == 4 || fmt == 5
  | 4 => fmt == 6
  | _ => fmt == 7

/-- The crew word and the format block read and checked (R309 checks 2 and 3), then the rest. `agrees` is the instruction's own
agreement with the block (R305). -/
def crewStart (s : State) (p : Nat) (q : Path) (i : Instr) (g f : Nat) (mjob scales : Bool) (agrees : FormatBlock → Bool)
    (rest : State → List Nat → FormatBlock → State) : State :=
  let size := ((descOf s q).map (·.wgSize)).getD 1
  if !crewOk (getG s q g) size (((gangOf s q).map (·.idx)).getD 0) then trapAll s p q i cCrew 1 0
  else
    let addr := getG s q f
    let r := structRead s p q i addr 32
    match r.2 with
    | none => r.1
    | some b =>
      let fb := formatOfBytes addr b
      if addr % 32 == 0 && formatOk b fb mjob scales && agrees fb then rest r.1 b fb else trapAll r.1 p q i cDescriptor 1 addr

/-- R307's conditions on an operand's descriptor. -/
def operandOk (fb : FormatBlock) (fmt : Nat) (d : Desc) : Bool :=
  d.rank == 2 && d.fmt == fmt && (fb.block == 0 || d.block == fb.block)

/-- One descriptor read and checked under R282 and the instruction's own conditions, both with the handle's DETAIL. -/
def oneDesc (s : State) (p : Nat) (q : Path) (i : Instr) (h detail : Nat) (own : Desc → Bool) (rest : State → Desc → State) : State :=
  let r := readDescs s p q i [(h, detail)]
  match r.2 with
  | none => r.1
  | some ds => match ds with
    | [x] => if descOk x.2.1 x.2.2 && own x.2.2 then rest r.1 x.2.2 else trapAll r.1 p q i cDescriptor detail x.2.2.addr
    | _ => r.1

/-- Scales of an operand that do not fill whole scale tiles (R86, R307). -/
def badScales (fb : FormatBlock) (d : Desc) : Bool :=
  fb.block != 0 && (nth d.dims 1 % 32 != 0 || nth d.dims 0 % (4 * fb.block) != 0)

/-- The A operand in a path's registers (R306): rows of active lanes, with their scale registers. -/
def regOperand (s : State) (q : Path) (v width : Nat) (sreg : Bool) : AOperand :=
  let n := widthRegs width
  { width := width, sreg := sreg, lanes := active q,
    rows := (List.range 32).map fun r =>
      if hasBit (active q) r then (List.range n).map (fun k => getV s q.gang r (v + k)) ++
        (if sreg then [getV s q.gang r (v + 8)] else []) else [] }

/-- What makes two members the same crew's (R300): fn and aux, the crew word, the bytes read, and for MMA the B handle. -/
def sameCrew (a b : LatchMember) : Bool :=
  a.word == b.word && a.bytes == b.bytes && match a.instr, b.instr with
    | .mma _ _ sa _ wa ha _ _, .mma _ _ sb _ wb hb _ _ => sa == sb && wa == wb && ha == hb
    | .mjob _ _ xa ba _, .mjob _ _ xb bb _ => xa == xb && ba == bb
    | _, _ => false

/-- The command of a formed crew (R300, R309, R312): member i of the crew word at position i. -/
def crewBody (s : State) (ms : List LatchMember) : CmdBody :=
  let byPosition (w : Nat) : List LatchMember := (crewIds w).filterMap fun id =>
    ms.find? fun m => ((aGet m.gang s.gangs).map (·.idx)) == some id
  match ms.head? with
  | none => .stepEnd
  | some m => match m.body with
    | .mma fb b _ => .mma fb b ((byPosition m.word).flatMap fun x => match x.body with
        | .mma _ _ y => y
        | _ => [])
    | .mjob fb card a b _ => .mjob fb card a b ms.length
    | x => x

/-- BAR of an MJOB (R312). -/
def crewBar (i : Instr) : Option Nat :=
  match i with
  | .mjob _ _ x b _ => barOf x b
  | _ => none

/-- A crew forms as one command (R300, R302, R308): its members' A latches change and their paths go past the instruction, but while the table
is full no member is ready. None when the barrier reservation does not fit. -/
def formCrew (s : State) (q : Path) (ms : List LatchMember) : Option State :=
  match ms.head? with
  | none => none
  | some first =>
    let ok := entryFree s (coreOf s q)
    let id := s.fresh
    let body := crewBody s ms
    match issueFor s q first.instr body (crewBar first.instr) ok (ms.map fun m => (m.gang, m.lanes)) with
    | none => none
    | some s' =>
      let s' := fillLatches s' body
      some (ms.foldl (fun s m => match aGet m.path s.paths with
        | some q => pastCommand s m.path q m.instr id ok
        | none => s) (if ok then spendLatches s' body else s'))

/-- A workgroup's latch that holds every member forms its crew (R300); where the barrier reservation does not fit, BARCOUNT goes to every
member and the latch empties (R301). -/
def formFull (s : State) (wid : Nat) : State :=
  match aGet wid s.wgs with
  | none => s
  | some w => match w.latch.head?, (w.latch.getLast?).bind fun m => aGet m.path s.paths with
    | some f, some q =>
      if w.latch.length != bits f.word 2 0 then s
      else match formCrew (modWg s wid fun w => { w with latch := [] }) q w.latch with
        | some s => s
        | none => emptyLatch s wid cBarCount 4
    | _, _ => s

/-- CREW_FORM (R300, R301): the crew of a latch that every member has reached; pre-emption stops its members where they wait (R158). -/
def execCrewForm (s : State) : Out :=
  match s.subject with
  | .one wid => .next (if ((aGet wid s.wgs).map fun w => isRunning s w.ctx) = some true then formFull s wid else s)
  | _ => .next s

/-- A path takes its place in the latch; the last member's arrival forms the crew (R300). -/
def joinLatch (s : State) (p : Nat) (q : Path) (m : LatchMember) : State :=
  let wid := wgIdOf s q
  formFull (waitAt (modWg s wid fun w => { w with latch := w.latch ++ [m] }) p q m.instr .latch) wid

/-- A member that has passed its checks arrives (R300, R301). -/
def arrive (s : State) (p : Nat) (q : Path) (m : LatchMember) : State :=
  match wgOfPath s q, gangOf s q with
  | some w, some g =>
    let alone := bits m.word 2 0 == 1
    let listed := (w.latch.head?).any fun f => (crewIds f.word).contains g.idx
    if alone && !listed then match formCrew s q [m] with
      | some s => s
      | none => trapAll s p q m.instr cBarCount 4 0
    else if w.latch.any fun x => x.gang == q.gang then trapAll s p q m.instr cCrew 4 0
    else match w.latch.head? with
      | some f =>
        if !sameCrew f m then
          let s := emptyLatch s (wgIdOf s q) cCrew 2
          match aGet p s.paths with
          | some q => trapAll s p q m.instr cCrew 2 0
          | none => s
        else joinLatch s p q m
      | none => joinLatch s p q m
  | _, _ => s

/-- MMA (R309): its checks in order, then the arrival. -/
def execMma (v g sr ru wd h f t : Nat) (s : State) : Out :=
  onPath s fun p q =>
    let i := Instr.mma v g sr ru wd h f t
    let sreg := sr == 1
    crewStart s p q i g f false (!sreg) (fun fb => widthAdmits wd fb.afmt && (!sreg || fb.block != 0)) fun s bytes fb =>
      let latch := (gangOf s q).bind (·.latch)
      let clash := latch.any fun a => a.width != wd || a.sreg != sreg
      if clash then trapAll s p q i cDescriptor 6 fb.addr
      else
        oneDesc s p q i h 2 (fun d => operandOk fb fb.bfmt d && decide (fb.bk0 + 32 ≤ nth d.dims 0) && decide (fb.bn0 + 32 ≤ nth d.dims 1))
          fun s d => match scratchFault s q [d] with
            | some a => trapAll s p q i cScratch 0 a
            | none =>
              if badScales fb d || (fb.block != 0 && !sreg && fb.ascale % 128 != 0) then trapAll s p q i cScaleLayout 0 0
              else
                let a := latch.getD (regOperand s q v wd sreg)
                arrive s p q
                  { path := p, gang := q.gang, instr := i, word := getG s q g, bytes := bytes,
                    body := .mma fb d [{ gang := q.gang, lanes := active q, tile := t, a := a, latched := latch.isSome, reuse := ru == 1 }],
                    lanes := active q }

/-- A job card's fields (R311). -/
def cardOfBytes (addr : Nat) (b : List Nat) : JobCard :=
  { addr := addr, zero := hasBit (fieldAt b 0 4) 0, step := hasBit (fieldAt b 0 4) 1, stepId := fieldAt b 4 2,
    ct0 := fieldAt b 7 1, am0 := fieldAt b 16 4, ak0 := fieldAt b 20 4, bk0 := fieldAt b 24 4, bn0 := fieldAt b 28 4,
    cms := fieldAt b 12 1,
    levels := (List.range (fieldAt b 6 1)).map fun j =>
      let o := 32 + 16 * j
      (fieldAt b o 2, sext (fieldAt b (o + 4) 2) 16, sext (fieldAt b (o + 6) 2) 16, sext (fieldAt b (o + 8) 2) 16,
        sext (fieldAt b (o + 10) 2) 16, sext (fieldAt b (o + 12) 1) 8) }

/-- The card's own fields (R312 check 4, R341). -/
def cardOk (b : List Nat) (c : JobCard) : Bool :=
  let nlev := fieldAt b 6 1
  fieldAt b 0 4 / 4 == 0 && (c.step || c.stepId == 0) && (!c.step || (c.zero && decide (c.stepId < 16))) &&
  decide (1 ≤ nlev) && decide (nlev ≤ 5) && fieldAt b 13 3 == 0 && fieldAt b 112 16 == 0 &&
  c.am0 % 32 == 0 && c.ak0 % 32 == 0 && c.bk0 % 32 == 0 && c.bn0 % 32 == 0 &&
  (List.range 5).all fun j =>
    let o := 32 + 16 * j
    if j < nlev then fieldAt b o 2 != 0 && fieldAt b (o + 2) 2 == 0 && fieldAt b (o + 13) 3 == 0 else fieldAt b o 16 == 0

/-- The part of the card check that needs the descriptors and the allocation (R312 check 6), for one pass. -/
def passOk (tiles : Nat) (a b : Desc) (x : PassPlan) : Bool :=
  let inside (o : Int) (n : Nat) : Bool := decide (0 ≤ o) && decide (o + 32 ≤ (n : Int))
  decide (0 ≤ x.tile) && decide (x.tile < tiles) && inside x.am (nth a.dims 1) && inside x.ak (nth a.dims 0) &&
  inside x.bk (nth b.dims 0) && inside x.bn (nth b.dims 1)

/-- MJOB (R312): its checks in order, then the arrival. -/
def execMjob (v g x b f : Nat) (s : State) : Out :=
  onPath s fun p q =>
    let i := Instr.mjob v g x b f
    crewStart s p q i g f true false (fun _ => true) fun s bytes fb =>
      let addr := getG s q v
      let r := structRead s p q i addr 128
      match r.2 with
      | none => r.1
      | some cb =>
        let card := cardOfBytes addr cb
        let k := bits (getG s q g) 2 0
        if !(addr % 128 == 0 && cardOk cb card) then trapAll r.1 p q i cDescriptor 4 addr
        else
          oneDesc r.1 p q i (fieldAt cb 8 2) 2 (operandOk fb fb.afmt) fun s da =>
            oneDesc s p q i (fieldAt cb 10 2) 3 (operandOk fb fb.bfmt) fun s db =>
              if !((jobPasses card k).all (passOk (((descOf s q).map (·.accTiles)).getD 0) da db)) then
                trapAll s p q i cDescriptor 4 addr
              else match scratchFault s q [da, db] with
                | some a => trapAll s p q i cScratch 0 a
                | none =>
                  if badScales fb da || badScales fb db then trapAll s p q i cScaleLayout 0 0
                  else arrive s p q
                    { path := p, gang := q.gang, instr := i, word := getG s q g, bytes := bytes ++ cb,
                      body := .mjob fb card da db k, lanes := active q }

/-- ACCZ (R317, R318). -/
def execAccz (v g : Nat) (s : State) : Out :=
  onPath s fun p q => engineIssue s p q (.accz v g) (.accz v (sext (getG s q g) 16)) none

/-- Destination formats of DRAIN, as codes of R281 (R319). -/
def drainFmt (code : Nat) : Nat := nth [6, 7, 5, 4, 8, 9] code

/-- DRAIN (R319). -/
def execDrain (v g x b e z m f h : Nat) (s : State) : Out :=
  onPath s fun p q =>
    let i := Instr.drain v g x b e z m f h
    let org := getG s q g
    let col := bits org 31 0
    let row := bits org 63 32
    oneDesc s p q i h 2 (fun d => d.rank == 2 && d.fmt == drainFmt f && (decide (f < 4) || d.block == 32) &&
        decide (col + 32 ≤ nth d.dims 0) && decide (row + 32 ≤ nth d.dims 1))
      fun s d => match scratchFault s q [d] with
        | some a => trapAll s p q i cScratch 0 a
        | none =>
          if d.kind = 1 then
            trapAll s p q i cWeightWr 0 (wrapInt (unitAddr d (col * strideOf d 0 + row * strideOf d 1)) 64)
          else if 4 ≤ f && (col % 32 != 0 || row % 32 != 0 || nth d.dims 1 % 32 != 0 || nth d.dims 0 % 128 != 0) then
            trapAll s p q i cScaleLayout 0 0
          else engineIssue s p q i (.drain v org d f m (z == 1) (e == 1)) (barOf x b)

/-- An element code of a rank-2 descriptor at (i0, i1), read through the MAT path (R307, R314). -/
def elemRead (s : State) (id : Nat) (c : Cmd) (d : Desc) (i0 i1 : Nat) : State × Except Eng Nat :=
  let off : Int := i0 * strideOf d 0 + i1 * strideOf d 1
  let r := unitRead s id c d.kind (unitAddr d off) (unitBytes d.fmt)
  match r.2 with
  | .ok b => (r.1, .ok (elemOfUnit d.fmt (off % (unitElems d.fmt : Int)).toNat b))
  | e => (r.1, .error e)

/-- Reads made one after another until one does not pass. -/
def readEach (s : State) (n : Nat) (f : State → Nat → State × Except Eng Nat) : State × Except Eng (List Nat) :=
  (List.range n).foldl (fun (acc : State × Except Eng (List Nat)) j =>
    match acc.2 with
    | .error _ => acc
    | .ok xs =>
      let r := f acc.1 j
      match r.2 with
      | .ok x => (r.1, .ok (xs ++ [x]))
      | .error e => (r.1, .error e)) (s, .ok [])

/-- One byte at a virtual address as an engine reads it. -/
def byteRead (s : State) (id : Nat) (c : Cmd) (va : Nat) : State × Except Eng Nat :=
  let r := engRead s c.ctx c.core id (va % 2 ^ 64) 1
  match r.2 with
  | .ok b => (r.1, .ok (nth b 0))
  | e => (r.1, .error e)

/-- A 32×32 window of a descriptor with its scales (R85, R307): K along dimension 0 from k0, rows along dimension 1 from r0. -/
def readWindow (s : State) (id : Nat) (c : Cmd) (fb : FormatBlock) (d : Desc) (k0 r0 : Nat) : State × Except Eng Window :=
  let e := readEach s 1024 fun s j => elemRead s id c d (k0 + j % 32) (r0 + j / 32)
  match e.2 with
  | .error x => (e.1, .error x)
  | .ok codes =>
    if fb.block = 0 then (e.1, .ok ⟨codes, []⟩)
    else
      let nb := 32 / fb.block
      let h := nth d.dims 0 / (4 * fb.block)
      let t := readEach e.1 (32 * nb) fun s j =>
        let r := r0 + j / nb
        let kb := k0 / fb.block + j % nb
        byteRead s id c (d.scale + 128 * (kb / 4 + h * (r / 32)) + scaleOffset (r % 32) (kb % 4))
      match t.2 with
      | .error x => (t.1, .error x)
      | .ok sc => (t.1, .ok ⟨codes, sc⟩)

/-- The A window of a crew member (R306): its rows' codes, and its scales from registers or from ASCALE's tile. -/
def memberWindow (s : State) (id : Nat) (c : Cmd) (fb : FormatBlock) (m : Member) : State × Except Eng Window :=
  let nb := if fb.block = 0 then 0 else 32 / fb.block
  let n := widthRegs m.a.width
  let w := elemBits fb.afmt
  let codes := m.a.rows.flatMap fun r =>
    let x := sumNat ((r.take n).zipIdx.map fun y => y.1 * 2 ^ (32 * y.2))
    (List.range 32).map fun k => bits x (w * k + w - 1) (w * k)
  if fb.block = 0 then (s, .ok ⟨codes, []⟩)
  else if m.a.sreg then
    (s, .ok ⟨codes, m.a.rows.flatMap fun r => (List.range nb).map fun j => bits (nth r n) (8 * j + 7) (8 * j)⟩)
  else
    let t := readEach s (32 * nb) fun s j => byteRead s id c (fb.ascale + scaleOffset (j / nb) (fb.ascol + j % nb))
    match t.2 with
    | .error x => (t.1, .error x)
    | .ok sc => (t.1, .ok ⟨codes, sc⟩)

/-- A command that failed at a pass or element (R316). -/
def failCmd (c : Cmd) (code detail addr : Nat) : Cmd :=
  { c with ended := true, failed := true, trap := some ⟨code, 0, detail, 0, false, addr⟩ }

/-- A pass into a tile (R310, R298): the anchor and the poison checked, then every addition. -/
def runPass (s : State) (c : Cmd) (t : Nat) (fb : FormatBlock) (rows : List Nat) (a b : Window) : State × Option Cmd :=
  if (tileOf s c.wg t).anchor != fb.anchor then (s, some (failCmd c cDescriptor 5 fb.addr))
  else if rows.any fun r => (List.range 32).any fun n => elemPoisoned s c.wg t (32 * r + n) then (s, some (failCmd c cMCheck 0 0))
  else (addPass s c.wg t fb rows a b, none)

/-- The B window that a command's passes use, fetched once for the whole crew (R307): its origins are an MMA's, or those of a point of a
job's loop nest. -/
def fetchB (s : State) (id : Nat) (c : Cmd) (fb : FormatBlock) (d : Desc) (k0 n0 : Nat) : State × Except Eng Window :=
  match c.fetched with
  | some w => (s, .ok ⟨w.1, w.2⟩)
  | none => readWindow s id c fb d k0 n0

/-- One grant to an MMA (R302, R310): the pass of its next member. -/
def grantMma (s : State) (id : Nat) (c : Cmd) (fb : FormatBlock) (d : Desc) (ms : List Member) : State × Cmd :=
  match ms[c.next]? with
  | none => (s, { c with ended := true })
  | some m =>
    let b := fetchB s id c fb d fb.bk0 fb.bn0
    match b.2 with
    | .error e => (b.1, stopCmd c c.next e)
    | .ok bw =>
      let c := { c with fetched := some (bw.codes, bw.scales) }
      let a := memberWindow b.1 id c fb m
      match a.2 with
      | .error e => (a.1, stopCmd c c.next e)
      | .ok aw =>
        let r := runPass a.1 c m.tile fb (lanesOf m.a.lanes) aw bw
        match r.2 with
        | some c => (r.1, c)
        | none => (dropUnits r.1 id, { c with next := c.next + 1, ended := c.next + 1 == ms.length })

/-- A pass of a job (R311, R312). `more`: another pass of the same point of the loop nest follows, for which the B window is kept (R307). -/
def grantJobPass (s : State) (id : Nat) (c : Cmd) (fb : FormatBlock) (a b : Desc) (x : PassPlan) (more : Bool) : State × Cmd :=
  let rb := fetchB s id c fb b x.bk.toNat x.bn.toNat
  match rb.2 with
  | .error e => (rb.1, stopCmd c c.next e)
  | .ok bw =>
    let c := { c with fetched := some (bw.codes, bw.scales) }
    let ra := readWindow rb.1 id c fb a x.ak.toNat x.am.toNat
    match ra.2 with
    | .error e => (ra.1, stopCmd c c.next e)
    | .ok aw =>
      let r := runPass ra.1 c x.tile.toNat fb (List.range 32) aw bw
      match r.2 with
      | some c => (r.1, c)
      | none => (dropUnits r.1 id, { c with next := c.next + 1, fetched := if more then c.fetched else none })

/-- The C tiles that a job names (R312). -/
def jobTiles (card : JobCard) (k : Nat) : List Nat := uniq ((jobPasses card k).map fun x => x.tile.toNat)

/-- One grant to an MJOB that is not step-tracked (R312): the tiles zeroed before the first pass, then a pass. -/
def grantJob (s : State) (id : Nat) (c : Cmd) (fb : FormatBlock) (card : JobCard) (a b : Desc) (k : Nat) : State × Cmd :=
  let s := if card.zero && !c.planned then
      (jobTiles card k).foldl (fun s t => zeroTile s c.wg t fb.anchor (tileOf s c.wg t).dstat) s else s
  let r := grantJobPass s id { c with planned := true } fb a b (passAt card k c.next) (c.next % k + 1 != k)
  (r.1, if r.2.next == passCount card k then { r.2 with ended := true } else r.2)

/-- Rounding of a scaled element of DRAIN (R95): the code, the flags, and the wrap. -/
def drainScaled (f : Fmt) (x : Int) (a : Int) (e st : Nat) : Nat × Nat × Bool :=
  match st with
  | 0 =>
    let v := reconstruct e
    if v == 0 then (0, 0, wrapped e)
    else
      let r := roundMag f 0 (decide (v < 0)) v.natAbs 1 (a - x)
      (if r.1 % f.signBit > f.maxCode then signed f (decide (v < 0)) f.maxCode else r.1, r.2, wrapped e)
  | 3 => (defaultNan f, 0, false)
  | n => (signed f (n == 2) f.maxCode, if f.hasInf then 0 else flagOF ||| flagNX, false)

/-- The shared exponent of a row of a tile (R95). -/
def rowExp (s : State) (wg t r : Nat) (fmt : Nat) : Int :=
  let x := tileOf s wg t
  sharedExp fmt (blockMax ((List.range 32).filterMap fun c =>
    if smapAt x.smap (32 * r + c) = 0 then
      let v := reconstruct (getElem s wg t (32 * r + c))
      some (.fin (decide (v < 0)) v.natAbs x.anchor)
    else none))

/-- DSTAT's bits of an element's flags (R297): WRAP 0, NV 1, OF 2, UF 3, NX 4. -/
def dstatOf (flags : Nat) (wrap : Bool) : Nat := wrap.toNat + 2 * (flags &&& flagNV) + (flags &&& (flagOF ||| flagUF ||| flagNX))

/-- Step j of a DRAIN (R320): an element written, or with scale formats the scale byte after a row's 32 elements. -/
def drainStep (s : State) (id : Nat) (c : Cmd) (t org : Nat) (d : Desc) (fmt mode : Nat) (j : Nat) : (State × Eng) × Nat :=
  let per := if 4 ≤ fmt then 33 else 32
  let r := j / per
  let k := j % per
  let x := tileOf s c.wg t
  let row := bits org 63 32 + r
  let col := bits org 31 0 + k
  let code := drainFmt fmt
  if k = 32 then
    let kb := bits org 31 0 / 32
    let va := d.scale + 128 * (kb / 4 + nth d.dims 0 / 128 * (row / 32)) + scaleOffset (row % 32) (kb % 4)
    (engWrite s c.ctx c.core id (va % 2 ^ 64) [(rowExp s c.wg t r code + 127).toNat], 0)
  else
    let bad := if 4 ≤ fmt then (List.range 32).any fun n => elemPoisoned s c.wg t (32 * r + n) else elemPoisoned s c.wg t (32 * r + k)
    if bad then ((s, .fail cMCheck 0 0), 0)
    else
      let e := getElem s c.wg t (32 * r + k)
      let st := smapAt x.smap (32 * r + k)
      let f := (elemFmt code).getD f32
      let v := if 4 ≤ fmt then drainScaled f (rowExp s c.wg t r code) x.anchor e st else drainElem f mode x.anchor e st
      let addr := unitAddr d (col * strideOf d 0 + row * strideOf d 1)
      (unitWrite s id c d.kind addr (toBytes (unitBytes code) v.1), dstatOf v.2.1 v.2.2)

/-- The grant of a DRAIN (R320): its steps from where it stands; at the end DSTAT, and the tile zeroed with ZERO. -/
def runDrain (t org : Nat) (d : Desc) (fmt mode : Nat) (zero werr : Bool) : Nat → State → Nat → Cmd → State × Cmd
  | 0, s, _, c =>
    let x := tileOf s c.wg t
    let ds := c.flags ||| x.inv.toNat * 2 ||| x.lost.toNat * 16
    let s := if zero then zeroTile s c.wg t x.anchor ds else setTile s c.wg t { x with dstat := ds }
    (s, { c with ended := true, failed := werr && hasBit ds 0 })
  | n + 1, s, id, c =>
    let r := drainStep s id c t org d fmt mode c.next
    match r.1.2 with
    | .ok _ => runDrain t org d fmt mode zero werr n r.1.1 id { c with next := c.next + 1, flags := c.flags ||| r.2 }
    | e => (r.1.1, stopCmd c c.next e)

/-- Steps of a DRAIN. -/
def drainSteps (fmt : Nat) : Nat := if 4 ≤ fmt then 33 * 32 else 1024

end Sys2Proof.Machine
end

