-- ==== Sys2Proof/Machine/Chains.lean ====
section
/-! DEFINITION. Tensor-train chains (R323 to R336): bond and mode registers, the chain descriptor, the contraction-order program with
its checks, TTCON and TTPROG, and the contraction step of the engine. -/

namespace Sys2Proof.Machine

/-- BDSET (R327). -/
def execBdset (g n : Nat) (s : State) : Out :=
  onPath s fun p q =>
    let x := getG s q g
    if x < 1 || 4096 < x then trapAll s p q (.bdset g n) cDescriptor 3 0
    else advance (modWg s (wgIdOf s q) fun w => { w with bonds := setAt w.bonds n x }) p q 1

/-- BDGET (R327): `m` is 0 for BD, 1 for MD. -/
def execBdget (d m n : Nat) (s : State) : Out :=
  onPath s fun p q =>
    let x := ((wgOfPath s q).map fun w => nth (if m = 0 then w.bonds else w.modes) n).getD 0
    advance (setG s q d x) p q 1

/-- A mode value that MDSET accepts (R326, R327). -/
def modeOk (x : Nat) : Bool := bits x 63 25 == 0 && bits x 15 9 == 0 && bits x 8 0 != 0 && bits x 24 16 != 0

/-- MDSET (R327). -/
def execMdset (g n : Nat) (s : State) : Out :=
  onPath s fun p q =>
    let x := getG s q g
    if !modeOk x then trapAll s p q (.mdset g n) cDescriptor 3 0
    else advance (modWg s (wgIdOf s q) fun w => { w with modes := setAt w.modes n (x % 2 ^ 32) }) p q 1

/-- A chain descriptor's fields, with bonds and modes as they stand (R325, R328, R334). -/
def chainOfBytes (addr : Nat) (b : List Nat) (bd md : List Nat) : Chain :=
  let n := fieldAt b 0 1
  { addr := addr, ncore := n, wfmt := fieldAt b 1 1, bfmt := fieldAt b 2 1, anchor := sext (fieldAt b 4 2) 16,
    ping := fieldAt b 8 4, pong := fieldAt b 12 4, cap := fieldAt b 16 4, stat := fieldAt b 20 4,
    cores := (List.range 16).map fun k => fieldAt b (32 + 8 * k) 8,
    bonds := (List.range (n + 1)).map fun k => if k = 0 || k = n then 1 else nth bd k,
    modes := (List.range n).map fun k => (bits (nth md k) 8 0, bits (nth md k) 24 16) }

/-- Word k of the contraction-order program (R332). -/
def stepWord (b : List Nat) (k : Nat) : Nat := fieldAt b (160 + 4 * k) 4

/-- Bytes of one buffer (R328). -/
def bufferBytes (c : Chain) : Nat := c.cap * (elemBits c.bfmt / 8)

/-- What R328 and R332 accept. -/
def chainOk (b : List Nat) (c : Chain) : Bool :=
  let nstep := fieldAt b 6 1
  decide (1 ≤ c.ncore) && decide (c.ncore ≤ 16) && [4, 5, 6, 8, 9].contains c.wfmt && [4, 5, 6, 7].contains c.bfmt &&
  decide (fieldAt b 3 1 < 4) && decide (1 ≤ nstep) && decide (nstep ≤ 16) && fieldAt b 7 1 == 0 && c.ping % 128 == 0 &&
  c.pong % 128 == 0 && decide (1 ≤ c.cap) && decide (c.cap ≤ 131072) && c.stat % 4 == 0 && fieldAt b 24 8 == 0 &&
  (List.range 16).all (fun k => if k < c.ncore then decide (nth c.cores k < 2 ^ 32) && nth c.cores k % 128 == 0 else nth c.cores k == 0) &&
  (List.range 16).all (fun k => if k < nstep then decide (stepWord b k < 256) && decide (bits (stepWord b k) 4 0 ≤ 16) else stepWord b k == 0) &&
  fieldAt b 224 32 == 0 && !overlap c.ping (bufferBytes c) c.pong (bufferBytes c) && !overlap c.ping (bufferBytes c) c.stat 4 &&
  !overlap c.pong (bufferBytes c) c.stat 4

/-- The first scratchpad offset of a chain that is out of range (R328). -/
def chainScratch (size : Nat) (c : Chain) : Option Nat :=
  minBy id ([(c.ping, bufferBytes c), (c.pong, bufferBytes c), (c.stat, 4)].filterMap fun r =>
    if size < r.1 + r.2 then some (Nat.max r.1 size) else none)

/-- A boundary word (R329). -/
def bSide (w : Nat) : Nat := bits w 26 26
def bHi (w : Nat) : Nat := bits w 25 21
def bLo (w : Nat) : Nat := bits w 20 16
def bBatch (w : Nat) : Nat := bits w 11 0

/-- A boundary word that R329 accepts for a chain of n cores. -/
def boundaryOk (n w : Nat) : Bool :=
  bits w 63 27 == 0 && bits w 15 12 == 0 && bBatch w != 0 &&
  ((bLo w == 0 && bHi w == 0) || (bLo w == 0 && decide (0 < bHi w) && decide (bHi w ≤ n)) ||
    (bHi w == n && decide (0 < bLo w) && decide (bLo w < n)))

/-- The core and direction that bond position b names from a boundary (R330). -/
def stepChoice (n w b : Nat) : Option (Nat × Bool) :=
  if !boundaryOk n w then none
  else if bLo w = 0 && bHi w = 0 then
    if b = 0 then some (0, true) else if b = n then some (n - 1, false) else none
  else if bLo w = 0 then
    if bHi w < n && b = bHi w then some (bHi w, true) else none
  else if b = bLo w then some (bLo w - 1, false) else none

/-- The boundary word after a contraction (R330). -/
def nextBoundary (n w k : Nat) (asc : Bool) : Nat :=
  let lo := if asc then bLo w else k
  let hi := if asc then bHi w + 1 else if bLo w = 0 && bHi w = 0 then n else bHi w
  (1 - bSide w) * 2 ^ 26 + hi * 2 ^ 21 + lo * 2 ^ 16 + bBatch w

/-- Mode sizes of a core. -/
def modeI (c : Chain) (k : Nat) : Nat := (c.modes.getD k (1, 1)).1
def modeJ (c : Chain) (k : Nat) : Nat := (c.modes.getD k (1, 1)).2

/-- Product of a list of naturals. -/
def prodNat (xs : List Nat) : Nat := xs.foldl (· * ·) 1

/-- Input modes not contracted by [lo, hi), and output modes produced (R331). -/
def inputsLeft (c : Chain) (lo hi : Nat) : Nat :=
  prodNat (((List.range c.ncore).filter fun k => !(lo ≤ k && k < hi)).map (modeI c))
def outputsMade (c : Chain) (lo hi : Nat) : Nat :=
  prodNat (((List.range c.ncore).filter fun k => lo ≤ k && k < hi).map (modeJ c))

/-- Elements of a boundary word (R331). -/
def boundaryCount (c : Chain) (w : Nat) : Nat :=
  let open_ := if bLo w = 0 && bHi w = 0 then 1 else if bLo w = 0 then nth c.bonds (bHi w) else nth c.bonds (bLo w)
  bBatch w * inputsLeft c (bLo w) (bHi w) * outputsMade c (bLo w) (bHi w) * open_

/-- Bytes of a core (R325). -/
def coreBytes (c : Chain) (k : Nat) : Nat :=
  elemBits c.wfmt / 8 * (nth c.bonds k * (modeI c k * modeJ c k) * nth c.bonds (k + 1))

/-- The checks of one step (R334 check 5): its contraction and the boundary after it, or code, DETAIL and FAULTADDR. -/
def checkStep (s : State) (ctx : Nat) (c : Chain) (w b mode k : Nat) : Except (Nat × Nat × Nat) (ChainStep × Nat) :=
  match stepChoice c.ncore w b with
  | none => .error (cDescriptor, 2 + 16 * k, 0)
  | some (core, asc) =>
    let a := nth c.cores core
    let die := bits a 31 30
    let off := bits a 29 0
    let win := (windowOf s ctx die).2
    let w' := nextBoundary c.ncore w core asc
    if win < off + coreBytes c core then .error (cProt, 6, die * 2 ^ 30 + Nat.max off win)
    else if c.cap < boundaryCount c w then .error (cBondOvf, 1 + 16 * k, 0)
    else if c.cap < boundaryCount c w' then .error (cBondOvf, 2 + 16 * k, 0)
    else .ok ({ core := core, ascending := asc, mode := mode, side := bSide w, batch := bBatch w, lo := bLo w, hi := bHi w }, w')

/-- The steps of a program checked in order (R334). -/
def checkSteps (s : State) (ctx : Nat) (c : Chain) : Nat → Nat → List (Nat × Nat) → Except (Nat × Nat × Nat) (List ChainStep × Nat)
  | _, w, [] => .ok ([], w)
  | k, w, (b, mode) :: rest => match checkStep s ctx c w b mode k with
    | .error e => .error e
    | .ok (x, w') => match checkSteps s ctx c (k + 1) w' rest with
      | .error e => .error e
      | .ok (xs, w'') => .ok (x :: xs, w'')

/-- TTCON and TTPROG (R334): the checks in order, G[v] := the final boundary word, and the command. -/
def chainIssue (s : State) (p : Nat) (q : Path) (i : Instr) (v g : Nat) (bar : Option Nat)
    (program : List Nat → List (Nat × Nat)) : State :=
  let addr := getG s q g
  let r := structRead s p q i addr 256
  match r.2 with
  | none => r.1
  | some b =>
    let s := r.1
    let w := wgOfPath s q
    let c := chainOfBytes addr b ((w.map (·.bonds)).getD []) ((w.map (·.modes)).getD [])
    if !(addr % 256 == 0 && chainOk b c) then trapAll s p q i cDescriptor 1 addr
    else match chainScratch (scratchBytes s q) c with
      | some a => trapAll s p q i cScratch 0 a
      | none => match checkSteps s (ctxOf s q) c 0 (getG s q v) (program b) with
        | .error e => trapAll s p q i e.1 e.2.1 e.2.2
        | .ok (steps, w') =>
          let ok := entryFree s (coreOf s q)
          match issueCmd s q i (.chain c steps) bar ok with
          | none => trapAll s p q i cBarCount 4 0
          | some s' => pastCommand (setG s' q v w') p q i s.fresh ok

/-- TTCON (R334): one step with bond position `k` and MODE. -/
def execTtcon (w g k x b : Nat) (s : State) : Out :=
  onPath s fun p q => chainIssue s p q (.ttcon w g k x b) w g (barOf x b) fun d => [(k, bits (fieldAt d 3 1) 1 0)]

/-- TTPROG (R334): STEP0 to STEP(NSTEP−1), each under MODE or its MOVR (R332). -/
def execTtprog (w g x b : Nat) (s : State) : Out :=
  onPath s fun p q => chainIssue s p q (.ttprog w g x b) w g (barOf x b) fun d =>
    (List.range (fieldAt d 6 1)).map fun k =>
      let y := stepWord d k
      (bits y 4 0, if hasBit y 7 then bits y 6 5 else bits (fieldAt d 3 1) 1 0)

/-- Elements that a contraction step writes (R331). -/
def stepOutputs (c : Chain) (x : ChainStep) : Nat :=
  let p := outputsMade c x.lo x.hi
  let u := inputsLeft c x.lo x.hi / modeI c x.core
  x.batch * u * p * modeJ c x.core * (if x.ascending then nth c.bonds (x.core + 1) else nth c.bonds x.core)

/-- Linear indexes of the operands whose products sum to output y (R331): boundary element and core element. -/
def stepTerms (c : Chain) (x : ChainStep) (y : Nat) : List (Nat × Nat) :=
  let k := x.core
  let ni := modeI c k
  let nj := modeJ c k
  let l := nth c.bonds k
  let r := nth c.bonds (k + 1)
  let np := outputsMade c x.lo x.hi
  let nu := inputsLeft c x.lo x.hi / ni
  let gAt (a i j b : Nat) : Nat := (a * (ni * nj) + (i * nj + j)) * r + b
  if x.ascending then
    let b := y % r
    let j := y / r % nj
    let p := y / r / nj % np
    let u := y / r / nj / np % nu
    let q := y / r / nj / np / nu
    (List.range ni).flatMap fun i => (List.range l).map fun a => ((((q * ni + i) * nu + u) * np + p) * l + a, gAt a i j b)
  else
    let a := y % l
    let p := y / l % np
    let j := y / l / np % nj
    let u := y / l / np / nj % nu
    let q := y / l / np / nj / nu
    (List.range ni).flatMap fun i => (List.range r).map fun b => ((((q * nu + u) * ni + i) * np + p) * r + b, gAt a i j b)

/-- One sum of products (R331): the element with its special state, LOST and INV, and the infinities it has received (R92). -/
structure ChainSum where
  elem : Nat
  st : Nat
  lost : Bool
  inv : Bool
  infs : Nat
  deriving DecidableEq, Repr

/-- An element's value added (R90, R91). -/
def ChainSum.add (a : Int) (x : ChainSum) (p : Partial) : ChainSum :=
  let r := accumulate a x.elem x.st p
  let seen := x.infs ||| infOf p
  ⟨r.1, r.2.1, x.lost || r.2.2.1, x.inv || r.2.2.2 || seen == 3, seen⟩

/-- Buffer offset of a side. -/
def sideBase (c : Chain) (side : Nat) : Nat := if side = 0 then c.ping else c.pong

/-- Output y of a step: read its operands, sum, convert and write (R331, R336). -/
def chainElem (s : State) (id : Nat) (cmd : Cmd) (c : Chain) (x : ChainStep) (y : Nat) : (State × Eng) × Nat :=
  let nb := elemBits c.bfmt / 8
  let nw := elemBits c.wfmt / 8
  let r := (stepTerms c x y).foldl (fun (acc : (State × Option Eng) × ChainSum) t =>
    match acc.1.2 with
    | some _ => acc
    | none =>
      let a := unitRead acc.1.1 id cmd 2 (sideBase c x.side + nb * t.1 : Nat) nb
      match a.2 with
      | .ok xb =>
        let g := unitRead a.1 id cmd 1 (nth c.cores x.core + nw * t.2 : Nat) nw
        match g.2 with
        | .ok gb =>
          let pr := productPartial (elemVal c.bfmt false (ofBytes xb)) (elemVal c.wfmt false (ofBytes gb))
          ((g.1, none), acc.2.add c.anchor pr)
        | e => ((g.1, some e), acc.2)
      | e => ((a.1, some e), acc.2)) ((s, none), ⟨0, 0, false, false, 0⟩)
  match r.1.2 with
  | some e => ((r.1.1, e), 0)
  | none =>
    let f := (elemFmt c.bfmt).getD f32
    let v := drainElem f x.mode c.anchor r.2.elem r.2.st
    let flags := dstatOf v.2.1 v.2.2 ||| r.2.inv.toNat * 2 ||| r.2.lost.toNat * 16
    ((scratchWrite r.1.1 cmd.wg (sideBase c (1 - x.side) + nb * y) (toBytes nb v.1), .ok []), flags)

/-- Products of a step that make one output element: I_k · C of R303. -/
def elemProducts (c : Chain) (x : ChainStep) : Nat :=
  modeI c x.core * (if x.ascending then nth c.bonds x.core else nth c.bonds (x.core + 1))

/-- Passes of a contraction step (R303). -/
def stepPasses (c : Chain) (x : ChainStep) : Nat := (stepOutputs c x * elemProducts c x + 32767) / 32768

/-- Output elements that are complete after n passes of a step: those whose products all lie among the first 32,768 · n (log entry 49). -/
def passElems (c : Chain) (x : ChainStep) (n : Nat) : Nat := Nat.min (stepOutputs c x) (32768 * n / elemProducts c x)

/-- The elements that a pass completes, from where it stands; then the pass, and after its last pass the step, is over. -/
def runChainPass (c : Chain) (x : ChainStep) : Nat → State → Nat → Cmd → State × Cmd
  | 0, s, _, cmd =>
    if cmd.pass + 1 < stepPasses c x then (s, { cmd with pass := cmd.pass + 1 })
    else (s, { cmd with next := 0, pass := 0, step := cmd.step + 1 })
  | n + 1, s, id, cmd =>
    let r := chainElem s id cmd c x cmd.next
    match r.1.2 with
    | .ok _ => runChainPass c x n (dropUnits r.1.1 id) id { cmd with next := cmd.next + 1, flags := cmd.flags ||| r.2 }
    | .fail code _ a => (r.1.1, failCmd cmd code cmd.step a)
    | e => (r.1.1, stopCmd cmd cmd.next e)

/-- One grant to a chain command (R303, R334, R335): the next pass of its contraction step; after the last, the status word (R331). -/
def grantChain (s : State) (id : Nat) (cmd : Cmd) (c : Chain) (steps : List ChainStep) : State × Cmd :=
  match steps[cmd.step]? with
  | none => (s, { cmd with ended := true })
  | some x =>
    let r := runChainPass c x (passElems c x (cmd.pass + 1) - cmd.next) s id cmd
    if r.2.step == steps.length then
      let old := scratchRead r.1 cmd.wg c.stat 4
      (scratchWrite r.1 cmd.wg c.stat (toBytes 4 ((old % 32) ||| r.2.flags)), { r.2 with ended := true })
    else r

end Sys2Proof.Machine
end

