-- ==== Sys2Proof/Machine/Control.lean ====
section
/-! DEFINITION. Control transfers, the divergence stack, rejoining, ending and the lift's deposits (R150 to R167), and the events
TAG_COMPLETE and REGANG_COMPLETE. -/

namespace Sys2Proof.Machine

/-- A branch target: W + 4 · offset, modulo 2^64 (R38). -/
def target (pos : Position) (off n : Nat) : Nat := wrapInt ((wordAddr pos : Int) + 4 * sext off n) 64

/-- Entries a path may hold in a slice (R152): 16, or 8 on a dense partition; 8 for the park path. -/
def stackCap (s : State) (q : Path) : Nat :=
  if q.park then 8
  else if ((aGet (ctxAt s (ctxOf s q)).part s.parts).map (·.dense)).getD false then 8 else 16

/-- Whether a slice has room for one more entry of the path's kind (R152). -/
def hasRoom (s : State) (q : Path) (g : Gang) (c : Nat) : Bool :=
  decide ((g.stack.filter fun e => e.slice == c && e.park == q.park).length < stackCap s q)

/-- Lanes of a gang that are parked, wait for the park slot, or run in it (R151). -/
def parkedLanes (s : State) (gid : Nat) (g : Gang) : Nat :=
  maskOf (g.parks.flatMap fun r => r.lanes.map (·.1)) ||| g.groups.foldl (fun m x => m ||| x.lanes) 0 |||
    (s.paths.filter fun e => e.2.gang == gid && e.2.park).foldl (fun m e => m ||| e.2.lanes) 0

/-- A split in a slice is dual (R151). -/
def dualSplit (s : State) (q : Path) (g : Gang) (c : Nat) : Bool :=
  !q.park && maskDiff (maskDiff (sliceLanes c g.live) (parkedLanes s q.gang g)) q.lanes == 0

/-- The record of a BARSYNC that a path's lanes keep when they part or wait: at user level another instruction has cleared it (R416). -/
def keptRecord (q : Path) : Option (Nat × Nat) := if q.sup then q.barsync else none

/-- A path of the same gang, level and kind with other lanes, position and slots. -/
def forkPath (s : State) (q : Path) (lanes slot1 : Nat) (pos : Position) : State :=
  let f := freshId s
  setPath f.2 f.1
    { q with lanes := lanes, slot1 := slot1, pos := pos, wait := .none, cur := none, base := 0, refused := [], replay := none,
             pending := [], barsync := keptRecord q, starve := 0, starving := false, prefer := false }

/-- The path divided by a per-lane branch (R151, R152): taken lanes at the target, the others at the next word, or deferred in
slices whose split is serialised. DIVCAP leaves no effect. -/
def splitPath (s : State) (p : Nat) (q : Path) (i : Instr) (taken tgt : Nat) : State :=
  let rest := maskDiff q.lanes taken
  if taken = 0 then advance s p q 1
  else if rest = 0 then jump s p q tgt
  else match gangOf s q with
    | none => s
    | some g =>
      let mixed := (slicesOf q.lanes).filter fun c : Nat => sliceLanes c taken != 0 && sliceLanes c rest != 0
      let dual := mixed.filter (dualSplit s q g)
      let serial := mixed.filter fun c => !dual.contains c
      if serial.any fun c => !hasRoom s q g c then trapAll s p q i cDivCap 1 0
      else
        let next := nextPos q.pos 1
        let entries := serial.map fun c : Nat =>
          ({ slice := c, tag := g.nextTag, isJoin := false, group := sliceLanes c q.lanes, lanes := sliceLanes c rest,
             addr := next.hdr, word := next.word, cls := next.cls, n := next.n, sup := q.sup, park := q.park,
             barsync := keptRecord q } : StackEntry)
        let deferred := entries.foldl (fun m e => m ||| e.lanes) 0
        let s := modGang s q.gang fun g => { g with stack := entries ++ g.stack, nextTag := g.nextTag + 1 }
        let flip := q.slot1 ^^^ maskOf dual
        let runOn := maskDiff rest deferred
        if runOn = 0 then jump s p { q with lanes := taken, slot1 := flip } tgt
        else
          let s := forkPath s q taken flip ⟨tgt, 0, 0, 0⟩
          advance s p { q with lanes := runOn } 1

/-- BRC (R163). -/
def execBrc (pr n o : Nat) (s : State) : Out :=
  onPath s fun p q =>
    let taken := maskOf ((lanesOf (active q)).filter fun l => getP s q.gang l pr != (n == 1))
    splitPath s p q (.brc pr n o) taken (target q.pos o 22)

/-- A condition of UBRC on a 64-bit register (R163). -/
def uCond (cond x : Nat) : Bool :=
  let v := sext x 64
  match cond with
  | 0 => v = 0
  | 1 => v != 0
  | 2 => v < 0
  | 3 => 0 ≤ v
  | 4 => v ≤ 0
  | _ => 0 < v

/-- A transfer of the issuing lanes (R116): all of the path's, but after TRAPRET those that replay the instruction alone; the others go on
from the next one, and the path parts as under a per-lane branch. -/
def transfer (s : State) (p : Nat) (q : Path) (i : Instr) (tgt : Nat) : State :=
  if active q = q.lanes then jump s p q tgt else splitPath s p q i (active q) tgt

/-- UBRC (R163). -/
def execUbrc (g c o : Nat) (s : State) : Out :=
  onPath s fun p q => if uCond c (getG s q g) then transfer s p q (.ubrc g c o) (target q.pos o 18) else advance s p q 1

/-- A parting of the path would pass the capacity of a divergence stack (R116, R152). -/
def transferBlocked (s : State) (q : Path) : Bool :=
  active q != q.lanes && match gangOf s q with
    | none => false
    | some g => (slicesOf q.lanes).any fun c : Nat =>
        sliceLanes c (active q) != 0 && sliceLanes c (maskDiff q.lanes (active q)) != 0 && !dualSplit s q g c && !hasRoom s q g c

/-- CALL (R164): the next clause's header address goes to G31. -/
def execCall (o : Nat) (s : State) : Out :=
  onPath s fun p q =>
    if transferBlocked s q then trapAll s p q (.call o) cDivCap 1 0
    else transfer (setG s q 31 (q.pos.hdr + 4 * (q.pos.n + 1))) p q (.call o) (target q.pos o 26)

/-- JMP (R164). -/
def execJmp (g : Nat) (s : State) : Out :=
  onPath s fun p q =>
    if getG s q g % 4 != 0 then trapAll s p q (.jmp g) cIllClause 0 (getG s q g) else transfer s p q (.jmp g) (getG s q g)

/-- JSET (R165): one tag for the issue, a JOIN entry in each slice of the path. -/
def execJset (o : Nat) (s : State) : Out :=
  onPath s fun p q => match gangOf s q with
    | none => s
    | some g =>
      let cs := slicesOf (active q)
      if cs.any fun c => !hasRoom s q g c then trapAll s p q (.jset o) cDivCap 1 0
      else
        let entries := cs.map fun c : Nat =>
          ({ slice := c, tag := g.nextTag, isJoin := true, group := sliceLanes c (active q), lanes := 0, addr := target q.pos o 22,
             word := 0, cls := 0, n := 0, sup := q.sup, park := q.park, barsync := none } : StackEntry)
        advance (modGang s q.gang fun g => { g with stack := entries ++ g.stack, nextTag := g.nextTag + 1 }) p q 1

/-- NOP in the CTRL major (R166). -/
def execNopC (s : State) : Out := onPath s fun p q => advance s p q 1

/-- YIELD (R166): not ready until another path of its scheduler has issued, or for one cycle when none is ready. -/
def execYield (s : State) : Out :=
  onPath s fun p q =>
    let s := advance s p q 1
    modPath s p fun q => { q with wait := .yield }

/-- The topmost JOIN entry of a stack that meets a lane mask. -/
def topJoin (stack : List StackEntry) (lanes : Nat) : Option StackEntry :=
  stack.find? fun e => e.isJoin && e.group &&& lanes != 0

/-- Lanes marked ARRIVED at their topmost JOIN entries, one in each slice (R153). -/
def markArrived (stack : List StackEntry) (lanes : Nat) : List StackEntry :=
  let hits := (slicesOf lanes).filterMap fun c => topJoin stack (sliceLanes c lanes)
  stack.map fun e =>
    if hits.any fun h => h.slice == e.slice && h.tag == e.tag then { e with lanes := e.lanes ||| sliceLanes e.slice lanes } else e

/-- The path's issuing lanes wait by a JOIN or REGANG issue: they hold no slot, and a deadlock that this creates is their fault (R157).
Lanes that do not replay the instruction after TRAPRET go on from the next one (R116). -/
def waitLanes (s : State) (p : Nat) (q : Path) (stack pops : List StackEntry) (w : WaitIssue) : State :=
  let s := modGang s q.gang fun g => { g with stack := stack, waits := g.waits ++ [w] }
  let rest := maskDiff q.lanes w.lanes
  let s := if rest = 0 then { s with paths := aErase p s.paths } else advance s p { q with lanes := rest } 1
  let s := resumeLanes s q.gang pops
  match aGet q.gang s.gangs with
  | some g => if joinDeadlock g then breakDeadlock s q.gang w else s
  | none => s

/-- JOIN (R153, R165). -/
def execJoin (s : State) : Out :=
  onPath s fun p q => match gangOf s q with
    | none => s
    | some g =>
      let bad := (slicesOf (active q)).any fun c => (topJoin g.stack (sliceLanes c (active q))).isNone
      if bad then trapAll s p q .join cDivCap 2 0
      else
        let pops := pendOnTop g.stack (active q)
        let stack := markArrived (popEntries g.stack pops) (active q)
        waitLanes s p q stack pops ⟨active q, q.pos, q.sup, false, 0, baseOf s q, keptRecord q⟩

/-- REGANG (R157). -/
def execRegang (s : State) : Out :=
  onPath s fun p q => match gangOf s q with
    | none => s
    | some g =>
      let pops := pendOnTop g.stack (active q)
      waitLanes s p q (popEntries g.stack pops) pops ⟨active q, q.pos, q.sup, true, wordAddr q.pos, baseOf s q, keptRecord q⟩

/-- Both regular slots of some slice of a lane mask are taken by paths of a gang (R147). -/
def slotsFull (s : State) (gid lanes : Nat) : Bool :=
  (slicesOf lanes).any fun c =>
    decide (2 ≤ (s.paths.filter fun e => e.2.gang == gid && !e.2.park && (slicesOf e.2.lanes).contains c).length)

/-- The record of a BARSYNC that a path made of several waits keeps: theirs, where they have one and the same (R416, log entry 117). -/
def sharedRecord (ws : List WaitIssue) : Option (Nat × Nat) :=
  match uniq (ws.map (·.barsync)) with
  | [r] => r
  | _ => none

/-- TAG_COMPLETE (R153): every entry of the tag is popped, and the arrived lanes go on as one path at the join address, in a regular slot;
lanes whose tag the park path pushed return to the park slot only where both regular slots are taken. Where both are taken and a regular path
pushed the tag, the path is one more regular one, in slot 1; and where the waits had different levels, it is at supervisor level (log
entry 27). -/
def execTagComplete (s : State) : Out :=
  match s.subject with
  | .two gid tag => match aGet gid s.gangs with
    | none => .next s
    | some g =>
      if !tagDone g tag || !gangLive s g then .next s
      else
        let es := g.stack.filter fun e => e.isJoin && e.tag == tag
        let lanes := es.foldl (fun m e => m ||| e.lanes) 0
        let sup := g.waits.any fun w => w.lanes &&& lanes != 0 && w.sup
        let g' := { g with stack := popEntries g.stack es,
                           waits := (g.waits.map fun w => { w with lanes := maskDiff w.lanes lanes }).filter fun w => w.lanes != 0 }
        match es.head? with
        | some e => .next (newPath { s with gangs := aSet gid g' s.gangs } gid lanes ⟨e.addr, 0, 0, 0⟩ sup
            (e.park && slotsFull s gid lanes) (sharedRecord (g.waits.filter fun w => w.lanes &&& lanes != 0)))
        | none => .next s
  | _ => .next s

/-- REGANG_COMPLETE (R157): JOIN entries are discarded, G registers copied, FPSTAT gathered, and every live lane goes on. -/
def execRegangComplete (s : State) : Out :=
  match s.subject with
  | .one gid => match aGet gid s.gangs with
    | none => .next s
    | some g =>
      if !regangDone g || !gangLive s g then .next s
      else match g.waits.head? with
        | none => .next s
        | some w =>
          let all := List.range g.slices.length
          let c0 := lowSlice g.live
          let fp := all.foldl (fun m c => m ||| bGet s.csr (csrKey gid c csrFpStat)) 0
          let s := { s with
            gangs := aSet gid { g with stack := [], waits := [] } s.gangs,
            g := bSetAll s.g (all.flatMap fun c => (List.range 32).map fun r => (gKey gid c r, getGs s gid c0 r)),
            csr := bSetAll s.csr (all.map fun c => (csrKey gid c csrFpStat, fp)) }
          .next (newPath s gid g.live ⟨w.pos.hdr + 4 * (w.pos.n + 1), 0, 0, 0⟩ (g.waits.any (·.sup)) false (sharedRecord g.waits))
  | _ => .next s

/-- Faults pending in paths of these slices are delivered once no other lane there is at supervisor level (R111). -/
def deliverPending (s : State) (gid lanes : Nat) : State :=
  ((s.paths.filter fun e => e.2.gang == gid && (slicesOf e.2.lanes).any fun c => (slicesOf lanes).contains c).map (·.1)).foldl
    deliverNext s

/-- EXIT (R156, R166): every active lane of the path ends. -/
def execExit (s : State) : Out :=
  onPath s fun p q =>
    let s := advance s p q 1
    let s := endLanes s q.gang (active q)
    if q.sup then deliverPending s q.gang q.lanes else s

/-- The code extent of a path's launch (R54). -/
def inExtent (s : State) (q : Path) (a : Nat) : Bool :=
  match descOf s q with
  | some d => decide (d.codeAddr ≤ a) && decide (a < d.codeAddr + 4 * d.codeWords)
  | none => false

/-- What a lane's deposit finds wrong with its group (R159): DETAIL 1 or 3. A group is the entries that the lift still holds: gangs that a flush
has made of earlier ones and that wait for their slices are no part of it (log entry 28). -/
def liftClash (lift : List LiftEntry) (key n cont : Nat) : Option Nat :=
  (lift.find? fun e => e.key == key).bind fun e =>
    if e.payload.length != n then some 1 else if e.cont != cont then some 3 else none

/-- REORDER (R167). -/
def execReorder (a b n o : Nat) (s : State) : Out :=
  onPath s fun p q =>
    let i := Instr.reorder a b n o
    let c := target q.pos o 32
    match wgOfPath s q with
    | none => s
    | some w =>
      if !inExtent s q c then trapAll s p q i cReorder 2 0
      else match (lanesOf (active q)).findSome? fun l => liftClash w.lift (getV s q.gang l a) (n + 1) c with
        | some detail => trapAll s p q i cReorder detail 0
        | none =>
          let es := (lanesOf (active q)).map fun l =>
            ({ key := getV s q.gang l a, payload := (List.range (n + 1)).map fun k => getV s q.gang l (b + k), cont := c } : LiftEntry)
          let s := modWg s (wgIdOf s q) fun w => { w with lift := w.lift ++ es }
          let s := advance s p q 2
          let s := endLanes s q.gang (active q)
          if q.sup then deliverPending s q.gang q.lanes else s

end Sys2Proof.Machine
end

