-- ==== Sys2Proof/Machine/Steps.lean ====
section
/-! DEFINITION. The timestep sequencer (R337 to R345): the step-stream descriptor, step state, STEPBEG, STEPEND, SKIPRD, SKIPWR and
the work of a step-tracked job. -/

namespace Sys2Proof.Machine

/-- Blocks of a step-stream descriptor (R337). -/
def blockOfBytes (b : List Nat) (k : Nat) : StepBlock :=
  let o := 16 + 24 * k
  { mt := fieldAt b o 1, nt := fieldAt b (o + 1) 1, kt := fieldAt b (o + 2) 1, sigBase := fieldAt b (o + 8) 8,
    outBase := fieldAt b (o + 16) 8 }

/-- A grid size of R337. -/
def gridOk (n : Nat) : Bool := decide (1 ≤ n) && decide (n ≤ 64)

/-- What R337 accepts. -/
def streamOk (b : List Nat) : Bool :=
  let n := fieldAt b 0 1
  let tau := fieldAt b 4 4
  decide (1 ≤ n) && decide (n ≤ 16) && fieldAt b 1 1 == 0 && isFinite f32 tau && (tau == 0x80000000 || decide (tau < 0x80000000)) &&
  fieldAt b 8 2 == 0 && fieldAt b 10 2 / 2 ^ n == 0 && fieldAt b 400 112 == 0 &&
  (List.range 16).all fun k =>
    let x := blockOfBytes b k
    if k < n then gridOk x.mt && gridOk x.nt && gridOk x.kt && fieldAt b (16 + 24 * k + 3) 5 == 0 &&
      x.sigBase % 32 == 0 && x.outBase % 128 == 0
    else fieldAt b (16 + 24 * k) 24 == 0

/-- Step state as a well-formed descriptor opens it (R340). -/
def openStream (addr : Nat) (b : List Nat) : StepState :=
  let period := fieldAt b 2 2
  let stepNo := fieldAt b 12 4
  { isOpen := true, addr := addr, blocks := (List.range (fieldAt b 0 1)).map (blockOfBytes b), period := period,
    tau := fieldAt b 4 4, primed := fieldAt b 10 2, stepNo := stepNo, refresh := period != 0 && stepNo % period == 0,
    done := 0, maps := [] }

/-- Step state of a workgroup changed. -/
def modStep (s : State) (wg : Nat) (f : StepState → StepState) : State := modWg s wg fun w => { w with step := f w.step }

/-- STEPBEG (R344). -/
def execStepbeg (g : Nat) (s : State) : Out :=
  onPath s fun p q => engineIssue s p q (.stepbeg g) (.stepBegin (getG s q g)) none

/-- STEPEND (R344). -/
def execStepend (x b : Nat) (s : State) : Out :=
  onPath s fun p q => engineIssue s p q (.stepend x b) .stepEnd (barOf x b)

/-- The grant of a STEPBEG (R340). -/
def grantBegin (s : State) (id : Nat) (c : Cmd) (st : StepState) (addr : Nat) : State × Cmd :=
  if st.isOpen then (s, failCmd c cDescriptor 7 addr)
  else
    let r := engRead s c.ctx c.core id addr 512
    match r.2 with
    | .ok b =>
      if addr % 128 == 0 && streamOk b then (modStep r.1 c.wg fun _ => openStream addr b, { c with ended := true })
      else (r.1, failCmd c cDescriptor 1 addr)
    | e => (r.1, stopCmd c 0 e)

/-- The grant of a STEPEND (R340): PRIMED and STEPNO + 1 written back. -/
def grantEnd (s : State) (id : Nat) (c : Cmd) (st : StepState) : State × Cmd :=
  if !st.isOpen then (s, failCmd c cDescriptor 8 0)
  else
    let r := engWrite s c.ctx c.core id ((st.addr + 10) % 2 ^ 64) (toBytes 2 st.primed ++ toBytes 4 ((st.stepNo + 1) % 2 ^ 32))
    match r.2 with
    | .ok _ => (modStep r.1 c.wg fun x => { x with isOpen := false }, { c with ended := true })
    | e => (r.1, stopCmd c 0 e)

/-- The bits of a block's skip map that a map word covers: none where SKIPRD reads zero (R344). -/
def mapMask (st : StepState) (x : Nat) : Nat :=
  match st.blocks[bits x 11 8]? with
  | none => 0
  | some b => bits (2 ^ (b.mt * b.nt) - 1) (64 * bits x 5 0 + 63) (64 * bits x 5 0)

/-- An index word of SKIPRD and SKIPWR (R344). -/
def indexOk (x : Nat) : Bool := bits x 7 6 == 0 && bits x 63 12 == 0

/-- SKIPRD (R344). -/
def execSkiprd (d g : Nat) (s : State) : Out :=
  onPath s fun p q =>
    let x := getG s q g
    if !indexOk x then trapAll s p q (.skiprd d g) cDescriptor 0 0
    else inTileOrder s p q (.skiprd d g) fun s q =>
      let word := ((wgOfPath s q).map fun w =>
        bits (spGet w.step.maps (bits x 11 8)) (64 * bits x 5 0 + 63) (64 * bits x 5 0) &&& mapMask w.step x).getD 0
      advance (setG s q d word) p q 1

/-- SKIPWR (R344). -/
def execSkipwr (v g : Nat) (s : State) : Out :=
  onPath s fun p q =>
    let x := getG s q g
    if !indexOk x then trapAll s p q (.skipwr v g) cDescriptor 0 0
    else inTileOrder s p q (.skipwr v g) fun s q =>
      let y := getG s q v
      let s := modStep s (wgIdOf s q) fun st =>
        let mask := mapMask st x * 2 ^ (64 * bits x 5 0)
        let old := spGet st.maps (bits x 11 8)
        { st with maps := spSet st.maps (bits x 11 8) (maskDiff old mask ||| (y * 2 ^ (64 * bits x 5 0) &&& mask)) }
      advance s p q 1

/-- Tile indexes of a pass (R341). -/
def passM (x : PassPlan) : Nat := (x.am / 32).toNat
def passK (x : PassPlan) : Nat := (x.ak / 32).toNat
def passN (x : PassPlan) : Nat := (x.bn / 32).toNat

/-- Pairs without repetition, ascending. -/
def pairsUp (xs : List (Nat × Nat)) : List (Nat × Nat) := sortBy (fun x => x.1 * 2 ^ 32 + x.2) (uniq xs)

/-- A value with its block scale applied (R342). -/
def scaleVal (v : FVal) (sc : Option Int) : FVal :=
  match sc with
  | none => .nan false 1
  | some k => match v with
    | .fin n m e => .fin n m (e + k)
    | x => x

/-- The eight projections of an A window (R342). -/
def windowSigs (fb : FormatBlock) (w : Window) : List Nat :=
  let nb := 32 / fb.block
  let rows := (List.range 32).map fun r => (List.range 32).map fun k =>
    let v := elemVal fb.afmt (fb.block != 0) (nth w.codes (32 * r + k))
    if fb.block = 0 then v else scaleVal v (scaleExp (nth w.scales (nb * r + k / fb.block)))
  (List.range 8).map fun k => projection k rows

/-- One projection is changed against the stored one (R343). -/
def sigChanged (tau a b : Nat) : Bool :=
  match unpack f32 a, unpack f32 b with
  | .nan _ _, _ => true
  | _, .nan _ _ => true
  | .inf x, .inf y => x != y
  | .inf _, _ => true
  | _, .inf _ => true
  | x, y => Dyadic.lt (dyadicOf f32 (tau % 0x80000000)) (x.dyadic.sub y.dyadic).abs

/-- Signatures of the input tiles of a job, and which of them are changed (R341). -/
def signTiles (s : State) (id : Nat) (c : Cmd) (fb : FormatBlock) (a : Desc) (blk : StepBlock) (tau : Nat) (pr : Bool) :
    List (Nat × Nat) → State × Except Eng (List (Nat × Nat × List Nat × Bool))
  | [] => (s, .ok [])
  | (m, k) :: rest =>
    let r := readWindow s id c fb a (32 * k) (32 * m)
    match r.2 with
    | .error e => (r.1, .error e)
    | .ok w =>
      let sig := windowSigs fb w
      let old := if pr then engRead r.1 c.ctx c.core id (blk.sigBase + 32 * (m * blk.kt + k)) 32 else (r.1, .ok [])
      match old.2 with
      | .ok b =>
        let ch := !pr || (List.range 8).any fun j => sigChanged tau (nth sig j) (fieldAt b (4 * j) 4)
        let t := signTiles old.1 id c fb a blk tau pr rest
        match t.2 with
        | .error e => (t.1, .error e)
        | .ok xs => (t.1, .ok ((m, k, sig, ch) :: xs))
      | e => (old.1, .error e)

/-- Bytes of an output-store entry (R338). -/
def entryBytes : Nat := 16896

/-- Output tiles of a job with their C tiles, ascending (R341). -/
def jobOutputs (ps : List PassPlan) : List (Nat × Nat × Nat) :=
  sortBy (fun x => (x.1 * 2 ^ 32 + x.2.1) * 2 ^ 8 + x.2.2) (uniq (ps.map fun x => (passM x, passN x, x.tile.toNat)))

/-- Entries of the output store read for skipped tiles (R341). -/
def loadEntries (s : State) (id : Nat) (c : Cmd) (blk : StepBlock) : List (Nat × Nat × Nat) →
    State × Except Eng (List (Nat × List Nat))
  | [] => (s, .ok [])
  | (m, n, t) :: rest =>
    let r := engRead s c.ctx c.core id (blk.outBase + entryBytes * (m * blk.nt + n)) entryBytes
    match r.2 with
    | .ok b =>
      let u := loadEntries r.1 id c blk rest
      match u.2 with
      | .ok xs => (u.1, .ok ((t, b) :: xs))
      | .error e => (u.1, .error e)
    | e => (r.1, .error e)

/-- A tile loaded from an entry (R338, R341): DSTAT is cleared. -/
def loadTile (s : State) (wg t : Nat) (anchor : Int) (b : List Nat) : State :=
  let s := zeroTile s wg t anchor 0
  let s := { s with acc := bSetAll s.acc ((List.range 1024).map fun e => (elemKey wg t e, canonicalElem (fieldAt b (16 * e) 16))) }
  let f := fieldAt b 16642 1
  setTile s wg t { anchor := anchor, lost := hasBit f 0, inv := hasBit f 1, smap := fieldAt b 16384 256, dstat := 0, infs := 0 }

/-- An entry's bytes from a tile (R338). -/
def entryOf (s : State) (wg t : Nat) : List Nat :=
  let x := tileOf s wg t
  (List.range 1024).flatMap (fun e => toBytes 16 (getElem s wg t e % 2 ^ 112)) ++ toBytes 256 x.smap ++
    toBytes 2 (wrapInt x.anchor 16) ++ [x.lost.toNat + 2 * x.inv.toNat] ++ List.replicate 253 0

/-- What a step-tracked job does before its first pass (R341). A stop for a page leaves nothing of it done. -/
def planStep (s : State) (id : Nat) (c : Cmd) (st : StepState) (fb : FormatBlock) (card : JobCard) (a : Desc) (k : Nat) :
    State × Cmd :=
  let ps := jobPasses card k
  match st.blocks[card.stepId]? with
  | none => (s, failCmd c cDescriptor 9 card.addr)
  | some blk =>
    if !st.isOpen then (s, failCmd c cDescriptor 9 card.addr)
    else if hasBit st.done card.stepId then (s, failCmd c cDescriptor 10 card.addr)
    else if ps.any fun x => decide (blk.mt ≤ passM x) || decide (blk.nt ≤ passN x) || decide (blk.kt ≤ passK x) then
      (s, failCmd c cDescriptor 11 card.addr)
    else
      let pr := hasBit st.primed card.stepId && !st.refresh
      let failed (s : State) (c : Cmd) : State × Cmd :=
        (if c.failed then modStep s c.wg (fun x => { x with done := x.done ||| 2 ^ card.stepId }) else s, c)
      let sg := signTiles s id c fb a blk st.tau pr (pairsUp (ps.map fun x => (passM x, passK x)))
      match sg.2 with
      | .error e => failed sg.1 (stopCmd c 0 e)
      | .ok sigs =>
        let map := spGet st.maps card.stepId
        let outs := jobOutputs ps
        let skip (m n : Nat) : Bool :=
          pr && (hasBit map (m * blk.nt + n) || sigs.all fun x => x.1 != m || !x.2.2.2)
        let skipped := outs.filter fun x => skip x.1 x.2.1
        let ld := loadEntries sg.1 id c blk skipped
        match ld.2 with
        | .error e => failed ld.1 (stopCmd c 0 e)
        | .ok entries =>
          if entries.any fun e => sext (fieldAt e.2 16640 2) 16 != fb.anchor then failed ld.1 (failCmd c cDescriptor 5 fb.addr)
          else
            let s := outs.foldl (fun s x => if skip x.1 x.2.1 then s
              else zeroTile s c.wg x.2.2 fb.anchor (tileOf s c.wg x.2.2).dstat) ld.1
            let s := entries.foldl (fun s e => loadTile s c.wg e.1 fb.anchor e.2) s
            let map := outs.foldl (fun m x =>
              let b := 2 ^ (x.1 * blk.nt + x.2.1)
              if skip x.1 x.2.1 then m ||| b else maskDiff m b) map
            let s := modStep s c.wg fun x => { x with done := x.done ||| 2 ^ card.stepId, maps := spSet x.maps card.stepId map }
            (s, { c with planned := true, skips := skipped.map (fun x => (x.1, x.2.1)),
                         changed := (sigs.filter fun x => x.2.2.2).map fun x => (x.1, x.2.1, x.2.2.1) })

/-- What a planned step-tracked job still does, in order (R341). -/
inductive JobAct where
  | pass (x : PassPlan)
  | store (m n tile : Nat)
  | sign (m k : Nat) (sig : List Nat)
  deriving DecidableEq, Repr

/-- The passes of tiles that are computed, each tile's store after its last pass, and the changed signatures (R341). -/
def jobActs (c : Cmd) (card : JobCard) (k : Nat) : List JobAct :=
  let ps := (jobPasses card k).filter fun x => !c.skips.contains (passM x, passN x)
  let same (x y : PassPlan) : Bool := passM x == passM y && passN x == passN y && x.tile == y.tile
  (ps.zipIdx.flatMap fun x =>
    if (ps.drop (x.2 + 1)).any (same x.1) then [JobAct.pass x.1]
    else [JobAct.pass x.1, JobAct.store (passM x.1) (passN x.1) x.1.tile.toNat]) ++
  c.changed.map fun x => JobAct.sign x.1 x.2.1 x.2.2

/-- A write of a step store by a job: it goes on, or stops (R294, R341). -/
def storeAct (s : State) (id : Nat) (c : Cmd) (va : Nat) (bytes : List Nat) : State × Cmd :=
  let r := engWrite s c.ctx c.core id va bytes
  match r.2 with
  | .ok _ => (r.1, { c with next := c.next + 1 })
  | e => (r.1, stopCmd c c.next e)

/-- A pass of a point of the loop nest. -/
def passesAt (point : Nat) (a : JobAct) : Bool :=
  match a with
  | .pass x => x.point == point
  | _ => false

/-- One grant to a step-tracked job: the plan, or the next of its actions. -/
def grantStepJob (s : State) (id : Nat) (c : Cmd) (st : StepState) (fb : FormatBlock) (card : JobCard) (a b : Desc) (k : Nat) :
    State × Cmd :=
  if !c.planned then planStep s id c st fb card a k
  else
    let acts := jobActs c card k
    let blk := st.blocks.getD card.stepId ⟨0, 0, 0, 0, 0⟩
    let r := match acts[c.next]? with
      | none => (s, c)
      | some (.pass x) => grantJobPass s id c fb a b x ((acts.drop (c.next + 1)).any (passesAt x.point))
      | some (.store m n t) => storeAct s id c (blk.outBase + entryBytes * (m * blk.nt + n)) (entryOf s c.wg t)
      | some (.sign m k sig) => storeAct s id c (blk.sigBase + 32 * (m * blk.kt + k)) (sig.flatMap (toBytes 4))
    (r.1, if acts.length ≤ r.2.next then { r.2 with ended := true } else r.2)

/-- What the end of a step-tracked job does to its block's held PRIMED bit (R340). -/
def endStepJob (s : State) (c : Cmd) : State :=
  match c.body with
  | .mjob _ card _ _ _ =>
    if !card.step then s
    else modStep s c.wg fun x =>
      if !x.isOpen || x.blocks.length ≤ card.stepId then x
      else if c.failed then { x with primed := maskDiff x.primed (2 ^ card.stepId) }
      else { x with primed := x.primed ||| 2 ^ card.stepId }
  | _ => s

end Sys2Proof.Machine
end

