-- ==== Sys2Proof/Machine/Engine.lean ====
section
/-! DEFINITION. The grants of the matrix engine and the end of its commands: MATRIX_PASS (R302, R310, R312, R318, R320, R334, R340)
and ENGINE_COMMAND_COMPLETE (R314). -/

namespace Sys2Proof.Machine

/-- A command has a pass ready (R302, R313, R335). -/
def passReady (s : State) (id : Nat) (c : Cmd) : Bool :=
  c.accepted && takesEntry c.body && !c.ended && c.page.isNone && !peerBusy s id &&
  (if isChain c.body then !(s.cmds.any fun e => e.1 < id && e.2.wg == c.wg && e.2.accepted && isChain e.2.body)
    else orderClear s c.wg id (cmdDomain c.body))

/-- Step state of a workgroup. -/
def stepOf (s : State) (wg : Nat) : StepState :=
  ((aGet wg s.wgs).map (·.step)).getD
    { isOpen := false, addr := 0, blocks := [], period := 0, tau := 0, primed := 0, stepNo := 0, refresh := false, done := 0, maps := [] }

/-- The work of one grant. -/
def grantPass (s : State) (id : Nat) (c : Cmd) : State × Cmd :=
  match c.body with
  | .mma fb b ms => grantMma s id c fb b ms
  | .mjob fb card a b k => if card.step then grantStepJob s id c (stepOf s c.wg) fb card a b k else grantJob s id c fb card a b k
  | .accz t anchor => (zeroTile s c.wg t anchor 0, { c with ended := true })
  | .drain t org d fmt mode zero werr => runDrain t org d fmt mode zero werr (drainSteps fmt - c.next) s id c
  | .chain d steps => grantChain s id c d steps
  | .stepBegin addr => grantBegin s id c (stepOf s c.wg) addr
  | .stepEnd => grantEnd s id c (stepOf s c.wg)
  | _ => (s, c)

/-- Entries of a cluster that a grant to one of them passes over (R302). -/
def passOver (s : State) (id : Nat) (cluster : Nat) : State :=
  { s with cmds := s.cmds.map fun e =>
      if clusterOf e.2.core == cluster && passReady s e.1 e.2 then
        (e.1, { e.2 with passedOver := if e.1 = id then 0 else e.2.passedOver + 1 })
      else e }

/-- MATRIX_PASS (R302): one pass of an entry that has one ready. -/
def execMatrixPass (s : State) : Out :=
  match s.subject with
  | .one id => match aGet id s.cmds with
    | none => .next s
    | some c =>
      if !passReady s id c then .next s
      else
        let r := grantPass (passOver s id (clusterOf c.core)) id { c with passedOver := 0 }
        .next (storeCmd r.1 id r.2)
  | _ => .next s

/-- ENGINE_COMMAND_COMPLETE (R314, R296): its writes performed, its batch and its barrier. -/
def execEngineCommandComplete (s : State) : Out :=
  match s.subject with
  | .one id => match aGet id s.cmds with
    | none => .next s
    | some c =>
      if !takesEntry c.body || !c.ended || peerBusy s id then .next s
      else .next (finishCmd (endStepJob s c) id c)
  | _ => .next s

end Sys2Proof.Machine
end

