-- ==== Sys2Proof/Machine/Rays.lean ====
section
/-! DEFINITION. Ray slots, the ray queue and mailboxes, walker gangs, lane stacks, and the saving, committing and ending of walks
(R375 to R384, R390 to R392). -/

namespace Sys2Proof.Machine

/-- Scratchpad offset of byte k of ray slot j (R375). -/
def slotPlace (s : State) (q : Path) (j k : Nat) : Nat := ((descOf s q).map (·.scratch)).getD 0 + 128 * j + k

/-- n bytes at byte k of slot j. -/
def slotGet (s : State) (q : Path) (j k n : Nat) : Nat := scratchRead s (wgIdOf s q) (slotPlace s q j k) n

/-- n bytes stored at byte k of slot j. -/
def slotSet (s : State) (q : Path) (j k n x : Nat) : State := scratchWrite s (wgIdOf s q) (slotPlace s q j k) (toBytes n x)

/-- Offsets of the fields of a slot (R375). -/
def oTMin : Nat := 0x0C
def oTMax : Nat := 0x1C
def oHitT : Nat := 0x20
def oState : Nat := 0x30
def oTag : Nat := 0x31
def oDepth : Nat := 0x32
def oOwner : Nat := 0x34
def oCur : Nat := 0x40
def oSave : Nat := 0x48

/-- Lanes in ascending order, each against the state that the lower lanes of the issue left (R378). -/
def foldLanes (s : State) (q : Path) (f : State → Nat → State × LaneOut) : State × List (Nat × LaneOut) :=
  (lanesOf (active q)).foldl (fun (a : State × List (Nat × LaneOut)) l =>
    let r := f a.1 l
    (r.1, a.2 ++ [(l, r.2)])) (s, [])

/-- A lane that met no check. -/
def laneOk : LaneOut := .pass 0 0

/-- RAYSLOT for one lane (R378): a check beyond those of R210, and before those of spill accesses (R211, R384, R390). -/
def raySlot (detail : Nat) : LaneOut := .fail 6 cRaySlot detail 0

/-- MCHECK for the first poisoned unit among these bytes of a slot (R28), check 5 of R210. -/
def slotPoison (s : State) (q : Path) (j : Nat) (ks : List Nat) : Option LaneOut :=
  (ks.find? fun k => s.poison.contains (.scratch (wgIdOf s q) (slotPlace s q j k / 8))).map fun k =>
    .fail 5 cMCheck 0 (slotPlace s q j k)

/-- The checks of a slot index and its STATE (R376, R378); a poisoned unit is MCHECK (R28). -/
def slotCheck (s : State) (q : Path) (j : Nat) (states : List Nat) : Option LaneOut :=
  if ((descOf s q).map (·.raySlots)).getD 0 ≤ j then some (raySlot 1)
  else match slotPoison s q j [oState] with
    | some e => some e
    | none => if states.contains (slotGet s q j oState 1) then none else some (raySlot 2)

/-- Mail tags of a gang changed. -/
def modMail (s : State) (gid : Nat) (f : List MailTag → List MailTag) : State :=
  modGang s gid fun g => { g with mail := f g.mail }

/-- A lane's tag is not idle (R380). -/
def tagBusy (s : State) (gid l t : Nat) : Bool :=
  ((aGet gid s.gangs).map fun g => g.mail.any fun m => m.lane == l && m.tag == t).getD false

/-- Index in the workgroup of the slice that holds a lane (R375). -/
def sliceIndex (s : State) (q : Path) (l : Nat) : Nat := ((gangOf s q).map fun g => nth g.slices (l / 4)).getD 0

/-- RAYSUB for one lane (R379). -/
def submitLane (v g t : Nat) (q : Path) (s : State) (l : Nat) : State × LaneOut :=
  let j := getV s q.gang l v
  match slotCheck s q j [0] with
  | some e => (s, e)
  | none =>
    if tagBusy s q.gang l t then (s, raySlot 3)
    else
      let s := slotSet s q j oState 4 (1 + t * 2 ^ 8 + slotGet s q j 0x33 1 * 2 ^ 24)
      let s := slotSet s q j oOwner 4 (sliceIndex s q l * 4 + l % 4)
      let s := slotSet s q j oHitT 16 (0x7F800000 + 0xFFFFFFFF * 2 ^ 32)
      let s := slotSet s q j 0x3C 4 0
      let s := slotSet s q j oCur 8 (getG s q g)
      let s := modMail s q.gang fun m => m ++ [⟨l, t, j, false⟩]
      (modWg s (wgIdOf s q) fun w => { w with rayQueue := w.rayQueue ++ [j] }, laneOk)

/-- RAYSUB (R379). -/
def execRaysub (v g t : Nat) (s : State) : Out :=
  onPath s fun p q =>
    let i := Instr.raysub v g t
    if ctxReg s (ctxOf s q) rWalker = 0 then trapAll s p q i cRaySlot 7 0
    else if !releaseReady s q.gang q.lanes 0 then waitAt s p q i .fence
    else
      let r := foldLanes s q (submitLane v g t q)
      settleLanes r.1 p q i r.2

/-- Slots given to the lanes of a RAYGET in lane order, each checked against the state that the lower lanes left (R378, R382): a slot given
is WALKING from then on, so one queued twice fails the second time. The state, with each lane's slot and outcome. -/
def takeRays (q : Path) : List Nat → List Nat → State → State × List (Nat × Nat × LaneOut)
  | [], _, s => (s, [])
  | _, [], s => (s, [])
  | l :: ls, j :: js, s =>
    match slotCheck s q j [1] with
    | some e =>
      let r := takeRays q ls js s
      (r.1, (l, j, e) :: r.2)
    | none =>
      let r := takeRays q ls js (slotSet s q j oState 1 2)
      (r.1, (l, j, laneOk) :: r.2)

/-- RAYGET (R382), which ends in an acquire: lanes without a slot read false; a lane whose slot left QUEUED takes no other effect. -/
def execRayget (v g pd : Nat) (s : State) : Out :=
  onPath s fun p q => match wgOfPath s q with
    | none => s
    | some w => afterLoads s p q (.rayget v g pd) <|
      let r := takeRays q (lanesOf (active q)) w.rayQueue s
      let took := r.2
      let given := took.filter fun x => x.2.2 = laneOk
      let bare := (lanesOf (active q)).filter fun l => !(took.any fun x => x.1 == l)
      let s := modWg r.1 (wgIdOf s q) fun w => { w with rayQueue := w.rayQueue.drop took.length }
      let s := setVs s q.gang (given.map fun x => (x.1, v, x.2.1))
      let s := setPs s q.gang pd (given.map (fun x => (x.1, true)) ++ bare.map fun l => (l, false))
      let s := modGang (setG s q g given.length) q.gang fun g => { g with rayget := true }
      settleLanes s p q (.rayget v g pd) (took.map fun x => (x.1, x.2.2))

/-- The lowest completed tag of a lane (R380). -/
def firstMail (g : Gang) (l : Nat) : Option MailTag := minBy (·.tag) (g.mail.filter fun m => m.lane == l && m.completed)

/-- Every active lane has a completed tag or none outstanding (R380). -/
def mailReady (g : Gang) (q : Path) : Bool :=
  (lanesOf (active q)).all fun l => (firstMail g l).isSome || !(g.mail.any fun m => m.lane == l)

/-- MBXGET for one lane (R380): the lowest completed tag with its slot, which becomes FREE. -/
def mailLane (v pd : Nat) (q : Path) (s : State) (l : Nat) : State × LaneOut :=
  match (gangOf s q).bind fun g => firstMail g l with
  | none => (setPs s q.gang pd [(l, false)], laneOk)
  | some m =>
    match slotCheck s q m.slot [4] with
    | some e => (s, e)
    | none =>
      let s := setPs (setVs s q.gang [(l, v, m.tag * 2 ^ 16 ||| m.slot)]) q.gang pd [(l, true)]
      (slotSet (modMail s q.gang fun ms => ms.filter fun x => x != m) q m.slot oState 1 0, laneOk)

/-- The effect of an MBXGET whose wait has ended (R380). -/
def takeMail (s : State) (p : Nat) (q : Path) (i : Instr) (v pd : Nat) : State :=
  let r := foldLanes s q (mailLane v pd q)
  settleLanes r.1 p q i r.2

/-- MBXGET (R380): the path waits until its lanes can be answered; a deadlock that the wait completes is its fault (R383). -/
def execMbxget (v l pd : Nat) (s : State) : Out :=
  onPath s fun p q => match gangOf s q with
    | none => s
    | some g =>
      let i := Instr.mbxget v l pd
      afterLoads s p q i <|
      if mailReady g q then takeMail s p q i v pd
      else
        let s := waitAt s p q i .mailbox
        if mailDeadlock s (wgIdOf s q) then mailFault s p else s

/-- MBXGET_RESUME (R380). -/
def execMbxgetResume (s : State) : Out :=
  match s.subject with
  | .one p => match aGet p s.paths with
    | none => .next s
    | some q => match gangOf s q, q.wait, q.cur with
      | some g, .mailbox, some (.mbxget v l pd) =>
        .next (if mailReady g q then takeMail s p q (.mbxget v l pd) v pd else s)
      | _, _, _ => .next s
  | _ => .next s

/-- WALKER_GANG_START (R381). -/
def execWalkerGangStart (s : State) : Out :=
  match s.subject with
  | .one wid => match aGet wid s.wgs with
    | none => .next s
    | some w =>
      if !walkerReady s wid w then .next s
      else match aGet w.launch s.launches, (freeIndexes s wid (gangShape s w).2).head? with
        | some l, some idx => .next (startGang s
            { wg := wid, kind := .walker, slices := w.idle.take l.desc.gang, idx := idx, live := firstLanes (4 * l.desc.gang),
              addr := ctxReg s w.ctx rWalker, gInit := [(0, l.desc.constAddr)], vInit := [], frags := [] })
        | _, _ => .next s
  | _ => .next s

/-- A lane's stack: depth and the hidden entries, top last (R384). -/
def laneStack (s : State) (gid l : Nat) : Nat × List Nat := ((aGet gid s.gangs).bind fun g => aGet l g.lanes).getD (0, [])

/-- A lane's stack replaced; an empty one is not listed. -/
def setLaneStack (s : State) (gid l : Nat) (x : Nat × List Nat) : State :=
  modGang s gid fun g => { g with lanes := if x.1 = 0 then aErase l g.lanes else aSet l x g.lanes }

/-- Scratchpad address of spilled entry i of a lane (R384). -/
def spillAt (s : State) (q : Path) (g l i : Nat) : Nat := bits (getG s q g) 17 0 + 160 * l + 8 * i

/-- The whole-path checks of a spill base (R384): the code that fails. -/
def spillBase (x : Nat) : Option Nat := if bits x 63 18 != 0 then some cScratch else if bits x 2 0 != 0 then some cAlign else none

/-- The first check that spill accesses of these entries meet (R221, R384). -/
def spillCheck (s : State) (q : Path) (load : Bool) (g l : Nat) (es : List Nat) : Option LaneOut :=
  es.findSome? fun e => match scratchCheck s q load 8 (spillAt s q g l e : Nat) with
    | .pass _ _ => none
    | x => some x

/-- A spilled entry read. -/
def spillGet (s : State) (q : Path) (g l i : Nat) : Nat := scratchRead s (wgIdOf s q) (spillAt s q g l i) 8

/-- A spilled entry stored. -/
def spillSet (s : State) (q : Path) (g l i x : Nat) : State := scratchWrite s (wgIdOf s q) (spillAt s q g l i) (toBytes 8 x)

/-- An instruction with a spill base: its whole-path checks, then its lanes (R384, R390). -/
def spillForm (s : State) (i : Instr) (g : Nat) (f : Path → State → Nat → State × LaneOut) : Out :=
  onPath s fun p q =>
    match spillBase (getG s q g) with
    | some code => trapAll s p q i code 0 (getG s q g)
    | none =>
      let r := foldLanes s q (f q)
      settleLanes r.1 p q i r.2

/-- RPUSH for one lane (R384). -/
def pushLane (v g : Nat) (q : Path) (s : State) (l : Nat) : State × LaneOut :=
  let st := laneStack s q.gang l
  let x := getPair s q.gang l v
  if st.1 = 24 then (s, raySlot 5)
  else if st.1 < 4 then (setLaneStack s q.gang l (st.1 + 1, st.2 ++ [x]), laneOk)
  else match spillCheck s q false g l [st.1 - 4] with
    | some e => (s, e)
    | none => (setLaneStack (spillSet s q g l (st.1 - 4) (nth st.2 0)) q.gang l (st.1 + 1, st.2.drop 1 ++ [x]), laneOk)

/-- RPUSH (R384). -/
def execRpush (v g : Nat) (s : State) : Out := spillForm s (.rpush v g) g (pushLane v g)

/-- RPOP for one lane (R384). -/
def popLane (v g pd : Nat) (q : Path) (s : State) (l : Nat) : State × LaneOut :=
  let st := laneStack s q.gang l
  let d := st.1 - 1
  if st.1 = 0 then (setPs s q.gang pd [(l, false)], laneOk)
  else
    let x := nth st.2 (st.2.length - 1)
    let done (hidden : List Nat) : State × LaneOut :=
      let s := setVs s q.gang [(l, v, x % 2 ^ 32), (l, v + 1, x / 2 ^ 32)]
      (setLaneStack (setPs s q.gang pd [(l, true)]) q.gang l (d, hidden), laneOk)
    if d < 4 then done st.2.dropLast
    else match spillCheck s q true g l [d - 4] with
      | some e => (s, e)
      | none => done (spillGet s q g l (d - 4) :: st.2.dropLast)

/-- RPOP (R384). -/
def execRpop (v g pd : Nat) (s : State) : Out := spillForm s (.rpop v g pd) g (popLane v g pd)

/-- RSAVE for one lane (R390). -/
def saveLane (v g : Nat) (q : Path) (s : State) (l : Nat) : State × LaneOut :=
  let j := getV s q.gang l v
  let st := laneStack s q.gang l
  let spilled := List.range (st.1 - 4)
  match slotCheck s q j [2] with
  | some e => (s, e)
  | none =>
    if 7 < st.1 then (s, raySlot 4)
    else match spillCheck s q true g l spilled with
      | some e => (s, e)
      | none =>
        let es := spilled.map (spillGet s q g l) ++ st.2
        let s := es.zipIdx.foldl (fun s e => slotSet s q j (oSave + 8 * e.2) 8 e.1) s
        let s := slotSet (slotSet s q j oDepth 1 st.1) q j oCur 8 (getPair s q.gang l (v + 2))
        (setLaneStack (slotSet s q j oState 1 3) q.gang l (0, []), laneOk)

/-- RSAVE (R390). -/
def execRsave (v g : Nat) (s : State) : Out := spillForm s (.rsave v g) g (saveLane v g)

/-- RLOAD for one lane (R390). -/
def loadWalk (v g : Nat) (q : Path) (s : State) (l : Nat) : State × LaneOut :=
  let j := getV s q.gang l v
  match slotCheck s q j [3] with
  | some e => (s, e)
  | none =>
    let d := slotGet s q j oDepth 1
    let bad := slotPoison s q j ((List.range (d + 1)).map fun i => oCur + 8 * i)
    if 7 < d then (s, raySlot 4)
    else match bad, spillCheck s q false g l (List.range (d - 4)) with
      | some e, _ => (s, e)
      | none, some e => (s, e)
      | none, none =>
        let es := (List.range d).map fun i => slotGet s q j (oSave + 8 * i) 8
        let cur := slotGet s q j oCur 8
        let s := (List.range (d - 4)).foldl (fun s i => spillSet s q g l i (nth es i)) s
        let s := setVs s q.gang [(l, v + 2, cur % 2 ^ 32), (l, v + 3, cur / 2 ^ 32)]
        (setLaneStack (slotSet s q j oState 1 2) q.gang l (d, es.drop (d - 4)), laneOk)

/-- RLOAD (R390). -/
def execRload (v g : Nat) (s : State) : Out := spillForm s (.rload v g) g (loadWalk v g)

/-- A commit's condition (R391): ordered binary32 comparisons. -/
def commits (t tmin tmax hitt : Nat) : Bool :=
  (fpCompare f32 3 tmin t).1 && (fpCompare f32 3 t tmax).1 && (fpCompare f32 2 t hitt).1

/-- RCOMMIT for one lane (R391). -/
def commitLane (v h : Nat) (q : Path) (s : State) (l : Nat) : State × LaneOut :=
  let j := getV s q.gang l v
  let t := getV s q.gang l (4 * h)
  match (slotCheck s q j [2, 3]).or (slotPoison s q j [oTMin, oTMax, oHitT]) with
  | some e => (s, e)
  | none =>
    if commits t (slotGet s q j oTMin 4) (slotGet s q j oTMax 4) (slotGet s q j oHitT 4) then
      (slotSet (slotSet s q j oHitT 16 (getRegs s q.gang l (4 * h) 4)) q j oTMax 4 t, laneOk)
    else (s, laneOk)

/-- RCOMMIT (R391). -/
def execRcommit (v h : Nat) (s : State) : Out :=
  onPath s fun p q =>
    let r := foldLanes s q (commitLane v h q)
    settleLanes r.1 p q (.rcommit v h) r.2

/-- The gang and lane of a workgroup's lane numbered as OWNER numbers it, while it lives (R375, R392). -/
def ownerLane (s : State) (wid owner : Nat) : Option (Nat × Nat) :=
  s.gangs.findSome? fun e =>
    if e.2.wg != wid then none
    else (e.2.slices.zipIdx.find? fun c => c.1 == owner / 4 && hasBit e.2.live (4 * c.2 + owner % 4)).map fun c =>
      (e.1, 4 * c.2 + owner % 4)

/-- RDONE for one lane (R392). -/
def doneLane (v : Nat) (q : Path) (s : State) (l : Nat) : State × LaneOut :=
  let j := getV s q.gang l v
  match slotCheck s q j [2, 3] with
  | some e => (s, e)
  | none =>
    let t := bits (slotGet s q j oTag 1) 2 0
    let owner := slotGet s q j oOwner 4
    let s := slotSet s q j oState 1 4
    match ownerLane s (wgIdOf s q) owner with
    | none => (s, laneOk)
    | some o =>
      (modMail s o.1 fun ms => ms.map fun m =>
        if m.lane == o.2 && m.tag == t && m.slot == j then { m with completed := true } else m, laneOk)

/-- RDONE (R392): after release(WG, CORE). -/
def execRdone (v : Nat) (s : State) : Out :=
  onPath s fun p q =>
    if !releaseReady s q.gang q.lanes 0 then waitAt s p q (.rdone v) .fence
    else
      let r := foldLanes s q (doneLane v q)
      settleLanes r.1 p q (.rdone v) r.2

end Sys2Proof.Machine
end

