-- ==== Sys2Proof/Machine/Nodes.lean ====
section
/-! DEFINITION. Nodes of a tree (R385 to R389, R393): the node cache, the box and triangle tests, NODELD, and publications. -/

namespace Sys2Proof.Machine

/-- An exact extended real: a fraction with a positive denominator, or an infinity (R388). -/
inductive XReal where
  | fin (n : Int) (d : Nat)
  | inf (neg : Bool)
  deriving DecidableEq, Repr

/-- A dyadic number as a fraction. -/
def xOfDyadic (x : Dyadic) : XReal := if 0 ≤ x.e then .fin (x.m * ((2 ^ x.e.toNat : Nat) : Int)) 1 else .fin x.m (2 ^ (-x.e).toNat)

/-- A binary32 pattern without NaN as an extended real. -/
def xReal (x : Nat) : XReal :=
  match unpack f32 x with
  | .inf neg => .inf neg
  | v => xOfDyadic v.dyadic

/-- a < b. -/
def xLt (a b : XReal) : Bool :=
  match a, b with
  | .fin n d, .fin m e => decide (n * (e : Int) < m * (d : Int))
  | .fin _ _, .inf neg => !neg
  | .inf neg, .fin _ _ => neg
  | .inf na, .inf nb => na && !nb

/-- a ≤ b. -/
def xLe (a b : XReal) : Bool := !xLt b a

/-- The greater and the lesser of two. -/
def xMax (a b : XReal) : XReal := if xLt a b then b else a
def xMin (a b : XReal) : XReal := if xLt b a then b else a

/-- (x − o) / d for a finite o and a nonzero d: none where it has no value (R388). -/
def xQuot (x : Nat) (o : Nat) (d : Nat) : Option XReal :=
  let neg := hasBit d 31
  match unpack f32 x, unpack f32 d with
  | .inf _, .inf _ => none
  | .inf s, _ => some (.inf (s != neg))
  | _, .inf _ => some (.fin 0 1)
  | vx, vd =>
    let num := vx.dyadic.sub (dyadicOf f32 o)
    let q := vd.dyadic
    let sh := num.e - q.e
    let n := num.m * (if q.m < 0 then -1 else 1)
    some (if 0 ≤ sh then .fin (n * ((2 ^ sh.toNat : Nat) : Int)) q.m.natAbs else .fin n (q.m.natAbs * 2 ^ (-sh).toNat))

/-- An extended real rounded to binary32 under RNE. -/
def xRound (x : XReal) : Nat :=
  match x with
  | .inf neg => infBits f32 neg
  | .fin n d => if n = 0 then 0 else (roundMag f32 0 (decide (n < 0)) n.natAbs d 0).1

/-- The interval of a ray after one axis of a box (R388); none when the box misses. -/
def slabAxis (near far : XReal) (lo hi o d : Nat) : Option (XReal × XReal) :=
  if (dyadicOf f32 d).isZero && isFinite f32 d then
    if xLe (xReal lo) (xReal o) && xLe (xReal o) (xReal hi) then some (near, far) else none
  else match xQuot lo o d, xQuot hi o d with
    | some a, some b =>
      let r := if hasBit d 31 then (b, a) else (a, b)
      some (xMax near r.1, xMin far r.2)
    | _, _ => none

/-- The entry of a ray into a box, none for a miss (R388). ray holds OX, OY, OZ, TMIN, DX, DY, DZ, TMAX; box min then max. -/
def boxEntry (ray box : List Nat) : Option XReal :=
  let badRay := ray.any (isNan f32) || (ray.take 3).any (fun x => !isFinite f32 x) || xLt (xReal (nth ray 7)) (xReal (nth ray 3))
  let badBox := box.any (isNan f32) || (List.range 3).any fun k => xLt (xReal (nth box (3 + k))) (xReal (nth box k))
  if badRay || badBox then none
  else
    let r := (List.range 3).foldl (fun (acc : Option (XReal × XReal)) k => acc.bind fun x =>
      slabAxis x.1 x.2 (nth box k) (nth box (3 + k)) (nth ray k) (nth ray (4 + k))) (some (xReal (nth ray 3), xReal (nth ray 7)))
    r.bind fun x => if xLe x.1 x.2 then some x.1 else none

/-- 32-bit words of n words at an offset of a node. -/
def nodeWords (b : List Nat) (off n : Nat) : List Nat := (List.range n).map fun i => fieldAt b (off + 4 * i) 4

/-- Fields of a node (R385). -/
def nodeSeq (b : List Nat) : Nat := fieldAt b 0 4
def nodeKind (b : List Nat) : Nat := fieldAt b 4 1
def nodeCount (b : List Nat) : Nat := fieldAt b 5 1

/-- Results of BOXT: V[b+11] to V[b+15] (R388). -/
def boxResults (ray b : List Nat) : List Nat :=
  let es := (List.range (nodeCount b)).map fun i => boxEntry ray (nodeWords b (0x10 + 24 * i) 6)
  let hits := es.zipIdx.filterMap fun e => e.1.map fun x => (e.2, x)
  let rank (h : Nat × XReal) : Nat :=
    (hits.filter fun g => xLt g.2 h.2 || (xLe g.2 h.2 && decide (g.1 < h.1))).length
  let order := sumNat (hits.map fun h => h.1 * 2 ^ (8 + 2 * rank h))
  (maskOf (hits.map (·.1)) + hits.length * 16 + order) ::
    (List.range 4).map fun i => match es.getD i none with
      | some x => xRound x
      | none => infBits f32 false

/-- A vector of three dyadic numbers. -/
structure Vec3 where
  x : Dyadic
  y : Dyadic
  z : Dyadic
  deriving DecidableEq, Repr

def Vec3.sub (a b : Vec3) : Vec3 := ⟨a.x.sub b.x, a.y.sub b.y, a.z.sub b.z⟩
def Vec3.dot (a b : Vec3) : Dyadic := ((a.x.mul b.x).add (a.y.mul b.y)).add (a.z.mul b.z)
def Vec3.cross (a b : Vec3) : Vec3 :=
  ⟨(a.y.mul b.z).sub (a.z.mul b.y), (a.z.mul b.x).sub (a.x.mul b.z), (a.x.mul b.y).sub (a.y.mul b.x)⟩

/-- Three binary32 words as a vector. -/
def vecOf (ws : List Nat) (k : Nat) : Vec3 := ⟨dyadicOf f32 (nth ws k), dyadicOf f32 (nth ws (k + 1)), dyadicOf f32 (nth ws (k + 2))⟩

/-- A triangle's hit: numerators of t, u and v over a positive determinant (R389). -/
structure TriHit where
  det : Dyadic
  t : Dyadic
  u : Dyadic
  v : Dyadic
  deriving DecidableEq, Repr

/-- A bound of the ray against t, the bound possibly infinite: bound · det compared with the numerator. -/
def boundLe (bound : Nat) (num det : Dyadic) : Bool :=
  match unpack f32 bound with
  | .inf neg => neg
  | v => Dyadic.le (v.dyadic.mul det) num

/-- t against the end of the interval. -/
def leBound (num det : Dyadic) (bound : Nat) : Bool :=
  match unpack f32 bound with
  | .inf neg => !neg
  | v => Dyadic.le num (v.dyadic.mul det)

/-- The hit of a ray on a triangle of nine words, none for a miss (R389). -/
def triHit (ray tri : List Nat) : Option TriHit :=
  let finite (x : Nat) : Bool := isFinite f32 x
  if !(tri.all finite) || ray.any (isNan f32) || !((ray.take 3).all finite) || !(((ray.drop 4).take 3).all finite) then none
  else
    let p0 := vecOf tri 0
    let e1 := (vecOf tri 3).sub p0
    let e2 := (vecOf tri 6).sub p0
    let s := (vecOf ray 0).sub p0
    let d := vecOf ray 4
    let q := d.cross e2
    let r := s.cross e1
    let det := e1.dot q
    let sg (x : Dyadic) : Dyadic := if det.m < 0 then x.neg else x
    let h : TriHit := ⟨sg det, sg (e2.dot r), sg (s.dot q), sg (d.dot r)⟩
    if !det.isZero && Dyadic.le Dyadic.zero h.u && Dyadic.le Dyadic.zero h.v && Dyadic.le (h.u.add h.v) h.det &&
        boundLe (nth ray 3) h.t h.det && leBound h.t h.det (nth ray 7) then some h else none

/-- A quotient of dyadic numbers rounded to binary32, the divisor positive. -/
def dyadicQuot (n d : Dyadic) : Nat :=
  if n.m = 0 then 0 else (roundMag f32 0 (decide (n.m < 0)) n.m.natAbs d.m.natAbs (n.e - d.e)).1

/-- The closest of some hits, the lower index among equals (R389). -/
def closestHit (hs : List (Nat × TriHit)) : Option (Nat × TriHit) :=
  hs.foldl (fun (best : Option (Nat × TriHit)) h => match best with
    | none => some h
    | some b => if Dyadic.lt (h.2.t.mul b.2.det) (b.2.t.mul h.2.det) then some h else some b) none

/-- Results of TRIT from V[b+11] upward (R389). -/
def triResults (ray b : List Nat) : List Nat :=
  let hs := (List.range (nodeCount b)).filterMap fun i => (triHit ray (nodeWords b (0x10 + 36 * i) 9)).map fun h => (i, h)
  match closestHit hs with
  | none => [0x80000000]
  | some (i, h) =>
    let clear := !hasBit (fieldAt b 6 2) 0
    [i + clear.toNat * 2 ^ 8, dyadicQuot h.t h.det, dyadicQuot h.u h.det, dyadicQuot h.v h.det, (fieldAt b 0x7C 4 + i) % 2 ^ 32]

/-- The registers that a test writes of a node whose SEQ reads agree: number and value (R387). -/
def nodeWrites (i : Instr) (ray b : List Nat) : List (Nat × Nat) :=
  let from_ (v : Nat) (xs : List Nat) : List (Nat × Nat) := xs.zipIdx.map fun x => (v + x.2, x.1)
  match i with
  | .nodeld v _ k => (v + 10, 0) :: from_ (v + 12) (nodeWords b (16 * k) 4)
  | .boxt v _ =>
    if nodeKind b != 0 || !within 1 (nodeCount b) 4 then [(v + 10, 2)] else (v + 10, 0) :: from_ (v + 11) (boxResults ray b)
  | .trit v _ =>
    if nodeKind b != 1 || !within 1 (nodeCount b) 3 then [(v + 10, 2)] else (v + 10, 0) :: from_ (v + 11) (triResults ray b)
  | _ => []

/-- Byte ranges of a node that an instruction reads beside SEQ (R386). -/
def nodeUses (i : Instr) (b : List Nat) : List (Nat × Nat) :=
  match i with
  | .nodeld _ _ k => [(16 * k, 16)]
  | .boxt _ _ => [(4, 12 + 24 * Nat.min (nodeCount b) 4)]
  | .trit _ _ => [(4, 12 + 36 * Nat.min (nodeCount b) 3), (0x7C, 4)]
  | _ => []

/-- A node placed in a core's node cache as most recently used; the least recently used of a full cache leaves (R386). -/
def nodeInsert (ns : List NodeLine) (x : NodeLine) : List NodeLine :=
  let rest := ns.filter fun y => !(y.core == x.core && y.addr == x.addr)
  let mine := rest.filter fun y => y.core == x.core
  let rest := if Config.nodeEntries ≤ mine.length then match mine.head? with
    | some v => rest.filter fun y => !(y.core == v.core && y.addr == v.addr)
    | none => rest
    else rest
  rest ++ [x]

/-- A node read through the RAY path (R386): from the node cache, or at home; a stable one enters the cache. -/
def nodeRead (s : State) (w : Who) (core pa : Nat) : State × List Nat :=
  match s.nodes.find? fun x => x.core == core && x.addr == pa with
  | some x => ({ s with nodes := nodeInsert s.nodes x }, x.bytes)
  | none =>
    let r := homeRead s w pa 128
    if nodeSeq r.2 % 2 = 0 then ({ r.1 with nodes := nodeInsert r.1.nodes ⟨core, pa, w.ctx, r.2⟩ }, r.2) else r

/-- One lane of a test once its address is translated: the registers written, or MCHECK (R28, R387). -/
def testLane (i : Instr) (v : Nat) (q : Path) (s : State) (l pa leaf : Nat) : State × LaneOut × List (Nat × Nat) :=
  let core := coreOf s q
  let cached := s.nodes.any fun x => x.core == core && x.addr == pa
  let va := getPair s q.gang l (v + 8)
  let r := nodeRead s (whoLeaf core (ctxOf s q) leaf) core pa
  let bad := if cached then none else ((0, 4) :: nodeUses i r.2).findSome? fun u => poisonedAt s (dieOf core) (pa + u.1) u.2
  match bad with
  | some a => (s, .fail 5 cMCheck 0 (va + (a - pa)), [])
  | none =>
    let ray := (List.range 8).map fun k => getV s q.gang l (v + k)
    let ws := if nodeSeq r.2 % 2 = 1 then [(v + 10, 1)] else nodeWrites i ray r.2
    (r.1, laneOk, ws.map fun w => (vKey q.gang l w.1, w.2))

/-- A lane's address for its node (R386, R387), with the checks of R210; only bytes that the instruction uses count as read. A node whose peer's
line could not be read fails (R401). -/
def nodeCheck (i : Instr) (v : Nat) (q : Path) (s : State) (l : Nat) : State × LaneOut :=
  let core := coreOf s q
  let poison (s : State) (pa _leaf : Nat) : Option Nat :=
    if s.nodes.any fun x => x.core == core && x.addr == pa then none
    else ((0, 4) :: nodeUses i (readBytes s.mem pa 128)).findSome? fun u => poisonedAt s (dieOf core) (pa + u.1) u.2
  laneCheckBy poison (fun _ pa _ => (farByte q pa 128).map fun _ => (5, cProt, 9)) s q .read (getPair s q.gang l (v + 8)) 128 128

/-- Peer lines that a lane's node needs before it can be tested (R386, R400): none for a node in the node cache. -/
def nodeMissing (s : State) (q : Path) (pa : Nat) : List Nat :=
  if s.nodes.any fun x => x.core == coreOf s q && x.addr == pa then [] else missingPeer s (coreOf s q) [(pa, 128)]

/-- A lane's peer line requested where the die does not hold it (R400). -/
def askPeerLines (v p : Nat) (q : Path) (s : State) (x : Nat × Nat × Nat) : State :=
  (nodeMissing s q x.2.1).foldl (fun s ln => askPeerLine s p (ctxOf s q) ln q.gang (coreOf s q) (getPair s q.gang x.1 (v + 8))) s

/-- NODELD, BOXT and TRIT (R386, R387): the results come by RAY_TEST_RESULT. -/
def nodeTest (i : Instr) (v la : Nat) (s : State) : Out :=
  onPath s fun p q =>
    let c := foldLanes s q (nodeCheck i v q)
    let ok := passLanes c.2
    if ok.any fun x => !(nodeMissing c.1 q x.2.1).isEmpty then
      waitAt (ok.foldl (askPeerLines v p q) c.1) p q i .home
    else
      let t := ok.foldl (fun (a : State × List (Nat × LaneOut) × List (Nat × Nat)) x =>
        let r := testLane i v q a.1 x.1 x.2.1 x.2.2
        (r.1, a.2.1 ++ [(x.1, r.2.1)], a.2.2 ++ r.2.2)) (c.1, [], [])
      let outs := c.2.map fun x => (x.1, ((t.2.1.find? fun y => y.1 == x.1).map fun y => y.2).getD x.2)
      let f := freshId t.1
      let o : Op :=
        { kind := .ray, gang := q.gang, ctx := ctxOf s q, path := p, pathLanes := q.lanes, base := baseOf s q, lanes := maskOf ((passLanes outs).map (·.1)), instr := i, count := some .rayt,
          ahead := some la, rt := 0, core := coreOf s q, accesses := [], writes := t.2.2, flags := 0, left := 0, failed := [] }
      settleLanes (if t.2.2.isEmpty then t.1 else putOp f.2 f.1 o) p q i outs

/-- NODELD (R387). -/
def execNodeld (v l k : Nat) (s : State) : Out := nodeTest (.nodeld v l k) v l s
/-- BOXT (R388). -/
def execBoxt (v l : Nat) (s : State) : Out := nodeTest (.boxt v l) v l s
/-- TRIT (R389). -/
def execTrit (v l : Nat) (s : State) : Out := nodeTest (.trit v l) v l s

/-- RAY_TEST_RESULT (R387, R51): the results are written together and the count falls. -/
def execRayTestResult (s : State) : Out :=
  match s.subject with
  | .one k => match aGet k s.ops with
    | some o =>
      if o.kind = .ray then .next { s with ops := aErase k s.ops, v := bSetAll s.v o.writes } else .next s
    | none => .next s
  | _ => .next s

/-- Addresses of NODEPUB's nodes (R393). -/
def pubAddr (s : State) (q : Path) (v g l : Nat) : Nat := (getG s q g + getV s q.gang l v) % 2 ^ 64

/-- The bytes a lane publishes, from +0x04 upward (R393). -/
def pubBytes (s : State) (q : Path) (v l : Nat) : List Nat := (List.range 31).flatMap fun k => toBytes 4 (getV s q.gang l (v + 1 + k))

/-- NODEPUB (R393): the whole path waits for translation and for the release of its earlier accesses; the publications follow in
ascending lane order. A node whose SEQ is poisoned is MCHECK, since a publication reads SEQ (R28). -/
def execNodepub (v g : Nat) (s : State) : Out :=
  onPath s fun p q =>
    let i := Instr.nodepub v g
    let further (s : State) (pa leaf : Nat) : Option (Nat × Nat × Nat) :=
      if (poisonedAt s (dieOf (coreOf s q)) pa 4).isSome then some (5, cMCheck, 0)
      else if eNc leaf || eLoc leaf != 0 then some (6, cProt, 8) else none
    let c := checkLanes (fun s a => laneCheckBy (fun _ _ _ => none) further s q .write a 128 128) s q (pubAddr s q v g)
    let outs := c.2
    if (missLanes outs).isEmpty && (!releaseReady c.1 q.gang q.lanes 3 || c.1.pubs.any fun x => x.gang == q.gang && x.lanes &&& q.lanes != 0) then
      waitAt c.1 p q i .fence
    else settleWhole c.1 p q i outs fun s =>
      let core := coreOf s q
      let new := (passLanes outs).map fun x : Nat × Nat × Nat =>
        ({ path := p, gang := q.gang, lanes := q.lanes, ctx := ctxOf s q, addr := x.2.1, bytes := pubBytes s q v x.1, began := none } : Publication)
      let s := releaseCore s 3 core
      { s with nodes := s.nodes.filter fun n => !(n.core == core && new.any fun x => x.addr == n.addr), pubs := s.pubs ++ new }

/-- The next step of publication k (R393): SEQ becomes odd once no earlier publication of the node or of its path is left; then the
bytes are written and SEQ is even again. -/
def publishStep (s : State) (k : Nat) : State :=
  match s.pubs[k]? with
  | none => s
  | some x => match x.began with
    | none =>
      if (s.pubs.take k).any fun y => y.addr == x.addr || (y.gang == x.gang && y.lanes &&& x.lanes != 0) then s
      else
        let r := homeRead s (whoOf (coreOfGang s x.gang) x.ctx 0) x.addr 4
        let n := ofBytes r.2
        let o := (if n % 2 = 0 then n + 1 else n + 2) % 2 ^ 32
        { homeWrite r.1 (whoOf (coreOfGang s x.gang) x.ctx 0) x.addr (toBytes 4 o) with pubs := setAt s.pubs k { x with began := some o } }
    | some o =>
      let w := whoOf (coreOfGang s x.gang) x.ctx 0
      let s := homeWrite (homeWrite s w (x.addr + 4) x.bytes) w x.addr (toBytes 4 ((o + 1) % 2 ^ 32))
      { s with pubs := s.pubs.eraseIdx k }

end Sys2Proof.Machine
end

