-- ==== Sys2Proof/Machine/Service.lean ====
section
/-! DEFINITION. Service of missing translations (R104, R155, R213, R214), ATS (R404, R405), and the answers of peers and of the
host (R399 to R401, R406). -/

namespace Sys2Proof.Machine

/-- The eight words of a page request record (R104). -/
def pageRecordWords (r : ServiceReq) (access : Nat) : List Nat :=
  [3 + access * 2 ^ 16 + ctxId r.ctx * 2 ^ 32 + r.core * 2 ^ 48, r.page, 0, 0, 0, 0, 0, 0]

/-- A service request changed. -/
def modService (s : State) (i : Nat) (f : ServiceReq → ServiceReq) : State :=
  { s with services := s.services.zipIdx.map fun x => if x.2 = i then f x.1 else x.1 }

/-- ARMED service (R104): a leaf with V = 0 that is well formed with V = 1 is made valid; a valid walk is served as it stands. -/
def serveArmed (s : State) (c page : Nat) : State × Bool :=
  let w := walk s (whoHome c) page
  match w.2.1 with
  | .leaf _ _ => (w.1, true)
  | .malformed => (w.1, false)
  | .poisoned => (w.1, false)
  | .invalid a e lvl =>
    let e' := e ||| 1
    let ok := (lvl = 4 && leafOk 16 e') || (lvl = 3 && eLeaf e' && leafOk 26 e')
    if ok then (homeWrite w.1 (whoHome c) a (toBytes 8 e'), true) else (w.1, false)

/-- SERVICE_REQUEST (R213, R104): the module operating system takes a request and handles it under the context's policy. Host
pages are asked of the host, one request for each page and context (R404). -/
def execServiceRequest (s : State) : Out :=
  match s.subject with
  | .one i => match s.services[i]? with
    | none => .next s
    | some r =>
      if r.taken then .next s
      else if r.host then
        let told := s.services.any fun x => x.ctx == r.ctx && x.page == r.page && x.host && x.taken && x.answer.isNone
        let s1 := modService s i fun r => { r with taken := true }
        .next (if told then s1 else { s1 with hostSent := s1.hostSent ++ [⟨pasidOf s r.ctx, .page, r.page, 4096⟩] })
      else match (ctxAt s r.ctx).policy with
        | 0 => .next (modService s i fun r => { r with taken := true, answer := some false })
        | 1 =>
          let a := serveArmed s r.ctx r.page
          .next (modService a.1 i fun r => { r with taken := true, answer := some a.2 })
        | _ =>
          let same (x : ServiceReq) : Bool := x.ctx == r.ctx && x.page == r.page && !x.host
          let told := s.services.any fun x => same x && x.taken && x.answer.isNone
          let access := (s.services.filter same).foldl (fun m x => m ||| x.access) 0
          let s1 := modService s i fun r => { r with taken := true }
          .next (if told then s1 else writeRecord s1 (r.ctx * 16) (pageRecordWords r access))
  | _ => .next s

/-- The fault of a refused service (R115, R213): LANES are the lanes, FAULTADDR the address of the lowest of them. -/
def refusalTrap (pos : Position) (lanes : List (Nat × Nat × Nat)) : Trap :=
  ⟨cProt, maskOf (lanes.map (·.1)), 3, pos.word, false, ((minBy (·.1) lanes).map (·.2.1)).getD 0⟩

/-- The lanes of a park record that awaited a page form one park group (R155, R214). -/
def groupsOf (key : Nat) (ok : Bool) (ps : List ParkRecord) : List ParkGroup :=
  ps.filterMap fun r =>
    let mine := r.lanes.filter fun l => l.2.2 == key
    if mine.isEmpty then none
    else some ⟨r.slice, r.pos, r.sup, maskOf (mine.map (·.1)), if ok then none else some (refusalTrap r.pos mine), r.base, r.barsync⟩

/-- A gang's park records once a page is answered: groups of one completion stand in order of their lowest lanes (R214). -/
def servePark (key : Nat) (ok : Bool) (g : Gang) : Gang :=
  { g with groups := g.groups ++ sortBy (fun x => lowestBit x.lanes) (groupsOf key ok g.parks),
           parks := (g.parks.map fun r => { r with lanes := r.lanes.filter fun l => l.2.2 != key }).filter
             fun r => !r.lanes.isEmpty }

/-- A path that awaited a page: with its last answer it makes its instruction again; a refusal is check 3 there (R211). -/
def servePath (key : Nat) (ok : Bool) (q : Path) : Path :=
  match q.wait with
  | .service pages =>
    if pages.contains key then
      let left := pages.filter (· != key)
      { q with wait := if left.isEmpty then .none else .service left,
               refused := if ok then q.refused else q.refused ++ [key] }
    else q
  | _ => q

/-- A command that awaited a page: it goes on, or fails at that element with PROT DETAIL 3 (R294, R295). -/
def serveCmd (key : Nat) (ok : Bool) (c : Cmd) : Cmd :=
  match c.page with
  | some (k, addr) =>
    if k != key then c
    else if ok then { c with page := none }
    else { c with page := none, ended := true, failed := true, trap := some ⟨cProt, 0, 3, 0, false, addr⟩ }
  | none => c

/-- Records of a context that awaited a page: written now, or lost (R130). -/
def serveRecords (s : State) (c key : Nat) (ok : Bool) : State :=
  let awaits (r : Nat × Nat × List Nat) : Bool := r.1 / 16 == c && r.2.1 == key
  let mine := s.records.filter awaits
  let s := { s with records := s.records.filter fun r => !awaits r }
  mine.foldl (fun s r =>
    if ok then writeRecord s r.1 r.2.2
    else raiseQueue (setQReg (countLostRecord s) r.1 qRecW ((qReg s r.1 qRecW + 1) % 2 ^ 32)) r.1) s

/-- Records of a context whose service pre-emption abandoned, written again (R117, R130). -/
def retryRecords (s : State) (c : Nat) : State :=
  let mine := s.records.filter fun r => r.1 / 16 == c
  mine.foldl (fun s r => writeRecord s r.1 r.2.2) { s with records := s.records.filter fun r => r.1 / 16 != c }

/-- A queue stopped (R128, R129): ERROR with its code, and an error record. -/
def queueStop (s : State) (k code off header addr : Nat) : State :=
  let s := setQueue s k { queueAt s k with state := .error, hold := .none, waiting := none }
  writeRecord s k [2 + code * 2 ^ 16 + ctxId (k / 16) * 2 ^ 32 + k % 16 * 2 ^ 48, off, header, addr, 0, 0, 0, 0]

/-- A started packet that still makes accesses: a WAITV, or a WSTORE part-way (R125). -/
def stillReads (x : Packet) : Bool :=
  match x.wait with
  | .waitv => true
  | .wstore _ => true
  | _ => false

/-- A queue that is ACTIVE or BLOCKED stops; in any other state what would stop it is ignored (R128, R129). -/
def stopQueue (s : State) (k code off header addr : Nat) : State :=
  let st := (queueAt s k).state
  if st = .active || st = .blocked then queueStop s k code off header addr else s

/-- A queue's packet ends with an access that failed (R126): the queue stops with ACCESS unless it has stopped already (R128). -/
def endWithAccess (s : State) (k addr : Nat) (x : Packet) : State :=
  let q := queueAt s k
  stopQueue (setQueue s k { q with packets := q.packets.filter fun y => y.seq != x.seq, waiting := none }) k 6 x.off x.header addr

/-- A queue stopped with ACCESS by an access of the packet at an offset (R126): a WAITV or a WSTORE that had started ends with it. -/
def accessStop (s : State) (k off header addr : Nat) : State :=
  match (queueAt s k).packets.find? fun x => stillReads x && x.off == off with
  | some x => endWithAccess s k addr x
  | none => stopQueue (setQueue s k { queueAt s k with waiting := none }) k 6 off header addr

/-- A queue that awaited a page takes its packet again, or stops with ACCESS (R126, R129). -/
def serveQueue (s : State) (c key : Nat) (ok : Bool) : State :=
  (List.range 16).foldl (fun s i =>
    let k := c * 16 + i
    let q := queueAt s k
    match q.waiting with
    | some w =>
      if w.1 != key then s
      else if ok then setQueue s k { q with waiting := none }
      else accessStop s k w.2.1 w.2.2.1 w.2.2.2
    | none => s) s

/-- What a queue waits for is a page: pre-emption abandons its service (R117). -/
def dropPage (q : Queue) : Queue := if (q.waiting.map (·.1)) = some peerKey then q else { q with waiting := none }

/-- A queue's packet has requests at peers in flight. -/
def queueAway (s : State) (k : Nat) : Bool := s.peers.any fun e => e.2.op == 0 && e.2.lane == frontId k

/-- A peer has answered a queue's packet (R400): with a value, or with a line of it; of several requests the last answer counts. -/
def answerQueue (s : State) (k : Nat) (x : Option Nat) : State :=
  let q := queueAt s k
  if (q.waiting.map (·.1)) = some peerKey && !queueAway s k then setQueue s k { q with waiting := none, answer := x } else s

/-- The TGT packet of a queue whose write at a peer has failed stops the queue (R126, R401). -/
def failTgt (s : State) (k va : Nat) : State :=
  match (queueAt s k).packets.find? fun x => bits x.header 7 0 == 6 with
  | some x => endWithAccess s k va x
  | none => s

/-- A peer access of the packet that a queue waits with has failed: it stops the queue (R126, R401). -/
def failQueue (s : State) (k va : Nat) : State :=
  match (queueAt s k).waiting with
  | some w => if w.1 = peerKey then accessStop s k w.2.1 w.2.2.1 va else s
  | none => s

/-- Paths and gangs of a context on a core. -/
def onCore (s : State) (gid c core : Nat) : Bool :=
  match (aGet gid s.gangs).bind (wgOf s) with
  | some w => w.ctx == c && w.core == some core
  | none => false

/-- Fragment passes, targets and frames of a context that awaited a page (R126, R213). -/
def serveFront (s : State) (c key : Nat) (ok : Bool) : State :=
  { s with passes := s.passes.map fun e => match e.2.page with
             | some (k, addr) => if e.2.ctx == c && k == key then
                 (e.1, { e.2 with page := none, refused := if ok then none else some addr }) else e
             | none => e,
           targets := s.targets.map fun e =>
             if e.2.ctx == c && !ok then (e.1, { e.2 with refused := e.2.refused ++ [key] }) else e
           frames := s.frames.map fun e =>
             if e.2.ctx == c && !ok then (e.1, { e.2 with refused := e.2.refused ++ [key] }) else e }

/-- The answer to a request reaches everything that awaits its page on its core (R213): lanes and commands unless the context has gone to
FAULTED (R214), and what the front end has for it. -/
def answerService (s : State) (r : ServiceReq) (ok : Bool) : State :=
  let key := pageKey r.page r.host
  let live := (ctxAt s r.ctx).state != .faulted
  let s := { s with services := s.services.filter fun x =>
                      !(x.ctx == r.ctx && x.core == r.core && x.page == r.page && x.host == r.host),
                    gangs := s.gangs.map fun e => if live && onCore s e.1 r.ctx r.core then (e.1, servePark key ok e.2) else e,
                    paths := s.paths.map fun e => if live && onCore s e.2.gang r.ctx r.core then (e.1, servePath key ok e.2) else e,
                    cmds := s.cmds.map fun e =>
                      if live && e.2.ctx == r.ctx && e.2.core == r.core then (e.1, serveCmd key ok e.2) else e }
  if r.core = frontCore then serveFront (serveQueue (serveRecords s r.ctx key ok) r.ctx key ok) r.ctx key ok else s

/-- A context whose requests for service pre-emption has withdrawn (R104, R117). -/
def withdrawn (s : State) (c : Nat) : Bool := decide ((ctxAt s c).state = .preempting) || decide ((ctxAt s c).state = .saved)

/-- SERVICE_ANSWER (R213, R214): an answer that comes after the context has left RUNNING for a pre-emption is discarded. -/
def execServiceAnswer (s : State) : Out :=
  match s.subject with
  | .one i => match s.services[i]? with
    | some r => match r.answer with
      | some ok =>
        if withdrawn s r.ctx then
          .next { s with services := s.services.filter fun x => !(x.ctx == r.ctx && x.core == r.core && x.page == r.page && x.host == r.host) }
        else .next (answerService s r ok)
      | none => .next s
    | none => .next s
  | _ => .next s

/-- Whether a slice of a gang runs a park group (R155). -/
def parkBusy (s : State) (gid slice : Nat) : Bool :=
  s.paths.any fun e => e.2.gang == gid && e.2.park && (slicesOf e.2.lanes).contains slice

/-- PARK_GROUP_START (R155): the next group of a slice becomes the path of its park slot; a refused group enters the handler. Only while the
context is RUNNING (R158, R214). -/
def execParkGroupStart (s : State) : Out :=
  match s.subject with
  | .two gid slice => match aGet gid s.gangs with
    | none => .next s
    | some g => match g.groups.find? fun x => x.slice == slice with
      | none => .next s
      | some x =>
        if parkBusy s gid slice || ((wgOf s g).map fun w => (ctxAt s w.ctx).state) != some .running then .next s
        else
          let rest := g.groups.filter fun y => y.slice != slice
          let mine := (g.groups.filter fun y => y.slice == slice).tail
          let s1 := modGang s gid fun g => { g with groups := mine ++ rest }
          let s2 := newPath s1 gid (x.lanes &&& g.live) x.pos x.sup true x.barsync
          match x.refused, aGet s1.fresh s2.paths with
          | some t, some q => .next (takeTrapAt s2 s1.fresh q t x.base)
          | _, _ => .next s2
  | _ => .next s

/-- Cores that await a host page's translation for a context. -/
def atsCores (s : State) (c page : Nat) : List Nat :=
  uniq ((s.services.filter fun r => r.ctx == c && r.page == page && r.host).map (·.core))

/-- ATS_RESPONSE (R404): Success gives a translation to each core that awaits it, and counts as served; any other response is a refusal. -/
def execAtsResponse (s : State) : Out :=
  match s.subject with
  | .ats c page answer =>
    let s1 := match answer with
      | some target => (atsCores s c page).foldl (fun s core => atsInsert s ⟨core, c, page, target⟩) s
      | none => s
    .next ({ s1 with services := s1.services.map fun r : ServiceReq =>
      if r.ctx == c && r.page == page && r.host then { r with taken := true, answer := some answer.isSome } else r })
  | _ => .next s

/-- ATS_INVALIDATION (R405): the covered translation of a context is dropped package-wide; the completion follows once nothing that used it has
still to be sent. -/
def execAtsInvalidation (s : State) : Out :=
  match s.subject with
  | .two c page =>
    let gone := s.ats.filter fun t => t.ctx == c && t.page == page
    .next (sendInvalDone { s with ats := s.ats.filter fun t => !(t.ctx == c && t.page == page),
                                  invals := s.invals ++ [⟨c, page, uniq (gone.map (·.target))⟩] })
  | _ => .next s

/-- A lane of an operation in flight fails (R211, R401): it takes no effect, and the path meets the fault when the rest is done. Of two halves
that fail the lower address counts. -/
def failLane (s : State) (op lane detail va : Nat) : State :=
  modOp s op fun o =>
    { o with left := o.left - 1, accesses := o.accesses.filter fun a => a.lane != lane,
             failed := if o.failed.any fun f => f.1 == lane then
                 o.failed.map fun f => if f.1 == lane then (f.1, f.2.1, f.2.2.1, f.2.2.2.1, Nat.min f.2.2.2.2 va) else f
               else o.failed ++ [(lane, 5, cProt, detail, va)] }

/-- Other lanes of a load that the answer to a lane's request serves: those that read the same line through the read-only cache (R408). -/
def alsoServed (s : State) (r : PeerReq) : List LaneAccess :=
  if askSize r.ask != 128 then []
  else (((aGet r.op s.ops).map (·.accesses)).getD []).filter fun a =>
    a.lane != r.lane && a.rt = 4 && !a.done && a.pa / 128 == r.addr / 128

/-- A queue, or a queue's TGT packet, that sent a request to a peer. -/
def frontOf (r : PeerReq) : Option Nat :=
  if r.op = 0 && frontId 0 ≤ r.lane && r.lane < recordId 0 then some ((r.lane - frontId 0) % 2 ^ 60) else none

/-- A write of a TGT packet at a peer. -/
def ofTgt (r : PeerReq) : Bool := decide (tgtId 0 ≤ r.lane) && !isRead r.ask

/-- An access to a peer or to the host failed (R401, R406): counted, and delivered as its kind requires. A path whose instruction read for all
its lanes makes it again and finds its lanes' failure, as lanterns and the binner do; a record is lost (R130); a prefetch is dropped (R243). -/
def peerFailed (s : State) (r : PeerReq) (detail : Nat) : State :=
  if r.op = 0 && r.lane = prefetchId then s
  else
    let s := countFailedAccess s
    if r.op = 0 && r.lane = 0 then (if isRead r.ask then { s with far := s.far ++ [(r.ctx, r.addr / 128)] } else s)
    else if r.op = 0 then
      if recordId 0 ≤ r.lane then countLostRecord s
      else match frontOf r with
        | some k => if ofTgt r then failTgt s k r.va else failQueue s k r.va
        | none => match aGet r.lane s.cmds with
          | some _ => modCmd s r.lane fun c =>
              { c with ended := true, failed := true, trap := some ⟨cProt, 0, detail, 0, false, r.va⟩ }
          | none => modPath s r.lane fun q => { q with refused := q.refused ++ [farKey (r.addr / 128)] }
    else if posted r then
      let s := pendFault s r.gang r.op (2 ^ r.lane) r.base ⟨cProt, 0, detail, 0, false, r.va⟩
      if isAtomic r.ask then modOp s r.op fun o => { o with left := o.left - 1 } else s
    else (alsoServed s r).foldl (fun s a => failLane s r.op a.lane detail a.va) (failLane s r.op r.lane detail r.va)

/-- A peer request taken from flight. -/
def takePeer (s : State) (tag : Nat) : State := { s with peers := aErase tag s.peers }

/-- What the data of a read leaves behind (R237, R241, R255): a whole line in the die's shared cache in state P; what the core's L1 or its
read-only cache asked for there; and no older clean copy in the L1 of a span read UC or ST (R246). -/
def keepRead (s : State) (r : PeerReq) (data : Nat) : State :=
  let n := askSize r.ask
  let die := dieOf r.core
  if r.fill = 3 then s
  else
    let s := { s with mem := writeMem s.mem (copyAt die r.addr) (toBytes n data) }
    let s := if n = 128 then holdLine s die (r.addr / 128) r.ctx true false else s
    if r.fill = 1 then l1Fill s r.core r.ctx r.addr n .si
    else if r.fill = 2 then roFill s (whoOf r.core r.ctx 0) r.core r.ctx (r.addr / 128)
    else if r.op = 0 then s
    else dropClean s r.core (wordsOf r.addr n)

/-- A lane's bytes of a read (R400): a read through the read-only path takes them from the line as its cache has it now, or as a fill would have
built it (R255, R408). -/
def laneData (s : State) (r : PeerReq) (data : Nat) (a : LaneAccess) : Nat :=
  let raw (x : Nat) : Nat := data / 256 ^ (x - r.addr) % 256
  if a.rt = 4 then
    let line := if r.fill = 2 then (roFind s r.core (r.addr / 128)).map (·.bytes) else none
    ofBytes ((List.range a.size).map fun i => match line with
      | some bs => nth bs ((a.pa + i) % 128)
      | none => (l1ByteAt s r.core (a.pa + i)).getD (raw (a.pa + i)))
  else
    let lo := Nat.max a.pa r.addr
    let hi := Nat.min (a.pa + a.size) (r.addr + askSize r.ask)
    a.value + data / 256 ^ (lo - r.addr) % 256 ^ (hi - lo) * 256 ^ (lo - a.pa)

/-- A peer's data arrives for a lane: a quadword is there with its second half. -/
def peerArrive (s : State) (r : PeerReq) (data lane : Nat) : State :=
  let more := s.peers.any fun e => e.2.op == r.op && e.2.lane == lane
  modOp s r.op fun o => { o with left := o.left - 1, accesses := o.accesses.map fun a =>
    if a.lane == lane then { a with value := laneData s r data a, done := !more || a.rt == 4 } else a }

/-- PEER_READ_DATA (R400): the data of one READ arrives: a word that a packet reads; or a line or span, for its lanes. -/
def execPeerReadData (s : State) : Out :=
  match s.subject with
  | .two tag data => match aGet tag s.peers with
    | none => .next s
    | some r =>
      if !isRead r.ask then .next s
      else
        let s := takePeer s tag
        match frontOf r with
        | some k =>
          .next (if askSize r.ask != 128 then answerQueue s k (some (data % 256 ^ askSize r.ask))
            else answerQueue (keepRead s r data) k none)
        | none =>
          let t := keepRead s r data
          .next (if r.op = 0 then t
            else (alsoServed t r).foldl (fun s a => peerArrive s r data a.lane) (peerArrive t r data r.lane))
  | _ => .next s

/-- What an atomic performed at the peer changes here (R237): bytes of the die's P copy, and of the issuing core's L1 copies. -/
def peerUpdate (s : State) (r : PeerReq) (old : Nat) : State :=
  match r.ask with
  | .atomic op x y => updateCopies s r.ctx r.core r.addr (toBytes (atomSize op) (atomNew op old x y).1)
  | _ => s

/-- PEER_WRITE_ACK (R400): a write has reached the peer's ordering point; an atomic's old value comes with it. -/
def execPeerWriteAck (s : State) : Out :=
  match s.subject with
  | .two tag old => match aGet tag s.peers with
    | none => .next s
    | some r =>
      if isRead r.ask then .next s
      else
        let old := old % 256 ^ askSize r.ask
        match frontOf r with
        | some k => .next (if ofTgt r then takePeer s tag else answerQueue (takePeer s tag) k (some old))
        | none =>
          .next (if isAtomic r.ask && r.op != 0 then opArrive (peerUpdate (takePeer s tag) r old) r.op r.lane old else takePeer s tag)
  | _ => .next s

/-- PEER_NAK (R401). -/
def execPeerNak (s : State) : Out :=
  match s.subject with
  | .one tag => match aGet tag s.peers with
    | some r => .next (peerFailed (takePeer s tag) r 9)
    | none => .next s
  | _ => .next s

/-- PEER_TIMEOUT (R401): no answer within 2^25 cycles fails the access as a NAK does. -/
def execPeerTimeout (s : State) : Out :=
  match s.subject with
  | .one tag => match aGet tag s.peers with
    | some r => .next (peerFailed (takePeer s tag) r 9)
    | none => .next s
  | _ => .next s

/-- POLNU_PORT_DOWN (R398, R401): the port is marked down, and the requests that it carries fail. -/
def execPolnuPortDown (s : State) : Out :=
  match s.subject with
  | .one port =>
    let mine := s.peers.filter fun e => e.2.port == some port
    let s1 := { s with pkg := { s.pkg with portsUp := maskDiff s.pkg.portsUp (2 ^ port) } }
    .next (mine.foldl (fun s e => peerFailed (takePeer s e.1) e.2 9) s1)
  | _ => .next s

/-- Windows that the module operating system exports (R399): at most sixteen, each a multiple of 64 KiB; a list with any other window is
not taken (log entry 116). -/
def setExports (s : State) (ws : List (Nat × Nat × List Nat × List Nat)) : State :=
  if ws.length ≤ 16 && ws.all fun w => w.2.1 % 65536 == 0 then { s with pkg := { s.pkg with windows := ws } } else s

/-- The ports that reach a peer, as the module operating system configures them (R399): fabric ids have 8 bits, and there are twelve ports. -/
def setRoute (s : State) (fabric : Nat) (ports : List Nat) : State :=
  { s with pkg := { s.pkg with routes := aSet (fabric % 256) (uniq (ports.filter (· < 12))) s.pkg.routes } }

/-- This device's fabric id (R398, R399). -/
def setFabric (s : State) (id : Nat) : State := { s with pkg := { s.pkg with fabricId := id % 256 } }

/-- Bytes that a peer's request covers. -/
def peerSpan (r : PeerIn) : Nat :=
  match r.op with
  | .read n => n
  | .write bytes => bytes.length
  | .atomic op _ _ => atomSize op

/-- Whether a window admits a peer's request (R399): an atomic both reads and writes (log entry 39). -/
def admitted (s : State) (r : PeerIn) : Bool :=
  s.pkg.windows.any fun w =>
    w.1 ≤ r.off && r.off + peerSpan r ≤ w.1 + w.2.1 && match r.op with
      | .read _ => w.2.2.1.contains r.fabric
      | .write _ => w.2.2.2.contains r.fabric
      | .atomic op _ _ => remoteAtomic op && w.2.2.1.contains r.fabric && w.2.2.2.contains r.fabric

/-- An answer sent to a peer (R398, R400). -/
def answerPeer (s : State) (fabric : Nat) (x : PeerAnswer) : State :=
  { s with pkg := { s.pkg with answers := s.pkg.answers ++ [(fabric, x)] } }

/-- PEER_REQUEST_RECEIVED (R399, R400): an admitted request is served at its home slice; any other is answered with NAK. -/
def execPeerRequestReceived (s : State) : Out :=
  match s.subject with
  | .peerIn r =>
    if !admitted s r then .next (answerPeer s r.fabric .nak)
    else match r.op with
      | .read n =>
        let h := homeRead s (whoHome 0) r.off n
        .next (answerPeer h.1 r.fabric (.data h.2))
      | .write bytes => .next (answerPeer (homeWrite s (whoHome 0) r.off bytes) r.fabric (.wack none))
      | .atomic op x y =>
        let h := homeRead s (whoHome 0) r.off (atomSize op)
        let old := ofBytes h.2
        .next (answerPeer (homeWrite h.1 (whoHome 0) r.off (toBytes (atomSize op) (atomNew op old x y).1)) r.fabric (.wack (some old)))
  | _ => .next s

/-- HOST_ERROR_COMPLETION (R406): a host read or atomic of a lane fails with DETAIL 10; or the next read of a line of host memory by an
engine, a queue or a fetch will (log entry 113). A store is posted: no completion answers it. -/
def execHostErrorCompletion (s : State) : Out :=
  match s.subject with
  | .two op lane => match aGet op s.ops with
    | none => .next s
    | some o => match o.accesses.find? fun a => a.lane == lane with
      | none => .next s
      | some a =>
        if !isHost a.pa || o.kind = .store then .next s
        else
          let s := countFailedAccess s
          match o.instr with
          | .atom _ _ _ _ _ 1 _ _ _ _ _ =>
            let s := modOp s op fun o => { o with accesses := o.accesses.filter fun x => x.lane != lane }
            .next (pendFault s o.gang op (2 ^ lane) o.base ⟨cProt, 0, 10, 0, false, a.va⟩)
          | _ => .next (failLane { s with ops := aMod op (fun o => { o with left := o.left + 1 }) s.ops } op lane 10 a.va)
  | .one a =>
    let x := ErrorPlace.hostRead ((hostBase + a % 2 ^ 52) / 128)
    .next (if s.poison.contains x then s else { s with poison := s.poison ++ [x] })
  | _ => .next s

end Sys2Proof.Machine
end

