-- ==== Sys2Proof/Machine/Methods.lean ====
section
/-! DEFINITION. Target descriptors, method programs and the pixels of a target (R346 to R348, R355 to R358). -/

namespace Sys2Proof.Machine

/-- Place of a target's capture. -/
def tgtKey (c a : Nat) : Nat := c * 2 ^ 64 + a

/-- A target descriptor's fields, without STATE and SEALNO (R346). -/
def targetOfBytes (b : List Nat) : TargetDesc :=
  { flags := fieldAt b 1 1, samples := fieldAt b 2 1, ncolor := fieldAt b 3 1, width := fieldAt b 4 2, height := fieldAt b 6 2,
    cfmt := (List.range 4).map fun k => fieldAt b (8 + k) 1, color := (List.range 4).map fun k => fieldAt b (16 + 8 * k) 8,
    depth := fieldAt b 48 8, cover := fieldAt b 56 8, methods := fieldAt b 64 8, pmask := fieldAt b 72 2, sealm := fieldAt b 74 1,
    levels := fieldAt b 75 1, clearc := (List.range 4).map fun k => fieldAt b (80 + 4 * k) 4, clearz := fieldAt b 96 4,
    consts := (List.range 4).map fun k => (List.range 4).map fun i => fieldAt b (112 + 16 * k + 4 * i) 4 }

/-- FLAGS of a target (R346). -/
def isStrict (d : TargetDesc) : Bool := hasBit d.flags 0
def isMono (d : TargetDesc) : Bool := hasBit d.flags 1
def monoRises (d : TargetDesc) : Bool := hasBit d.flags 2
def clears (d : TargetDesc) : Bool := hasBit d.flags 3

/-- What R347 accepts of a descriptor's bytes: ranges of R346, reserved bytes, and the rules between fields. -/
def targetOk (b : List Nat) (d : TargetDesc) : Bool :=
  decide (d.flags < 16) && [1, 2, 4, 8].contains d.samples && decide (d.ncolor ≤ 4) && within 1 d.width 16384 &&
  within 1 d.height 16384 &&
  (List.range 4).all (fun k =>
    if k < d.ncolor then within 1 (nth d.cfmt k) 4 && nth d.color k % 128 == 0 else nth d.cfmt k == 0 && nth d.color k == 0) &&
  d.depth % 128 == 0 && d.cover % 128 == 0 && d.cover != 0 && d.methods % 64 == 0 && decide (d.sealm < 2) &&
  within 1 d.levels 15 && fieldAt b 76 4 == 0 && fieldAt b 100 12 == 0 && fieldAt b 176 80 == 0 &&
  (d.levels == 1 || d.samples == 1) && (!isMono d || d.depth != 0)

/-- Element size of a colour format (R348). -/
def colorSize (fmt : Nat) : Nat := if fmt = 2 then 8 else if fmt = 4 then 16 else 4

/-- Base and element size of a plane; plane 4 is the depth plane (R348). -/
def planeBase (d : TargetDesc) (pl : Nat) : Nat := if pl = 4 then d.depth else nth d.color pl
def planeSize (d : TargetDesc) (pl : Nat) : Nat := if pl = 4 then 4 else colorSize (nth d.cfmt pl)

/-- A plane exists (R355). -/
def hasPlane (d : TargetDesc) (pl : Nat) : Bool := if pl = 4 then d.depth != 0 else decide (pl < d.ncolor)

/-- Planes of a target. -/
def planesOf (d : TargetDesc) : List Nat := (List.range 5).filter (hasPlane d)

/-- Address of a pixel's first sample in a plane (R348). -/
def pixelAddr (d : TargetDesc) (pl x y : Nat) : Nat :=
  (planeBase d pl + planeSize d pl * ((y * d.width + x) * d.samples)) % 2 ^ 64

/-- Address of a pixel's coverage byte (R348). -/
def coverAddr (d : TargetDesc) (x y : Nat) : Nat := (d.cover + y * d.width + x) % 2 ^ 64

/-- Fields of a method op (R357). -/
def opCode (w : Nat) : Nat := bits w 15 12
def opDst (w : Nat) : Nat := bits w 11 9
def opA (w : Nat) : Nat := bits w 8 6
def opB (w : Nat) : Nat := bits w 5 3
def opImm (w : Nat) : Nat := bits w 2 0

/-- Op i of a slot is well formed (R355, R357). -/
def opOk (d : TargetDesc) (i w : Nat) : Bool :=
  let last := i != 31 || opCode w == 14 || opCode w == 15
  last && match opCode w with
    | 0 => opB w == 0 && (if opA w = 6 then decide (opImm w < 4) else opImm w == 0) &&
        (decide (5 ≤ opA w) || hasPlane d (opA w))
    | 1 => decide (opDst w ≤ 4) && hasPlane d (opDst w) && opB w == 0 && opImm w == 0
    | 8 => true
    | 10 => opDst w == 0 && decide (opImm w < 4) && decide (i + (opB w + 1) < 31)
    | 11 => decide (opB w < 4) && (if opB w < 2 then decide (opImm w < 4) else opImm w == 0)
    | 12 => decide (opA w ≤ 4) && hasPlane d (opA w) && opB w == 0 && opImm w == 0
    | 13 => opB w == 0 && decide (opImm w < 2)
    | 14 => bits w 11 0 == 0
    | 15 => bits w 11 0 == 0
    | _ => opImm w == 0

/-- Method slots that PMASK and SEALM name (R355). -/
def namedSlots (d : TargetDesc) : List Nat :=
  (List.range 16).filter (hasBit d.pmask) ++ (if hasBit d.sealm 0 then [16] else [])

/-- Ops of the named slots read in order (R355). -/
def readSlots (s : State) (c core cmd : Nat) (d : TargetDesc) : List Nat → State × Except Eng (List (Nat × List Nat))
  | [] => (s, .ok [])
  | k :: ks =>
    let r := engRead s c core cmd ((d.methods + 64 * k) % 2 ^ 64) 64
    match r.2 with
    | .ok b =>
      let rest := readSlots r.1 c core cmd d ks
      (rest.1, match rest.2 with
        | .ok xs => .ok ((k, (List.range 32).map fun i => fieldAt b (2 * i) 2) :: xs)
        | .error e => .error e)
    | e => (r.1, .error e)

/-- Address of the first malformed op (R355). -/
def badOp (d : TargetDesc) (slots : List (Nat × List Nat)) : Option Nat :=
  slots.findSome? fun x => (x.2.zipIdx.find? fun o => !opOk d o.2 o.1).map fun o => d.methods + 64 * x.1 + 2 * o.2

/-- The captured ops of every slot, empty where none is named (R347). -/
def captureOps (slots : List (Nat × List Nat)) : List (List Nat) :=
  (List.range 17).map fun k => ((slots.find? fun x => x.1 == k).map fun x => x.2).getD []

/-- 1.0 in binary32. -/
def one32 : Nat := 0x3F800000

/-- What MLD gives of an element's bits (R356): four binary32 values. -/
def loadElem (d : TargetDesc) (pl code : Nat) : List Nat :=
  if pl = 4 then [code, 0, 0, 0]
  else match nth d.cfmt pl with
    | 1 => (List.range 4).map fun i =>
        let n := bits code (8 * i + 7) (8 * i)
        if n = 0 then 0 else (roundMag f32 0 false n 255 0).1
    | 2 => (List.range 4).map fun i => (fpConvert f16 f32 0 (bits code (16 * i + 15) (16 * i))).1
    | 3 => [code, 0, 0, one32]
    | _ => (List.range 4).map fun i => bits code (32 * i + 31) (32 * i)

/-- A component as an RGBA8 byte (R356). -/
def byteOf (x : Nat) : Nat :=
  match unpack f32 x with
  | .nan _ _ => 0
  | .inf neg => if neg then 0 else 255
  | .fin neg m e =>
    let r := (roundToInt 0 false (m * 255) e).1
    if neg then 0 else if r < 255 then r.toNat else 255

/-- What MST stores of four binary32 values (R356), the MONO rule apart. -/
def storeElem (d : TargetDesc) (pl : Nat) (v : List Nat) : Nat :=
  if pl = 4 then nth v 0
  else match nth d.cfmt pl with
    | 1 => ofBytes (v.map byteOf)
    | 2 => (v.zipIdx.map fun x => (fpConvert f32 f16 0 x.1).1 * 2 ^ (16 * x.2)).foldl (· + ·) 0
    | 3 => nth v 0
    | _ => (v.zipIdx.map fun x => x.1 * 2 ^ (32 * x.2)).foldl (· + ·) 0

/-- What MST leaves in an element, with the MONO rule of the depth plane (R356). -/
def storeOver (d : TargetDesc) (pl old : Nat) (v : List Nat) : Nat :=
  if pl = 4 && isMono d then (fpMinMax f32 (monoRises d) (nth v 0) old).1 else storeElem d pl v

/-- A pixel as its lantern holds it: the coverage byte, and for each plane the bits of its samples. -/
structure PixBuf where
  cover : Nat
  planes : List (Nat × List Nat)
  deriving DecidableEq, Repr

/-- Bits of a sample in a plane of a pixel. -/
def PixBuf.elem (x : PixBuf) (pl smp : Nat) : Nat := nth (((x.planes.find? fun e => e.1 == pl).map fun e => e.2).getD []) smp

/-- A sample of a plane changed. -/
def PixBuf.set (x : PixBuf) (pl smp code : Nat) : PixBuf :=
  { x with planes := x.planes.map fun e => if e.1 == pl then (e.1, setAt e.2 smp code) else e }

/-- A run of a method (R356): its registers, the stores held, ops to skip, and once it is over whether it commits. -/
structure MethodRun where
  m : List (List Nat)
  held : List (Nat × List Nat)
  skip : Nat
  finished : Option Bool
  deriving DecidableEq, Repr

/-- Componentwise op on two registers. -/
def zipComp (f : Nat → Nat → Nat) (a b : List Nat) : List Nat := (List.range 4).map fun i => f (nth a i) (nth b i)

/-- ±0 in binary32. -/
def isZero32 (x : Nat) : Bool := x % 2 ^ 31 == 0

/-- Condition codes of MCMP in the order of FCMP (R357, R196). -/
def methodCond (imm : Nat) : Nat := nth [2, 3, 4, 5, 0, 1, 6, 7] imm

/-- A binary32 value over k, rounded once (R358). -/
def divideBy (x k : Nat) : Nat :=
  match unpack f32 x with
  | .nan _ _ => quieten f32 x
  | .inf _ => x
  | .fin neg m e => if m = 0 then x else (roundMag f32 0 neg m k e).1

/-- MRESOLVE (R358). -/
def resolveMean (d : TargetDesc) (px : PixBuf) (pl : Nat) : List Nat :=
  let on := bitsBelow d.samples px.cover
  let vals := on.map fun smp => loadElem d pl (px.elem pl smp)
  match vals with
  | [] => [0, 0, 0, 0]
  | v :: vs => (vs.foldl (zipComp fun a b => (fpAdd f32 0 a b).1) v).map fun x => divideBy x on.length

/-- MTONE mode 0 on a component (R358). -/
def reinhard (x : Nat) : Nat :=
  match unpack f32 x with
  | .nan _ _ => 0
  | .inf neg => if neg then 0 else one32
  | .fin neg m e =>
    if neg || m = 0 then 0
    else if 0 ≤ e then
      let n := m * 2 ^ e.toNat
      (roundMag f32 0 false n (n + 1) 0).1
    else (roundMag f32 0 false m (2 ^ (-e).toNat + m) 0).1

/-- MTONE mode 1 on a component (R358): −0 lies in the range and stays. -/
def clamp01 (x : Nat) : Nat :=
  match unpack f32 x with
  | .nan _ _ => 0
  | .inf neg => if neg then 0 else one32
  | .fin neg m _ => if m = 0 then x else if neg then 0 else if one32 < x then one32 else x

/-- What a run reads beside its registers: the target, the pixel, the sample, F and Z (R356). -/
structure MethodEnv where
  desc : TargetDesc
  px : PixBuf
  smp : Nat
  f : List Nat
  z : Nat
  deriving DecidableEq, Repr

/-- One op of a method (R357, R358). -/
def runOp (env : MethodEnv) (r : MethodRun) (w : Nat) : MethodRun :=
  let reg (i : Nat) : List Nat := r.m.getD i [0, 0, 0, 0]
  let a := reg (opA w)
  let b := reg (opB w)
  let dd := reg (opDst w)
  let put (v : List Nat) : MethodRun := { r with m := setAt r.m (opDst w) v }
  match r.finished with
  | some _ => r
  | none =>
    if r.skip != 0 then { r with skip := r.skip - 1 }
    else match opCode w with
      | 0 => put (match opA w with
          | 5 => List.replicate 4 env.z
          | 6 => env.desc.consts.getD (opImm w) [0, 0, 0, 0]
          | 7 => env.f
          | pl => loadElem env.desc pl (env.px.elem pl env.smp))
      | 1 => { r with held := r.held ++ [(opDst w, a)] }
      | 2 => put (zipComp (fun x y => (fpAdd f32 0 x y).1) a b)
      | 3 => put (zipComp (fun x y => (fpSub f32 0 x y).1) a b)
      | 4 => put (zipComp (fun x y => (fpMul f32 0 x y).1) a b)
      | 5 => put ((List.range 4).map fun i => (fpFma f32 0 false false (nth a i) (nth b i) (nth dd i)).1)
      | 6 => put (zipComp (fun x y => (fpMinMax f32 false x y).1) a b)
      | 7 => put (zipComp (fun x y => (fpMinMax f32 true x y).1) a b)
      | 8 => put (zipComp (fun x y => if (fpCompare f32 (methodCond (opImm w)) x y).1 then one32 else 0) a b)
      | 9 => put ((List.range 4).map fun i => if isZero32 (nth dd i) then nth b i else nth a i)
      | 10 => if isZero32 (nth a (opImm w)) then { r with skip := opB w + 1 } else r
      | 11 => put (match opB w with
          | 0 => List.replicate 4 (nth a (opImm w))
          | 1 => setAt dd (opImm w) (nth a 0)
          | 2 => [nth a 3, nth a 2, nth a 1, nth a 0]
          | _ => [nth a 2, nth a 1, nth a 0, nth a 3])
      | 12 => put (resolveMean env.desc env.px (opA w))
      | 13 => put (if opImm w = 0 then [reinhard (nth a 0), reinhard (nth a 1), reinhard (nth a 2), nth a 3] else a.map clamp01)
      | 14 => { r with finished := some false }
      | _ => { r with finished := some true }

/-- A whole run (R356): the stores it commits, none where it ends in MDISC. -/
def runMethod (env : MethodEnv) (ops : List Nat) : Option (List (Nat × List Nat)) :=
  let r := ops.foldl (runOp env) ⟨List.replicate 8 [0, 0, 0, 0], [], 0, none⟩
  if r.finished = some true then some r.held else none

/-- A post method run for one sample (R356). -/
def runSample (d : TargetDesc) (ops f : List Nat) (z : Nat) (px : PixBuf) (smp : Nat) : PixBuf :=
  match runMethod ⟨d, px, smp, f, z⟩ ops with
  | none => px
  | some held =>
    let px := held.foldl (fun px e => px.set e.1 smp (storeOver d e.1 (px.elem e.1 smp) e.2)) px
    { px with cover := px.cover ||| 2 ^ smp }

/-- The seal method run for a pixel (R356): MLD reads sample 0, MST writes every sample. -/
def runSeal (d : TargetDesc) (ops : List Nat) (px : PixBuf) : PixBuf :=
  match runMethod ⟨d, px, 0, [0, 0, 0, 0], 0⟩ ops with
  | none => px
  | some held => held.foldl (fun px e =>
      (List.range d.samples).foldl (fun px smp => px.set e.1 smp (storeOver d e.1 (px.elem e.1 smp) e.2)) px) px

/-- Planes that some op of a method names (R357). -/
def planesNamed (d : TargetDesc) (ops : List Nat) : List Nat :=
  (planesOf d).filter fun pl => ops.any fun w =>
    (opCode w == 0 && opA w == pl) || (opCode w == 1 && opDst w == pl) || (opCode w == 12 && opA w == pl)

/-- What stops a lantern's access (R12, R28, R213): it has to wait, for the service of a page or for a peer's line; or it fails, with code,
DETAIL and address. -/
inductive LanternStop where
  | wait (page : Bool)
  | fault (code detail addr : Nat)
  deriving DecidableEq, Repr

/-- What an engine's access that has not passed is to a lantern: a page whose service was refused is PROT DETAIL 3 (R213). -/
def lanternStop (t : Target) (e : Eng) : LanternStop :=
  match e with
  | .page key a => if t.refused.contains key then .fault cProt 3 a else .wait true
  | .fail code detail a => .fault code detail a
  | _ => .wait false

/-- A lantern's read of n bytes (R354). -/
def lanternRead (s : State) (t : Target) (va n : Nat) : State × Except LanternStop Nat :=
  let r := engRead s t.ctx frontCore 0 va n
  match r.2 with
  | .ok b => (r.1, .ok (ofBytes b))
  | e => (r.1, .error (lanternStop t e))

/-- Physical lines of a range, by pages of 4 KiB: first and last of each. -/
def rangeLines (s : State) (c : Nat) (r : Nat × Nat) : List (Nat × Nat) :=
  (blockParts r.1 r.2 4096).filterMap fun p =>
    match (translate s c frontCore true .probe (p.1 % 2 ^ 64) 1).2 with
    | .ok pa _ _ => some (pa / 128, (pa + p.2 - 1) / 128)
    | _ => none

/-- A target keeps the lines that its planes have had, to be dropped when it is sealed (R349). -/
def noteLines (s : State) (key : Nat) (ls : List (Nat × Nat)) : State :=
  { s with targets := aMod key (fun t => { t with lines := uniq (t.lines ++ ls) }) s.targets }

/-- A lantern's writes, all of them or none (R354, R356). -/
def lanternWrite (s : State) (t : Target) (runs : List (Nat × List Nat)) : State × Option LanternStop :=
  let r := engWriteAll s t.ctx frontCore 0 runs
  match r.2 with
  | .ok _ => (noteLines r.1 (tgtKey t.ctx t.addr) (runs.flatMap fun x => rangeLines r.1 t.ctx (x.1, x.2.length)), none)
  | e => (r.1, some (lanternStop t e))

/-- A fault that a lantern meets for a posted fragment, or for a target (R12, R28): to the gang that posted it, as the fault of a failed
command (R295); where no lane of that gang lives, MCHECK takes the context to FAULTED (log entry 40). -/
def lanternFault (s : State) (t : Target) (o : Option OrderEntry) (code detail addr : Nat) : State :=
  match o.filter fun o => (aGet o.gang s.gangs).isSome with
  | some o => pendFault s o.gang o.seq (2 ^ o.lane) o.base ⟨code, 0, detail, 0, false, addr⟩
  | none =>
    let queue := ((o.bind fun o => aGet o.launch s.launches).map (·.queue)).getD 0
    if code = cMCheck then machineCheckOn s t.ctx queue else s

/-- The samples of some planes of a pixel read by its lantern. -/
def loadPlanes (t : Target) (x y : Nat) : List Nat → State → State × Except LanternStop (List (Nat × List Nat))
  | [], s => (s, .ok [])
  | pl :: pls, s =>
    let n := planeSize t.desc pl
    let r := lanternRead s t (pixelAddr t.desc pl x y) (n * t.desc.samples)
    match r.2 with
    | .error e => (r.1, .error e)
    | .ok v =>
      let rest := loadPlanes t x y pls r.1
      (rest.1, rest.2.map fun ps => (pl, (List.range t.desc.samples).map fun k => v / 256 ^ (n * k) % 256 ^ n) :: ps)

/-- A pixel read by its lantern: the coverage byte and the planes that a method names. -/
def loadPixel (s : State) (t : Target) (ops : List Nat) (x y : Nat) : State × Except LanternStop PixBuf :=
  let c := lanternRead s t (coverAddr t.desc x y) 1
  match c.2 with
  | .error e => (c.1, .error e)
  | .ok cover =>
    let ps := loadPlanes t x y (planesNamed t.desc ops) c.1
    (ps.1, ps.2.map fun planes => ⟨cover, planes⟩)

/-- The writes that take a pixel from what was read of it to what its runs left: changed elements, and the coverage byte. -/
def pixelWrites (t : Target) (x y : Nat) (old new : PixBuf) : List (Nat × List Nat) :=
  (new.planes.flatMap fun e =>
    let n := planeSize t.desc e.1
    (e.2.zipIdx.filter fun v => v.1 != old.elem e.1 v.2).map fun v => ((pixelAddr t.desc e.1 x y + n * v.2) % 2 ^ 64, toBytes n v.1)) ++
  (if new.cover = old.cover then [] else [(coverAddr t.desc x y, [new.cover % 256])])

/-- What a run changed of a pixel written back by its lantern. -/
def storePixel (s : State) (t : Target) (x y : Nat) (old new : PixBuf) : State × Option LanternStop :=
  lanternWrite s t (pixelWrites t x y old new)

end Sys2Proof.Machine
end

