-- ==== Sys2Proof/Machine/Targets.lean ====
section
/-! DEFINITION. Target states and the lantern (R347 to R354, R359 to R362, R407): opening, sealing, POST, KILL, ZPROBE, TGTOPEN,
TGTSEAL, TGTWAIT, and the events FRAGMENT_APPLY, TARGET_SEAL_COMPLETE and TARGET_WAIT_END. -/

namespace Sys2Proof.Machine

/-- What became of a transition of a target: done; a page or an answer to await, or an access that failed; a malformed descriptor;
a malformed method; the wrong state, with the DETAIL of TGTSTATE (R347, R349, R350, R355). -/
inductive TgtRes where
  | ok
  | eng (e : Eng)
  | desc
  | method (addr : Nat)
  | state (detail : Nat)
  deriving DecidableEq, Repr

/-- STATE codes of a target (R346). -/
def tgtNone : Nat := 0
def tgtCreated : Nat := 1
def tgtOpened : Nat := 2
def tgtSealing : Nat := 3
def tgtSealed : Nat := 4
def tgtReleased : Nat := 5

/-- A pattern written from an address upward, a line of 128 bytes at a time (R348): n bytes in all. -/
def fillLines (s : State) (c core cmd : Nat) (pattern : List Nat) (n : Nat) : Nat → Nat → State × Except Eng Unit
  | 0, _ => (s, .ok ())
  | k + 1, a =>
    let left := n
    let bytes := ((List.replicate (128 / pattern.length) pattern).flatten).take left
    if bytes.isEmpty then (s, .ok ())
    else
      let r := engWrite s c core cmd (a % 2 ^ 64) bytes
      match r.2 with
      | .ok _ => fillLines r.1 c core cmd pattern (n - 128) k (a + 128)
      | e => (r.1, .error e)

/-- Bytes of level 0 of a plane (R348). -/
def planeBytes (d : TargetDesc) (pl : Nat) : Nat := planeSize d pl * (d.width * d.height * d.samples)

/-- Bytes of a plane with its higher levels (R348). -/
def planeExtent (d : TargetDesc) (pl : Nat) : Nat :=
  (List.range (d.levels - 1)).foldl (fun n k =>
    ceilDiv n 128 * 128 + planeSize d pl * (Nat.max 1 (d.width / 2 ^ (k + 1)) * Nat.max 1 (d.height / 2 ^ (k + 1)))) (planeBytes d pl)

/-- Virtual ranges of a target's planes, the coverage plane among them. -/
def planeRanges (d : TargetDesc) : List (Nat × Nat) :=
  (d.cover, d.width * d.height) :: (planesOf d).map fun pl => (planeBase d pl, planeExtent d pl)

/-- A line lies in one of some ranges. -/
def lineWithin (rs : List (Nat × Nat)) (ln : Nat) : Bool := rs.any fun r => decide (r.1 ≤ ln) && decide (ln ≤ r.2)

/-- Lines of the planes of a frame's bound targets that the shared cache holds are written to memory and leave it (R373 step 3). -/
def flushTargets (s : State) (fid : Nat) : State :=
  let rs := (boundTo s fid).flatMap fun e => (planeRanges e.2.desc).flatMap (rangeLines s e.2.ctx)
  let lines := uniq ((s.cache.map (·.line)).filter (lineWithin rs))
  lines.foldl dropEverywhere s

/-- What OPEN writes (R349): the coverage plane, with CLEAR the others, and STATE. -/
def openRanges (d : TargetDesc) (a : Nat) : List (Nat × Nat) :=
  (d.cover, d.width * d.height) :: (if clears d then (planesOf d).map fun pl => (planeBase d pl, planeBytes d pl) else []) ++ [(a, 1)]

/-- The planes that CLEAR writes, with the bytes of one element (R349). -/
def clearPlanes (s : State) (c core cmd : Nat) (d : TargetDesc) : List Nat → State × Except Eng Unit
  | [] => (s, .ok ())
  | pl :: pls =>
    let v := if pl = 4 then [d.clearz, 0, 0, 0] else d.clearc
    let n := planeBytes d pl
    let r := fillLines s c core cmd (toBytes (planeSize d pl) (storeElem d pl v)) n (ceilDiv n 128) (planeBase d pl)
    match r.2 with
    | .ok _ => clearPlanes r.1 c core cmd d pls
    | .error e => (r.1, .error e)

/-- STATE of a descriptor written at its home slice (R350). -/
def writeTgtState (s : State) (c core cmd a v : Nat) : State × Eng := engWrite s c core cmd a [v]

/-- The OPEN event of R349 for the queue's frame (R350): checks in the order of R362, the captures of R347, the planes, STATE. Nothing is
written before everything that is to be written has been translated and checked (R126). -/
def openTarget (s : State) (c core cmd a queue : Nat) : State × TgtRes :=
  let r := engRead s c core cmd a 256
  match r.2 with
  | .ok b =>
    let d := targetOfBytes b
    if a % 256 != 0 || !targetOk b d then (r.1, .desc)
    else
      let m := readSlots r.1 c core cmd d (namedSlots d)
      match m.2 with
      | .error e => (m.1, .eng e)
      | .ok slots => match badOp d slots with
        | some at_ => (m.1, .method at_)
        | none =>
          let st := nth b 0
          let frame := (queueAt m.1 queue).frame
          let bound := (frame.map fun f => (boundTo m.1 f).length).getD 0
          if st != tgtCreated && st != tgtSealed then (m.1, .state 1)
          else if 8 ≤ bound then (m.1, .state 4)
          else
            let n := d.width * d.height
            let ck := engTranslateAll m.1 c core .write (openRanges d a)
            match ck.2 with
            | .error e => (ck.1, .eng e)
            | .ok _ =>
              let cov := fillLines ck.1 c core cmd [0] n (ceilDiv n 128) d.cover
              match cov.2 with
              | .error e => (cov.1, .eng e)
              | .ok _ =>
                let cl := if clears d then clearPlanes cov.1 c core cmd d (planesOf d) else (cov.1, .ok ())
                match cl.2 with
                | .error e => (cl.1, .eng e)
                | .ok _ =>
                  let w := writeTgtState cl.1 c core cmd a tgtOpened
                  match w.2 with
                  | .ok _ =>
                    let key := tgtKey c a
                    let t : Target :=
                      { ctx := c, addr := a, desc := d, ops := captureOps slots, bound := frame, sealing := false,
                        entries := ((aGet key w.1.targets).map fun t => t.entries).getD [], refused := [],
                        lines := uniq ((planeRanges d).flatMap (rangeLines w.1 c)), sealed := 0 }
                    ({ w.1 with targets := aSet key t w.1.targets }, .ok)
                  | e => (w.1, .eng e)
  | e => (r.1, .eng e)

/-- The SEAL event of R349, caused by the work of a queue's packet (R365, R372): the bound frame's bins are rasterised as in a partial render,
and the target is unbound. -/
def sealTarget (s : State) (c core cmd a queue packet : Nat) : State × TgtRes :=
  match aGet (tgtKey c a) s.targets with
  | none => (s, .state 1)
  | some t =>
    let r := engRead s c core cmd a 1
    match r.2 with
    | .ok b =>
      if nth b 0 != tgtOpened || t.sealing then (r.1, .state 1)
      else
        let w := writeTgtState r.1 c core cmd a tgtSealing
        match w.2 with
        | .ok _ =>
          let s := match t.bound with
            | some f => unbindTargets (flushTargets (rasteriseFrame w.1 f queue packet) f) f [tgtKey c a]
            | none => w.1
          ({ s with targets := aMod (tgtKey c a) (fun t => { t with sealing := true }) s.targets }, .ok)
        | e => (w.1, .eng e)
    | e => (r.1, .eng e)

/-- CREATE and RELEASE (R349): from one of some states to another. -/
def moveTarget (s : State) (c core cmd a : Nat) (checked : Bool) (from_ : List Nat) (to_ : Nat) : State × TgtRes :=
  let r := engRead s c core cmd a 256
  match r.2 with
  | .ok b =>
    if checked && !targetOk b (targetOfBytes b) then (r.1, .desc)
    else if !from_.contains (nth b 0) then (r.1, .state 1)
    else
      let w := writeTgtState r.1 c core cmd a to_
      match w.2 with
      | .ok _ => (w.1, .ok)
      | e => (w.1, .eng e)
  | e => (r.1, .eng e)

/-- A pass has fragments still to emit into a target (R349). -/
def passPending (s : State) (key : Nat) : Bool :=
  s.passes.any fun e => e.2.targets.contains key && passOpen e.2

/-- Work of a context goes on (R117, R354). -/
def isWorking (s : State) (c : Nat) : Bool :=
  let st := (ctxAt s c).state
  decide (st = .running) || decide (st = .preempting)

/-- The lanterns hold a context's entries and fragments and work for it, but while they are saved with it (R349, R354, R407). -/
def lanternsGo (s : State) (c : Nat) : Bool := isPlaced s c

/-- An order entry comes before another at a pixel (R352). -/
def earlier (o x : OrderEntry) : Bool := decide (o.key < x.key) || (o.key == x.key && decide (o.seq < x.seq))

/-- A fragment is eligible: every earlier entry covering its pixel is resolved (R352). -/
def eligible (t : Target) (x : OrderEntry) : Bool :=
  !(t.entries.any fun o => o.x == x.x && o.y == x.y && earlier o x)

/-- The lantern that owns a pixel (R348): the bank of its coverage byte. An address that does not translate counts by its own
bits (log entry 41). -/
def lanternOf (s : State) (t : Target) (x y : Nat) : Nat :=
  let va := coverAddr t.desc x y
  match (translate s t.ctx frontCore true .probe va 1).2 with
  | .ok pa _ _ => homeBank pa
  | _ => homeBank va

/-- Entries at a lantern, over all targets, that satisfy a test; those saved with their context are not there (R354). -/
def countAt (s : State) (lantern : Nat) (ok : Target → OrderEntry → Bool) : Nat :=
  sumNat ((s.targets.filter fun e => lanternsGo s e.2.ctx).map fun e =>
    (e.2.entries.filter fun o => ok e.2 o && lanternOf s e.2 o.x o.y == lantern).length)

/-- Parked fragments of a lantern (R353). -/
def parkedAt (s : State) (lantern : Nat) : Nat := countAt s lantern fun t o => o.frag.isSome && !eligible t o

/-- Order entries of a lantern that no admitted fragment carries (R353). -/
def entriesAt (s : State) (lantern : Nat) : Nat := countAt s lantern fun _ o => o.frag.isNone

/-- The entry that a lane still holds in a target (R351). -/
def laneEntry (t : Target) (gid l : Nat) : Option OrderEntry :=
  t.entries.find? fun o => o.gang == gid && o.lane == l && o.frag.isNone

/-- A lantern admits a fragment (R353): an eligible one always, another while there is a place. -/
def canAdmit (s : State) (t : Target) (o : OrderEntry) : Bool :=
  eligible t o || decide (parkedAt s (lanternOf s t o.x o.y) < Config.parkedFragments)

/-- A lane's POST sent: the entry is carried by the fragment from now on (R351, R407). -/
def admitLane (s : State) (q : Path) (key slot v l : Nat) : State :=
  let f := (List.range 4).map fun k => getV s q.gang l (v + k)
  let z := getV s q.gang l (v + 4)
  let lid := ((wgOfPath s q).map (·.launch)).getD 0
  { s with targets := aMod key (fun t => { t with entries := t.entries.map fun o =>
      if o.gang == q.gang && o.lane == l && o.frag.isNone then { o with frag := some (slot, f, z), launch := lid, base := baseOf s q } else o }) s.targets }

/-- Lanes of a POST admitted in ascending order; those that are not stay (R353, R360). -/
def admitLanes (q : Path) (key slot v : Nat) : List Nat → State → State × List Nat
  | [], s => (s, [])
  | l :: ls, s =>
    let ok := match aGet key s.targets with
      | some t => match laneEntry t q.gang l with
        | some o => canAdmit s t o
        | none => true
      | none => true
    let rest := admitLanes q key slot v ls (if ok then admitLane s q key slot v l else s)
    (rest.1, if ok then rest.2 else l :: rest.2)

/-- What stands against a lane of POST or KILL (R360). -/
def laneHolds (s : State) (q : Path) (key : Nat) (slot : Option Nat) (l : Nat) : LaneOut :=
  match aGet key s.targets with
  | none => .fail 0 cTgtState 3 0
  | some t =>
    if (laneEntry t q.gang l).isNone then .fail 0 cTgtState 3 0
    else match slot with
      | some k => if hasBit t.desc.pmask k then .pass 0 0 else .fail 1 cMethod 2 0
      | none => .pass 0 0

/-- An instruction's target address (R359): DESCRIPTOR where low bits are set. -/
def withTarget (s : State) (p : Nat) (q : Path) (i : Instr) (g low : Nat) (f : Nat → State) : State :=
  let a := getG s q g
  if bits a 7 low != 0 then trapAll s p q i cDescriptor 2 a else f (a / 256 * 256)

/-- The path goes on after its sends, or meets the fault of its other lanes (R360). -/
def endPost (s : State) (p : Nat) (q : Path) (i : Instr) (fault : Option Trap) : State :=
  match fault with
  | some t => takeTrap s p q t
  | none => advance s p q (sizeOf i)

/-- POST (R360): a path whose fragments are not all admitted waits, and sends the rest when it can. -/
def execPost (v g k : Nat) (s : State) : Out :=
  onPath s fun p q =>
    let i := Instr.post v g k
    let send (key : Nat) (lanes : List Nat) (fault : Option Trap) : State :=
      let r := admitLanes q key k v lanes s
      if r.2.isEmpty then endPost r.1 p q i fault else waitAt r.1 p q i (.admitting r.2 fault)
    match q.wait with
    | .admitting left fault => send (tgtKey (ctxOf s q) (getG s q g / 256 * 256)) left fault
    | _ => withTarget s p q i g 0 fun a =>
        let key := tgtKey (ctxOf s q) a
        let outs := (lanesOf (active q)).map fun l => (l, laneHolds s q key (some k) l)
        send key ((passLanes outs).map (·.1)) (laneTrap q i outs)

/-- Entries that lanes of a path hold in a target resolved (R351). -/
def resolveEntries (q : Path) (lanes : List Nat) (t : Target) : Target :=
  { t with entries := t.entries.filter fun o => !(o.gang == q.gang && lanes.contains o.lane && o.frag.isNone) }

/-- KILL (R360). -/
def execKill (g : Nat) (s : State) : Out :=
  onPath s fun p q =>
    let i := Instr.kill g
    withTarget s p q i g 0 fun a =>
      let key := tgtKey (ctxOf s q) a
      let outs := (lanesOf (active q)).map fun l => (l, laneHolds s q key none l)
      let s := { s with targets := aMod key (resolveEntries q ((passLanes outs).map (·.1))) s.targets }
      endPost s p q i (laneTrap q i outs)

/-- KILL.ALL (R360): a lane without an entry is left alone. -/
def execKillAll (s : State) : Out :=
  onPath s fun p q =>
    advance { s with targets := s.targets.map fun e =>
      if e.2.ctx == ctxOf s q then (e.1, resolveEntries q (lanesOf (active q)) e.2) else e } p q 1

/-- A read of a path's whole instruction in which a refused page or a failed access counts as no value (R361). -/
def softRead (s : State) (q : Path) (p va n : Nat) : State × Except Eng (Option (List Nat)) :=
  let r := engRead s (ctxOf s q) (coreOf s q) p va n
  match r.2 with
  | .ok b => (r.1, .ok (some b))
  | .page key a => if q.refused.contains key then (r.1, .ok none) else (r.1, .error (.page key a))
  | .fail _ _ _ => (r.1, .ok none)
  | e => (r.1, .error e)

/-- ZPROBE's comparison for one lane (R361): every covered sample of its fragment. -/
def zprobeLane (s : State) (q : Path) (p : Nat) (d : TargetDesc) (o : OrderEntry) (v : Nat) : List Nat → State × Except Eng Bool
  | [] => (s, .ok true)
  | k :: ks =>
    let r := softRead s q p ((pixelAddr d 4 o.x o.y + 4 * k) % 2 ^ 64) 4
    match r.2 with
    | .error e => (r.1, .error e)
    | .ok none => (r.1, .ok false)
    | .ok (some b) =>
      if (fpCompare f32 (if monoRises d then 3 else 5) v (ofBytes b)).1 then zprobeLane r.1 q p d o v ks else (r.1, .ok false)

/-- ZPROBE for every active lane (R361). -/
def zprobeLanes (q : Path) (p : Nat) (t : Target) (d : TargetDesc) (v : Nat) : List Nat → State → State × Except Eng (List (Nat × Bool))
  | [], s => (s, .ok [])
  | l :: ls, s =>
    let r : State × Except Eng Bool := match laneEntry t q.gang l with
      | none => (s, .ok false)
      | some o => zprobeLane s q p d o (getV s q.gang l v) (bitsBelow 8 o.samples)
    match r.2 with
    | .error e => (r.1, .error e)
    | .ok b =>
      let rest := zprobeLanes q p t d v ls r.1
      (rest.1, match rest.2 with
        | .ok xs => .ok ((l, b) :: xs)
        | .error e => .error e)

/-- ZPROBE (R361). -/
def execZprobe (v g pd : Nat) (s : State) : Out :=
  onPath s fun p q =>
    let i := Instr.zprobe v g pd
    withTarget s p q i g 0 fun a =>
      let none_ (s : State) : State := advance (setPs s q.gang pd ((lanesOf (active q)).map fun l => (l, false))) p q 1
      let r := softRead s q p a 256
      match r.2 with
      | .error e => pathEng r.1 p q i e
      | .ok none => none_ r.1
      | .ok (some b) => match aGet (tgtKey (ctxOf s q) a) s.targets with
        | none => none_ r.1
        | some t =>
          let d := targetOfBytes b
          let st := nth b 0
          if !isMono d || (st != tgtOpened && st != tgtSealing) then none_ r.1
          else
            let z := zprobeLanes q p t d v (lanesOf (active q)) r.1
            match z.2 with
            | .error e => pathEng z.1 p q i e
            | .ok xs => advance (setPs z.1 q.gang pd xs) p q 1

/-- A path has requests at peers in flight (R400). -/
def pathAway (s : State) (p : Nat) : Bool := s.peers.any fun e => e.2.op == 0 && e.2.lane == p

/-- What a transition of a target does to the path that made it (R347, R349, R355, R362): writes at a peer are awaited. Of the two values that
the manual gives FAULTADDR of a malformed op (R112, R355), which it is stays open (log entry 54). -/
def settleTarget (s : State) (p : Nat) (q : Path) (i : Instr) (a : Nat) (r : TgtRes) : State :=
  match r with
  | .ok => if pathAway s p then waitAt s p q i .target else advance s p q 1
  | .eng e => pathEng s p q i e
  | .desc => trapAll s p q i cDescriptor 1 a
  | .method at_ => trapAll s p q i cMethod 1 (if Config.methodAddress then at_ else 0)
  | .state detail => trapAll s p q i cTgtState detail 0

/-- TGTOPEN (R362). -/
def execTgtopen (g : Nat) (s : State) : Out :=
  onPath s fun p q =>
    let i := Instr.tgtopen g
    withTarget s p q i g 0 fun a =>
      let r := openTarget s (ctxOf s q) (coreOf s q) p a (ctxOf s q * 16 + queueOf s q)
      settleTarget r.1 p q i a r.2

/-- TGTSEAL (R362). -/
def execTgtseal (g : Nat) (s : State) : Out :=
  onPath s fun p q =>
    let i := Instr.tgtseal g
    withTarget s p q i g 0 fun a =>
      let r := sealTarget s (ctxOf s q) (coreOf s q) p a (queueOf s q) (((launchOfPath s q).map (·.packet)).getD 0)
      settleTarget r.1 p q i a r.2

/-- A seal of this target is in progress (R350). -/
def sealUnderWay (s : State) (key : Nat) : Bool := ((aGet key s.targets).map fun t => t.sealing).getD false

/-- TGTWAIT's effect once it need not wait: P and the acquire (R362). -/
def endTgtwait (s : State) (p : Nat) (q : Path) (pd : Nat) (sealed : Bool) : State :=
  let s := setPs s q.gang pd ((lanesOf (active q)).map fun l => (l, sealed))
  advance (acquire s 3 (coreOf s q) (ctxOf s q)) p q 1

/-- TGTWAIT at a target's address (R350, R362). -/
def doTgtwait (s : State) (p : Nat) (q : Path) (g pd a : Nat) : State :=
  let i := Instr.tgtwait g pd
  let r := engRead s (ctxOf s q) (coreOf s q) p a 1
  match r.2 with
  | .ok b =>
    if nth b 0 == tgtSealing && sealUnderWay r.1 (tgtKey (ctxOf s q) a) then waitAt r.1 p q i .target
    else endTgtwait r.1 p q pd (nth b 0 == tgtSealed)
  | e => pathEng r.1 p q i e

/-- TGTWAIT (R362). -/
def execTgtwait (g pd : Nat) (s : State) : Out :=
  onPath s fun p q => afterLoads s p q (.tgtwait g pd) (withTarget s p q (.tgtwait g pd) g 0 fun a => doTgtwait s p q g pd a)

/-- The wait of a TGTOPEN or TGTSEAL for its writes at a peer ends (R362, R401). -/
def endTgtWrite (s : State) (p : Nat) (q : Path) (i : Instr) (g : Nat) : State :=
  if pathAway s p then s
  else if q.refused.any fun k => farKey 0 ≤ k then trapAll s p q i cProt 9 (getG s q g / 256 * 256)
  else advance s p q 1

/-- TARGET_WAIT_END (R362): a waiting TGTWAIT reads STATE again; a TGTOPEN or TGTSEAL goes on once its writes are performed. -/
def execTargetWaitEnd (s : State) : Out :=
  match s.subject with
  | .one p => match aGet p s.paths with
    | some q =>
      if !waitEnds s q then .next s
      else match q.wait, q.cur with
      | .target, some (.tgtwait g pd) => .next (doTgtwait s p q g pd (getG s q g / 256 * 256))
      | .target, some (.tgtopen g) => .next (endTgtWrite s p q (.tgtopen g) g)
      | .target, some (.tgtseal g) => .next (endTgtWrite s p q (.tgtseal g) g)
      | _, _ => .next s
    | none => .next s
  | _ => .next s

/-- The entry with a number is resolved. -/
def resolveSeq (s : State) (key seq : Nat) : State :=
  { s with targets := aMod key (fun t => { t with entries := t.entries.filter fun e => e.seq != seq }) s.targets }

/-- What became of a lantern's work (R354, R356): it is done, with a change or with a fault; or it has to wait, for the service of a page or for
a peer. -/
inductive Applied where
  | done
  | waits (page : Bool)
  deriving DecidableEq, Repr

/-- Whether a lantern's work waits for the service of a page. -/
def Applied.stuck : Applied → Bool
  | .waits page => page
  | .done => false

/-- A lantern's access that stopped: it waits, or its fault is delivered. -/
def stopLantern (s : State) (t : Target) (o : Option OrderEntry) (e : LanternStop) : State × Applied :=
  match e with
  | .wait page => (s, .waits page)
  | .fault code detail addr => (lanternFault s t o code detail addr, .done)

/-- A pixel changed by its lantern: read, run, and written back where that is (R356). One whose lantern meets a fault keeps its values. -/
def changePixel (s : State) (t : Target) (o : Option OrderEntry) (ops : List Nat) (x y : Nat) (run : PixBuf → PixBuf) : State × Applied :=
  let r := loadPixel s t ops x y
  match r.2 with
  | .error e => stopLantern r.1 t o e
  | .ok px =>
    let w := storePixel r.1 t x y px (run px)
    match w.2 with
    | none => (w.1, .done)
    | some e => stopLantern w.1 t o e

/-- A posted fragment that its lantern applies: its method runs for each covered sample in ascending index (R356). -/
def applyFragment (s : State) (t : Target) (o : OrderEntry) (slot : Nat) (f : List Nat) (z : Nat) : State × Applied :=
  let ops := t.ops.getD slot []
  changePixel s t (some o) ops o.x o.y fun px => (bitsBelow t.desc.samples o.samples).foldl (runSample t.desc ops f z) px

/-- FRAGMENT_APPLY (R352, R356): an eligible fragment is applied and its entry resolved. A fragment that its lantern's buffer holds poisoned
is MCHECK (R28). -/
def execFragmentApply (s : State) : Out :=
  match s.subject with
  | .two key seq => match aGet key s.targets with
    | none => .next s
    | some t => match t.entries.find? fun o => o.seq == seq with
      | none => .next s
      | some o => match o.frag with
        | none => .next s
        | some (slot, f, z) =>
          if !eligible t o || !lanternsGo s t.ctx then .next s
          else if s.poison.contains (.lantern key seq) then
            let s := { s with poison := s.poison.filter (· != .lantern key seq) }
            .next (resolveSeq (lanternFault s t (some o) cMCheck 0 0) key seq)
          else
            let r := applyFragment s t o slot f z
            .next (if r.2 = .done then resolveSeq r.1 key seq else r.1)
  | _ => .next s

/-- Every pixel of a target, row by row. -/
def pixelsOf (d : TargetDesc) : List (Nat × Nat) := (List.range (d.width * d.height)).map fun i => (i % d.width, i / d.width)

/-- The seal method run on pixels in order, once on each (R356): those it has run on are counted, and one that has to wait stops the rest. -/
def sealPixels (key : Nat) (t : Target) (ops : List Nat) : List (Nat × Nat) → State → State × Applied
  | [], s => (s, .done)
  | xy :: rest, s =>
    let r := changePixel s t none ops xy.1 xy.2 (runSeal t.desc ops)
    match r.2 with
    | .waits page => (r.1, .waits page)
    | .done => sealPixels key t ops rest { r.1 with targets := aMod key (fun t => { t with sealed := t.sealed + 1 }) r.1.targets }

/-- Lines that hold bytes of a target's planes, now or at some time since OPEN (R224, R349): first and last of each range. -/
def planeLines (s : State) (key : Nat) : List (Nat × Nat) :=
  match aGet key s.targets with
  | some t => uniq (t.lines ++ (planeRanges t.desc).flatMap (rangeLines s t.ctx))
  | none => []

/-- Lines of a target's planes leave every read-only cache (R224, R255, R349), and the clean copies that L1s hold of them go too, so that a
later read-only fill takes no older word from an L1 (R364). -/
def dropPlaneLines (s : State) (key : Nat) : State :=
  let rs := planeLines s key
  let words := (s.l1.map fun e => (e.1 / 2 ^ 56, e.1 % 2 ^ 56 * 4)).filter fun x => lineWithin rs (x.2 / 128)
  (uniq (words.map (·.1))).foldl (fun s core => dropClean s core ((words.filter fun x => x.1 == core).map (·.2))) (roDrop s fun x => lineWithin rs x.line)

/-- SEALNO and STATE of a descriptor as a seal writes them (R349, R350). -/
def writeSealed (s : State) (t : Target) : State × Applied :=
  let no := lanternRead s t (t.addr + 12) 4
  match no.2 with
  | .error e => stopLantern no.1 t none e
  | .ok n =>
    let w := lanternWrite no.1 t [(t.addr + 12, toBytes 4 ((n + 1) % 2 ^ 32)), (t.addr, [tgtSealed])]
    match w.2 with
    | none => (w.1, .done)
    | some e => stopLantern w.1 t none e

/-- A target's seal as far as it comes (R349): the seal method, the lines dropped, then SEALNO and STATE. -/
def finishSeal (s : State) (key : Nat) (t : Target) : State × Applied :=
  let ops := t.ops.getD 16 []
  let r := if ops.isEmpty then (s, .done) else sealPixels key t ops ((pixelsOf t.desc).drop t.sealed) s
  match r.2 with
  | .waits page => (r.1, .waits page)
  | .done => writeSealed (dropPlaneLines r.1 key) t

/-- A target whose order entries are all resolved is to be SEALED now (R349). -/
def sealDue (s : State) (key : Nat) (t : Target) : Bool := t.sealing && t.entries.isEmpty && !passPending s key

/-- TARGET_SEAL_COMPLETE (R349): every entry resolved, then the seal. -/
def execTargetSealComplete (s : State) : Out :=
  match s.subject with
  | .one key => match aGet key s.targets with
    | none => .next s
    | some t =>
      if !sealDue s key t || !lanternsGo s t.ctx then .next s
      else
        let w := finishSeal s key t
        .next (if w.2 = .done then { w.1 with targets := aErase key w.1.targets } else w.1)
  | _ => .next s

/-- PARTIAL_RENDER (R373, R374): the next triangle does not fit. What is recorded is rasterised; a triangle that does not fit in
empty bin memory is rasterised alone (R369). -/
def execPartialRender (s : State) : Out :=
  match s.subject with
  | .one key => match frameOf s key with
    | none => .next s
    | some (fid, f) => match f.prims with
      | [] => .next s
      | x :: rest => match x.tris with
        | [] => .next s
        | t :: ts =>
          if emitting s fid || f.used + triBytes t x.raster ≤ f.size then .next s
          else
            let s1 := if f.tris.isEmpty then
                makePass { s with frames := aSet fid { f with prims := { x with tris := ts } :: rest } s.frames } fid f f.queue x.packet [t]
              else rasteriseFrame s fid f.queue x.packet
            .next (countPartial (flushTargets s1 fid) f.ctx)
  | _ => .next s

end Sys2Proof.Machine
end

