-- ==== Sys2Proof/Machine/Raster.lean ====
section
/-! DEFINITION. Fragment passes (R351, R353, R371, R372): their start and the emission of fragments. -/

namespace Sys2Proof.Machine

/-- The packet that owns a pass as its queue's records name it: offset and header. -/
def packetPlace (s : State) (key seq : Nat) : Nat × Nat :=
  (((queueAt s key).packets.find? fun x => x.seq == seq).map fun x => (x.off, x.header)).getD (0, 0)

/-- A pass that fails its check (R372): nothing of it is emitted, and its owner's queue stops. -/
def failPass (s : State) (pid : Nat) (x : Pass) (code addr : Nat) : State :=
  let key := x.ctx * 16 + x.queue
  let at_ := packetPlace s key x.packet
  let s := { s with passes := aSet pid { x with started := true, todo := [], packing := [], ready := [] } s.passes }
  stopQueue s key code at_.1 at_.2 addr

/-- Passes of a frame, and of a queue, start in the order they were made, one after another's emission (R372). -/
def passTurn (s : State) (pid : Nat) (x : Pass) : Bool :=
  !(s.passes.any fun e => e.1 < pid && e.2.ctx == x.ctx && (e.2.frame == x.frame || e.2.queue == x.queue) && passOpen e.2)

/-- The triangles of a pass and the bins that hold them, read from bin memory as they stand there (R365); a triangle that never was in it is
as the binner snapped it (R369). -/
def readTris (s : State) (x : Pass) : List Tri → State × Except Eng (List (Tri × List Nat))
  | [] => (s, .ok [])
  | t :: ts =>
    let r : State × Except Eng (Tri × List Nat) := match t.off with
      | none => (s, .ok (t, binsOf t x.raster))
      | some off =>
        let b := engRead s x.ctx frontCore 0 (x.binBase + off) (triBytes t x.raster)
        match b.2 with
        | .ok b' => (b.1, .ok (recordTri x.raster b'))
        | e => (b.1, .error e)
    match r.2 with
    | .error e => (r.1, .error e)
    | .ok y =>
      let rest := readTris r.1 x ts
      (rest.1, rest.2.map (y :: ·))

/-- FRAGMENT_PASS_START (R372): FRAGDESC, its side table and its first header are read again and checked, and the bins are read (R365). -/
def execFragmentPassStart (s : State) : Out :=
  match s.subject with
  | .one pid => match aGet pid s.passes with
    | none => .next s
    | some x =>
      if x.started || x.page.isSome || !isRunning s x.ctx || !passTurn s pid x then .next s
      else match x.refused with
        | some addr => .next (failPass s pid x 6 addr)
        | none =>
          let stop (s : State) (e : Eng) : State := match e with
            | .page key addr => { s with passes := aSet pid { x with page := some (key, addr) } s.passes }
            | .fail _ _ addr => failPass s pid x 6 addr
            | _ => s
          let h := engRead s x.ctx frontCore 0 x.raster.fragDesc 256
          match h.2 with
          | .ok b =>
            let ck := checkLaunch h.1 x.ctx frontCore 0 b
            match ck.2 with
            | .error e => .next (stop ck.1 e)
            | .ok side =>
              if !fragDescOk b side then .next (failPass ck.1 pid x 5 0)
              else
                let ts := readTris ck.1 x x.tris
                match ts.2 with
                | .error (.fail code _ addr) =>
                  .next (if code = cMCheck then machineCheckOn ts.1 x.ctx x.queue else failPass ts.1 pid x 6 addr)
                | .error e => .next (stop ts.1 e)
                | .ok tris =>
                  let key := x.ctx * 16 + x.queue
                  let l : Launch :=
                    { ctx := x.ctx, queue := x.queue, packet := x.packet, prio := bits (qReg ts.1 key qCtl) 7 5,
                      desc := launchOfBytes b, side := side.getD [], nextSet := 0, pass := some pid, room := [] }
                  let r := addLaunch ts.1 l
                  let x := { x with started := true, launch := some r.2, todo := binnedFragments x.raster tris }
                  .next { r.1 with passes := aSet pid x r.1.passes }
          | e => .next (stop h.1 e)
  | _ => .next s

/-- Targets in which a pass makes order entries now (R349, R351): those bound to its frame, and those that were when they were unbound. -/
def entryTargets (s : State) (x : Pass) : List (Nat × Target) :=
  s.targets.filter fun e => e.2.bound == some x.frame || x.targets.contains e.1

/-- A lantern that one or more of a pass's targets put a pixel's entries in has no room for all of them (R353). -/
def lanternFull (s : State) (x : Pass) (f : Frag) : Bool :=
  let at_ := (entryTargets s x).map fun e => lanternOf s e.2 f.x f.y
  at_.any fun n => decide (Config.orderEntries < entriesAt s n + (at_.filter (· == n)).length)

/-- Fragments packed so far, with one more (R372): a workgroup is full at 4S fragments and never holds two bins. -/
def packFragment (x : Pass) (size : Nat) (f : Frag) : Pass :=
  let x := match x.packing with
    | [] => x
    | h :: _ => if h.bin = f.bin then x else { x with ready := x.ready ++ [x.packing], packing := [] }
  let now := x.packing ++ [f]
  if size ≤ now.length || x.todo.isEmpty then { x with ready := x.ready ++ [now], packing := [] }
  else { x with packing := now }

/-- RASTER_EMIT (R351, R372): the next fragment's order entries are made in every target bound to the frame, and it is packed. -/
def execRasterEmit (s : State) : Out :=
  match s.subject with
  | .one pid => match aGet pid s.passes with
    | none => .next s
    | some x => match x.todo, x.launch.bind fun l => aGet l s.launches with
      | f :: rest, some l =>
        if !x.started || !isRunning s x.ctx || lanternFull s x f then .next s
        else
          let n := freshId s
          let f := { f with seq := n.1 }
          let o : OrderEntry :=
            { key := f.key, seq := f.seq, gang := 0, lane := 0, x := f.x, y := f.y, samples := f.mask, frag := none, launch := 0, base := 0 }
          let keys := (entryTargets s x).map (·.1)
          let targets := n.2.targets.map fun e =>
            if keys.contains e.1 then (e.1, { e.2 with entries := e.2.entries ++ [o] }) else e
          .next { n.2 with targets := targets,
                           passes := aSet pid (packFragment { x with todo := rest } (4 * l.desc.gang) f) n.2.passes }
      | _, _ => .next s
  | _ => .next s

end Sys2Proof.Machine
end

