-- ==== Sys2Proof/Machine/System.lean ====
section
/-! DEFINITION. TRAP, BRK and TRAPRET, the control and status registers and TLBINV (R105 to R109, R116), with the registers that
are computed when read (R26, R108, R235, R239, R240). -/

namespace Sys2Proof.Machine

/-- TRAP (R116): SWTRAP for every active lane. -/
def execTrap (i : Nat) (s : State) : Out := onPath s fun p q => trapAll s p q (.trap i) cSwTrap i 0

/-- BRK (R116): BREAK for every active lane. -/
def execBrk (i : Nat) (s : State) : Out := onPath s fun p q => trapAll s p q (.brk i) cBreak i 0

/-- TRAPRET (R116): PRIV at user level. -/
def execTrapret (k : Nat) (s : State) : Out :=
  onPath s fun p q => if !q.sup then trapAll s p q (.trapret k) cPriv 0 0 else trapReturn s p q (k == 1)

/-- Lines of a context that a slice holds (R238). -/
def sliceLines (s : State) (c sl : Nat) : Nat := ((sliceHolds s sl).filter fun x => x.ctx == c).length

/-- OCCUSE (R239). -/
def occUse (s : State) (c : Nat) : Nat :=
  let counts := (List.range Config.cacheSlices).map (sliceLines s c)
  let lim := occCap s c
  let beyondLim := if lim = 0 then 0 else (counts.filter fun n => decide (lim ≤ n)).length
  beyondLim * 2 ^ 32 + Nat.min (counts.foldl Nat.max 0) 0xFFFF

/-- OCCLIMIT (R239). -/
def occLimitReg (s : State) (c : Nat) : Nat := (ctxAt s c).occLimit

/-- REPLCNT of the selected region (R235): the walk asks for no service and sets no bit. -/
def replCnt (s : State) (c core : Nat) : State × Nat :=
  let r := translate s c core true .probe (ctxReg s c rReplSel) 1
  match r.2 with
  | .ok pa _ _ =>
    if isDevice pa then
      let x := regionNow s (regionKey pa)
      (r.1, 2 ^ 63 + x.degree * 2 ^ 40 + x.intervals * 2 ^ 32 + Nat.min x.lastWcol 0xFFFF * 2 ^ 16 + Nat.min x.lastRread 0xFFFF)
    else (r.1, 0)
  | _ => (r.1, 0)

/-- Clusters in a mask. -/
def clusterCount (m : Nat) : Nat := popcount Config.clusters m

/-- PARTINFO (R108). -/
def partInfo (s : State) (c : Nat) : Nat :=
  let id := (ctxAt s c).part
  match aGet id s.parts with
  | some p => id * 2 ^ 16 + p.dense.toNat * 2 ^ 8 + clusterCount p.clusters
  | none => id * 2 ^ 16

/-- A control and status register as the path reads it (R106, R109). -/
def readCsr (s : State) (q : Path) (n : Nat) : State × Nat :=
  let c := ctxOf s q
  if n = 0x001 then (s, getFpStat s q)
  else if n = 0x000 then (s, getCsr s q csrFpMode)
  else if n = 0x002 then (s, q.sup.toNat)
  else if 0x010 ≤ n && n ≤ 0x016 then (s, getCsr s q (n - 0x010 + csrTrapPc))
  else if n = 0x100 then (s, ctxReg s c rTrapBase)
  else if n = 0x101 then (s, ctxReg s c rTdtBase)
  else if n = 0x102 then (s, ctxReg s c rWalker)
  else if n = 0x103 then (s, bGet s.wsphase (dieOf (coreOf s q)))
  else if n = 0x104 then (s, ctxReg s c rDroopCnt)
  else if n = 0x105 then (s, ctxId c)
  else if n = 0x106 then (s, partInfo s c)
  else if n = 0x110 then (s, occLimitReg s c)
  else if n = 0x111 then (s, occUse s c)
  else if n = 0x112 then (s, ctxReg s c rReplSel)
  else if n = 0x113 then replCnt s c (coreOf s q)
  else (s, ctxReg s c rPrCount)

/-- The value a register keeps of what is written: fields that are reserved or read-only read as R7 and their tables say. -/
def csrField (n x : Nat) : Nat :=
  if n = 0x000 then x % 4
  else if n = 0x001 then x % 32
  else if n = 0x011 then x - bits x 11 9 * 2 ^ 9
  else if n = 0x100 then x - x % 2 ^ 11
  else if n = 0x104 then x % 2 ^ 48
  else if n = 0x112 then bits x 55 21 * 2 ^ 21
  else if n = 0x120 then x % 2 ^ 32
  else x

/-- A context-scope register written by CSRWR or WRREG (R106, R410); the RO registers keep their values. -/
def writeCtxCsr (s : State) (c n x : Nat) : State :=
  if n = 0x100 then setCtxReg s c rTrapBase (csrField n x)
  else if n = 0x101 then setCtxReg s c rTdtBase (csrField n x)
  else if n = 0x102 then setCtxReg s c rWalker (csrField n x)
  else if n = 0x104 then setCtxReg s c rDroopCnt (csrField n x)
  else if n = 0x112 then setCtxReg s c rReplSel (csrField n x)
  else if n = 0x120 then setCtxReg s c rPrCount (csrField n x)
  else s

/-- A control and status register written by a path (R106, R109). -/
def writeCsr (s : State) (q : Path) (n x : Nat) : State :=
  if n = 0x000 then setCsr s q csrFpMode (csrField n x)
  else if n = 0x001 then setCsr s q csrFpStat (csrField n x)
  else if 0x010 ≤ n && n ≤ 0x016 then setCsr s q (n - 0x010 + csrTrapPc) (csrField n x)
  else writeCtxCsr s (ctxOf s q) n x

/-- Registers that user level may not read (R106). -/
def csrPrivRead (n : Nat) : Bool := 0x010 ≤ n && n ≤ 0x016
/-- Registers that user level may write (R106). -/
def csrUserWrite (n : Nat) : Bool := n = 0x000 || n = 0x001 || n = 0x112

/-- An instruction whose flags FPSTAT does not show yet: XMATH (R190), or an atomic that merges flags (R261). -/
def mergesLate (i : Instr) : Bool :=
  match i with
  | .frcp _ _ _ => true
  | .frsq _ _ _ => true
  | .fsqrt _ _ _ => true
  | .fexp2 _ _ _ => true
  | .flog2 _ _ _ => true
  | .fsin _ _ _ => true
  | .fcos _ _ _ => true
  | .atom _ _ _ _ _ _ _ _ _ _ op => op = 10 || op = 11 || op = 12
  | _ => false

/-- An access to FPSTAT may go on: every earlier instruction of the path whose flags come late has merged them (R190, R261). -/
def fpStatReady (s : State) (q : Path) : Bool :=
  !(s.ops.any fun e => e.2.gang == q.gang && e.2.lanes &&& q.lanes != 0 && mergesLate e.2.instr)

/-- CSRRD (R116). -/
def execCsrrd (g n : Nat) (s : State) : Out :=
  onPath s fun p q =>
    if !q.sup && csrPrivRead n then trapAll s p q (.csrrd g n) cPriv n 0
    else if n = 0x001 && !fpStatReady s q then waitAt s p q (.csrrd g n) .fence
    else
      let r := readCsr s q n
      advance (setG r.1 q g r.2) p q 1

/-- CSRWR (R116). -/
def execCsrwr (g n : Nat) (s : State) : Out :=
  onPath s fun p q =>
    if !q.sup && !csrUserWrite n then trapAll s p q (.csrwr g n) cPriv n 0
    else if n = 0x001 && !fpStatReady s q then waitAt s p q (.csrwr g n) .fence
    else advance (writeCsr s q n (getG s q g)) p q 1

/-- TLBINV.PAGE (R116): the page that holds G[g], of either size, leaves every translation cache. Which host pages it reached is no longer known
once its leaf has left a cache, so every host translation of the context goes with it: a cache may lose an entry at any time (R212). -/
def execTlbinvPage (g : Nat) (s : State) : Out :=
  onPath s fun p q =>
    if !q.sup then trapAll s p q (.tlbinvPage g) cPriv 0 0
    else
      let va := getG s q g
      let c := ctxOf s q
      advance { s with
        tlb := s.tlb.filter fun t => !(t.ctx == c && decide (t.va ≤ va) && decide (va < t.va + t.size)),
        ats := s.ats.filter fun x => x.ctx != c } p q 1

/-- TLBINV.ALL (R116). -/
def execTlbinvAll (s : State) : Out :=
  onPath s fun p q =>
    if !q.sup then trapAll s p q .tlbinvAll cPriv 0 0
    else
      let c := ctxOf s q
      advance { s with tlb := s.tlb.filter fun t => t.ctx != c, ats := s.ats.filter fun t => t.ctx != c } p q 1

/-- An instruction that its path's level does not permit (R50, R116). -/
def failsPriv (q : Path) (i : Instr) : Bool :=
  !q.sup && match i with
    | .trapret _ => true
    | .csrrd _ n => csrPrivRead n
    | .csrwr _ n => !csrUserWrite n
    | .tlbinvPage _ => true
    | .tlbinvAll => true
    | _ => false

end Sys2Proof.Machine
end

