-- ==== Sys2Proof/Machine/Contexts.lean ====
section
/-! DEFINITION. The life of a context (R69, R97 to R104, R117 to R120): scheduling, pre-emption, saving and restoring, and what RESET and
DESTROY discard; pending faults of commands (R295); starvation (R140). -/

namespace Sys2Proof.Machine

/-- Workgroups of a context. -/
def wgsOf (s : State) (c : Nat) : List Nat := (s.wgs.filter fun e => e.2.ctx == c).map (·.1)
/-- Gangs of a context. -/
def gangsOf (s : State) (c : Nat) : List Nat := (s.gangs.filter fun e => (wgsOf s c).contains e.2.wg).map (·.1)
/-- Paths of a context. -/
def pathsOf (s : State) (c : Nat) : List (Nat × Path) := s.paths.filter fun e => (gangsOf s c).contains e.2.gang

/-- Every dirty byte that a context's words hold in an L1 is written back and accepted, and the words are dropped; OWN spans stay. -/
def flushCtx (s : State) (c : Nat) : State :=
  let mine := s.l1.filter fun e => e.2.ctx == c && e.2.kind != .own
  let words := mine.map fun e => (e.1 / 2 ^ 56, e.1 % 2 ^ 56 * 4)
  let s := (uniq (words.map fun w => (w.1, w.2 / 128))).foldl (fun s x => settleLine (writeBackLine s x.1 x.2) x.2) s
  words.foldl (fun s w => dropWords s w.1 [w.2]) s

/-- The caches that a context switch empties of the context's entries (R118, R212, R386); host translations are among them. -/
def emptyCaches (s : State) (c : Nat) : State :=
  { roDrop s (fun x => x.ctx == c) with
           nodes := s.nodes.filter fun x => x.ctx != c, tlb := s.tlb.filter fun x => x.ctx != c,
           ats := s.ats.filter fun x => x.ctx != c, icache := s.icache.filter fun e => e.1 / 2 ^ 64 != c }

/-- Everything that a context has in the machine beside its memory, queues and registers is discarded (R100). A queue record that still awaits
its page is dropped, neither written nor counted as lost: the manual does not say (log entry 123). -/
def discardWork (s : State) (c : Nat) : State :=
  let s := emptyCaches (flushCtx s c) c
  let ws := wgsOf s c
  let gs := gangsOf s c
  let ps := (pathsOf s c).map (·.1)
  sendInvalDone { s with
    services := s.services.filter fun r => r.ctx != c
    records := s.records.filter fun r => r.1 / 16 != c
    launches := s.launches.filter fun e => e.2.ctx != c
    wgs := s.wgs.filter fun e => e.2.ctx != c
    gangs := s.gangs.filter fun e => !gs.contains e.1
    paths := s.paths.filter fun e => !ps.contains e.1
    v := s.v.filter fun e => !gs.contains (e.1 / (32 * 128))
    g := s.g.filter fun e => !gs.contains (e.1 / (8 * 32))
    p := s.p.filter fun e => !gs.contains (e.1 / (32 * 8))
    csr := s.csr.filter fun e => !gs.contains (e.1 / (8 * 16))
    acc := s.acc.filter fun e => !ws.contains (e.1 / (96 * 1024))
    tiles := s.tiles.filter fun e => !ws.contains (e.1 / 96)
    scratch := s.scratch.filter fun e => !ws.contains (e.1 / 2 ^ 18)
    poison := s.poison.filter fun e => match e with
      | .scratch w _ => !ws.contains w
      | .element k _ => !ws.contains (k / (96 * 1024))
      | .register g _ _ => !gs.contains g
      | .uniform g _ _ => !gs.contains g
      | .predicate g _ => !gs.contains g
      | .lift w => !ws.contains w
      | .lantern t _ => !((aGet t s.targets).map fun x => x.ctx == c).getD false
      | _ => true
    ops := s.ops.filter fun e => e.2.ctx != c
    beacons := s.beacons.filter fun b => !ps.contains b.path
    cmds := s.cmds.filter fun e => e.2.ctx != c
    targets := s.targets.filter fun e => e.2.ctx != c
    frames := s.frames.filter fun e => e.2.ctx != c
    passes := s.passes.filter fun e => e.2.ctx != c
    peers := s.peers.filter fun e => e.2.ctx != c
    far := s.far.filter fun x => x.1 != c
    pubs := s.pubs.filter fun x => x.ctx != c
    queues := s.queues.map fun e =>
      if e.1 / 16 == c then (e.1, { e.2 with hold := .none, packets := [], frame := none, waiting := none, answer := none }) else e }

/-- The context-scope registers at their reset values (R106). -/
def resetCtxRegs (s : State) (c : Nat) : State := { s with ctxRegs := s.ctxRegs.filter fun e => e.1 / 8 != c }

/-- Queue registers of a context at their reset values, its queues DISABLED and empty (R100, R121, R403). -/
def clearQueues (s : State) (c : Nat) : State :=
  { s with queues := s.queues.filter fun e => e.1 / 16 != c, queueRegs := s.queueRegs.filter fun e => e.1 / 8 / 16 != c }

/-- A context goes to DESTROYED (R100): its work and saved state are discarded. -/
def destroyContext (s : State) (c : Nat) : State :=
  let st := (ctxAt s c).state
  if st = .free || st = .destroyed then s
  else
    let s := modCtx (discardWork s c) c fun x => { x with state := .destroyed, record := none }
    { s with oldScratch := s.oldScratch.filter fun e => e.1 / 2 ^ 18 / Config.cores != c }

/-- Queues of a context after a RESET (R128): each that is not DISABLED is IDLE with QRPTR equal to QWPTR. -/
def resetQueues (s : State) (c : Nat) : State :=
  (List.range 16).foldl (fun s i =>
    let k := c * 16 + i
    if (queueAt s k).state = .disabled then s
    else setQReg (setQueue s k { queueAt s k with state := .idle, hold := .none }) k qRptr (qReg s k qWptr)) s

/-- RESET of a FAULTED or SAVED context (R100, R104). -/
def resetContext (s : State) (c : Nat) : State :=
  let s := resetQueues (resetCtxRegs (discardWork s c) c) c
  modCtx s c fun x => { x with state := .ready, policy := 0, record := none }

/-- A queue has work: packets to start or started packets that have not completed (R100). Whether a queue that is BLOCKED in a WAITV holds
a runnable packet the manual does not say; here it does (log entry 100). -/
def queueWorks (s : State) (k : Nat) : Bool :=
  let q := queueAt s k
  decide (q.state = .active) || decide (q.state = .blocked) || !q.packets.isEmpty

/-- A context has a runnable packet, or work that packets started (R100). -/
def hasWork (s : State) (c : Nat) : Bool :=
  (List.range 16).any (fun i => queueWorks s (c * 16 + i)) || s.launches.any (fun e => e.2.ctx == c) ||
    s.passes.any (fun e => e.2.ctx == c)

/-- A workgroup of the context is resident (R100). -/
def isResident (s : State) (c : Nat) : Bool := !(wgsOf s c).isEmpty || s.cmds.any fun e => e.2.ctx == c

/-- CONTEXT_SCHEDULE (R100): READY to RUNNING, where the partition exists. -/
def execContextSchedule (s : State) : Out :=
  match s.subject with
  | .one c =>
    let x := ctxAt s c
    if x.state = .ready && hasWork s c && (aGet x.part s.parts).isSome then .next (modCtx s c fun x => { x with state := .running })
    else .next s
  | _ => .next s

/-- CONTEXT_IDLE (R100): RUNNING to READY. -/
def execContextIdle (s : State) : Out :=
  match s.subject with
  | .one c =>
    if isRunning s c && !hasWork s c && !isResident s c then .next (modCtx s c fun x => { x with state := .ready })
    else .next s
  | _ => .next s

/-- Lanes parked in a slice become one group that replays after the restore (R117, R214). -/
def abandonParks (g : Gang) : Gang :=
  { g with parks := [], groups := g.groups ++ g.parks.map fun r : ParkRecord =>
      ({ slice := r.slice, pos := r.pos, sup := r.sup, lanes := maskOf (r.lanes.map (·.1)), refused := none, base := r.base,
         barsync := r.barsync } : ParkGroup) }

/-- Pre-emption of a RUNNING context begins (R117): requests for service are withdrawn, and parked lanes replay after restore. -/
def startPreempt (s : State) (c : Nat) : State :=
  if !isRunning s c then s
  else
    let gs := gangsOf s c
    let s := modCtx s c fun x => { x with state := .preempting }
    { s with
      services := s.services.filter fun r => r.ctx != c
      gangs := s.gangs.map fun e => if gs.contains e.1 then (e.1, { abandonParks e.2 with since := [] }) else e
      paths := s.paths.map fun e => if gs.contains e.2.gang then (e.1, { e.2 with stopped := false }) else e
      queues := s.queues.map fun e => if e.1 / 16 == c then (e.1, dropPage e.2) else e
      passes := s.passes.map fun e => if e.2.ctx == c then (e.1, { e.2 with page := none }) else e }

/-- TIME_SLICE_EXPIRY (R100). -/
def execTimeSliceExpiry (s : State) : Out :=
  match s.subject with
  | .one c => .next (startPreempt s c)
  | _ => .next s

/-- PRIORITY_PREEMPT (R100). -/
def execPriorityPreempt (s : State) : Out :=
  match s.subject with
  | .one c => .next (startPreempt s c)
  | _ => .next s

/-- MARK, N and the reserved fields of a header word (R47, R49). -/
def headerOk (w : Nat) : Bool := bits w 31 28 == 0xB && bits w 3 0 != 0 && bits w 24 15 == 0 && bits w 7 4 == 0

/-- Place of an instruction word in a core's instruction cache (R18, R55): permission is a matter of the level, so each level captures its
own. -/
def codeKey (c core : Nat) (sup : Bool) (a : Nat) : Nat := c * 2 ^ 64 + (if sup then 2 ^ 63 else 0) + core * 2 ^ 54 + a / 4

/-- The word that a path would fetch from an address, none where the fetch would have to wait or would fail (R55, R69). -/
def peekWord (s : State) (q : Path) (a : Nat) : Option Nat :=
  let c := ctxOf s q
  let core := coreOf s q
  match aGet (codeKey c core q.sup a) s.icache with
  | some w => some w.toNat
  | none => match (translate s c core q.sup .fetch a 4).2 with
    | .ok pa leaf _ =>
      if (isPeer pa && !hasP s (dieOf core) (pa / 128)) || (poisonedFor s core pa 4).isSome then none
      else some (ofBytes (coreRead s (whoLeaf core c leaf) core pa 4).2)
    | _ => none

/-- The side-table entry of a path's clause (R69): one whose ADDR is not a header is never matched. -/
def sideEntry (s : State) (q : Path) : Option SideEntry :=
  match launchOfPath s q with
  | none => none
  | some l =>
    if q.pos.word = 0 && l.desc.codeAddr ≤ q.pos.hdr && (q.pos.hdr - l.desc.codeAddr) % 4 = 0 then
      (l.side.find? fun e => l.desc.codeAddr + 4 * e.addr == q.pos.hdr).filter fun _ =>
        inExtent s q q.pos.hdr && ((peekWord s q q.pos.hdr).map headerOk) = some true
    else none

/-- Lanes of a path's slices wait for the park slot, which the path holds (R155). -/
def holdsParkSlot (s : State) (q : Path) : Bool :=
  q.park && ((aGet q.gang s.gangs).map fun g => g.groups.any fun x => (slicesOf q.lanes).contains x.slice) = some true

/-- A path at user level stands still at an instruction boundary while other lanes of a slice of its own are at supervisor level (R111), though
they hold no slot themselves; but a path that holds the park slot which such lanes wait for goes on (log entry 120). -/
def heldBack (s : State) (q : Path) : Bool :=
  !q.sup && (s.paths.any (fun e => e.2.gang == q.gang && e.2.sup && (slicesOf e.2.lanes).any fun c => (slicesOf q.lanes).contains c) ||
    (supervisorApart s q.gang q.lanes && !holdsParkSlot s q))

/-- Nothing that a path waits for at home or at a peer is under way. -/
def homeDone (s : State) (p : Nat) : Bool :=
  !(s.ops.any fun e => e.2.path == p) && !(s.peers.any fun e => e.2.op == 0 && e.2.lane == p)

/-- A path whose request at home or at a peer is done stands at its instruction boundary again. -/
def settledPath (s : State) (p : Nat) (q : Path) : Path :=
  if q.cur.isNone && q.wait = .home && homeDone s p then { q with wait := .none } else q

/-- A path at an instruction boundary that stands still for a slice's supervisor. -/
def heldAtBoundary (s : State) (p : Nat) (q : Path) : Bool :=
  heldBack s q && q.cur.isNone && (settledPath s p q).wait = .none

/-- A path about to start a clause of the side table at user level (R69). -/
def atSideEntry (s : State) (q : Path) : Option SideEntry :=
  if q.sup || q.wait != .none || q.replay.isSome || heldBack s q then none else sideEntry s q

/-- A path of a context in PREEMPTING that has not stopped. -/
def stopping (s : State) (q : Path) : Bool := decide ((ctxAt s (ctxOf s q)).state = .preempting) && !q.stopped

/-- SLICE_PREEMPT_STOP (R69, R117, R158): at a side-table clause, at any boundary of a slice at supervisor level, or in a YIELD. A path in a wait
that R158 stops at once goes no further by itself: its wait ends only while the context is RUNNING. -/
def execSlicePreemptStop (s : State) : Out :=
  match s.subject with
  | .one p => match aGet p s.paths with
    | none => .next s
    | some q0 =>
      let q := settledPath s p q0
      if stopping s q && ((atSideEntry s q).isSome || (q.sup && q.wait = .none && q.cur.isNone) || q.wait = .yield || heldAtBoundary s p q) then
        .next (setPath s p { q with stopped := true })
      else .next s
  | _ => .next s

/-- A slice of the path has issued 4,096 instructions since the request (R69). -/
def fallbackDue (s : State) (q : Path) : Bool :=
  ((gangOf s q).map fun g => (slicesOf q.lanes).any fun c => 4096 ≤ nth g.since c).getD false

/-- PREEMPT_FALLBACK (R69). -/
def execPreemptFallback (s : State) : Out :=
  match s.subject with
  | .one p => match aGet p s.paths with
    | none => .next s
    | some q0 =>
      let q := settledPath s p q0
      if stopping s q && q.wait = .none && q.cur.isNone && fallbackDue s q then .next (setPath s p { q with stopped := true }) else .next s
  | _ => .next s

/-- A wait in which a path is stopped at its exact position (R158). An instruction that has issued and holds a count still has its work to do
(R52): one that waits for its turn in the tile order holds MATREG, an MBXGET holds RAYT, and accesses held back hold LOADS or STORES (log entry
130). -/
def stopsInPlace (w : Wait) : Bool :=
  match w with
  | .none => false
  | .fence => false
  | .order => false
  | .home => false
  | .roDrop => false
  | .command _ => false
  | .tile _ => false
  | .mailbox => false
  | .yield => false
  | _ => true

/-- No WSTORE of the queue has started and can go on (R128). -/
def wstoreStill (q : Queue) : Bool :=
  q.waiting.isSome || q.packets.all fun x => match x.wait with
    | .wstore _ => false
    | _ => true

/-- An admitted fragment that its lantern still applies before its context is saved (R117): an eligible one, but for one that lacks a page, for
which nothing is asked now. -/
def fragmentHolds (s : State) (t : Target) (o : OrderEntry) : Bool :=
  match o.frag with
  | none => false
  | some (slot, f, z) => eligible t o && !(applyFragment s t o slot f z).2.stuck

/-- Every slice of a context has stopped and its accesses and commands have run out (R52, R117): so all six counts of its slices are zero, an
MMA or MJOB in the rendezvous latch apart, which the save abandons (R118). -/
def canSave (s : State) (c : Nat) : Bool :=
  (List.range 16).all (fun i => wstoreStill (queueAt s (c * 16 + i))) &&
  (pathsOf s c).all (fun e => e.2.stopped || stopsInPlace e.2.wait) && s.ops.all (fun e => e.2.ctx != c) &&
  s.cmds.all (fun e => e.2.ctx != c || (match e.2.page with
    | some (k, _) => decide (k < 2 ^ 62)
    | none => false)) &&
  s.peers.all (fun e => e.2.ctx != c) && s.pubs.all (fun x => x.ctx != c) &&
  !(s.lines.any fun e => e.2.queue.any fun r => r.ctx == c) &&
  !(s.targets.any fun e => e.2.ctx == c && e.2.entries.any (fragmentHolds s e.2))

/-- Lanes of a gang whose paths stopped at a side-table clause. -/
def sideLanes (s : State) (gid : Nat) : Nat :=
  (s.paths.filter fun e => e.2.gang == gid && (atSideEntry s e.2).isSome).foldl (fun m e => m ||| e.2.lanes) 0

/-- V and P registers of a path that its side-table entry does not mark read as zero after the restore (R69). -/
def dropUnmarked (s : State) (q : Path) (x : SideEntry) : State :=
  let vs := (List.range 128).filter fun r => !hasBit x.vlive r
  let ps := (List.range 7).filter fun r => !hasBit x.plive r
  { s with v := bSetAll s.v ((lanesOf q.lanes).flatMap fun l => vs.map fun r => (vKey q.gang l r, 0)),
           p := bSetAll s.p ((lanesOf q.lanes).flatMap fun l => ps.map fun r => (pKey q.gang l r, 0)) }

/-- G registers of a slice whose live lanes all stopped at side-table clauses, none of which marks them (R69, R158). -/
def dropUniform (s : State) (gid : Nat) (g : Gang) : State :=
  let side := sideLanes s gid
  let whole := (slicesOf g.live).filter fun c => maskDiff (sliceLanes c g.live) side == 0
  whole.foldl (fun s c =>
    let live := (s.paths.filter fun e => e.2.gang == gid && e.2.lanes &&& sliceLanes c g.live != 0).foldl
      (fun m e => m ||| ((atSideEntry s e.2).map (·.glive)).getD (2 ^ 32 - 1)) 0
    { s with g := bSetAll s.g (((List.range 32).filter fun r => !hasBit live r).map fun r => (gKey gid c r, 0)) }) s

/-- What a path becomes when its context is saved: latches, stage-queue waits and requests for service are abandoned and the instruction
is made again (R117, R118, R146). -/
def savePath (q : Path) : Path :=
  match q.wait with
  | .latch => { q with wait := .none, cur := none }
  | .sqput => { q with wait := .none, cur := none }
  | .sqget => { q with wait := .none, cur := none }
  | .service _ => { q with wait := .none, cur := none, refused := [] }
  | _ => q

/-- Pending WAITCs complete with P false, but one whose beacon has been woken with the value it was given (R118, R266, R267). -/
def failBeacons (s : State) (c : Nat) : State :=
  (pathsOf s c).foldl (fun s e => match e.2.wait with
    | .beacon pd scope =>
      let b := s.beacons.find? fun b => b.path == e.1
      endWaitc { s with beacons := s.beacons.filter fun b => b.path != e.1 } e.1 e.2 pd scope ((b.map (·.addr)).getD 0)
        ((b.map (·.size)).getD 0) ((b.bind (·.woken)).getD false)
    | _ => s) s

/-- The order by gang index of waiters that arrive again after a restore (R146). -/
def gangOrder (s : State) (p : Nat) : Nat :=
  ((aGet p s.paths).map fun q => ((gangOf s q).map (·.idx)).getD 0 * 8 + lowSlice q.lanes).getD 0

/-- PREEMPTION_COMPLETE (R117, R118): everything is saved, the caches are emptied, and the context is SAVED. -/
def execPreemptionComplete (s : State) : Out :=
  match s.subject with
  | .one c =>
    if (ctxAt s c).state != .preempting || !canSave s c then .next s
    else
      let gs := gangsOf s c
      let s1 := (s.gangs.filter fun e => gs.contains e.1).foldl (fun s e => dropUniform s e.1 e.2) s
      let s2 := (pathsOf s c).foldl (fun a e => match atSideEntry s e.2 with
        | some x => dropUnmarked a e.2 x
        | none => a) s1
      let s3 := failBeacons s2 c
      let s4 := { s3 with
        paths := s3.paths.map fun e => if gs.contains e.2.gang then (e.1, savePath e.2) else e
        wgs := s3.wgs.map fun e => if e.2.ctx == c then
          (e.1, { e.2 with latch := [], incoming := { e.2.incoming with waiters := sortBy (gangOrder s3) e.2.incoming.waiters } }) else e
        gangs := s3.gangs.map fun e => if gs.contains e.1 then (e.1, abandonParks e.2) else e
        services := s3.services.filter fun r => r.ctx != c
        queues := s3.queues.map fun e => if e.1 / 16 == c then (e.1, dropPage e.2) else e
        passes := s3.passes.map fun e => if e.2.ctx == c then (e.1, { e.2 with page := none }) else e
        cmds := s3.cmds.map fun e => if e.2.ctx == c then (e.1, { e.2 with page := none }) else e
        targets := s3.targets.map fun e => if e.2.ctx == c then (e.1, { e.2 with refused := [] }) else e
        frames := s3.frames.map fun e => if e.2.ctx == c then (e.1, { e.2 with refused := [] }) else e }
      .next (modCtx (emptyCaches (flushCtx s4 c) c) c fun x => { x with state := .saved })
  | _ => .next s

/-- Cores that hold a context's workgroups, ascending. -/
def savedCores (s : State) (c : Nat) : List Nat :=
  sortBy id (uniq ((s.wgs.filter fun e => e.2.ctx == c).filterMap fun e => e.2.core))

/-- Stack entries of a slice's paths outside the park slot, the largest number over a context's slices (R120). -/
def deepest (s : State) (c : Nat) : Nat :=
  ((s.gangs.filter fun e => (gangsOf s c).contains e.1).flatMap fun e => (List.range 8).map fun k =>
    (e.2.stack.filter fun x => x.slice == k && !x.park).length).foldl Nat.max 0

/-- A context uses a barrier above B7: one that holds a generation or a waiter (R120). -/
def usesHighBarrier (s : State) (c : Nat) : Bool :=
  (s.wgs.any fun e => e.2.ctx == c && (e.2.barriers.drop 8).any fun b => b != Barrier.idle) ||
  (pathsOf s c).any fun e => match e.2.wait with
    | .barrier b _ _ => decide (8 ≤ b)
    | _ => false

/-- The conditions of R120 on the context's partition. -/
def restoreOk (s : State) (c : Nat) (part : Partition) : Bool :=
  decide (deepest s c ≤ (if part.dense then 8 else 16)) && !(part.dense && usesHighBarrier s c) &&
  decide ((savedCores s c).length ≤ (partCores s c).length) &&
  (savedCores s c).all fun k => decide ((s.wgs.filter fun e => e.2.ctx == c && e.2.core == some k && !e.2.finished).length ≤ placesOf s c)

/-- What the workgroups that a context held on one core need together. -/
def groupNeed (s : State) (c core : Nat) : Usage :=
  (s.wgs.filter fun e => e.2.ctx == c && e.2.core == some core).foldl (fun a e => a.add (heldBy s e.2)) ⟨0, 0, 0, 0, 0⟩

/-- A new core for each old one, the lowest that can hold its workgroups; none when one cannot be placed now (R119). -/
def rePlace (s : State) (c : Nat) : List Nat → List Nat → Option (List (Nat × Nat))
  | [], _ => some []
  | k :: ks, free =>
    match free.find? fun n => ((usageOf s n).add (groupNeed s c k)).fits (placesOf s c) with
    | none => none
    | some n => (rePlace s c ks (free.filter fun x => x != n)).map fun r => (k, n) :: r

/-- The new core of an old one. -/
def movedTo (m : List (Nat × Nat)) (k : Nat) : Nat := ((m.find? fun e => e.1 == k).map (·.2)).getD k

/-- A path after a restore: a YIELD in which it was stopped has ended (R158, R166). -/
def resumePath (q : Path) : Path := { q with stopped := false, wait := if q.wait = .yield then .none else q.wait }

/-- A context's workgroups on their new cores, RUNNING (R119). -/
def restoreOn (s : State) (c : Nat) (m : List (Nat × Nat)) : State :=
  let gs := gangsOf s c
  let s := { s with
    wgs := s.wgs.map fun e => if e.2.ctx == c then (e.1, { e.2 with core := e.2.core.map (movedTo m) }) else e
    cmds := s.cmds.map fun e => if e.2.ctx == c then (e.1, { e.2 with core := movedTo m e.2.core }) else e
    launches := s.launches.map fun e => if e.2.ctx == c then (e.1, { e.2 with room := e.2.room.map (movedTo m) }) else e
    paths := s.paths.map fun e => if gs.contains e.2.gang then (e.1, resumePath e.2) else e
    gangs := s.gangs.map fun e => if gs.contains e.1 then (e.1, { e.2 with sched := 4 }) else e }
  let s := modCtx s c fun x => { x with state := .running }
  let s := (s.gangs.filter fun e => gs.contains e.1).foldl (fun s e =>
    let core := ((wgOf s e.2).bind (·.core)).getD 0
    modGang s e.1 fun g => { g with sched := chooseSched s core }) s
  retryRecords s c

/-- CONTEXT_RESTORE (R100, R119, R120): restored where the partition meets R120 and has room, else FAULTED with RESTORECAP. -/
def execContextRestore (s : State) : Out :=
  match s.subject with
  | .one c =>
    let x := ctxAt s c
    if x.state != .saved then .next s
    else match aGet x.part s.parts with
      | none => .next s
      | some part =>
        if !restoreOk s c part then .next (contextFault s c 0 ⟨3, 0xFFFF, 0, 0, 0, 0⟩)
        else match rePlace s c (savedCores s c) (partCores s c) with
          | none => .next s
          | some m => .next (restoreOn s c m)
  | _ => .next s

/-- CONTEXT_RELEASE (R100): DESTROYED to FREE. -/
def execContextRelease (s : State) : Out :=
  match s.subject with
  | .one c => if (ctxAt s c).state = .destroyed then .next { s with ctxs := aErase c s.ctxs } else .next s
  | _ => .next s

/-- PATH_STARVATION (R140). -/
def execPathStarvation (s : State) : Out :=
  match s.subject with
  | .one p => match aGet p s.paths with
    | some q => .next (if 64 ≤ q.starve then setPath s p { q with starving := true } else s)
    | none => .next s
  | _ => .next s

/-- The path that a pending fault of a gang goes to (R295). -/
def faultPath (s : State) (gid : Nat) (g : Gang) (f : PendingFault) : Option Nat :=
  let mine := f.lanes &&& g.live
  pathOfLane s gid (lowestBit (if mine = 0 then g.live else mine))

/-- The first pending fault that a path is to meet, when it starts a clause at user level (R295). -/
def dueFault (s : State) (p : Nat) (q : Path) : Option PendingFault :=
  if q.sup || q.wait != .none || q.pos.word != 0 || heldBack s q then none
  else (aGet q.gang s.gangs).bind fun g => g.faults.find? fun f => faultPath s q.gang g f == some p

/-- COMMAND_FAULT_DELIVERY (R295). -/
def execCommandFaultDelivery (s : State) : Out :=
  match s.subject with
  | .one p => match aGet p s.paths with
    | none => .next s
    | some q => match dueFault s p q with
      | none => .next s
      | some f =>
        .next (takeTrapAt (modGang s q.gang fun g => { g with faults := g.faults.filter fun x => x != f }) p q f.trap f.base)
  | _ => .next s

end Sys2Proof.Machine
end

