-- ==== Sys2Proof/Machine/Transform.lean ====
section
/-! DEFINITION. The functions of XMATH (R201 to R203): the exact value at a binary32 operand, rounded once to nearest-even.
Reciprocals and roots are decided by exact integer comparison. The others are evaluated in 256-bit fixed point, some 200 bits
beyond the result's; that no operand's value lies so near a rounding boundary is DEDUCED (log entry 10). -/

namespace Sys2Proof.Machine

/-- Fraction bits of the fixed-point values below. -/
def fixBits : Nat := 256

/-- floor(π · 2^256). -/
def fixPi : Nat := 0x3243f6a8885a308d313198a2e03707344a4093822299f31d0082efa98ec4e6c89

/-- floor(ln 2 · 2^256). -/
def fixLn2 : Nat := 0xb17217f7d1cf79abc9e3b39803f2f6af40f343267298b62d8a0d175b8baafa2b

/-- The sum of y^k / k! from k on, in fixed point: `term` is the term before k. -/
def fixExpGo : Nat → Nat → Nat → Nat → Nat → Nat
  | 0, _, _, _, acc => acc
  | fuel + 1, y, k, term, acc =>
    let t := term * y / 2 ^ fixBits / k
    if t == 0 then acc else fixExpGo fuel y (k + 1) t (acc + t)

/-- e^y for 0 ≤ y < 1, in fixed point. -/
def fixExp (y : Nat) : Nat := fixExpGo 80 y 1 (2 ^ fixBits) (2 ^ fixBits)

/-- The alternating series of sine (from k = 1) or cosine (from k = 0): next term divides by (k+1)(k+2). -/
def fixTrigGo : Nat → Nat → Nat → Int → Int → Int
  | 0, _, _, _, acc => acc
  | fuel + 1, y2, k, term, acc =>
    let t := -(((term.natAbs * y2 / 2 ^ fixBits / ((k + 1) * (k + 2)) : Nat) : Int) * (if term < 0 then -1 else 1))
    if t == 0 then acc else fixTrigGo fuel y2 (k + 2) t (acc + t)

/-- sin θ for 0 ≤ θ < 2, in fixed point. -/
def fixSin (th : Nat) : Nat := (fixTrigGo 60 (th * th / 2 ^ fixBits) 1 th th).toNat

/-- cos θ for 0 ≤ θ < π/2, in fixed point. -/
def fixCos (th : Nat) : Nat :=
  (fixTrigGo 60 (th * th / 2 ^ fixBits) 0 ((2 ^ fixBits : Nat) : Int) ((2 ^ fixBits : Nat) : Int)).toNat

/-- The sum of z^(2k+1)/(2k+1) from k on: `pow` is the power before. -/
def fixAtanhGo : Nat → Nat → Nat → Nat → Nat → Nat
  | 0, _, _, _, acc => acc
  | fuel + 1, z2, k, pow, acc =>
    let p := pow * z2 / 2 ^ fixBits
    if p == 0 then acc else fixAtanhGo fuel z2 (k + 2) p (acc + p / (k + 2))

/-- atanh z for 0 ≤ z < 1/2, in fixed point. -/
def fixAtanh (z : Nat) : Nat := fixAtanhGo 200 (z * z / 2 ^ fixBits) 1 z z

/-- The NaN operand's result (R202). -/
def xmathNan (x : Nat) : Nat × Nat := (quieten f32 x, if isSnan f32 x then flagNV else 0)

/-- FRCP (R202). Only NV and DZ are merged (R203). -/
def xFrcp (x : Nat) : Nat × Nat :=
  match unpack f32 x with
  | .nan _ _ => xmathNan x
  | .inf s => (signed f32 s 0, 0)
  | .fin s m e => if m == 0 then (infBits f32 s, flagDZ) else ((roundMag f32 0 s 1 m (-e)).1, 0)

/-- FSQRT (R202). -/
def xFsqrt (x : Nat) : Nat × Nat :=
  match unpack f32 x with
  | .nan _ _ => xmathNan x
  | .inf s => if s then (defaultNan f32, flagNV) else (x, 0)
  | .fin s m e =>
    if m == 0 then (x, 0)
    else if s then (defaultNan f32, flagNV)
    else
      let odd := e % 2 != 0
      let m1 := if odd then 2 * m else m
      let e1 := if odd then e - 1 else e
      let r := isqrt (m1 * 2 ^ 128)
      ((roundSticky f32 0 false r (e1 / 2 - 64) (r * r == m1 * 2 ^ 128)).1, 0)

/-- FRSQ (R202). -/
def xFrsq (x : Nat) : Nat × Nat :=
  match unpack f32 x with
  | .nan _ _ => xmathNan x
  | .inf s => if s then (defaultNan f32, flagNV) else (0, 0)
  | .fin s m e =>
    if m == 0 then (infBits f32 s, flagDZ)
    else if s then (defaultNan f32, flagNV)
    else
      let odd := e % 2 != 0
      let m1 := if odd then 2 * m else m
      let e1 := if odd then e - 1 else e
      let r := isqrt (2 ^ 192 / m1)
      ((roundSticky f32 0 false r (-96 - e1 / 2) (r * r * m1 == 2 ^ 192)).1, 0)

/-- FEXP2 (R202). -/
def xFexp2 (x : Nat) : Nat × Nat :=
  match unpack f32 x with
  | .nan _ _ => xmathNan x
  | .inf s => (if s then 0 else infBits f32 false, 0)
  | .fin s m e =>
    let v : Dyadic := ⟨if s then -(m : Int) else m, e⟩
    if m == 0 then (0x3F800000, 0)
    else if Dyadic.le ⟨128, 0⟩ v then (infBits f32 false, 0)
    else if Dyadic.lt v ⟨-150, 0⟩ then (0, 0)
    else
      let fx : Int := v.m * ((2 ^ (fixBits + e).toNat : Nat) : Int)
      let n := fx / ((2 ^ fixBits : Nat) : Int)
      let fr := (fx % ((2 ^ fixBits : Nat) : Int)).toNat
      if fr == 0 then ((roundMag f32 0 false 1 1 n).1, 0)
      else ((roundSticky f32 0 false (fixExp (fr * fixLn2 / 2 ^ fixBits)) (n - fixBits) false).1, 0)

/-- FLOG2 (R202). -/
def xFlog2 (x : Nat) : Nat × Nat :=
  match unpack f32 x with
  | .nan _ _ => xmathNan x
  | .inf s => if s then (defaultNan f32, flagNV) else (x, 0)
  | .fin s m e =>
    if m == 0 then (infBits f32 true, flagDZ)
    else if s then (defaultNan f32, flagNV)
    else
      let l := Nat.log2 m
      let k : Int := (l : Int) + e
      if m == 2 ^ l then ((intToFp f32 0 k).1, 0)
      else
        -- the mantissa m / 2^l, halved where it is above √2
        let hi := m * m > 2 * 2 ^ (2 * l)
        let base : Nat := if hi then 2 ^ (l + 1) else 2 ^ l
        let k1 := if hi then k + 1 else k
        let num : Int := (m : Int) - base
        let z : Nat := num.natAbs * 2 ^ fixBits / (m + base)
        let lg : Nat := 2 * fixAtanh z * 2 ^ fixBits / fixLn2
        let r : Int := k1 * ((2 ^ fixBits : Nat) : Int) + (if num < 0 then -(lg : Int) else lg)
        ((roundSticky f32 0 (r < 0) r.natAbs (-fixBits) false).1, 0)

/-- The fraction of |x| in turns, and its quadrant's remainder, in fixed point. -/
def turnParts (m : Nat) (e : Int) : Nat × Nat :=
  let fx := if (fixBits : Int) + e ≥ 2 * fixBits then 0 else m * 2 ^ (fixBits + e).toNat % 2 ^ fixBits
  (fx / 2 ^ (fixBits - 2), fx % 2 ^ (fixBits - 2))

/-- sin (`co` false) or cos of a quadrant and a remainder of a turn: sign and magnitude, and whether it is exact. -/
def turnValue (co : Bool) (q y : Nat) : Bool × Nat × Bool :=
  let k := if co then q + 1 else q
  let neg := k % 4 ≥ 2
  let useCos := k % 2 == 1
  if y == 0 then (neg, if useCos then 2 ^ fixBits else 0, true)
  else
    let th := 2 * fixPi * y / 2 ^ fixBits
    (neg, if useCos then fixCos th else fixSin th, false)

/-- FSIN and FCOS (R202). -/
def xTurn (co : Bool) (x : Nat) : Nat × Nat :=
  match unpack f32 x with
  | .nan _ _ => xmathNan x
  | .inf _ => (defaultNan f32, flagNV)
  | .fin s m e =>
    let (q, y) := turnParts m e
    let (neg, v, exact) := turnValue co q y
    let sgn := if co then neg else neg != s
    if v == 0 then (signed f32 (!co && s) 0, 0)
    else ((roundSticky f32 0 sgn v (-fixBits) exact).1, 0)

/-- XMATH by its fn (R201). -/
def xmath (fn x : Nat) : Nat × Nat :=
  match fn with
  | 0 => xFrcp x
  | 1 => xFrsq x
  | 2 => xFsqrt x
  | 3 => xFexp2 x
  | 4 => xFlog2 x
  | 5 => xTurn false x
  | _ => xTurn true x

end Sys2Proof.Machine
end

