-- ==== Sys2Proof/Machine/Float.lean ====
section
/-! DEFINITION. Floating-point vector instructions (R191 to R199). -/

namespace Sys2Proof.Machine

/-- FADD (R192). -/
def execFadd (d a b : Nat) (s : State) : Out := f32Form s d a b fun m x y => fpAdd f32 m x y

/-- FSUB (R192). -/
def execFsub (d a b : Nat) (s : State) : Out := f32Form s d a b fun m x y => fpSub f32 m x y

/-- FMUL (R192). -/
def execFmul (d a b : Nat) (s : State) : Out := f32Form s d a b fun m x y => fpMul f32 m x y

/-- FMAC (R192): V[d] is the addend. -/
def execFmac (d a b : Nat) (s : State) : Out :=
  flagForm s 1 d fun q l =>
    fpFma f32 (fpMode s q) false false (getV s q.gang l a) (getV s q.gang l b) (getV s q.gang l d)

/-- FMIN (R192). -/
def execFmin (d a b : Nat) (s : State) : Out := f32Form s d a b fun _ x y => fpMinMax f32 false x y

/-- FMAX (R192). -/
def execFmax (d a b : Nat) (s : State) : Out := f32Form s d a b fun _ x y => fpMinMax f32 true x y

/-- FNEG (R192): bit 31 inverted. -/
def execFneg (d a : Nat) (s : State) : Out := unForm s d a fun x => x ^^^ 2 ^ 31

/-- FABS (R192): bit 31 cleared. -/
def execFabs (d a : Nat) (s : State) : Out := unForm s d a fun x => x % 2 ^ 31

/-- FRND (R192). -/
def execFrnd (d a m : Nat) (s : State) : Out := flagForm s 1 d fun q l => fpRound f32 m (getV s q.gang l a)

/-- FCPYS (R192): the magnitude of a with the sign of b. -/
def execFcpys (d a b : Nat) (s : State) : Out := binForm s d a b fun x y => x % 2 ^ 31 + y / 2 ^ 31 * 2 ^ 31

/-- FMA (R193). -/
def execFma (d a b c : Nat) (s : State) : Out := fmaForm s d a b c false false

/-- FMS (R193). -/
def execFms (d a b c : Nat) (s : State) : Out := fmaForm s d a b c false true

/-- FNMA (R193). -/
def execFnma (d a b c : Nat) (s : State) : Out := fmaForm s d a b c true false

/-- HADD2 (R194). -/
def execHadd2 (d a b : Nat) (s : State) : Out := packForm s d a b fun m x y _ => fpAdd f16 m x y

/-- HMUL2 (R194). -/
def execHmul2 (d a b : Nat) (s : State) : Out := packForm s d a b fun m x y _ => fpMul f16 m x y

/-- HFMA2 (R194). -/
def execHfma2 (d a b : Nat) (s : State) : Out := packForm s d a b fun m x y z => fpFma f16 m false false x y z

/-- HMIN2 (R194). -/
def execHmin2 (d a b : Nat) (s : State) : Out := packForm s d a b fun _ x y _ => fpMinMax f16 false x y

/-- HMAX2 (R194). -/
def execHmax2 (d a b : Nat) (s : State) : Out := packForm s d a b fun _ x y _ => fpMinMax f16 true x y

/-- BADD2 (R194). -/
def execBadd2 (d a b : Nat) (s : State) : Out := packForm s d a b fun m x y _ => fpAdd bf16 m x y

/-- BMUL2 (R194). -/
def execBmul2 (d a b : Nat) (s : State) : Out := packForm s d a b fun m x y _ => fpMul bf16 m x y

/-- BFMA2 (R194). -/
def execBfma2 (d a b : Nat) (s : State) : Out := packForm s d a b fun m x y z => fpFma bf16 m false false x y z

/-- DADD (R195). -/
def execDadd (d a b : Nat) (s : State) : Out := f64Form s d a b fun m x y _ => fpAdd f64 m x y

/-- DSUB (R195). -/
def execDsub (d a b : Nat) (s : State) : Out := f64Form s d a b fun m x y _ => fpSub f64 m x y

/-- DMUL (R195). -/
def execDmul (d a b : Nat) (s : State) : Out := f64Form s d a b fun m x y _ => fpMul f64 m x y

/-- DFMA (R195): the destination pair is the addend. -/
def execDfma (d a b : Nat) (s : State) : Out := f64Form s d a b fun m x y z => fpFma f64 m false false x y z

/-- DMIN (R195). -/
def execDmin (d a b : Nat) (s : State) : Out := f64Form s d a b fun _ x y _ => fpMinMax f64 false x y

/-- DMAX (R195). -/
def execDmax (d a b : Nat) (s : State) : Out := f64Form s d a b fun _ x y _ => fpMinMax f64 true x y

/-- FCMP_F32 (R196). -/
def execFcmpF32 (p c a b : Nat) (s : State) : Out :=
  flagPredForm s p fun q l => fpCompare f32 c (getV s q.gang l a) (getV s q.gang l b)

/-- FCMP_F64 (R196): on pairs. -/
def execFcmpF64 (p c a b : Nat) (s : State) : Out :=
  flagPredForm s p fun q l => fpCompare f64 c (getPair s q.gang l a) (getPair s q.gang l b)

/-- FCMP_F16 (R196): on bits [15:0]. -/
def execFcmpF16 (p c a b : Nat) (s : State) : Out :=
  flagPredForm s p fun q l => fpCompare f16 c (half (getV s q.gang l a) 0) (half (getV s q.gang l b) 0)

/-- CVT_F32_I32 (R197). -/
def execCvtF32I32 (d a : Nat) (s : State) : Out := cvtForm s d a fun m x => intToFp f32 m (sext x 32)

/-- CVT_F32_N32 (R197). -/
def execCvtF32N32 (d a : Nat) (s : State) : Out := cvtForm s d a fun m x => intToFp f32 m x

/-- CVT_I32_F32 (R198). -/
def execCvtI32F32 (d a : Nat) (s : State) : Out := cvtForm s d a fun m x => fpToInt f32 m (-(2 ^ 31)) (2 ^ 31 - 1) 32 x

/-- CVT_N32_F32 (R198). -/
def execCvtN32F32 (d a : Nat) (s : State) : Out := cvtForm s d a fun m x => fpToInt f32 m 0 (2 ^ 32 - 1) 32 x

/-- CVT_F16_F32 (R197). -/
def execCvtF16F32 (d a : Nat) (s : State) : Out := cvtForm s d a fun m x => fpConvert f32 f16 m x

/-- CVT_F32_F16 (R197): exact. -/
def execCvtF32F16 (d a : Nat) (s : State) : Out := cvtForm s d a fun m x => fpConvert f16 f32 m (half x 0)

/-- CVT_BF16_F32 (R197). -/
def execCvtBf16F32 (d a : Nat) (s : State) : Out := cvtForm s d a fun m x => fpConvert f32 bf16 m x

/-- CVT_F32_BF16 (R197): exact. -/
def execCvtF32Bf16 (d a : Nat) (s : State) : Out := cvtForm s d a fun m x => fpConvert bf16 f32 m (half x 0)

/-- CVT_F64_F32 (R197): exact, into a pair. -/
def execCvtF64F32 (d a : Nat) (s : State) : Out :=
  flagPairForm s d fun q l => fpConvert f32 f64 (fpMode s q) (getV s q.gang l a)

/-- CVT_F32_F64 (R197): from a pair. -/
def execCvtF32F64 (d a : Nat) (s : State) : Out :=
  flagForm s 1 d fun q l => fpConvert f64 f32 (fpMode s q) (getPair s q.gang l a)

/-- CVT_F64_I64 (R197): pair to pair. -/
def execCvtF64I64 (d a : Nat) (s : State) : Out :=
  flagPairForm s d fun q l => intToFp f64 (fpMode s q) (sext (getPair s q.gang l a) 64)

/-- CVT_I64_F64 (R198): pair to pair. -/
def execCvtI64F64 (d a : Nat) (s : State) : Out :=
  flagPairForm s d fun q l => fpToInt f64 (fpMode s q) (-(2 ^ 63)) (2 ^ 63 - 1) 64 (getPair s q.gang l a)

/-- Two narrow elements of V[a] and V[b] in bytes 0 and 1 (R74, R197). -/
def narrowPair (f : Fmt) (x y : Nat) : Nat × Nat :=
  ((toNarrow f32 f false x).1 + 2 ^ 8 * (toNarrow f32 f false y).1, (toNarrow f32 f false x).2 ||| (toNarrow f32 f false y).2)

/-- CVT_E4M3X2_F32 (R197). -/
def execCvtE4m3x2F32 (d a b : Nat) (s : State) : Out := f32Form s d a b fun _ x y => narrowPair e4m3 x y

/-- CVT_E5M2X2_F32 (R197): non-saturating. -/
def execCvtE5m2x2F32 (d a b : Nat) (s : State) : Out := f32Form s d a b fun _ x y => narrowPair e5m2 x y

/-- CVT_F32_E4M3 (R197): byte k of V[a]; never NV. -/
def execCvtF32E4m3 (d a k : Nat) (s : State) : Out := cvtForm s d a fun _ x => fromNarrow e4m3 f32 (bits x (8 * k + 7) (8 * k))

/-- CVT_F32_E5M2 (R197): byte k of V[a]. -/
def execCvtF32E5m2 (d a k : Nat) (s : State) : Out := cvtForm s d a fun _ x => fromNarrow e5m2 f32 (bits x (8 * k + 7) (8 * k))

end Sys2Proof.Machine
end

