-- ==== Sys2Proof/Machine/Queues.lean ====
section
/-! DEFINITION. Queues (R121 to R130): register writes, the reading and checking of packets, and the packets' effects. -/

namespace Sys2Proof.Machine

/-- Ring size in granules (R121). -/
def ringSize (s : State) (k : Nat) : Nat := 256 * 2 ^ bits (qReg s k qCtl) 4 1

/-- State codes of QSTATE (R121). -/
def queueCode : QueueState → Nat
  | .disabled => 0
  | .idle => 1
  | .active => 2
  | .blocked => 3
  | .error => 4

/-- A queue register as the host reads it (R121): QSTATE is computed; unlisted offsets read zero. -/
def queueRegRead (s : State) (k r : Nat) : Nat :=
  if r < 6 then qReg s k r else if r = 6 then queueCode (queueAt s k).state else 0

/-- The queue and register at an offset of a virtual function's queue window (R121). -/
def queueRegAt (fn off : Nat) : Option (Nat × Nat) :=
  if fn = 0 || 0x4000 ≤ off || off % 8 != 0 then none
  else some (((fn - 1) * 16 + off / 1024) * 16 + off % 1024 / 64, off % 64 / 8)

/-- QRPTR has reached QWPTR and every packet has completed: the queue is IDLE (R128). A queue that was held is ACTIVE by then, since nothing
is left to hold. -/
def settleQueue (s : State) (k : Nat) : State :=
  let q := queueAt s k
  if (q.state = .active || q.state = .blocked) && q.packets.isEmpty && qReg s k qRptr == qReg s k qWptr then
    setQueue s k { q with state := .idle, hold := .none }
  else s

/-- A write of QWPTR (R122, R128). -/
def writeWptr (s : State) (k v : Nat) : State :=
  let q := queueAt s k
  let s := setQReg s k qWptr v
  if q.state = .disabled || q.state = .error then s
  else if ringSize s k ≤ v then queueStop s k 8 (qReg s k qRptr) 0 0
  else if q.state = .idle && v != qReg s k qRptr then setQueue s k { q with state := .active }
  else settleQueue s k

/-- The fields of QCTL that a write gives (R121). -/
def ctlFields (v : Nat) : Nat := v % 2 ^ 16

/-- A write of QCTL (R121, R122, R128). In ERROR the stored QWPTR is compared with the ring size that the same write gives: the manual does not
say (log entry 18). -/
def writeCtl (s : State) (k v : Nat) : State :=
  let q := queueAt s k
  let en := hasBit v 0
  if bits v 4 1 = 15 then s
  else match q.state with
    | .disabled =>
      let s := setQReg s k qCtl (ctlFields v)
      if en then setQueue (setQReg (setQReg (setQReg s k qRptr 0) k qWptr 0) k qRecW 0) k { q with state := .idle, hold := .none }
      else s
    | .error =>
      let s := setQReg s k qCtl (ctlFields v)
      if !en then setQueue s k { q with state := .disabled, hold := .none }
      else if qReg s k qWptr < ringSize s k then
        setQueue (setQReg s k qRptr (qReg s k qWptr)) k { q with state := .idle, hold := .none }
      else queueStop s k 8 (qReg s k qRptr) 0 0
    | _ =>
      if en then s
      else
        let s := setQReg s k qCtl (qReg s k qCtl / 2 * 2)
        setQueue s k { q with state := .disabled, hold := .none, waiting := none, answer := none }

/-- A write of QBASE or QRECBASE: kept while the queue is DISABLED or in ERROR, with bits [11:0] zero (R121, R122). -/
def writeBase (s : State) (k r v : Nat) : State :=
  let st := (queueAt s k).state
  if st = .disabled || st = .error then setQReg s k r (v / 4096 * 4096) else s

/-- A write of a queue register (R121). -/
def writeQueueReg (s : State) (k r v : Nat) : State :=
  if r = qWptr then writeWptr s k v
  else if r = qCtl then writeCtl s k v
  else if r = qBase || r = qRecBase then writeBase s k r v
  else s

/-- The queue register that an event's register write names, while the package is in SERVICE (R402). -/
def subjectReg (s : State) : Option (Nat × Nat × Nat) :=
  match s.subject with
  | .write fn off v =>
    if s.pkg.state != .service || 128 < fn then none else (queueRegAt fn off).map fun x => (x.1, x.2, v % 2 ^ 64)
  | _ => none

/-- QWPTR (R128). -/
def execQwptr (s : State) : Out :=
  match subjectReg s with
  | some (k, r, v) => .next (if r = qWptr then writeWptr s k v else s)
  | none => .next s

/-- QUEUE_ENABLE (R128). -/
def execQueueEnable (s : State) : Out :=
  match subjectReg s with
  | some (k, r, v) => .next (if r = qCtl && hasBit v 0 then writeCtl s k v else s)
  | none => .next s

/-- QUEUE_DISABLE (R128). -/
def execQueueDisable (s : State) : Out :=
  match subjectReg s with
  | some (k, r, v) => .next (if r = qCtl && !hasBit v 0 then writeCtl s k v else s)
  | none => .next s

/-- Fields of a packet header (R124). -/
def hOp (h : Nat) : Nat := bits h 7 0
def hLen (h : Nat) : Nat := bits h 15 8
def hBarrier (h : Nat) : Bool := hasBit h 16
def hIntr (h : Nat) : Bool := hasBit h 17

/-- LEN as R124 lists it. -/
def lenOk (h : Nat) : Bool :=
  match hOp h with
  | 0 => decide (1 ≤ hLen h)
  | 1 => hLen h == 17
  | 5 => hLen h == 1
  | 9 => hLen h == 1
  | _ => hLen h == 2

/-- The lowest code that stops the queue at a header (R123, R129). -/
def headerCode (h rptr size : Nat) : Option Nat :=
  if 0x0A ≤ hOp h then some 1
  else if !lenOk h then some 2
  else if size < rptr + hLen h then some 3
  else if bits h 63 18 != 0 then some 4
  else none

/-- A packet's own barrier (R124). -/
def implicitBarrier (op : Nat) : Bool := [2, 3, 5, 6, 7, 8].contains op

/-- What stops the queue at a packet's body: code and FAULTADDR (R124, R126). -/
def bodyCode (h : Nat) (b : List Nat) : Option (Nat × Nat) :=
  let f (off n : Nat) := fieldAt b off n
  let need (good : Bool) (al : Nat) : Option (Nat × Nat) :=
    if !good then some (4, 0) else if f 8 8 % al != 0 then some (6, f 8 8) else none
  match hOp h with
  | 0 => none
  | 1 => need (f 8 8 == 0) 1
  | 2 => need (f 16 8 % 4096 == 0 && decide (65536 ≤ f 16 8) && f 28 4 == 0) 4096
  | 3 => need (decide (f 24 8 < 2)) 8
  | 4 => need (decide (f 24 8 < 4)) 8
  | 5 => need (decide (f 8 8 < 5)) 1
  | 6 => need (decide (f 16 8 < 4) && f 24 8 == 0) 256
  | 7 => need (f 24 4 % 128 == 0 && within 128 (f 24 4) (2 ^ 30) && f 28 4 == 0) 128
  | 8 => need (f 24 8 == 0) 16
  | _ => need (f 8 8 == 0) 1

/-- What a queue's next packet comes to (R123, R126). -/
inductive Front where
  /-- Nothing to start yet. -/
  | wait
  | stop (code off header addr : Nat)
  | packet (header : Nat) (bytes : List Nat)
  deriving DecidableEq, Repr

/-- The packet at QRPTR (R122, R123): its header checked once readable, its body once all of it is. A granule that the host changes in the
readable range is read as memory holds it at that moment, both halves (log entry 101); the header of a record whose granule cannot be read
is 0 (log entry 102). -/
def frontRead (s : State) (k : Nat) : State × Front :=
  let q := queueAt s k
  let c := k / 16
  let r := qReg s k qRptr
  let n := ringSize s k
  let at_ := (qReg s k qBase + 16 * r) % 2 ^ 64
  let held (s : State) (h : Nat) (e : Eng) : State × Front := match e with
    | .page key a => (setQueue s k { q with waiting := some (key, r, h, a) }, .wait)
    | .fail _ _ a => (s, .stop 6 r h a)
    | .peer => (setQueue s k { q with waiting := some (peerKey, r, h, 0) }, .wait)
    | .ok _ => (s, .wait)
  if !isRunning s c || !(q.state = .active || q.state = .blocked) || q.waiting.isSome || qReg s k qWptr = r then (s, .wait)
  else
    let g := engRead s c frontCore (frontId k) at_ 16
    match g.2 with
    | .ok b0 =>
      let h := ofBytes (b0.take 8)
      match headerCode h r n with
      | some code => (g.1, .stop code r h 0)
      | none =>
        if (qReg s k qWptr + n - r) % n < hLen h then (g.1, .wait)
        else if hOp h = 0 then (g.1, .packet h b0)
        else
          let p := engRead g.1 c frontCore (frontId k) at_ (16 * hLen h)
          match p.2 with
          | .ok b => match bodyCode h b with
            | some (code, a) => (p.1, .stop code r h a)
            | none => (p.1, .packet h b)
          | e => held p.1 h e
    | e => held g.1 0 e

/-- A packet starts (R123, R128): QRPTR advances and the packet awaits its completion. -/
def startPacket (s : State) (k h : Nat) (b : List Nat) (w : PacketWait) : State :=
  let q := queueAt s k
  let r := qReg s k qRptr
  let next := if hOp h = 9 then 0 else (r + hLen h) % ringSize s k
  let held := decide (w = .waitv)
  setQReg (setQueue s k
    { q with state := if held then .blocked else .active, hold := if held then .waitv else .none, nextSeq := q.nextSeq + 1,
             packets := q.packets ++ [⟨q.nextSeq, r, h, b, w⟩] }) k qRptr next

/-- The queue holds its next packet (R128). -/
def holdQueue (s : State) (k : Nat) (why : Hold) : State := setQueue s k { queueAt s k with state := .blocked, hold := why }

/-- A packet that met an access: it awaits a page or an answer, or stops the queue with ACCESS (R126). Data that a packet reads and that is
poisoned stops it so as well: the manual does not say what it does (log entry 121). -/
def packetEng (s : State) (k h : Nat) (e : Eng) : State :=
  let r := qReg s k qRptr
  match e with
  | .page key a => setQueue s k { queueAt s k with waiting := some (key, r, h, a) }
  | .fail _ _ a => queueStop s k 6 r h a
  | .peer => setQueue s k { queueAt s k with waiting := some (peerKey, r, h, 0) }
  | .ok _ => s

/-- A hold of the queue's next packet has ended (R128): the queue is ACTIVE again. -/
def endHold (s : State) (k : Nat) : State :=
  let q := queueAt s k
  if q.state = .blocked then setQueue s k { q with state := .active, hold := .none } else s

/-- A FRAME of the queue still completes the frame before its own: no later packet starts (R125, R365, log entry 122). -/
def framing (q : Queue) : Bool := q.packets.any fun x => x.wait = .frame

/-- The event of one kind of packet (R127, R128): the checks, the holds, then its effect. -/
def packetEvent (s : State) (mine : Nat → List Nat → Bool) (go : State → Nat → Nat → List Nat → State) : Out :=
  match s.subject with
  | .one k =>
    let r := frontRead s k
    match r.2 with
    | .wait => .next r.1
    | .stop code off h addr => .next (queueStop r.1 k code off h addr)
    | .packet h b =>
      let q := queueAt r.1 k
      if !mine h b then .next r.1
      else if q.packets.any fun x => x.wait = .waitv then .next (holdQueue r.1 k .waitv)
      else if (hBarrier h || implicitBarrier (hOp h)) && !q.packets.isEmpty then .next (holdQueue r.1 k .barrier)
      else if framing q then .next r.1
      else .next (go (endHold r.1 k) k h b)
  | _ => .next s

/-- A packet of one opcode. -/
def isOp (op : Nat) (h : Nat) (_ : List Nat) : Bool := hOp h == op

/-- NOP (R125). -/
def execNop (s : State) : Out := packetEvent s (isOp 0) fun s k h b => startPacket s k h b .done

/-- A WSTORE of a context is held or runs (R125). -/
def wstoreHeld (s : State) (c : Nat) : Bool :=
  (List.range 16).any fun i =>
    let q := queueAt s (c * 16 + i)
    q.hold = .wstore || q.packets.any fun x => match x.wait with
      | .wstore _ => true
      | _ => false

/-- LAUNCH (R125, R132). -/
def execLaunch (s : State) : Out :=
  packetEvent s (isOp 1) fun s k h b =>
    let c := k / 16
    if wstoreHeld s c then holdQueue s k .launch
    else
      let d := (b.drop 16).take 256
      let r := checkLaunch s c frontCore (frontId k) d
      match r.2 with
      | .error e => packetEng r.1 k h e
      | .ok none => queueStop r.1 k 5 (qReg s k qRptr) h 0
      | .ok (some side) =>
        let s := { r.1 with icache := r.1.icache.filter fun e => e.1 / 2 ^ 64 != c }
        let l : Launch :=
          { ctx := c, queue := k % 16, packet := (queueAt s k).nextSeq, prio := bits (qReg s k qCtl) 7 5, desc := launchOfBytes d,
            side := side, nextSet := 0, pass := none, room := [] }
        let a := addLaunch s l
        startPacket a.1 k h b (.launch a.2)

/-- FRAME (R125, R365): the queue's open frame, if there is one, is rasterised for this packet; the new frame opens when that is done. -/
def execFrame (s : State) : Out :=
  packetEvent s (isOp 2) fun s k h b =>
    let q := queueAt s k
    let s := match q.frame with
      | some fid => rasteriseFrame s fid (k % 16) q.nextSeq
      | none => s
    startPacket s k h b .frame

/-- The frame of a FRAME packet opens (R365): every target still bound to the old one is unbound, and the old one is gone. -/
def openFrame (s : State) (k : Nat) (x : Packet) : State :=
  let s := match (queueAt s k).frame with
    | some fid =>
      let s := unbindTargets s fid ((boundTo s fid).map (·.1))
      { s with frames := aErase fid s.frames }
    | none => s
  let f := freshId s
  let fr : Frame :=
    { ctx := k / 16, queue := k % 16, id := fieldAt x.body 24 4, base := fieldAt x.body 8 8, size := fieldAt x.body 16 8, used := 0,
      raster := none, tris := [], prims := [], refused := [] }
  let s := { f.2 with frames := aSet f.1 fr f.2.frames }
  let q := queueAt s k
  setQueue s k { q with frame := some f.1, packets := q.packets.map fun y => if y.seq = x.seq then { y with wait := .done } else y }

/-- Writes of a context's work are accepted and acknowledged, at SYSTEM by peers too (R125, R257). -/
def workReleased (s : State) (c scope : Nat) : Bool :=
  !(s.ops.any fun e => e.2.ctx == c && (e.2.kind = .store || e.2.kind = .atom)) &&
  !(s.lines.any fun e => e.2.queue.any fun r => r.ctx == c && r.kind = .write) &&
  !(s.pubs.any fun x => x.ctx == c) &&
  (scope != 4 || !(s.peers.any fun e => e.2.ctx == c && !isRead e.2.ask))

/-- The write-backs of a release for every core of a context's partition (R125, R257). -/
def releaseAll (s : State) (c scope : Nat) : State := (partCores s c).foldl (fun s k => releaseCore s scope k) s

/-- The acquire for every later packet: each core of the partition (R125, R257). -/
def acquireAll (s : State) (c scope : Nat) : State := (partCores s c).foldl (fun s k => acquire s scope k c) s

/-- One access of a packet to bytes of a peer (R125, R400): the request is sent, and the packet takes the answer when it comes. -/
def peerWord (s : State) (k pa va : Nat) (ask : PeerOp) : State × Eng :=
  match (queueAt s k).answer with
  | some x => (setQueue s k { queueAt s k with answer := none }, .ok (toBytes (askSize ask) x))
  | none =>
    if (peerPort s (pa - peerBase)).isNone then (countFailedAccess s, .fail cProt 9 va)
    else (sendPeer s { op := 0, lane := frontId k, ctx := k / 16, addr := pa, ask := ask, silent := false, gang := 0, core := frontCore,
                       va := va, fill := 0, base := 0, port := none, requester := 0 }, .peer)

/-- The peer address of an aligned word of a packet, when its page is a peer's. -/
def peerPart (ps : List Part) : Option Nat := ((ps.head?).filter fun p => isPeer p.pa).map (·.pa)

/-- Bytes that a packet has written at a peer, in the P copy of the die that serves the queue (R237). -/
def peerCopy (s : State) (pa : Nat) (bytes : List Nat) : State :=
  if hasP s (dieOf frontCore) (pa / 128) then memPut s (copyAt (dieOf frontCore) pa) bytes else s

/-- A packet's write of bytes that lie in one aligned word or pair (R125, R126). -/
def frontWrite (s : State) (k a : Nat) (bytes : List Nat) : State × Eng :=
  let t := engCheckAll s (k / 16) frontCore .write [(a, bytes.length)]
  match t.2 with
  | .error e => (t.1, e)
  | .ok ps => match peerPart (ps.map (·.1)) with
    | some pa =>
      let r := peerWord t.1 k pa a (.write bytes)
      (match r.2 with
        | .ok _ => peerCopy (commitParts r.1 (k / 16) frontCore .write ps) pa bytes
        | _ => r.1, r.2)
    | none => (writeParts (commitParts t.1 (k / 16) frontCore .write ps) (k / 16) frontCore (frontId k) (ps.map (·.1)) bytes, .ok [])

/-- A packet's read of a 64-bit word (R125): at a peer it is read there, whatever line of it the die holds. -/
def frontWord (s : State) (k a : Nat) : State × Eng :=
  let t := engTranslate s (k / 16) frontCore .read a 8
  match t.2 with
  | .error e => (t.1, e)
  | .ok ps => match peerPart ps with
    | some pa => peerWord t.1 k pa a (.read 8)
    | none =>
      let r := readParts t.1 (k / 16) frontCore (frontId k) ps
      (r.1, .ok r.2)

/-- A packet's addition to a 64-bit word (R125): read and written in one, and at a peer one atomic there. A poisoned word is not written, so
nothing is marked for it (R209). -/
def frontAdd (s : State) (k a v : Nat) : State × Eng :=
  let t := engCheckAll s (k / 16) frontCore .write [(a, 8)]
  let sum (b : List Nat) : List Nat := toBytes 8 ((ofBytes b + v) % 2 ^ 64)
  match t.2 with
  | .error e => (t.1, e)
  | .ok ps =>
    let mark (s : State) : State := commitParts s (k / 16) frontCore .write ps
    match peerPart (ps.map (·.1)) with
    | some pa =>
      let r := peerWord t.1 k pa a (.atomic 13 v 0)
      (match r.2 with
        | .ok b => peerCopy (mark r.1) pa (sum b)
        | _ => r.1, r.2)
    | none => match (ps.head?).bind fun p => poisonedAt t.1 (dieOf frontCore) p.1.pa 8 with
      | some x =>
        let f := readFault t.1 x
        (f.1, .fail f.2.1 f.2.2 a)
      | none =>
        let r := readParts (mark t.1) (k / 16) frontCore (frontId k) (ps.map (·.1))
        (writeParts r.1 (k / 16) frontCore (frontId k) (ps.map (·.1)) (sum r.2), .ok [])

/-- A packet that starts once one access of it has passed (R126). -/
def startAfter (r : State × Eng) (k h : Nat) (b : List Nat) : State :=
  match r.2 with
  | .ok _ => startPacket r.1 k h b .done
  | e => packetEng r.1 k h e

/-- SIGNAL (R125): a release at SYSTEM scope, then one 64-bit access. -/
def signalPacket (act : State → Nat → Nat → Nat → State × Eng) (s : State) (k h : Nat) (b : List Nat) : State :=
  let c := k / 16
  if !workReleased s c 4 then s else startAfter (act (releaseAll s c 4) k (fieldAt b 8 8) (fieldAt b 16 8)) k h b

/-- SIGNAL_WRITE (R125). -/
def execSignalWrite (s : State) : Out :=
  packetEvent s (fun h b => hOp h == 3 && fieldAt b 24 8 == 0) (signalPacket fun s k a v => frontWrite s k a (toBytes 8 v))

/-- SIGNAL_ADD (R125). -/
def execSignalAdd (s : State) : Out :=
  packetEvent s (fun h b => hOp h == 3 && fieldAt b 24 8 == 1) (signalPacket frontAdd)

/-- COND of WAITV (R124): 0 EQ, 1 NE, 2 GEU, 3 LTU, the word on the left. -/
def waitvCond (cond x v : Nat) : Bool :=
  match cond with
  | 0 => x == v
  | 1 => x != v
  | 2 => decide (v ≤ x)
  | _ => decide (x < v)

/-- WAITV (R125): compared at its start; until it holds, the queue is BLOCKED. -/
def execWaitv (s : State) : Out :=
  packetEvent s (isOp 4) fun s k h b =>
    let c := k / 16
    let r := frontWord s k (fieldAt b 8 8)
    match r.2 with
    | .ok x =>
      if waitvCond (fieldAt b 24 8) (ofBytes x) (fieldAt b 16 8) then startPacket (acquireAll r.1 c 4) k h b .done
      else startPacket r.1 k h b .waitv
    | e => packetEng r.1 k h e

/-- A packet record changed. -/
def modPacket (s : State) (k seq : Nat) (f : Packet → Packet) : State :=
  setQueue s k { queueAt s k with packets := (queueAt s k).packets.map fun x => if x.seq = seq then f x else x }

/-- Whether a WAITV's word lies in a memory that satisfies a test; one that has no translation any more does, and is served or stops the queue
when it is read (R126). -/
def waitvIn (s : State) (c a : Nat) (ok : Nat → Bool) : Bool :=
  match (translate s c frontCore true .probe a 8).2 with
  | .ok pa _ _ => ok pa
  | _ => true

/-- A WAITV that waits compares again, where its word lies in a memory that satisfies a test (R125). -/
def recheckWaitv (s : State) (k : Nat) (ok : Nat → Bool) : State :=
  let q := queueAt s k
  let c := k / 16
  match q.packets.find? fun x => x.wait = .waitv with
  | none => s
  | some p =>
    let a := fieldAt p.body 8 8
    if !isRunning s c || q.waiting.isSome || !(q.answer.isSome || waitvIn s c a ok) then s
    else
      let r := frontWord s k a
      match r.2 with
      | .ok x =>
        if waitvCond (fieldAt p.body 24 8) (ofBytes x) (fieldAt p.body 16 8) then
          let s := modPacket (acquireAll r.1 c 4) k p.seq fun x => { x with wait := .done }
          let q := queueAt s k
          setQueue s k { q with state := if q.state = .blocked then .active else q.state, hold := .none }
        else r.1
      | .fail _ _ addr => accessStop r.1 k p.off p.header addr
      | .page key addr => setQueue r.1 k { queueAt r.1 k with waiting := some (key, p.off, p.header, addr) }
      | .peer => setQueue r.1 k { queueAt r.1 k with waiting := some (peerKey, p.off, p.header, a) }

/-- WAITV_RECHECK (R125): a word of device memory. -/
def execWaitvRecheck (s : State) : Out :=
  match s.subject with
  | .one k => .next (recheckWaitv s k isDevice)
  | _ => .next s

/-- WAITV_POLL_TIMER (R125): a word of host memory, and one of a peer, whose re-reading the manual leaves open (log entry 103). -/
def execWaitvPollTimer (s : State) : Out :=
  match s.subject with
  | .one k => .next (recheckWaitv s k fun a => !isDevice a)
  | _ => .next s

/-- FENCE (R125): the release, the acquire, and the read-only caches of the partition emptied. -/
def execFencePacket (s : State) : Out :=
  packetEvent s (isOp 5) fun s k h b =>
    let c := k / 16
    let scope := fieldAt b 8 8
    if !workReleased s c scope then s
    else
      let s := acquireAll (releaseAll s c scope) c scope
      startPacket (roDrop s fun x => (partCores s c).contains x.core) k h b .done

/-- What a transition of a target does to its packet's queue (R125, R126, R350). -/
def settlePacketTarget (s : State) (k h : Nat) (b : List Nat) (r : TgtRes) (w : PacketWait) : State :=
  match r with
  | .ok => startPacket s k h b w
  | .eng e => packetEng s k h e
  | _ => queueStop s k 7 (qReg s k qRptr) h 0

/-- A TGT packet with an OP. -/
def isTgt (op : Nat) (h : Nat) (b : List Nat) : Bool := hOp h == 6 && fieldAt b 16 8 == op

/-- TGT_CREATE (R349). -/
def execTgtCreate (s : State) : Out :=
  packetEvent s (isTgt 0) fun s k h b =>
    let r := moveTarget s (k / 16) frontCore (tgtId k) (fieldAt b 8 8) true [tgtNone, tgtReleased] tgtCreated
    settlePacketTarget r.1 k h b r.2 .done

/-- TGT_OPEN (R349, R350). -/
def execTgtOpen (s : State) : Out :=
  packetEvent s (isTgt 1) fun s k h b =>
    let r := openTarget s (k / 16) frontCore (tgtId k) (fieldAt b 8 8) k
    settlePacketTarget r.1 k h b r.2 .done

/-- TGT_SEAL (R349, R350): the packet completes when the target is SEALED. -/
def execTgtSeal (s : State) : Out :=
  packetEvent s (isTgt 2) fun s k h b =>
    let a := fieldAt b 8 8
    let r := sealTarget s (k / 16) frontCore (tgtId k) a (k % 16) (queueAt s k).nextSeq
    settlePacketTarget r.1 k h b r.2 (.seal a)

/-- TGT_RELEASE (R349). -/
def execTgtRelease (s : State) : Out :=
  packetEvent s (isTgt 3) fun s k h b =>
    let r := moveTarget s (k / 16) frontCore (tgtId k) (fieldAt b 8 8) false [tgtCreated, tgtSealed] tgtReleased
    settlePacketTarget r.1 k h b r.2 .done

/-- Lines of 128 bytes copied from a virtual address into the weight store (R125): how many are left, and what stopped the rest. -/
def copyToStore (s : State) (c id : Nat) : Nat → Nat → Nat → State × Nat × Eng
  | 0, _, _ => (s, 0, .ok [])
  | n + 1, src, dst =>
    let r := engRead s c frontCore id (src % 2 ^ 64) 128
    match r.2 with
    | .ok b => copyToStore (memPut r.1 dst b) c id n (src + 128) (dst + 128)
    | e => (r.1, n + 1, e)

/-- A WSTORE that has started goes on from its line n (R125, R126, R128): it is done, waits at a line, or stops the queue. -/
def runWstore (s : State) (k : Nat) (x : Packet) (n : Nat) : State :=
  let c := k / 16
  let dst := fieldAt x.body 16 8
  let lines := fieldAt x.body 24 4 / 128
  let die := bits dst 31 30
  let r := copyToStore s c (frontId k) (lines - n) (fieldAt x.body 8 8 + 128 * n)
    (wsBase + die * 2 ^ 30 + (windowOf s c die).1 + bits dst 29 0 + 128 * n)
  let at_ (s : State) (w : PacketWait) : State := modPacket s k x.seq fun x => { x with wait := w }
  match r.2.2 with
  | .ok _ => at_ r.1 .done
  | .page key a =>
    let s := at_ r.1 (.wstore (lines - r.2.1))
    setQueue s k { queueAt s k with waiting := some (key, x.off, x.header, a) }
  | .peer =>
    let s := at_ r.1 (.wstore (lines - r.2.1))
    setQueue s k { queueAt s k with waiting := some (peerKey, x.off, x.header, 0) }
  | .fail _ _ a => accessStop r.1 k x.off x.header a

/-- DST of a WSTORE lies in the context's window on its die (R324). -/
def storeWindowOk (s : State) (c dst n : Nat) : Bool :=
  bits dst 63 32 == 0 && dst % 128 == 0 && decide (bits dst 29 0 + n ≤ (windowOf s c (bits dst 31 30)).2)

/-- WSTORE (R125, R324): held while a kernel of the context runs; then it starts, and copies as far as it comes. -/
def execWstore (s : State) : Out :=
  packetEvent s (isOp 7) fun s k h b =>
    let c := k / 16
    let dst := fieldAt b 16 8
    let n := fieldAt b 24 4
    if !storeWindowOk s c dst n then queueStop s k 6 (qReg s k qRptr) h dst
    else if s.launches.any (fun e => e.2.ctx == c) || s.passes.any (fun e => e.2.ctx == c) then holdQueue s k .wstore
    else
      let x : Packet := ⟨(queueAt s k).nextSeq, qReg s k qRptr, h, b, .wstore 0⟩
      runWstore (startPacket s k h b (.wstore 0)) k x 0

/-- MARK (R125): VALUE, and the front-end cycle count of the serving die, which the model takes to be die 0 for every queue (log
entry 104). -/
def execMark (s : State) : Out :=
  packetEvent s (isOp 8) fun s k h b =>
    let bytes := toBytes 8 (fieldAt b 16 8) ++ toBytes 8 (Config.frontEndCycles (dieOf frontCore) s.clock)
    startAfter (frontWrite s k (fieldAt b 8 8) bytes) k h b

/-- WRAP (R125). -/
def execWrap (s : State) : Out := packetEvent s (isOp 9) fun s k h b => startPacket s k h b .done

/-- A launch has nothing left to start, no workgroup, and no posted fragment to apply (R125). -/
def launchOver (s : State) (lid : Nat) (l : Launch) : Bool :=
  !setWaits s l && !(s.wgs.any fun e => e.2.launch == lid) &&
  !(s.targets.any fun e => e.2.entries.any fun o => o.launch == lid && o.frag.isSome)

/-- Launches and fragment passes that a packet owns are over (R125, R372). -/
def workOver (s : State) (k seq : Nat) : Bool :=
  (s.launches.all fun e => e.2.ctx != k / 16 || e.2.queue != k % 16 || e.2.packet != seq || launchOver s e.1 e.2) &&
  (s.passes.all fun e => e.2.ctx != k / 16 || e.2.queue != k % 16 || e.2.packet != seq ||
    (e.2.started && e.2.todo.isEmpty && e.2.packing.isEmpty && e.2.ready.isEmpty))

/-- Writes of a queue's TGT packets at peers are on their way. -/
def tgtAway (s : State) (k : Nat) : Bool := s.peers.any fun e => e.2.op == 0 && e.2.lane == tgtId k

/-- A started packet is complete (R125, R350): a TGT packet's writes at peers have been answered. -/
def packetOver (s : State) (k : Nat) (x : Packet) : Bool :=
  workOver s k x.seq && !(hOp x.header == 6 && tgtAway s k) && match x.wait with
    | .frame => false
    | .waitv => false
    | .wstore _ => false
    | .seal a => (aGet (tgtKey (k / 16) a) s.targets).isNone
    | _ => true

/-- PACKET_COMPLETE (R125, R128). A WSTORE part-way goes on first; and a FRAME opens its frame once the bins of the one before are emitted. -/
def execPacketComplete (s : State) : Out :=
  match s.subject with
  | .two k seq => match (queueAt s k).packets.find? fun x => x.seq == seq with
    | none => .next s
    | some x => match x.wait with
    | .wstore n => .next (if (queueAt s k).waiting.isSome then s else runWstore s k x n)
    | .frame => .next (if ((queueAt s k).frame.map (emitting s)) = some true then s else openFrame s k x)
    | _ =>
      if !packetOver s k x then .next s
      else
        let mine (c q n : Nat) : Bool := c == k / 16 && q == k % 16 && n == seq
        let q := queueAt s k
        let s1 := settleQueue (setQueue s k { q with packets := q.packets.filter fun y => y.seq != seq }) k
        let s2 := { s1 with launches := s1.launches.filter fun e => !mine e.2.ctx e.2.queue e.2.packet,
                            passes := s1.passes.filter fun e => !mine e.2.ctx e.2.queue e.2.packet }
        .next (if hIntr x.header then raiseQueue s2 k else s2)
  | _ => .next s

end Sys2Proof.Machine
end

