-- ==== Sys2Proof/Machine/Signature.lean ====
section
/-! DEFINITION. The signature of an image (R21): ECDSA on the curve P-384 over the SHA-384 digest, as the standards that R21 names define
them (log entry 95). -/

namespace Sys2Proof.Machine

/-- A word of SHA-384. -/
abbrev Word64 := BitVec 64

/-- Round constants of SHA-384. -/
def shaK : List Nat :=
  [0x428a2f98d728ae22, 0x7137449123ef65cd, 0xb5c0fbcfec4d3b2f, 0xe9b5dba58189dbbc, 0x3956c25bf348b538] ++
  [0x59f111f1b605d019, 0x923f82a4af194f9b, 0xab1c5ed5da6d8118, 0xd807aa98a3030242, 0x12835b0145706fbe] ++
  [0x243185be4ee4b28c, 0x550c7dc3d5ffb4e2, 0x72be5d74f27b896f, 0x80deb1fe3b1696b1, 0x9bdc06a725c71235] ++
  [0xc19bf174cf692694, 0xe49b69c19ef14ad2, 0xefbe4786384f25e3, 0x0fc19dc68b8cd5b5, 0x240ca1cc77ac9c65] ++
  [0x2de92c6f592b0275, 0x4a7484aa6ea6e483, 0x5cb0a9dcbd41fbd4, 0x76f988da831153b5, 0x983e5152ee66dfab] ++
  [0xa831c66d2db43210, 0xb00327c898fb213f, 0xbf597fc7beef0ee4, 0xc6e00bf33da88fc2, 0xd5a79147930aa725] ++
  [0x06ca6351e003826f, 0x142929670a0e6e70, 0x27b70a8546d22ffc, 0x2e1b21385c26c926, 0x4d2c6dfc5ac42aed] ++
  [0x53380d139d95b3df, 0x650a73548baf63de, 0x766a0abb3c77b2a8, 0x81c2c92e47edaee6, 0x92722c851482353b] ++
  [0xa2bfe8a14cf10364, 0xa81a664bbc423001, 0xc24b8b70d0f89791, 0xc76c51a30654be30, 0xd192e819d6ef5218] ++
  [0xd69906245565a910, 0xf40e35855771202a, 0x106aa07032bbd1b8, 0x19a4c116b8d2d0c8, 0x1e376c085141ab53] ++
  [0x2748774cdf8eeb99, 0x34b0bcb5e19b48a8, 0x391c0cb3c5c95a63, 0x4ed8aa4ae3418acb, 0x5b9cca4f7763e373] ++
  [0x682e6ff3d6b2b8a3, 0x748f82ee5defb2fc, 0x78a5636f43172f60, 0x84c87814a1f0ab72, 0x8cc702081a6439ec] ++
  [0x90befffa23631e28, 0xa4506cebde82bde9, 0xbef9a3f7b2c67915, 0xc67178f2e372532b, 0xca273eceea26619c] ++
  [0xd186b8c721c0c207, 0xeada7dd6cde0eb1e, 0xf57d4f7fee6ed178, 0x06f067aa72176fba, 0x0a637dc5a2c898a6] ++
  [0x113f9804bef90dae, 0x1b710b35131c471b, 0x28db77f523047d84, 0x32caab7b40c72493, 0x3c9ebe0a15c9bebc] ++
  [0x431d67c49c100d4c, 0x4cc5d4becb3e42b6, 0x597f299cfc657e2a, 0x5fcb6fab3ad6faec, 0x6c44198c4a475817]

/-- The initial hash value of SHA-384. -/
def shaStart : List Word64 :=
  ([0xcbbb9d5dc1059ed8, 0x629a292a367cd507, 0x9159015a3070dd17, 0x152fecd8f70e5939] ++
   [0x67332667ffc00b31, 0x8eb44a8768581511, 0xdb0c2e0d64f98fa7, 0x47b5481dbefa4fa4]).map (BitVec.ofNat 64)

/-- A word of a list of words. -/
def w64 (ws : List Word64) (i : Nat) : Word64 := ws.getD i 0

/-- A number from its bytes, high byte first. -/
def ofBytesBig (bs : List Nat) : Nat := bs.foldl (fun x b => x * 256 + b % 256) 0

/-- A message padded to whole blocks of 128 bytes: a one bit, zeros, and its length in bits in 16 bytes. -/
def shaPad (m : List Nat) : List Nat :=
  m ++ 0x80 :: List.replicate ((239 - m.length % 128) % 128) 0 ++ (toBytes 16 (8 * m.length)).reverse

/-- The message schedule: words after the first sixteen, latest last. -/
def shaSchedule : Nat → List Word64 → List Word64
  | 0, w => w
  | n + 1, w =>
    let t := w.length
    let x := w64 w (t - 15)
    let y := w64 w (t - 2)
    let s0 := x.rotateRight 1 ^^^ x.rotateRight 8 ^^^ (x >>> 7)
    let s1 := y.rotateRight 19 ^^^ y.rotateRight 61 ^^^ (y >>> 6)
    shaSchedule n (w ++ [w64 w (t - 16) + s0 + w64 w (t - 7) + s1])

/-- One round on the eight working words, with its constant and its word of the schedule. -/
def shaRound (h : List Word64) (kw : Nat × Word64) : List Word64 :=
  let a := w64 h 0
  let b := w64 h 1
  let c := w64 h 2
  let e := w64 h 4
  let f := w64 h 5
  let g := w64 h 6
  let t1 := w64 h 7 + (e.rotateRight 14 ^^^ e.rotateRight 18 ^^^ e.rotateRight 41) + ((e &&& f) ^^^ (~~~e &&& g)) +
    BitVec.ofNat 64 kw.1 + kw.2
  let t2 := (a.rotateRight 28 ^^^ a.rotateRight 34 ^^^ a.rotateRight 39) + ((a &&& b) ^^^ (a &&& c) ^^^ (b &&& c))
  [t1 + t2, a, b, c, w64 h 3 + t1, e, f, g]

/-- One block of 128 bytes. -/
def shaBlock (h : List Word64) (block : List Nat) : List Word64 :=
  let w := (List.range 16).map fun i => BitVec.ofNat 64 (ofBytesBig ((block.drop (8 * i)).take 8))
  List.zipWith (· + ·) h ((shaK.zip (shaSchedule 64 w)).foldl shaRound h)

/-- The SHA-384 digest of a message, as a number. -/
def sha384 (m : List Nat) : Nat :=
  let b := shaPad m
  let h := (List.range (b.length / 128)).foldl (fun h i => shaBlock h ((b.drop (128 * i)).take 128)) shaStart
  (h.take 6).foldl (fun x w => x * 2 ^ 64 + w.toNat) 0

/-- The field of P-384. -/
def p384 : Nat := 2 ^ 384 - 2 ^ 128 - 2 ^ 96 + 2 ^ 32 - 1
/-- The order of its base point. -/
def n384 : Nat := 0xffffffffffffffffffffffffffffffffffffffffffffffffc7634d81f4372ddf581a0db248b0a77aecec196accc52973
/-- Its coefficient b; the coefficient a is -3. -/
def b384 : Nat := 0xb3312fa7e23ee7e4988e056be3f82d19181d9c6efe8141120314088f5013875ac656398d8a2ed19d2a85c8edd3ec2aef
/-- Its base point. -/
def g384 : Nat × Nat :=
  (0xaa87ca22be8b05378eb1c71ef320ad746e1d3b628ba79b9859f741e082542a385502f25dbf55296c3a545e3872760ab7,
   0x3617de4a96262c6f5d9e98bf9292dc29f8f41dbd289a147ce9da3113b5f0b8c00a60b1ce1d7e819d7a431d7c90ea0e5f)

/-- x^k modulo m, over the low bits of k. -/
def powMod (m : Nat) : Nat → Nat → Nat → Nat
  | 0, _, _ => 1 % m
  | bits + 1, x, k => powMod m bits (x * x % m) (k / 2) * (if k % 2 = 1 then x else 1) % m

/-- The inverse of x modulo a prime below 2^384. -/
def invMod (m x : Nat) : Nat := powMod m 384 x (m - 2)

/-- x - y modulo the field. -/
def subP (x y : Nat) : Nat := (x + p384 - y % p384) % p384

/-- A point is on the curve. -/
def onCurve (q : Nat × Nat) : Bool :=
  decide (q.1 < p384) && decide (q.2 < p384) && q.2 * q.2 % p384 == subP (q.1 * q.1 * q.1 + b384) (3 * q.1)

/-- The line through two points, of a slope, meets the curve again; the sum is that point's mirror image. -/
def chord (x y : Nat × Nat) (slope : Nat) : Nat × Nat :=
  let r := subP (slope * slope) (x.1 + y.1)
  (r, subP (slope * subP x.1 r) x.2)

/-- The sum of two points of the curve; none is the point at infinity. -/
def addPoint (x y : Option (Nat × Nat)) : Option (Nat × Nat) :=
  match x, y with
  | none, y => y
  | x, none => x
  | some x, some y =>
    if x.1 != y.1 then some (chord x y (subP y.2 x.2 * invMod p384 (subP y.1 x.1)))
    else if (x.2 + y.2) % p384 = 0 then none
    else some (chord x x (subP (3 * x.1 * x.1) 3 * invMod p384 (2 * x.2 % p384)))

/-- A multiple of a point, over the low bits of k. -/
def mulPoint : Nat → Nat → Option (Nat × Nat) → Option (Nat × Nat)
  | 0, _, _ => none
  | bits + 1, k, x =>
    let rest := mulPoint bits (k / 2) (addPoint x x)
    if k % 2 = 1 then addPoint x rest else rest

/-- ECDSA over P-384: a signature (r, s) of a digest verifies against a public key. -/
def ecdsaVerifies (key : Nat × Nat) (digest : Nat) (sig : Nat × Nat) : Bool :=
  let r := sig.1
  let s := sig.2
  if r = 0 || s = 0 || n384 ≤ r || n384 ≤ s || !onCurve key then false
  else
    let w := invMod n384 s
    match addPoint (mulPoint 384 (digest * w % n384) (some g384)) (mulPoint 384 (r * w % n384) (some key)) with
    | some x => x.1 % n384 == r
    | none => false

end Sys2Proof.Machine
end

