-- ==== Sys2Proof/Machine/Package.lean ====
section
/-! DEFINITION. The package from power to service (R20 to R28, R397, R403), register writes (R402), and the management and function
mailboxes with their commands (R24, R99 to R104, R291, R323, R410). -/

namespace Sys2Proof.Machine

/-- The package's record changed. -/
def modPkg (s : State) (f : Package → Package) : State := { s with pkg := f s.pkg }

/-- The package goes to SAFE with its failure fields (R22, R23). Whether an image still runs in SAFE that was reached from TRAINING, SELFTEST or
SERVICE the manual does not say: the model keeps it as the running one, so that IMAGE writes the other slot (R24, log entry 124). -/
def goSafe (s : State) (stage die unit : Nat) : State :=
  modPkg s fun p => { p with state := .safe, failStage := stage, failDie := die, failUnit := unit }

/-- SUPPLY_GOOD (R22). -/
def execSupplyGood (s : State) : Out := .next (if s.pkg.state = .off then modPkg s fun p => { p with state := .rom } else s)

/-- The 32-bit version in the header of a slot's image (R21). -/
def imageVersion (b : List Nat) : Nat := ofBytes ((b.drop Config.versionAt).take 4)
/-- The 32-bit length in the header of a slot's image (R21). -/
def imageLength (b : List Nat) : Nat := ofBytes ((b.drop Config.lengthAt).take 4)
/-- The module operating-system image of a slot, after its header (R21). -/
def imageBody (b : List Nat) : List Nat := (b.drop Config.headerBytes).take (imageLength b)

/-- The signature of a slot's image verifies (R21): ECDSA P-384 over the SHA-384 digest of the header and the image. -/
def signatureVerifies (b : List Nat) : Bool :=
  ecdsaVerifies (Config.imageKey b) (sha384 (b.take Config.headerBytes ++ imageBody b)) (Config.imageSignature b)

/-- An image that the boot ROM accepts (R21). What the header's length counts the manual does not say: the model takes it as the bytes of the image
alone, and compares those with the slot (log entry 125). -/
def imageAccepted (p : Package) (b : List Nat) : Bool :=
  signatureVerifies b && Config.keyHash (Config.imageKey b) == p.keyHash && decide (p.minVersion ≤ imageVersion b) &&
    decide (imageLength b ≤ Config.slotBytes)

/-- Slots in the order the ROM tries them: the higher version first, slot A first between equals (R21). -/
def slotOrder (p : Package) : List (Nat × List Nat) :=
  match p.slotA, p.slotB with
  | some a, some b => if imageVersion a < imageVersion b then [(1, b), (0, a)] else [(0, a), (1, b)]
  | some a, none => [(0, a)]
  | none, some b => [(1, b)]
  | none, none => []

/-- An image copied into module memory, from its first byte upward (R22, log entry 3): units that it covers whole are clean again
(R28). -/
def loadImage (s : State) (slot : Nat) (b : List Nat) : State :=
  let body := imageBody b
  { modPkg s (fun p => { p with state := .loading, running := some slot, moduleMem := writeMem p.moduleMem 0 body }) with
    poison := s.poison.filter fun e => match e with
      | .moduleMem u => !decide (8 * u + 8 ≤ body.length)
      | _ => true }

/-- BOOT_ROM_PASS (R21, R22). -/
def execBootRomPass (s : State) : Out :=
  .next (if s.pkg.state != .rom then s
    else match (slotOrder s.pkg).find? fun x => imageAccepted s.pkg x.2 with
      | some x => loadImage s x.1 x.2
      | none => goSafe s 1 15 0)

/-- IMAGE_INITIALISED (R22). -/
def execImageInitialised (s : State) : Out :=
  .next (if s.pkg.state = .loading then modPkg s fun p => { p with state := .training } else s)

/-- TRAINING_COMPLETE (R22): the ports that trained are up. -/
def execTrainingComplete (s : State) : Out :=
  match s.subject with
  | .training stack link ports =>
    .next (if s.pkg.state != .training then s
      else match stack, link with
        | some x, _ => goSafe s 2 x.1 x.2
        | none, some x => goSafe s 3 x.1 x.2
        | none, none => modPkg s fun p => { p with state := .selftest, portsUp := ports % 4096 })
  | _ => .next s

/-- The image bytes of the running slot. -/
def runningImage (p : Package) : Option (List Nat) :=
  match p.running with
  | some 0 => p.slotA
  | some _ => p.slotB
  | none => none

/-- The stores cleared on entry to SERVICE (R22, R234): device memory, weight stores and caches; host memory is not the package's. -/
def clearStores (s : State) : State :=
  { s with mem := s.mem.filter fun e => isHost e.1, l1 := [], lines := [], snoop := [], cache := [], ro := [], nodes := [], tlb := [],
           icache := [], regions := [], oldScratch := [],
           poison := s.poison.filter fun e => match e with
             | .mem u => isHost (8 * u)
             | .hostRead _ => true
             | .moduleMem _ => true
             | .controller => true
             | _ => false }

/-- SELFTEST_COMPLETE (R21, R22). -/
def execSelftestComplete (s : State) : Out :=
  match s.subject with
  | .selftest failing =>
    .next (if s.pkg.state != .selftest then s
      else match failing with
        | some x => goSafe s 4 x.1 x.2
        | none => modPkg (clearStores s) fun p =>
            { p with state := .service,
                     minVersion := Nat.max p.minVersion (((runningImage p).map imageVersion).getD 0) })
  | _ => .next s

/-- Contexts with a record. -/
def liveContexts (s : State) : List Nat := aKeys s.ctxs

/-- An uncorrectable error in package-level state (R22, R28, R397): every context faults, the package goes to SAFE, and an MSI-X of the
physical function is raised. DESIGN CHOICE (log entry 94): R22 gives its vector no number, and the model raises the error vector. -/
def packageFails (s : State) (die unit : Nat) : State :=
  if s.pkg.state != .service then s
  else
    raiseError (modPkg (goSafe ((liveContexts s).foldl machineCheckContext s) 5 die unit) fun p => { p with failing := none })

/-- Module memory or the controller's state holds a poisoned unit (R27). -/
def controllerPoisoned (s : State) : Bool :=
  s.poison.any fun e => match e with
    | .moduleMem _ => true
    | .controller => true
    | _ => false

/-- PACKAGE_MACHINE_CHECK (R28): package-level state consumes a poisoned unit: a directory or a snoop filter has done so, or the module
operating system meets one now, which belongs to no die (R23). -/
def execPackageMachineCheck (s : State) : Out :=
  match s.subject with
  | .unit _ unit => match s.pkg.failing with
    | some x => .next (packageFails s x.1 x.2)
    | none => .next (if controllerPoisoned s then packageFails s 15 unit else s)
  | _ => .next s

/-- The die that a die's link reaches (R23): the next, second and third die in ascending order (log entry 129). -/
def linkedDie (die unit : Nat) : Nat := (die + (unit - 481)) % 4

/-- A request at a line's home slice that was crossing the link between two dies (R397). -/
def crossesLink (a b ln : Nat) (r : HomeReq) : Bool :=
  (homeDie (ln * 128) == a && r.die == b) || (homeDie (ln * 128) == b && r.die == a)

/-- DIE_LINK_FAILURE (R397): the package goes to SAFE, and requests that were crossing the link are not completed. -/
def execDieLinkFailure (s : State) : Out :=
  match s.subject with
  | .unit die unit =>
    if 4 ≤ die || unit < 482 || 484 < unit || s.pkg.state != .service then .next s
    else
      let s := packageFails s die unit
      .next { s with lines := s.lines.map fun e =>
        (e.1, { e.2 with queue := e.2.queue.filter fun r => !crossesLink die (linkedDie die unit) e.1 r }) }
  | _ => .next s

/-- The package restarts from ROM (R22): every context is destroyed and the failure fields are cleared. -/
def restartRom (s : State) : State :=
  if s.pkg.state = .service || s.pkg.state = .safe then
    let s := (liveContexts s).foldl destroyContext s
    modPkg { s with parts := [], poison := s.poison.filter fun e => e != .controller } fun p =>
      { p with state := .rom, failStage := 0, failDie := 0, failUnit := 0, running := none, failing := none }
  else s

/-- PF_FUNCTION_LEVEL_RESET (R22): the management mailbox goes back to its reset values. -/
def execPfFunctionLevelReset (s : State) : Out :=
  .next (if s.pkg.state = .service || s.pkg.state = .safe then
    restartRom { s with mbx := s.mbx.filter fun e => 64 ≤ e.1 } else s)

/-- SUPPLY_LOST (R22): all is lost but the flash, the root of trust, the host's memory and the host's configuration of links. -/
def execSupplyLost (s : State) : Out :=
  .next { State.reset with
    pkg := { Package.reset with slotA := s.pkg.slotA, slotB := s.pkg.slotB, minVersion := s.pkg.minVersion, keyHash := s.pkg.keyHash,
                                routes := s.pkg.routes, windows := s.pkg.windows }
    mem := s.mem.filter (fun e => isHost e.1), clock := s.clock, turnSched := s.turnSched, fresh := s.fresh, free := s.free, agenda := s.agenda,
    subject := s.subject }

/-- DROOPCNT of every RUNNING context on a partition that holds a cluster, changed (R26). -/
def countDroop (s : State) (cluster : Nat) (f : Nat → Nat) : State :=
  (liveContexts s).foldl (fun s c =>
    let m := ((aGet (ctxAt s c).part s.parts).map (·.clusters)).getD 0
    if isRunning s c && hasBit m cluster then setCtxReg s c rDroopCnt (f (ctxReg s c rDroopCnt)) else s) s

/-- EVENTS one more, saturating (R26). -/
def droopEvent (x : Nat) : Nat := bits x 47 32 * 2 ^ 32 + Nat.min (bits x 31 0 + 1) 0xFFFFFFFF

/-- MAXRUN at least a run's length, saturating (R26). -/
def droopRun (n x : Nat) : Nat := Nat.max (bits x 47 32) (Nat.min n 0xFFFF) * 2 ^ 32 + bits x 31 0

/-- DROOP_TRIP (R25, R26): a stretch begins, or the one that lasts is extended: it then goes on for at least 32 more cycles (log
entry 98). -/
def execDroopTrip (s : State) : Out :=
  match s.subject with
  | .one k =>
    let run := ((aGet k s.droops).map (·.run)).getD 0
    .next (countDroop { s with droops := aSet k ⟨true, run, 0⟩ s.droops } k droopEvent)
  | _ => .next s

/-- DROOP_RECOVERY (R25, R26): the supply has recovered; the stretch ends once 32 stretched cycles have elapsed. Its length goes to MAXRUN
of the contexts that are RUNNING when it ends (log entry 98). -/
def execDroopRecovery (s : State) : Out :=
  match s.subject with
  | .one k => match aGet k s.droops with
    | none => .next s
    | some d =>
      if 32 ≤ d.last then .next (countDroop { s with droops := aErase k s.droops } k (droopRun d.run))
      else .next { s with droops := aSet k { d with low := false } s.droops }
  | _ => .next s

/-- Die and storage kind of a place, for the error counts (R27, R28): 0 register files, 1 scratchpad, 2 accumulator store, 3 HBM, 4 weight
store, 5 instruction storage, 6 module memory and controller, 7 L1, 8 read-only cache, 9 shared cache, 10 lantern buffers, 11 lift buffers,
12 directory, 13 snoop filter. -/
def errorKind (s : State) (e : ErrorPlace) : Nat :=
  let wgDie (w : Nat) : Nat := ((aGet w s.wgs).bind (·.core)).elim 0 dieOf
  let gangDie (g : Nat) : Nat := wgDie (((aGet g s.gangs).map (·.wg)).getD 0)
  match e with
  | .register g _ _ => gangDie g * 16
  | .uniform g _ _ => gangDie g * 16
  | .predicate g _ => gangDie g * 16
  | .scratch w _ => wgDie w * 16 + 1
  | .element k _ => wgDie (k / (96 * 1024)) * 16 + 2
  | .mem u => if isDevice (8 * u) then homeDie (8 * u) * 16 + 3 else bits (8 * u) 31 30 * 16 + 4
  | .fetch core _ => dieOf core * 16 + 5
  | .moduleMem _ => 6
  | .controller => 6
  | .l1 core _ => dieOf core * 16 + 7
  | .ro core _ => dieOf core * 16 + 8
  | .shared die _ => die * 16 + 9
  | .lantern t q => ((aGet t s.targets).bind fun x => (x.entries.find? fun e => e.seq == q).map fun e =>
      lanternOf s x e.x e.y / 256).getD 0 * 16 + 10
  | .lift w => wgDie w * 16 + 11
  | .directory ln => homeDie (ln * 128) * 16 + 12
  | .snoop sl => sl / 64 * 16 + 13
  | .hostRead _ => 0

/-- The package's own storage: not memory of the host or of a peer, which counts its own errors. -/
def inPackage (e : ErrorPlace) : Bool :=
  match e with
  | .mem u => !(isHost (8 * u) || isPeer (8 * u))
  | .hostRead _ => false
  | _ => true

/-- Where an uncorrectable error leaves poison (R28). In a shared cache the copy at a line's home slice, or at the slice that owns the line,
is the one that every later reader meets, and goes back to memory with it; a replica's poison stays with the replica. Storage that holds
nothing there, and instruction storage, keeps none; module memory has 32 GiB (R20). -/
def poisonPlace (s : State) (e : ErrorPlace) : Option ErrorPlace :=
  match e with
  | .fetch _ _ => none
  | .hostRead _ => none
  | .moduleMem u => if 8 * u < Config.moduleBytes then some e else none
  | .l1 core u => if (List.range 8).any fun i => (l1ByteAt s core (8 * u + i)).isSome then some e else none
  | .ro core u => if (roFind s core (u / 16)).isSome then some e else none
  | .shared die u =>
    let ln := u / 16
    if !(s.cache.any fun x => x.die == die && x.line == ln) then none
    else if hasP s die ln then some e
    else match (lineAt s ln).dir with
      | .rsh sh => some (if hasBit sh die then e else .mem u)
      | _ => some (.mem u)
  | _ => some e

/-- A line of instruction storage is refetched (R27): the words captured from its 128 bytes are gone. -/
def dropFetched (s : State) (e : ErrorPlace) : State :=
  match e with
  | .fetch _ k => { s with icache := s.icache.filter fun x => x.1 / 32 != k / 32 }
  | _ => s

/-- SOFT_ERROR (R27, R28): counted, but for data that the host or a peer returns poisoned (R406); an uncorrectable one poisons its unit; an
error of instruction storage makes the line be refetched. -/
def execSoftError (s : State) : Out :=
  match s.subject with
  | .error place bad =>
    let k := errorKind s place
    let s1 := if !inPackage place then s
      else modPkg (dropFetched s place) fun p => { p with errorCounts := aSet k ((aGet k p.errorCounts).getD 0 + 1) p.errorCounts }
    .next (match poisonPlace s place with
      | some e => if bad && !s1.poison.contains e then { s1 with poison := s1.poison ++ [e] } else s1
      | none => s1)
  | _ => .next s

/-- The scrubber of a bank takes its next 64 KiB when the bank's refresh window opens (R27, R240). What it reads is already corrected, since
a correctable error is corrected as it strikes, and a poisoned unit it cannot correct: it writes back the bytes that it reads. -/
def scrubBank (s : State) (die : Nat) : State :=
  let phase := bGet s.wsphase die
  if phase % 1024 = 0 then { s with scrub := bSet s.scrub (die * 64 + phase / 1024) (bGet s.scrub (die * 64 + phase / 1024) + 1) } else s

/-- WSPHASE_ADVANCE (R240): the counter advances, the window that opens is scrubbed in, and reads that a refresh window held try
again. -/
def execWsphaseAdvance (s : State) : Out :=
  match s.subject with
  | .one die =>
    let s := scrubBank { s with wsphase := bSet s.wsphase die (bGet s.wsphase die + 1) } die
    .next { s with cmds := s.cmds.map fun e => if (e.2.page.map (·.1)) = some (holdKey die) then (e.1, { e.2 with page := none }) else e }
  | _ => .next s

/-- A mailbox register (R101). -/
def mbReg (s : State) (fn r : Nat) : Nat := bGet s.mbx (fn * 64 + r)
/-- A mailbox register written. -/
def setMb (s : State) (fn r x : Nat) : State := { s with mbx := bSet s.mbx (fn * 64 + r) x }
/-- The command that a mailbox runs, as MBCMD was written, reserved bits among it (R101). -/
def mbCommand (s : State) (fn : Nat) : Nat := bGet s.mbxRun (fn * 64)
/-- A parameter of the command that runs: as it stood when the command was given (R101). -/
def mbArg (s : State) (fn i : Nat) : Nat := bGet s.mbxRun (fn * 64 + 2 + i)

/-- A command completes (R101): results, or zeros; STATUS with BUSY clear; vector 0. -/
def finishMail (s : State) (fn status : Nat) (results : List (Nat × Nat)) : State :=
  let s := { s with mbx := bSetAll s.mbx ((List.range 32).map fun i => (fn * 64 + 32 + i, 0)) }
  let s := if status = 0 then { s with mbx := bSetAll s.mbx (results.map fun r => (fn * 64 + 32 + r.1, r.2)) } else s
  raiseVector (setMb s fn 1 (status * 2 ^ 8)) fn 0 none

/-- PKGSTAT (R23). While the supply is off nothing reads it. -/
def pkgStat (s : State) : Nat :=
  let code : Nat := match s.pkg.state with
    | .off => 0
    | .rom => 1
    | .loading => 2
    | .training => 3
    | .selftest => 4
    | .service => 5
    | .safe => 6
  s.pkg.failStage % 256 * 2 ^ 24 + s.pkg.failDie % 16 * 2 ^ 20 + s.pkg.failUnit % 4096 * 2 ^ 8 + code

/-- TotalVFs of the physical function (R23, R402). -/
def totalVFs (s : State) : Nat := if s.pkg.state = .service then Config.virtualFunctions else 0

/-- Status codes (R102). -/
def stBadCmd : Nat := 1
def stBadState : Nat := 2
def stBusy : Nat := 3
def stBadReg : Nat := 4
def stBadParam : Nat := 5
def stNoSpace : Nat := 6

/-- Codes a mailbox takes in the package's state (R24, R99, R103). -/
def mailCodeOk (s : State) (fn code : Nat) : Bool :=
  let st := s.pkg.state
  if fn = 0 then
    ((st = .safe || st = .service) && [1, 2, 3].contains code) || (st = .service && [8, 9].contains code)
  else [0x10, 0x11, 0x12, 0x13, 0x14, 0x15, 0x20, 0x21, 0x22, 0x23].contains code

/-- The function that is virtual function i of the manual (R402). -/
def vfFunction (i : Nat) : Nat := Config.firstVfOffset + Config.vfStride * i

/-- A function that the host can reach: the physical one while there is supply, and in SERVICE the virtual ones (R23, R402). -/
def reachable (s : State) (fn : Nat) : Bool :=
  if fn = 0 then s.pkg.state != .off else (List.range (totalVFs s)).any fun i => vfFunction i == fn

/-- A command is given to a mailbox: what it will read is taken (R101). -/
def latchMail (s : State) (fn v : Nat) : State :=
  { s with mbxRun := bSetAll s.mbxRun ((fn * 64, v) :: (List.range 30).map fun i => (fn * 64 + 2 + i, mbReg s fn (2 + i))) }

/-- A write into a mailbox (R101): MBCMD, whose bits [63:12] read zero (R7), starts a command unless one runs; an unlisted code is answered
with BADCMD at once. -/
def writeMail (s : State) (fn r v : Nat) : State :=
  if r = 0 then
    if hasBit (mbReg s fn 1) 0 then s
    else
      let s := setMb (setMb (latchMail s fn v) fn 0 (v % 2 ^ 12)) fn 1 (mbReg s fn 1 ||| 1)
      if mailCodeOk s fn (bits v 7 0) then s else finishMail s fn stBadCmd []
  else if 2 ≤ r && r < 32 then setMb s fn r v
  else s

/-- Offset of a function's mailbox in its BAR0 (R402). -/
def mailBase (fn : Nat) : Nat := if fn = 0 then 0x1000 else 0x8000

/-- Offset of a function's MSI-X window in its BAR0 (R402). -/
def tableBase (fn : Nat) : Nat := if fn = 0 then 0x8000 else 0xC000

/-- Place of eight bytes in a function's MSI-X window, if an offset lies there. -/
def tablePlace (fn off : Nat) : Option Nat :=
  if tableBase fn ≤ off && off < tableBase fn + 0x1000 && off % 8 = 0 then some ((off - tableBase fn) / 8) else none

/-- Vectors of a function that satisfy a test, as a mask (R403). -/
def vectorMask (s : State) (fn : Nat) (ok : Vector → Bool) : Nat :=
  maskOf ((s.vectors.filter fun e => e.1 / 256 == fn && ok e.2).map fun e => e.1 % 256)

/-- What a word of a function's MSI-X window reads (R402): it depends on the word as the host wrote it and on the masked and pending vectors;
its layout the manual does not give (log entry 112). -/
def tableRead (s : State) (fn place : Nat) : Nat :=
  Config.msixWord fn place (bGet s.msix (fn * 512 + place)) (vectorMask s fn (·.masked)) (vectorMask s fn (·.pending))

/-- A vector is masked, or unmasked, when a message goes out for what came while it was masked (R403). -/
def maskVector (s : State) (fn vec : Nat) (on : Bool) : State :=
  let k := fn * 256 + vec
  let v := (aGet k s.vectors).getD ⟨false, false, 0, none⟩
  if on then { s with vectors := aSet k { v with masked := true } s.vectors }
  else if v.masked then
    { s with vectors := aSet k ⟨false, false, if v.pending then v.sent + 1 else v.sent, v.pasid⟩ s.vectors }
  else s

/-- Vectors of a function (R402). -/
def vectorsOf (fn : Nat) : Nat := if fn = 0 then 16 else 256

/-- A host's write of eight bytes of an MSI-X window (R402): kept, with the vector that it masks or unmasks (log entry 112). -/
def tableWrite (s : State) (fn place v : Nat) : State :=
  let s := { s with msix := bSet s.msix (fn * 512 + place) v }
  match Config.msixMask fn place v with
  | some (vec, on) => maskVector s fn (vec % vectorsOf fn) on
  | none => s

/-- A host's read of eight bytes of a function's BAR0 (R23, R402): PKGSTAT, the mailbox, the MSI-X window, the queue window; unlisted offsets
read zero. -/
def bar0Read (s : State) (fn off : Nat) : Nat :=
  let b := mailBase fn
  if !reachable s fn then 0
  else if fn = 0 && off = 0 then pkgStat s
  else if b ≤ off && off < b + 0x1000 then (if off % 8 = 0 && (off - b) / 8 < 64 then mbReg s fn ((off - b) / 8) else 0)
  else match tablePlace fn off, queueRegAt fn off with
    | some i, _ => tableRead s fn i
    | none, some (k, r) => queueRegRead s k r
    | none, none => 0

/-- REGISTER_WRITE (R101, R121, R122, R402). -/
def execRegisterWrite (s : State) : Out :=
  match s.subject with
  | .write fn off v =>
    let v := v % 2 ^ 64
    if !reachable s fn then .next s
    else match queueRegAt fn off, tablePlace fn off with
      | some (k, r), _ => .next (writeQueueReg s k r v)
      | none, some i => .next (tableWrite s fn i v)
      | none, none =>
        let b := mailBase fn
        if b ≤ off && off < b + 0x1000 && off % 8 = 0 then .next (writeMail s fn ((off - b) / 8) v) else .next s
  | _ => .next s

/-- A command of a mailbox that runs (R101): its code, the reserved bits of MBCMD, then the command itself, which answers a status and
results. -/
def mailCommand (s : State) (code : Nat) (run : State → Nat → Nat → State × Nat × List (Nat × Nat)) : Out :=
  match s.subject with
  | .one fn =>
    let cmd := mbCommand s fn
    if !hasBit (mbReg s fn 1) 0 || bits cmd 7 0 != code || (decide (fn = 0) != decide (code < 0x10)) then .next s
    else if !mailCodeOk s fn code then .next (finishMail s fn stBadCmd [])
    else if bits cmd 63 12 != 0 then .next (finishMail s fn stBadParam [])
    else
      let r := run s fn ((fn - 1) * 16 + bits cmd 11 8)
      .next (finishMail (if r.2.1 = 0 then r.1 else s) fn r.2.1 r.2.2)
  | _ => .next s

/-- LOG (R24). -/
def execLog (s : State) : Out :=
  mailCommand s 1 fun s fn _ =>
    let off := mbArg s fn 0
    if off % 256 != 0 || 4096 ≤ off then (s, stBadParam, [])
    else
      let counts := s.pkg.failedAccesses :: s.pkg.lostRecords :: s.pkg.errorCounts.flatMap fun e => [e.1, e.2]
      (s, 0, (List.range 32).map fun i => (i, Config.logWord (off + 8 * i) counts))

/-- RETRY (R24). -/
def execRetry (s : State) : Out := mailCommand s 2 fun s _ _ => (restartRom s, 0, [])

/-- n bytes at a host bus address; the model's host memory has 2^53 bytes, and beyond them it holds nothing (log entry 5). -/
def hostBytes (s : State) (a n : Nat) : List Nat :=
  (List.range n).map fun i => if a + i < wsBase - hostBase then bGet s.mem (hostBase + a + i) else 0

/-- IMAGE (R24): bytes of the host's memory into the slot that is not running. -/
def execImage (s : State) : Out :=
  mailCommand s 3 fun s fn _ =>
    let n := mbArg s fn 1
    if Config.slotBytes < n then (s, stBadParam, [])
    else
      let b := hostBytes s (mbArg s fn 0) n
      (modPkg s fun p => if p.running = some 0 then { p with slotB := some b } else { p with slotA := some b }, 0, [])

/-- PARTCFG (R24, R98). An empty mask makes a partition of no clusters, deleting a partition that does not exist succeeds, and contexts
that are READY or SAVED on a partition that is deleted wait until it exists again (log entry 97). -/
def execPartcfg (s : State) : Out :=
  mailCommand s 8 fun s fn _ =>
    let a := mbArg s fn 0
    let id := bits a 7 0
    let m := mbArg s fn 1 + mbArg s fn 2 * 2 ^ 64
    if bits a 63 10 != 0 || (!hasBit a 9 && s.parts.any fun e => e.1 != id && e.2.clusters &&& m != 0) then (s, stBadParam, [])
    else if s.ctxs.any fun e => e.2.part == id && isWorking s e.1 then (s, stBusy, [])
    else if hasBit a 9 then ({ s with parts := aErase id s.parts }, 0, [])
    else
      let old := (aGet id s.parts).getD ⟨false, 0, 4096, 1024⟩
      ({ s with parts := aSet id { old with dense := hasBit a 8, clusters := m } s.parts }, 0, [])

/-- REPLCFG (R24, R234). -/
def execReplcfg (s : State) : Out :=
  mailCommand s 9 fun s fn _ =>
    let a := mbArg s fn 0
    let r := mbArg s fn 1
    let l := mbArg s fn 2
    match aGet (bits a 7 0) s.parts with
    | some p =>
      if bits a 63 8 != 0 || !within 1 r 65536 || !within 1 l 65536 then (s, stBadParam, [])
      else ({ s with parts := aSet (bits a 7 0) { p with traise := r, tlower := l } s.parts }, 0, [])
    | none => (s, stBadParam, [])

/-- A range of a die's weight store free of other contexts' windows. -/
def windowFree (s : State) (die base size : Nat) : Bool :=
  !(s.ctxs.any fun e => let w := e.2.windows.getD die (0, 0); overlap w.1 w.2 base size)

/-- A weight-store window on a die: the lowest place in MiB steps; none when there is none (R323). -/
def placeWindow (s : State) (die mib : Nat) : Option (Nat × Nat) :=
  if mib = 0 then some (0, 0)
  else ((List.range (1025 - mib)).find? fun k => windowFree s die (k * 2 ^ 20) (mib * 2 ^ 20)).map fun k => (k * 2 ^ 20, mib * 2 ^ 20)

/-- Windows on the four dies, all or none (R323). -/
def placeWindows (s : State) (sizes : Nat) : Option (List (Nat × Nat)) :=
  (List.range 4).foldl (fun (acc : Option (List (Nat × Nat))) d => match acc, placeWindow s d (bits sizes (16 * d + 15) (16 * d)) with
    | some ws, some w => some (ws ++ [w])
    | _, _ => none) (some [])

/-- Parameters of CREATE in range (R103). -/
def createParams (a0 a1 a2 a3 : Nat) : Bool :=
  a0 % 8192 == 0 && installed a0 && bits a1 63 24 == 0 && bits a2 31 20 == 0 && bits a2 63 33 == 0 &&
  (List.range 4).all fun d => decide (bits a3 (16 * d + 15) (16 * d) ≤ 1024)

/-- CREATE (R100, R103, R323). It wants a save area too (R103), of which the manual gives neither a size nor a limit: the model always has one to
give (log entry 127). -/
def execCreate (s : State) : Out :=
  mailCommand s 0x10 fun s fn c =>
    let a1 := mbArg s fn 1
    let a2 := mbArg s fn 2
    if !createParams (mbArg s fn 0) a1 a2 (mbArg s fn 3) then (s, stBadParam, [])
    else if (ctxAt s c).state != .free then (s, stBadState, [])
    else match aGet (bits a1 7 0) s.parts, placeWindows s (mbArg s fn 3) with
      | some _, some ws =>
        let x : Context :=
          { state := .ready, root := mbArg s fn 0, part := bits a1 7 0, occLimit := bits a1 23 8, pasid := bits a2 19 0,
            pasidEn := hasBit a2 32, windows := ws, policy := 0, record := none }
        let s := clearQueues (resetCtxRegs s c) c
        ({ s with ctxs := aSet c x s.ctxs }, 0, [])
      | _, _ => (s, stNoSpace, [])

/-- PREEMPT (R99). -/
def execPreempt (s : State) : Out :=
  mailCommand s 0x11 fun s _ c => if isRunning s c then (startPreempt s c, 0, []) else (s, stBadState, [])

/-- RESET (R99, R100). -/
def execReset (s : State) : Out :=
  mailCommand s 0x12 fun s _ c =>
    let st := (ctxAt s c).state
    if st = .faulted || st = .saved then (resetContext s c, 0, []) else (s, stBadState, [])

/-- DESTROY (R99, R100). -/
def execDestroy (s : State) : Out :=
  mailCommand s 0x13 fun s _ c =>
    let st := (ctxAt s c).state
    if st = .free || st = .destroyed then (s, stBadState, []) else (destroyContext s c, 0, [])

/-- State codes of QUERY (R103). -/
def stateCode : CtxState → Nat
  | .free => 0
  | .ready => 1
  | .running => 2
  | .preempting => 3
  | .saved => 4
  | .faulted => 5
  | .destroyed => 6

/-- QUERY (R103). -/
def execQuery (s : State) : Out :=
  mailCommand s 0x14 fun s _ c =>
    let x := ctxAt s c
    let ws := (List.range 4).map fun d => (d + 1, (windowOf s c d).1 + (windowOf s c d).2 * 2 ^ 32)
    let rec_ := match x.record with
      | some r => if x.state = .faulted then (faultRecordWords c r).zipIdx.map fun w => (8 + w.2, w.1) else []
      | none => []
    (s, 0, (0, stateCode x.state) :: ws ++ rec_)

/-- Context-scope registers that supervisor level may write (R106, R410). -/
def wrregOk (n : Nat) : Bool := [0x100, 0x101, 0x102, 0x104, 0x112, 0x120].contains n

/-- WRREG (R410). -/
def execWrreg (s : State) : Out :=
  mailCommand s 0x15 fun s fn c =>
    let n := mbArg s fn 0
    let st := (ctxAt s c).state
    if bits n 63 12 != 0 then (s, stBadParam, [])
    else if !wrregOk n then (s, stBadReg, [])
    else if st = .ready || st = .saved || st = .faulted then (writeCtxCsr s c n (mbArg s fn 1), 0, [])
    else (s, stBadState, [])

/-- Place of a key slot (R291). -/
def keySlot (fn k : Nat) : Nat := (fn - 1) * 16 + k

/-- KEYLOAD (R103, R291). -/
def execKeyload (s : State) : Out :=
  mailCommand s 0x20 fun s fn _ =>
    let a := mbArg s fn 0
    if bits a 63 4 != 0 then (s, stBadParam, [])
    else
      let key := sumNat ((List.range 4).map fun i => mbArg s fn (1 + i) * 2 ^ (64 * i))
      ({ s with keys := aSet (keySlot fn (bits a 3 0)) (BitVec.ofNat 256 key) s.keys }, 0, [])

/-- KEYCLR (R103). -/
def execKeyclr (s : State) : Out :=
  mailCommand s 0x21 fun s fn _ =>
    let a := mbArg s fn 0
    if bits a 7 4 != 0 || bits a 63 9 != 0 then (s, stBadParam, [])
    else if hasBit a 8 then ({ s with keys := s.keys.filter fun e => e.1 / 16 != fn - 1 }, 0, [])
    else ({ s with keys := aErase (keySlot fn (bits a 3 0)) s.keys }, 0, [])

/-- A context that POLICY and SERVE may name (R103). -/
def isCreated (s : State) (c : Nat) : Bool := (ctxAt s c).state != .free && (ctxAt s c).state != .destroyed

/-- POLICY (R103, R104). -/
def execPolicy (s : State) : Out :=
  mailCommand s 0x22 fun s fn c =>
    let a := mbArg s fn 0
    if bits a 63 2 != 0 || a = 3 then (s, stBadParam, [])
    else if !isCreated s c then (s, stBadState, [])
    else (modCtx s c fun x => { x with policy := a }, 0, [])

/-- A request of a context that awaits the host driver's answer (R104). -/
def awaitsServe (c page : Nat) (r : ServiceReq) : Bool := r.ctx == c && r.page == page && !r.host && r.taken && r.answer.isNone

/-- SERVE (R102, R103, R104). -/
def execServe (s : State) : Out :=
  mailCommand s 0x23 fun s fn c =>
    let page := mbArg s fn 0
    let ok := mbArg s fn 1
    if page % 65536 != 0 || 1 < ok then (s, stBadParam, [])
    else if !isCreated s c then (s, stBadState, [])
    else if !(s.services.any (awaitsServe c page)) then (s, stBadParam, [])
    else ({ s with services := s.services.map fun r => if awaitsServe c page r then { r with answer := some (ok == 1) } else r }, 0, [])

/-- VF_FUNCTION_LEVEL_RESET (R403). -/
def execVfFunctionLevelReset (s : State) : Out :=
  match s.subject with
  | .one vf =>
    let cs := (List.range 16).map fun i => vf * 16 + i
    let s1 := cs.foldl (fun s c => clearQueues (destroyContext s c) c) s
    .next { s1 with keys := s1.keys.filter (fun e => e.1 / 16 != vf), services := s1.services.filter (fun r => r.ctx / 16 != vf) }
  | _ => .next s

/-- MSIX_UNMASK (R403): a message for what came while the vector was masked. -/
def execMsixUnmask (s : State) : Out :=
  match s.subject with
  | .two fn vec => .next (maskVector s fn vec false)
  | _ => .next s

end Sys2Proof.Machine
end

