-- ==== Sys2Proof/Machine/Sample.lean ====
section
/-! DEFINITION. SMP and SMPL (R363, R364): the texels of a target's colour plane read through the read-only path. -/

namespace Sys2Proof.Machine

/-- Size of a level (R348). -/
def levelWidth (d : TargetDesc) (l : Nat) : Nat := Nat.max 1 (d.width / 2 ^ l)
def levelHeight (d : TargetDesc) (l : Nat) : Nat := Nat.max 1 (d.height / 2 ^ l)

/-- Offset of a level in a colour plane (R348). -/
def levelOffset (d : TargetDesc) (pl : Nat) : Nat → Nat
  | 0 => 0
  | l + 1 =>
    let n := if l = 0 then planeBytes d pl else planeSize d pl * (levelWidth d l * levelHeight d l)
    ceilDiv (levelOffset d pl l + n) 128 * 128

/-- Address of a texel: sample 0 of a pixel of a level (R348, R363). -/
def texelAddr (d : TargetDesc) (pl l x y : Nat) : Nat :=
  let per := if l = 0 then d.samples else 1
  (planeBase d pl + levelOffset d pl l + planeSize d pl * ((y * levelWidth d l + x) * per)) % 2 ^ 64

/-- The level a lane asks for (R363). -/
def levelOf (d : TargetDesc) (x : Nat) : Nat := (max 0 (min (sext x 32) ((d.levels : Int) - 1))).toNat

/-- What SMP and SMPL find wrong with the bytes of a descriptor (R363): a fault's code and address. -/
def sampleFault (b : List Nat) (d : TargetDesc) (pl a : Nat) : Option (Nat × Nat) :=
  let st := nth b 0
  if (st != tgtOpened && st != tgtSealing && st != tgtSealed) || (isStrict d && st != tgtSealed) then some (cTgtState, 0)
  else if d.ncolor ≤ pl then some (cDescriptor, a)
  else if !within 1 (nth d.cfmt pl) 4 || !within 1 d.width 16384 || !within 1 d.height 16384 || !within 1 d.levels 15 then
    some (cDescriptor, a)
  else none

/-- The floor of an exact value. -/
def floorOf (x : Dyadic) : Int := if 0 ≤ x.e then x.m * (2 ^ x.e.toNat : Nat) else x.m / (2 ^ (-x.e).toNat : Nat)

/-- A coordinate split into its texel index and its fraction in 256ths, ties to even (R363). -/
def texelCoord (u n : Nat) : Int × Nat :=
  let x := ((dyadicOf f32 u).mul (Dyadic.ofInt n)).sub ⟨1, -1⟩
  let i := floorOf x
  let fr := x.sub (Dyadic.ofInt i)
  (i, (roundToInt 0 false fr.m.toNat (fr.e + 8)).1.toNat)

/-- A texel index brought into a level (R363). -/
def texelIndex (wrap n : Nat) (i : Int) : Nat :=
  if wrap = 1 then (i % (n : Int)).toNat else (max 0 (min i ((n : Int) - 1))).toNat

/-- The texels a lane reads, with their weights in 65536ths; a texel of weight zero is not read (R363). -/
def smpTexels (d : TargetDesc) (pl wrap u v lv : Nat) : List (Nat × Nat) :=
  if !isFinite f32 u || !isFinite f32 v then []
  else
    let l := levelOf d lv
    let x := texelCoord u (levelWidth d l)
    let y := texelCoord v (levelHeight d l)
    let at_ (dx dy : Int) : Nat :=
      texelAddr d pl l (texelIndex wrap (levelWidth d l) (x.1 + dx)) (texelIndex wrap (levelHeight d l) (y.1 + dy))
    [(at_ 0 0, (256 - x.2) * (256 - y.2)), (at_ 1 0, x.2 * (256 - y.2)), (at_ 0 1, (256 - x.2) * y.2), (at_ 1 1, x.2 * y.2)].filter
      fun t => t.2 != 0

/-- The texel a lane of SMPL reads, none outside the level (R363). -/
def smplTexels (d : TargetDesc) (pl x y lv : Nat) : List (Nat × Nat) :=
  let l := levelOf d lv
  let i := sext x 32
  let j := sext y 32
  if i < 0 || j < 0 || (levelWidth d l : Int) ≤ i || (levelHeight d l : Int) ≤ j then []
  else [(texelAddr d pl l i.toNat j.toNat, 65536)]

/-- A weighted component (R363). -/
def weighted (x w : Nat) : FVal :=
  match unpack f32 x with
  | .fin neg m e => .fin neg (m * w) (e - 16)
  | v => v

/-- SMP's four components from its texels' bits and weights (R363): no texel gives zeros. -/
def filterTexels (d : TargetDesc) (pl : Nat) (ts : List (Nat × Nat)) : List Nat :=
  if ts.isEmpty then [0, 0, 0, 0]
  else (List.range 4).map fun i => exactSum32 (ts.map fun t => weighted (nth (loadElem d pl t.1) i) t.2)

/-- One lane's texels checked in order: it passes when each of them does (R211, R363). A texel in a line of a peer that could not be read
fails (R401). -/
def checkTexels (q : Path) (n : Nat) : List (Nat × Nat) → State → State × LaneOut
  | [], s => (s, .pass 0 0)
  | t :: ts, s =>
    let r := laneCheckBy (fun s pa _ => poisonedRo s (coreOf s q) pa n) (fun _ pa _ => (farByte q pa n).map fun _ => (5, cProt, 9))
      s q .read t.1 n n
    match r.2 with
    | .pass _ _ => checkTexels q n ts r.1
    | x => (r.1, x)

/-- Lines of peers among some texels that neither the core's read-only cache nor the die holds yet (R255, R400). -/
def texelPeer (s : State) (q : Path) (n : Nat) (ts : List (Nat × Nat)) : Option (Nat × Nat) :=
  ts.findSome? fun t => match (translate s (ctxOf s q) (coreOf s q) q.sup .probe t.1 1).2 with
    | .ok pa _ _ =>
      if (roFind s (coreOf s q) (pa / 128)).isSome then none
      else ((missingPeer s (coreOf s q) [(pa, n)]).head?).map fun ln => (ln, t.1)
    | _ => none

/-- The lines of some texels, each read once through the read-only path (R255, R363, R408): line numbers with their 128 bytes. -/
def texelLines (q : Path) (ts : List (Nat × Nat)) (s : State) : State × List (Nat × List Nat) :=
  ts.foldl (fun acc t => match (translate acc.1 (ctxOf s q) (coreOf s q) q.sup .probe t.1 1).2 with
    | .ok pa leaf _ =>
      if (aGet (pa / 128) acc.2).isSome then acc
      else
        let r := roRead acc.1 (whoLeaf (coreOf s q) (ctxOf s q) leaf) (coreOf s q) (ctxOf s q) (pa / 128 * 128) 128
        (r.1, acc.2 ++ [(pa / 128, r.2)])
    | _ => acc) (s, [])

/-- A texel's bits in the one copy of its line (R408). -/
def texelBits (s : State) (q : Path) (n : Nat) (lines : List (Nat × List Nat)) (va : Nat) : Nat :=
  match (translate s (ctxOf s q) (coreOf s q) q.sup .probe va 1).2 with
  | .ok pa _ _ => ofBytes ((((aGet (pa / 128) lines).getD []).drop (pa % 128)).take n)
  | _ => 0

/-- SMP and SMPL (R363): the descriptor, the whole path's faults, then the lanes; the value of a lane is made from its texels. -/
def sampleForm (i : Instr) (g la dst : Nat) (texels : State → Path → TargetDesc → Nat → Nat → List (Nat × Nat))
    (value : TargetDesc → Nat → List (Nat × Nat) → List Nat) (s : State) : Out :=
  onPath s fun p q =>
    withTarget s p q i g 2 fun a =>
      let pl := bits (getG s q g) 1 0
      let h := engRead s (ctxOf s q) (coreOf s q) p a 256
      match h.2 with
      | .ok b =>
        let d := targetOfBytes b
        match sampleFault b d pl a with
        | some f => trapAll h.1 p q i f.1 2 f.2
        | none =>
          let n := planeSize d pl
          let lanes := (lanesOf (active q)).map fun l => (l, texels h.1 q d pl l)
          let ck := lanes.foldl (fun (acc : State × List (Nat × LaneOut)) x =>
            let r := checkTexels q n x.2 acc.1
            (r.1, acc.2 ++ [(x.1, r.2)])) (h.1, [])
          let miss := missLanes ck.2
          if !miss.isEmpty then waitAt ck.1 p q i (.service (uniq (miss.map (·.2.2))))
          else if ck.1.roDrops.contains (coreOf s q) then waitAt ck.1 p q i .roDrop
          else match lanes.findSome? fun x => texelPeer ck.1 q n x.2 with
            | some (ln, va) =>
              waitAt (askPeerLine ck.1 p (ctxOf s q) ln q.gang (coreOf s q) va) p q i .home
            | none =>
              let good := (passLanes ck.2).map (·.1)
              let passed := lanes.filter fun x => good.contains x.1
              let rd := texelLines q (passed.flatMap (·.2)) ck.1
              let res := (rd.1, passed.flatMap fun x =>
                (value d pl (x.2.map fun t => (texelBits ck.1 q n rd.2 t.1, t.2))).zipIdx.map fun v => (vKey q.gang x.1 (dst + v.2), v.1))
              let f := freshId res.1
              let o : Op :=
                { kind := .sample, gang := q.gang, ctx := ctxOf s q, path := p, pathLanes := q.lanes, base := baseOf s q, lanes := maskOf good, instr := i, count := some .loads,
                  ahead := some la, rt := 4, core := coreOf s q, accesses := [], writes := res.2, flags := 0, left := 0, failed := [] }
              settleLanes (if good.isEmpty then res.1 else putOp f.2 f.1 o) p q i ck.2
      | e => pathEng h.1 p q i e

/-- SMP (R363). -/
def execSmp (v g l k wr : Nat) (s : State) : Out :=
  sampleForm (.smp v g l k wr) g l (4 * k)
    (fun s q d pl lane => smpTexels d pl wr (getV s q.gang lane v) (getV s q.gang lane (v + 1)) (getV s q.gang lane (v + 2)))
    filterTexels s

/-- SMPL (R363). -/
def execSmpl (v g l k : Nat) (s : State) : Out :=
  sampleForm (.smpl v g l k) g l (4 * k)
    (fun s q d pl lane => smplTexels d pl (getV s q.gang lane v) (getV s q.gang lane (v + 1)) (getV s q.gang lane (v + 2)))
    (fun d pl ts => match ts with
      | [] => [0, 0, 0, 0]
      | t :: _ => loadElem d pl t.1) s

end Sys2Proof.Machine
end

