-- ==== Sys2Proof/Machine/Stage.lean ====
section
/-! DEFINITION. Stage queues (R141 to R146): SQPUT, SQGET, SQEND and the ends of their waits. -/

namespace Sys2Proof.Machine

/-- The words of a record: 16 consecutive registers of a lane (R141). -/
def recordOfLane (s : State) (q : Path) (v l : Nat) : List Nat := (List.range 16).map fun k => getV s q.gang l (v + k)

/-- Number of active lanes of a path. -/
def activeCount (q : Path) : Nat := (lanesOf (active q)).length

/-- The consumer of a path's records has finished (R144). -/
def consumerGone (s : State) (w : Workgroup) : Bool :=
  match consumerOf s w with
  | some c => c.2.finished
  | none => true

/-- STAGEQ causes of SQPUT and SQEND found at issue (R144). -/
def putCause (s : State) (q : Path) (w : Workgroup) : Option Nat :=
  let stages := ((descOf s q).map (·.stages)).getD 1
  if w.stage + 1 = stages then some 1
  else if ((gangOf s q).map (·.closed)).getD false then some 2
  else none

/-- Whether the consumer's queue has room for a path's records (R144). -/
def putRoom (s : State) (q : Path) (w : Workgroup) : Bool :=
  match consumerOf s w with
  | some c => decide (c.2.incoming.records.length + activeCount q ≤ 64)
  | none => false

/-- SQPUT takes effect: the release, and the records in lane order (R142, R144). -/
def doPut (s : State) (p : Nat) (q : Path) (w : Workgroup) (v : Nat) : State :=
  match consumerOf s w with
  | none => s
  | some c =>
    let recs := (lanesOf (active q)).map (recordOfLane s q v)
    let s := releaseCore s 3 (coreOf s q)
    let s := modWg s c.1 fun w => { w with incoming := { w.incoming with records := w.incoming.records ++ recs } }
    advance s p q 1

/-- SQPUT (R144): all of its records, or a wait. -/
def execSqput (v : Nat) (s : State) : Out :=
  onPath s fun p q => match wgOfPath s q with
    | none => s
    | some w => match putCause s q w with
      | some d => trapAll s p q (.sqput v) cStageQ d 0
      | none =>
        if consumerGone s w then trapAll s p q (.sqput v) cStageQ 3 0
        else if putRoom s q w && releaseReady s q.gang q.lanes 3 then doPut s p q w v
        else waitAt s p q (.sqput v) .sqput

/-- SQPUT_RESUME (R144, R145). -/
def execSqputResume (s : State) : Out :=
  match s.subject with
  | .one p => match aGet p s.paths with
    | some q => match q.wait, q.cur, wgOfPath s q with
      | .sqput, some (.sqput v), some w =>
        if !waitEnds s q then .next s
        else if consumerGone s w then .next (trapAll s p q (.sqput v) cStageQ 3 0)
        else if putRoom s q w && releaseReady s q.gang q.lanes 3 then .next (doPut s p q w v)
        else .next s
      | _, _, _ => .next s
    | none => .next s
  | _ => .next s

/-- A queue is ended: no producer gang is open (R141). -/
def queueEnded (w : Workgroup) : Bool := w.incoming.openGangs.isEmpty

/-- Enough records for a path, or the queue is ended, and the path's own loads have returned, which its acquire waits for (R144, R253). -/
def getReady (s : State) (q : Path) (w : Workgroup) : Bool :=
  (decide (activeCount q ≤ w.incoming.records.length) || queueEnded w) && loadsReady s q.gang q.lanes

/-- SQGET takes effect (R144). -/
def doGet (s : State) (p : Nat) (q : Path) (w : Workgroup) (v g pd : Nat) : State :=
  let lanes := lanesOf (active q)
  let j := Nat.min lanes.length w.incoming.records.length
  let got := w.incoming.records.take j
  let s := acquire s 3 (coreOf s q) (ctxOf s q)
  let s := modWg s (wgIdOf s q) fun w =>
    { w with incoming := { w.incoming with records := w.incoming.records.drop j, waiters := w.incoming.waiters.filter (· != p) } }
  let s := setVs s q.gang ((lanes.zip got).flatMap fun x => x.2.zipIdx.map fun y => (x.1, v + y.2, y.1))
  let s := setPs s q.gang pd (lanes.zipIdx.map fun x => (x.1, decide (x.2 < j)))
  advance (setG s q g j) p q 1

/-- An SQGET's turn among those that wait: there is none before it. One that a pre-emption interrupted has kept its place (R146). -/
def getTurn (p : Nat) (w : Workgroup) : Bool := w.incoming.waiters.isEmpty || w.incoming.waiters.head? = some p

/-- A path takes its place behind the SQGETs that wait, unless it has one. -/
def awaitTurn (p : Nat) (w : Workgroup) : Workgroup :=
  if w.incoming.waiters.contains p then w else { w with incoming := { w.incoming with waiters := w.incoming.waiters ++ [p] } }

/-- SQGET (R142, R144): in turn, with enough records or at the end; else a wait. It takes its place in the queue when it issues, also while
earlier loads of its lanes are in flight: the acquire stands after the wait (R144, log entry 119). -/
def execSqget (v g pd : Nat) (s : State) : Out :=
  onPath s fun p q => match wgOfPath s q with
    | none => s
    | some w =>
      if w.stage = 0 then trapAll s p q (.sqget v g pd) cStageQ 1 0
      else if getTurn p w && getReady s q w then doGet s p q w v g pd
      else waitAt (modWg s (wgIdOf s q) (awaitTurn p)) p q (.sqget v g pd) .sqget

/-- SQGET_RESUME (R144). -/
def execSqgetResume (s : State) : Out :=
  match s.subject with
  | .one p => match aGet p s.paths with
    | some q => match q.wait, q.cur, wgOfPath s q with
      | .sqget, some (.sqget v g pd), some w =>
        if waitEnds s q && w.incoming.waiters.head? = some p && getReady s q w then .next (doGet s p q w v g pd) else .next s
      | _, _, _ => .next s
    | none => .next s
  | _ => .next s

/-- SQEND (R144): the release, and the queue is closed for the gang. -/
def execSqend (s : State) : Out :=
  onPath s fun p q => match wgOfPath s q with
    | none => s
    | some w => match putCause s q w with
      | some d => trapAll s p q .sqend cStageQ d 0
      | none =>
        if !releaseReady s q.gang q.lanes 3 then waitAt s p q .sqend .fence
        else
          let s := modGang (releaseCore s 3 (coreOf s q)) q.gang fun g => { g with closed := true }
          let s := match consumerOf s w with
            | some c => modWg s c.1 fun x =>
                { x with incoming := { x.incoming with openGangs := x.incoming.openGangs.filter (· != q.gang) } }
            | none => s
          advance s p q 1

end Sys2Proof.Machine
end

