-- ==== Sys2Proof/Machine/Xpipe.lean ====
section
/-! DEFINITION. The transform pipe: XMATH (R200 to R203), XTILE (R321, R322) and XPIPE_WRITEBACK. Sources are read at issue, and
the destination is written, and flags are merged, when the pipe writes back. -/

namespace Sys2Proof.Machine

/-- An operation of the transform pipe placed in flight: the registers it writes, its flags, its lookahead (R51, R67). -/
def xpipeStart (s : State) (p : Nat) (q : Path) (i : Instr) (la : Nat) (ws : List (Nat × Nat × Nat)) (flags : Nat) : State :=
  let f := freshId s
  let o : Op :=
    { kind := .xpipe, gang := q.gang, ctx := ctxOf s q, path := p, pathLanes := q.lanes, base := baseOf s q, lanes := active q, instr := i, count := some .xpipe, ahead := some la, rt := 0,
      core := coreOf s q, accesses := [], writes := ws.map fun w => (vKey q.gang w.1 w.2.1, w.2.2), flags := flags, left := 0,
      failed := [] }
  advance { f.2 with ops := aSet f.1 o f.2.ops } p q (sizeOf i)

/-- XMATH (R201): V[d] := f(V[a]) on the transform pipe, NV and DZ merged at write-back (R203). -/
def xmathForm (i : Instr) (d a la : Nat) (f : Nat → Nat × Nat) (s : State) : Host.Outcome State Fault Refusal :=
  onPath s fun p q =>
    xpipeStart s p q i la (laneWrites (active q) d fun l => (f (getV s q.gang l a)).1)
      ((lanesOf (active q)).foldl (fun m l => m ||| (f (getV s q.gang l a)).2) 0)

/-- FRCP (R202). -/
def execFrcp (d a l : Nat) (s : State) : Host.Outcome State Fault Refusal := xmathForm (.frcp d a l) d a l xFrcp s
/-- FRSQ (R202). -/
def execFrsq (d a l : Nat) (s : State) : Host.Outcome State Fault Refusal := xmathForm (.frsq d a l) d a l xFrsq s
/-- FSQRT (R202). -/
def execFsqrt (d a l : Nat) (s : State) : Host.Outcome State Fault Refusal := xmathForm (.fsqrt d a l) d a l xFsqrt s
/-- FEXP2 (R202). -/
def execFexp2 (d a l : Nat) (s : State) : Host.Outcome State Fault Refusal := xmathForm (.fexp2 d a l) d a l xFexp2 s
/-- FLOG2 (R202). -/
def execFlog2 (d a l : Nat) (s : State) : Host.Outcome State Fault Refusal := xmathForm (.flog2 d a l) d a l xFlog2 s
/-- FSIN (R202). -/
def execFsin (d a l : Nat) (s : State) : Host.Outcome State Fault Refusal := xmathForm (.fsin d a l) d a l (xTurn false) s
/-- FCOS (R202). -/
def execFcos (d a l : Nat) (s : State) : Host.Outcome State Fault Refusal := xmathForm (.fcos d a l) d a l (xTurn true) s

/-- Element (r, c) of a register tile (R321): rows of lanes that are not active read as zero. -/
def tileAt (s : State) (q : Path) (v r c : Nat) : Nat := if hasBit (active q) r then getV s q.gang r (v + c) else 0

/-- The element format, by R281's code, and the block size that an XQ instruction's G register names (R321). -/
def xqFormat (x : Nat) : Option (Nat × Nat) :=
  if bits x 3 0 ≤ 6 && bits x 5 4 ≤ 1 then some (8 + bits x 3 0, if bits x 5 4 = 0 then 32 else 16) else none

/-- Element codes concatenated little-endian (R306). -/
def packElems (bitsEach : Nat) (codes : List Nat) : Nat := sumNat (codes.zipIdx.map fun c => c.1 * 2 ^ (bitsEach * c.2))

/-- A row of 32 binary32 values quantised under R288, as the registers from d hold it (R322): elements, zeros, scales. -/
def xqRegs (fmt block : Nat) (row : List Nat) : List Nat :=
  let parts := (List.range (32 / block)).map fun b =>
    quantBlock fmt (((row.drop (block * b)).take block).map (unpack f32))
  let x := packElems (elemBits fmt) (parts.flatMap (·.2))
  (List.range 8).map (fun k => bits x (32 * k + 31) (32 * k)) ++ [packElems 8 (parts.map (·.1))]

/-- XQROW and XQCOL (R321, R322): lane l quantises row l, or column l. -/
def xqForm (i : Instr) (v g la x : Nat) (col : Bool) (s : State) : Host.Outcome State Fault Refusal :=
  onPath s fun p q =>
    match xqFormat (getG s q g) with
    | none => trapAll s p q i cDescriptor 0 0
    | some f =>
      let row (l : Nat) : List Nat := (List.range 32).map fun k => if col then tileAt s q v k l else tileAt s q v l k
      xpipeStart s p q i la
        ((lanesOf (active q)).flatMap fun l => (xqRegs f.1 f.2 (row l)).zipIdx.map fun y => (l, 4 * x + y.2, y.1)) 0

/-- XQROW (R322). -/
def execXqrow (v g l x : Nat) (s : State) : Host.Outcome State Fault Refusal := xqForm (.xqrow v g l x) v g l x false s
/-- XQCOL (R322). -/
def execXqcol (v g l x : Nat) (s : State) : Host.Outcome State Fault Refusal := xqForm (.xqcol v g l x) v g l x true s

/-- XTRANS (R322): V[d+r][c] := x[r][c] in the active lanes c. -/
def execXtrans (v l x : Nat) (s : State) : Host.Outcome State Fault Refusal :=
  onPath s fun p q =>
    xpipeStart s p q (.xtrans v l x) l
      ((lanesOf (active q)).flatMap fun c => (List.range 32).map fun r => (c, 4 * x + r, tileAt s q v r c)) 0

/-- XSIG (R322): the eight projections, in every active lane. -/
def execXsig (v l x : Nat) (s : State) : Host.Outcome State Fault Refusal :=
  onPath s fun p q =>
    let rows := (List.range 32).map fun r => (List.range 32).map fun c => unpack f32 (tileAt s q v r c)
    let sigs := (List.range 8).map fun k => projection k rows
    xpipeStart s p q (.xsig v l x) l
      ((lanesOf (active q)).flatMap fun c => sigs.zipIdx.map fun y => (c, 4 * x + y.2, y.1)) 0

/-- XPIPE_WRITEBACK (R200, R203): the destination registers are written and the flags merged; the count falls. -/
def execXpipeWriteback (s : State) : Host.Outcome State Fault Refusal :=
  match s.subject with
  | .one k => match aGet k s.ops with
    | some o =>
      if o.kind != .xpipe then .next s
      else .next (mergeFlagsIn { s with ops := aErase k s.ops, v := bSetAll s.v o.writes } o.gang o.pathLanes o.flags)
    | none => .next s
  | _ => .next s

end Sys2Proof.Machine
end

