-- ==== Sys2Proof/Machine/Dispatch.lean ====
section
/-! DEFINITION. The dispatch: one meaning for each instruction. -/

namespace Sys2Proof.Machine

def exec (i : Instr) (s : State) : Host.Outcome State Fault Refusal :=
  match i with
  | .iadd x0 x1 x2 => Sys2Proof.Machine.execIadd x0 x1 x2 s
  | .isub x0 x1 x2 => Sys2Proof.Machine.execIsub x0 x1 x2 s
  | .imul x0 x1 x2 => Sys2Proof.Machine.execImul x0 x1 x2 s
  | .imulh x0 x1 x2 => Sys2Proof.Machine.execImulh x0 x1 x2 s
  | .imulhu x0 x1 x2 => Sys2Proof.Machine.execImulhu x0 x1 x2 s
  | .imin x0 x1 x2 => Sys2Proof.Machine.execImin x0 x1 x2 s
  | .imax x0 x1 x2 => Sys2Proof.Machine.execImax x0 x1 x2 s
  | .iminu x0 x1 x2 => Sys2Proof.Machine.execIminu x0 x1 x2 s
  | .imaxu x0 x1 x2 => Sys2Proof.Machine.execImaxu x0 x1 x2 s
  | .iaddsat x0 x1 x2 => Sys2Proof.Machine.execIaddsat x0 x1 x2 s
  | .iadd64 x0 x1 x2 => Sys2Proof.Machine.execIadd64 x0 x1 x2 s
  | .isub64 x0 x1 x2 => Sys2Proof.Machine.execIsub64 x0 x1 x2 s
  | .and x0 x1 x2 => Sys2Proof.Machine.execAnd x0 x1 x2 s
  | .or x0 x1 x2 => Sys2Proof.Machine.execOr x0 x1 x2 s
  | .xor x0 x1 x2 => Sys2Proof.Machine.execXor x0 x1 x2 s
  | .andn x0 x1 x2 => Sys2Proof.Machine.execAndn x0 x1 x2 s
  | .shl x0 x1 x2 => Sys2Proof.Machine.execShl x0 x1 x2 s
  | .shr x0 x1 x2 => Sys2Proof.Machine.execShr x0 x1 x2 s
  | .sar x0 x1 x2 => Sys2Proof.Machine.execSar x0 x1 x2 s
  | .rotl x0 x1 x2 => Sys2Proof.Machine.execRotl x0 x1 x2 s
  | .shl64 x0 x1 x2 => Sys2Proof.Machine.execShl64 x0 x1 x2 s
  | .shr64 x0 x1 x2 => Sys2Proof.Machine.execShr64 x0 x1 x2 s
  | .popc x0 x1 => Sys2Proof.Machine.execPopc x0 x1 s
  | .clz x0 x1 => Sys2Proof.Machine.execClz x0 x1 s
  | .ctz x0 x1 => Sys2Proof.Machine.execCtz x0 x1 s
  | .brev x0 x1 => Sys2Proof.Machine.execBrev x0 x1 s
  | .bswap x0 x1 => Sys2Proof.Machine.execBswap x0 x1 s
  | .bfe x0 x1 x2 => Sys2Proof.Machine.execBfe x0 x1 x2 s
  | .bfeu x0 x1 x2 => Sys2Proof.Machine.execBfeu x0 x1 x2 s
  | .bfi x0 x1 x2 => Sys2Proof.Machine.execBfi x0 x1 x2 s
  | .icmpI32 x0 x1 x2 x3 => Sys2Proof.Machine.execIcmpI32 x0 x1 x2 x3 s
  | .icmpN32 x0 x1 x2 x3 => Sys2Proof.Machine.execIcmpN32 x0 x1 x2 x3 s
  | .icmpI64 x0 x1 x2 x3 => Sys2Proof.Machine.execIcmpI64 x0 x1 x2 x3 s
  | .icmpN64 x0 x1 x2 x3 => Sys2Proof.Machine.execIcmpN64 x0 x1 x2 x3 s
  | .fcmpF32 x0 x1 x2 x3 => Sys2Proof.Machine.execFcmpF32 x0 x1 x2 x3 s
  | .fcmpF64 x0 x1 x2 x3 => Sys2Proof.Machine.execFcmpF64 x0 x1 x2 x3 s
  | .fcmpF16 x0 x1 x2 x3 => Sys2Proof.Machine.execFcmpF16 x0 x1 x2 x3 s
  | .iaddi x0 x1 x2 => Sys2Proof.Machine.execIaddi x0 x1 x2 s
  | .andi x0 x1 x2 => Sys2Proof.Machine.execAndi x0 x1 x2 s
  | .ori x0 x1 x2 => Sys2Proof.Machine.execOri x0 x1 x2 s
  | .xori x0 x1 x2 => Sys2Proof.Machine.execXori x0 x1 x2 s
  | .shli x0 x1 x2 => Sys2Proof.Machine.execShli x0 x1 x2 s
  | .shri x0 x1 x2 => Sys2Proof.Machine.execShri x0 x1 x2 s
  | .sari x0 x1 x2 => Sys2Proof.Machine.execSari x0 x1 x2 s
  | .rotli x0 x1 x2 => Sys2Proof.Machine.execRotli x0 x1 x2 s
  | .movi x0 x1 => Sys2Proof.Machine.execMovi x0 x1 s
  | .movhi x0 x1 => Sys2Proof.Machine.execMovhi x0 x1 s
  | .sel x0 x1 x2 x3 x4 => Sys2Proof.Machine.execSel x0 x1 x2 x3 x4 s
  | .imad x0 x1 x2 x3 => Sys2Proof.Machine.execImad x0 x1 x2 x3 s
  | .lit x0 x1 => Sys2Proof.Machine.execLit x0 x1 s
  | .pand x0 x1 x2 => Sys2Proof.Machine.execPand x0 x1 x2 s
  | .por x0 x1 x2 => Sys2Proof.Machine.execPor x0 x1 x2 s
  | .pxor x0 x1 x2 => Sys2Proof.Machine.execPxor x0 x1 x2 s
  | .pandn x0 x1 x2 => Sys2Proof.Machine.execPandn x0 x1 x2 s
  | .fadd x0 x1 x2 => Sys2Proof.Machine.execFadd x0 x1 x2 s
  | .fsub x0 x1 x2 => Sys2Proof.Machine.execFsub x0 x1 x2 s
  | .fmul x0 x1 x2 => Sys2Proof.Machine.execFmul x0 x1 x2 s
  | .fmac x0 x1 x2 => Sys2Proof.Machine.execFmac x0 x1 x2 s
  | .fmin x0 x1 x2 => Sys2Proof.Machine.execFmin x0 x1 x2 s
  | .fmax x0 x1 x2 => Sys2Proof.Machine.execFmax x0 x1 x2 s
  | .fneg x0 x1 => Sys2Proof.Machine.execFneg x0 x1 s
  | .fabs x0 x1 => Sys2Proof.Machine.execFabs x0 x1 s
  | .frnd x0 x1 x2 => Sys2Proof.Machine.execFrnd x0 x1 x2 s
  | .fcpys x0 x1 x2 => Sys2Proof.Machine.execFcpys x0 x1 x2 s
  | .fma x0 x1 x2 x3 => Sys2Proof.Machine.execFma x0 x1 x2 x3 s
  | .fms x0 x1 x2 x3 => Sys2Proof.Machine.execFms x0 x1 x2 x3 s
  | .fnma x0 x1 x2 x3 => Sys2Proof.Machine.execFnma x0 x1 x2 x3 s
  | .hadd2 x0 x1 x2 => Sys2Proof.Machine.execHadd2 x0 x1 x2 s
  | .hmul2 x0 x1 x2 => Sys2Proof.Machine.execHmul2 x0 x1 x2 s
  | .hfma2 x0 x1 x2 => Sys2Proof.Machine.execHfma2 x0 x1 x2 s
  | .hmin2 x0 x1 x2 => Sys2Proof.Machine.execHmin2 x0 x1 x2 s
  | .hmax2 x0 x1 x2 => Sys2Proof.Machine.execHmax2 x0 x1 x2 s
  | .badd2 x0 x1 x2 => Sys2Proof.Machine.execBadd2 x0 x1 x2 s
  | .bmul2 x0 x1 x2 => Sys2Proof.Machine.execBmul2 x0 x1 x2 s
  | .bfma2 x0 x1 x2 => Sys2Proof.Machine.execBfma2 x0 x1 x2 s
  | .dadd x0 x1 x2 => Sys2Proof.Machine.execDadd x0 x1 x2 s
  | .dsub x0 x1 x2 => Sys2Proof.Machine.execDsub x0 x1 x2 s
  | .dmul x0 x1 x2 => Sys2Proof.Machine.execDmul x0 x1 x2 s
  | .dfma x0 x1 x2 => Sys2Proof.Machine.execDfma x0 x1 x2 s
  | .dmin x0 x1 x2 => Sys2Proof.Machine.execDmin x0 x1 x2 s
  | .dmax x0 x1 x2 => Sys2Proof.Machine.execDmax x0 x1 x2 s
  | .cvtF32I32 x0 x1 => Sys2Proof.Machine.execCvtF32I32 x0 x1 s
  | .cvtF32N32 x0 x1 => Sys2Proof.Machine.execCvtF32N32 x0 x1 s
  | .cvtI32F32 x0 x1 => Sys2Proof.Machine.execCvtI32F32 x0 x1 s
  | .cvtN32F32 x0 x1 => Sys2Proof.Machine.execCvtN32F32 x0 x1 s
  | .cvtF16F32 x0 x1 => Sys2Proof.Machine.execCvtF16F32 x0 x1 s
  | .cvtF32F16 x0 x1 => Sys2Proof.Machine.execCvtF32F16 x0 x1 s
  | .cvtBf16F32 x0 x1 => Sys2Proof.Machine.execCvtBf16F32 x0 x1 s
  | .cvtF32Bf16 x0 x1 => Sys2Proof.Machine.execCvtF32Bf16 x0 x1 s
  | .cvtF64F32 x0 x1 => Sys2Proof.Machine.execCvtF64F32 x0 x1 s
  | .cvtF32F64 x0 x1 => Sys2Proof.Machine.execCvtF32F64 x0 x1 s
  | .cvtF64I64 x0 x1 => Sys2Proof.Machine.execCvtF64I64 x0 x1 s
  | .cvtI64F64 x0 x1 => Sys2Proof.Machine.execCvtI64F64 x0 x1 s
  | .cvtE4m3x2F32 x0 x1 x2 => Sys2Proof.Machine.execCvtE4m3x2F32 x0 x1 x2 s
  | .cvtE5m2x2F32 x0 x1 x2 => Sys2Proof.Machine.execCvtE5m2x2F32 x0 x1 x2 s
  | .cvtF32E4m3 x0 x1 x2 => Sys2Proof.Machine.execCvtF32E4m3 x0 x1 x2 s
  | .cvtF32E5m2 x0 x1 x2 => Sys2Proof.Machine.execCvtF32E5m2 x0 x1 x2 s
  | .frcp x0 x1 x2 => Sys2Proof.Machine.execFrcp x0 x1 x2 s
  | .frsq x0 x1 x2 => Sys2Proof.Machine.execFrsq x0 x1 x2 s
  | .fsqrt x0 x1 x2 => Sys2Proof.Machine.execFsqrt x0 x1 x2 s
  | .fexp2 x0 x1 x2 => Sys2Proof.Machine.execFexp2 x0 x1 x2 s
  | .flog2 x0 x1 x2 => Sys2Proof.Machine.execFlog2 x0 x1 x2 s
  | .fsin x0 x1 x2 => Sys2Proof.Machine.execFsin x0 x1 x2 s
  | .fcos x0 x1 x2 => Sys2Proof.Machine.execFcos x0 x1 x2 s
  | .xqrow x0 x1 x2 x3 => Sys2Proof.Machine.execXqrow x0 x1 x2 x3 s
  | .xqcol x0 x1 x2 x3 => Sys2Proof.Machine.execXqcol x0 x1 x2 x3 s
  | .xtrans x0 x1 x2 => Sys2Proof.Machine.execXtrans x0 x1 x2 s
  | .xsig x0 x1 x2 => Sys2Proof.Machine.execXsig x0 x1 x2 s
  | .shflidx x0 x1 x2 => Sys2Proof.Machine.execShflidx x0 x1 x2 s
  | .shflup x0 x1 x2 => Sys2Proof.Machine.execShflup x0 x1 x2 s
  | .shfldn x0 x1 x2 => Sys2Proof.Machine.execShfldn x0 x1 x2 s
  | .shflxor x0 x1 x2 => Sys2Proof.Machine.execShflxor x0 x1 x2 s
  | .shflidxi x0 x1 x2 => Sys2Proof.Machine.execShflidxi x0 x1 x2 s
  | .shflupi x0 x1 x2 => Sys2Proof.Machine.execShflupi x0 x1 x2 s
  | .shfldni x0 x1 x2 => Sys2Proof.Machine.execShfldni x0 x1 x2 s
  | .shflxori x0 x1 x2 => Sys2Proof.Machine.execShflxori x0 x1 x2 s
  | .redadd x0 x1 => Sys2Proof.Machine.execRedadd x0 x1 s
  | .redaddf x0 x1 => Sys2Proof.Machine.execRedaddf x0 x1 s
  | .redmin x0 x1 => Sys2Proof.Machine.execRedmin x0 x1 s
  | .redmax x0 x1 => Sys2Proof.Machine.execRedmax x0 x1 s
  | .ballot x0 x1 => Sys2Proof.Machine.execBallot x0 x1 s
  | .voteany x0 x1 => Sys2Proof.Machine.execVoteany x0 x1 s
  | .voteall x0 x1 => Sys2Proof.Machine.execVoteall x0 x1 s
  | .uadd x0 x1 x2 => Sys2Proof.Machine.execUadd x0 x1 x2 s
  | .usub x0 x1 x2 => Sys2Proof.Machine.execUsub x0 x1 x2 s
  | .umul x0 x1 x2 => Sys2Proof.Machine.execUmul x0 x1 x2 s
  | .uand x0 x1 x2 => Sys2Proof.Machine.execUand x0 x1 x2 s
  | .uor x0 x1 x2 => Sys2Proof.Machine.execUor x0 x1 x2 s
  | .uxor x0 x1 x2 => Sys2Proof.Machine.execUxor x0 x1 x2 s
  | .ushl x0 x1 x2 => Sys2Proof.Machine.execUshl x0 x1 x2 s
  | .ushr x0 x1 x2 => Sys2Proof.Machine.execUshr x0 x1 x2 s
  | .usar x0 x1 x2 => Sys2Proof.Machine.execUsar x0 x1 x2 s
  | .umin x0 x1 x2 => Sys2Proof.Machine.execUmin x0 x1 x2 s
  | .umax x0 x1 x2 => Sys2Proof.Machine.execUmax x0 x1 x2 s
  | .uslt x0 x1 x2 => Sys2Proof.Machine.execUslt x0 x1 x2 s
  | .usltn x0 x1 x2 => Sys2Proof.Machine.execUsltn x0 x1 x2 s
  | .useq x0 x1 x2 => Sys2Proof.Machine.execUseq x0 x1 x2 s
  | .umovi x0 x1 => Sys2Proof.Machine.execUmovi x0 x1 s
  | .ulit x0 x1 => Sys2Proof.Machine.execUlit x0 x1 s
  | .ulithi x0 x1 => Sys2Proof.Machine.execUlithi x0 x1 s
  | .movsr x0 x1 => Sys2Proof.Machine.execMovsr x0 x1 s
  | .rdlane x0 x1 x2 => Sys2Proof.Machine.execRdlane x0 x1 x2 s
  | .bcast x0 x1 => Sys2Proof.Machine.execBcast x0 x1 s
  | .bcasthi x0 x1 => Sys2Proof.Machine.execBcasthi x0 x1 s
  | .uld x0 x1 x2 x3 => Sys2Proof.Machine.execUld x0 x1 x2 x3 s
  | .brc x0 x1 x2 => Sys2Proof.Machine.execBrc x0 x1 x2 s
  | .ubrc x0 x1 x2 => Sys2Proof.Machine.execUbrc x0 x1 x2 s
  | .call x0 => Sys2Proof.Machine.execCall x0 s
  | .jmp x0 => Sys2Proof.Machine.execJmp x0 s
  | .jset x0 => Sys2Proof.Machine.execJset x0 s
  | .reorder x0 x1 x2 x3 => Sys2Proof.Machine.execReorder x0 x1 x2 x3 s
  | .trap x0 => Sys2Proof.Machine.execTrap x0 s
  | .brk x0 => Sys2Proof.Machine.execBrk x0 s
  | .trapret x0 => Sys2Proof.Machine.execTrapret x0 s
  | .csrrd x0 x1 => Sys2Proof.Machine.execCsrrd x0 x1 s
  | .csrwr x0 x1 => Sys2Proof.Machine.execCsrwr x0 x1 s
  | .tlbinvPage x0 => Sys2Proof.Machine.execTlbinvPage x0 s
  | .ldw x0 x1 x2 x3 x4 => Sys2Proof.Machine.execLdw x0 x1 x2 x3 x4 s
  | .ldd x0 x1 x2 x3 x4 => Sys2Proof.Machine.execLdd x0 x1 x2 x3 x4 s
  | .ldq x0 x1 x2 x3 x4 => Sys2Proof.Machine.execLdq x0 x1 x2 x3 x4 s
  | .ldbn x0 x1 x2 x3 => Sys2Proof.Machine.execLdbn x0 x1 x2 x3 s
  | .ldbs x0 x1 x2 x3 => Sys2Proof.Machine.execLdbs x0 x1 x2 x3 s
  | .ldhn x0 x1 x2 x3 => Sys2Proof.Machine.execLdhn x0 x1 x2 x3 s
  | .ldhs x0 x1 x2 x3 => Sys2Proof.Machine.execLdhs x0 x1 x2 x3 s
  | .stw x0 x1 x2 x3 => Sys2Proof.Machine.execStw x0 x1 x2 x3 s
  | .std x0 x1 x2 x3 => Sys2Proof.Machine.execStd x0 x1 x2 x3 s
  | .stq x0 x1 x2 x3 => Sys2Proof.Machine.execStq x0 x1 x2 x3 s
  | .stb x0 x1 x2 => Sys2Proof.Machine.execStb x0 x1 x2 s
  | .sth x0 x1 x2 => Sys2Proof.Machine.execSth x0 x1 x2 s
  | .lds x0 x1 x2 x3 x4 => Sys2Proof.Machine.execLds x0 x1 x2 x3 x4 s
  | .sts x0 x1 x2 x3 => Sys2Proof.Machine.execSts x0 x1 x2 x3 s
  | .atom x0 x1 x2 x3 x4 x5 x6 x7 x8 x9 x10 => Sys2Proof.Machine.execAtom x0 x1 x2 x3 x4 x5 x6 x7 x8 x9 x10 s
  | .atoms x0 x1 x2 x3 x4 x5 x6 x7 x8 => Sys2Proof.Machine.execAtoms x0 x1 x2 x3 x4 x5 x6 x7 x8 s
  | .fence x0 x1 => Sys2Proof.Machine.execFence x0 x1 s
  | .fencex x0 x1 x2 => Sys2Proof.Machine.execFencex x0 x1 x2 s
  | .cflush x0 x1 x2 => Sys2Proof.Machine.execCflush x0 x1 x2 s
  | .pref x0 x1 x2 => Sys2Proof.Machine.execPref x0 x1 x2 s
  | .waitc x0 x1 x2 x3 x4 x5 => Sys2Proof.Machine.execWaitc x0 x1 x2 x3 x4 x5 s
  | .bararr x0 x1 x2 => Sys2Proof.Machine.execBararr x0 x1 x2 s
  | .barwait x0 x1 x2 => Sys2Proof.Machine.execBarwait x0 x1 x2 s
  | .barsync x0 x1 x2 => Sys2Proof.Machine.execBarsync x0 x1 x2 s
  | .barqry x0 x1 => Sys2Proof.Machine.execBarqry x0 x1 s
  | .batch x0 => Sys2Proof.Machine.execBatch x0 s
  | .waitb x0 x1 x2 => Sys2Proof.Machine.execWaitb x0 x1 x2 s
  | .sqput x0 => Sys2Proof.Machine.execSqput x0 s
  | .sqget x0 x1 x2 => Sys2Proof.Machine.execSqget x0 x1 x2 s
  | .cpyt x0 x1 x2 => Sys2Proof.Machine.execCpyt x0 x1 x2 s
  | .cpyg x0 x1 x2 x3 => Sys2Proof.Machine.execCpyg x0 x1 x2 x3 s
  | .cpys x0 x1 x2 x3 => Sys2Proof.Machine.execCpys x0 x1 x2 x3 s
  | .cpyq x0 x1 x2 x3 x4 => Sys2Proof.Machine.execCpyq x0 x1 x2 x3 x4 s
  | .cpyz x0 x1 x2 x3 x4 => Sys2Proof.Machine.execCpyz x0 x1 x2 x3 x4 s
  | .cpyx x0 x1 x2 x3 x4 => Sys2Proof.Machine.execCpyx x0 x1 x2 x3 x4 s
  | .mma x0 x1 x2 x3 x4 x5 x6 x7 => Sys2Proof.Machine.execMma x0 x1 x2 x3 x4 x5 x6 x7 s
  | .mjob x0 x1 x2 x3 x4 => Sys2Proof.Machine.execMjob x0 x1 x2 x3 x4 s
  | .accz x0 x1 => Sys2Proof.Machine.execAccz x0 x1 s
  | .accadd x0 x1 x2 => Sys2Proof.Machine.execAccadd x0 x1 x2 s
  | .accrd x0 x1 x2 x3 => Sys2Proof.Machine.execAccrd x0 x1 x2 x3 s
  | .accwr x0 x1 x2 => Sys2Proof.Machine.execAccwr x0 x1 x2 s
  | .drain x0 x1 x2 x3 x4 x5 x6 x7 x8 => Sys2Proof.Machine.execDrain x0 x1 x2 x3 x4 x5 x6 x7 x8 s
  | .bdset x0 x1 => Sys2Proof.Machine.execBdset x0 x1 s
  | .bdget x0 x1 x2 => Sys2Proof.Machine.execBdget x0 x1 x2 s
  | .mdset x0 x1 => Sys2Proof.Machine.execMdset x0 x1 s
  | .ttcon x0 x1 x2 x3 x4 => Sys2Proof.Machine.execTtcon x0 x1 x2 x3 x4 s
  | .ttprog x0 x1 x2 x3 => Sys2Proof.Machine.execTtprog x0 x1 x2 x3 s
  | .stepbeg x0 => Sys2Proof.Machine.execStepbeg x0 s
  | .stepend x0 x1 => Sys2Proof.Machine.execStepend x0 x1 s
  | .skiprd x0 x1 => Sys2Proof.Machine.execSkiprd x0 x1 s
  | .skipwr x0 x1 => Sys2Proof.Machine.execSkipwr x0 x1 s
  | .prim x0 x1 x2 x3 => Sys2Proof.Machine.execPrim x0 x1 x2 x3 s
  | .post x0 x1 x2 => Sys2Proof.Machine.execPost x0 x1 x2 s
  | .kill x0 => Sys2Proof.Machine.execKill x0 s
  | .zprobe x0 x1 x2 => Sys2Proof.Machine.execZprobe x0 x1 x2 s
  | .tgtopen x0 => Sys2Proof.Machine.execTgtopen x0 s
  | .tgtseal x0 => Sys2Proof.Machine.execTgtseal x0 s
  | .tgtwait x0 x1 => Sys2Proof.Machine.execTgtwait x0 x1 s
  | .smp x0 x1 x2 x3 x4 => Sys2Proof.Machine.execSmp x0 x1 x2 x3 x4 s
  | .smpl x0 x1 x2 x3 => Sys2Proof.Machine.execSmpl x0 x1 x2 x3 s
  | .raysub x0 x1 x2 => Sys2Proof.Machine.execRaysub x0 x1 x2 s
  | .rayget x0 x1 x2 => Sys2Proof.Machine.execRayget x0 x1 x2 s
  | .mbxget x0 x1 x2 => Sys2Proof.Machine.execMbxget x0 x1 x2 s
  | .nodeld x0 x1 x2 => Sys2Proof.Machine.execNodeld x0 x1 x2 s
  | .boxt x0 x1 => Sys2Proof.Machine.execBoxt x0 x1 s
  | .trit x0 x1 => Sys2Proof.Machine.execTrit x0 x1 s
  | .rpush x0 x1 => Sys2Proof.Machine.execRpush x0 x1 s
  | .rpop x0 x1 x2 => Sys2Proof.Machine.execRpop x0 x1 x2 s
  | .rsave x0 x1 => Sys2Proof.Machine.execRsave x0 x1 s
  | .rload x0 x1 => Sys2Proof.Machine.execRload x0 x1 s
  | .rcommit x0 x1 => Sys2Proof.Machine.execRcommit x0 x1 s
  | .rdone x0 => Sys2Proof.Machine.execRdone x0 s
  | .nodepub x0 x1 => Sys2Proof.Machine.execNodepub x0 x1 s
  | .nopC => Sys2Proof.Machine.execNopC s
  | .join => Sys2Proof.Machine.execJoin s
  | .regang => Sys2Proof.Machine.execRegang s
  | .exit => Sys2Proof.Machine.execExit s
  | .yield => Sys2Proof.Machine.execYield s
  | .tlbinvAll => Sys2Proof.Machine.execTlbinvAll s
  | .sqend => Sys2Proof.Machine.execSqend s
  | .killAll => Sys2Proof.Machine.execKillAll s
  | .supplyGood => Sys2Proof.Machine.execSupplyGood s
  | .bootRomPass => Sys2Proof.Machine.execBootRomPass s
  | .imageInitialised => Sys2Proof.Machine.execImageInitialised s
  | .trainingComplete => Sys2Proof.Machine.execTrainingComplete s
  | .selftestComplete => Sys2Proof.Machine.execSelftestComplete s
  | .packageMachineCheck => Sys2Proof.Machine.execPackageMachineCheck s
  | .dieLinkFailure => Sys2Proof.Machine.execDieLinkFailure s
  | .pfFunctionLevelReset => Sys2Proof.Machine.execPfFunctionLevelReset s
  | .supplyLost => Sys2Proof.Machine.execSupplyLost s
  | .log => Sys2Proof.Machine.execLog s
  | .retry => Sys2Proof.Machine.execRetry s
  | .image => Sys2Proof.Machine.execImage s
  | .partcfg => Sys2Proof.Machine.execPartcfg s
  | .replcfg => Sys2Proof.Machine.execReplcfg s
  | .droopTrip => Sys2Proof.Machine.execDroopTrip s
  | .droopRecovery => Sys2Proof.Machine.execDroopRecovery s
  | .softError => Sys2Proof.Machine.execSoftError s
  | .wsphaseAdvance => Sys2Proof.Machine.execWsphaseAdvance s
  | .create => Sys2Proof.Machine.execCreate s
  | .preempt => Sys2Proof.Machine.execPreempt s
  | .reset => Sys2Proof.Machine.execReset s
  | .destroy => Sys2Proof.Machine.execDestroy s
  | .query => Sys2Proof.Machine.execQuery s
  | .wrreg => Sys2Proof.Machine.execWrreg s
  | .keyload => Sys2Proof.Machine.execKeyload s
  | .keyclr => Sys2Proof.Machine.execKeyclr s
  | .policy => Sys2Proof.Machine.execPolicy s
  | .serve => Sys2Proof.Machine.execServe s
  | .contextSchedule => Sys2Proof.Machine.execContextSchedule s
  | .contextIdle => Sys2Proof.Machine.execContextIdle s
  | .timeSliceExpiry => Sys2Proof.Machine.execTimeSliceExpiry s
  | .priorityPreempt => Sys2Proof.Machine.execPriorityPreempt s
  | .preemptionComplete => Sys2Proof.Machine.execPreemptionComplete s
  | .contextRestore => Sys2Proof.Machine.execContextRestore s
  | .contextRelease => Sys2Proof.Machine.execContextRelease s
  | .slicePreemptStop => Sys2Proof.Machine.execSlicePreemptStop s
  | .preemptFallback => Sys2Proof.Machine.execPreemptFallback s
  | .pathStarvation => Sys2Proof.Machine.execPathStarvation s
  | .qwptr => Sys2Proof.Machine.execQwptr s
  | .queueEnable => Sys2Proof.Machine.execQueueEnable s
  | .queueDisable => Sys2Proof.Machine.execQueueDisable s
  | .registerWrite => Sys2Proof.Machine.execRegisterWrite s
  | .nop => Sys2Proof.Machine.execNop s
  | .launch => Sys2Proof.Machine.execLaunch s
  | .frame => Sys2Proof.Machine.execFrame s
  | .signalWrite => Sys2Proof.Machine.execSignalWrite s
  | .signalAdd => Sys2Proof.Machine.execSignalAdd s
  | .waitv => Sys2Proof.Machine.execWaitv s
  | .waitvRecheck => Sys2Proof.Machine.execWaitvRecheck s
  | .waitvPollTimer => Sys2Proof.Machine.execWaitvPollTimer s
  | .fencePacket => Sys2Proof.Machine.execFencePacket s
  | .tgtCreate => Sys2Proof.Machine.execTgtCreate s
  | .tgtOpen => Sys2Proof.Machine.execTgtOpen s
  | .tgtSeal => Sys2Proof.Machine.execTgtSeal s
  | .tgtRelease => Sys2Proof.Machine.execTgtRelease s
  | .wstore => Sys2Proof.Machine.execWstore s
  | .mark => Sys2Proof.Machine.execMark s
  | .wrap => Sys2Proof.Machine.execWrap s
  | .packetComplete => Sys2Proof.Machine.execPacketComplete s
  | .pipelineSetStart => Sys2Proof.Machine.execPipelineSetStart s
  | .workgroupFinish => Sys2Proof.Machine.execWorkgroupFinish s
  | .serviceRequest => Sys2Proof.Machine.execServiceRequest s
  | .serviceAnswer => Sys2Proof.Machine.execServiceAnswer s
  | .parkGroupStart => Sys2Proof.Machine.execParkGroupStart s
  | .loadDataReturn => Sys2Proof.Machine.execLoadDataReturn s
  | .storeAccept => Sys2Proof.Machine.execStoreAccept s
  | .atomicPerformed => Sys2Proof.Machine.execAtomicPerformed s
  | .xpipeWriteback => Sys2Proof.Machine.execXpipeWriteback s
  | .rayTestResult => Sys2Proof.Machine.execRayTestResult s
  | .homeRequest => Sys2Proof.Machine.execHomeRequest s
  | .spanRecall => Sys2Proof.Machine.execSpanRecall s
  | .replicaConfirm => Sys2Proof.Machine.execReplicaConfirm s
  | .ownConfirm => Sys2Proof.Machine.execOwnConfirm s
  | .invalidationConfirm => Sys2Proof.Machine.execInvalidationConfirm s
  | .ownedWriteback => Sys2Proof.Machine.execOwnedWriteback s
  | .proxyEviction => Sys2Proof.Machine.execProxyEviction s
  | .replicationIntervalEnd => Sys2Proof.Machine.execReplicationIntervalEnd s
  | .commandFaultDelivery => Sys2Proof.Machine.execCommandFaultDelivery s
  | .sqputResume => Sys2Proof.Machine.execSqputResume s
  | .sqgetResume => Sys2Proof.Machine.execSqgetResume s
  | .tagComplete => Sys2Proof.Machine.execTagComplete s
  | .regangComplete => Sys2Proof.Machine.execRegangComplete s
  | .continuationGangLaunch => Sys2Proof.Machine.execContinuationGangLaunch s
  | .liftFlush => Sys2Proof.Machine.execLiftFlush s
  | .gangFormComplete => Sys2Proof.Machine.execGangFormComplete s
  | .barrierWaitEnd => Sys2Proof.Machine.execBarrierWaitEnd s
  | .batchWaitEnd => Sys2Proof.Machine.execBatchWaitEnd s
  | .beaconWake => Sys2Proof.Machine.execBeaconWake s
  | .crewForm => Sys2Proof.Machine.execCrewForm s
  | .reservationAccept => Sys2Proof.Machine.execReservationAccept s
  | .matrixPass => Sys2Proof.Machine.execMatrixPass s
  | .engineCommandComplete => Sys2Proof.Machine.execEngineCommandComplete s
  | .copyComplete => Sys2Proof.Machine.execCopyComplete s
  | .fragmentApply => Sys2Proof.Machine.execFragmentApply s
  | .targetSealComplete => Sys2Proof.Machine.execTargetSealComplete s
  | .targetWaitEnd => Sys2Proof.Machine.execTargetWaitEnd s
  | .primitiveBinned => Sys2Proof.Machine.execPrimitiveBinned s
  | .partialRender => Sys2Proof.Machine.execPartialRender s
  | .fragmentPassStart => Sys2Proof.Machine.execFragmentPassStart s
  | .rasterEmit => Sys2Proof.Machine.execRasterEmit s
  | .walkerGangStart => Sys2Proof.Machine.execWalkerGangStart s
  | .mbxgetResume => Sys2Proof.Machine.execMbxgetResume s
  | .polnuPortDown => Sys2Proof.Machine.execPolnuPortDown s
  | .peerRequestReceived => Sys2Proof.Machine.execPeerRequestReceived s
  | .peerReadData => Sys2Proof.Machine.execPeerReadData s
  | .peerWriteAck => Sys2Proof.Machine.execPeerWriteAck s
  | .peerNak => Sys2Proof.Machine.execPeerNak s
  | .peerTimeout => Sys2Proof.Machine.execPeerTimeout s
  | .vfFunctionLevelReset => Sys2Proof.Machine.execVfFunctionLevelReset s
  | .msixUnmask => Sys2Proof.Machine.execMsixUnmask s
  | .atsResponse => Sys2Proof.Machine.execAtsResponse s
  | .atsInvalidation => Sys2Proof.Machine.execAtsInvalidation s
  | .hostErrorCompletion => Sys2Proof.Machine.execHostErrorCompletion s
  | .readOnlyDropEnd => Sys2Proof.Machine.execReadOnlyDropEnd s

end Sys2Proof.Machine
end

