-- ==== Sys2Proof/Machine/Issue.lean ====
section
/-! DEFINITION. What a path comes to when it is chosen (R46 to R56, R58, R61, R66): the header stage, the fetch of its words, the
checks that come before any register or memory is read, and the holds of the wait mask, the counts, the scoreboard and lookahead. -/

namespace Sys2Proof.Machine

/-- The front part of a path's turn: it cannot issue; it takes a step that issues nothing (a trap, a wait for a fetch); or it issues
an instruction in a state. -/
inductive Fetched where
  | stall
  | done (s : State)
  | go (s : State) (i : Instr)
  deriving DecidableEq, Repr

/-- A word captured in a core's instruction cache. Which word leaves a full one the manual does not say: a free choice (log entry 92). -/
def captureWord (s : State) (core key w : Nat) : State :=
  let others := s.icache.filter fun e => e.1 / 2 ^ 54 % Config.cores == core && e.1 != key
  let s := if others.length < Config.icacheWords then s
    else match others[Config.icacheVictim s.clock % others.length]? with
      | some v => { s with icache := aErase v.1 s.icache }
      | none => s
  { s with icache := aSet key (BitVec.ofNat 32 w) s.icache }

/-- A fault met before an instruction is known (R107): two says whether its first word takes two words. -/
def frontTrap (s : State) (p : Nat) (q : Path) (two : Bool) (code detail addr : Nat) : State :=
  takeTrap s p q ⟨code, active q, detail, q.pos.word, two, addr⟩

/-- The word at an address, captured from then on (R55): or the state in which the path waits or has met the fault of its fetch.
FAULTADDR of a fetch is the word's address (log entry 22). -/
def fetchWord (s : State) (p : Nat) (q : Path) (a : Nat) (two : Bool) : Except State (State × Nat) :=
  let c := ctxOf s q
  let core := coreOf s q
  match aGet (codeKey c core q.sup a) s.icache with
  | some w => .ok (s, w.toNat)
  | none =>
    let r := translate s c core q.sup .fetch a 4
    match r.2 with
    | .bad _ code detail => .error (frontTrap r.1 p q two code detail a)
    | x =>
      if isRefused q a x then .error (frontTrap r.1 p q two cProt 3 a)
      else match x with
        | .miss page host =>
          let s := askService r.1 c core page host .fetch
          .error (setPath s p { q with wait := .service [pageKey page host], cur := none })
        | .ok pa leaf walked =>
          if (farByte q pa 4).isSome then .error (frontTrap r.1 p q two cProt 9 a)
          else if isPeer pa && !hasP r.1 (dieOf core) (pa / 128) then
            if (peerPort r.1 (pa - peerBase)).isNone then .error (frontTrap (countFailedAccess r.1) p q two cProt 9 a)
            else .error (setPath (askPeerLine r.1 p c (pa / 128) q.gang core a) p { q with wait := .home, cur := none })
          else match poisonedFor r.1 core pa 4 with
            | some u =>
              let f := readFault r.1 u
              .error (frontTrap f.1 p q two f.2.1 f.2.2 (a + (u - pa)))
            | none =>
              let h := coreRead (commitXl r.1 c core .fetch a walked) (whoLeaf core c leaf) core pa 4
              let w := ofBytes h.2
              .ok (captureWord h.1 core (codeKey c core q.sup a) w, w)
        | .bad _ code detail => .error (frontTrap r.1 p q two code detail a)

/-- An instruction whose register operands the matrix engine reads, or writes, only when its turn comes (R51, R317). -/
def raisesMatReg (i : Instr) : Bool :=
  match i with
  | .accadd _ _ _ => true
  | .accwr _ _ _ => true
  | .accrd _ _ _ _ => true
  | .mma _ _ _ _ _ _ _ _ => true
  | .mjob _ _ _ _ _ => true
  | _ => false

/-- Paths of a gang with lanes in a slice that wait within an instruction of one kind. -/
def pathsWithin (s : State) (gid c : Nat) (waits : Wait → Bool) (is : Instr → Bool) : Nat :=
  (s.paths.filter fun e => e.2.gang == gid && sliceLanes c e.2.lanes != 0 && waits e.2.wait && (e.2.cur.map is).getD false).length

/-- The path waits in its workgroup's rendezvous latch with an MMA that found its A latch full, and so reads no registers (R308). -/
def latchedMember (s : State) (p : Nat) : Bool :=
  s.wgs.any fun w => w.2.latch.any fun m => m.path == p && match m.body with
    | .mma _ _ ms => ms.all (·.latched)
    | _ => false

/-- A wait of an instruction whose accesses have issued and have still to be made: for the release or the order that comes before them. -/
def accessWait (w : Wait) : Bool := decide (w = .fence) || decide (w = .order) || decide (w = .home)

/-- A wait within an instruction of the matrix engine that has issued and whose registers it has still to read or write: for its turn in the
tile order (R313), or for the rest of its crew (R300). -/
def matRegWait (w : Wait) : Bool :=
  match w with
  | .tile _ => true
  | .latch => true
  | _ => false

/-- The count an instruction raises (R51). -/
def raisesCount (i : Instr) : Option Count :=
  match i with
  | .ldw _ _ _ _ _ => some .loads
  | .ldd _ _ _ _ _ => some .loads
  | .ldq _ _ _ _ _ => some .loads
  | .ldbn _ _ _ _ => some .loads
  | .ldbs _ _ _ _ => some .loads
  | .ldhn _ _ _ _ => some .loads
  | .ldhs _ _ _ _ => some .loads
  | .lds _ _ _ _ _ => some .loads
  | .uld _ _ _ _ => some .loads
  | .smp _ _ _ _ _ => some .loads
  | .smpl _ _ _ _ => some .loads
  | .atom _ _ _ _ _ nr _ _ _ _ _ => some (if nr = 1 then .stores else .loads)
  | .atoms _ _ _ _ nr _ _ _ _ => some (if nr = 1 then .stores else .loads)
  | .stw _ _ _ _ => some .stores
  | .std _ _ _ _ => some .stores
  | .stq _ _ _ _ => some .stores
  | .stb _ _ _ => some .stores
  | .sth _ _ _ => some .stores
  | .sts _ _ _ _ => some .stores
  | .frcp _ _ _ => some .xpipe
  | .frsq _ _ _ => some .xpipe
  | .fsqrt _ _ _ => some .xpipe
  | .fexp2 _ _ _ => some .xpipe
  | .flog2 _ _ _ => some .xpipe
  | .fsin _ _ _ => some .xpipe
  | .fcos _ _ _ => some .xpipe
  | .xqrow _ _ _ _ => some .xpipe
  | .xqcol _ _ _ _ => some .xpipe
  | .xtrans _ _ _ => some .xpipe
  | .xsig _ _ _ => some .xpipe
  | .raysub _ _ _ => some .rayt
  | .nodeld _ _ _ => some .rayt
  | .boxt _ _ => some .rayt
  | .trit _ _ => some .rayt
  | .mbxget _ _ _ => some .rayt
  | .cpyt _ _ _ => some .async
  | .cpyg _ _ _ _ => some .async
  | .cpys _ _ _ _ => some .async
  | .cpyq _ _ _ _ _ => some .async
  | .cpyz _ _ _ _ _ => some .async
  | .cpyx _ _ _ _ _ => some .async
  | .mma _ _ _ _ _ _ _ _ => some .async
  | .mjob _ _ _ _ _ => some .async
  | .accz _ _ => some .async
  | .drain _ _ _ _ _ _ _ _ _ => some .async
  | .ttcon _ _ _ _ _ => some .async
  | .ttprog _ _ _ _ => some .async
  | .stepbeg _ => some .async
  | .stepend _ _ => some .async
  | _ => none

/-- A slice's outstanding work of one kind (R51): MATREG while the matrix engine has not read or written the registers, RAYT also while an
MBXGET waits for its mailbox, and LOADS, STORES and RAYT while an instruction that has issued holds back its accesses. -/
def countHeld (s : State) (gid c : Nat) (k : Count) : Nat :=
  let inFlight := (s.ops.filter fun e => e.2.gang == gid && e.2.count == some k && sliceLanes c e.2.lanes != 0).length
  let back := pathsWithin s gid c accessWait fun i => raisesCount i == some k
  match k with
  | .matreg => (s.paths.filter fun e => e.2.gang == gid && sliceLanes c e.2.lanes != 0 && matRegWait e.2.wait &&
      (e.2.cur.map raisesMatReg).getD false && !(e.2.wait = .latch && latchedMember s e.1)).length
  | .rayt => inFlight + back + pathsWithin s gid c (fun w => w = .mailbox) (fun _ => true)
  | .async => (s.cmds.filter fun e => !e.2.accepted && issuedBy gid (15 * 2 ^ (4 * c)) e.2).length +
      pathsWithin s gid c (fun w => w = .latch) (fun _ => true)
  | .xpipe => inFlight
  | _ => inFlight + back

/-- The counts that a header's WAIT mask names (R47). -/
def waitCounts (w : Nat) : List Count :=
  ([(9, Count.loads), (10, Count.stores), (11, Count.xpipe), (12, Count.matreg), (13, Count.rayt), (14, Count.async)].filter
    fun x => hasBit w x.1).map (·.2)

/-- Whether a clause's wait mask is satisfied for a path (R51). -/
def waitMet (s : State) (q : Path) (w : Nat) : Bool :=
  (slicesOf q.lanes).all fun c => (waitCounts w).all fun k => countHeld s q.gang c k == 0

/-- An instruction whose count stands at 63 in a slice of its path stalls (R51). -/
def countFull (s : State) (q : Path) (i : Instr) : Bool :=
  match raisesCount i with
  | none => false
  | some k => (slicesOf q.lanes).any fun c => 63 ≤ countHeld s q.gang c k

/-- Two runs of registers have one in common. -/
def spansMeet (x y : Sys2Proof.VSpan) : Bool := overlap x.first x.len y.first y.len

/-- The registers of an instruction that work in flight will still write (R66, R140). -/
def scoreboardBusy (s : State) (q : Path) (i : Instr) : Bool :=
  let u := i.usage
  s.ops.any fun e =>
    e.2.gang == q.gang &&
    ((e.2.lanes &&& active q != 0 && e.2.kind != .store &&
        (e.2.instr.usage.v.any fun x => x.written && u.v.any fun y => spansMeet x y)) ||
     (e.2.kind = .uload && (slicesOf e.2.lanes).any (fun c => (slicesOf q.lanes).contains c) &&
        e.2.instr.usage.gdst.any fun r => u.gsrc.contains r || u.gdst.contains r))

/-- Work of the path in flight whose lookahead is used up (R66). -/
def lookaheadSpent (s : State) (p : Nat) : Bool := s.ops.any fun e => e.2.path == p && e.2.ahead = some 0

/-- One of the path's further instructions is issued: its lookaheads fall (R66). -/
def spendLookahead (s : State) (p : Nat) : State :=
  { s with ops := s.ops.map fun e => if e.2.path == p then (e.1, { e.2 with ahead := e.2.ahead.map (· - 1) }) else e }

/-- The number that REGALLOC reports (R58, R107): the first register, tile or barrier named beyond the allocation (log entry 23). -/
def beyond (u : Sys2Proof.Usage) (vregs tiles bars : Nat) : Option Nat :=
  match u.v.find? fun x => x.len != 0 && vregs < x.first + x.len with
  | some x => some (Nat.max x.first vregs)
  | none => (u.tiles.find? fun t => tiles ≤ t).or (u.bars.find? fun b => bars ≤ b)

/-- Barriers of a partition (R268). -/
def barriersOf (s : State) (q : Path) : Nat :=
  if ((aGet (ctxAt s (ctxOf s q)).part s.parts).map (·.dense)).getD false then 8 else 16

/-- Lanes whose V[a] a shuffle by these source lanes reads (R180). -/
def shuffleLanes (q : Path) (j : Nat → Int) : Nat := maskOf ((lanesOf (active q)).map fun l => shuffleSource q (j l) l)

/-- The spans of V registers that an instruction reads: first register, length and lanes. A cross-lane instruction reads V[a] in its source
lanes (R180, R185); an MMA whose A latch is full reads none (R308). -/
def readSpans (s : State) (q : Path) (i : Instr) : List (Nat × Nat × Nat) :=
  let own := (i.usage.v.filter (·.read)).map fun x => (x.first, x.len, active q)
  let amount (b l : Nat) : Nat := bits (getV s q.gang l b) 4 0
  match i with
  | .shflidx _ a b => [(a, 1, shuffleLanes q fun l => lanexIdx l (amount b l)), (b, 1, active q)]
  | .shflup _ a b => [(a, 1, shuffleLanes q fun l => lanexUp l (amount b l)), (b, 1, active q)]
  | .shfldn _ a b => [(a, 1, shuffleLanes q fun l => lanexDown l (amount b l)), (b, 1, active q)]
  | .shflxor _ a b => [(a, 1, shuffleLanes q fun l => lanexXor l (amount b l)), (b, 1, active q)]
  | .shflidxi _ a k => [(a, 1, shuffleLanes q fun l => lanexIdx l k)]
  | .shflupi _ a k => [(a, 1, shuffleLanes q fun l => lanexUp l k)]
  | .shfldni _ a k => [(a, 1, shuffleLanes q fun l => lanexDown l k)]
  | .shflxori _ a k => [(a, 1, shuffleLanes q fun l => lanexXor l k)]
  | .rdlane _ a n => [(a, 1, 2 ^ n &&& active q)]
  | .mma _ _ _ _ _ _ _ _ => if ((gangOf s q).bind (·.latch)).isSome then [] else own
  | _ => own

/-- The predicates that an instruction reads, P7 apart (R11). -/
def predSources (i : Instr) : List Nat :=
  (match i with
    | .brc p _ _ => [p]
    | .sel _ _ _ p _ => [p]
    | .pand _ a b => [a, b]
    | .por _ a b => [a, b]
    | .pxor _ a b => [a, b]
    | .pandn _ a b => [a, b]
    | .ballot _ a => [a]
    | .voteany _ a => [a]
    | .voteall _ a => [a]
    | _ => []).filter (· != 7)

/-- A source register is in a poisoned unit (R28, R168): a V register, with its unit of an even register and the next, in a lane that is
read; a G register in the slice that is read; the P registers of a slice. -/
def poisonedSource (s : State) (q : Path) (i : Instr) : Bool :=
  s.poison.any fun e => match e with
    | .register g l r => g == q.gang && (readSpans s q i).any fun x => hasBit x.2.2 l && overlap x.1 x.2.1 (r / 2 * 2) 2
    | .uniform g c r => g == q.gang && c == lowSlice q.lanes && i.usage.gsrc.contains r
    | .predicate g c => g == q.gang && sliceLanes c (active q) != 0 && !(predSources i).isEmpty
    | _ => false

/-- Units that an instruction writes whole are clean again (R28). -/
def cleanRegisters (s : State) (q : Path) (i : Instr) : State :=
  { s with poison := s.poison.filter fun e => match e with
      | .register g l r => !(g == q.gang && hasBit (active q) l &&
          i.usage.v.any fun x => x.written && x.first ≤ r / 2 * 2 && r / 2 * 2 + 2 ≤ x.first + x.len)
      | .uniform g c r => !(g == q.gang && sliceLanes c q.lanes != 0 && i.usage.gdst.contains r)
      | _ => true }

/-- Under a request for pre-emption each slice of the path counts one more instruction (R69). -/
def countIssue (s : State) (q : Path) : State :=
  if (ctxAt s (ctxOf s q)).state != .preempting then s
  else modGang s q.gang fun g =>
    { g with since := (List.range 8).map fun c => nth g.since c + (if sliceLanes c (active q) = 0 then 0 else 1) }

/-- The path with what its issue changes: a BARSYNC record of another instruction is gone (R416). -/
def issuedPath (q : Path) : Path :=
  { q with barsync := if q.sup then q.barsync else q.barsync.filter fun b => b.2 == wordAddr q.pos }

/-- An instruction whose words have been checked (R50): REGALLOC, the holds, then a poisoned source, unless the instruction meets PRIV first. -/
def issueInstr (s : State) (p : Nat) (q : Path) (i : Instr) (two : Bool) : Fetched :=
  match descOf s q with
  | none => .stall
  | some d =>
    match beyond i.usage d.vregs d.accTiles (barriersOf s q) with
    | some n => .done (frontTrap s p q two cRegAlloc n 0)
    | none =>
      if scoreboardBusy s q i || lookaheadSpent s p || countFull s q i then .stall
      else if failsPriv q i then .go (countIssue (setPath (spendLookahead s p) p (issuedPath q)) q) i
      else if poisonedSource s q i then .done (frontTrap s p q two cMCheck 0 0)
      else .go (countIssue (setPath (cleanRegisters (spendLookahead s p) q i) p (issuedPath q)) q) i

/-- The instruction stage at a position inside a clause (R49, R61). An instruction that TRAPRET has issued for no lane is passed over
(R116). -/
def instrStage (s : State) (p : Nat) (q : Path) : Fetched :=
  let a := wordAddr q.pos
  match fetchWord s p q a false with
  | .error s => .done s
  | .ok (s, w) =>
    let m := w / 2 ^ 26 % 64
    let two := takesTwo w
    if active q = 0 then .done (advance s p q (if two then 2 else 1))
    else if !majorAssigned m then .done (frontTrap s p q false cIllInstr 0 0)
    else if !classAdmits q.pos.cls m || (two && q.pos.word == q.pos.n) then .done (frontTrap s p q two cIllClause 0 a)
    else
      let second : Except State (State × List Nat) :=
        if two then (fetchWord s p q (a + 4) true).map fun r => (r.1, [w, r.2]) else .ok (s, [w])
      match second with
      | .error s => .done s
      | .ok (s, ws) => match decode ws with
        | .error _ => .done (frontTrap s p q two cIllInstr 0 0)
        | .ok i => issueInstr s p q i two

/-- The header at a path's position read again, for its class and N (R56, R116). -/
def rereadStage (s : State) (p : Nat) (q : Path) : Fetched :=
  let bad (s : State) : Fetched :=
    .done (frontTrap s p { q with pos := ⟨q.pos.hdr, 0, 0, 0⟩, replay := none } false cIllClause 0 q.pos.hdr)
  if q.pos.hdr % 4 != 0 || !inExtent s q q.pos.hdr then bad s
  else match fetchWord s p q q.pos.hdr false with
    | .error s => .done s
    | .ok (s, w) =>
      if !headerOk w then bad s
      else
        let n := bits w 3 0
        let q := if q.pos.word ≤ n then { q with pos := ⟨q.pos.hdr, q.pos.word, bits w 27 25, n⟩ }
          else { q with pos := ⟨q.pos.hdr + 4 * (n + 1), 0, 0, 0⟩, replay := none }
        if q.pos.word = 0 then .done (setPath s p q) else instrStage s p q

/-- The header stage (R49, R51, R54, R413), and the clause's first instruction. -/
def headerStage (s : State) (p : Nat) (q : Path) : Fetched :=
  let h := q.pos.hdr
  let bad (s : State) : Fetched := .done (frontTrap s p q false cIllClause 0 h)
  if h % 4 != 0 || !inExtent s q h then bad s
  else match fetchWord s p q h false with
    | .error s => .done s
    | .ok (s, w) =>
      if !headerOk w then bad s
      else if !waitMet s q w then .stall
      else
        let q := { q with pos := ⟨h, 1, bits w 27 25, bits w 3 0⟩, wait := .none, cur := none }
        instrStage (setPath s p q) p q

/-- A path at an instruction that it has not begun. -/
def freshStage (s : State) (p : Nat) (q : Path) : Fetched :=
  let q := { q with wait := .none }
  if q.pos.word = 0 then headerStage s p q else if q.pos.n = 0 then rereadStage s p q else instrStage s p q

/-- A path's turn. A context that is neither RUNNING nor PREEMPTING issues nothing (R100); a path that a pending fault of a command
awaits meets it first (R295); a path that shares a slice with a supervisor stands still (R111); under a request for pre-emption it
stops where R69 and R117 say. -/
def issueOf (s : State) (p : Nat) : Fetched :=
  match aGet p s.paths with
  | none => .stall
  | some q =>
    let st := (ctxAt s (ctxOf s q)).state
    if q.stopped || !(st = .running || st = .preempting) then .stall
    else if (dueFault s p q).isSome || heldAtBoundary s p q then .stall
    else if st = .preempting && (settledPath s p q).wait = .none && q.cur.isNone &&
        (q.sup || (atSideEntry s (settledPath s p q)).isSome || fallbackDue s q) then .stall
    else match q.wait, q.cur with
      | .none, none => freshStage s p q
      | .none, some i => .go s i
      | .home, none => if homeDone s p then freshStage s p q else .stall
      | .home, some i => if homeDone s p then .go s i else .stall
      | .fence, some i => .go s i
      | .roDrop, some i => .go s i
      | .order, some i => .go s i
      | .tile _, some i => .go s i
      | .admitting _ _, some i => .go s i
      | .allBatches, some i => if st = .preempting then .stall else .go s i
      | _, _ => .stall

end Sys2Proof.Machine
end

