-- ==== Sys2Proof/Machine/Schedule.lean ====
section
/-! DEFINITION. Which turn the machine takes when its agenda names none (log entry 1): the first event that is due, in one fixed
order; else one instruction of one ready path, by R140; else an idle cycle. What comes from outside the package (the supply, trained
links, register writes, answers of hosts and peers, errors) and what the manual leaves to choice (time slices, evictions) happens
only as the agenda says. -/

namespace Sys2Proof.Machine

/-- An event taken: its meaning, about a subject. -/
def takeEvent (s : State) (i : Instr) (x : Subject) : Out :=
  match exec i { s with subject := x } with
  | .next t => .next { t with subject := .none }
  | r => r

/-- An event is due: it would change the machine. -/
def isDue (s : State) (e : Instr × Subject) : Bool :=
  match takeEvent s e.1 e.2 with
  | .next t => t != s
  | _ => false

/-- A context whose work goes on: RUNNING, or PREEMPTING (R100, R117). -/
def isLive (s : State) (c : Nat) : Bool := decide ((ctxAt s c).state = .running) || decide ((ctxAt s c).state = .preempting)

/-- The same events about each of several numbers. -/
def about (is : List Instr) (xs : List Nat) : List (Instr × Subject) := xs.flatMap fun x => is.map fun i => (i, .one x)

/-- Work in flight and lines in motion (R51, R228 to R235, R409), and the replication counts. -/
def memoryEvents (s : State) : List (Instr × Subject) :=
  about [.loadDataReturn, .storeAccept, .atomicPerformed, .xpipeWriteback, .rayTestResult] (aKeys s.ops) ++
  about [.homeRequest, .spanRecall, .replicaConfirm, .ownConfirm, .ownedWriteback] (aKeys s.lines) ++
  (s.lines.flatMap fun e => match e.2.dir with
    | .busyC left => (bitsBelow 4 left).map fun d => (Instr.invalidationConfirm, Subject.two e.1 d)
    | _ => []) ++
  about [.replicationIntervalEnd] (aKeys s.regions) ++ about [.readOnlyDropEnd] s.roDrops

/-- Missing translations (R104, R213). -/
def serviceEvents (s : State) : List (Instr × Subject) :=
  about [.serviceAnswer, .serviceRequest] (List.range s.services.length)

/-- Waits of paths that may end, and what falls due to a path (R69, R140, R266, R273, R278, R295, R362, R380). -/
def pathEvents (s : State) : List (Instr × Subject) :=
  about [.commandFaultDelivery, .barrierWaitEnd, .batchWaitEnd, .sqgetResume, .sqputResume, .beaconWake, .targetWaitEnd, .mbxgetResume,
      .pathStarvation, .slicePreemptStop, .preemptFallback]
    ((s.paths.filter fun e => isLive s (ctxOf s e.2) && !e.2.stopped).map (·.1))

/-- Gangs of contexts that satisfy a test. -/
def gangsIn (s : State) (ok : Nat → Bool) : List (Nat × Gang) :=
  s.gangs.filter fun e => ((wgOf s e.2).map fun w => ok w.ctx).getD false

/-- Gangs that come together (R153, R157, R272), and park groups that start (R155). -/
def gangEvents (s : State) : List (Instr × Subject) :=
  ((gangsIn s (isLive s)).flatMap fun e =>
    (uniq (e.2.stack.map (·.tag))).map (fun t => (Instr.tagComplete, Subject.two e.1 t)) ++
    [(Instr.regangComplete, .one e.1), (Instr.gangFormComplete, .one e.1)]) ++
  ((gangsIn s (isRunning s)).flatMap fun e =>
    (uniq (e.2.groups.map (·.slice))).map fun c => (Instr.parkGroupStart, Subject.two e.1 c))

/-- Workgroups of contexts that satisfy a test. -/
def wgsIn (s : State) (ok : Nat → Bool) : List Nat := (s.wgs.filter fun e => ok e.2.ctx).map (·.1)

/-- Crews that form, gangs that start and workgroups that end (R138, R160, R161, R300, R381); gangs start only in a RUNNING context. -/
def workgroupEvents (s : State) : List (Instr × Subject) :=
  about [.crewForm, .workgroupFinish] (wgsIn s (isLive s)) ++
  about [.liftFlush, .continuationGangLaunch, .walkerGangStart] (wgsIn s (isRunning s))

/-- A list in rising order of lists of numbers, compared entry by entry; equal keys keep their order. -/
def lexLe : List Nat → List Nat → Bool
  | [], _ => true
  | _ :: _, [] => false
  | x :: xs, y :: ys => decide (x < y) || (x == y && lexLe xs ys)

/-- An entry put into a list that rises by its keys. -/
def insertLex {α : Type} (key : α → List Nat) (x : α) : List α → List α
  | [] => [x]
  | y :: ys => if lexLe (key y) (key x) then y :: insertLex key x ys else x :: y :: ys

/-- A list put in rising order of its keys. -/
def sortLex {α : Type} (key : α → List Nat) (xs : List α) : List α := xs.foldl (fun acc x => insertLex key x acc) []

/-- The age of a workgroup's work (R140, R302): launch priority, the highest first; launch start order; n; s. -/
def ageOf (s : State) (wid : Nat) : List Nat :=
  match aGet wid s.wgs with
  | some w => [7 - ((aGet w.launch s.launches).map (·.prio)).getD 0, w.launch, w.n, w.stage]
  | none => [8, 0, 0, 0]

/-- The order in which the entries of a reservation table are granted passes (R302). -/
def grantKey (s : State) (e : Nat × Cmd) : List Nat :=
  let idx := e.2.owners.filterMap fun o => (aGet o.1 s.gangs).map (·.idx)
  (if 64 ≤ e.2.passedOver then 0 else 1) :: ageOf s e.2.wg ++ [(minBy id idx).getD 0, e.1]

/-- Commands of engines (R294, R302, R314): completions, acceptances in issue order, then the passes in the order of R302. -/
def engineEvents (s : State) : List (Instr × Subject) :=
  let mine := s.cmds.filter fun e => isLive s e.2.ctx
  about [.engineCommandComplete, .reservationAccept, .copyComplete] (mine.map (·.1)) ++
  about [.matrixPass] ((sortLex (grantKey s) (mine.filter fun e => passReady s e.1 e.2)).map (·.1))

/-- Weight-store reads that a refresh window holds (R240). -/
def weightEvents (s : State) : List (Instr × Subject) :=
  about [.wsphaseAdvance] ((List.range 4).filter fun d => s.cmds.any fun e => (e.2.page.map (·.1)) = some (holdKey d))

/-- An access of a lantern or a rasteriser to a peer is under way. -/
def frontBusy (s : State) : Bool := s.peers.any fun e => e.2.op == 0 && e.2.lane == 0

/-- Lanterns and frames (R349, R351, R367 to R372). -/
def graphicsEvents (s : State) : List (Instr × Subject) :=
  if frontBusy s then []
  else
    (s.targets.flatMap fun e => if lanternsGo s e.2.ctx then
      (e.2.entries.map fun o => (Instr.fragmentApply, Subject.two e.1 o.seq)) ++ [(Instr.targetSealComplete, .one e.1)] else []) ++
    (s.frames.flatMap fun e => if isLive s e.2.ctx then
      about [.primitiveBinned, .partialRender] [e.2.ctx * 16 + e.2.queue] else []) ++
    about [.rasterEmit, .fragmentPassStart] ((s.passes.filter fun e => isRunning s e.2.ctx).map (·.1))

/-- Pipeline sets of RUNNING contexts. Which of those that could be placed comes first, PIPELINE_SET_START itself decides. -/
def launchEvents (s : State) : List (Instr × Subject) :=
  about [.pipelineSetStart] ((s.launches.filter fun e => isRunning s e.2.ctx).map (·.1))

/-- The event that a queue's next packet is (R125); a bad packet stops the queue under any of them. -/
def packetInstr (f : Front) : Instr :=
  match f with
  | .packet h b => match hOp h with
    | 0 => .nop
    | 1 => .launch
    | 2 => .frame
    | 3 => if fieldAt b 24 8 == 0 then .signalWrite else .signalAdd
    | 4 => .waitv
    | 5 => .fencePacket
    | 6 => match fieldAt b 16 8 with
      | 0 => .tgtCreate
      | 1 => .tgtOpen
      | 2 => .tgtSeal
      | _ => .tgtRelease
    | 7 => .wstore
    | 8 => .mark
    | _ => .wrap
  | _ => .nop

/-- Packets that complete, and packets that start (R123, R125): of a context's queues the higher PRIO first, then the lower number
(R127). -/
def queueEvents (s : State) : List (Instr × Subject) :=
    (s.queues.flatMap fun e => if isLive s (e.1 / 16) then
      e.2.packets.map fun x => (Instr.packetComplete, Subject.two e.1 x.seq) else []) ++
    about [.waitvRecheck] ((s.queues.filter fun e => e.2.packets.any fun x => x.wait = .waitv).map (·.1)) ++
    (sortLex (fun e : Nat × Queue => [e.1 / 16, 7 - bits (qReg s e.1 qCtl) 7 5, e.1 % 16])
      (s.queues.filter fun e => isRunning s (e.1 / 16))).map fun e => (packetInstr (frontRead s e.1).2, .one e.1)

/-- The event that a code of a mailbox is (R24, R99, R103). -/
def mailInstr (code : Nat) : Option Instr :=
  match code with
  | 1 => some .log
  | 2 => some .retry
  | 3 => some .image
  | 8 => some .partcfg
  | 9 => some .replcfg
  | 0x10 => some .create
  | 0x11 => some .preempt
  | 0x12 => some .reset
  | 0x13 => some .destroy
  | 0x14 => some .query
  | 0x15 => some .wrreg
  | 0x20 => some .keyload
  | 0x21 => some .keyclr
  | 0x22 => some .policy
  | 0x23 => some .serve
  | _ => none

/-- Mailbox commands that run (R101). -/
def mailEvents (s : State) : List (Instr × Subject) :=
  s.mbx.filterMap fun e =>
    if e.1 % 64 = 1 && hasBit e.2.toNat 0 then (mailInstr (bits (mbReg s (e.1 / 64) 0) 7 0)).map fun i => (i, Subject.one (e.1 / 64))
    else none

/-- Contexts, and the package's own stages that need no word from outside (R22, R25, R100). -/
def contextEvents (s : State) : List (Instr × Subject) :=
  (if s.pkg.state = .rom then [(Instr.bootRomPass, Subject.none)] else []) ++
  (if s.pkg.state = .loading then [(Instr.imageInitialised, Subject.none)] else []) ++
  (match s.pkg.failing with
    | some x => [(Instr.packageMachineCheck, Subject.unit x.1 x.2)]
    | none => []) ++
  about [.droopRecovery] ((s.droops.filter fun e => !e.2.low && 32 ≤ e.2.last).map (·.1)) ++
  about [.preemptionComplete, .contextRelease, .contextIdle, .contextSchedule, .contextRestore] (aKeys s.ctxs)

/-- Every event that could be due, in the order in which they are tried. -/
def allEvents (s : State) : List (Instr × Subject) :=
  mailEvents s ++ memoryEvents s ++ serviceEvents s ++ pathEvents s ++ gangEvents s ++ workgroupEvents s ++ engineEvents s ++
  weightEvents s ++ graphicsEvents s ++ queueEvents s ++ launchEvents s ++ contextEvents s

/-- The first event that is due. -/
def dueEvent (s : State) : Option (Instr × Subject) := (allEvents s).find? (isDue s)

/-- A publication in progress that can take its next step (R393). -/
def duePublication (s : State) : Option Nat := (List.range s.pubs.length).find? fun k => publishStep s k != s

/-- A path that waits within its instruction tries it again, to see whether it would leave the wait. -/
def leavesWait (s : State) (p : Nat) (i : Instr) : Bool :=
  match aGet p s.paths, exec i { s with issuing := some p } with
  | some q, .next t => match aGet p t.paths with
    | some q' => q'.wait != q.wait || q'.pos != q.pos || q'.sup != q.sup || q'.cur != q.cur
    | none => true
  | _, _ => false

/-- Whether a path is ready (R140). -/
def isReady (s : State) (p : Nat) : Bool :=
  match issueOf s p with
  | .stall => false
  | .done _ => true
  | .go t i => match aGet p s.paths with
    | some q => decide (q.wait = .none) || decide (q.wait = .home) || leavesWait t p i
    | none => false

/-- The group scheduler of a path, core · 4 + scheduler (R137). -/
def schedulerOf (s : State) (q : Path) : Nat := coreOf s q * 4 + ((gangOf s q).map (·.sched)).getD 0

/-- The order of R140 among the ready paths of one scheduler. -/
def issueKey (s : State) (e : Nat × Path) : List Nat :=
  let age := match gangOf s e.2 with
    | some g => ageOf s g.wg ++ [g.idx, lowSlice e.2.lanes, e.2.pos.hdr]
    | none => []
  (if 64 ≤ e.2.starve then 0 else 1) :: (if 64 ≤ e.2.starve then 2 ^ 64 - e.2.starve else 0) :: age

/-- Every 65,536 cycles the WAITVs on host memory compare again (R125). -/
def pollWaitv (s : State) : State := s.queues.foldl (fun s e => recheckWaitv s e.1 fun a => !isDevice a) s

/-- The model's clock moves on, and with it the stretches of clusters (R25, log entry 7) and the polls of WAITV. -/
def tick (s : State) : State :=
  let s := { s with clock := s.clock + 1, droops := s.droops.map fun e => (e.1, { e.2 with run := e.2.run + 1, last := e.2.last + 1 }) }
  if s.clock % 65536 = 0 then pollWaitv s else s

/-- Paths of one group scheduler. -/
def pathsOn (s : State) (sched : Nat) : List (Nat × Path) := s.paths.filter fun e => schedulerOf s e.2 == sched

/-- The path that a group scheduler chooses by R140 among its ready ones. One that has asked with YIELD for another to go first gives way to the
next in order, unless it starves or is alone (R53). -/
def chosenOn (s : State) (sched : Nat) : Option Nat :=
  let ready := sortLex (issueKey s) ((pathsOn s sched).filter fun e => isReady s e.1)
  (ready.head?).map fun e =>
    if e.2.prefer && e.2.starve < 64 then ((ready.find? fun x => !x.2.prefer).getD e).1 else e.1

/-- A path in a YIELD goes on (R166), but not one that pre-emption has stopped there (R158). -/
def endYield (x : Path) : Path := if x.wait = .yield && !x.stopped then { x with wait := .none } else x

/-- YIELDs of schedulers other than one at the end of a cycle: each ends where its scheduler had no ready path (R166). -/
def endYields (s : State) (sched : Option Nat) (t : State) : State :=
  let done := s.paths.filter fun e =>
    e.2.wait = .yield && some (schedulerOf s e.2) != sched && (chosenOn s (schedulerOf s e.2)).isNone
  done.foldl (fun t e => modPath t e.1 endYield) t

/-- The end of a turn of path p, whose record was q, in state t: the others of its scheduler that were ready in s and not chosen count
on towards starvation, and a YIELD there has ended (R140, R166). -/
def afterIssue (s : State) (p : Nat) (q : Path) (t : State) : State :=
  let mine := (pathsOn s (schedulerOf s q)).filter fun e => e.1 != p
  let t := mine.foldl (fun t e =>
    let ready := isReady s e.1
    modPath t e.1 fun x =>
      { endYield x with starve := if ready then e.2.starve + 1 else 0, starving := ready && x.starving, prefer := false }) t
  let t := modPath t p fun x => { x with starve := 0, starving := false }
  tick { endYields s (some (schedulerOf s q)) t with issuing := none, turnSched := (schedulerOf s q + 1) % (4 * Config.cores) }

/-- What a turn of path p comes to when its instruction has this outcome. -/
def endTurn (s : State) (p : Nat) (q : Path) (r : Out) : Out :=
  match r with
  | .next t => .next (afterIssue s p q t)
  | r => r

/-- An instruction about to be issued is the last of a clause whose header has YIELD set (R47, R53). -/
def yieldsSlot (s : State) (q : Path) (i : Instr) : Bool :=
  q.pos.word + sizeOf i == q.pos.n + 1 && ((peekWord s q q.pos.hdr).map fun w => hasBit w 8) = some true

/-- The path in a state that is about to issue an instruction, with its YIELD hint for the next issue slot (R53). -/
def withHint (t : State) (p : Nat) (i : Instr) : State := modPath t p fun q => { q with prefer := yieldsSlot t q i }

/-- A turn of one path. -/
def issueTurn (s : State) (p : Nat) : Out :=
  match aGet p s.paths with
  | none => .next s
  | some q => match issueOf s p with
    | .stall => .next s
    | .done t => endTurn s p q (.next (modPath t p fun q => { q with prefer := false }))
    | .go t i => endTurn s p q (exec i { withHint t p i with issuing := some p })

/-- The path that issues next: the schedulers take turns, and each chooses by R140. -/
def chooseIssue (s : State) : Option Nat :=
  let ready := s.paths.filter fun e => isReady s e.1
  let n := 4 * Config.cores
  (minBy (fun e : Nat × Path => (schedulerOf s e.2 + n - s.turnSched) % n) ready).bind fun e => chosenOn s (schedulerOf s e.2)

/-- A turn of path p that the agenda asks for: its scheduler has to choose it (R140). -/
def issueChosen (s : State) (p : Nat) : Out :=
  match aGet p s.paths with
  | some q => if chosenOn s (schedulerOf s q) = some p then issueTurn s p else .next s
  | none => .next s

/-- A cycle in which nothing else happens: YIELDs end, droops last (R25, R166), and WAITVs on host memory are polled (R125). -/
def idleTurn (s : State) : Out :=
  .next (tick (endYields s none s))

/-- A turn of the agenda. -/
def agendaTurn (s : State) (t : Turn) : Out :=
  match t with
  | .event i x => takeEvent s i x
  | .issue p => issueChosen s p
  | .evict core a => .next (evictWord s core a)
  | .evictLine slice c => .next (makeRoom s slice c)
  | .dropTlb core va => .next { s with tlb := s.tlb.filter fun x => !(x.core == core && x.va ≤ va && va < x.va + x.size) }
  | .hostWrite a b => .next (memPut s (hostBase + a % 2 ^ 52) (b.map (· % 256)))
  | .hostPut a b => .next (hostStore s a (b.map (· % 256)))
  | .mask fn vec => .next (maskVector s fn vec true)
  | .exports ws => .next (setExports s ws)
  | .route fabric ports => .next (setRoute s fabric ports)
  | .fabric id => .next (setFabric s id)
  | .publish k => .next (publishStep s k)

/-- The machine's next turn. -/
def nextTurn (s : State) : Out :=
  match s.agenda with
  | t :: ts => agendaTurn { s with agenda := ts } t
  | [] => match dueEvent s with
    | some e => takeEvent s e.1 e.2
    | none => match duePublication s with
      | some k => .next (publishStep s k)
      | none => match chooseIssue s with
        | some p => issueTurn s p
        | none => idleTurn s

end Sys2Proof.Machine
end

