-- ==== Sys2Proof/Machine/Step.lean ====
section
/-! DEFINITION. One step of the machine, and the placing of one instruction where the next step fetches it. -/

namespace Sys2Proof.Machine

/-- One step: the machine's next turn (log entry 1). -/
def step (s : State) : Host.Outcome State Fault Refusal := nextTurn s

/-- The context that runs a placed instruction: the last one of the last virtual function (log entry 24). -/
def placeCtx : Nat := 2047
/-- Its partition. -/
def placePart : Nat := 255
/-- Physical addresses of its three tables, and the address of its code. -/
def placeTables : Nat := 0x10000
def placeCode : Nat := 0x20000

/-- The launch descriptor of a placed instruction: one gang of one slice with every register and tile. -/
def placeDesc : LaunchDesc :=
  { codeAddr := placeCode, codeWords := 3, nside := 0, sideAddr := 0, dataAddr := 0, constAddr := 0, nx := 1, ny := 1, nz := 1,
    vregs := 128, gang := 1, stages := 1, wgSize := 1, scratch := 0, raySlots := 0, accTiles := 96 }

/-- Tables that map the first 64 MiB to themselves, readable, writable and executable, and the clause of the instruction. -/
def placeMemory (s : State) (ws : List Nat) : State :=
  let put (s : State) (a n x : Nat) : State := homeWrite s (whoHome placeCtx) a (toBytes n x)
  let n := if takesTwo (nth ws 0) then 2 else 1
  let s := put s placeTables 8 (placeTables + 0x2000 + 1)
  let s := put s (placeTables + 0x2000) 8 (placeTables + 0x4000 + 1)
  let s := put s (placeTables + 0x4000) 8 0x6F
  let s := put s placeCode 4 (0xB0000000 + n)
  put (put s (placeCode + 4) 4 (nth ws 0)) (placeCode + 8) 4 (nth ws 1)

/-- The workgroup of a placed instruction. -/
def placeWorkgroup (launch : Nat) : Workgroup :=
  { ctx := placeCtx, launch := launch, n := 0, stage := 0, x := 0, y := 0, z := 0, core := some 0, idle := [], lift := [],
    liftGangs := [], incoming := ⟨[], [], []⟩, barriers := List.replicate 16 Barrier.idle, bonds := List.replicate 16 1,
    modes := List.replicate 16 0x00010001,
    step := { isOpen := false, addr := 0, blocks := [], period := 0, tau := 0, primed := 0, stepNo := 0, refresh := false, done := 0,
              maps := [] },
    latch := [], rayQueue := [], finished := false }

/-- The gang of a placed instruction. -/
def placeGang (wg : Nat) : Gang :=
  { wg := wg, idx := 0, kind := .placed, slices := [0], sched := 0, live := 0xF, stack := [], waits := [], parks := [], groups := [],
    nextTag := 0, openBatch := 1, errBatches := [], faults := [], latch := none, frags := [], mail := [], lanes := [],
    rayget := false, lastForm := none, closed := false, since := [] }

/-- The machine with one instruction placed (log entry 24): bits w, numbered as the opcode table numbers them, stand after a header
of the code of a launch whose one path is the next to issue: it has waited longest of all on its scheduler (R140). -/
def State.withFetchWord (s : State) (nbits w : Nat) : State :=
  let s := placeMemory s (tableWords nbits w)
  let id := s.fresh
  let s := { s with
    pkg := { s.pkg with state := .service }
    parts := aSet placePart ⟨false, 1, 4096, 1024⟩ s.parts
    ctxs := aSet placeCtx { Context.blank with state := .running, root := placeTables, part := placePart } s.ctxs
    tlb := s.tlb.filter fun t => t.ctx != placeCtx
    icache := s.icache.filter fun e => e.1 / 2 ^ 64 != placeCtx
    launches := aSet id { ctx := placeCtx, queue := 0, packet := 0, prio := 0, desc := placeDesc, side := [], nextSet := 1, pass := none, room := [] }
      s.launches
    wgs := aSet (id + 1) (placeWorkgroup id) s.wgs
    gangs := aSet (id + 2) (placeGang (id + 1)) s.gangs
    fresh := id + 3 }
  let s := newPath s (id + 2) 0xF ⟨placeCode, 0, 0, 0⟩ false false none
  { modPath s (id + 3) (fun q => { q with starve := 2 ^ 64 }) with agenda := [.issue (id + 3)] }

end Sys2Proof.Machine
end

