-- ==== Sys2Proof/Safety.lean ====
section
/-! DEFINITION. The terms in which claims are stated: which path issues, what an instruction's path becomes, what a next state keeps,
the shapes of results, and what a safe machine is: memory and the scratchpads in their canonical form. -/

namespace Sys2Proof.Machine

/-- Path p, with record q, is the one whose instruction issues (R147). -/
def Issues (s : State) (p : Nat) (q : Path) : Prop := s.issuing = some p ∧ aGet p s.paths = some q

/-- A path past an instruction of k words (R46, R56, R116, R416). -/
def Path.past (q : Path) (k : Nat) : Path :=
  { q with pos := nextPos q.pos k, replay := none, refused := [], wait := .none, cur := none,
           barsync := if q.sup then q.barsync else none }

/-- A path that goes on at a header (R54). -/
def Path.goneTo (q : Path) (a : Nat) : Path :=
  { q with pos := ⟨a, 0, 0, 0⟩, replay := none, refused := [], wait := .none, cur := none,
           barsync := if q.sup then q.barsync else none }

/-- Path p becomes q', and every other path is as it was. -/
def PathBecomes (s t : State) (p : Nat) (q' : Path) : Prop :=
  aGet p t.paths = some q' ∧ ∀ k, k ≠ p → aGet k t.paths = aGet k s.paths

/-- Every byte of memory reads at its home slice as it did (R228). -/
def SameBytes (s t : State) : Prop := ∀ a, peekByte t a = peekByte s a

/-- Every byte of every scratchpad reads as it did (R221). -/
def SameScratch (s t : State) : Prop := ∀ w a n, scratchRead t w a n = scratchRead s w a n

/-- A lane of the issuing path that takes part (R116). -/
def Takes (q : Path) (gid l : Nat) : Prop := gid = q.gang ∧ hasBit (active q) l = true

/-- A slice of the issuing path. -/
def Holds (q : Path) (gid c : Nat) : Prop := gid = q.gang ∧ c ∈ slicesOf q.lanes

/-- Only path p and V registers change. -/
def OnlyV (s t : State) : Prop := { t with v := s.v, paths := s.paths } = s
/-- Only path p and P registers change. -/
def OnlyP (s t : State) : Prop := { t with p := s.p, paths := s.paths } = s
/-- Only path p and G registers change. -/
def OnlyG (s t : State) : Prop := { t with g := s.g, paths := s.paths } = s
/-- Only path p, V registers and FPSTAT's bank change. -/
def OnlyVF (s t : State) : Prop := { t with v := s.v, csr := s.csr, paths := s.paths } = s
/-- Only path p, P registers and FPSTAT's bank change. -/
def OnlyPF (s t : State) : Prop := { t with p := s.p, csr := s.csr, paths := s.paths } = s
/-- Only paths change. -/
def OnlyPaths (s t : State) : Prop := { t with paths := s.paths } = s

/-- V[r] of a lane as a word. -/
def vWord (s : State) (q : Path) (l r : Nat) : Word := BitVec.ofNat 32 (getV s q.gang l r)
/-- The pair V[r], V[r+1] of a lane as one word of 64 bits (R73). -/
def vPair (s : State) (q : Path) (l r : Nat) : DWord := vWord s q l (r + 1) ++ vWord s q l r
/-- G[r] as the path reads it. -/
def gWord (s : State) (q : Path) (r : Nat) : DWord := BitVec.ofNat 64 (getG s q r)

/-- An instruction of k words that writes V[d] in every active lane, changes nothing else and moves its path on. -/
def WritesV (i : Instr) (k d : Nat) (val : State → Path → Nat → Word) : Prop :=
  ∀ s p q, Issues s p q → ∃ t, exec i s = .next t ∧ PathBecomes s t p (q.past k) ∧ OnlyV s t ∧ SameBytes s t ∧
    ∀ gid l r, l < 32 → r < 128 →
      (Takes q gid l ∧ r = d → getV t gid l r = (val s q l).toNat) ∧
      (¬ (Takes q gid l ∧ r = d) → getV t gid l r = getV s gid l r)

/-- The same for a pair of registers: the low half in V[d], the high half in V[d+1] (R73). -/
def WritesPair (i : Instr) (d : Nat) (val : State → Path → Nat → DWord) : Prop :=
  ∀ s p q, Issues s p q → ∃ t, exec i s = .next t ∧ PathBecomes s t p (q.past 1) ∧ OnlyV s t ∧ SameBytes s t ∧
    ∀ gid l r, l < 32 → r < 128 →
      (Takes q gid l ∧ r = d → getV t gid l r = ((val s q l).extractLsb' 0 32).toNat) ∧
      (Takes q gid l ∧ r = d + 1 → getV t gid l r = ((val s q l).extractLsb' 32 32).toNat) ∧
      (¬ (Takes q gid l ∧ (r = d ∨ r = d + 1)) → getV t gid l r = getV s gid l r)

/-- The same for a predicate; P7 discards the write (R11). -/
def WritesP (i : Instr) (d : Nat) (val : State → Path → Nat → Bool) : Prop :=
  ∀ s p q, Issues s p q → ∃ t, exec i s = .next t ∧ PathBecomes s t p (q.past 1) ∧ OnlyP s t ∧ SameBytes s t ∧
    ∀ gid l r, l < 32 → r < 8 →
      (Takes q gid l ∧ r = d ∧ d ≠ 7 → getP t gid l r = val s q l) ∧
      (¬ (Takes q gid l ∧ r = d ∧ d ≠ 7) → getP t gid l r = getP s gid l r)

/-- The same for a G register, written in every slice of the path, where some lane issues (R116, R147, R169), of an instruction that may
issue so. -/
def WritesGIf (i : Instr) (ok : State → Path → Prop) (k d : Nat) (val : State → Path → DWord) : Prop :=
  ∀ s p q, Issues s p q → ok s q → ∃ t, exec i s = .next t ∧ PathBecomes s t p (q.past k) ∧ OnlyG s t ∧ SameBytes s t ∧
    ∀ gid c r, c < 8 → r < 32 →
      (Holds q gid c ∧ active q ≠ 0 ∧ r = d → getGs t gid c r = (val s q).toNat) ∧
      (¬ (Holds q gid c ∧ active q ≠ 0 ∧ r = d) → getGs t gid c r = getGs s gid c r)

/-- The same of an instruction that asks for nothing. -/
def WritesG (i : Instr) (k d : Nat) (val : State → Path → DWord) : Prop := WritesGIf i (fun _ _ => True) k d val

/-- FPSTAT after flags of the active lanes are merged in every slice of the path; the other slice-scope registers are as before. -/
def FlagsMerged (s t : State) (q : Path) (flags : Nat → Nat) : Prop :=
  ∀ gid c i, c < 8 → i < 16 →
    (Holds q gid c ∧ i = csrFpStat → bGet t.csr (csrKey gid c i) =
      (bGet s.csr (csrKey gid c i) ||| (lanesOf (active q)).foldl (fun m l => m ||| flags l) 0) % 2 ^ 64) ∧
    (¬ (Holds q gid c ∧ i = csrFpStat) → bGet t.csr (csrKey gid c i) = bGet s.csr (csrKey gid c i))

/-- An instruction of k words that writes V[d] and merges flags (R189): each active lane gives a value and its flags. -/
def WritesVFlags (i : Instr) (k d : Nat) (val : State → Path → Nat → Nat × Nat) : Prop :=
  ∀ s p q, Issues s p q → ∃ t, exec i s = .next t ∧ PathBecomes s t p (q.past k) ∧ OnlyVF s t ∧ SameBytes s t ∧
    FlagsMerged s t q (fun l => (val s q l).2) ∧
    ∀ gid l r, l < 32 → r < 128 →
      (Takes q gid l ∧ r = d → getV t gid l r = (val s q l).1 % 2 ^ 32) ∧
      (¬ (Takes q gid l ∧ r = d) → getV t gid l r = getV s gid l r)

/-- The same for a pair. -/
def WritesPairFlags (i : Instr) (d : Nat) (val : State → Path → Nat → Nat × Nat) : Prop :=
  ∀ s p q, Issues s p q → ∃ t, exec i s = .next t ∧ PathBecomes s t p (q.past 1) ∧ OnlyVF s t ∧ SameBytes s t ∧
    FlagsMerged s t q (fun l => (val s q l).2) ∧
    ∀ gid l r, l < 32 → r < 128 →
      (Takes q gid l ∧ r = d → getV t gid l r = (val s q l).1 % 2 ^ 32) ∧
      (Takes q gid l ∧ r = d + 1 → getV t gid l r = (val s q l).1 / 2 ^ 32 % 2 ^ 32) ∧
      (¬ (Takes q gid l ∧ (r = d ∨ r = d + 1)) → getV t gid l r = getV s gid l r)

/-- The same for a predicate. -/
def WritesPFlags (i : Instr) (d : Nat) (val : State → Path → Nat → Bool × Nat) : Prop :=
  ∀ s p q, Issues s p q → ∃ t, exec i s = .next t ∧ PathBecomes s t p (q.past 1) ∧ OnlyPF s t ∧ SameBytes s t ∧
    FlagsMerged s t q (fun l => (val s q l).2) ∧
    ∀ gid l r, l < 32 → r < 8 →
      (Takes q gid l ∧ r = d ∧ d ≠ 7 → getP t gid l r = (val s q l).1) ∧
      (¬ (Takes q gid l ∧ r = d ∧ d ≠ 7) → getP t gid l r = getP s gid l r)

/-- The field of x that y names, its width cut at bit 31 (R173). -/
def fieldWord (x y : Word) : Nat × Nat :=
  let w := min ((y >>> 8).toNat % 32) (32 - y.toNat % 32)
  (w, (x >>> (y.toNat % 32)).toNat % 2 ^ w)

/-- The conditions EQ, NE, LT, LE, GT and GE of ICMP by their codes (R60, R174). -/
def holdsCond (c : Nat) (x y : Int) : Bool :=
  if c = 0 then decide (x = y) else if c = 1 then decide (x ≠ y) else if c = 2 then decide (x < y)
  else if c = 3 then decide (x ≤ y) else if c = 4 then decide (x > y) else decide (x ≥ y)

/-- The value a shuffle takes (R180): V[a] of the source lane when it is an active lane of the path, else the lane's own. -/
def shuffled (s : State) (q : Path) (a l : Nat) (j : Int) : Word :=
  if 0 ≤ j ∧ j < 32 ∧ hasBit (active q) j.toNat = true then vWord s q j.toNat a else vWord s q l a

/-- The words of V[a] in the active lanes, ascending (R181). -/
def activeWords (s : State) (q : Path) (a : Nat) : List Word := (lanesOf (active q)).map fun l => vWord s q l a

/-- Two 16-bit elements, the low one first, each with an operation's result, and the flags of both (R74, R194). -/
def packed (f : Nat → Nat × Nat) : Nat × Nat := ((f 0).1 + (f 1).1 * 2 ^ 16, (f 0).2 ||| (f 1).2)

/-- Element i of V[r] (R74). -/
def element (s : State) (q : Path) (l r i : Nat) : Nat := ((vWord s q l r).extractLsb' (16 * i) 16).toNat

/-- The value of a register pair (R73). -/
def pairValue (s : State) (q : Path) (l r : Nat) : Nat := (vPair s q l r).toNat

/-- The fragment that a lane of a path stands for, in a fragment gang (R170, R373). -/
def laneFragment (s : State) (q : Path) (l : Nat) : Option FragLane := (gangOf s q).bind fun g => g.frags.find? fun x => x.lane == l

/-- The value of a pattern by its fields (R75): the exact value of a finite one. The pattern of an infinity gives the next power of two
there, which puts it outside every finite value; a NaN's has no meaning. -/
def fpValue (f : Fmt) (x : Nat) : ℚ :=
  let ex := x / 2 ^ f.fw % 2 ^ f.ew
  (if x / f.signBit % 2 = 1 then -1 else 1) * ((if ex = 0 then x % 2 ^ f.fw else x % 2 ^ f.fw + 2 ^ f.fw : Nat) : ℚ) *
    2 ^ (((max ex 1 : Nat) : ℤ) - f.bias - f.fw)

/-- The finite pattern r is what the rounding mode makes of an exact value (R14, R79): under RNE the nearest, of two nearest the even one;
under RZ the furthest from zero that does not pass the value; under RU the least at or above it; under RD the greatest at or below it. -/
def Rounds (f : Fmt) (mode : Nat) (v : ℚ) (r : Nat) : Prop :=
  (mode = 1 → |fpValue f r| ≤ |v| ∧ 0 ≤ fpValue f r * v) ∧ (mode = 2 → v ≤ fpValue f r) ∧ (mode = 3 → fpValue f r ≤ v) ∧
  ∀ y, isFinite f y = true →
    (mode = 0 → |fpValue f r - v| ≤ |fpValue f y - v| ∧
      (|fpValue f r - v| = |fpValue f y - v| → fpValue f y ≠ fpValue f r → r % 2 = 0)) ∧
    (mode = 1 → |fpValue f y| ≤ |v| → 0 ≤ fpValue f y * v → |fpValue f y| ≤ |fpValue f r|) ∧
    (mode = 2 → v ≤ fpValue f y → fpValue f r ≤ fpValue f y) ∧
    (mode = 3 → fpValue f y ≤ v → fpValue f y ≤ fpValue f r)

/-- The integer that a rounding mode makes of an exact value (R79, R192, R198). -/
def RoundsToInt (mode : Nat) (v : ℚ) (n : ℤ) : Prop :=
  |(n : ℚ) - v| < 1 ∧ (mode = 0 → |(n : ℚ) - v| ≤ 1 / 2 ∧ (|(n : ℚ) - v| = 1 / 2 → n % 2 = 0)) ∧
  (mode = 1 → |(n : ℚ)| ≤ |v|) ∧ (mode = 2 → v ≤ n) ∧ (mode = 3 → (n : ℚ) ≤ v)

/-- Only gangs and paths change. -/
def OnlyGangs (s t : State) : Prop := { t with gangs := s.gangs, paths := s.paths } = s

/-- The machine taking the event an instruction row names, about a subject (log entry 1). -/
def State.about (s : State) (x : Subject) : State := { s with subject := x }

/-- A path that can take a fault at once (R111, R113): at user level, TRAPBASE set when its instruction issued (R109), no other lane of its
slices at supervisor level, and its context not FAULTED. -/
def CanTrap (s : State) (p : Nat) (q : Path) : Prop :=
  q.sup = false ∧ baseOf s q ≠ 0 ∧ levelFree s p q = true ∧ (ctxAt s (ctxOf s q)).state ≠ .faulted

/-- TRAPINFO of a fault by its fields (R107): LANES [63:32], DETAIL [31:16], WORD [15:12], TWO [8], CODE [7:0]. -/
def trapWord (lanes detail word : Nat) (two : Bool) (code : Nat) : DWord :=
  BitVec.ofNat 32 lanes ++ BitVec.ofNat 16 detail ++ BitVec.ofNat 4 word ++ (0#3) ++ BitVec.ofBool two ++ BitVec.ofNat 8 code

/-- Path p enters its handler (R111): in every slice TRAPPC, TRAPINFO and FAULTADDR are written, and beside them the clause that the fault
interrupted, which its return needs (R56, log entry 15); the path goes on at supervisor level at the header at base + 64 · CODE, base being
TRAPBASE as it stood when the instruction at fault issued (R109); no V, G or P register, no FPMODE, no FPSTAT and no byte of memory changes. -/
def TrapsAt (base : Nat) (s t : State) (p : Nat) (q : Path) (two : Bool) (lanes code detail addr : Nat) : Prop :=
  PathBecomes s t p { q with sup := true, pos := ⟨base + 64 * code, 0, 0, 0⟩, wait := .none,
                             cur := none, replay := none, refused := [] } ∧
  { t with csr := s.csr, paths := s.paths } = s ∧ SameBytes s t ∧
  ∀ gid c i, c < 8 → i < 16 →
    (Holds q gid c → i = csrTrapPc → bGet t.csr (csrKey gid c i) = q.pos.hdr % 2 ^ 64) ∧
    (Holds q gid c → i = csrTrapInfo → bGet t.csr (csrKey gid c i) = (trapWord lanes detail q.pos.word two code).toNat) ∧
    (Holds q gid c → i = csrFaultAddr → bGet t.csr (csrKey gid c i) = addr % 2 ^ 64) ∧
    (Holds q gid c → i = csrClauseHdr → bGet t.csr (csrKey gid c i) = q.pos.hdr % 2 ^ 64) ∧
    (Holds q gid c → i = csrClause → bGet t.csr (csrKey gid c i) = (q.pos.cls * 16 + q.pos.n) % 2 ^ 64) ∧
    (¬ (Holds q gid c ∧ i ∈ [csrTrapPc, csrTrapInfo, csrFaultAddr, csrClauseHdr, csrClause]) →
      bGet t.csr (csrKey gid c i) = bGet s.csr (csrKey gid c i))

/-- The same for a fault of the instruction that issues: TRAPBASE as it stood when it first issued, the register's value unless the path has
waited within it since (R109). -/
def Traps (s t : State) (p : Nat) (q : Path) (two : Bool) (lanes code detail addr : Nat) : Prop :=
  TrapsAt (baseOf s q) s t p q two lanes code detail addr

/-- A branch target (R38): the address of the instruction's first word plus four times the sign-extended offset of n bits. -/
def branchAddr (q : Path) (o n : Nat) : Nat :=
  (BitVec.ofNat 64 (wordAddr q.pos) + (BitVec.ofNat n o).signExtend 64 * 4#64).toNat

/-- UBRC's conditions EQZ, NEZ, LTZ, GEZ, LEZ and GTZ by their codes (R163). -/
def holdsZero (c : Nat) (x : DWord) : Bool :=
  if c = 0 then x == 0 else if c = 1 then x != 0 else if c = 2 then decide (x.toInt < 0)
  else if c = 3 then decide (0 ≤ x.toInt) else if c = 4 then decide (x.toInt ≤ 0) else decide (0 < x.toInt)

/-- Lanes of a path whose branch is taken (R163). -/
def takesBranch (s : State) (q : Path) (r n l : Nat) : Bool := hasBit (active q) l && (getP s q.gang l r ^^ (n == 1))

/-- Registers and flags are as they were. -/
def SameRegisters (s t : State) : Prop := t.v = s.v ∧ t.g = s.g ∧ t.p = s.p ∧ t.csr = s.csr

/-- A lane's address (R59, R218): G[g], plus the sign-extended V[off] unless off is 127. -/
def accessAddr (s : State) (q : Path) (g off l : Nat) : Nat :=
  if off = 127 then (gWord s q g).toNat else (gWord s q g + (vWord s q l off).signExtend 64).toNat

/-- An access of n bytes of a context's core whose translation the core's cache holds: a page of device memory that the level may use
so (R210, R212). -/
def MapsFor (s : State) (c core : Nat) (sup : Bool) (acc : Acc) (va n pa leaf : Nat) : Prop :=
  va < 2 ^ 56 ∧ va % n = 0 ∧ permitted sup acc leaf = true ∧ eLoc leaf = 0 ∧ isDevice pa = true ∧
  ∃ e, tlbFind s core c va = some e ∧ e.leaf = leaf ∧ (dirties acc = true → eD leaf = true) ∧ pa = eAddr leaf + va % 2 ^ Nat.log2 e.size

/-- The same for the access of a path. -/
def Maps (s : State) (q : Path) (acc : Acc) (va n pa leaf : Nat) : Prop :=
  MapsFor s (ctxOf s q) (coreOf s q) q.sup acc va n pa leaf

/-- Every active lane's access passes its checks: translated, no unit poisoned, no page refused, and no earlier access of the lane to its
bytes on its way (R246, R253). -/
def LanesMap (s : State) (q : Path) (acc : Acc) (va : Nat → Nat) (n : Nat) : Prop :=
  q.refused = [] ∧ (∃ l, l < 32 ∧ hasBit (active q) l = true) ∧
  ∀ l, l < 32 → hasBit (active q) l = true → ∃ pa leaf, Maps s q acc (va l) n pa leaf ∧ poisonedFor s (coreOf s q) pa n = none ∧
    poisonedVia false s (coreOf s q) pa n = none ∧ poisonedRo s (coreOf s q) pa n = none ∧ laneConflict s q.gang l pa n = false

/-- Nothing is held or asked for at the home slices of some lines (R226, R230, R231), and no slice of the shared caches is so full that a
few lines more would displace one (R238). -/
def LinesIdle (s : State) (lines : List Nat) : Prop :=
  (∀ ln ∈ lines, lineAt s ln = ⟨.unc, [], [], []⟩) ∧ ∀ sl, (sliceHolds s sl).length + 64 ≤ Config.sliceLines

/-- No L1 span, no replica and no owning die holds a line of a byte range, and one core's L1 no word of these lines. -/
def Uncached (s : State) (core a n : Nat) : Prop :=
  LinesIdle s (linesOf a n) ∧ ∀ ln ∈ linesOf a n, ∀ w ∈ spanWords ln 0 32, l1At s core w = none

/-- An instruction of the transform pipe (R67, R200): its issue leaves every register and moves the path on, with an operation in
flight; its write-back writes n registers from d in the lanes that were active, merges their flags, and changes nothing else. -/
def PipeWrites (i : Instr) (ok : State → Path → Prop) (d n : Nat) (val : State → Path → Nat → Nat → Nat)
    (flags : State → Path → Nat → Nat) : Prop :=
  ∀ s p q, Issues s p q → ok s q → ∃ t u, exec i s = .next t ∧ PathBecomes s t p (q.past 1) ∧
    { t with ops := s.ops, fresh := s.fresh, paths := s.paths } = s ∧ (aGet s.fresh t.ops).isSome = true ∧
    (∀ k, k ≠ s.fresh → aGet k t.ops = aGet k s.ops) ∧
    exec .xpipeWriteback (t.about (.one s.fresh)) = .next u ∧
    { u with v := t.v, csr := t.csr, ops := t.ops, subject := t.subject } = t ∧ aGet s.fresh u.ops = none ∧
    (∀ gid l r, l < 32 → r < 128 →
      (∀ j, j < n → Takes q gid l → r = d + j → getV u gid l r = val s q l j % 2 ^ 32) ∧
      (¬ (Takes q gid l ∧ d ≤ r ∧ r < d + n) → getV u gid l r = getV s gid l r)) ∧
    ∀ gid c i, c < 8 → i < 16 →
      (Holds q gid c ∧ i = csrFpStat → bGet u.csr (csrKey gid c i) =
        (bGet s.csr (csrKey gid c i) ||| (lanesOf (active q)).foldl (fun m l => m ||| flags s q l) 0) % 2 ^ 64) ∧
      (¬ (Holds q gid c ∧ i = csrFpStat) → bGet u.csr (csrKey gid c i) = bGet s.csr (csrKey gid c i))

/-- Element (r, c) of the register tile from V[v] of a path: zero in the row of a lane that is not active (R321). -/
def tileElement (s : State) (q : Path) (v r c : Nat) : Nat := if hasBit (active q) r then getV s q.gang r (v + c) else 0

/-- A load whose lanes all pass (R218): the registers are as they were until the data return; the operation in flight holds each
active lane's access of n bytes at its translated address. -/
def LoadIssues (i : Instr) (off g rt n : Nat) : Prop :=
  ∀ s p q, Issues s p q → LanesMap s q .read (accessAddr s q g off) n → coreOf s q ∉ s.roDrops →
    ∃ t o, exec i s = .next t ∧ PathBecomes s t p (q.past 1) ∧ SameRegisters s t ∧ t.scratch = s.scratch ∧ t.acc = s.acc ∧
      aGet s.fresh t.ops = some o ∧ o.kind = .load ∧ o.instr = i ∧ o.gang = q.gang ∧ o.path = p ∧ o.failed = [] ∧
      ∀ l pa leaf, l < 32 → hasBit (active q) l = true → Maps s q .read (accessAddr s q g off l) n pa leaf →
        ∃ a ∈ o.accesses, a.lane = l ∧ a.pa = pa ∧ a.size = n ∧ a.rt = (if rt = 7 then eDrt leaf else rt)

/-- A store whose lanes all pass (R215, R218): no byte of memory changes before its acceptance; the operation in flight holds each
active lane's translated address and the low n bytes of the registers from d. -/
def StoreIssues (i : Instr) (d off g n : Nat) : Prop :=
  ∀ s p q, Issues s p q → LanesMap s q .write (accessAddr s q g off) n →
    ∃ t o, exec i s = .next t ∧ PathBecomes s t p (q.past 1) ∧ SameRegisters s t ∧ t.mem = s.mem ∧ t.scratch = s.scratch ∧
      t.acc = s.acc ∧ aGet s.fresh t.ops = some o ∧ o.kind = .store ∧ o.instr = i ∧ o.gang = q.gang ∧ o.path = p ∧
      ∀ l pa leaf, l < 32 → hasBit (active q) l = true → Maps s q .write (accessAddr s q g off l) n pa leaf →
        ∃ a ∈ o.accesses, a.lane = l ∧ a.pa = pa ∧ a.size = n ∧
          ∀ j, j < n → a.value / 256 ^ j % 256 = (vWord s q l (d + j / 4)).toNat / 256 ^ (j % 4) % 256

/-- A lane's scratchpad address (R221): G[g] plus the signed V[off] unless off is 127. -/
def scratchPlace (s : State) (q : Path) (g off l : Nat) : Int :=
  (gWord s q g).toNat + (if off = 127 then 0 else (vWord s q l off).toInt)

/-- A scratchpad access of n bytes that passes in every active lane (R221). -/
def ScratchMaps (s : State) (q : Path) (g off n : Nat) : Prop :=
  (gWord s q g).toNat < 2 ^ 18 ∧ scratchBytes s q ≤ 2 ^ 18 ∧ (∃ l, l < 32 ∧ hasBit (active q) l = true) ∧
  ∀ l, l < 32 → hasBit (active q) l = true → scratchPlace s q g off l % (n : Int) = 0 ∧ 0 ≤ scratchPlace s q g off l ∧
    scratchPlace s q g off l + n ≤ scratchBytes s q

/-- Byte b of the scratchpad of workgroup w. -/
def scratchByte (s : State) (w b : Nat) : Nat := bGet s.scratch (scratchKey w b)

/-- One path holds every live lane of its gang (R272). -/
def SolePath (s : State) (p : Nat) (q : Path) (g : Gang) : Prop :=
  aSorted s.paths = true ∧ gangOf s q = some g ∧ (∀ e ∈ s.paths, e.2.gang = q.gang → e.1 = p) ∧
  maskDiff g.live q.lanes = 0 ∧ g.live ≠ 0 ∧ g.live < 2 ^ 32

/-- A structure of n bytes at an address that the path can read at issue (R279): its earlier accesses are done, the one page it lies in is
translated, and no cache holds its lines; b are its bytes. -/
def Structure (s : State) (q : Path) (va n : Nat) (b : List Nat) : Prop :=
  q.refused = [] ∧ releaseReady s q.gang q.lanes 0 = true ∧ va % 65536 + n ≤ 65536 ∧
    ∃ pa leaf, Maps s q .read va 1 pa leaf ∧
      poisonedFor s (coreOf s q) pa n = none ∧ Uncached s (coreOf s q) pa n ∧ readBytes s.mem pa n = b

/-- The tensor that a handle names, well formed and within the scratchpad (R279 to R282). -/
def Tensor (s : State) (q : Path) (h : Nat) (d : Desc) : Prop :=
  ctxReg s (ctxOf s q) rTdtBase % 128 = 0 ∧ scratchOut (scratchBytes s q) d = none ∧
  ∃ va b, va = (ctxReg s (ctxOf s q) rTdtBase + 128 * h) % 2 ^ 64 ∧ Structure s q va 128 b ∧ d = descOfBytes va b ∧ descOk b d = true

/-- A barrier that has room for a command's reservation (R270), where a command names one. -/
def BarRoom (s : State) (q : Path) (bar : Option Nat) : Prop :=
  ∀ b, bar = some b → ∃ w, aGet (wgIdOf s q) s.wgs = some w ∧ b < w.barriers.length ∧ (reservation (barrierAt w b)).isSome = true

/-- A command issued by the path (R277, R285, R302): the path is past its instruction; the command is the newest one and has joined the
gang's open batch; on a barrier it has reserved its arrival; no memory, scratchpad or tile has changed yet. -/
def CommandIssued (s t : State) (p : Nat) (q : Path) (i : Instr) (body : CmdBody) (bar : Option Nat) : Prop :=
  PathBecomes s t p (q.past (sizeOf i)) ∧ t.mem = s.mem ∧ t.scratch = s.scratch ∧ t.acc = s.acc ∧ t.v = s.v ∧ t.p = s.p ∧ t.csr = s.csr ∧
  (∃ c, aGet s.fresh t.cmds = some c ∧ c.instr = i ∧ c.body = body ∧ c.bar = bar ∧ c.ctx = ctxOf s q ∧ c.wg = wgIdOf s q ∧
    c.core = coreOf s q ∧ c.accepted = true ∧ c.next = 0 ∧ c.ended = false ∧ c.failed = false ∧
    c.owners = [(q.gang, ((aGet q.gang s.gangs).map (·.openBatch)).getD 1, active q)]) ∧
  (∀ k, k ≠ s.fresh → aGet k t.cmds = aGet k s.cmds) ∧
  ∀ b, bar = some b → ∃ w w' x, aGet (wgIdOf s q) s.wgs = some w ∧ aGet (wgIdOf s q) t.wgs = some w' ∧
    reservation (barrierAt w b) = some x ∧ barrierAt w' b = x

/-- A command that has completed (R277, R296, R314): it is gone, its barrier has its arrival, and its owners' batches are in error
if it failed; no register and no byte of memory changes. -/
def CommandOver (s t : State) (id : Nat) (c : Cmd) : Prop :=
  aGet id t.cmds = none ∧ (∀ k, k ≠ id → aGet k t.cmds = aGet k s.cmds) ∧ SameRegisters s t ∧ t.mem = s.mem ∧ t.paths = s.paths ∧
  (∀ b w, c.bar = some b → aGet c.wg s.wgs = some w → b < w.barriers.length → ∃ w', aGet c.wg t.wgs = some w' ∧
    barrierAt w' b = engineArrival (barrierAt w b) c.failed) ∧
  (c.failed = false → t.gangs = s.gangs) ∧
  (c.failed = true → ∀ o ∈ c.owners, ∀ g, aGet o.1 s.gangs = some g → ∃ g', aGet o.1 t.gangs = some g' ∧ o.2.1 ∈ g'.errBatches)

/-- Byte b of the scratchpad that an element address of a command's tensor names. -/
def unitByte (s : State) (wg : Nat) (d : Desc) (j i : Nat) : Nat := scratchByte s wg ((unitAt d j).toNat + i)

/-- An element of a tile and its special state after some partials are added (R90, R91). -/
def accumulated (anchor : Int) (x : Nat × Nat) (ps : List Partial) : Nat × Nat :=
  ps.foldl (fun y a => ((accumulate anchor y.1 y.2 a).1, (accumulate anchor y.1 y.2 a).2.1)) x

/-- An element of a tile with its special state. -/
def elementAt (s : State) (wg t e : Nat) : Nat × Nat := (getElem s wg t e, smapAt (tileOf s wg t).smap e)

/-- No tile of a workgroup but one changes, in the elements and in the metadata. -/
def OnlyTile (s t : State) (wg tile : Nat) : Prop :=
  (∀ w k e, e < 1024 → ¬ (w = wg ∧ k = tile) → k < 96 → tile < 96 → getElem t w k e = getElem s w k e) ∧
  (∀ w k, ¬ (w = wg ∧ k = tile) → k < 96 → tile < 96 → tileOf t w k = tileOf s w k)

/-- A crew of the issuing gang alone that R299 accepts, with the format block that the path reads (R304, R305). -/
def CrewOfOne (s : State) (q : Path) (g f : Nat) (mjob scales : Bool) (bytes : List Nat) (fb : FormatBlock) : Prop :=
  crewOk (getG s q g) (((descOf s q).map (·.wgSize)).getD 1) (((gangOf s q).map (·.idx)).getD 0) = true ∧
  bits (getG s q g) 2 0 = 1 ∧ getG s q f % 32 = 0 ∧ Structure s q (getG s q f) 32 bytes ∧ fb = formatOfBytes (getG s q f) bytes ∧
  formatOk bytes fb mjob scales = true ∧
  ∃ w x, wgOfPath s q = some w ∧ gangOf s q = some x ∧ (w.latch.head?).any (fun m => (crewIds m.word).contains x.idx) = false

/-- The access of an engine or a queue front end for a context at user level, of n bytes within one page that the core's cache
translates, at lines that no cache holds (R210, R212, R293, R294). -/
def EngineMaps (s : State) (c core : Nat) (acc : Acc) (va n pa : Nat) : Prop :=
  0 < n ∧ va % 65536 + n ≤ 65536 ∧ (∃ leaf, MapsFor s c core false acc va 1 pa leaf) ∧ LinesIdle s (linesOf pa n)

/-- A structure that an engine or a queue front end reads: b are its bytes. -/
def EngineStructure (s : State) (c core va n : Nat) (b : List Nat) : Prop :=
  ∃ pa, EngineMaps s c core .read va n pa ∧ poisonedAt s (dieOf core) pa n = none ∧ readBytes s.mem pa n = b

/-- A launch descriptor's bytes that pass R132, with its side table: the entries' bytes are bs, and its first header can be read. -/
def LaunchReads (s : State) (c core : Nat) (b : List Nat) (bs : List (List Nat)) : Prop :=
  let d := launchOfBytes b
  launchRanges b d = true ∧ bs.length = d.nside ∧ (∀ i e, bs[i]? = some e → EngineStructure s c core (d.sideAddr + 32 * i) 32 e) ∧
  (∃ h, EngineStructure s c core d.codeAddr 4 h) ∧ sideOk d.codeWords bs = true ∧ launchFits s c d = true

/-- A target that OPEN opens (R347, R349): its descriptor at a, whose bytes are b, names no method and asks for no CLEAR; pst is where
STATE lies, and cov where each line of the coverage plane does. -/
def CanOpen (s : State) (c core a queue : Nat) (b : List Nat) (pst : Nat) (cov : Nat → Nat) : Prop :=
  let d := targetOfBytes b
  let n := d.width * d.height
  a % 256 = 0 ∧ EngineStructure s c core a 256 b ∧ targetOk b d = true ∧ d.pmask = 0 ∧ d.sealm = 0 ∧ clears d = false ∧
  (nth b 0 = tgtCreated ∨ nth b 0 = tgtSealed) ∧
  (∀ f, (queueAt s queue).frame = some f → (boundTo s f).length < 8) ∧
  (∀ k, 128 * k < n → EngineMaps s c core .write (d.cover + 128 * k) (min 128 (n - 128 * k)) (cov k)) ∧ EngineMaps s c core .write a 1 pst

/-- A target that has been opened (R347, R349, R350): captured and bound to the queue's frame, STATE OPENED, coverage zero. -/
def Opened (s t : State) (c a queue : Nat) (b : List Nat) (pst : Nat) (cov : Nat → Nat) : Prop :=
  let d := targetOfBytes b
  (∃ x, aGet (tgtKey c a) t.targets = some x ∧ x.ctx = c ∧ x.addr = a ∧ x.desc = d ∧ x.bound = (queueAt s queue).frame ∧
    x.sealing = false ∧ ∀ ops ∈ x.ops, ops = []) ∧
  (∀ k, k ≠ tgtKey c a → aGet k t.targets = aGet k s.targets) ∧ bGet t.mem pst = tgtOpened ∧
  ∀ k i, 128 * k < d.width * d.height → i < min 128 (d.width * d.height - 128 * k) → cov k + i ≠ pst → bGet t.mem (cov k + i) = 0

/-- A target that SEAL seals (R349): captured, OPENED, not yet sealing; where it is bound, no line that a shared cache holds is in motion. -/
def CanSeal (s : State) (c core a pst : Nat) (x : Target) : Prop :=
  aGet (tgtKey c a) s.targets = some x ∧ x.sealing = false ∧ EngineStructure s c core a 1 [tgtOpened] ∧ EngineMaps s c core .write a 1 pst ∧
  (x.bound ≠ none → ∀ y ∈ s.cache, lineAt s y.line = ⟨.unc, [], [], []⟩)

/-- A target whose seal has begun (R349, R350, R365): SEALING, and unbound; the bins of the frame it was bound to are empty, and their
triangles make a pass, with order entries in this target, for a packet of a queue. -/
def Sealing (s t : State) (c a pst : Nat) (x : Target) (queue packet : Nat) : Prop :=
  aGet (tgtKey c a) t.targets = some { x with bound := none, sealing := true } ∧
  (∀ k, k ≠ tgtKey c a → aGet k t.targets = aGet k s.targets) ∧ bGet t.mem pst = tgtSealing ∧
  (∀ b, b ≠ pst → bGet t.mem b = bGet s.mem b) ∧
  ∀ f fr r, x.bound = some f → aGet f s.frames = some fr → aGet f t.frames = some { fr with tris := [], used := 0 } ∧
    (fr.raster = some r → fr.tris ≠ [] → ∃ ps, aGet s.fresh t.passes = some ps ∧ ps.frame = f ∧ ps.raster = r ∧ ps.tris = fr.tris ∧
      ps.queue = queue ∧ ps.packet = packet ∧ ps.started = false ∧ ps.targets = [tgtKey c a])

/-- A texel of n bytes at a virtual address that a path reads through the read-only path with no cache holding its line (R255, R363). -/
def TexelReads (s : State) (q : Path) (va n code : Nat) : Prop :=
  ∃ pa leaf, Maps s q .read va n pa leaf ∧ poisonedRo s (coreOf s q) pa n = none ∧ pa / 128 = (pa + n - 1) / 128 ∧
    Uncached s (coreOf s q) (pa / 128 * 128) 128 ∧ (∀ x ∈ s.ro, ¬ (x.core = coreOf s q ∧ x.line = pa / 128)) ∧ code = readMem s.mem pa n

/-- Triangles as bin memory records them from an offset on (R369): each where the one before it ends. -/
def placedTris (r : Raster) : Nat → List Tri → List Tri
  | _, [] => []
  | u, t :: ts => { t with off := some u } :: placedTris r (u + triBytes t r) ts

/-- SMP and SMPL issued (R66, R363): the path is past its instruction, no register has changed, and the operation in flight holds each
active lane's four components for the quad from dst. -/
def Samples (s t : State) (p : Nat) (q : Path) (i : Instr) (la dst : Nat) (value : Nat → List Nat) : Prop :=
  PathBecomes s t p (q.past (sizeOf i)) ∧ SameRegisters s t ∧ ∃ o, aGet s.fresh t.ops = some o ∧ o.kind = .sample ∧ o.instr = i ∧
    o.gang = q.gang ∧ o.left = 0 ∧ o.ahead = some la ∧ o.count = some .loads ∧
    o.writes = (lanesOf (active q)).flatMap fun l => (value l).zipIdx.map fun v => (vKey q.gang l (dst + v.2), v.1)

/-- A ray slot that a lane's index names, clean, in one of some states (R375, R376). -/
def SlotIs (s : State) (q : Path) (j : Nat) (states : List Nat) : Prop :=
  j < ((descOf s q).map (·.raySlots)).getD 0 ∧ slotPlace s q j 128 ≤ 2 ^ 18 ∧ slotGet s q j oState 1 ∈ states ∧
  ∀ w u, ErrorPlace.scratch w u ∉ s.poison

/-- A spill area that passes its checks (R384): base aligned, all of it in the workgroup's scratchpad. -/
def SpillFits (s : State) (q : Path) (g : Nat) : Prop :=
  getG s q g < 2 ^ 18 ∧ getG s q g % 8 = 0 ∧ scratchBytes s q ≤ 2 ^ 18 ∧ getG s q g + 160 * 32 ≤ scratchBytes s q ∧
  ∀ w u, ErrorPlace.scratch w u ∉ s.poison

/-- A node that a lane tests: translated, in no cache, clean; b are its bytes (R386). -/
def NodeReads (s : State) (q : Path) (va : Nat) (b : List Nat) : Prop :=
  ∃ pa leaf, Maps s q .read va 128 pa leaf ∧ poisonedAt s (dieOf (coreOf s q)) pa 128 = none ∧ b = readBytes s.mem pa 128 ∧
    LinesIdle s (linesOf pa 128) ∧
    ∀ x ∈ s.nodes, ¬ (x.core = coreOf s q ∧ x.addr = pa)

/-- The packet at a queue's read pointer can start (R122 to R124, R126): its context is RUNNING, the queue ACTIVE or BLOCKED and awaiting
no page, all its granules written and well formed, no WAITV waits and no FRAME completes an older frame, and it need not wait for the packets before it; b are its bytes, of a
NOP the first granule's. -/
def PacketReads (s : State) (k : Nat) (b : List Nat) : Prop :=
  let h := ofBytes (b.take 8)
  let n := ringSize s k
  (ctxAt s (k / 16)).state = .running ∧ ((queueAt s k).state = .active ∨ (queueAt s k).state = .blocked) ∧ (queueAt s k).waiting = none ∧
  qReg s k qWptr ≠ qReg s k qRptr ∧ headerCode h (qReg s k qRptr) n = none ∧ hLen h ≤ (qReg s k qWptr + n - qReg s k qRptr) % n ∧
  EngineStructure s (k / 16) frontCore ((qReg s k qBase + 16 * qReg s k qRptr) % 2 ^ 64) (if hOp h = 0 then 16 else 16 * hLen h) b ∧
  bodyCode h b = none ∧ (∀ x ∈ (queueAt s k).packets, x.wait ≠ .waitv ∧ x.wait ≠ .frame) ∧
  (hBarrier h = true ∨ implicitBarrier (hOp h) = true → (queueAt s k).packets = [])

/-- A byte that no L1 holds and that no request queued at a home slice writes: only a new write changes it in memory. -/
def Settled (s : State) (a : Nat) : Prop := (∀ core, l1At s core a = none) ∧ ∀ e ∈ s.lines, ∀ r ∈ e.2.queue, hasAddr r.bytes a = false

/-- A packet has started (R123, R128): QRPTR is past it, it awaits its completion as the newest of the queue's packets, and the queue is
ACTIVE, or BLOCKED by a WAITV; no register of a path, no other queue, no vector, and no byte changes but some that are written,
those of words that an L1 holds, which a release may write back, and those of writes already queued at their home slice. -/
def PacketStarts (s t : State) (k : Nat) (b : List Nat) (w : PacketWait) (frame : Option Nat) (written : Nat → Prop) : Prop :=
  let q := queueAt s k
  let h := ofBytes (b.take 8)
  aGet k t.queues = some { q with
    state := if w = .waitv then .blocked else .active
    hold := if w = .waitv then .waitv else .none
    nextSeq := q.nextSeq + 1
    frame := frame
    packets := q.packets ++ [⟨q.nextSeq, qReg s k qRptr, h, b, w⟩] } ∧
  qReg t k qRptr = (if hOp h = 9 then 0 else (qReg s k qRptr + hLen h) % ringSize s k) ∧
  (∀ j, j ≠ k → aGet j t.queues = aGet j s.queues) ∧ SameRegisters s t ∧ t.paths = s.paths ∧ t.vectors = s.vectors ∧
  ∀ a, ¬ written a → Settled s a → bGet t.mem a = bGet s.mem a

/-- A mailbox of a function runs a command of one code (R101, R103): BUSY, a code that the package's state takes, and bits [63:12] of
MBCMD zero as it was written. -/
def MailRuns (s : State) (fn code : Nat) : Prop :=
  hasBit (mbReg s fn 1) 0 = true ∧ bits (mbCommand s fn) 7 0 = code ∧ mailCodeOk s fn code = true ∧ bits (mbCommand s fn) 63 12 = 0

/-- A mailbox command has completed with status 0 (R101): BUSY is clear, the results stand in the result registers and the others read
zero, the command and its parameters stay, no other mailbox changes, and vector 0 of the function is raised. -/
def MailDone (s t : State) (fn : Nat) (results : List (Nat × Nat)) : Prop :=
  mbReg t fn 1 = 0 ∧ (∀ i, i < 32 → (∀ r ∈ results, r.1 ≠ i) → mbReg t fn (32 + i) = 0) ∧
  (∀ r ∈ results, mbReg t fn (32 + r.1) = r.2 % 2 ^ 64) ∧ (∀ j, j < 32 → j ≠ 1 → mbReg t fn j = mbReg s fn j) ∧
  (∀ k, k / 64 ≠ fn → bGet t.mbx k = bGet s.mbx k) ∧
  ∀ y, aGet (fn * 256) s.vectors = some y →
    aGet (fn * 256) t.vectors = some (if y.masked then ⟨true, true, y.sent, none⟩ else ⟨false, y.pending, y.sent + 1, none⟩)

/-- Memory and the scratchpads are in their canonical form: the invariant that every step keeps. -/
def Canonical (s : State) : Prop := Memory.wf s.mem = true ∧ Memory.wf s.scratch = true

end Sys2Proof.Machine
end

