-- ==== Sys2Proof/Certificates/Slice0/Obligations.lean ====
section
/-! DEFINITION. The statements about the model, from the manual's numbered rules, for the provers. -/

open Sys2Proof Sys2Proof.Machine

/-- R172: the 32-bit additions, products, minima and maxima of IARITH, written in every active lane and nowhere else. R172, R175, R192
(FNEG, FABS, FCPYS): logic, shifts by the low five bits of the amount, and the immediate forms. -/
def Obligations.LaneArithmetic : Prop := (∀ d a b, d < 128 → a < 128 → b < 128 →
  WritesV (.iadd d a b) 1 d (fun s q l => vWord s q l a + vWord s q l b) ∧
  WritesV (.isub d a b) 1 d (fun s q l => vWord s q l a - vWord s q l b) ∧
  WritesV (.imul d a b) 1 d (fun s q l => vWord s q l a * vWord s q l b) ∧
  WritesV (.imulh d a b) 1 d (fun s q l => BitVec.ofInt 32 ((vWord s q l a).toInt * (vWord s q l b).toInt / 2 ^ 32)) ∧
  WritesV (.imulhu d a b) 1 d (fun s q l => BitVec.ofNat 32 ((vWord s q l a).toNat * (vWord s q l b).toNat / 2 ^ 32)) ∧
  WritesV (.imin d a b) 1 d (fun s q l => if (vWord s q l a).slt (vWord s q l b) then vWord s q l a else vWord s q l b) ∧
  WritesV (.imax d a b) 1 d (fun s q l => if (vWord s q l a).slt (vWord s q l b) then vWord s q l b else vWord s q l a) ∧
  WritesV (.iminu d a b) 1 d (fun s q l => if (vWord s q l a).ult (vWord s q l b) then vWord s q l a else vWord s q l b) ∧
  WritesV (.imaxu d a b) 1 d (fun s q l => if (vWord s q l a).ult (vWord s q l b) then vWord s q l b else vWord s q l a) ∧
  WritesV (.iaddsat d a b) 1 d (fun s q l =>
    BitVec.ofInt 32 (max (-(2 ^ 31)) (min (2 ^ 31 - 1) ((vWord s q l a).toInt + (vWord s q l b).toInt))))) ∧
  (∀ d a b i n, d < 128 → a < 128 → b < 128 → i < 4096 → n < 32 →
  WritesV (.and d a b) 1 d (fun s q l => vWord s q l a &&& vWord s q l b) ∧
  WritesV (.or d a b) 1 d (fun s q l => vWord s q l a ||| vWord s q l b) ∧
  WritesV (.xor d a b) 1 d (fun s q l => vWord s q l a ^^^ vWord s q l b) ∧
  WritesV (.andn d a b) 1 d (fun s q l => vWord s q l a &&& ~~~vWord s q l b) ∧
  WritesV (.shl d a b) 1 d (fun s q l => vWord s q l a <<< ((vWord s q l b).toNat % 32)) ∧
  WritesV (.shr d a b) 1 d (fun s q l => vWord s q l a >>> ((vWord s q l b).toNat % 32)) ∧
  WritesV (.sar d a b) 1 d (fun s q l => (vWord s q l a).sshiftRight ((vWord s q l b).toNat % 32)) ∧
  WritesV (.rotl d a b) 1 d (fun s q l => (vWord s q l a).rotateLeft ((vWord s q l b).toNat % 32)) ∧
  WritesV (.iaddi d a i) 1 d (fun s q l => vWord s q l a + (BitVec.ofNat 12 i).signExtend 32) ∧
  WritesV (.andi d a i) 1 d (fun s q l => vWord s q l a &&& BitVec.ofNat 32 i) ∧
  WritesV (.ori d a i) 1 d (fun s q l => vWord s q l a ||| BitVec.ofNat 32 i) ∧
  WritesV (.xori d a i) 1 d (fun s q l => vWord s q l a ^^^ BitVec.ofNat 32 i) ∧
  WritesV (.shli d a n) 1 d (fun s q l => vWord s q l a <<< n) ∧
  WritesV (.shri d a n) 1 d (fun s q l => vWord s q l a >>> n) ∧
  WritesV (.sari d a n) 1 d (fun s q l => (vWord s q l a).sshiftRight n) ∧
  WritesV (.rotli d a n) 1 d (fun s q l => (vWord s q l a).rotateLeft n) ∧
  WritesV (.fneg d a) 1 d (fun s q l => vWord s q l a ^^^ 0x80000000#32) ∧
  WritesV (.fabs d a) 1 d (fun s q l => vWord s q l a &&& 0x7FFFFFFF#32) ∧
  WritesV (.fcpys d a b) 1 d (fun s q l => (vWord s q l a &&& 0x7FFFFFFF#32) ||| (vWord s q l b &&& 0x80000000#32)))

/-- R172, R173: bit counts, reversals and bit fields. -/
def Obligations.LaneBits : Prop := ∀ d a b, d < 128 → a < 128 → b < 128 →
  WritesV (.popc d a) 1 d (fun s q l => BitVec.ofNat 32 ((List.range 32).countP fun i => (vWord s q l a).getLsbD i)) ∧
  WritesV (.clz d a) 1 d (fun s q l => BitVec.ofNat 32 ((List.range 32).takeWhile fun i => !(vWord s q l a).getMsbD i).length) ∧
  WritesV (.ctz d a) 1 d (fun s q l => BitVec.ofNat 32 ((List.range 32).takeWhile fun i => !(vWord s q l a).getLsbD i).length) ∧
  WritesV (.brev d a) 1 d (fun s q l => (vWord s q l a).reverse) ∧
  WritesV (.bswap d a) 1 d (fun s q l => (vWord s q l a).extractLsb' 0 8 ++ (vWord s q l a).extractLsb' 8 8 ++
    (vWord s q l a).extractLsb' 16 8 ++ (vWord s q l a).extractLsb' 24 8) ∧
  WritesV (.bfeu d a b) 1 d (fun s q l => BitVec.ofNat 32 (fieldWord (vWord s q l a) (vWord s q l b)).2) ∧
  WritesV (.bfe d a b) 1 d (fun s q l =>
    let f := fieldWord (vWord s q l a) (vWord s q l b)
    BitVec.ofInt 32 (BitVec.ofNat f.1 f.2).toInt) ∧
  WritesV (.bfi d a b) 1 d (fun s q l =>
    let w := (fieldWord (vWord s q l a) (vWord s q l b)).1
    let pos := (vWord s q l b).toNat % 32
    let mask : Word := BitVec.ofNat 32 (2 ^ w - 1) <<< pos
    (vWord s q l d &&& ~~~mask) ||| ((vWord s q l a <<< pos) &&& mask))

/-- R172: the 64-bit forms on pairs. -/
def Obligations.LanePairs : Prop := ∀ d a b, d < 127 → a < 127 → b < 127 → d % 2 = 0 → a % 2 = 0 →
  (b % 2 = 0 → WritesPair (.iadd64 d a b) d (fun s q l => vPair s q l a + vPair s q l b) ∧
    WritesPair (.isub64 d a b) d (fun s q l => vPair s q l a - vPair s q l b)) ∧
  WritesPair (.shl64 d a b) d (fun s q l => vPair s q l a <<< ((vWord s q l b).toNat % 64)) ∧
  WritesPair (.shr64 d a b) d (fun s q l => vPair s q l a >>> ((vWord s q l b).toNat % 64))

/-- R174, R179, R181: integer comparisons, predicate logic and votes; a write of P7 is discarded (R11). -/
def Obligations.Predicates : Prop := ∀ d a b, d < 8 →
  (a < 128 → b < 128 → ∀ c, c < 6 →
    WritesP (.icmpI32 d c a b) d (fun s q l => holdsCond c (vWord s q l a).toInt (vWord s q l b).toInt) ∧
    WritesP (.icmpN32 d c a b) d (fun s q l => holdsCond c (vWord s q l a).toNat (vWord s q l b).toNat) ∧
    (a % 2 = 0 → b % 2 = 0 →
      WritesP (.icmpI64 d c a b) d (fun s q l => holdsCond c (vPair s q l a).toInt (vPair s q l b).toInt) ∧
      WritesP (.icmpN64 d c a b) d (fun s q l => holdsCond c (vPair s q l a).toNat (vPair s q l b).toNat))) ∧
  (a < 8 → b < 8 →
    WritesP (.pand d a b) d (fun s q l => getP s q.gang l a && getP s q.gang l b) ∧
    WritesP (.por d a b) d (fun s q l => getP s q.gang l a || getP s q.gang l b) ∧
    WritesP (.pxor d a b) d (fun s q l => getP s q.gang l a ^^ getP s q.gang l b) ∧
    WritesP (.pandn d a b) d (fun s q l => getP s q.gang l a && !getP s q.gang l b) ∧
    WritesP (.voteany d a) d (fun s q _ => (lanesOf (active q)).any fun l => getP s q.gang l a) ∧
    WritesP (.voteall d a) d (fun s q _ => (lanesOf (active q)).all fun l => getP s q.gang l a))

/-- R176, R177, R178, R185: constants, selection, multiply-add and copies from G registers. -/
def Obligations.LaneMoves : Prop := ∀ d a b c, d < 128 → a < 128 → b < 128 → c < 128 →
  (∀ i, i < 65536 → WritesV (.movi d i) 1 d (fun _ _ _ => BitVec.ofNat 32 i)) ∧
  (∀ i, i < 65536 → WritesV (.movhi d i) 1 d (fun s q l => BitVec.ofNat 16 i ++ (vWord s q l d).extractLsb' 0 16)) ∧
  (∀ i, i < 2 ^ 32 → WritesV (.lit d i) 2 d (fun _ _ _ => BitVec.ofNat 32 i)) ∧
  (∀ p n, p < 8 → n < 2 → WritesV (.sel d a b p n) 1 d (fun s q l =>
    if getP s q.gang l p ^^ (n == 1) then vWord s q l a else vWord s q l b)) ∧
  WritesV (.imad d a b c) 2 d (fun s q l => vWord s q l a * vWord s q l b + vWord s q l c) ∧
  (∀ g, g < 32 → WritesV (.bcast d g) 1 d (fun s q _ => (gWord s q g).extractLsb' 0 32) ∧
    WritesV (.bcasthi d g) 1 d (fun s q _ => (gWord s q g).extractLsb' 32 32))

/-- R180, R187: the eight shuffles read active lanes of the path only. R181, R182: reductions over the active lanes: the sum, an extreme
value that some lane holds and no lane passes, the ballot's bits, and the FP32 tree with its flags merged. A path with active lanes is
meant; without any, nothing is written. -/
def Obligations.LaneExchange : Prop := (∀ d a b k, d < 128 → a < 128 → b < 128 → k < 32 →
  WritesV (.shflidx d a b) 1 d (fun s q l => shuffled s q a l ((vWord s q l b).toNat % 32 : Nat)) ∧
  WritesV (.shflup d a b) 1 d (fun s q l => shuffled s q a l ((l : Int) - ((vWord s q l b).toNat % 32 : Nat))) ∧
  WritesV (.shfldn d a b) 1 d (fun s q l => shuffled s q a l ((l : Int) + ((vWord s q l b).toNat % 32 : Nat))) ∧
  WritesV (.shflxor d a b) 1 d (fun s q l => shuffled s q a l ((l ^^^ ((vWord s q l b).toNat % 32) : Nat) : Int)) ∧
  WritesV (.shflidxi d a k) 1 d (fun s q l => shuffled s q a l k) ∧
  WritesV (.shflupi d a k) 1 d (fun s q l => shuffled s q a l ((l : Int) - k)) ∧
  WritesV (.shfldni d a k) 1 d (fun s q l => shuffled s q a l ((l : Int) + k)) ∧
  WritesV (.shflxori d a k) 1 d (fun s q l => shuffled s q a l ((l ^^^ k : Nat) : Int))) ∧
  (∀ d a, d < 128 → a < 128 →
  WritesV (.redadd d a) 1 d (fun s q _ => (activeWords s q a).foldr (· + ·) 0) ∧
  (∃ lo hi : State → Path → Word,
    (∀ s q, activeWords s q a ≠ [] → lo s q ∈ activeWords s q a ∧ hi s q ∈ activeWords s q a ∧
      ∀ x ∈ activeWords s q a, ¬ x.slt (lo s q) ∧ ¬ (hi s q).slt x) ∧
    WritesV (.redmin d a) 1 d (fun s q _ => lo s q) ∧ WritesV (.redmax d a) 1 d (fun s q _ => hi s q)) ∧
  (a < 8 → ∃ ballot : State → Path → Word,
    (∀ s q j, j < 32 → (ballot s q).getLsbD j = (hasBit (active q) j && getP s q.gang j a)) ∧
    WritesV (.ballot d a) 1 d (fun s q _ => ballot s q)) ∧
  WritesVFlags (.redaddf d a) 1 d (fun s q _ => treeSum (fpMode s q)
    ((List.range 32).map fun l => if hasBit (active q) l then some (getV s q.gang l a) else none)))

/-- R183, R184, R185: the uniform instructions on 64-bit G registers. R170, R171, R185: MOVSR gives each lane its own number, slice, gang
index, workgroup coordinates, grid (0 in a fragment workgroup), stage and core, and a fragment's lane the values of its fragment, any other
lane 0; %bary and %cyc fill a pair. What %cyc holds at reset is a free value of the model (log
entry 7): the statement holds for every value. -/
def Obligations.UniformAndSpecial : Prop := (∀ d a b, d < 32 → a < 32 → b < 32 →
  WritesG (.uadd d a b) 1 d (fun s q => gWord s q a + gWord s q b) ∧
  WritesG (.usub d a b) 1 d (fun s q => gWord s q a - gWord s q b) ∧
  WritesG (.umul d a b) 1 d (fun s q => gWord s q a * gWord s q b) ∧
  WritesG (.uand d a b) 1 d (fun s q => gWord s q a &&& gWord s q b) ∧
  WritesG (.uor d a b) 1 d (fun s q => gWord s q a ||| gWord s q b) ∧
  WritesG (.uxor d a b) 1 d (fun s q => gWord s q a ^^^ gWord s q b) ∧
  WritesG (.ushl d a b) 1 d (fun s q => gWord s q a <<< ((gWord s q b).toNat % 64)) ∧
  WritesG (.ushr d a b) 1 d (fun s q => gWord s q a >>> ((gWord s q b).toNat % 64)) ∧
  WritesG (.usar d a b) 1 d (fun s q => (gWord s q a).sshiftRight ((gWord s q b).toNat % 64)) ∧
  WritesG (.umin d a b) 1 d (fun s q => if (gWord s q a).slt (gWord s q b) then gWord s q a else gWord s q b) ∧
  WritesG (.umax d a b) 1 d (fun s q => if (gWord s q a).slt (gWord s q b) then gWord s q b else gWord s q a) ∧
  WritesG (.uslt d a b) 1 d (fun s q => if (gWord s q a).slt (gWord s q b) then 1 else 0) ∧
  WritesG (.usltn d a b) 1 d (fun s q => if (gWord s q a).ult (gWord s q b) then 1 else 0) ∧
  WritesG (.useq d a b) 1 d (fun s q => if gWord s q a = gWord s q b then 1 else 0) ∧
  (∀ i, i < 2 ^ 21 → WritesG (.umovi d i) 1 d (fun _ _ => (BitVec.ofNat 21 i).signExtend 64)) ∧
  (∀ i, i < 2 ^ 32 → WritesG (.ulit d i) 2 d (fun _ _ => BitVec.ofNat 64 i) ∧
    WritesG (.ulithi d i) 2 d (fun s q => BitVec.ofNat 32 i ++ (gWord s q d).extractLsb' 0 32)) ∧
  (∀ v n, v < 128 → n < 32 → WritesG (.rdlane d v n) 1 d (fun s q =>
    if hasBit (active q) n then (vWord s q n v).setWidth 64 else 0))) ∧
  (∀ d, d < 128 →
  WritesV (.movsr d 0) 1 d (fun _ _ l => BitVec.ofNat 32 l) ∧
  WritesV (.movsr d 1) 1 d (fun _ _ l => BitVec.ofNat 32 (l / 4)) ∧
  WritesV (.movsr d 2) 1 d (fun s q _ => BitVec.ofNat 32 (((gangOf s q).map (·.idx)).getD 0)) ∧
  WritesV (.movsr d 3) 1 d (fun s q _ => BitVec.ofNat 32 (((wgOfPath s q).map (·.x)).getD 0)) ∧
  WritesV (.movsr d 4) 1 d (fun s q _ => BitVec.ofNat 32 (((wgOfPath s q).map (·.y)).getD 0)) ∧
  WritesV (.movsr d 5) 1 d (fun s q _ => BitVec.ofNat 32 (((wgOfPath s q).map (·.z)).getD 0)) ∧
  WritesV (.movsr d 6) 1 d (fun s q _ => if isFragmentWg s q then 0 else BitVec.ofNat 32 (((descOf s q).map (·.nx)).getD 0)) ∧
  WritesV (.movsr d 7) 1 d (fun s q _ => BitVec.ofNat 32 (((descOf s q).map (·.ny)).getD 0)) ∧
  WritesV (.movsr d 8) 1 d (fun s q _ => BitVec.ofNat 32 (((descOf s q).map (·.nz)).getD 0)) ∧
  WritesV (.movsr d 9) 1 d (fun s q _ => BitVec.ofNat 32 (((wgOfPath s q).map (·.stage)).getD 0)) ∧
  WritesV (.movsr d 10) 1 d (fun s q _ => BitVec.ofNat 32 (coreOf s q)) ∧
  WritesV (.movsr d 11) 1 d (fun s q l => BitVec.ofNat 32 (((laneFragment s q l).map (·.psn)).getD 0)) ∧
  WritesV (.movsr d 12) 1 d (fun s q l => BitVec.ofNat 32 (((laneFragment s q l).map (·.pixel)).getD 0)) ∧
  (d < 127 → WritesPair (.movsr d 13) d (fun s q l => BitVec.ofNat 64 (((laneFragment s q l).map fun x => x.b1 + 2 ^ 32 * x.b2).getD 0)) ∧
    WritesPair (.movsr d 14) d (fun s q _ => BitVec.ofNat 64 (Config.cycBase (coreOf s q) + s.clock))))

/-- R189, R191 to R193: the FP32 instructions give the operation's result in every active lane, rounded by the mode of the path's lowest
slice, and merge the union of the lanes' flags into FPSTAT of every slice of the path. R194, R195: the packed 16-bit instructions work on
each element by itself, and the FP64 instructions on register pairs; DFMA's addend and destination are one pair. -/
def Obligations.FloatArithmetic : Prop := (∀ d a b c, d < 128 → a < 128 → b < 128 → c < 128 →
  WritesVFlags (.fadd d a b) 1 d (fun s q l => fpAdd f32 (fpMode s q) (getV s q.gang l a) (getV s q.gang l b)) ∧
  WritesVFlags (.fsub d a b) 1 d (fun s q l => fpSub f32 (fpMode s q) (getV s q.gang l a) (getV s q.gang l b)) ∧
  WritesVFlags (.fmul d a b) 1 d (fun s q l => fpMul f32 (fpMode s q) (getV s q.gang l a) (getV s q.gang l b)) ∧
  WritesVFlags (.fmac d a b) 1 d (fun s q l =>
    fpFma f32 (fpMode s q) false false (getV s q.gang l a) (getV s q.gang l b) (getV s q.gang l d)) ∧
  WritesVFlags (.fmin d a b) 1 d (fun s q l => fpMinMax f32 false (getV s q.gang l a) (getV s q.gang l b)) ∧
  WritesVFlags (.fmax d a b) 1 d (fun s q l => fpMinMax f32 true (getV s q.gang l a) (getV s q.gang l b)) ∧
  (∀ m, m < 4 → WritesVFlags (.frnd d a m) 1 d (fun s q l => fpRound f32 m (getV s q.gang l a))) ∧
  WritesVFlags (.fma d a b c) 2 d (fun s q l =>
    fpFma f32 (fpMode s q) false false (getV s q.gang l a) (getV s q.gang l b) (getV s q.gang l c)) ∧
  WritesVFlags (.fms d a b c) 2 d (fun s q l =>
    fpFma f32 (fpMode s q) false true (getV s q.gang l a) (getV s q.gang l b) (getV s q.gang l c)) ∧
  WritesVFlags (.fnma d a b c) 2 d (fun s q l =>
    fpFma f32 (fpMode s q) true false (getV s q.gang l a) (getV s q.gang l b) (getV s q.gang l c))) ∧
  (∀ d a b, d < 128 → a < 128 → b < 128 →
  WritesVFlags (.hadd2 d a b) 1 d (fun s q l => packed fun i => fpAdd f16 (fpMode s q) (element s q l a i) (element s q l b i)) ∧
  WritesVFlags (.hmul2 d a b) 1 d (fun s q l => packed fun i => fpMul f16 (fpMode s q) (element s q l a i) (element s q l b i)) ∧
  WritesVFlags (.hfma2 d a b) 1 d (fun s q l => packed fun i =>
    fpFma f16 (fpMode s q) false false (element s q l a i) (element s q l b i) (element s q l d i)) ∧
  WritesVFlags (.hmin2 d a b) 1 d (fun s q l => packed fun i => fpMinMax f16 false (element s q l a i) (element s q l b i)) ∧
  WritesVFlags (.hmax2 d a b) 1 d (fun s q l => packed fun i => fpMinMax f16 true (element s q l a i) (element s q l b i)) ∧
  WritesVFlags (.badd2 d a b) 1 d (fun s q l => packed fun i => fpAdd bf16 (fpMode s q) (element s q l a i) (element s q l b i)) ∧
  WritesVFlags (.bmul2 d a b) 1 d (fun s q l => packed fun i => fpMul bf16 (fpMode s q) (element s q l a i) (element s q l b i)) ∧
  WritesVFlags (.bfma2 d a b) 1 d (fun s q l => packed fun i =>
    fpFma bf16 (fpMode s q) false false (element s q l a i) (element s q l b i) (element s q l d i)) ∧
  (d < 127 → a < 127 → b < 127 → d % 2 = 0 → a % 2 = 0 → b % 2 = 0 →
    WritesPairFlags (.dadd d a b) d (fun s q l => fpAdd f64 (fpMode s q) (pairValue s q l a) (pairValue s q l b)) ∧
    WritesPairFlags (.dsub d a b) d (fun s q l => fpSub f64 (fpMode s q) (pairValue s q l a) (pairValue s q l b)) ∧
    WritesPairFlags (.dmul d a b) d (fun s q l => fpMul f64 (fpMode s q) (pairValue s q l a) (pairValue s q l b)) ∧
    WritesPairFlags (.dfma d a b) d (fun s q l =>
      fpFma f64 (fpMode s q) false false (pairValue s q l a) (pairValue s q l b) (pairValue s q l d)) ∧
    WritesPairFlags (.dmin d a b) d (fun s q l => fpMinMax f64 false (pairValue s q l a) (pairValue s q l b)) ∧
    WritesPairFlags (.dmax d a b) d (fun s q l => fpMinMax f64 true (pairValue s q l a) (pairValue s q l b))))

/-- R196 to R199: comparisons, and conversions between integers, binary formats, BF16 and FP8. -/
def Obligations.FloatConversions : Prop := ∀ d a b, d < 128 → a < 128 → b < 128 →
  (d < 8 → ∀ c, c < 8 →
    WritesPFlags (.fcmpF32 d c a b) d (fun s q l => fpCompare f32 c (getV s q.gang l a) (getV s q.gang l b)) ∧
    WritesPFlags (.fcmpF16 d c a b) d (fun s q l => fpCompare f16 c (element s q l a 0) (element s q l b 0)) ∧
    (a < 127 → b < 127 → a % 2 = 0 → b % 2 = 0 →
      WritesPFlags (.fcmpF64 d c a b) d (fun s q l => fpCompare f64 c (pairValue s q l a) (pairValue s q l b)))) ∧
  WritesVFlags (.cvtF32I32 d a) 1 d (fun s q l => intToFp f32 (fpMode s q) (vWord s q l a).toInt) ∧
  WritesVFlags (.cvtF32N32 d a) 1 d (fun s q l => intToFp f32 (fpMode s q) (vWord s q l a).toNat) ∧
  WritesVFlags (.cvtI32F32 d a) 1 d (fun s q l => fpToInt f32 (fpMode s q) (-(2 ^ 31)) (2 ^ 31 - 1) 32 (getV s q.gang l a)) ∧
  WritesVFlags (.cvtN32F32 d a) 1 d (fun s q l => fpToInt f32 (fpMode s q) 0 (2 ^ 32 - 1) 32 (getV s q.gang l a)) ∧
  WritesVFlags (.cvtF16F32 d a) 1 d (fun s q l => fpConvert f32 f16 (fpMode s q) (getV s q.gang l a)) ∧
  WritesVFlags (.cvtF32F16 d a) 1 d (fun s q l => fpConvert f16 f32 (fpMode s q) (element s q l a 0)) ∧
  WritesVFlags (.cvtBf16F32 d a) 1 d (fun s q l => fpConvert f32 bf16 (fpMode s q) (getV s q.gang l a)) ∧
  WritesVFlags (.cvtF32Bf16 d a) 1 d (fun s q l => fpConvert bf16 f32 (fpMode s q) (element s q l a 0)) ∧
  WritesVFlags (.cvtE4m3x2F32 d a b) 1 d (fun s q l => narrowPair e4m3 (getV s q.gang l a) (getV s q.gang l b)) ∧
  WritesVFlags (.cvtE5m2x2F32 d a b) 1 d (fun s q l => narrowPair e5m2 (getV s q.gang l a) (getV s q.gang l b)) ∧
  (∀ k, k < 4 →
    WritesVFlags (.cvtF32E4m3 d a k) 1 d (fun s q l =>
      fromNarrow e4m3 f32 ((vWord s q l a).extractLsb' (8 * k) 8).toNat) ∧
    WritesVFlags (.cvtF32E5m2 d a k) 1 d (fun s q l =>
      fromNarrow e5m2 f32 ((vWord s q l a).extractLsb' (8 * k) 8).toNat)) ∧
  (a < 127 → a % 2 = 0 →
    WritesVFlags (.cvtF32F64 d a) 1 d (fun s q l => fpConvert f64 f32 (fpMode s q) (pairValue s q l a))) ∧
  (d < 127 → d % 2 = 0 →
    WritesPairFlags (.cvtF64F32 d a) d (fun s q l => fpConvert f32 f64 (fpMode s q) (getV s q.gang l a)) ∧
    (a < 127 → a % 2 = 0 →
      WritesPairFlags (.cvtF64I64 d a) d (fun s q l => intToFp f64 (fpMode s q) (vPair s q l a).toInt) ∧
      WritesPairFlags (.cvtI64F64 d a) d (fun s q l =>
        fpToInt f64 (fpMode s q) (-(2 ^ 63)) (2 ^ 63 - 1) 64 (pairValue s q l a))))

/-- R191, R192: FADD, FMUL and their FP64 and 16-bit forms do not depend on the operands' order when neither is a NaN, result and flags;
and a difference is the sum with the second operand's sign turned. R77, R78, R191: a NaN operand gives the first NaN, quieted, whatever
the other operand is; NV is raised exactly when some operand signals. R80, R189: rounding a positive exact value n/d · 2^e to FP32: with
no inexact flag the result is a code no larger than the largest finite one; NX accompanies OF and UF always; and OF says that the result
is infinite or the largest finite number. R191, R193: of finite operands a finite sum, product or fused result is the exact value rounded
once by the mode, and NX says whether it differs; 0 · ∞ in a fused form gives the default NaN with NV, and otherwise its first NaN operand,
quieted, is the result. R78, R192: FMIN and FMAX give the lesser and the greater operand, −0 below +0, the other one of a single NaN; FRND
gives the integer that its field's mode makes of the operand, with its sign. R196: the comparisons. R197 to R199: conversions from and to
integers, between formats, and to and from E4M3 and E5M2. R202: the special operands of XMATH, its exact results, and its correctly
rounded reciprocals and roots; how the other XMATH results are computed is log entry 10, which this statement does not use. -/
def Obligations.FloatRules : Prop := (∀ f ∈ [f64, f32, f16, bf16], ∀ mode x y, mode < 4 →
  isNan f x = false → isNan f y = false →
  fpAdd f mode x y = fpAdd f mode y x ∧ fpMul f mode x y = fpMul f mode y x ∧
  fpSub f mode x y = fpAdd f mode x (y ^^^ f.signBit)) ∧
  (∀ f ∈ [f64, f32, f16, bf16], ∀ mode x y,
  (isNan f x = true → fpAdd f mode x y = (quieten f x, if isSnan f x || isSnan f y then flagNV else 0) ∧
    fpMul f mode x y = (quieten f x, if isSnan f x || isSnan f y then flagNV else 0)) ∧
  (isNan f x = false → isNan f y = true → fpAdd f mode x y = (quieten f y, if isSnan f y then flagNV else 0) ∧
    fpMul f mode x y = (quieten f y, if isSnan f y then flagNV else 0))) ∧
  (∀ mode neg n d e, mode < 4 → 0 < n → 0 < d →
  let r := roundMag f32 mode neg n d e
  (r.2 = 0 ∨ r.2 = flagNX ∨ r.2 = flagNX ||| flagUF ∨ r.2 = flagNX ||| flagOF) ∧
  (r.2 &&& flagOF = 0 → r.1 % f32.signBit ≤ f32.maxCode) ∧
  (r.2 &&& flagOF ≠ 0 → r.1 % f32.signBit = f32.maxCode ∨ r.1 % f32.signBit = f32.maxCode + 1) ∧
  (decide (f32.signBit ≤ r.1) = neg)) ∧
  (∀ f ∈ [f64, f32, f16, bf16], ∀ mode x y z, mode < 4 → isFinite f x = true → isFinite f y = true → isFinite f z = true →
  let once (v : ℚ) (r : Nat × Nat) : Prop := isFinite f r.1 = true → Rounds f mode v r.1 ∧ (r.2 &&& flagNX = 0 ↔ fpValue f r.1 = v)
  once (fpValue f x + fpValue f y) (fpAdd f mode x y) ∧ once (fpValue f x * fpValue f y) (fpMul f mode x y) ∧
  once (fpValue f x * fpValue f y + fpValue f z) (fpFma f mode false false x y z) ∧
  once (fpValue f x * fpValue f y - fpValue f z) (fpFma f mode false true x y z) ∧
  once (fpValue f z - fpValue f x * fpValue f y) (fpFma f mode true false x y z)) ∧
  (∀ f nan, (f, nan) ∈ [(f64, 0x7FF8000000000000), (f32, 0x7FC00000), (f16, 0x7E00), (bf16, 0x7FC0)] → ∀ mode np nc x y z,
  (x % f.signBit = 0 → y % f.signBit = f.maxCode + 1 →
    fpFma f mode np nc x y z = (nan, flagNV) ∧ fpFma f mode np nc y x z = (nan, flagNV)) ∧
  (isNan f x = true → (fpFma f mode np nc x y z).1 = quieten f x) ∧
  (isNan f x = false → isNan f y = true → (fpFma f mode np nc x y z).1 = quieten f y) ∧
  (isFinite f x = true → isFinite f y = true → isNan f z = true →
    fpFma f mode np nc x y z = (quieten f z, if isSnan f z then flagNV else 0))) ∧
  (∀ f ∈ [f64, f32, f16, bf16], ∀ x y,
  (isNan f x = false → isNan f y = false →
    let lo := fpMinMax f false x y
    let hi := fpMinMax f true x y
    lo.2 = 0 ∧ hi.2 = 0 ∧ (lo.1 = x ∨ lo.1 = y) ∧ (hi.1 = x ∨ hi.1 = y) ∧
    fpValue f lo.1 = min (fpValue f x) (fpValue f y) ∧ fpValue f hi.1 = max (fpValue f x) (fpValue f y) ∧
    (fpValue f x = fpValue f y → lo.1 / f.signBit % 2 = max (x / f.signBit % 2) (y / f.signBit % 2) ∧
      hi.1 / f.signBit % 2 = min (x / f.signBit % 2) (y / f.signBit % 2))) ∧
  ∀ m, (isNan f x = true → isNan f y = true →
      fpMinMax f m x y = (quieten f x, if isSnan f x || isSnan f y then flagNV else 0)) ∧
    (isNan f x = true → isNan f y = false → fpMinMax f m x y = (y, if isSnan f x then flagNV else 0) ∧
      fpMinMax f m y x = (y, if isSnan f x then flagNV else 0))) ∧
  (∀ b mode, (b, mode) ∈ [(0, 0), (1, 1), (2, 3), (3, 2)] → ∀ x,
  (isFinite f32 x = true → (fpRound f32 b x).2 = 0 ∧ (fpRound f32 b x).1 / f32.signBit % 2 = x / f32.signBit % 2 ∧
    ∃ n : ℤ, RoundsToInt mode (fpValue f32 x) n ∧ fpValue f32 (fpRound f32 b x).1 = n) ∧
  (x % f32.signBit = f32.maxCode + 1 → fpRound f32 b x = (x, 0)) ∧
  (isNan f32 x = true → fpRound f32 b x = (quieten f32 x, if isSnan f32 x then flagNV else 0))) ∧
  (∀ f ∈ [f64, f32, f16], ∀ x y,
  (isNan f x = false → isNan f y = false →
    let v := fpValue f x
    let w := fpValue f y
    fpCompare f 0 x y = (decide (v = w), 0) ∧ fpCompare f 1 x y = (decide (v ≠ w), 0) ∧ fpCompare f 2 x y = (decide (v < w), 0) ∧
    fpCompare f 3 x y = (decide (v ≤ w), 0) ∧ fpCompare f 4 x y = (decide (w < v), 0) ∧ fpCompare f 5 x y = (decide (w ≤ v), 0) ∧
    fpCompare f 6 x y = (false, 0) ∧ fpCompare f 7 x y = (true, 0)) ∧
  (isNan f x = true ∨ isNan f y = true → ∀ c, c < 8 → fpCompare f c x y =
    (decide (c = 1 ∨ c = 6), if isSnan f x || isSnan f y || decide (2 ≤ c ∧ c ≤ 5) then flagNV else 0))) ∧
  (∀ f ∈ [f64, f32], ∀ mode x lo hi n, mode < 4 →
    (lo, hi, n) ∈ [((-(2 ^ 31) : ℤ), (2 ^ 31 - 1 : ℤ), 32), (0, 2 ^ 32 - 1, 32), (-(2 ^ 63), 2 ^ 63 - 1, 64)] →
  (∀ i : ℤ, -(2 ^ 63) ≤ i → i < 2 ^ 63 → Rounds f mode i (intToFp f mode i).1 ∧
    ((intToFp f mode i).2 = if fpValue f (intToFp f mode i).1 = i then 0 else flagNX)) ∧
  (isFinite f x = true → ∃ k : ℤ, RoundsToInt mode (fpValue f x) k ∧ fpToInt f mode lo hi n x =
    if k < lo then ((BitVec.ofInt n lo).toNat, flagNV) else if hi < k then ((BitVec.ofInt n hi).toNat, flagNV)
    else ((BitVec.ofInt n k).toNat, if (k : ℚ) = fpValue f x then 0 else flagNX)) ∧
  (x % f.signBit = f.maxCode + 1 →
    fpToInt f mode lo hi n x = ((BitVec.ofInt n (if x / f.signBit % 2 = 1 then lo else hi)).toNat, flagNV)) ∧
  (isNan f x = true → fpToInt f mode lo hi n x = (0, flagNV))) ∧
  (∀ src dst, (src, dst) ∈ [(f16, f32), (bf16, f32), (f32, f64), (f32, f16), (f32, bf16), (f64, f32)] → ∀ mode x, mode < 4 →
  (isFinite src x = true → isFinite dst (fpConvert src dst mode x).1 = true → Rounds dst mode (fpValue src x) (fpConvert src dst mode x).1 ∧
    ((fpConvert src dst mode x).2 &&& flagNX = 0 ↔ fpValue dst (fpConvert src dst mode x).1 = fpValue src x)) ∧
  (isNan src x = true → ∃ r, fpConvert src dst mode x = (r, if isSnan src x then flagNV else 0) ∧ isNan dst r = true ∧
    isSnan dst r = false ∧ r / dst.signBit % 2 = x / src.signBit % 2 ∧
    r % 2 ^ (dst.fw - 1) = x % 2 ^ src.fw * 2 ^ (dst.fw - src.fw) / 2 ^ (src.fw - dst.fw) % 2 ^ (dst.fw - 1))) ∧
  (∀ x, isFinite f32 x = true →
  (|fpValue f32 x| ≤ 464 → Rounds e4m3 0 (fpValue f32 x) (toNarrow f32 e4m3 false x).1) ∧
  (464 < |fpValue f32 x| → toNarrow f32 e4m3 false x = (x / 2 ^ 31 % 2 * 0x80 + 0x7E, flagOF ||| flagNX)) ∧
  (|fpValue f32 x| < 61440 → Rounds e5m2 0 (fpValue f32 x) (toNarrow f32 e5m2 false x).1) ∧
  (61440 ≤ |fpValue f32 x| → toNarrow f32 e5m2 false x = (x / 2 ^ 31 % 2 * 0x80 + 0x7C, flagOF ||| flagNX))) ∧
  (∀ f ∈ [e4m3, e5m2], ∀ x, isFinite f x = true → (fromNarrow f f32 x).2 = 0 ∧ fpValue f32 (fromNarrow f f32 x).1 = fpValue f x) ∧
  (narrowPair e4m3 0x3FC00000 0x43FA0000 = (0x7E3C, flagOF ||| flagNX) ∧ fromNarrow e4m3 f32 0x7E = (0x43E00000, 0) ∧
  fromNarrow e5m2 f32 0xFD = (0xFFC00000, flagNV) ∧ fromNarrow e4m3 f32 0x7F = (0x7FC00000, 0)) ∧
  (∀ s, s < 2 →
  xFrcp (s * 2 ^ 31) = (s * 2 ^ 31 + 0x7F800000, flagDZ) ∧ xFrcp (s * 2 ^ 31 + 0x7F800000) = (s * 2 ^ 31, 0) ∧
  xFrsq (s * 2 ^ 31) = (s * 2 ^ 31 + 0x7F800000, flagDZ) ∧ xFrsq 0x7F800000 = (0, 0) ∧
  xFsqrt (s * 2 ^ 31) = (s * 2 ^ 31, 0) ∧ xFsqrt 0x7F800000 = (0x7F800000, 0) ∧
  xFexp2 0xFF800000 = (0, 0) ∧ xFexp2 0x7F800000 = (0x7F800000, 0) ∧
  xFlog2 (s * 2 ^ 31) = (0xFF800000, flagDZ) ∧ xFlog2 0x7F800000 = (0x7F800000, 0) ∧
  (∀ co, xTurn co (s * 2 ^ 31 + 0x7F800000) = (0x7FC00000, flagNV))) ∧
  (∀ x, (∀ h ∈ [xFrcp, xFrsq, xFsqrt, xFexp2, xFlog2, xTurn false, xTurn true], isNan f32 x = true →
    h x = (quieten f32 x, if isSnan f32 x then flagNV else 0)) ∧
  (isNan f32 x = false → fpValue f32 x < 0 → ∀ h ∈ [xFrsq, xFsqrt, xFlog2], h x = (0x7FC00000, flagNV)) ∧
  (isFinite f32 x = true → fpValue f32 x ≠ 0 → isFinite f32 (xFrcp x).1 = true → (xFrcp x).2 = 0 ∧ Rounds f32 0 (1 / fpValue f32 x) (xFrcp x).1) ∧
  (isFinite f32 x = true → 0 < fpValue f32 x →
    (∀ r, xFsqrt x = r → r.2 = 0 ∧ (fpValue f32 (r.1 - 1) + fpValue f32 r.1) ^ 2 ≤ 4 * fpValue f32 x ∧
      4 * fpValue f32 x ≤ (fpValue f32 r.1 + fpValue f32 (r.1 + 1)) ^ 2) ∧
    (∀ r, xFrsq x = r → r.2 = 0 ∧ (fpValue f32 (r.1 - 1) + fpValue f32 r.1) ^ 2 * fpValue f32 x ≤ 4 ∧
      4 ≤ (fpValue f32 r.1 + fpValue f32 (r.1 + 1)) ^ 2 * fpValue f32 x)) ∧
  (isFinite f32 x = true → (128 ≤ fpValue f32 x → xFexp2 x = (0x7F800000, 0)) ∧ (fpValue f32 x < -150 → xFexp2 x = (0, 0)) ∧
    (∀ k : ℤ, fpValue f32 x = k → -149 ≤ k → k ≤ 127 → (xFexp2 x).2 = 0 ∧ fpValue f32 (xFexp2 x).1 = 2 ^ k) ∧
    (∀ k : ℤ, fpValue f32 x = 2 ^ k → (xFlog2 x).2 = 0 ∧ fpValue f32 (xFlog2 x).1 = k) ∧
    (∀ k : ℤ, fpValue f32 x = k / 4 →
      xTurn false x = (if k % 4 = 1 then 0x3F800000 else if k % 4 = 3 then 0xBF800000 else x / 2 ^ 31 % 2 * 2 ^ 31, 0) ∧
      xTurn true x = (if k % 4 = 0 then 0x3F800000 else if k % 4 = 2 then 0xBF800000 else 0, 0))))

/-- R105, R107, R111, R112, R116: TRAP and BRK at user level enter the handler with the immediate as DETAIL; JMP to a misaligned address,
TRAPRET, TLBINV and the privileged CSRRD and CSRWR at user level enter it with ILLCLAUSE or PRIV. No effect of the instruction itself is
seen. -/
def Obligations.ExceptionEntry : Prop := ∀ s p q, Issues s p q → CanTrap s p q →
  (∀ i, i < 65536 → ∃ t, exec (.trap i) s = .next t ∧ Traps s t p q false (active q) 0x16 i 0) ∧
  (∀ i, i < 65536 → ∃ t, exec (.brk i) s = .next t ∧ Traps s t p q false (active q) 0x17 i 0) ∧
  (∀ k, k < 2 → ∃ t, exec (.trapret k) s = .next t ∧ Traps s t p q false (active q) 0x04 0 0) ∧
  (∀ g, g < 32 → ∃ t, exec (.tlbinvPage g) s = .next t ∧ Traps s t p q false (active q) 0x04 0 0) ∧
  (∃ t, exec .tlbinvAll s = .next t ∧ Traps s t p q false (active q) 0x04 0 0) ∧
  (∀ g n, g < 32 → 0x010 ≤ n → n ≤ 0x016 → ∃ t, exec (.csrrd g n) s = .next t ∧ Traps s t p q false (active q) 0x04 n 0) ∧
  (∀ g n, g < 32 → csrListed n = true → n ≠ 0x000 → n ≠ 0x001 → n ≠ 0x112 →
    ∃ t, exec (.csrwr g n) s = .next t ∧ Traps s t p q false (active q) 0x04 n 0) ∧
  (∀ g, g < 32 → getG s q g % 4 ≠ 0 → ∃ t, exec (.jmp g) s = .next t ∧ Traps s t p q false (active q) 0x02 0 (getG s q g))

/-- R114: a fault raised at supervisor level is a double fault: it enters no handler, no path and no register changes, and the context is
FAULTED with HOSTERR DOUBLEFAULT (2) and the second fault's code, lanes and addresses in its record. TRAP and BRK at supervisor level are
double faults. A served XLATE is no fault of the model: the path waits, and makes its instruction again. -/
def Obligations.DoubleFault : Prop := ∀ s p q, q.sup = true → (aGet (ctxOf s q) s.ctxs).isSome = true →
  ((ctxAt s (ctxOf s q)).state = .running ∨ (ctxAt s (ctxOf s q)).state = .preempting) →
  let faults (r : State) (f : Trap) : Prop := r.paths = s.paths ∧ r.v = s.v ∧ r.g = s.g ∧ r.p = s.p ∧ r.csr = s.csr ∧
    (ctxAt r (ctxOf s q)).state = .faulted ∧ (ctxAt r (ctxOf s q)).record =
      some ⟨2, coreOf s q, (trapWord f.lanes f.detail f.word f.two f.code).toNat, q.pos.hdr, f.addr % 2 ^ 64,
        ((descOf s q).map (·.codeAddr)).getD 0⟩
  (∀ f, faults (takeTrap s p q f) f) ∧
  (Issues s p q → ∀ i, i < 65536 → ∃ t u, exec (.trap i) s = .next t ∧ faults t ⟨0x16, active q, i, q.pos.word, false, 0⟩ ∧
    exec (.brk i) s = .next u ∧ faults u ⟨0x17, active q, i, q.pos.word, false, 0⟩)

/-- R111, R116: what a user path interrupted by TRAP or BRK comes back to. TRAPRET in the entered state goes back to the header in TRAPPC,
at the word TRAPINFO names, whose class and N still apply, for the lanes of the fault alone; TRAPRET.SKIP goes on past the instruction. Both restore user level and
change no V, G or P register. -/
def Obligations.TrapAndReturn : Prop := ∀ s p q, Issues s p q → CanTrap s p q → 0 < q.lanes → q.lanes < 2 ^ 32 → q.pending = [] →
  (∀ e ∈ s.paths, e.2.gang = q.gang → e.2.pending = []) → 0 < q.pos.word → q.pos.word ≤ q.pos.n → q.pos.n < 16 → q.pos.cls < 8 →
  q.pos.hdr < 2 ^ 64 →
  ∀ i, i < 65536 → ∀ k, k < 2 → ∃ t u, exec (.trap i) s = .next t ∧ exec (.trapret k) t = .next u ∧
    PathBecomes s u p { q with sup := false, pos := if k = 0 then q.pos else nextPos q.pos 1, wait := .none, cur := none, refused := [],
                               replay := if k = 0 then some (active q) else none } ∧
    { u with csr := s.csr, paths := s.paths } = s ∧ SameBytes s u

/-- R106, R109: a control and status register that the level may write, every one at supervisor level, reads back what was written in the
fields it keeps, whatever it held before, and the write changes no other register of a slice or of any context. FPSTAT is read as the OR
of the slices and written in each. R105, R106, R108, R239: a
read of a control and status register that the level permits puts its value into G[d] in every slice of the path and changes nothing else:
FPMODE and the trap registers of the path's lowest slice, STATUS, CTXID, PARTINFO, WSPHASE, OCCLIMIT, OCCUSE by the lines that the slices
hold (log entry 69, the model's choice), and the context's registers; a write of a read-only register at supervisor level changes nothing. REPLCNT, whose read may walk
the tables, is left to its own chapter. -/
def Obligations.ControlRegisters : Prop := (∀ s p q g d, Issues s p q → g < 32 → d < 32 → q.lanes < 2 ^ 32 →
  0 < active q → fpStatReady s q = true →
  ∀ n mask, (n, mask) ∈ [(0x000, (3 : DWord)), (0x001, 0x1F), (0x010, ~~~0), (0x011, ~~~0xE00), (0x012, ~~~0), (0x013, ~~~0),
      (0x014, ~~~0), (0x015, ~~~0), (0x016, ~~~0), (0x100, ~~~0x7FF), (0x101, ~~~0), (0x102, ~~~0), (0x104, 0xFFFFFFFFFFFF),
      (0x112, 0x00FFFFFFFFE00000), (0x120, 0xFFFFFFFF)] → (q.sup = true ∨ n = 0x000 ∨ n = 0x001 ∨ n = 0x112) →
  ∃ t u, exec (.csrwr g n) s = .next t ∧ PathBecomes s t p (q.past 1) ∧
    { t with csr := s.csr, ctxRegs := s.ctxRegs, paths := s.paths } = s ∧ SameBytes s t ∧
    (∀ gid c i, c < 8 → i < 16 →
      (Holds q gid c ∧ n < 0x100 ∧ i = (if n < 2 then n else n - 0x010 + 2) →
        bGet t.csr (csrKey gid c i) = (gWord s q g &&& mask).toNat) ∧
      (¬ (Holds q gid c ∧ n < 0x100 ∧ i = (if n < 2 then n else n - 0x010 + 2)) →
        bGet t.csr (csrKey gid c i) = bGet s.csr (csrKey gid c i))) ∧
    (∀ c i, i < 8 → ¬ (c = ctxOf s q ∧ (n, i) ∈ [(0x100, 0), (0x101, 1), (0x102, 2), (0x104, 3), (0x112, 4), (0x120, 5)]) →
      ctxReg t c i = ctxReg s c i) ∧
    exec (.csrrd d n) t = .next u ∧ getG u q d = (gWord s q g &&& mask).toNat) ∧
  (∀ d, d < 32 →
  WritesG (.csrrd d 0x002) 1 d (fun _ q => if q.sup then 1 else 0) ∧
  WritesG (.csrrd d 0x105) 1 d (fun s q => BitVec.ofNat 64 (ctxOf s q % 16 * 256 + ctxOf s q / 16)) ∧
  WritesG (.csrrd d 0x103) 1 d (fun s q => BitVec.ofNat 64 (bGet s.wsphase (coreOf s q / 128))) ∧
  WritesG (.csrrd d 0x000) 1 d (fun s q => BitVec.ofNat 64 (bGet s.csr (csrKey q.gang (lowSlice q.lanes) 0))) ∧
  (∀ i, i < 7 → WritesGIf (.csrrd d (0x010 + i)) (fun _ q => q.sup = true) 1 d
    (fun s q => BitVec.ofNat 64 (bGet s.csr (csrKey q.gang (lowSlice q.lanes) (2 + i))))) ∧
  (∃ flags : State → Path → DWord,
    (∀ s q i, i < 64 → (flags s q).getLsbD i = (slicesOf q.lanes).any fun c => (bGet s.csr (csrKey q.gang c 1)).testBit i) ∧
    WritesGIf (.csrrd d 0x001) (fun s q => fpStatReady s q = true) 1 d flags) ∧
  WritesGIf (.csrrd d 0x106) (fun s q => (aGet (ctxAt s (ctxOf s q)).part s.parts).isSome = true) 1 d (fun s q =>
    let id := (ctxAt s (ctxOf s q)).part
    BitVec.ofNat 64 (((aGet id s.parts).map fun x =>
      id * 2 ^ 16 + x.dense.toNat * 2 ^ 8 + (List.range 128).countP fun i => x.clusters.testBit i).getD 0)) ∧
  WritesG (.csrrd d 0x110) 1 d (fun s q => BitVec.ofNat 64 (ctxAt s (ctxOf s q)).occLimit) ∧
  (∃ peak : State → Nat → Nat,
    let held (s : State) (c sl : Nat) : Nat := ((sliceHolds s sl).filter fun x => x.ctx == c).length
    let limit (s : State) (c : Nat) : Nat := min (ctxAt s c).occLimit 32768
    (∀ s c, (∀ sl, sl < 256 → held s c sl ≤ peak s c) ∧ (peak s c = 0 ∨ ∃ sl, sl < 256 ∧ held s c sl = peak s c)) ∧
    WritesG (.csrrd d 0x111) 1 d (fun s q => BitVec.ofNat 64
      (((List.range 256).countP fun sl => decide (limit s (ctxOf s q) ≠ 0 ∧ limit s (ctxOf s q) ≤ held s (ctxOf s q) sl)) * 2 ^ 32 +
        min (peak s (ctxOf s q)) 0xFFFF))) ∧
  (∀ n i, (n, i) ∈ [(0x100, 0), (0x101, 1), (0x102, 2), (0x104, 3), (0x112, 4), (0x120, 5)] →
    WritesG (.csrrd d n) 1 d (fun s q => BitVec.ofNat 64 (ctxReg s (ctxOf s q) i))) ∧
  (∀ s p q n, Issues s p q → q.sup = true → n ∈ [0x002, 0x103, 0x105, 0x106, 0x110, 0x111, 0x113] →
    ∃ t, exec (.csrwr d n) s = .next t ∧ PathBecomes s t p (q.past 1) ∧ OnlyPaths s t))

/-- R116, R212: TLBINV at supervisor level takes the page that holds the address, or every page, of the path's own context out of every
translation cache, leaves every other entry of the tables' pages, and changes no register and no byte of memory; of host pages it drops every
translation of the context, in either form (log entry 131, the model's choice). R404, R405: ATS_RESPONSE with Success gives
the host page's translation to the cache of each core that asked for it, with room there, and answers the requests "served"; any other
answers "refused" and leaves the translations; ATS_INVALIDATION forgets the page's translation, and its completion is sent at once unless a
store or an atomic of the context that used it has still to be sent: then it is kept until that has been. -/
def Obligations.Translations : Prop := (∀ s p q g, Issues s p q → q.sup = true → g < 32 →
  (∃ t, exec (.tlbinvPage g) s = .next t ∧ PathBecomes s t p (q.past 1) ∧
    { t with tlb := s.tlb, ats := s.ats, paths := s.paths } = s ∧ SameBytes s t ∧
    (∀ e, e ∈ t.tlb ↔ e ∈ s.tlb ∧ ¬ (e.ctx = ctxOf s q ∧ e.va ≤ getG s q g ∧ getG s q g < e.va + e.size)) ∧
    ∀ e, e ∈ t.ats ↔ e ∈ s.ats ∧ e.ctx ≠ ctxOf s q) ∧
  (∃ t, exec .tlbinvAll s = .next t ∧ PathBecomes s t p (q.past 1) ∧
    { t with tlb := s.tlb, ats := s.ats, paths := s.paths } = s ∧ SameBytes s t ∧
    (∀ e, e ∈ t.tlb ↔ e ∈ s.tlb ∧ e.ctx ≠ ctxOf s q) ∧ (∀ e, e ∈ t.ats ↔ e ∈ s.ats ∧ e.ctx ≠ ctxOf s q))) ∧
  (∀ (s : State) c page,
  (∀ a, ∃ t, exec .atsResponse (s.about (.ats c page a)) = .next t ∧
    ((∀ core ∈ atsCores s c page, tlbCount s core < Config.tlbEntries) →
      (∀ x, a = some x → ∀ core ∈ atsCores s c page, (⟨core, c, page, x⟩ : AtsEntry) ∈ t.ats ∧
        ∀ e ∈ t.ats, e.core = core → e.ctx = c → e.page = page → e.target = x) ∧
      (a = none → t.ats = s.ats) ∧ (∀ e ∈ s.ats, ¬ (e.ctx = c ∧ e.page = page) → e ∈ t.ats) ∧ t.tlb = s.tlb) ∧
    t.services = s.services.map (fun r => if r.ctx = c ∧ r.page = page ∧ r.host = true then
      { r with taken := true, answer := some a.isSome } else r) ∧
    { t with ats := s.ats, tlb := s.tlb, services := s.services, subject := s.subject } = s) ∧
  (∃ t, exec .atsInvalidation (s.about (.two c page)) = .next t ∧ (∀ e, e ∈ t.ats ↔ e ∈ s.ats ∧ ¬ (e.ctx = c ∧ e.page = page)) ∧
    { t with ats := s.ats, invals := s.invals, invalDone := s.invalDone, subject := s.subject } = s ∧
    let uses := ∃ o ∈ s.ops, o.2.ctx = c ∧ (o.2.kind = .store ∨ o.2.kind = .atom) ∧ ∃ a ∈ o.2.accesses, isHost a.pa = true ∧ a.done = false ∧
      ∃ e ∈ s.ats, e.ctx = c ∧ e.page = page ∧ e.target = (a.pa - hostBase) / 4096 * 4096
    (s.invals = [] → (¬ uses → t.invalDone = s.invalDone ++ [(c, page)] ∧ t.invals = []) ∧
      (uses → t.invalDone = s.invalDone ∧ t.invals.map (fun v => (v.ctx, v.page)) = [(c, page)]))))

/-- R46, R54, R163, R164, R166: the control transfers that keep a path whole. NOP goes on; YIELD goes on and stands back; UBRC goes to its
target or on; CALL leaves the next header's address in G31; JMP goes to an aligned address, and faults on
another. A transfer by only some of a path's lanes, those that replay an instruction after TRAPRET, parts the path as BRC does
(Branch). -/
def Obligations.PathControl : Prop := ∀ s p q, Issues s p q →
  (∃ t, exec .nopC s = .next t ∧ PathBecomes s t p (q.past 1) ∧ OnlyPaths s t ∧ SameBytes s t) ∧
  (∃ t, exec .yield s = .next t ∧ PathBecomes s t p { q.past 1 with wait := .yield } ∧ OnlyPaths s t ∧ SameBytes s t) ∧
  (∀ g c o, g < 32 → c < 6 → o < 2 ^ 18 → (holdsZero c (gWord s q g) = true → active q = q.lanes) → ∃ t, exec (.ubrc g c o) s = .next t ∧
    PathBecomes s t p (if holdsZero c (gWord s q g) then q.goneTo (branchAddr q o 18) else q.past 1) ∧ OnlyPaths s t ∧ SameBytes s t) ∧
  (∀ g, g < 32 → getG s q g % 4 = 0 → active q = q.lanes → ∃ t, exec (.jmp g) s = .next t ∧ PathBecomes s t p (q.goneTo (gWord s q g).toNat) ∧
    OnlyPaths s t ∧ SameBytes s t) ∧
  (∀ g, g < 32 → getG s q g % 4 ≠ 0 → CanTrap s p q → ∃ t, exec (.jmp g) s = .next t ∧ Traps s t p q false (active q) 0x02 0 (getG s q g)) ∧
  (∀ o, o < 2 ^ 26 → active q = q.lanes → ∃ t, exec (.call o) s = .next t ∧ PathBecomes s t p (q.goneTo (branchAddr q o 26)) ∧ OnlyG s t ∧ SameBytes s t ∧
    ∀ gid c r, c < 8 → r < 32 →
      (Holds q gid c ∧ r = 31 → getGs t gid c r = (q.pos.hdr + 4 * (q.pos.n + 1)) % 2 ^ 64) ∧
      (¬ (Holds q gid c ∧ r = 31) → getGs t gid c r = getGs s gid c r))

/-- R151, R163: BRC. With no lane taking it the path goes on; with every lane taking it the path goes to the target; with some of both,
where every slice's split is dual the lanes divide into two paths, and where every slice with both is serialised and has room, each such
slice gets a PEND entry for its other lanes and the taken lanes go first. -/
def Obligations.Branch : Prop := ∀ s p q r n o, Issues s p q → r < 8 → n < 2 → o < 2 ^ 22 → q.lanes < 2 ^ 32 → p < s.fresh →
  ((∀ l, l < 32 → takesBranch s q r n l = false) →
    ∃ t, exec (.brc r n o) s = .next t ∧ PathBecomes s t p (q.past 1) ∧ OnlyPaths s t) ∧
  (0 < q.lanes → (∀ l, l < 32 → takesBranch s q r n l = hasBit q.lanes l) →
    ∃ t, exec (.brc r n o) s = .next t ∧ PathBecomes s t p (q.goneTo (branchAddr q o 22)) ∧ OnlyPaths s t) ∧
  (∀ g, gangOf s q = some g → (∃ l, l < 32 ∧ takesBranch s q r n l = true) →
    (∃ l, l < 32 ∧ hasBit q.lanes l = true ∧ takesBranch s q r n l = false) →
    ((∀ c ∈ slicesOf q.lanes, dualSplit s q g c = true) → ∃ t a b, exec (.brc r n o) s = .next t ∧
      aGet s.fresh t.paths = some a ∧ aGet p t.paths = some b ∧ a.pos = ⟨branchAddr q o 22, 0, 0, 0⟩ ∧ b.pos = (q.past 1).pos ∧
      (∀ l, l < 32 → hasBit a.lanes l = takesBranch s q r n l) ∧
      (∀ l, l < 32 → hasBit b.lanes l = (hasBit q.lanes l && !takesBranch s q r n l)) ∧
      a.gang = q.gang ∧ b.gang = q.gang ∧ a.sup = q.sup ∧ b.sup = q.sup ∧
      (∀ k, k ≠ p → k ≠ s.fresh → aGet k t.paths = aGet k s.paths) ∧
      { t with gangs := s.gangs, paths := s.paths, fresh := s.fresh } = s) ∧
    ((∀ c ∈ slicesOf q.lanes, dualSplit s q g c = false ∧ hasRoom s q g c = true ∧
        ∃ l, l < 32 ∧ l / 4 = c ∧ takesBranch s q r n l = true) → ∃ t a, exec (.brc r n o) s = .next t ∧
      aGet p t.paths = some a ∧ a.pos = ⟨branchAddr q o 22, 0, 0, 0⟩ ∧ (∀ l, l < 32 → hasBit a.lanes l = takesBranch s q r n l) ∧
      (∀ k, k ≠ p → aGet k t.paths = aGet k s.paths) ∧ OnlyGangs s t ∧
      ∃ g', aGet q.gang t.gangs = some g' ∧ ∀ l, l < 32 → hasBit q.lanes l = true → takesBranch s q r n l = false →
        ∃ e ∈ g'.stack, e.isJoin = false ∧ e.slice = l / 4 ∧ hasBit e.lanes l = true ∧ e.addr = (q.past 1).pos.hdr ∧
          e.word = (q.past 1).pos.word ∧ e.tag = g.nextTag))

/-- R153, R157, R165: JSET pushes one JOIN entry, of one new tag, in each slice of the path, for its lanes there. JOIN takes the path's
lanes off their slots, to wait for their tag, and lets the lanes go on that a PEND entry on top had deferred; so does REGANG. R153, R157:
TAG_COMPLETE, once every awaited lane of a tag has arrived or ended, lets the arrived lanes go on as one path at the join address;
REGANG_COMPLETE, once every live lane of the gang stands at one REGANG, empties the stacks, gives every slice the G registers of the slice
of the lowest live lane and the OR of all FPSTATs, and lets every live lane go on at the next header. A wait keeps TRAPBASE as it stood at its
issue (R109) and, at supervisor level, the record of a BARSYNC (R416). -/
def Obligations.JoinAndRegang : Prop := (∀ s p q g, Issues s p q → gangOf s q = some g → q.lanes < 2 ^ 32 → p < s.fresh →
  (∀ o, o < 2 ^ 22 → (∀ c ∈ slicesOf (active q), hasRoom s q g c = true) → ∃ t g', exec (.jset o) s = .next t ∧
    PathBecomes s t p (q.past 1) ∧ OnlyGangs s t ∧ SameBytes s t ∧ aGet q.gang t.gangs = some g' ∧
    (∀ k, k ≠ q.gang → aGet k t.gangs = aGet k s.gangs) ∧ g'.stack.drop (slicesOf (active q)).length = g.stack ∧
    (g'.stack.take (slicesOf (active q)).length).map (fun e => (e.slice, e.tag, e.isJoin, e.group, e.lanes, e.addr)) =
      (slicesOf (active q)).map fun c => (c, g.nextTag, true, sliceLanes c (active q), 0, branchAddr q o 22)) ∧
  (∀ pops stack left, pops = pendOnTop g.stack (active q) → stack = popEntries g.stack pops →
    left = (if maskDiff q.lanes (active q) = 0 then none else some ({ q with lanes := maskDiff q.lanes (active q) }.past 1)) →
    ((∀ c ∈ slicesOf (active q), (topJoin g.stack (sliceLanes c (active q))).isSome = true) →
      joinDeadlock { g with stack := markArrived stack (active q), waits := g.waits ++ [⟨active q, q.pos, q.sup, false, 0, baseOf s q, if q.sup then q.barsync else none⟩] } = false →
      ∃ t, exec .join s = .next t ∧
        aGet q.gang t.gangs = some { g with stack := markArrived stack (active q), waits := g.waits ++ [⟨active q, q.pos, q.sup, false, 0, baseOf s q, if q.sup then q.barsync else none⟩] } ∧
        aGet p t.paths = left ∧ (∀ k, k ≠ p → k < s.fresh → aGet k t.paths = aGet k s.paths) ∧
        ∀ e ∈ pops, e.lanes ≠ 0 → ∃ k a, s.fresh ≤ k ∧ aGet k t.paths = some a ∧ a.lanes &&& e.lanes = e.lanes ∧
          a.pos.hdr = e.addr ∧ a.pos.word = e.word ∧ a.gang = q.gang) ∧
    (joinDeadlock { g with stack := stack, waits := g.waits ++ [⟨active q, q.pos, q.sup, true, wordAddr q.pos, baseOf s q, if q.sup then q.barsync else none⟩] } = false →
      ∃ t, exec .regang s = .next t ∧
        aGet q.gang t.gangs = some { g with stack := stack, waits := g.waits ++ [⟨active q, q.pos, q.sup, true, wordAddr q.pos, baseOf s q, if q.sup then q.barsync else none⟩] } ∧
        aGet p t.paths = left ∧ (∀ k, k ≠ p → k < s.fresh → aGet k t.paths = aGet k s.paths) ∧
        ∀ e ∈ pops, e.lanes ≠ 0 → ∃ k a, s.fresh ≤ k ∧ aGet k t.paths = some a ∧ a.lanes &&& e.lanes = e.lanes ∧
          a.pos.hdr = e.addr ∧ a.pos.word = e.word ∧ a.gang = q.gang))) ∧
  (∀ s gid g, aGet gid s.gangs = some g →
  (∀ tag e es, tagDone g tag = true → gangLive s g = true → g.stack.filter (fun e => e.isJoin && e.tag == tag) = e :: es →
    (e :: es).foldl (fun m x => m ||| x.lanes) 0 ≠ 0 →
    ∃ t a, exec .tagComplete (s.about (.two gid tag)) = .next t ∧ aGet s.fresh t.paths = some a ∧ a.gang = gid ∧
      a.lanes = (e :: es).foldl (fun m x => m ||| x.lanes) 0 ∧ a.pos = ⟨e.addr, 0, 0, 0⟩ ∧
      (∀ k, k ≠ s.fresh → aGet k t.paths = aGet k s.paths) ∧
      ∃ g', aGet gid t.gangs = some g' ∧ g'.stack = popEntries g.stack (e :: es) ∧ g'.live = g.live) ∧
  (∀ w ws, regangDone g = true → gangLive s g = true → g.waits = w :: ws → g.slices.length ≤ 8 →
    ∃ t a, exec .regangComplete (s.about (.one gid)) = .next t ∧ aGet s.fresh t.paths = some a ∧ a.gang = gid ∧ a.lanes = g.live ∧
      a.pos = ⟨w.pos.hdr + 4 * (w.pos.n + 1), 0, 0, 0⟩ ∧ (∀ k, k ≠ s.fresh → aGet k t.paths = aGet k s.paths) ∧
      aGet gid t.gangs = some { g with stack := [], waits := [] } ∧
      (∀ c r, c < g.slices.length → r < 32 → getGs t gid c r = getGs s gid (lowSlice g.live) r) ∧
      (∀ c i, c < g.slices.length → i < 64 → (bGet t.csr (csrKey gid c csrFpStat)).testBit i =
        (List.range g.slices.length).any fun c' => (bGet s.csr (csrKey gid c' csrFpStat)).testBit i) ∧
      t.v = s.v ∧ t.p = s.p ∧ t.mem = s.mem))

/-- R156, R159, R167: EXIT ends every active lane of the path: no path of the gang holds such a lane afterwards, and the gang's live lanes
are those it had without them, if it has any left. REORDER within the code extent and with no clash deposits each active lane's key and
payload in the lift, lanes ascending, and ends the lanes in the same way. -/
def Obligations.LanesEnd : Prop := ∀ s p q g, Issues s p q → gangOf s q = some g → p < s.fresh → q.lanes < 2 ^ 32 →
  (∀ l, hasBit q.lanes l = true → hasBit g.live l = true) →
  let ended (t : State) : Prop :=
    (∀ k a, aGet k t.paths = some a → a.gang = q.gang → k < s.fresh → ∀ l, hasBit (active q) l = true → hasBit a.lanes l = false) ∧
    (∀ g', aGet q.gang t.gangs = some g' → ∀ l, hasBit g'.live l = (hasBit g.live l && !hasBit (active q) l)) ∧
    ((∀ l, hasBit g.live l = true → hasBit (active q) l = true) → aGet q.gang t.gangs = none)
  (∃ t, exec .exit s = .next t ∧ ended t) ∧
  (∀ a b n o w, aGet g.wg s.wgs = some w → n < 8 → o < 2 ^ 32 → inExtent s q (branchAddr q o 32) = true →
    (∀ l, l < 32 → hasBit (active q) l = true → liftClash w.lift (getV s q.gang l a) (n + 1) (branchAddr q o 32) = none) →
    ∃ t w', exec (.reorder a b n o) s = .next t ∧ ended t ∧ aGet g.wg t.wgs = some w' ∧
      w'.lift = w.lift ++ (lanesOf (active q)).map fun l =>
        ⟨getV s q.gang l a, (List.range (n + 1)).map fun k => getV s q.gang l (b + k), branchAddr q o 32⟩)

/-- R200, R203, R322: the transform pipe. XMATH writes its function of V[a] and merges its flags; how the results of FEXP2, FLOG2,
FSIN and FCOS are computed is log entry 10, and that a quantiser's format ignores the other bits of G is log entry 50, the model's choices; XTRANS writes
the transposed tile; XQROW and XQCOL write a row's, or a column's, eight registers of quantised elements and one of scales; XSIG writes
the eight projections. Each of them issues with what it will write in flight, its path past it and no register changed yet;
XPIPE_WRITEBACK of any such operation writes it, and merges its flags in every slice of the path that issued it. -/
def Obligations.TransformPipe : Prop := (∀ (s : State) k o, aGet k s.ops = some o → o.kind = .xpipe → (o.writes.map (·.1)).Nodup →
  ∃ t, exec .xpipeWriteback (s.about (.one k)) = .next t ∧ aGet k t.ops = none ∧
    { t with v := s.v, csr := s.csr, ops := s.ops, subject := s.subject } = s ∧ (∀ w ∈ o.writes, bGet t.v w.1 = w.2 % 2 ^ 32) ∧
    (∀ j, (∀ w ∈ o.writes, w.1 ≠ j) → bGet t.v j = bGet s.v j) ∧
    ∀ c i, c < 8 → i < 16 → bGet t.csr (csrKey o.gang c i) = if c ∈ slicesOf o.pathLanes ∧ i = csrFpStat then
      (bGet s.csr (csrKey o.gang c i) ||| o.flags) % 2 ^ 64 else bGet s.csr (csrKey o.gang c i)) ∧
  ∀ d a l, d < 128 → a < 128 → l < 16 →
  (∀ s p q, Issues s p q →
    let inFlight (i : Instr) (writes : Nat → List (Nat × Nat)) (t : State) : Prop :=
      PathBecomes s t p (q.past 1) ∧ SameRegisters s t ∧ t.mem = s.mem ∧ ∃ o, aGet s.fresh t.ops = some o ∧ o.kind = .xpipe ∧
        o.instr = i ∧ o.count = some .xpipe ∧ o.ahead = some l ∧ o.gang = q.gang ∧ o.pathLanes = q.lanes ∧
        o.writes = (lanesOf (active q)).flatMap fun c => (writes c).map fun w => (vKey q.gang c w.1, w.2)
    (∃ t, exec (.frcp d a l) s = .next t ∧ inFlight (.frcp d a l) (fun c => [(d, (xFrcp (getV s q.gang c a)).1)]) t) ∧
    (∃ t, exec (.frsq d a l) s = .next t ∧ inFlight (.frsq d a l) (fun c => [(d, (xFrsq (getV s q.gang c a)).1)]) t) ∧
    (∃ t, exec (.fsqrt d a l) s = .next t ∧ inFlight (.fsqrt d a l) (fun c => [(d, (xFsqrt (getV s q.gang c a)).1)]) t) ∧
    (∃ t, exec (.fexp2 d a l) s = .next t ∧ inFlight (.fexp2 d a l) (fun c => [(d, (xFexp2 (getV s q.gang c a)).1)]) t) ∧
    (∃ t, exec (.flog2 d a l) s = .next t ∧ inFlight (.flog2 d a l) (fun c => [(d, (xFlog2 (getV s q.gang c a)).1)]) t) ∧
    (∃ t, exec (.fsin d a l) s = .next t ∧ inFlight (.fsin d a l) (fun c => [(d, (xTurn false (getV s q.gang c a)).1)]) t) ∧
    (∃ t, exec (.fcos d a l) s = .next t ∧ inFlight (.fcos d a l) (fun c => [(d, (xTurn true (getV s q.gang c a)).1)]) t) ∧
    ∀ v x, v + 32 ≤ 128 → 4 * x + 32 ≤ 128 →
      (∃ t, exec (.xtrans v l x) s = .next t ∧
        inFlight (.xtrans v l x) (fun c => (List.range 32).map fun r => (4 * x + r, tileElement s q v r c)) t) ∧
      (∃ t, exec (.xsig v l x) s = .next t ∧ inFlight (.xsig v l x) (fun _ => (List.range 8).map fun k => (4 * x + k,
        projection k ((List.range 32).map fun r => (List.range 32).map fun c => unpack f32 (tileElement s q v r c)))) t) ∧
      ∀ g fmt block, g < 32 → xqFormat (getG s q g) = some (fmt, block) →
        (∃ t, exec (.xqrow v g l x) s = .next t ∧ inFlight (.xqrow v g l x) (fun r => (List.range 9).map fun k =>
          (4 * x + k, nth (xqRegs fmt block ((List.range 32).map fun c => tileElement s q v r c)) k)) t) ∧
        ∃ t, exec (.xqcol v g l x) s = .next t ∧ inFlight (.xqcol v g l x) (fun c => (List.range 9).map fun k =>
          (4 * x + k, nth (xqRegs fmt block ((List.range 32).map fun r => tileElement s q v r c)) k)) t) ∧
  (∀ f i, (i, f) ∈ [(Instr.frcp d a l, xFrcp), (.frsq d a l, xFrsq), (.fsqrt d a l, xFsqrt), (.fexp2 d a l, xFexp2),
      (.flog2 d a l, xFlog2), (.fsin d a l, xTurn false), (.fcos d a l, xTurn true)] →
    PipeWrites i (fun _ _ => True) d 1 (fun s q l _ => (f (getV s q.gang l a)).1) (fun s q l => (f (getV s q.gang l a)).2)) ∧
  (∀ v x, v + 32 ≤ 128 → 4 * x + 32 ≤ 128 →
    PipeWrites (.xtrans v l x) (fun _ _ => True) (4 * x) 32 (fun s q c r => tileElement s q v r c) (fun _ _ _ => 0) ∧
    PipeWrites (.xsig v l x) (fun _ _ => True) (4 * x) 8
      (fun s q _ k => projection k ((List.range 32).map fun r => (List.range 32).map fun c => unpack f32 (tileElement s q v r c)))
      (fun _ _ _ => 0) ∧
    ∀ g fmt block, g < 32 →
      PipeWrites (.xqrow v g l x) (fun s q => xqFormat (getG s q g) = some (fmt, block)) (4 * x) 9
        (fun s q r k => nth (xqRegs fmt block ((List.range 32).map fun c => tileElement s q v r c)) k) (fun _ _ _ => 0) ∧
      PipeWrites (.xqcol v g l x) (fun s q => xqFormat (getG s q g) = some (fmt, block)) (4 * x) 9
        (fun s q c k => nth (xqRegs fmt block ((List.range 32).map fun r => tileElement s q v r c)) k) (fun _ _ _ => 0))

/-- R215, R217, R218: the seven vector loads and the five vector stores, with their sizes and request types, once every lane's access
passes its checks: the path goes on at once, no register and, for a store, no byte of memory changes yet, and each active lane has its
access in flight, a store with the low bytes of its registers. -/
def Obligations.VectorAccesses : Prop := ∀ d o g l t, d < 128 → o < 128 → g < 32 → l < 16 → t < 8 →
  LoadIssues (.ldw d o g l t) o g t 4 ∧ LoadIssues (.ldd d o g l t) o g t 8 ∧ LoadIssues (.ldq d o g l t) o g t 16 ∧
  LoadIssues (.ldbn d o g l) o g 7 1 ∧ LoadIssues (.ldbs d o g l) o g 7 1 ∧
  LoadIssues (.ldhn d o g l) o g 7 2 ∧ LoadIssues (.ldhs d o g l) o g 7 2 ∧
  StoreIssues (.stw d o g t) d o g 4 ∧ (d < 127 → StoreIssues (.std d o g t) d o g 8) ∧
  (d < 125 → StoreIssues (.stq d o g t) d o g 16) ∧ StoreIssues (.stb d o g) d o g 1 ∧ StoreIssues (.sth d o g) d o g 2

/-- R51, R217, R218, R220: the return of a load's data, once every lane's value is there and the path did not wait for it: each lane's
destination is the value, zero-extended or sign-extended from the size of the form, or its words in consecutive registers; every other
register, every byte of memory and every path is as before. R186: ULD reads eight bytes for the whole path at G[a]; its return writes them
to G[d] in every slice of that path and changes nothing else. -/
def Obligations.LoadReturns : Prop := (∀ s k o d x g l t, aGet k s.ops = some o → o.left = 0 → o.kind = .load →
  (∀ q, aGet o.path s.paths = some q → q.wait ≠ .home) → (aGet o.path s.paths).isSome = true →
  (o.accesses.map (·.lane)).Nodup → (∀ a ∈ o.accesses, a.lane < 32) → d < 128 →
  ∀ n w sx, (o.instr, n, w, sx) ∈ [(Instr.ldw d x g l t, 4, 1, false), (.ldd d x g l t, 8, 2, false), (.ldq d x g l t, 16, 4, false),
      (.ldbn d x g l, 1, 1, false), (.ldbs d x g l, 1, 1, true), (.ldhn d x g l, 2, 1, false), (.ldhs d x g l, 2, 1, true),
      (.lds d x g l 0, 1, 1, false), (.lds d x g l 1, 1, 1, true), (.lds d x g l 2, 2, 1, false), (.lds d x g l 3, 2, 1, true),
      (.lds d x g l 4, 4, 1, false), (.lds d x g l 5, 8, 2, false), (.lds d x g l 6, 16, 4, false)] →
  d + w ≤ 128 → (∀ a ∈ o.accesses, a.value < 256 ^ n) →
  ∃ u, exec .loadDataReturn (s.about (.one k)) = .next u ∧ aGet k u.ops = none ∧ (∀ j, j ≠ k → aGet j u.ops = aGet j s.ops) ∧
    { u with v := s.v, ops := s.ops, subject := s.subject } = s ∧
    ∀ gid lane r, lane < 32 → r < 128 →
      (∀ a ∈ o.accesses, gid = o.gang → a.lane = lane → ∀ j, j < w → r = d + j → getV u gid lane r =
        (if sx then ((BitVec.ofNat (8 * n) a.value).signExtend 32).toNat else a.value / 2 ^ (32 * j) % 2 ^ 32)) ∧
      ((∀ a ∈ o.accesses, ¬ (gid = o.gang ∧ a.lane = lane ∧ d ≤ r ∧ r < d + w)) → getV u gid lane r = getV s gid lane r)) ∧
  (∀ s p q d a l t pa leaf, Issues s p q → q.refused = [] → d < 32 → a < 32 → l < 16 → t < 8 →
  Maps s q .read (getG s q a) 8 pa leaf → poisonedFor s (coreOf s q) pa 8 = none → poisonedVia false s (coreOf s q) pa 8 = none →
  poisonedRo s (coreOf s q) pa 8 = none → coreOf s q ∉ s.roDrops → (∀ j, j < 32 → hasBit (active q) j = true → laneConflict s q.gang j pa 8 = false) →
  (∃ u o, exec (.uld d a l t) s = .next u ∧ PathBecomes s u p (q.past 1) ∧ SameRegisters s u ∧ aGet s.fresh u.ops = some o ∧
    o.kind = .uload ∧ o.instr = .uld d a l t ∧ o.gang = q.gang ∧ o.lanes = active q ∧ o.pathLanes = q.lanes ∧
    o.accesses.map (fun a => (a.pa, a.size)) = [(pa, 8)]) ∧
  (∀ k o x xs, aGet k s.ops = some o → o.left = 0 → o.kind = .uload → o.instr = .uld d a l t → o.accesses = x :: xs →
    aGet o.path s.paths = some q → q.wait ≠ .home → ∃ u, exec .loadDataReturn (s.about (.one k)) = .next u ∧ aGet k u.ops = none ∧
      { u with g := s.g, ops := s.ops, subject := s.subject } = s ∧
      ∀ gid c r, c < 8 → r < 32 →
        (gid = o.gang ∧ c ∈ slicesOf o.pathLanes ∧ r = d → getGs u gid c r = x.value % 2 ^ 64) ∧
        (¬ (gid = o.gang ∧ c ∈ slicesOf o.pathLanes ∧ r = d) → getGs u gid c r = getGs s gid c r)))

/-- R220, R221, R252, R264: the scratchpad. STS stores the lanes' bytes in ascending lane order, so that a byte that several lanes cover
is the highest lane's, and changes no other byte of any scratchpad; LDS takes each lane's bytes as they are at issue; ATOMS on lanes that
touch different words replaces each word by the op's result and holds the old word for the return. -/
def Obligations.Scratchpad : Prop := ∀ s p q, Issues s p q → ∀ d o g l, d < 128 → o < 128 → g < 32 → l < 16 →
  (∀ sz n, (sz, n) ∈ [(0, 1), (2, 2), (4, 4), (5, 8), (6, 16)] → d + (n + 3) / 4 ≤ 128 → ScratchMaps s q g o n →
    ∃ t, exec (.sts d o g sz) s = .next t ∧ PathBecomes s t p (q.past 1) ∧
      { t with scratch := s.scratch, poison := s.poison, paths := s.paths } = s ∧
      ∀ w (b : Nat), b < 2 ^ 18 →
        ((∀ j, j < 32 → hasBit (active q) j = true →
            ¬ (w = wgIdOf s q ∧ scratchPlace s q g o j ≤ b ∧ b < scratchPlace s q g o j + n)) →
          scratchByte t w b = scratchByte s w b) ∧
        (∀ j, j < 32 → hasBit (active q) j = true → w = wgIdOf s q → scratchPlace s q g o j ≤ b → b < scratchPlace s q g o j + n →
          (∀ j', j < j' → j' < 32 → hasBit (active q) j' = true →
            ¬ (scratchPlace s q g o j' ≤ b ∧ b < scratchPlace s q g o j' + n)) →
          ∀ i, (b : Int) = scratchPlace s q g o j + (i : Nat) →
            scratchByte t w b = (vWord s q j (d + i / 4)).toNat / 256 ^ (i % 4) % 256)) ∧
  (∀ sz n, (sz, n) ∈ [(0, 1), (1, 1), (2, 2), (3, 2), (4, 4), (5, 8), (6, 16)] → ScratchMaps s q g o n →
    (∀ u, ErrorPlace.scratch (wgIdOf s q) u ∉ s.poison) →
    ∃ t x, exec (.lds d o g l sz) s = .next t ∧ PathBecomes s t p (q.past 1) ∧
      { t with ops := s.ops, fresh := s.fresh, paths := s.paths } = s ∧ aGet s.fresh t.ops = some x ∧ x.kind = .load ∧ x.left = 0 ∧
      x.instr = .lds d o g l sz ∧ x.gang = q.gang ∧ x.accesses.map (·.lane) = lanesOf (active q) ∧
      ∀ a ∈ x.accesses, ∀ i, i < n →
        a.value / 256 ^ i % 256 = scratchByte s (wgIdOf s q) ((scratchPlace s q g o a.lane).toNat + i) ∧ a.value < 256 ^ n) ∧
  (∀ b c r op, b < 128 → c < 128 → r < 4 → op < 10 → (r ≠ 0 → releaseReady s q.gang q.lanes 0 = true) →
    (r ≠ 1 → loadsReady s q.gang q.lanes = true) → ScratchMaps s q g o 4 →
    (∀ u, ErrorPlace.scratch (wgIdOf s q) u ∉ s.poison) →
    (∀ j j', j < 32 → j' < 32 → hasBit (active q) j = true → hasBit (active q) j' = true → j ≠ j' →
      scratchPlace s q g o j ≠ scratchPlace s q g o j') →
    ∃ t x, exec (.atoms d o g l 0 c b r op) s = .next t ∧ PathBecomes s t p (q.past 2) ∧ SameRegisters s t ∧ t.mem = s.mem ∧
      aGet s.fresh t.ops = some x ∧ x.kind = .load ∧ x.left = 0 ∧ x.gang = q.gang ∧ x.accesses.map (·.lane) = lanesOf (active q) ∧
      (∀ a ∈ x.accesses, a.value = scratchRead s (wgIdOf s q) (scratchPlace s q g o a.lane).toNat 4 ∧
        scratchRead t (wgIdOf s q) (scratchPlace s q g o a.lane).toNat 4 =
          (atomNew op a.value (vWord s q a.lane b).toNat (vWord s q a.lane c).toNat).1 % 2 ^ 32) ∧
      ∀ w (e : Nat), e < 2 ^ 18 → (∀ j, j < 32 → hasBit (active q) j = true →
          ¬ (w = wgIdOf s q ∧ scratchPlace s q g o j ≤ e ∧ e < scratchPlace s q g o j + 4)) → scratchByte t w e = scratchByte s w e)

/-- R227, R228, R236, R267: a one-lane store of each request type to a line that no cache holds. On a page that is not coherent, WT, UC and ST
put the bytes in memory, OWN and SI leave them dirty in the core's L1 and memory as it was. On a coherent page WT, UC and ST send them to the
line's home slice, where HOME_REQUEST puts them in memory; SI leaves them dirty in the L1; OWN first obtains its span, so that the bytes, dirty
in the L1, are what the home slice would read, and acts as WT where a beacon covers them. WT keeps a clean copy in the L1. Every other byte is as
before, and no register changes. -/
def Obligations.StoreReachesMemory : Prop := ∀ s k o a, aGet k s.ops = some o → o.kind = .store → o.left = 0 → o.accesses = [a] →
  a.rt ∈ [0, 1, 2, 3, 5] → 0 < a.size → a.size ≤ 16 → a.pa % a.size = 0 → a.size ∣ 16 → isDevice a.pa = true → o.core < Config.cores →
  Uncached s o.core a.pa a.size → opBlocked s k o = false → (l1Words s o.core fun _ _ => true).length + 8 ≤ Config.l1Words →
  (s.snoop.filter fun e => e.1 == holderSlice (dieOf o.core) (a.pa / 128)).length < Config.snoopEntries →
  let value (i : Nat) : Nat := a.value / 256 ^ i % 256
  let kept (t : State) : Prop := SameRegisters s t ∧ t.paths = s.paths ∧ t.scratch = s.scratch
  let only (byte : State → Nat → Nat) (t : State) : Prop := ∀ b, (b < a.pa ∨ a.pa + a.size ≤ b → byte t b = byte s b) ∧
    (∀ i, i < a.size → b = a.pa + i → byte t b = value i)
  let stored (t : State) : Prop := kept t ∧ only (fun r b => bGet r.mem b) t
  let inL1 (t : State) (kind : L1Kind) (dirty : Bool) : Prop := ∀ i, i < a.size → ∃ w, l1At t o.core (a.pa + i) = some w ∧
    w.kind = kind ∧ byteHeld w ((a.pa + i) % 4) = true ∧ hasBit w.dirty ((a.pa + i) % 4) = dirty ∧ wordByte w ((a.pa + i) % 4) = value i
  ∃ t, exec .storeAccept (s.about (.one k)) = .next t ∧ aGet k t.ops = none ∧
  (eNc a.leaf = true →
    (a.rt = 0 ∨ a.rt = 2 → kept t ∧ t.mem = s.mem ∧ inL1 t .nc true) ∧
    (a.rt ≠ 0 → a.rt ≠ 2 → stored t ∧ (a.rt = 1 → inL1 t .nc false))) ∧
  (eNc a.leaf = false →
    (a.rt = 2 → kept t ∧ t.mem = s.mem ∧ inL1 t .si true) ∧
    (a.rt = 0 → beaconCovers s a.pa a.size = false → kept t ∧ t.mem = s.mem ∧ inL1 t .own true ∧ only peekByte t) ∧
    (a.rt ∈ [1, 3, 5] ∨ (a.rt = 0 ∧ beaconCovers s a.pa a.size = true) → kept t ∧ t.mem = s.mem ∧
      (lineAt t (a.pa / 128)).queue.length = 1 ∧ ∃ u, exec .homeRequest (t.about (.one (a.pa / 128))) = .next u ∧
        (lineAt u (a.pa / 128)).queue = [] ∧ stored u ∧ (a.rt < 2 → inL1 u .si false)))

/-- R65, R260 to R263: ATOM with every lane translated and, where it has a release part, the path's earlier accesses done, puts its
operation in flight, with V[b] of each lane, or the pair of a 64-bit op, and for a compare-and-swap V[c], and changes no register; with an
acquire part the path waits for it, without one it goes on past both words. Where a release at CLUSTER or wider first writes lines back, no unit
may be poisoned, in memory or on its way. R261, R262: a one-lane atomic, of every op and order, performed at the home slice of an uncached line:
V[d] becomes the old word unless the form returns none; with no acquire beyond WG the memory word, doubleword or cell becomes the op's result of the old one
and the operands and every other byte is as before; a wider acquire leaves no SI copy of device memory in the core's L1; a path that waited for
the acquire goes on past both words; and every other V register is as before. -/
def Obligations.Atomics : Prop := (∀ s p q d o g l t nr c b r sc op, Issues s p q → d < 128 → o < 128 → g < 32 → l < 16 → t < 8 →
  nr < 2 → c < 128 → b < 128 → r < 4 → sc < 5 → op < 16 →
  LanesMap s q .atomic (accessAddr s q g o) (if op = 11 ∨ op = 12 then 16 else if 13 ≤ op then 8 else 4) →
  (r ≠ 0 → releaseReady s q.gang q.lanes sc = true) → (r ≠ 1 → loadsReady s q.gang q.lanes = true) →
  (r ≠ 0 → sc ≠ 0 → s.poison = [] ∧ ∀ e ∈ s.lines, ∀ x ∈ e.2.queue, x.bad = []) →
  let operand (j v : Nat) : Nat := if 12 ≤ op then pairValue s q j v else (vWord s q j v).toNat
  ∃ u x, exec (.atom d o g l t nr c b r sc op) s = .next u ∧ SameRegisters s u ∧ aGet s.fresh u.ops = some x ∧ x.kind = .atom ∧
    x.left = 0 ∧ x.gang = q.gang ∧ x.path = p ∧ x.pathLanes = q.lanes ∧ x.failed = [] ∧ x.instr = .atom d o g l t nr c b r sc op ∧
    (r = 1 → PathBecomes s u p (q.past 2)) ∧
    (r ≠ 1 → PathBecomes s u p { q with wait := .home, cur := some (.atom d o g l t nr c b r sc op), base := baseOf s q }) ∧
    ∀ j pa leaf, j < 32 → hasBit (active q) j = true →
      Maps s q .atomic (accessAddr s q g o j) (if op = 11 ∨ op = 12 then 16 else if 13 ≤ op then 8 else 4) pa leaf →
      (∃ a ∈ x.accesses, a.lane = j ∧ a.pa = pa) ∧
        (j, operand j b + 2 ^ 64 * (if op = 9 ∨ op = 15 then operand j c else 0)) ∈ x.writes) ∧
  (∀ s k x a w d o g l t c b r sc op n, aGet k s.ops = some x → x.left = 0 → x.accesses = [a] → opBlocked s k x = false →
  d < 127 → a.lane < 32 → r < 4 → sc < 5 → op < 16 → n = (if op = 11 ∨ op = 12 then 16 else if 13 ≤ op then 8 else 4) → a.size = n →
  a.pa % n = 0 → isDevice a.pa = true → a.rt ≠ 0 → Uncached s x.core a.pa n → x.writes = [(a.lane, w)] → x.failed = [] → aSorted s.l1 = true →
  ∀ q nr, nr < 2 → (op = 11 ∨ op = 12 → nr = 1) → x.instr = .atom d o g l t nr c b r sc op → aGet x.path s.paths = some q →
  (r = 1 → q.wait ≠ .home) → (r ≠ 1 → q.wait = .home ∧ q.cur = some x.instr) →
  ∃ u, exec .atomicPerformed (s.about (.one k)) = .next u ∧ aGet k u.ops = none ∧ u.g = s.g ∧ u.p = s.p ∧
    (r = 1 → u.paths = s.paths) ∧ (r ≠ 1 → PathBecomes s u x.path (q.past 2)) ∧
    (r = 1 ∨ sc = 0 → (∀ e, e < a.pa ∨ a.pa + n ≤ e → bGet u.mem e = bGet s.mem e) ∧
      readMem u.mem a.pa n = (atomNew op (readMem s.mem a.pa n) (w % 2 ^ 64) (w / 2 ^ 64)).1 % 256 ^ n) ∧
    (r ≠ 1 → sc ≠ 0 → ∀ e ∈ u.l1, e.1 / 2 ^ 56 = x.core → e.2.kind = .si → isDevice (e.1 % 2 ^ 56 * 4) = false) ∧
    ∀ gid lane v, lane < 32 → v < 128 →
      (nr = 0 → gid = x.gang → lane = a.lane → v = d → getV u gid lane v = readMem s.mem a.pa n % 2 ^ 32) ∧
      (nr = 0 → 13 ≤ op → gid = x.gang → lane = a.lane → v = d + 1 → getV u gid lane v = readMem s.mem a.pa n / 2 ^ 32) ∧
      (¬ (nr = 0 ∧ gid = x.gang ∧ lane = a.lane ∧ (v = d ∨ (13 ≤ op ∧ v = d + 1))) → getV u gid lane v = getV s gid lane v))

/-- R227, R257, R258: FENCE, once the release part is done and, for an acquire, the path's loads and atomics have returned. With a release
at CLUSTER or wider no SI copy of a device line in the core's L1 stays dirty, and every byte that was dirty there is what its home slice
reads; with an acquire at CLUSTER or wider no SI copy of a device line stays. At WG scope nothing but the path changes. FENCEX, once its first
path is released, does the same from the CORE path and towards it, at WG scope too where the other path is an engine's or a lantern's (R254, as log entry 31 reads it);
towards the read-only path it empties the core's read-only cache and begins a drop; towards the ray path it empties the core's node
cache. R241 to R243: CFLUSH with every lane's translation at hand and no access of its lanes under way in their lines leaves, of the lines the
lanes name, no dirty byte in the core's L1 (code 1) or no word at all (codes 3, 5 and 7), and what was dirty there is in memory: OWN bytes and
those of pages that are not coherent at once, SI bytes at once by code 5 and else by their line's HOME_REQUEST. PREF goes on whatever its lanes
meet, but during a drop of the read-only cache (log entry 30). None of these changes a register. -/
def Obligations.FencesAndCaches : Prop := (∀ s p q, Issues s p q → aSorted s.l1 = true →
  let dirty (x : Nat × L1Word) : Prop := x.1 / 2 ^ 56 = coreOf s q ∧ x.2.kind = .si ∧ isDevice (x.1 % 2 ^ 56 * 4) = true
  let clean (t : State) : Prop := ∀ x ∈ t.l1, dirty x → ∀ i, i < 4 → hasBit x.2.dirty i = false
  let reaches (t : State) : Prop :=
    (∀ x ∈ s.l1, dirty x → x.2.dirty ≠ 0 → lineAt s (x.1 % 2 ^ 56 * 4 / 128) = ⟨.unc, [], [], []⟩) →
    (∀ sl, (sliceHolds s sl).length + (l1Words s (coreOf s q) fun _ w => w.dirty != 0).length ≤ Config.sliceLines) →
    ∀ x ∈ s.l1, dirty x → ∀ i, i < 4 → hasBit x.2.dirty i = true → peekByte t (x.1 % 2 ^ 56 * 4 + i) = wordByte x.2 i
  let gone (t : State) : Prop := ∀ x ∈ t.l1, ¬ dirty x
  (∀ o e, o < 4 → e < 5 → (o ≠ 0 → releaseReady s q.gang q.lanes e = true) → (o ≠ 1 → loadsReady s q.gang q.lanes = true) →
    ∃ t, exec (.fence o e) s = .next t ∧ PathBecomes s t p (q.past 1) ∧ SameRegisters s t ∧
      (e = 0 → OnlyPaths s t) ∧ (o ≠ 0 → 0 < e → clean t ∧ reaches t) ∧ (o ≠ 1 → 0 < e → gone t)) ∧
  (∀ a b e, a < 7 → b < 7 → e < 5 → pathReleased s q a (if a = pathCore then sideScope b e else e) = true →
    (b = pathCore → loadsReady s q.gang q.lanes = true) →
    ∃ t, exec (.fencex a b e) s = .next t ∧ PathBecomes s t p (q.past 1) ∧ SameRegisters s t ∧
      (a = pathCore → 0 < e ∨ b ∈ [2, 3, 4, 5] → clean t ∧ reaches t) ∧
      (b = pathCore → 0 < e ∨ a ∈ [2, 3, 4, 5] → gone t) ∧
      (b = pathRo → coreOf s q ∈ t.roDrops ∧ (∀ x ∈ t.ro, x.core ≠ coreOf s q) ∧ (a ∈ [2, 3, 4, 5] → gone t)) ∧
      (b = pathRay → ∀ x ∈ t.nodes, x.core ≠ coreOf s q) ∧
      (a = pathRo → b = pathCopy → OnlyPaths s t))) ∧
  (∀ s p q v g t, Issues s p q → v < 128 → g < 32 → t < 8 →
  (coreOf s q ∉ s.roDrops → ∃ u, exec (.pref v g t) s = .next u ∧ PathBecomes s u p (q.past 1) ∧ SameRegisters s u) ∧
  (t ∈ [1, 3, 5, 7] → LanesMap s q .flush (accessAddr s q g v) 1 →
    let names (l ln : Nat) : Prop := l < 32 ∧ hasBit (active q) l = true ∧
      ∃ pa leaf, Maps s q .flush (accessAddr s q g v l) 1 pa leaf ∧ ln = pa / 128
    (∀ l ln, names l ln → laneConflict s q.gang l (ln * 128) 128 = false ∧
      (t = 5 → ∀ r ∈ (lineAt s ln).queue, r.first + r.len ≤ 32)) →
    ∃ u, exec (.cflush v g t) s = .next u ∧ PathBecomes s u p (q.past 1) ∧ SameRegisters s u ∧ ∀ l ln, names l ln →
      (∀ i, i < 32 →
        (t = 1 → ∀ x, l1At u (coreOf s q) (ln * 128 + 4 * i) = some x → ∀ j, j < 4 → hasBit x.dirty j = false) ∧
        (t ≠ 1 → l1At u (coreOf s q) (ln * 128 + 4 * i) = none)) ∧
      ((∀ e ∈ s.l1, 4 < e.2.unit → e.2.unit ∣ 16) →
        (∀ k m, names k m → (lineAt s m).queue = [] ∧ ∀ x ∈ (lineAt s m).spans ++ (lineAt s m).proxy, x.core = coreOf s q) →
        ∀ i j x, i < 32 → j < 4 → l1At s (coreOf s q) (ln * 128 + 4 * i) = some x → hasBit x.dirty j = true →
          (x.kind ≠ .si ∨ (t = 5 ∧ (lineAt s ln).dir = .unc) → bGet u.mem (ln * 128 + 4 * i + j) = wordByte x j) ∧
          (x.kind = .si → t ≠ 5 → (lineAt s ln).dir = .unc → ∃ w, exec .homeRequest (u.about (.one ln)) = .next w ∧
            bGet w.mem (ln * 128 + 4 * i + j) = wordByte x j))))

/-- R265 to R267: WAITC on an uncached coherent word. When the condition holds already, P is true in every active lane and the path goes
on past both words; when it does not, a beacon is armed with the address, the value and the condition, and the path waits; a woken beacon
of a context that is RUNNING sets P to whether the condition woke it. R267, R228: a write in place wakes exactly the armed beacons whose word it meets and whose
condition then holds; no other beacon changes. -/
def Obligations.WaitOnWord : Prop := (∀ s p q g pd w cond sc gc pa leaf n, Issues s p q → q.refused = [] → g < 32 → gc < 32 → pd < 8 → w < 2 →
  cond < 6 → sc < 5 → n = (if w = 0 then 4 else 8) → Maps s q .read (getG s q g) n pa leaf → eNc leaf = false →
  poisonedFor s (coreOf s q) pa n = none → loadsReady s q.gang q.lanes = true → Uncached s (coreOf s q) pa n → (s.beacons.filter fun b => b.woken = none && homeSlice b.addr == homeSlice pa).length < Config.beacons →
  (wordCond cond n (readMem s.mem pa n) (getG s q gc % 256 ^ n) = true →
    ∃ t, exec (.waitc g pd w cond sc gc) s = .next t ∧ PathBecomes s t p (q.past 2) ∧ t.v = s.v ∧ t.g = s.g ∧ t.csr = s.csr ∧
      (sc = 0 → t.beacons = s.beacons) ∧ ∀ gid l r, l < 32 → r < 8 →
        (Takes q gid l ∧ r = pd → getP t gid l r = true) ∧ (¬ (Takes q gid l ∧ r = pd) → getP t gid l r = getP s gid l r)) ∧
  (wordCond cond n (readMem s.mem pa n) (getG s q gc % 256 ^ n) = false → (∀ b ∈ s.beacons, b.path ≠ p) →
    ∃ t, exec (.waitc g pd w cond sc gc) s = .next t ∧ SameRegisters s t ∧
      PathBecomes s t p { q with wait := .beacon pd sc, cur := some (.waitc g pd w cond sc gc), base := baseOf s q } ∧
      t.beacons = s.beacons ++ [(⟨p, pa, n, cond, getG s q gc % 256 ^ n, none⟩ : Beacon)] ∧
      ∀ r u, u = { t with beacons := s.beacons ++ [(⟨p, pa, n, cond, getG s q gc % 256 ^ n, some r⟩ : Beacon)] } →
        (ctxAt s (ctxOf s q)).state = .running →
        ∃ x, exec .beaconWake (u.about (.one p)) = .next x ∧ PathBecomes t x p { q.past 2 with base := baseOf s q } ∧ (∀ b ∈ x.beacons, b.path ≠ p) ∧
          ∀ l, l < 32 → hasBit (active q) l = true → pd ≠ 7 → getP x q.gang l pd = r)) ∧
  (∀ s a bytes b, b ∈ s.beacons → b.woken = none →
  (overlap a bytes.length b.addr b.size = true ∧
      wordCond b.cond b.size (readMem (memPut s a bytes).mem b.addr b.size) b.value = true →
    { b with woken := some true } ∈ (memPut s a bytes).beacons) ∧
  (¬ (overlap a bytes.length b.addr b.size = true ∧
      wordCond b.cond b.size (readMem (memPut s a bytes).mem b.addr b.size) b.value = true) →
    b ∈ (memPut s a bytes).beacons) ∧ (memPut s a bytes).beacons.length = s.beacons.length) ∧
  (∀ s bs b, b ∈ s.beacons → b.woken = none →
  let met := ∃ x ∈ bs, b.addr ≤ x.1 ∧ x.1 < b.addr + b.size
  (met ∧ wordCond b.cond b.size (readMem (memPutAll s bs).mem b.addr b.size) b.value = true →
    { b with woken := some true } ∈ (memPutAll s bs).beacons) ∧
  (¬ (met ∧ wordCond b.cond b.size (readMem (memPutAll s bs).mem b.addr b.size) b.value = true) →
    b ∈ (memPutAll s bs).beacons) ∧ (memPutAll s bs).beacons.length = s.beacons.length)

/-- R268, R270: an idle barrier takes gang arrivals of one count c: after fewer than c of them it holds their number and has not moved;
the c-th completes the generation, which adds one to GEN modulo 2^16, keeps an error of the generation in ERRHIST, and leaves ARRIVED and
COUNT zero. R268, R273, R274, R276: BARWAIT on a generation that has ended writes P and goes on at once; BARRIER_WAIT_END does the same
for a path that waits, of a context that is RUNNING. P is false exactly for a generation whose error ERRHIST holds, or one more than eight
behind. While a generation has not ended, a wait on it that no deadlock rule catches goes on waiting. BARQRY writes the state word, with the
low twelve bits of RES and of ARRIVED (log entry 118, the model's choice). -/
def Obligations.BarrierGenerations : Prop := (∀ b c, b.arrived = 0 → b.count = 0 → b.res = 0 → b.gen < 65536 → 0 < c → c < 4096 →
  ∀ k, k ≤ c →
    let after := (List.range k).foldl (fun (x : Except Nat Barrier) _ => x.bind fun y => gangArrival y c) (.ok b)
    (k < c → 0 < k → after = .ok { b with arrived := k, count := c }) ∧
    (k = c → ∃ x, after = .ok x ∧ x.gen = (b.gen + 1) % 65536 ∧ x.arrived = 0 ∧ x.count = 0 ∧ x.res = 0 ∧ x.err = false ∧
      x.errHist = (2 * b.errHist + b.err.toNat) % 256 ∧ gangArrival { x with count := c + 1, arrived := 1 } c = .error 2)) ∧
  (∀ s p q w b, wgOfPath s q = some w → b < 16 → (barrierAt w b).gen < 65536 →
  (∀ v, v < 32 → WritesG (.barqry v b) 1 v (fun s q =>
    let x := ((wgOfPath s q).map fun w => barrierAt w b).getD ⟨0, 0, false, 0, 0, 0, false, 0⟩
    BitVec.ofNat 64 (x.gen * 2 ^ 48 + x.errHist * 2 ^ 40 + x.err.toNat * 2 ^ 39 + x.res % 4096 * 2 ^ 24 + x.arrived % 4096 * 2 ^ 12 + x.count))) ∧
  (∀ d, 1 ≤ d → d ≤ 32768 → ∀ t, t = ((barrierAt w b).gen + 65536 - d) % 65536 → ∀ pd, pd < 8 →
    let ended (u : State) : Prop := PathBecomes s u p (q.past 1) ∧ u.v = s.v ∧ u.g = s.g ∧ u.csr = s.csr ∧ u.wgs = s.wgs ∧
      ∀ gid l r, l < 32 → r < 8 →
        (Takes q gid l ∧ r = pd ∧ pd ≠ 7 → getP u gid l r = (decide (d ≤ 8) && !hasBit (barrierAt w b).errHist (d - 1))) ∧
        (¬ (Takes q gid l ∧ r = pd ∧ pd ≠ 7) → getP u gid l r = getP s gid l r)
    (∀ g, g < 32 → Issues s p q → loadsReady s q.gang q.lanes = true → getG s q g % 65536 = t → ∃ u, exec (.barwait pd g b) s = .next u ∧ ended u) ∧
    (aGet p s.paths = some q → q.wait = .barrier b t pd → (ctxAt s (ctxOf s q)).state = .running →
      ∃ u, exec .barrierWaitEnd (s.about (.one p)) = .next u ∧ ended u)) ∧
  (∀ t pd, t < 65536 → pd < 8 → ¬ (1 ≤ ((barrierAt w b).gen + 65536 - t) % 65536 ∧ ((barrierAt w b).gen + 65536 - t) % 65536 ≤ 32768) →
    (∀ g, g < 32 → Issues s p q → loadsReady s q.gang q.lanes = true → getG s q g % 65536 = t →
      barrierDeadlock (waitAt s p q (.barwait pd g b) (.barrier b t pd)) (wgIdOf s q) = false →
      exec (.barwait pd g b) s = .next (waitAt s p q (.barwait pd g b) (.barrier b t pd))) ∧
    (aGet p s.paths = some q → q.wait = .barrier b t pd → exec .barrierWaitEnd (s.about (.one p)) = .next (s.about (.one p)))))

/-- R269, R272, R276: BARARR and BARSYNC of a path that holds every live lane of its gang, once its earlier accesses are done. The path
enters the gang-forming wait, which is complete, so GANG_FORM_COMPLETE makes the gang's one arrival with the count in G: for BARARR the
generation goes to G[v] in every slice and the path goes on; for BARSYNC it waits on the generation. -/
def Obligations.BarrierArrival : Prop := ∀ s p q g w v gc b x, Issues s p q → SolePath s p q g → wgOf s g = some w →
  releaseReady s q.gang q.lanes 0 = true → v < 32 → gc < 32 → b < w.barriers.length → g.slices.length ≤ 8 →
  1 ≤ getGs s q.gang (lowSlice g.live) gc → getGs s q.gang (lowSlice g.live) gc < 4096 →
  gangArrival (barrierAt w b) (getGs s q.gang (lowSlice g.live) gc) = .ok x → (ctxAt s w.ctx).state = .running →
  (∃ t u, exec (.bararr v gc b) s = .next t ∧ PathBecomes s t p { q with wait := .form, cur := some (.bararr v gc b), base := baseOf s q } ∧
    SameRegisters s t ∧ t.wgs = s.wgs ∧ exec .gangFormComplete (t.about (.one q.gang)) = .next u ∧
    PathBecomes t u p { q.past 1 with base := baseOf s q } ∧
    (∃ w', aGet g.wg u.wgs = some w' ∧ barrierAt w' b = x ∧ ∀ b', b' ≠ b → barrierAt w' b' = barrierAt w b') ∧
    (∀ k, k ≠ g.wg → aGet k u.wgs = aGet k s.wgs) ∧ u.v = s.v ∧ u.p = s.p ∧ u.csr = s.csr ∧ u.mem = s.mem ∧
    ∀ gid c r, c < 8 → r < 32 →
      (gid = q.gang ∧ c < g.slices.length ∧ r = v → getGs u gid c r = (barrierAt w b).gen % 2 ^ 64) ∧
      (¬ (gid = q.gang ∧ c < g.slices.length ∧ r = v) → getGs u gid c r = getGs s gid c r)) ∧
  (∀ pd, pd < 8 → q.barsync = none → q.sup = false →
    (0 < x.res ∨ barrierDone x (barrierAt w b).gen = true) →
    ∃ t u, exec (.barsync pd gc b) s = .next t ∧ PathBecomes s t p { q with wait := .form, cur := some (.barsync pd gc b), base := baseOf s q } ∧
      SameRegisters s t ∧ t.wgs = s.wgs ∧ exec .gangFormComplete (t.about (.one q.gang)) = .next u ∧ SameRegisters s u ∧
      PathBecomes t u p { q with wait := .barrier b (barrierAt w b).gen pd, cur := some (.barsync pd gc b), base := baseOf s q,
                                 barsync := some ((barrierAt w b).gen, wordAddr q.pos) } ∧
      ∃ w', aGet g.wg u.wgs = some w' ∧ barrierAt w' b = x)

/-- R277, R278: BATCH closes the gang's open batch, puts its number in G[v] and opens the next; WAITB over batches without a command in
flight writes P (true unless one of them ended in error), with CLR forgets those errors, and goes on; BATCH_WAIT_END does the same for a
path that waits. -/
def Obligations.Batches : Prop := ∀ s p q g, gangOf s q = some g →
  (∀ v, v < 32 → Issues s p q → g.openBatch < 0xFFFFFFFF → ∃ t, exec (.batch v) s = .next t ∧ PathBecomes s t p (q.past 1) ∧
    aGet q.gang t.gangs = some { g with openBatch := g.openBatch + 1 } ∧ { t with g := s.g, gangs := s.gangs, paths := s.paths } = s ∧
    ∀ gid c r, c < 8 → r < 32 → (Holds q gid c ∧ active q ≠ 0 ∧ r = v → getGs t gid c r = g.openBatch) ∧
      (¬ (Holds q gid c ∧ active q ≠ 0 ∧ r = v) → getGs t gid c r = getGs s gid c r)) ∧
  (∀ k pd clr, pd < 8 → clr < 2 → batchPending s q.gang k = false →
    let ended (t : State) : Prop := PathBecomes s t p (q.past 1) ∧ t.v = s.v ∧ t.g = s.g ∧ t.csr = s.csr ∧
      (∀ l, l < 32 → hasBit (active q) l = true → pd ≠ 7 → getP t q.gang l pd = !g.errBatches.any fun n => decide (1 ≤ n) && decide (n ≤ k)) ∧
      (∃ g', aGet q.gang t.gangs = some g' ∧ g'.openBatch = g.openBatch ∧
        g'.errBatches = (if clr = 1 then g.errBatches.filter (fun n => !(decide (1 ≤ n) && decide (n ≤ k))) else g.errBatches))
    (∀ r, r < 32 → Issues s p q → loadsReady s q.gang q.lanes = true → k = min (getG s q r % 2 ^ 32) (g.openBatch - 1) →
      ∃ t, exec (.waitb pd r clr) s = .next t ∧ ended t) ∧
    (aGet p s.paths = some q → q.wait = .batch k pd (clr == 1) → (ctxAt s (ctxOf s q)).state = .running → ∃ t, exec .batchWaitEnd (s.about (.one p)) = .next t ∧ ended t))

/-- R141 to R145: the stage queues. SQPUT with room appends one record of sixteen registers for each active lane, lanes ascending, and
SQPUT_RESUME does so for a path that waited; SQGET in its turn takes as many records as it has active lanes, or all that are left of an
ended queue, gives them to its lanes in order, tells each lane by P whether it got one, and puts the number in G; SQGET_RESUME does so for
the first path that waited; an SQGET with loads in flight takes its place among those that wait when it issues (log entry 119, the model's
choice); a wait ends only while its context is RUNNING; SQEND closes the gang's side of the queue. -/
def Obligations.StageQueues : Prop := ∀ s p q w, wgOfPath s q = some w → aSorted s.wgs = true →
  (∀ v k c, v + 16 ≤ 128 → consumerOf s w = some (k, c) → putCause s q w = none → c.finished = false →
    c.incoming.records.length + (lanesOf (active q)).length ≤ 64 → releaseReady s q.gang q.lanes 3 = true →
    let put (t : State) : Prop := PathBecomes s t p (q.past 1) ∧ SameRegisters s t ∧ ∃ c', aGet k t.wgs = some c' ∧
      c'.incoming.openGangs = c.incoming.openGangs ∧ c'.incoming.records = c.incoming.records ++
        (lanesOf (active q)).map fun l => (List.range 16).map fun i => getV s q.gang l (v + i)
    (Issues s p q → ∃ t, exec (.sqput v) s = .next t ∧ put t) ∧
    (aGet p s.paths = some q → q.wait = .sqput → q.cur = some (.sqput v) → (ctxAt s (ctxOf s q)).state = .running →
      ∃ t, exec .sqputResume (s.about (.one p)) = .next t ∧ put t)) ∧
  (∀ v g pd, v + 16 ≤ 128 → g < 32 → pd < 8 → 0 < w.stage →
    ((lanesOf (active q)).length ≤ w.incoming.records.length ∨ w.incoming.openGangs = []) →
    (∀ x ∈ w.incoming.records, x.length = 16) → slicesOf (active q) ≠ [] →
    let j := min (lanesOf (active q)).length w.incoming.records.length
    let got (t : State) : Prop := PathBecomes s t p (q.past 1) ∧ t.csr = s.csr ∧ getG t q g = j ∧
      (∀ i l, (lanesOf (active q))[i]? = some l → (pd ≠ 7 → getP t q.gang l pd = decide (i < j)) ∧
        (i < j → ∀ e, e < 16 → getV t q.gang l (v + e) = nth ((w.incoming.records[i]?).getD []) e % 2 ^ 32)) ∧
      ∃ w', aGet (wgIdOf s q) t.wgs = some w' ∧ w'.incoming.records = w.incoming.records.drop j
    (Issues s p q → loadsReady s q.gang q.lanes = true → w.incoming.waiters = [] ∨ w.incoming.waiters.head? = some p →
      ∃ t, exec (.sqget v g pd) s = .next t ∧ got t) ∧
    (Issues s p q → loadsReady s q.gang q.lanes = false → p ∉ w.incoming.waiters → ∃ t w', exec (.sqget v g pd) s = .next t ∧
      SameRegisters s t ∧ PathBecomes s t p { q with wait := .sqget, cur := some (.sqget v g pd), base := baseOf s q } ∧
      aGet (wgIdOf s q) t.wgs = some w' ∧ w'.incoming.waiters = w.incoming.waiters ++ [p] ∧ w'.incoming.records = w.incoming.records) ∧
    (aGet p s.paths = some q → q.wait = .sqget → q.cur = some (.sqget v g pd) → w.incoming.waiters.head? = some p →
      loadsReady s q.gang q.lanes = true → (ctxAt s (ctxOf s q)).state = .running →
      ∃ t, exec .sqgetResume (s.about (.one p)) = .next t ∧ got t)) ∧
  (∀ k c g, Issues s p q → putCause s q w = none → releaseReady s q.gang q.lanes 3 = true → consumerOf s w = some (k, c) →
    gangOf s q = some g → ∃ t, exec .sqend s = .next t ∧ PathBecomes s t p (q.past 1) ∧ SameRegisters s t ∧
      aGet q.gang t.gangs = some { g with closed := true } ∧
      ∃ c', aGet k t.wgs = some c' ∧ c'.incoming.openGangs = c.incoming.openGangs.filter (· != q.gang) ∧
        c'.incoming.records = c.incoming.records)

/-- R226, R230, R231: what moves a line at its home slice. SPAN_RECALL of a line's one span writes the owner's bytes back, so that every
byte of the line reads as before, and drops the span; REPLICA_CONFIRM, OWN_CONFIRM, INVALIDATION_CONFIRM, OWNED_WRITEBACK and
PROXY_EVICTION make the directory's transitions. No other line's state changes, and no register. -/
def Obligations.DirectoryMoves : Prop := ∀ s ln l, l = lineAt s ln →
  let only (t : State) : Prop := SameRegisters s t ∧ t.paths = s.paths ∧ ∀ k, k ≠ ln → lineAt t k = lineAt s k
  (∀ x, l.spans = [x] → l.proxy = [] → x.recalled = true → x.first + x.len ≤ 32 → ∃ t, exec .spanRecall (s.about (.one ln)) = .next t ∧
    lineAt t ln = { l with spans := [] } ∧ (∀ a, a / 128 = ln → peekByte t a = peekByte s a) ∧
    (∀ a, a / 128 ≠ ln → bGet t.mem a = bGet s.mem a) ∧ only t) ∧
  (∀ e sh, l.dir = .busyR e sh → ∃ t, exec .replicaConfirm (s.about (.one ln)) = .next t ∧
    lineAt t ln = { l with dir := .rsh (sh ||| 2 ^ e) } ∧ SameBytes s t ∧ only t) ∧
  (∀ e, l.dir = .busyX e → ∃ t, exec .ownConfirm (s.about (.one ln)) = .next t ∧
    lineAt t ln = { l with dir := .rex e } ∧ SameBytes s t ∧ only t) ∧
  (∀ left die, l.dir = .busyC left → l.queue = [] → ∃ t, exec .invalidationConfirm (s.about (.two ln die)) = .next t ∧
    (maskDiff left (2 ^ die) ≠ 0 → lineAt t ln = { l with dir := .busyC (maskDiff left (2 ^ die)) }) ∧
    (maskDiff left (2 ^ die) = 0 → lineAt t ln = { l with dir := .unc }) ∧
    (∀ c ∈ t.cache, ¬ (c.die = die ∧ c.line = ln)) ∧ SameBytes s t ∧ only t) ∧
  (∀ e, l.dir = .busyW e → l.queue = [] → l.spans = [] → l.proxy = [] → ∃ t, exec .ownedWriteback (s.about (.one ln)) = .next t ∧
    lineAt t ln = { l with dir := .unc } ∧ (∀ c ∈ t.cache, ¬ (c.die = e ∧ c.line = ln)) ∧ SameBytes s t ∧ only t) ∧
  (∀ sh die, l.dir = .rsh sh → ∃ t, exec .proxyEviction (s.about (.two ln die)) = .next t ∧
    lineAt t ln = { l with dir := if maskDiff sh (2 ^ die) = 0 then .unc else .rsh (maskDiff sh (2 ^ die)) } ∧ SameBytes s t ∧ only t) ∧
  (∀ die, l.dir = .rex die → l.spans = [] → l.proxy = [] → ∃ t, exec .proxyEviction (s.about (.two ln die)) = .next t ∧
    lineAt t ln = { l with dir := .unc } ∧ SameBytes s t ∧ only t)

/-- R234, R235, R409: REPLICATION_INTERVAL_END, after the interval's requests, lowers the degree by one when the collapses reached the
lower threshold, else raises it by one, at most to three, when the remote reads reached the upper one; it keeps the interval's counts for
REPLCNT and begins the next. READ_ONLY_DROP_END empties the core's read-only cache. -/
def Obligations.IntervalsEnd : Prop := ∀ s,
  (∀ k r, aGet k s.regions = some r → Config.intervalRequests ≤ r.requests → ∃ t, exec .replicationIntervalEnd (s.about (.one k)) = .next t ∧
    aGet k t.regions = some (⟨if (thresholds s (k % 2 ^ 40)).2 ≤ r.wcol then r.degree - 1
        else if (thresholds s (k % 2 ^ 40)).1 ≤ r.rread then min (r.degree + 1) 3 else r.degree,
      0, 0, 0, r.rread, r.wcol, (r.intervals + 1) % 256⟩ : Region) ∧
    (∀ j, j ≠ k → aGet j t.regions = aGet j s.regions) ∧ { t with regions := s.regions, subject := s.subject } = s) ∧
  (∀ core, core ∈ s.roDrops → ∃ t, exec .readOnlyDropEnd (s.about (.one core)) = .next t ∧ core ∉ t.roDrops ∧
    (∀ x ∈ t.ro, x.core ≠ core) ∧ (∀ x ∈ s.ro, x.core ≠ core → x ∈ t.ro) ∧
    (∀ e ∈ t.poison, e ∈ s.poison) ∧ { t with ro := s.ro, roDrops := s.roDrops, poison := s.poison, subject := s.subject } = s)

/-- R104, R213: SERVICE_REQUEST under the context's policy. REFUSE answers "refused"; ARMED sets V of a level-4 entry, or of a level-3 entry
with LEAF, that is well formed with it and answers "served", answers "served" for a walk that has become valid and "refused" for any other; HOST
waits for SERVE; a page of the host is asked of the host, with the context's PASID, once for all cores of the context (R404). -/
def Obligations.ServicePolicies : Prop := ∀ s i r, s.services[i]? = some r → r.taken = false →
  (r.host = true → ∃ t, exec .serviceRequest (s.about (.one i)) = .next t ∧ t.services = s.services.set i { r with taken := true } ∧
    { t with services := s.services, hostSent := s.hostSent, subject := s.subject } = s ∧
    let told := ∃ x ∈ s.services, x.ctx = r.ctx ∧ x.page = r.page ∧ x.host = true ∧ x.taken = true ∧ x.answer = none
    (told → t.hostSent = s.hostSent) ∧ (¬ told → t.hostSent = s.hostSent ++ [⟨pasidOf s r.ctx, .page, r.page, 4096⟩])) ∧
  (r.host = false → (ctxAt s r.ctx).policy = 0 → ∃ t, exec .serviceRequest (s.about (.one i)) = .next t ∧
    t.services = s.services.set i { r with taken := true, answer := some false } ∧
    { t with services := s.services, subject := s.subject } = s) ∧
  (r.host = false → (ctxAt s r.ctx).policy = 1 → ∃ t, exec .serviceRequest (s.about (.one i)) = .next t ∧ SameRegisters s t ∧
    t.paths = s.paths ∧
    let found := (walk s (whoHome r.ctx) r.page).2.1
    let served := t.services = s.services.set i { r with taken := true, answer := some true }
    let refused := t.services = s.services.set i { r with taken := true, answer := some false }
    (∀ e k, found = .leaf e k → served) ∧ (found = .malformed ∨ found = .poisoned → refused) ∧
    ∀ a e v, found = .invalid a e v →
      let leaf := (v = 4 ∧ leafOk 16 (e ||| 1) = true) ∨ (v = 3 ∧ eLeaf e = true ∧ leafOk 26 (e ||| 1) = true)
      (leaf → LinesIdle s (linesOf a 8) → served ∧ readMem t.mem a 8 = (e ||| 1) % 2 ^ 64) ∧ (¬ leaf → refused)) ∧
  (r.host = false → (ctxAt s r.ctx).policy = 2 → ∃ t, exec .serviceRequest (s.about (.one i)) = .next t ∧ SameRegisters s t ∧
    t.paths = s.paths ∧
    ∃ r', t.services[i]? = some r' ∧ r'.taken = true ∧ r'.answer = r.answer ∧ r'.ctx = r.ctx ∧ r'.page = r.page)

/-- R155, R213, R214: SERVICE_ANSWER, of a context that is neither withdrawn by a pre-emption nor FAULTED. A path of the context on the core that
waited for the page waits for what else it asked for, and with its last page makes its instruction again, with the page refused where the
answer says so; the lanes that parked for it form groups of their slices at their positions, refused with PROT DETAIL 3 where the answer says
so; no other path changes. What the front end has waiting, served on core 0 (log entry 12, the model's choice), may ask again; elsewhere every
request for the page is gone. PARK_GROUP_START, while the context is RUNNING, runs the first group of an idle park slot; a refused group enters
its handler, through TRAPBASE as it stood at its issue, with the fault in TRAPPC, TRAPINFO and FAULTADDR. -/
def Obligations.ServiceAnswers : Prop := (∀ s i r ok, s.services[i]? = some r → r.answer = some ok → withdrawn s r.ctx = false →
  (ctxAt s r.ctx).state ≠ .faulted → ∃ t, exec .serviceAnswer (s.about (.one i)) = .next t ∧
    (r.core ≠ frontCore → ∀ x ∈ t.services, ¬ (x.ctx = r.ctx ∧ x.core = r.core ∧ x.page = r.page ∧ x.host = r.host)) ∧
    (∀ k q, aGet k s.paths = some q →
      (∀ pages, onCore s q.gang r.ctx r.core = true → q.wait = .service pages → pageKey r.page r.host ∈ pages →
        let left := pages.filter (· != pageKey r.page r.host)
        aGet k t.paths = some { q with wait := if left = [] then .none else .service left,
                                       refused := if ok then q.refused else q.refused ++ [pageKey r.page r.host] }) ∧
      (onCore s q.gang r.ctx r.core = false ∨ (∀ pages, q.wait = .service pages → pageKey r.page r.host ∉ pages) →
        aGet k t.paths = some q)) ∧
    (∀ k g, aGet k s.gangs = some g → onCore s k r.ctx r.core = true → ∃ g', aGet k t.gangs = some g' ∧
      ∀ rec ∈ g.parks, ∀ x ∈ rec.lanes, x.2.2 = pageKey r.page r.host → ∃ y ∈ g'.groups, y.slice = rec.slice ∧ y.pos = rec.pos ∧
        y.sup = rec.sup ∧ y.base = rec.base ∧ hasBit y.lanes x.1 = true ∧ y.refused.isSome = !ok ∧
        ∀ f, y.refused = some f → f.code = 0x07 ∧ f.detail = 3 ∧ f.word = rec.pos.word) ∧
    SameRegisters s t) ∧
  (∀ s gid slice g x w, aGet gid s.gangs = some g → g.groups.find? (fun y => y.slice == slice) = some x → parkBusy s gid slice = false →
    x.lanes &&& g.live ≠ 0 → wgOf s g = some w → (ctxAt s w.ctx).state = .running →
    let lanes := x.lanes &&& g.live
    let started (t : State) (q : Path) : Prop := aGet s.fresh t.paths = some q ∧ q.park = true ∧ q.gang = gid ∧ q.lanes = lanes ∧
      (∀ k, k ≠ s.fresh → aGet k t.paths = aGet k s.paths) ∧ t.v = s.v ∧ t.g = s.g ∧ t.p = s.p ∧
      ∃ g', aGet gid t.gangs = some g' ∧ g'.live = g.live ∧ g'.groups.length + 1 = g.groups.length
    (x.refused = none → ∃ t q, exec .parkGroupStart (s.about (.two gid slice)) = .next t ∧ started t q ∧ q.pos = x.pos ∧ q.sup = x.sup ∧
      t.csr = s.csr) ∧
    (∀ f, x.refused = some f → x.sup = false → x.base ≠ 0 → supervisorApart s gid lanes = false →
      (∀ e ∈ s.paths, e.2.gang = gid → e.2.sup = true → ∀ c ∈ slicesOf e.2.lanes, c ∉ slicesOf lanes) →
      ∃ t q, exec .parkGroupStart (s.about (.two gid slice)) = .next t ∧ started t q ∧ q.pos = ⟨x.base + 64 * f.code, 0, 0, 0⟩ ∧
        q.sup = true ∧ ∀ c ∈ slicesOf lanes, bGet t.csr (csrKey gid c csrTrapPc) = x.pos.hdr % 2 ^ 64 ∧
          bGet t.csr (csrKey gid c csrTrapInfo) = (trapWord f.lanes f.detail f.word f.two f.code).toNat ∧
          bGet t.csr (csrKey gid c csrFaultAddr) = f.addr % 2 ^ 64))

/-- R399 to R401, R406: what peers and the host answer. Data of a read arrive in its lane's access: the bytes that the request covers of it, and
the access is done with its last request, a quadword having two; one answer serves the lanes of a load that read the same line through the
read-only cache (R408). An acknowledgement ends a write and brings an atomic its old value. A NAK and a timeout fail a lane's read with PROT
DETAIL 9, and a host error completion one of the host with DETAIL 10 (which lanes it names is log entry 113, the model's choice), and are
counted; a store to the host is posted, and no completion answers it. A port that goes down is no longer up, and fails the requests of lanes
that it carries, no others. A peer's admitted write reaches memory at its offset, taken as a device address (log entry 39, the model's choice),
and is acknowledged; an admitted read of at most one line's length is answered with the bytes in memory; and a request that no window admits is
answered with NAK and changes nothing. -/
def Obligations.PeerAnswers : Prop := ∀ s : State,
  (∀ tag r o a data, aGet tag s.peers = some r → isRead r.ask = true → r.op ≠ 0 → aGet r.op s.ops = some o →
    o.accesses.find? (fun a => a.lane == r.lane) = some a → a.rt ≠ 4 → ∃ t o', exec .peerReadData (s.about (.two tag data)) = .next t ∧
      aGet tag t.peers = none ∧ SameRegisters s t ∧ t.paths = s.paths ∧ aGet r.op t.ops = some o' ∧
      o'.left = o.left - 1 - (alsoServed s r).length ∧
      let lo := max a.pa r.addr
      let hi := min (a.pa + a.size) (r.addr + askSize r.ask)
      ∃ a' ∈ o'.accesses, a'.lane = a.lane ∧ a'.pa = a.pa ∧
        (a'.done = true ↔ ∀ e ∈ s.peers, e.1 ≠ tag → e.2.op = r.op → e.2.lane ≠ r.lane) ∧
        a'.value = a.value + data / 256 ^ (lo - r.addr) % 256 ^ (hi - lo) * 256 ^ (lo - a.pa)) ∧
  (∀ tag r o data, aGet tag s.peers = some r → r.ask = .read 128 → r.op ≠ 0 → aGet r.op s.ops = some o → r.addr % 128 = 0 →
    isPeer r.addr = true → r.fill = 2 ∨ r.fill = 3 → (∀ sl, (sliceHolds s sl).length + 64 ≤ Config.sliceLines) →
    (∀ i, i < 128 → l1At s r.core (r.addr + i) = none) → ∃ t o', exec .peerReadData (s.about (.two tag data)) = .next t ∧
      aGet r.op t.ops = some o' ∧ ∀ a ∈ o.accesses, a.lane = r.lane ∨ a ∈ alsoServed s r → a.rt = 4 → r.addr ≤ a.pa →
        a.pa + a.size ≤ r.addr + 128 → ∃ a' ∈ o'.accesses, a'.lane = a.lane ∧ a'.pa = a.pa ∧ a'.done = true ∧
          a'.value = data / 256 ^ (a.pa - r.addr) % 256 ^ a.size) ∧
  (∀ tag r old, aGet tag s.peers = some r → isRead r.ask = false → isAtomic r.ask = false → frontOf r = none ∨ ofTgt r = true →
    ∃ t, exec .peerWriteAck (s.about (.two tag old)) = .next t ∧
    t.peers = aErase tag s.peers ∧ { t with peers := s.peers, subject := s.subject } = s) ∧
  (∀ tag r o a old, aGet tag s.peers = some r → isAtomic r.ask = true → r.op ≠ 0 → aGet r.op s.ops = some o → o.kind = .atom →
    o.accesses.find? (fun a => a.lane == r.lane) = some a → ∃ t o', exec .peerWriteAck (s.about (.two tag old)) = .next t ∧
      aGet tag t.peers = none ∧ SameRegisters s t ∧ t.paths = s.paths ∧ aGet r.op t.ops = some o' ∧ o'.left = o.left - 1 ∧
      ∃ a' ∈ o'.accesses, a'.lane = a.lane ∧ a'.pa = a.pa ∧ a'.done = true ∧ a'.value = old % 256 ^ askSize r.ask) ∧
  (∀ tag r o, aGet tag s.peers = some r → isRead r.ask = true → r.op ≠ 0 → aGet r.op s.ops = some o → (o.accesses.map (·.lane)).Nodup →
    (∀ f ∈ o.failed, f.1 ≠ r.lane ∧ ∀ a ∈ alsoServed s r, f.1 ≠ a.lane) → ∀ i, i = Instr.peerNak ∨ i = .peerTimeout →
    ∃ t o', exec i (s.about (.one tag)) = .next t ∧ aGet tag t.peers = none ∧ SameRegisters s t ∧ aGet r.op t.ops = some o' ∧
      o'.left = o.left - 1 - (alsoServed s r).length ∧
      o'.failed = o.failed ++ (r.lane, 5, 0x07, 9, r.va) :: (alsoServed s r).map (fun a => (a.lane, 5, 0x07, 9, a.va)) ∧ (∀ a ∈ o'.accesses, a.lane ≠ r.lane) ∧
      t.pkg.failedAccesses = s.pkg.failedAccesses + 1 ∧ t.pkg.errorVector = s.pkg.errorVector + 1) ∧
  (∀ op lane o a, aGet op s.ops = some o → o.accesses.find? (fun a => a.lane == lane) = some a →
    (o.kind = .store → exec .hostErrorCompletion (s.about (.two op lane)) = .next (s.about (.two op lane))) ∧
    (o.kind = .load → isHost a.pa = true → (∀ d x g l t nr c b r sc e, o.instr ≠ .atom d x g l t nr c b r sc e) → (∀ f ∈ o.failed, f.1 ≠ lane) →
      ∃ t o', exec .hostErrorCompletion (s.about (.two op lane)) = .next t ∧ SameRegisters s t ∧ aGet op t.ops = some o' ∧
        o'.left = o.left ∧ o'.failed = o.failed ++ [(lane, 5, 0x07, 10, a.va)] ∧ (∀ a ∈ o'.accesses, a.lane ≠ lane) ∧
        t.pkg.failedAccesses = s.pkg.failedAccesses + 1)) ∧
  (∀ a, ∃ t, exec .hostErrorCompletion (s.about (.one a)) = .next t ∧ { t with poison := s.poison, subject := s.subject } = s ∧
    hostFails t (hostBase + a % 2 ^ 52) = true) ∧
  (∀ port, aSorted s.peers = true → (∀ e ∈ s.peers, e.2.port = some port → e.2.op ≠ 0) →
    ∃ t, exec .polnuPortDown (s.about (.one port)) = .next t ∧ SameRegisters s t ∧ t.paths = s.paths ∧
      (∀ b, hasBit t.pkg.portsUp b = (hasBit s.pkg.portsUp b && b != port)) ∧
      (∀ e, e ∈ t.peers ↔ e ∈ s.peers ∧ e.2.port ≠ some port) ∧
      t.pkg.failedAccesses = s.pkg.failedAccesses + (s.peers.filter fun e => e.2.port == some port).length) ∧
  (∀ r : PeerIn, ∃ t, exec .peerRequestReceived (s.about (.peerIn r)) = .next t ∧ SameRegisters s t ∧ t.paths = s.paths ∧
    (admitted s r = false → { t with pkg := s.pkg, subject := s.subject } = s ∧ t.pkg.answers = s.pkg.answers ++ [(r.fabric, .nak)]) ∧
    (∀ bytes i b, admitted s r = true → r.op = .write bytes → bytes.length ≤ 128 → LinesIdle s (linesOf r.off bytes.length) →
      bytes[i]? = some b → bGet t.mem (r.off + i) = b % 256) ∧
    (∀ bytes, admitted s r = true → r.op = .write bytes → t.pkg.answers = s.pkg.answers ++ [(r.fabric, .wack none)]) ∧
    (∀ n, admitted s r = true → r.op = .read n → LinesIdle s (linesOf r.off n) → n ≤ 128 →
      t.pkg.answers = s.pkg.answers ++ [(r.fabric, .data (readBytes s.mem r.off n))]))

/-- R136, R138, R148: PIPELINE_SET_START of a kernel launch of one stage, whose next workgroup is due, is held back by no other launch and
fits a core of its context, starts it: one
workgroup on that core, at the next place of the grid, with its gangs of whole slices, every G, V and slice-scope register of theirs zero, but
G0, G1 and G2, and every predicate false but P7, and one path each at the first header at user level. WORKGROUP_FINISH of a workgroup without gangs and commands releases it. -/
def Obligations.WorkgroupsStartAndEnd : Prop := ∀ s,
  (∀ lid l core, aGet lid s.launches = some l → l.pass = none → setDue s lid l = true → setHeld s lid l = false →
    setPlace s lid l = some [core] → 1 ≤ l.desc.wgSize →
    l.desc.wgSize ≤ 64 → 1 ≤ l.desc.gang → l.desc.gang ≤ 8 → (∀ k, s.fresh * 128 ≤ k →
      (s.fresh * 256 ≤ k → aGet k s.g = none ∧ aGet k s.p = none) ∧ (s.fresh * 4096 ≤ k → aGet k s.v = none) ∧ aGet k s.csr = none) →
    (∀ e ∈ s.wgs, e.2.launch ≠ lid) →
    ∃ t w, exec .pipelineSetStart (s.about (.one lid)) = .next t ∧ aGet s.fresh t.wgs = some w ∧ w.launch = lid ∧ w.core = some core ∧
      w.n = l.nextSet ∧ w.stage = 0 ∧ w.x = l.nextSet % l.desc.nx ∧ w.y = l.nextSet / l.desc.nx % l.desc.ny ∧
      w.z = l.nextSet / l.desc.nx / l.desc.ny ∧ aGet lid t.launches = some { l with nextSet := l.nextSet + 1, room := [core] } ∧
      ∀ i, i < l.desc.wgSize → ∃ gid g q, aGet gid t.gangs = some g ∧ g.wg = s.fresh ∧ g.idx = i ∧ g.live = 2 ^ (4 * l.desc.gang) - 1 ∧
        aGet (gid + 1) t.paths = some q ∧ q.gang = gid ∧ q.lanes = g.live ∧ q.pos = ⟨l.desc.codeAddr, 0, 0, 0⟩ ∧ q.sup = false ∧
        (∀ c r, c < l.desc.gang → r < 32 → getGs t gid c r = (if r = 0 then l.desc.constAddr % 2 ^ 64
          else if r = 1 then (w.x + w.y * 2 ^ 20 + w.z * 2 ^ 40) % 2 ^ 64 else if r = 2 then i * 2 ^ 8 else 0)) ∧
        (∀ l r, l < 32 → (r < 128 → getV t gid l r = 0) ∧ (r < 7 → getP t gid l r = false)) ∧
        ∀ c n, c < 8 → n < 16 → bGet t.csr (csrKey gid c n) = 0) ∧
  (∀ wid w, aGet wid s.wgs = some w → (∀ e ∈ s.gangs, e.2.wg ≠ wid) → w.lift = [] → w.liftGangs = [] → w.rayQueue = [] →
    commandsLeft s wid = false → ∃ t, exec .workgroupFinish (s.about (.one wid)) = .next t ∧ aGet wid t.wgs = none ∧
      (∀ k, k ≠ wid → aGet k t.wgs = aGet k s.wgs) ∧ SameRegisters s t ∧ t.mem = s.mem ∧ t.paths = s.paths ∧
      (∀ b, b < 2 ^ 18 → scratchByte t wid b = 0) ∧ ∀ w' b, w' ≠ wid → b < 2 ^ 18 → scratchByte t w' b = scratchByte s w' b)

/-- R159 to R161: LIFT_FLUSH, without a live lane in the workgroup, turns every deposit into gangs that wait, keys ascending, each key's deposits in
their order and its gangs full but for the last (that they start in this order is log entry 28, the model's choice); when a gang
waits, its slices are IDLE and an index is free, CONTINUATION_GANG_LAUNCH starts it: one lane for each entry, in deposit order, its
payload in V0 upward, the constants' address in G0 and the key in G1, at the continuation. -/
def Obligations.LiftLaunches : Prop := ∀ s wid w, aGet wid s.wgs = some w →
  (noLiveLane s wid = true → w.lift ≠ [] → w.liftGangs = [] → liftReady s wid w = false →
    1 ≤ (gangShape s w).1 → ∃ t w', exec .liftFlush (s.about (.one wid)) = .next t ∧
    aGet wid t.wgs = some w' ∧ w'.lift = [] ∧ w'.liftGangs ≠ [] ∧
    (∀ k, (w'.liftGangs.flatMap (·.entries)).filter (fun e => e.key == k) = w.lift.filter fun e => e.key == k) ∧
    (∀ g ∈ w'.liftGangs, g.slices = (g.entries.length + 3) / 4 ∧ 0 < g.entries.length ∧ g.entries.length ≤ 4 * (gangShape s w).1 ∧
      ∀ e ∈ g.entries, ∀ e' ∈ g.entries, e.key = e'.key) ∧
    (∀ (i j : Nat) a b, i < j → w'.liftGangs[i]? = some a → w'.liftGangs[j]? = some b → ∀ e ∈ a.entries, ∀ e' ∈ b.entries, e.key ≤ e'.key ∧
      (e.key = e'.key → a.entries.length = 4 * (gangShape s w).1)) ∧
    { t with wgs := s.wgs, subject := s.subject } = s) ∧
  (∀ x rest idx, w.liftGangs = x :: rest → (freeIndexes s wid (gangShape s w).2).head? = some idx → x.slices ≤ w.idle.length →
    1 ≤ x.slices → x.slices ≤ 8 → x.slices = (x.entries.length + 3) / 4 → (∀ e ∈ x.entries, e.payload.length ≤ 8) →
    ∃ t g q, exec .continuationGangLaunch (s.about (.one wid)) = .next t ∧
      aGet s.fresh t.gangs = some g ∧ g.wg = wid ∧ g.idx = idx ∧ g.kind = .continuation ∧ g.slices = w.idle.take x.slices ∧
      g.live = 2 ^ x.entries.length - 1 ∧ aGet (s.fresh + 1) t.paths = some q ∧ q.gang = s.fresh ∧ q.lanes = g.live ∧
      q.pos = ⟨((x.entries.head?).map (·.cont)).getD 0, 0, 0, 0⟩ ∧ q.sup = false ∧
      (∀ c, c < x.slices → getGs t s.fresh c 0 = ((aGet w.launch s.launches).map (·.desc.constAddr)).getD 0 % 2 ^ 64 ∧ getGs t s.fresh c 1 = (((x.entries.head?).map (·.key)).getD 0) % 2 ^ 64) ∧
      ∀ i e, x.entries[i]? = some e → ∀ j v, e.payload[j]? = some v → getV t s.fresh i j = v % 2 ^ 32)

/-- R283 to R292: the copies. With their descriptors read and well formed, the handles' word and the form's own conditions met, no
destination in a weight store, and room for the reservation, CPYT, CPYG, CPYS, CPYQ, CPYZ and CPYX put their command into flight and
change no register and no byte. -/
def Obligations.CopyCommands : Prop := ∀ s p q g x b, Issues s p q → g < 32 → x < 2 → b < 16 → BarRoom s q (barOf x b) →
  (∀ a d, Tensor s q (bits (getG s q g) 15 0) a → Tensor s q (bits (getG s q g) 31 16) d → d.kind ≠ 1 →
    (bits (getG s q g) 63 32 = 0 →
      (a.fmt = d.fmt → a.rank = d.rank → a.dims = d.dims → ∃ t, exec (.cpyt g x b) s = .next t ∧ t.g = s.g ∧
        CommandIssued s t p q (.cpyt g x b) (.copy a d) (barOf x b)) ∧
      (∀ v, v < 128 → rowConditions q true [a, d] = none → ∃ t, exec (.cpyg v g x b) s = .next t ∧ t.g = s.g ∧
        CommandIssued s t p q (.cpyg v g x b) (.gather a d ((lanesOf (active q)).map fun l => getV s q.gang l v)) (barOf x b)) ∧
      (∀ v, v < 128 → rowConditions q false [a, d] = none → ∃ t, exec (.cpys v g x b) s = .next t ∧ t.g = s.g ∧
        CommandIssued s t p q (.cpys v g x b) (.scatter a d ((lanesOf (active q)).map fun l => getV s q.gang l v)) (barOf x b))) ∧
    (∀ v k key, v < 32 → k < 16 → aGet (ctxOf s q / 16 * 16 + k) s.keys = some key →
      (streamConditions (bits (getG s q g) 63 32) a d d = none → ∃ t, exec (.cpyz v g x b k) s = .next t ∧ t.g = s.g ∧
        CommandIssued s t p q (.cpyz v g x b k) (.encrypt a d key.toNat (getG s q v) (bits (getG s q g) 63 32)) (barOf x b)) ∧
      (streamConditions (bits (getG s q g) 63 32) d a d = none → ∃ t, exec (.cpyx v g x b k) s = .next t ∧ t.g = s.g ∧
        CommandIssued s t p q (.cpyx v g x b k) (.decrypt a d key.toNat (getG s q v) (bits (getG s q g) 63 32)) (barOf x b)))) ∧
  (∀ k h a r c, k < 65536 → h < 65536 → bits (getG s q g) 63 16 = 0 → Tensor s q (bits (getG s q g) 15 0) a → Tensor s q h r →
    Tensor s q k c → quantConditions [a, r, c] = none → r.kind ≠ 1 → c.kind ≠ 1 → wholeScales r = true → wholeScales c = true →
    ∃ t, exec (.cpyq g x b k h) s = .next t ∧ t.g = s.g ∧ CommandIssued s t p q (.cpyq g x b k h) (.quant a r c) (barOf x b))

/-- R299 to R312, R317, R319: the matrix commands of a crew of one, with a free entry in the reservation table. MMA takes its A operand
from the path's registers, or from the gang's latch, and latches it with REUSE, or leaves the latch empty without; MJOB takes the card's passes; ACCZ takes the anchor from
G; DRAIN takes the tile's origin from G. Each puts its command into flight; no register, tile or byte changes yet. -/
def Obligations.MatrixCommands : Prop := ∀ s p q g, Issues s p q → g < 32 → entryFree s (coreOf s q) = true →
  (∀ v sr ru wd h f t fb bytes d x, v < 128 → sr < 2 → ru < 2 → wd < 6 → h < 65536 → f < 32 → t < 128 → gangOf s q = some x →
    CrewOfOne s q g f false (sr != 1) bytes fb → widthAdmits wd fb.afmt = true → (sr = 1 → fb.block ≠ 0) →
    (∀ a, x.latch = some a → a.width = wd ∧ a.sreg = (sr == 1)) → Tensor s q h d → operandOk fb fb.bfmt d = true →
    fb.bk0 + 32 ≤ nth d.dims 0 → fb.bn0 + 32 ≤ nth d.dims 1 → badScales fb d = false →
    (fb.block ≠ 0 → sr ≠ 1 → fb.ascale % 128 = 0) →
    let a := x.latch.getD (regOperand s q v wd (sr == 1))
    ∃ u x', exec (.mma v g sr ru wd h f t) s = .next u ∧ u.g = s.g ∧ aGet q.gang u.gangs = some x' ∧
      x' = { x with latch := if ru = 1 then some a else none } ∧
      CommandIssued s u p q (.mma v g sr ru wd h f t) (.mma fb d [⟨q.gang, active q, t, a, x.latch.isSome, ru == 1⟩]) none) ∧
  (∀ v x b f fb bytes cb da db, v < 32 → x < 2 → b < 16 → f < 32 → BarRoom s q (barOf x b) → CrewOfOne s q g f true false bytes fb →
    getG s q v % 128 = 0 → Structure s q (getG s q v) 128 cb → cardOk cb (cardOfBytes (getG s q v) cb) = true →
    Tensor s q (fieldAt cb 8 2) da → Tensor s q (fieldAt cb 10 2) db → operandOk fb fb.afmt da = true → operandOk fb fb.bfmt db = true →
    (∀ j, j < passCount (cardOfBytes (getG s q v) cb) 1 →
      passOk (((descOf s q).map (·.accTiles)).getD 0) da db (passAt (cardOfBytes (getG s q v) cb) 1 j) = true) →
    badScales fb da = false → badScales fb db = false →
    ∃ u, exec (.mjob v g x b f) s = .next u ∧ u.g = s.g ∧
      CommandIssued s u p q (.mjob v g x b f) (.mjob fb (cardOfBytes (getG s q v) cb) da db 1) (barOf x b)) ∧
  (∀ v, v < 128 → ∃ u, exec (.accz v g) s = .next u ∧ u.g = s.g ∧
    CommandIssued s u p q (.accz v g) (.accz v ((BitVec.ofNat 16 (getG s q g)).toInt)) none) ∧
  (∀ v x b e z m f h d, v < 128 → x < 2 → b < 16 → e < 2 → z < 2 → m < 4 → f < 6 → h < 65536 → BarRoom s q (barOf x b) → Tensor s q h d →
    d.kind ≠ 1 → d.rank = 2 → d.fmt = nth [6, 7, 5, 4, 8, 9] f → (4 ≤ f → d.block = 32) → bits (getG s q g) 31 0 + 32 ≤ nth d.dims 0 →
    bits (getG s q g) 63 32 + 32 ≤ nth d.dims 1 →
    (4 ≤ f → bits (getG s q g) 31 0 % 32 = 0 ∧ bits (getG s q g) 63 32 % 32 = 0 ∧ nth d.dims 1 % 32 = 0 ∧ nth d.dims 0 % 128 = 0) →
    ∃ u, exec (.drain v g x b e z m f h) s = .next u ∧ u.g = s.g ∧
      CommandIssued s u p q (.drain v g x b e z m f h) (.drain v (getG s q g) d f m (z == 1) (e == 1)) (barOf x b))

/-- R326, R327, R334, R340, R344: bond and mode registers, chains and steps. BDSET and MDSET store a value in range for the workgroup,
BDGET reads one back; TTCON and TTPROG put their chain into flight and give G[w] the boundary word after its last step; STEPBEG and
STEPEND put their command into flight; SKIPRD reads and SKIPWR writes the bits of a skip map that the block has. -/
def Obligations.ChainAndStepCommands : Prop := ∀ s p q g w, Issues s p q → g < 32 → aGet (wgIdOf s q) s.wgs = some w →
  wgOfPath s q = some w → w.bonds.length = 16 → w.modes.length = 16 →
  (∀ n, n < 16 → 1 ≤ getG s q g → getG s q g ≤ 4096 → ∃ t w', exec (.bdset g n) s = .next t ∧ PathBecomes s t p (q.past 1) ∧
    SameRegisters s t ∧ aGet (wgIdOf s q) t.wgs = some w' ∧ nth w'.bonds n = getG s q g ∧ w'.modes = w.modes ∧
    ∀ m, m ≠ n → nth w'.bonds m = nth w.bonds m) ∧
  (∀ n, n < 16 → modeOk (getG s q g) = true → ∃ t w', exec (.mdset g n) s = .next t ∧ PathBecomes s t p (q.past 1) ∧
    SameRegisters s t ∧ aGet (wgIdOf s q) t.wgs = some w' ∧ nth w'.modes n = getG s q g ∧ w'.bonds = w.bonds ∧
    ∀ m, m ≠ n → nth w'.modes m = nth w.modes m) ∧
  (∀ m n, m < 2 → n < 16 → ∃ t, exec (.bdget g m n) s = .next t ∧ PathBecomes s t p (q.past 1) ∧ OnlyG s t ∧
    ∀ gid c r, c < 8 → r < 32 → (Holds q gid c ∧ active q ≠ 0 ∧ r = g → getGs t gid c r = nth (if m = 0 then w.bonds else w.modes) n % 2 ^ 64) ∧
      (¬ (Holds q gid c ∧ active q ≠ 0 ∧ r = g) → getGs t gid c r = getGs s gid c r)) ∧
  (∀ v x b d c steps final, v < 32 → x < 2 → b < 16 → BarRoom s q (barOf x b) → entryFree s (coreOf s q) = true → getG s q g % 256 = 0 →
    Structure s q (getG s q g) 256 d → c = chainOfBytes (getG s q g) d w.bonds w.modes → chainOk d c = true →
    chainScratch (scratchBytes s q) c = none →
    let done (i : Instr) (t : State) : Prop := CommandIssued s t p q i (.chain c steps) (barOf x b) ∧
      ∀ gid k r, k < 8 → r < 32 → (Holds q gid k ∧ active q ≠ 0 ∧ r = v → getGs t gid k r = final % 2 ^ 64) ∧
        (¬ (Holds q gid k ∧ active q ≠ 0 ∧ r = v) → getGs t gid k r = getGs s gid k r)
    (∀ k, k < 32 → checkSteps s (ctxOf s q) c 0 (getG s q v) [(k, bits (fieldAt d 3 1) 1 0)] = .ok (steps, final) →
      ∃ t, exec (.ttcon v g k x b) s = .next t ∧ done (.ttcon v g k x b) t) ∧
    (checkSteps s (ctxOf s q) c 0 (getG s q v) ((List.range (fieldAt d 6 1)).map fun k =>
        (bits (stepWord d k) 4 0, if hasBit (stepWord d k) 7 then bits (stepWord d k) 6 5 else bits (fieldAt d 3 1) 1 0)) =
          .ok (steps, final) →
      ∃ t, exec (.ttprog v g x b) s = .next t ∧ done (.ttprog v g x b) t)) ∧
  (entryFree s (coreOf s q) = true → ∃ t, exec (.stepbeg g) s = .next t ∧ t.g = s.g ∧
    CommandIssued s t p q (.stepbeg g) (.stepBegin (getG s q g)) none) ∧
  (∀ x b, x < 2 → b < 16 → BarRoom s q (barOf x b) → entryFree s (coreOf s q) = true → ∃ t, exec (.stepend x b) s = .next t ∧
    t.g = s.g ∧ CommandIssued s t p q (.stepend x b) .stepEnd (barOf x b)) ∧
  (∀ d blk m, d < 32 → q.wait = .none → slicesOf (active q) ≠ [] → indexOk (getG s q g) = true → orderClear s (wgIdOf s q) s.fresh ([], true) = true →
    w.step.blocks[bits (getG s q g) 11 8]? = some blk → m = 64 * bits (getG s q g) 5 0 →
    (∃ t, exec (.skiprd d g) s = .next t ∧ PathBecomes s t p (q.past 1) ∧ t.wgs = s.wgs ∧ t.v = s.v ∧
      ∀ i, i < 64 → hasBit (getG t q d) i =
        (decide (m + i < blk.mt * blk.nt) && hasBit (spGet w.step.maps (bits (getG s q g) 11 8)) (m + i))) ∧
    (∃ t w', exec (.skipwr d g) s = .next t ∧ PathBecomes s t p (q.past 1) ∧ SameRegisters s t ∧
      aGet (wgIdOf s q) t.wgs = some w' ∧ ∀ i, hasBit (spGet w'.step.maps (bits (getG s q g) 11 8)) i =
        if m ≤ i ∧ i < m + 64 ∧ i < blk.mt * blk.nt then hasBit (getG s q d) (i - m)
        else hasBit (spGet w.step.maps (bits (getG s q g) 11 8)) i))

/-- R88, R90, R313, R317, R318: a path reads and writes accumulator tiles when its turn in the tile order has come. ACCADD adds each
lane's values to its row from the column on; ACCRD reads an element into a register quad of each lane; ACCWR makes the element of each
lane's row from a quad, in canonical channels. -/
def Obligations.TileAccess : Prop := ∀ s p q v g x wg col, Issues s p q → q.wait = .none → v < 96 → g < 32 → x < 32 → wg = wgIdOf s q →
  col = bits (getG s q g) 4 0 → orderClear s wg s.fresh ([v], false) = true →
  (∃ t, exec (.accadd v g x) s = .next t ∧ PathBecomes s t p (q.past 1) ∧ SameRegisters s t ∧ t.mem = s.mem ∧ OnlyTile s t wg v ∧
    (tileOf t wg v).anchor = (tileOf s wg v).anchor ∧
    ∀ l k, l < 32 → k < 32 →
      (∀ a, hasBit (active q) l = true → (addValues s q (bits (getG s q g) 9 8) x l)[(k + 32 - col) % 32]? = some a →
        elementAt t wg v (32 * l + k) = accumulated (tileOf s wg v).anchor (elementAt s wg v (32 * l + k)) [a]) ∧
      (hasBit (active q) l = false ∨ (addValues s q (bits (getG s q g) 9 8) x l).length ≤ (k + 32 - col) % 32 →
        elementAt t wg v (32 * l + k) = elementAt s wg v (32 * l + k))) ∧
  (∀ la, la < 16 → hasBit (getG s q g) 8 = false → (∀ l, l < 32 → hasBit (active q) l = true → elemPoisoned s wg v (32 * l + col) = false) →
    ∃ t, exec (.accrd v g la x) s = .next t ∧ PathBecomes s t p (q.past 1) ∧ t.acc = s.acc ∧ t.tiles = s.tiles ∧ t.g = s.g ∧ t.mem = s.mem ∧
      ∀ gid l r, l < 32 → r < 128 →
        (∀ j, j < 4 → Takes q gid l → r = 4 * x + j → getV t gid l r = getElem s wg v (32 * l + col) % 2 ^ 112 / 2 ^ (32 * j) % 2 ^ 32) ∧
        (¬ (Takes q gid l ∧ 4 * x ≤ r ∧ r < 4 * x + 4) → getV t gid l r = getV s gid l r)) ∧
  (hasBit (getG s q g) 8 = false → ∃ t, exec (.accwr v g x) s = .next t ∧ PathBecomes s t p (q.past 1) ∧ SameRegisters s t ∧
    t.mem = s.mem ∧ t.tiles = s.tiles ∧ OnlyTile s t wg v ∧
    ∀ l k, l < 32 → k < 32 → getElem t wg v (32 * l + k) =
      if hasBit (active q) l = true ∧ k = col then canonicalElem (getRegs s q.gang l (4 * x) 4) else getElem s wg v (32 * l + k))

/-- R286, R296, R302, R308, R310, R314, R318: the work of commands, whose end leaves no deadlock of barriers.
A copy within the scratchpad leaves every destination unit equal to its source; a granted ACCZ zeroes its tile under its anchor; a granted MMA of plain formats adds its member's products to the rows of its
lanes; a command that a full table held is accepted, and the A latches that its members use without REUSE are emptied only then; a command that
has ended completes. -/
def Obligations.CommandsRun : Prop := ∀ s id c, aGet id s.cmds = some c →
  (∀ a d, c.body = .copy a d → c.page = none → peerBusy s id = false → c.ended = false → c.failed = false → c.next = 0 → a.kind = 2 →
    d.kind = 2 → a.fmt = d.fmt → unitCount a = unitCount d → (∀ w u, ErrorPlace.scratch w u ∉ s.poison) →
    (∀ j, j < unitCount a → 0 ≤ unitAt a j ∧ unitAt a j + unitBytes a.fmt ≤ 2 ^ 18 ∧ 0 ≤ unitAt d j ∧ unitAt d j + unitBytes a.fmt ≤ 2 ^ 18) →
    (∀ j k, j < unitCount a → k < unitCount a → unitAt a j + unitBytes a.fmt ≤ unitAt d k ∨ unitAt d k + unitBytes a.fmt ≤ unitAt a j) →
    (∀ j k, j < unitCount a → k < unitCount a → j ≠ k → unitAt d j + unitBytes a.fmt ≤ unitAt d k ∨ unitAt d k + unitBytes a.fmt ≤ unitAt d j) →
    (c.bar = none ∨ barrierDeadlock (closeCmd s id c) c.wg = false) →
    ∃ t, exec .copyComplete (s.about (.one id)) = .next t ∧ CommandOver s t id c ∧
      (∀ j i, j < unitCount a → i < unitBytes a.fmt → unitByte t c.wg d j i = unitByte s c.wg a j i) ∧
      ∀ w (b : Nat), b < 2 ^ 18 → (w = c.wg → ∀ j, j < unitCount a → ¬ (unitAt d j ≤ b ∧ b < unitAt d j + unitBytes a.fmt)) →
        scratchByte t w b = scratchByte s w b) ∧
  (∀ tile a, c.body = .accz tile a → tile < 96 → passReady s id c = true → ∃ t c', exec .matrixPass (s.about (.one id)) = .next t ∧
    aGet id t.cmds = some c' ∧ c'.ended = true ∧ c'.failed = c.failed ∧ OnlyTile s t c.wg tile ∧ SameRegisters s t ∧ t.mem = s.mem ∧
    (tileOf t c.wg tile).anchor = a ∧ ∀ e, e < 1024 → elementAt t c.wg tile e = (0, 0)) ∧
  (∀ fb d m codes aw, c.body = .mma fb d [m] → m.tile < 96 → passReady s id c = true → c.next = 0 → c.fetched = some (codes, []) →
    fb.block = 0 → (memberWindow s id c fb m).2 = .ok aw → (tileOf s c.wg m.tile).anchor = fb.anchor →
    (∀ e, elemPoisoned s c.wg m.tile e = false) → ∃ t c', exec .matrixPass (s.about (.one id)) = .next t ∧ aGet id t.cmds = some c' ∧
      c'.ended = true ∧ OnlyTile s t c.wg m.tile ∧ SameRegisters s t ∧ t.mem = s.mem ∧ ∀ r n, r < 32 → n < 32 →
        elementAt t c.wg m.tile (32 * r + n) = if hasBit m.a.lanes r = true then
          accumulated fb.anchor (elementAt s c.wg m.tile (32 * r + n))
            (rowPartials fb (fun k => nth aw.codes (32 * r + k)) (fun k => nth codes (32 * n + k)) (fun j => nth aw.scales (r + j)) (fun _ => 0))
          else elementAt s c.wg m.tile (32 * r + n)) ∧
  (c.accepted = false → entryFree s c.core = true → ∃ t n, exec .reservationAccept (s.about (.one id)) = .next t ∧
    n = (if isCrew c.body = true then id else s.fresh) ∧ (id ≠ n → aGet id t.cmds = none) ∧ aGet n t.cmds = some { c with
      accepted := true
      owners := c.owners.map fun o => (o.1, ((aGet o.1 s.gangs).map (·.openBatch)).getD 1, o.2.2) } ∧ SameRegisters s t ∧
    (∀ fb d ms, c.body = .mma fb d ms → ∀ gid, aGet gid t.gangs = (aGet gid s.gangs).map fun g =>
      if ms.any (fun m => m.gang == gid && m.latched && !m.reuse) then { g with latch := none } else g) ∧
    ∀ k q, aGet k s.paths = some q → aGet k t.paths = some (if q.wait = .command id then { q with wait := .none } else q)) ∧
  (takesEntry c.body = true → c.ended = true → peerBusy s id = false → (∀ fb k a b n, c.body = .mjob fb k a b n → k.step = false) →
    (c.bar = none ∨ barrierDeadlock (closeCmd s id c) c.wg = false) → ∃ t, exec .engineCommandComplete (s.about (.one id)) = .next t ∧ CommandOver s t id c)

/-- R300, R302, R308: CREW_FORM, once a workgroup's latch holds as many members as its crew word names, makes one command of them, of which
every member is an owner, empties the latch, and lets every member's path go on. A member of an MMA with REUSE leaves its operand in its
gang's A latch, one without empties an A latch that it used; MJOB leaves the A latches alone. -/
def Obligations.CrewForms : Prop := ∀ s wid w f l q, aGet wid s.wgs = some w → (ctxAt s w.ctx).state = .running →
  w.latch.head? = some f → w.latch.getLast? = some l →
  aGet l.path s.paths = some q → w.latch.length = bits f.word 2 0 → crewBar f.instr = none → entryFree s (coreOf s q) = true →
  (w.latch.map (·.path)).Nodup → (w.latch.map (·.gang)).Nodup →
  ∃ t c, exec .crewForm (s.about (.one wid)) = .next t ∧ aGet s.fresh t.cmds = some c ∧ c.body = crewBody s w.latch ∧ c.accepted = true ∧
    c.owners.map (fun o => (o.1, o.2.2)) = w.latch.map (fun m => (m.gang, m.lanes)) ∧
    (∃ w', aGet wid t.wgs = some w' ∧ w' = { w with latch := [] }) ∧ SameRegisters s t ∧ t.mem = s.mem ∧
    (∀ m : LatchMember, m ∈ w.latch → ∀ qm, aGet m.path s.paths = some qm → aGet m.path t.paths = some (qm.past (Machine.sizeOf m.instr))) ∧
    (∀ fb card a b n, f.body = .mjob fb card a b n → t.gangs = s.gangs) ∧
    ∀ fb b, (∀ m : LatchMember, m ∈ w.latch → ∃ x g, m.body = .mma fb b [x] ∧ x.gang = m.gang ∧ aGet m.gang s.gangs = some g ∧ g.idx ∈ crewIds f.word) →
      (w.latch.map fun m => (aGet m.gang s.gangs).map (·.idx)).Nodup →
      ∀ m x g, m ∈ w.latch → m.body = .mma fb b [x] → aGet m.gang s.gangs = some g →
        aGet m.gang t.gangs = some { g with latch := if x.reuse then some x.a else if x.latched then none else g.latch }

/-- R347 to R350, R359 to R362: what a path does to a target that translates and passes its checks. TGTOPEN captures it and binds it to
the queue's frame; TGTSEAL begins its seal; TGTWAIT, and TARGET_WAIT_END for one that waited, writes whether STATE is SEALED; POST of
fragments that are eligible, or for which the lantern has a place, gives their entries the colour, the depth and the slot; KILL and KILL.ALL
take the lanes' entries out; ZPROBE writes false of an address that is no captured target, and of a captured MONO target that is OPEN or SEALING
whether every covered sample's stored depth is passed already. -/
def Obligations.TargetInstructions : Prop := ∀ s p q g a c core, g < 32 → a = getG s q g → a % 256 = 0 → c = ctxOf s q → core = coreOf s q →
  (∀ b pst cov, Issues s p q → pathAway s p = false → CanOpen s c core a (c * 16 + queueOf s q) b pst cov → ∃ t, exec (.tgtopen g) s = .next t ∧
    PathBecomes s t p (q.past 1) ∧ SameRegisters s t ∧ Opened s t c a (c * 16 + queueOf s q) b pst cov) ∧
  (∀ pst x, Issues s p q → pathAway s p = false → CanSeal s c core a pst x → ∃ t, exec (.tgtseal g) s = .next t ∧ PathBecomes s t p (q.past 1) ∧
    SameRegisters s t ∧ Sealing s t c a pst x (queueOf s q) (((launchOfPath s q).map (·.packet)).getD 0)) ∧
  (∀ pd st, pd < 8 → EngineStructure s c core a 1 [st] → st ≠ tgtSealing →
    let done (t : State) : Prop := PathBecomes s t p (q.past 1) ∧ t.v = s.v ∧ t.g = s.g ∧ t.csr = s.csr ∧ t.targets = s.targets ∧
      ∀ gid l r, l < 32 → r < 8 → (Takes q gid l ∧ r = pd ∧ pd ≠ 7 → getP t gid l r = (st == tgtSealed)) ∧
        (¬ (Takes q gid l ∧ r = pd ∧ pd ≠ 7) → getP t gid l r = getP s gid l r)
    (Issues s p q → loadsReady s q.gang q.lanes = true → ∃ t, exec (.tgtwait g pd) s = .next t ∧ done t) ∧
    (aGet p s.paths = some q → q.wait = .target → q.cur = some (.tgtwait g pd) → (ctxAt s c).state = .running →
      ∃ t, exec .targetWaitEnd (s.about (.one p)) = .next t ∧ done t)) ∧
  (∀ v k x, Issues s p q → v + 5 ≤ 128 → k < 16 → (∀ pend f, q.wait ≠ .admitting pend f) → aGet (tgtKey c a) s.targets = some x →
    hasBit x.desc.pmask k = true → (∀ l, l < 32 → hasBit (active q) l = true → ∃ o, laneEntry x q.gang l = some o ∧ (eligible x o = true ∨
      aSorted s.targets = true ∧ parkedAt s (lanternOf s x o.x o.y) + x.entries.length < Config.parkedFragments)) →
    ∃ t x', exec (.post v g k) s = .next t ∧ PathBecomes s t p (q.past (Machine.sizeOf (.post v g k))) ∧ SameRegisters s t ∧ t.mem = s.mem ∧
      aGet (tgtKey c a) t.targets = some x' ∧ x'.desc = x.desc ∧ (∀ j, j ≠ tgtKey c a → aGet j t.targets = aGet j s.targets) ∧
      x'.entries = x.entries.map fun o => if o.gang == q.gang && hasBit (active q) o.lane && decide (o.lane < 32) && o.frag.isNone then
        { o with frag := some (k, (List.range 4).map (fun i => getV s q.gang o.lane (v + i)), getV s q.gang o.lane (v + 4)),
                 launch := ((wgOfPath s q).map (·.launch)).getD 0, base := baseOf s q } else o) ∧
  (∀ x, Issues s p q → aGet (tgtKey c a) s.targets = some x →
    (∀ l, l < 32 → hasBit (active q) l = true → (laneEntry x q.gang l).isSome = true) →
    ∃ t, exec (.kill g) s = .next t ∧ PathBecomes s t p (q.past 1) ∧ SameRegisters s t ∧ t.mem = s.mem ∧
      aGet (tgtKey c a) t.targets = some { x with entries := x.entries.filter fun o =>
        !(o.gang == q.gang && decide (o.lane < 32) && hasBit (active q) o.lane && o.frag.isNone) } ∧
      ∀ j, j ≠ tgtKey c a → aGet j t.targets = aGet j s.targets) ∧
  (Issues s p q → ∃ t, exec .killAll s = .next t ∧ PathBecomes s t p (q.past 1) ∧ SameRegisters s t ∧ t.mem = s.mem ∧
    ∀ j x, aGet j s.targets = some x → aGet j t.targets = some (if x.ctx = c then { x with entries := x.entries.filter fun o =>
      !(o.gang == q.gang && decide (o.lane < 32) && hasBit (active q) o.lane && o.frag.isNone) } else x)) ∧
  (∀ v b pd, Issues s p q → v < 128 → pd < 8 → EngineStructure s c core a 256 b → aGet (tgtKey c a) s.targets = none →
    ∃ t, exec (.zprobe v g pd) s = .next t ∧ PathBecomes s t p (q.past 1) ∧ t.v = s.v ∧ t.g = s.g ∧ t.csr = s.csr ∧
      ∀ gid l r, l < 32 → r < 8 → (Takes q gid l ∧ r = pd ∧ pd ≠ 7 → getP t gid l r = false) ∧
        (¬ (Takes q gid l ∧ r = pd ∧ pd ≠ 7) → getP t gid l r = getP s gid l r)) ∧
  (∀ v b pd x d (o : Nat → OrderEntry) (z : Nat → Nat → Nat), Issues s p q → v < 128 → pd < 8 → pd ≠ 7 → EngineStructure s c core a 256 b →
    aGet (tgtKey c a) s.targets = some x → d = targetOfBytes b → isMono d = true → (nth b 0 = tgtOpened ∨ nth b 0 = tgtSealing) →
    (∀ l, l < 32 → hasBit (active q) l = true → laneEntry x q.gang l = some (o l) ∧ ∀ k, k < 8 → hasBit (o l).samples k = true →
      ∃ bz, EngineStructure s c core ((pixelAddr d 4 (o l).x (o l).y + 4 * k) % 2 ^ 64) 4 bz ∧ z l k = ofBytes bz) →
    ∃ t, exec (.zprobe v g pd) s = .next t ∧ PathBecomes s t p (q.past 1) ∧ t.v = s.v ∧ t.g = s.g ∧ t.csr = s.csr ∧ t.mem = s.mem ∧
      ∀ gid l r, l < 32 → r < 8 → (Takes q gid l ∧ r = pd → (getP t gid l r = true ↔ ∀ k, k < 8 → hasBit (o l).samples k = true →
          isNan f32 (getV s q.gang l v) = false ∧ isNan f32 (z l k) = false ∧
          if monoRises d = true then fpValue f32 (getV s q.gang l v) ≤ fpValue f32 (z l k)
          else fpValue f32 (z l k) ≤ fpValue f32 (getV s q.gang l v))) ∧
        (¬ (Takes q gid l ∧ r = pd) → getP t gid l r = getP s gid l r))

/-- R352, R354, R356, R363, R366 to R374: the graphics pipeline. The layout of bin records is log entry 107, which lines count as a target's
planes log entry 108, and that an unbound target still gets the entries of passes of its bins log entry 57: the model's choices. SMP and SMPL read their texels and hold each lane's components; PRIM
hands its lanes' triangles to the binner, which PRIMITIVE_BINNED records while they fit, and the path goes on; PARTIAL_RENDER rasterises
what is recorded when the next triangle does not fit, and counts it; FRAGMENT_PASS_START makes a pass's launch; RASTER_EMIT makes the next
fragment's entry in every target of the pass; FRAGMENT_APPLY runs an eligible fragment's method and resolves its entry;
TARGET_SEAL_COMPLETE, with no entry left, drops the lines of the planes from the read-only caches, and clean copies of them from the L1s,
adds one to SEALNO and makes STATE SEALED. -/
def Obligations.Graphics : Prop := ∀ s : State,
  (∀ p q v g la k wr b pl n (codes : Nat → Nat), Issues s p q → v + 3 ≤ 128 → g < 32 → la < 16 → k < 32 → wr < 2 → q.refused = [] →
    getG s q g % 256 < 4 → pl = getG s q g % 4 → n = planeSize (targetOfBytes b) pl →
    EngineStructure s (ctxOf s q) (coreOf s q) (getG s q g / 256 * 256) 256 b →
    sampleFault b (targetOfBytes b) pl (getG s q g / 256 * 256) = none → coreOf s q ∉ s.roDrops → (∃ l, l < 32 ∧ hasBit (active q) l = true) →
    let fine (texels : Nat → List (Nat × Nat)) : Prop :=
      ∀ l, l < 32 → hasBit (active q) l = true → ∀ x ∈ texels l, TexelReads s q x.1 n (codes x.1)
    let smp (l : Nat) := smpTexels (targetOfBytes b) pl wr (getV s q.gang l v) (getV s q.gang l (v + 1)) (getV s q.gang l (v + 2))
    let smpl (l : Nat) := smplTexels (targetOfBytes b) pl (getV s q.gang l v) (getV s q.gang l (v + 1)) (getV s q.gang l (v + 2))
    (fine smp → ∃ t, exec (.smp v g la k wr) s = .next t ∧ Samples s t p q (.smp v g la k wr) la (4 * k)
      (fun l => filterTexels (targetOfBytes b) pl ((smp l).map fun x => (codes x.1, x.2)))) ∧
    (fine smpl → ∃ t, exec (.smpl v g la k) s = .next t ∧ Samples s t p q (.smpl v g la k) la (4 * k)
      (fun l => match smpl l with
        | [] => [0, 0, 0, 0]
        | x :: _ => loadElem (targetOfBytes b) pl (codes x.1)))) ∧
  (∀ p q v g f cull fid fr a b d bs, Issues s p q → v + 13 ≤ 128 → g < 32 → f < 2 → cull < 3 → a = getG s q g → a % 64 = 0 →
    (queueAt s (ctxOf s q * 16 + queueOf s q)).frame = some fid → aGet fid s.frames = some fr → Structure s q a 64 b →
    rasterOk b (rasterOfBytes b) = true → EngineStructure s (ctxOf s q) (coreOf s q) (rasterOfBytes b).fragDesc 256 d →
    LaunchReads s (ctxOf s q) (coreOf s q) d bs → fragDescOk d (some (bs.map sideOfBytes)) = true →
    (∀ r, fr.raster = some r → r = rasterOfBytes b) → boundTo s fid = [] → fr.ctx = ctxOf s q →
    (∀ off, off < fr.size → ∃ pa leaf, MapsFor s (ctxOf s q) frontCore false .write (fr.base + off) 1 pa leaf) →
    ∃ t x, exec (.prim v g f cull) s = .next t ∧ SameRegisters s t ∧
      PathBecomes s t p { q with wait := .binner, cur := some (.prim v g f cull), base := baseOf s q } ∧
      aGet fid t.frames = some { fr with raster := some (rasterOfBytes b), prims := fr.prims ++ [x] } ∧ x.path = p ∧
      x.tris = (lanesOf (active q)).filterMap (fun l => snapTri (rasterOfBytes b) f cull (s.fresh * 32 + l) (primRegs s q v l)) ∧
      (fr.prims = [] → emitting s fid = false → fr.used + sumNat (x.tris.map fun y => triBytes y (rasterOfBytes b)) ≤ fr.size →
        ∃ u f', exec .primitiveBinned (t.about (.one (ctxOf s q * 16 + queueOf s q))) = .next u ∧ PathBecomes t u p ({ q with base := baseOf s q }.past 2) ∧
          SameRegisters s u ∧ aGet fid u.frames = some f' ∧ f'.tris = fr.tris ++ placedTris (rasterOfBytes b) fr.used x.tris ∧
          f'.prims = [] ∧
          f'.used = fr.used + sumNat (x.tris.map fun y => triBytes y (rasterOfBytes b)))) ∧
  (∀ key fid f x rest y ys r, frameOf s key = some (fid, f) → f.prims = x :: rest → x.tris = y :: ys → emitting s fid = false →
    f.size < f.used + triBytes y x.raster → f.tris ≠ [] → f.raster = some r →
    ∃ t ps, exec .partialRender (s.about (.one key)) = .next t ∧ aGet fid t.frames = some { f with tris := [], used := 0 } ∧
      aGet s.fresh t.passes = some ps ∧ ps.frame = fid ∧ ps.raster = r ∧ ps.started = false ∧ ps.todo = [] ∧ ps.tris = f.tris ∧
      ps.binBase = f.base ∧ ps.queue = f.queue ∧ ps.packet = x.packet ∧
      ctxReg t f.ctx rPrCount = min (bits (ctxReg s f.ctx rPrCount) 31 0 + 1) 0xFFFFFFFF ∧ SameRegisters s t ∧ t.paths = s.paths) ∧
  (∀ k x b bs (rec : Nat → List Nat), aGet k s.passes = some x → x.started = false → x.page = none → x.refused = none → (ctxAt s x.ctx).state = .running →
    passTurn s k x = true → EngineStructure s x.ctx frontCore x.raster.fragDesc 256 b → LaunchReads s x.ctx frontCore b bs →
    fragDescOk b (some (bs.map sideOfBytes)) = true →
    (∀ y ∈ x.tris, ∀ o, y.off = some o → EngineStructure s x.ctx frontCore (x.binBase + o) (triBytes y x.raster) (rec o)) →
    ∃ t l, exec .fragmentPassStart (s.about (.one k)) = .next t ∧
      aGet k t.passes = some { x with
        started := true
        launch := some s.fresh
        todo := binnedFragments x.raster (x.tris.map fun y => match y.off with
          | none => (y, binsOf y x.raster)
          | some o => recordTri x.raster (rec o)) } ∧ aGet s.fresh t.launches = some l ∧ l.ctx = x.ctx ∧
      l.queue = x.queue ∧ l.packet = x.packet ∧ l.desc = launchOfBytes b ∧ l.pass = some k ∧ SameRegisters s t ∧ t.paths = s.paths) ∧
  (∀ k x l lid f fs, aGet k s.passes = some x → x.started = true → x.todo = f :: fs → x.launch = some lid → aGet lid s.launches = some l →
    (ctxAt s x.ctx).state = .running → lanternFull s x f = false → ∃ t x', exec .rasterEmit (s.about (.one k)) = .next t ∧
      aGet k t.passes = some x' ∧ x'.todo = fs ∧
      (∀ e y, aGet e s.targets = some y → aGet e t.targets = some (if y.bound = some x.frame ∨ e ∈ x.targets then
        { y with entries := y.entries ++ [⟨f.key, s.fresh, 0, 0, f.x, f.y, f.mask, none, 0, 0⟩] } else y)) ∧ SameRegisters s t ∧ t.mem = s.mem ∧ t.paths = s.paths) ∧
  (∀ key seq x o slot f z px, aGet key s.targets = some x → x.entries.find? (fun o => o.seq == seq) = some o → o.frag = some (slot, f, z) →
    eligible x o = true → key = tgtKey x.ctx x.addr → lanternsGo s x.ctx = true → ErrorPlace.lantern key seq ∉ s.poison →
    (loadPixel s x (x.ops.getD slot []) o.x o.y).2 = .ok px →
    let w := storePixel (loadPixel s x (x.ops.getD slot []) o.x o.y).1 x o.x o.y px
      ((bitsBelow x.desc.samples o.samples).foldl (runSample x.desc (x.ops.getD slot []) f z) px)
    w.2 = none →
    ∃ t ls, exec .fragmentApply (s.about (.two key seq)) = .next t ∧
      aGet key t.targets = some { x with entries := x.entries.filter (fun e => e.seq != seq), lines := ls } ∧
      (∀ k, k ≠ key → aGet k t.targets = aGet k s.targets) ∧ SameRegisters s t ∧ t.paths = s.paths ∧
      t.mem = w.1.mem) ∧
  (∀ key x bn pno pst, aGet key s.targets = some x → x.sealing = true → x.entries = [] → passPending s key = false →
    lanternsGo s x.ctx = true → x.ops.getD 16 [] = [] → x.addr % 256 = 0 → key = tgtKey x.ctx x.addr → EngineStructure s x.ctx frontCore (x.addr + 12) 4 bn →
    EngineMaps s x.ctx frontCore .write (x.addr + 12) 4 pno → EngineMaps s x.ctx frontCore .write x.addr 1 pst → (pst < pno ∨ pno + 4 ≤ pst) →
    ∃ t, exec .targetSealComplete (s.about (.one key)) = .next t ∧ aGet key t.targets = none ∧
      (∀ k, k ≠ key → aGet k t.targets = aGet k s.targets) ∧ bGet t.mem pst = tgtSealed ∧
      t.ro = s.ro.filter (fun y => !lineWithin (planeLines s key) y.line) ∧
      (∀ core a y, a < 2 ^ 58 → lineWithin (planeLines s key) (a / 128) = true → l1At t core a = some y → y.kind = .own ∨ y.dirty ≠ 0) ∧
      readMem t.mem pno 4 = (ofBytes bn + 1) % 2 ^ 32 ∧ SameRegisters s t ∧ t.paths = s.paths)

/-- R375 to R384, R390 to R392: ray slots, mail and lane stacks, in lanes whose slots differ. RAYSUB queues each lane's FREE slot under
its tag; RAYGET gives the first queued slots to the lanes in order; RCOMMIT keeps a closer hit; RDONE makes a slot DONE; MBXGET, and
MBXGET_RESUME for a path that waited, gives each lane its completed slot, which is FREE again; RPUSH and RPOP move a lane's stack; RSAVE
and RLOAD move one lane's walk into its slot and back; WALKER_GANG_START starts a walker of whole slices. -/
def Obligations.RaySlots : Prop := ∀ s p q w x, wgOfPath s q = some w → gangOf s q = some x → aGet (wgIdOf s q) s.wgs = some w →
  (∀ v g t, Issues s p q → v < 128 → g < 32 → t < 8 → ctxReg s (ctxOf s q) rWalker ≠ 0 → releaseReady s q.gang q.lanes 0 = true →
    (∀ l, l < 32 → hasBit (active q) l = true → SlotIs s q (getV s q.gang l v) [0] ∧ tagBusy s q.gang l t = false) →
    ((lanesOf (active q)).map fun l => getV s q.gang l v).Nodup →
    ∃ u w' x', exec (.raysub v g t) s = .next u ∧ PathBecomes s u p (q.past 1) ∧ SameRegisters s u ∧ u.mem = s.mem ∧
      aGet (wgIdOf s q) u.wgs = some w' ∧ w'.rayQueue = w.rayQueue ++ (lanesOf (active q)).map (fun l => getV s q.gang l v) ∧
      aGet q.gang u.gangs = some x' ∧ x'.mail = x.mail ++ (lanesOf (active q)).map (fun l => (⟨l, t, getV s q.gang l v, false⟩ : MailTag)) ∧
      ∀ l j, l < 32 → hasBit (active q) l = true → j = getV s q.gang l v → slotGet u q j oState 1 = 1 ∧ slotGet u q j oTag 1 = t ∧
        slotGet u q j oOwner 4 = (sliceIndex s q l * 4 + l % 4) % 2 ^ 32 ∧ slotGet u q j oHitT 4 = 0x7F800000 ∧ slotGet u q j oCur 8 = getG s q g) ∧
  (∀ v g pd js, Issues s p q → loadsReady s q.gang q.lanes = true → v < 128 → g < 32 → pd < 8 → js = w.rayQueue.take (lanesOf (active q)).length → js.Nodup →
    (∀ j ∈ js, SlotIs s q j [1]) →
    ∃ u w' x', exec (.rayget v g pd) s = .next u ∧ PathBecomes s u p (q.past 1) ∧ u.csr = s.csr ∧ u.mem = s.mem ∧
      (slicesOf (active q) ≠ [] → getG u q g = js.length) ∧ aGet (wgIdOf s q) u.wgs = some w' ∧ w'.rayQueue = w.rayQueue.drop js.length ∧
      aGet q.gang u.gangs = some x' ∧ x' = { x with rayget := true } ∧ (∀ j ∈ js, slotGet u q j oState 1 = 2) ∧
      ∀ i l, (lanesOf (active q))[i]? = some l → (pd ≠ 7 → getP u q.gang l pd = decide (i < js.length)) ∧
        (∀ j, js[i]? = some j → getV u q.gang l v = j % 2 ^ 32)) ∧
  (∀ v h, Issues s p q → v < 128 → h < 32 → (∀ l, l < 32 → hasBit (active q) l = true → SlotIs s q (getV s q.gang l v) [2, 3]) →
    ((lanesOf (active q)).map fun l => getV s q.gang l v).Nodup →
    ∃ u, exec (.rcommit v h) s = .next u ∧ PathBecomes s u p (q.past 1) ∧ SameRegisters s u ∧ u.mem = s.mem ∧ u.wgs = s.wgs ∧
      ∀ l j, l < 32 → hasBit (active q) l = true → j = getV s q.gang l v →
        (commits (getV s q.gang l (4 * h)) (slotGet s q j oTMin 4) (slotGet s q j oTMax 4) (slotGet s q j oHitT 4) = true →
          slotGet u q j oTMax 4 = getV s q.gang l (4 * h) ∧ ∀ i, i < 4 → slotGet u q j (oHitT + 4 * i) 4 = getV s q.gang l (4 * h + i)) ∧
        (commits (getV s q.gang l (4 * h)) (slotGet s q j oTMin 4) (slotGet s q j oTMax 4) (slotGet s q j oHitT 4) = false →
          ∀ k, k < 128 → slotGet u q j k 1 = slotGet s q j k 1)) ∧
  (∀ v, Issues s p q → v < 128 → releaseReady s q.gang q.lanes 0 = true →
    (∀ l, l < 32 → hasBit (active q) l = true → SlotIs s q (getV s q.gang l v) [2, 3]) →
    ((lanesOf (active q)).map fun l => getV s q.gang l v).Nodup →
    ∃ u, exec (.rdone v) s = .next u ∧ PathBecomes s u p (q.past 1) ∧ SameRegisters s u ∧ u.mem = s.mem ∧
      ∀ l j, l < 32 → hasBit (active q) l = true → j = getV s q.gang l v → slotGet u q j oState 1 = 4 ∧
        ∀ o m, ownerLane s (wgIdOf s q) (slotGet s q j oOwner 4) = some o → m.lane = o.2 → m.tag = slotGet s q j oTag 1 % 8 → m.slot = j →
          (∃ y, aGet o.1 s.gangs = some y ∧ m ∈ y.mail) → ∃ y, aGet o.1 u.gangs = some y ∧ { m with completed := true } ∈ y.mail) ∧
  (∀ v la pd, v < 128 → la < 16 → pd < 8 → mailReady x q = true →
    (∀ l m, l < 32 → hasBit (active q) l = true → firstMail x l = some m → SlotIs s q m.slot [4]) →
    ((lanesOf (active q)).filterMap fun l => (firstMail x l).map (·.slot)).Nodup →
    let got (u : State) : Prop := PathBecomes s u p (q.past 1) ∧ u.g = s.g ∧ u.csr = s.csr ∧ u.mem = s.mem ∧
      ∀ l, l < 32 → hasBit (active q) l = true → (pd ≠ 7 → getP u q.gang l pd = (firstMail x l).isSome) ∧
        ∀ m, firstMail x l = some m → getV u q.gang l v = (m.tag * 2 ^ 16 ||| m.slot) % 2 ^ 32 ∧ slotGet u q m.slot oState 1 = 0 ∧
          ∃ y, aGet q.gang u.gangs = some y ∧ m ∉ y.mail
    (Issues s p q → loadsReady s q.gang q.lanes = true → ∃ u, exec (.mbxget v la pd) s = .next u ∧ got u) ∧
    (aGet p s.paths = some q → q.wait = .mailbox → q.cur = some (.mbxget v la pd) →
      ∃ u, exec .mbxgetResume (s.about (.one p)) = .next u ∧ got u)) ∧
  (∀ v g, Issues s p q → v < 127 → g < 32 → SpillFits s q g →
    ((∀ l, l < 32 → hasBit (active q) l = true → (laneStack s q.gang l).1 < 24) →
      ∃ u, exec (.rpush v g) s = .next u ∧ PathBecomes s u p (q.past 1) ∧ SameRegisters s u ∧ u.mem = s.mem ∧
        ∀ l st, l < 32 → hasBit (active q) l = true → st = laneStack s q.gang l →
          laneStack u q.gang l = (st.1 + 1, (if st.1 < 4 then st.2 else st.2.drop 1) ++ [getPair s q.gang l v]) ∧
          (4 ≤ st.1 → scratchRead u (wgIdOf s q) (getG s q g + 160 * l + 8 * (st.1 - 4)) 8 = nth st.2 0 % 2 ^ 64)) ∧
    (∀ pd, pd < 8 → (∀ l, l < 32 → hasBit (active q) l = true → (laneStack s q.gang l).1 ≤ 24) →
      ∃ u, exec (.rpop v g pd) s = .next u ∧ PathBecomes s u p (q.past 1) ∧ u.g = s.g ∧ u.csr = s.csr ∧ u.mem = s.mem ∧ u.scratch = s.scratch ∧
        ∀ l st, l < 32 → hasBit (active q) l = true → st = laneStack s q.gang l →
          (pd ≠ 7 → getP u q.gang l pd = decide (0 < st.1)) ∧
          (0 < st.1 → getPair u q.gang l v = nth st.2 (st.2.length - 1) % 2 ^ 64 ∧ (laneStack u q.gang l).1 = st.1 - 1))) ∧
  (∀ v g l j st, Issues s p q → v < 125 → g < 32 → SpillFits s q g → lanesOf (active q) = [l] → j = getV s q.gang l v → st = laneStack s q.gang l →
    (SlotIs s q j [2] → st.1 ≤ 7 → st.2.length = min st.1 4 →
      ∃ u, exec (.rsave v g) s = .next u ∧ PathBecomes s u p (q.past 1) ∧ SameRegisters s u ∧ u.mem = s.mem ∧ slotGet u q j oState 1 = 3 ∧
        slotGet u q j oDepth 1 = st.1 ∧ slotGet u q j oCur 8 = getPair s q.gang l (v + 2) ∧ laneStack u q.gang l = (0, []) ∧
        ∀ i, i < st.1 → slotGet u q j (oSave + 8 * i) 8 =
          if i < st.1 - 4 then scratchRead s (wgIdOf s q) (getG s q g + 160 * l + 8 * i) 8 else nth st.2 (i - (st.1 - 4)) % 2 ^ 64) ∧
    (SlotIs s q j [3] → slotGet s q j oDepth 1 ≤ 7 →
      ∃ u, exec (.rload v g) s = .next u ∧ PathBecomes s u p (q.past 1) ∧ u.g = s.g ∧ u.p = s.p ∧ u.csr = s.csr ∧ u.mem = s.mem ∧
        slotGet u q j oState 1 = 2 ∧ getPair u q.gang l (v + 2) = slotGet s q j oCur 8 ∧
        (laneStack u q.gang l).1 = slotGet s q j oDepth 1 ∧
        ((laneStack u q.gang l).2 = (List.range (min 4 (slotGet s q j oDepth 1))).map fun i =>
          slotGet s q j (oSave + 8 * (slotGet s q j oDepth 1 - 4 + i)) 8) ∧
        (slotPlace s q j 0 + 128 ≤ getG s q g + 160 * l ∨ getG s q g + 160 * l + 160 ≤ slotPlace s q j 0 →
          ∀ i, i < slotGet s q j oDepth 1 - 4 →
            scratchRead u (wgIdOf s q) (getG s q g + 160 * l + 8 * i) 8 = slotGet s q j (oSave + 8 * i) 8))) ∧
  (∀ wid y l idx, aGet wid s.wgs = some y → walkerReady s wid y = true → aGet y.launch s.launches = some l →
    (freeIndexes s wid (gangShape s y).2).head? = some idx → 1 ≤ l.desc.gang → l.desc.gang ≤ 8 → (∀ k, s.fresh * 256 ≤ k → aGet k s.g = none) →
    ∃ u z r, exec .walkerGangStart (s.about (.one wid)) = .next u ∧ aGet s.fresh u.gangs = some z ∧ z.wg = wid ∧ z.idx = idx ∧ z.kind = .walker ∧
      z.slices = y.idle.take l.desc.gang ∧ z.live = 2 ^ (4 * l.desc.gang) - 1 ∧ aGet (s.fresh + 1) u.paths = some r ∧ r.gang = s.fresh ∧
      r.lanes = z.live ∧ r.pos = ⟨ctxReg s y.ctx rWalker, 0, 0, 0⟩ ∧ r.sup = false ∧
      ∀ k, k < l.desc.gang → getGs u s.fresh k 0 = l.desc.constAddr % 2 ^ 64)

/-- R385 to R389, R393: nodes. NODELD, BOXT and TRIT of nodes that no cache holds put the results of R387 to R389 of each lane's node into
flight, or code 1 for a node whose SEQ is odd; RAY_TEST_RESULT writes them together. NODEPUB of nodes whose SEQ is clean, once the path's writes
are done, queues one publication of each lane's registers, in ascending lanes; a publication whose turn comes, of a node that no cache holds, first
makes SEQ odd, and then writes the 124 bytes from +4 upward and makes SEQ even (that it takes these two steps is log entry 66, the model's
choice), and no other byte changes. -/
def Obligations.Nodes : Prop := ∀ s : State,
  (∀ p q v la k (b : Nat → List Nat), Issues s p q → v + 16 ≤ 128 → la < 16 → k < 8 → q.refused = [] → (∃ l, l < 32 ∧ hasBit (active q) l = true) →
    (∀ l, l < 32 → hasBit (active q) l = true → NodeReads s q (getPair s q.gang l (v + 8)) (b l)) →
    ∀ i, i = Instr.nodeld v la k ∨ i = .boxt v la ∨ i = .trit v la → ∃ t o, exec i s = .next t ∧ PathBecomes s t p (q.past 1) ∧
      SameRegisters s t ∧ t.mem = s.mem ∧ aGet s.fresh t.ops = some o ∧ o.kind = .ray ∧ o.count = some .rayt ∧ o.ahead = some la ∧
      o.writes = (lanesOf (active q)).flatMap fun l =>
        (if nodeSeq (b l) % 2 = 1 then [(v + 10, 1)] else nodeWrites i ((List.range 8).map fun j => getV s q.gang l (v + j)) (b l)).map
          fun w => (vKey q.gang l w.1, w.2)) ∧
  (∀ k o, aGet k s.ops = some o → o.kind = .ray → (o.writes.map (·.1)).Nodup → ∃ t, exec .rayTestResult (s.about (.one k)) = .next t ∧
    aGet k t.ops = none ∧ { t with v := s.v, ops := s.ops, subject := s.subject } = s ∧ (∀ w ∈ o.writes, bGet t.v w.1 = w.2 % 2 ^ 32) ∧
    ∀ j, (∀ w ∈ o.writes, w.1 ≠ j) → bGet t.v j = bGet s.v j) ∧
  (∀ p q v g (pa leaf : Nat → Nat), Issues s p q → v + 32 ≤ 128 → g < 32 → q.refused = [] → releaseReady s q.gang q.lanes 3 = true →
    (∀ x ∈ s.pubs, x.gang = q.gang → x.lanes &&& q.lanes = 0) →
    (∀ l, l < 32 → hasBit (active q) l = true →
      Maps s q .write ((getG s q g + getV s q.gang l v) % 2 ^ 64) 128 (pa l) (leaf l) ∧ eNc (leaf l) = false ∧
        poisonedAt s (dieOf (coreOf s q)) (pa l) 4 = none) →
    ∃ t, exec (.nodepub v g) s = .next t ∧ PathBecomes s t p (q.past 1) ∧ SameRegisters s t ∧
      t.pubs = s.pubs ++ (lanesOf (active q)).map (fun l => (⟨p, q.gang, q.lanes, ctxOf s q, pa l,
        (List.range 31).flatMap fun k => toBytes 4 (getV s q.gang l (v + 1 + k)), none⟩ : Publication)) ∧
      ∀ n ∈ t.nodes, ¬ (n.core = coreOf s q ∧ ∃ l, l < 32 ∧ hasBit (active q) l = true ∧ n.addr = pa l)) ∧
  (∀ k x n, s.pubs[k]? = some x → x.addr % 128 = 0 → isDevice x.addr = true → LinesIdle s (linesOf x.addr 128) → n = readMem s.mem x.addr 4 →
    (x.began = none → (∀ j y, j < k → s.pubs[j]? = some y → y.addr ≠ x.addr ∧ (y.gang = x.gang → y.lanes &&& x.lanes = 0)) →
      ∃ t o, agendaTurn s (.publish k) = .next t ∧ o = (if n % 2 = 0 then n + 1 else n + 2) % 2 ^ 32 ∧ readMem t.mem x.addr 4 = o ∧
        (∀ a, ¬ (x.addr ≤ a ∧ a < x.addr + 4) → bGet t.mem a = bGet s.mem a) ∧ SameRegisters s t ∧ t.pubs.length = s.pubs.length ∧
        t.pubs[k]? = some { x with began := some o } ∧ ∀ j, j ≠ k → t.pubs[j]? = s.pubs[j]?) ∧
    (∀ o, x.began = some o → x.bytes.length = 124 → ∃ t, agendaTurn s (.publish k) = .next t ∧ readMem t.mem x.addr 4 = (o + 1) % 2 ^ 32 ∧
      (∀ i, i < 124 → bGet t.mem (x.addr + 4 + i) = nth x.bytes i % 256) ∧
      (∀ a, ¬ (x.addr ≤ a ∧ a < x.addr + 128) → bGet t.mem a = bGet s.mem a) ∧ SameRegisters s t ∧ t.pubs = s.pubs.eraseIdx k))

/-- R121, R122, R128: a queue's registers, written through the window of its virtual function in SERVICE. QWPTR makes an IDLE queue with
packets ACTIVE; QUEUE_ENABLE clears QRPTR, QWPTR and QRECWPTR and makes a DISABLED queue IDLE; QUEUE_DISABLE makes any queue DISABLED;
PACKET_COMPLETE takes a packet that is over from its queue, which is IDLE when nothing is left, and raises the queue's vector when the
header asks for it. -/
def Obligations.QueueRegisters : Prop := ∀ s : State,
  (∀ fn off v k r, s.pkg.state = .service → 1 ≤ fn → fn ≤ 128 → v < 2 ^ 64 → off < 0x4000 → off % 8 = 0 →
    k = ((fn - 1) * 16 + off / 1024) * 16 + off % 1024 / 64 → r = off % 64 / 8 →
    (r = qWptr → (queueAt s k).state = .idle → v < ringSize s k → ∃ t, exec .qwptr (s.about (.write fn off v)) = .next t ∧
      qReg t k qWptr = v ∧ aGet k t.queues = (if v = qReg s k qRptr then aGet k s.queues else some { queueAt s k with state := .active }) ∧
      { t with queues := s.queues, queueRegs := s.queueRegs, subject := s.subject } = s) ∧
    (r = qCtl → v % 2 = 1 → bits v 4 1 ≠ 15 → (queueAt s k).state = .disabled →
      ∃ t, exec .queueEnable (s.about (.write fn off v)) = .next t ∧ qReg t k qCtl = v % 2 ^ 16 ∧ qReg t k qRptr = 0 ∧ qReg t k qWptr = 0 ∧
        qReg t k qRecW = 0 ∧ aGet k t.queues = some { queueAt s k with state := .idle, hold := .none } ∧
        { t with queues := s.queues, queueRegs := s.queueRegs, subject := s.subject } = s) ∧
    (r = qCtl → v % 2 = 0 → bits v 4 1 ≠ 15 → ∃ t, exec .queueDisable (s.about (.write fn off v)) = .next t ∧
      (queueAt t k).state = .disabled ∧ qReg t k qCtl % 2 = 0 ∧ (∀ i, i < 8 → i ≠ qCtl → qReg t k i = qReg s k i) ∧
      (∀ j, j ≠ k → aGet j t.queues = aGet j s.queues) ∧ { t with queues := s.queues, queueRegs := s.queueRegs, subject := s.subject } = s)) ∧
  (∀ k seq x, (queueAt s k).packets.find? (fun x => x.seq == seq) = some x → packetOver s k x = true →
    ∃ t l, exec .packetComplete (s.about (.two k seq)) = .next t ∧ l = (queueAt s k).packets.filter (fun y => y.seq != seq) ∧
      (let idle : Prop := l = [] ∧ ((queueAt s k).state = .active ∨ (queueAt s k).state = .blocked) ∧ qReg s k qRptr = qReg s k qWptr;
        (idle → aGet k t.queues = some { queueAt s k with packets := [], state := .idle, hold := .none }) ∧
        (¬ idle → aGet k t.queues = some { queueAt s k with packets := l })) ∧
      (∀ j, j ≠ k → aGet j t.queues = aGet j s.queues) ∧ t.queueRegs = s.queueRegs ∧ SameRegisters s t ∧ t.mem = s.mem ∧
      t.paths = s.paths ∧ (hIntr x.header = false → t.vectors = s.vectors) ∧
      (hIntr x.header = true → ∀ y key, key = (k / 256 + 1) * 256 + bits (qReg s k qCtl) 15 8 → aGet key s.vectors = some y →
        aGet key t.vectors = some (if y.masked then ⟨true, true, y.sent, pasidOf s (k / 16)⟩
          else ⟨false, y.pending, y.sent + 1, pasidOf s (k / 16)⟩)))

/-- R122 to R128, R132, R349, R365: what each packet does when it starts. NOP and WRAP do nothing; LAUNCH hands a well-formed descriptor
to the scheduler; FRAME rasterises the open frame's bins, and once their fragments are emitted it closes that frame and opens its own (log entry
122); SIGNAL writes its word after the release of the work before it, ADD to
the old value; WAITV passes, or blocks its queue, and WAITV_RECHECK and WAITV_POLL_TIMER end the wait once the word compares; FENCE
empties the read-only caches of the partition; the TGT packets move STATE, OPEN and SEAL as R349 says; WSTORE copies into the context's
window; MARK writes VALUE and the cycle count, of die 0 for every queue (log entry 104) and free (log entry 6): the model's choices, as is that
front ends translate through the cache of core 0 (log entry 12). R125, R404: a WAITV that waits ends once its word compares: WAITV_RECHECK for a word of
device memory, WAITV_POLL_TIMER for one of host memory; the packet is done, and its queue goes on. -/
def Obligations.Packets : Prop := (∀ s k c b h f, PacketReads s k b → c = k / 16 → h = ofBytes (b.take 8) → f = fieldAt b →
  let quiet : Nat → Prop := fun _ => False
  let frame := (queueAt s k).frame
  (hOp h = 0 → ∃ t, exec .nop (s.about (.one k)) = .next t ∧ PacketStarts s t k b .done frame quiet) ∧
  (hOp h = 9 → ∃ t, exec .wrap (s.about (.one k)) = .next t ∧ PacketStarts s t k b .done frame quiet) ∧
  (∀ bs, hOp h = 1 → wstoreHeld s c = false → LaunchReads s c frontCore ((b.drop 16).take 256) bs →
    ∃ t l, exec .launch (s.about (.one k)) = .next t ∧ PacketStarts s t k b (.launch s.fresh) frame quiet ∧
      aGet s.fresh t.launches = some l ∧ l.ctx = c ∧ l.queue = k % 16 ∧ l.packet = (queueAt s k).nextSeq ∧ l.nextSet = 0 ∧
      l.prio = bits (qReg s k qCtl) 7 5 ∧ l.desc = launchOfBytes ((b.drop 16).take 256) ∧ l.side = bs.map sideOfBytes) ∧
  (hOp h = 2 → ∃ t, exec .frame (s.about (.one k)) = .next t ∧ PacketStarts s t k b .frame frame quiet ∧
      ∀ old fr, frame = some old → aGet old s.frames = some fr → aGet old t.frames = some { fr with tris := [], used := 0 } ∧
        ∀ r, fr.raster = some r → fr.tris ≠ [] → ∃ ps, aGet s.fresh t.passes = some ps ∧ ps.frame = old ∧
          ps.queue = k % 16 ∧ ps.packet = (queueAt s k).nextSeq ∧ ps.raster = r ∧ ps.started = false ∧ ps.tris = fr.tris ∧ ps.binBase = fr.base) ∧
  (∀ pa, hOp h = 3 → workReleased s c 4 = true → EngineMaps s c frontCore .write (f 8 8) 8 pa → (∀ core, Uncached s core pa 8) →
    (f 24 8 = 0 → ∃ t, exec .signalWrite (s.about (.one k)) = .next t ∧ readMem t.mem pa 8 = f 16 8 ∧ 
      PacketStarts s t k b .done frame (fun a => pa ≤ a ∧ a < pa + 8)) ∧
    (∀ x, f 24 8 = 1 → EngineStructure s c frontCore (f 8 8) 8 x → ∃ t, exec .signalAdd (s.about (.one k)) = .next t ∧
      readMem t.mem pa 8 = (ofBytes x + f 16 8) % 2 ^ 64 ∧ 
      PacketStarts s t k b .done frame (fun a => pa ≤ a ∧ a < pa + 8))) ∧
  (∀ x, hOp h = 4 → EngineStructure s c frontCore (f 8 8) 8 x → ∃ t, exec .waitv (s.about (.one k)) = .next t ∧
    PacketStarts s t k b (if waitvCond (f 24 8) (ofBytes x) (f 16 8) then .done else .waitv) frame quiet) ∧
  (hOp h = 5 → workReleased s c (f 8 8) = true → ∃ t, exec .fencePacket (s.about (.one k)) = .next t ∧
    PacketStarts s t k b .done frame quiet ∧
    ∀ x, x ∈ t.ro ↔ x ∈ s.ro ∧ x.core ∉ partCores s c) ∧
  (∀ pst d, hOp h = 6 → EngineStructure s c frontCore (f 8 8) 256 d → EngineMaps s c frontCore .write (f 8 8) 1 pst →
    (f 16 8 = 0 → targetOk d (targetOfBytes d) = true → (nth d 0 = tgtNone ∨ nth d 0 = tgtReleased) →
      ∃ t, exec .tgtCreate (s.about (.one k)) = .next t ∧ PacketStarts s t k b .done frame (· = pst) ∧ bGet t.mem pst = tgtCreated) ∧
    (f 16 8 = 3 → (nth d 0 = tgtCreated ∨ nth d 0 = tgtSealed) → ∃ t, exec .tgtRelease (s.about (.one k)) = .next t ∧
      PacketStarts s t k b .done frame (· = pst) ∧ bGet t.mem pst = tgtReleased)) ∧
  (∀ pst d cov, hOp h = 6 → f 16 8 = 1 → CanOpen s c frontCore (f 8 8) k d pst cov →
    ∃ t, exec .tgtOpen (s.about (.one k)) = .next t ∧ Opened s t c (f 8 8) k d pst cov ∧
      PacketStarts s t k b .done frame (fun a => a = pst ∨ ∃ i, cov i ≤ a ∧ a < cov i + 128)) ∧
  (∀ pst x, hOp h = 6 → f 16 8 = 2 → CanSeal s c frontCore (f 8 8) pst x → ∃ t, exec .tgtSeal (s.about (.one k)) = .next t ∧
    Sealing s t c (f 8 8) pst x (k % 16) (queueAt s k).nextSeq ∧ PacketStarts s t k b (.seal (f 8 8)) frame (· = pst)) ∧
  (∀ (lines : Nat → List Nat) dst, hOp h = 7 → storeWindowOk s c (f 16 8) (f 24 4) = true → (∀ e ∈ s.launches, e.2.ctx ≠ c) →
    (∀ e ∈ s.passes, e.2.ctx ≠ c) → (∀ i, i < f 24 4 / 128 → EngineStructure s c frontCore (f 8 8 + 128 * i) 128 (lines i)) →
    dst = wsBase + bits (f 16 8) 31 30 * 2 ^ 30 + (windowOf s c (bits (f 16 8) 31 30)).1 + bits (f 16 8) 29 0 →
    ∃ t, exec .wstore (s.about (.one k)) = .next t ∧ PacketStarts s t k b .done frame (fun a => dst ≤ a ∧ a < dst + f 24 4) ∧
      ∀ i, i < f 24 4 / 128 → readBytes t.mem (dst + 128 * i) 128 = lines i) ∧
  (∀ pa, hOp h = 8 → EngineMaps s c frontCore .write (f 8 8) 16 pa → ∃ t, exec .mark (s.about (.one k)) = .next t ∧
    PacketStarts s t k b .done frame (fun a => pa ≤ a ∧ a < pa + 16) ∧ readMem t.mem pa 8 = f 16 8 ∧
    readMem t.mem (pa + 8) 8 = Config.frontEndCycles (dieOf frontCore) s.clock % 2 ^ 64)) ∧
  (∀ s k seq x f, (queueAt s k).packets.find? (fun x => x.seq == seq) = some x → x.wait = .frame → f = fieldAt x.body →
    (∀ old, (queueAt s k).frame = some old → emitting s old = true →
      ∃ t, exec .packetComplete (s.about (.two k seq)) = .next t ∧ { t with subject := s.subject } = s) ∧
    ((∀ old, (queueAt s k).frame = some old → emitting s old = false ∧ old < s.fresh) →
      ∃ t y, exec .packetComplete (s.about (.two k seq)) = .next t ∧
        aGet k t.queues = some { queueAt s k with
          frame := some s.fresh
          packets := (queueAt s k).packets.map fun z => if z.seq = x.seq then { z with wait := .done } else z } ∧
        (∀ j, j ≠ k → aGet j t.queues = aGet j s.queues) ∧ aGet s.fresh t.frames = some y ∧ y.ctx = k / 16 ∧ y.queue = k % 16 ∧
        y.id = f 24 4 ∧ y.base = f 8 8 ∧ y.size = f 16 8 ∧ y.used = 0 ∧ y.raster = none ∧ y.tris = [] ∧ y.prims = [] ∧
        SameRegisters s t ∧ t.mem = s.mem ∧ t.paths = s.paths ∧
        ∀ old, (queueAt s k).frame = some old → aGet old t.frames = none ∧ ∀ z ∈ t.targets, z.2.bound ≠ some old)) ∧
  (∀ s k c p w, c = k / 16 → (queueAt s k).packets.find? (fun x => decide (x.wait = .waitv)) = some p →
  (ctxAt s c).state = .running → (queueAt s k).waiting = none → fieldAt p.body 8 8 % 8 = 0 →
  waitvCond (fieldAt p.body 24 8) w (fieldAt p.body 16 8) = true →
  let goes (t : State) : Prop := t.paths = s.paths ∧ t.v = s.v ∧ t.g = s.g ∧ t.p = s.p ∧ t.csr = s.csr ∧
    aGet k t.queues = some { queueAt s k with
      hold := .none
      state := if (queueAt s k).state = .blocked then .active else (queueAt s k).state
      packets := (queueAt s k).packets.map fun x => if x.seq = p.seq then { x with wait := .done } else x }
  (∀ b, EngineStructure s c frontCore (fieldAt p.body 8 8) 8 b → w = ofBytes b →
    ∃ t, exec .waitvRecheck (s.about (.one k)) = .next t ∧ goes t) ∧
  (∀ e x h pa, fieldAt p.body 8 8 < 2 ^ 56 → tlbFind s frontCore c (fieldAt p.body 8 8) = some e → eLoc e.leaf = 1 → eS e.leaf = false →
    (ctxAt s c).pasidEn = true → h = eAddr e.leaf + fieldAt p.body 8 8 % 2 ^ Nat.log2 e.size →
    s.ats.find? (fun y => y.core == frontCore && y.ctx == c && y.page == h / 4096 * 4096) = some x → pa = hostBase + x.target + h % 4096 →
    isDevice pa = false → isPeer pa = false → poisonedAt s (dieOf frontCore) pa 8 = none → w = readMem s.mem pa 8 →
    ∃ t, exec .waitvPollTimer (s.about (.one k)) = .next t ∧ goes t))

/-- R69, R99, R100, R117 to R120, R140, R158, R295: the life of a context. READY with work goes to RUNNING, and RUNNING without work or
residents to READY; the end of a time slice or a higher priority begins a pre-emption, which withdraws the requests for service; paths
stop at a side-table clause, at any boundary of supervisor level or in a YIELD, or after 4096 instructions; once all have stopped and
nothing is in flight the context is SAVED and its caches are empty; a restore places its workgroups or, where R120 refuses, faults;
DESTROYED becomes FREE. A path passed over 64 times starves; a pending fault of a command enters its path's handler. The model's choices here: the
zero fields of a RESTORECAP record (log entry 99), that a user-level path held back by a supervisor of its slices may stop where it stands (log
entry 16), and that a queue BLOCKED in a WAITV counts as work (log entry 100). -/
def Obligations.Contexts : Prop := ∀ s : State,
  (∀ c x, aGet c s.ctxs = some x →
    let moves (t : State) (st : CtxState) : Prop := aGet c t.ctxs = some { x with state := st } ∧
      (∀ k, k ≠ c → aGet k t.ctxs = aGet k s.ctxs) ∧ t.mem = s.mem
    (x.state = .ready → hasWork s c = true → (aGet x.part s.parts).isSome = true →
      ∃ t, exec .contextSchedule (s.about (.one c)) = .next t ∧ moves t .running ∧ { t with ctxs := s.ctxs, subject := s.subject } = s) ∧
    (x.state = .running → hasWork s c = false → isResident s c = false →
      ∃ t, exec .contextIdle (s.about (.one c)) = .next t ∧ moves t .ready ∧ { t with ctxs := s.ctxs, subject := s.subject } = s) ∧
    (x.state = .running → ∀ i, i = Instr.timeSliceExpiry ∨ i = .priorityPreempt → ∃ t, exec i (s.about (.one c)) = .next t ∧
      moves t .preempting ∧ SameRegisters s t ∧ (∀ r, r ∈ t.services ↔ r ∈ s.services ∧ r.ctx ≠ c) ∧ t.wgs = s.wgs ∧ t.cmds = s.cmds) ∧
    (x.state = .preempting → canSave s c = true → ∃ t, exec .preemptionComplete (s.about (.one c)) = .next t ∧
      aGet c t.ctxs = some { x with state := .saved } ∧ (∀ k, k ≠ c → aGet k t.ctxs = aGet k s.ctxs) ∧
      (∀ e ∈ t.ro, e.ctx ≠ c) ∧ (∀ e ∈ t.nodes, e.ctx ≠ c) ∧ (∀ e ∈ t.tlb, e.ctx ≠ c) ∧ (∀ e ∈ t.ats, e.ctx ≠ c) ∧ (∀ e ∈ t.icache, e.1 / 2 ^ 64 ≠ c) ∧
      (∀ r ∈ t.services, r.ctx ≠ c) ∧
      ((∀ e ∈ pathsOf s c, atSideEntry s e.2 = none ∧ ∀ pd sc, e.2.wait ≠ .beacon pd sc) → SameRegisters s t) ∧
      ∀ p q e, pathsOf s c = [(p, q)] → aGet p s.paths = some q → atSideEntry s q = some e → ∀ l, l < 32 → hasBit q.lanes l = true →
        (∀ r, r < 128 → getV t q.gang l r = if hasBit e.vlive r then getV s q.gang l r else 0) ∧
        ∀ r, r < 7 → getP t q.gang l r = (hasBit e.plive r && getP s q.gang l r)) ∧
    (∀ part m, x.state = .saved → aGet x.part s.parts = some part → restoreOk s c part = true →
      rePlace s c (savedCores s c) (partCores s c) = some m → (∀ r ∈ s.records, r.1 / 16 ≠ c) →
      ∃ t, exec .contextRestore (s.about (.one c)) = .next t ∧ moves t .running ∧ SameRegisters s t ∧
        (∀ w y, aGet w s.wgs = some y → y.ctx = c → aGet w t.wgs = some { y with core := y.core.map (movedTo m) }) ∧
        ∀ p q, aGet p s.paths = some q → (gangsOf s c).contains q.gang = true →
          aGet p t.paths = some { q with stopped := false, wait := if q.wait = .yield then .none else q.wait }) ∧
    (∀ part, x.state = .saved → aGet x.part s.parts = some part → restoreOk s c part = false →
      ∃ t, exec .contextRestore (s.about (.one c)) = .next t ∧
        aGet c t.ctxs = some { x with state := .faulted, record := some ⟨3, 0xFFFF, 0, 0, 0, 0⟩ }) ∧
    (x.state = .destroyed → ∃ t, exec .contextRelease (s.about (.one c)) = .next t ∧ aGet c t.ctxs = none ∧
      { t with ctxs := s.ctxs, subject := s.subject } = s)) ∧
  (∀ p q, aGet p s.paths = some q →
    let only (t : State) : Prop := { t with paths := s.paths, subject := s.subject } = s
    (stopping s q = true → ((atSideEntry s q).isSome = true ∨ (q.sup = true ∧ q.wait = .none ∧ q.cur = none) ∨ q.wait = .yield ∨
        (heldBack s q = true ∧ q.cur = none ∧ q.wait = .none)) →
      ∃ t, exec .slicePreemptStop (s.about (.one p)) = .next t ∧ PathBecomes s t p { q with stopped := true } ∧ only t) ∧
    (∀ g i, stopping s q = true → q.wait = .none → q.cur = none → gangOf s q = some g → i < 8 → sliceLanes i q.lanes ≠ 0 → 4096 ≤ nth g.since i →
      ∃ t, exec .preemptFallback (s.about (.one p)) = .next t ∧ PathBecomes s t p { q with stopped := true } ∧ only t) ∧
    (64 ≤ q.starve → ∃ t, exec .pathStarvation (s.about (.one p)) = .next t ∧ PathBecomes s t p { q with starving := true } ∧ only t) ∧
    (∀ f g, dueFault s p q = some f → f.trap.word = 0 → f.base ≠ 0 → levelFree s p q = true → (ctxAt s (ctxOf s q)).state ≠ .faulted →
      aGet q.gang s.gangs = some g → ∃ t, exec .commandFaultDelivery (s.about (.one p)) = .next t ∧
        TrapsAt f.base (modGang (s.about (.one p)) q.gang fun g => { g with faults := g.faults.filter fun x => x != f }) t p q f.trap.two f.trap.lanes
          f.trap.code f.trap.detail f.trap.addr))

/-- R20 to R28, R240, R397, R402: the package from power to SERVICE and to SAFE, and what comes to it from outside. Every state goes to
the next one that R22 names, or to SAFE with the stage, die and unit of what failed; entry to SERVICE clears the device's stores; a
package-level error and a broken link end every context; a reset of the physical function restarts from ROM; losing the supply leaves the
flash and the root of trust. Droop events and soft errors are counted. The model's choices here: the image at the first bytes of module memory (log
entry 3), device memory that reads 0 once the supply is lost (log entry 5), the management mailbox at its reset values after a reset of the
physical function (log entry 75), when MAXRUN is credited (log entry 98), and the zero fields of a MACHINECHECK record (log entry 99). -/
def Obligations.PackageEvents : Prop := ∀ s : State,
  let only (t : State) (pk : Package) : Prop := t = { s with pkg := pk, subject := t.subject }
  (s.pkg.state = .off → ∃ t, exec .supplyGood s = .next t ∧ only t { s.pkg with state := .rom }) ∧
  (s.pkg.state = .rom → (∀ x, (slotOrder s.pkg).find? (fun x => imageAccepted s.pkg x.2) = some x →
      ∃ t, exec .bootRomPass s = .next t ∧
        t = { s with pkg := { s.pkg with state := .loading, running := some x.1, moduleMem := t.pkg.moduleMem }, poison := t.poison } ∧
        ∀ i, bGet t.pkg.moduleMem i = if i < (imageBody x.2).length then nth (imageBody x.2) i % 256 else bGet s.pkg.moduleMem i) ∧
    ((slotOrder s.pkg).find? (fun x => imageAccepted s.pkg x.2) = none → ∃ t, exec .bootRomPass s = .next t ∧
      only t { s.pkg with state := .safe, failStage := 1, failDie := 15, failUnit := 0 })) ∧
  (s.pkg.state = .loading → ∃ t, exec .imageInitialised s = .next t ∧ only t { s.pkg with state := .training }) ∧
  (∀ die unit ports link, s.pkg.state = .training →
    (∃ t, exec .trainingComplete (s.about (.training (some (die, unit)) link ports)) = .next t ∧
      only t { s.pkg with state := .safe, failStage := 2, failDie := die, failUnit := unit }) ∧
    (∃ t, exec .trainingComplete (s.about (.training none (some (die, unit)) ports)) = .next t ∧
      only t { s.pkg with state := .safe, failStage := 3, failDie := die, failUnit := unit }) ∧
    ∃ t, exec .trainingComplete (s.about (.training none none ports)) = .next t ∧
      only t { s.pkg with state := .selftest, portsUp := ports % 4096 }) ∧
  (∀ die unit, s.pkg.state = .selftest →
    (∃ t, exec .selftestComplete (s.about (.selftest (some (die, unit)))) = .next t ∧
      only t { s.pkg with state := .safe, failStage := 4, failDie := die, failUnit := unit }) ∧
    ∃ t, exec .selftestComplete (s.about (.selftest none)) = .next t ∧ t.pkg.state = .service ∧ (∀ a, isHost a = false → bGet t.mem a = 0) ∧
      (∀ a, isHost a = true → bGet t.mem a = bGet s.mem a) ∧ t.lines = [] ∧ t.l1 = [] ∧
      t.pkg.minVersion = max s.pkg.minVersion (((runningImage s.pkg).map imageVersion).getD 0)) ∧
  (∀ of die unit i, s.pkg.state = .service → (i = Instr.packageMachineCheck ∧ (s.pkg.failing = some (die, unit) ∨
      s.pkg.failing = none ∧ die = 15 ∧ (ErrorPlace.controller ∈ s.poison ∨ ∃ u, ErrorPlace.moduleMem u ∈ s.poison)) ∨
      i = .dieLinkFailure ∧ of = die ∧ die < 4 ∧ 482 ≤ unit ∧ unit ≤ 484) →
    ∃ t, exec i (s.about (.unit of unit)) = .next t ∧ t.pkg.state = .safe ∧ t.pkg.failStage = 5 ∧ t.pkg.failDie = die ∧
      t.pkg.failUnit = unit ∧ s.pkg.errorVector < t.pkg.errorVector ∧ SameRegisters s t ∧
      ∀ c x, aGet c s.ctxs = some x → x.state = .ready ∨ x.state = .running ∨ x.state = .preempting ∨ x.state = .saved →
        ∃ y, aGet c t.ctxs = some y ∧ y.state = .faulted ∧ y.record = some ⟨4, 0xFFFF, 0, 0, 0, 0⟩) ∧
  ((s.pkg.state = .service ∨ s.pkg.state = .safe) → ∃ t, exec .pfFunctionLevelReset s = .next t ∧ t.pkg.state = .rom ∧ t.pkg.failStage = 0 ∧
    t.pkg.failDie = 0 ∧ t.pkg.failUnit = 0 ∧ t.pkg.slotA = s.pkg.slotA ∧ t.pkg.slotB = s.pkg.slotB ∧ (∀ r, r < 64 → mbReg t 0 r = 0) ∧
    ∀ c x, aGet c s.ctxs = some x → x.state ≠ .free → ∃ y, aGet c t.ctxs = some y ∧ y.state = .destroyed) ∧
  (∃ t, exec .supplyLost s = .next t ∧ t.pkg.state = .off ∧ t.pkg.slotA = s.pkg.slotA ∧ t.pkg.slotB = s.pkg.slotB ∧
    t.pkg.minVersion = s.pkg.minVersion ∧ t.pkg.keyHash = s.pkg.keyHash ∧ t.ctxs = [] ∧ t.paths = [] ∧ t.v = [] ∧
    ∀ a, bGet t.mem a = if isHost a then bGet s.mem a else 0) ∧
  (∀ k, (∃ t d, exec .droopTrip (s.about (.one k)) = .next t ∧ aGet k t.droops = some d ∧ d.low = true ∧ d.last = 0 ∧
      d.run = ((aGet k s.droops).map (·.run)).getD 0 ∧ SameRegisters s t ∧
      ∀ c x part, s.ctxs = [(c, x)] → x.state = .running → aGet x.part s.parts = some part → hasBit part.clusters k = true →
        ctxReg t c rDroopCnt = bits (ctxReg s c rDroopCnt) 47 32 * 2 ^ 32 + min (bits (ctxReg s c rDroopCnt) 31 0 + 1) 0xFFFFFFFF) ∧
    (∀ d, aGet k s.droops = some d → d.last < 32 → ∃ t, exec .droopRecovery (s.about (.one k)) = .next t ∧
      t = { s with droops := t.droops, subject := t.subject } ∧ aGet k t.droops = some { d with low := false }) ∧
    ∀ d, aGet k s.droops = some d → 32 ≤ d.last → ∃ t, exec .droopRecovery (s.about (.one k)) = .next t ∧
      aGet k t.droops = none ∧ SameRegisters s t ∧
      ∀ c x part, s.ctxs = [(c, x)] → x.state = .running → aGet x.part s.parts = some part → hasBit part.clusters k = true →
        ctxReg t c rDroopCnt = max (bits (ctxReg s c rDroopCnt) 47 32) (min d.run 0xFFFF) * 2 ^ 32 + bits (ctxReg s c rDroopCnt) 31 0) ∧
  (∀ place bad, ∃ t, exec .softError (s.about (.error place bad)) = .next t ∧
    t = { s with poison := t.poison, pkg := t.pkg, icache := t.icache, subject := t.subject } ∧
    (inPackage place = true →
      aGet (errorKind s place) t.pkg.errorCounts = some ((aGet (errorKind s place) s.pkg.errorCounts).getD 0 + 1)) ∧
    (inPackage place = false → t.pkg = s.pkg) ∧
    (∀ c k, place = .fetch c k → t.poison = s.poison ∧ ∀ j, aGet j t.icache = if j / 32 = k / 32 then none else aGet j s.icache) ∧
    ((∀ a b, place ≠ .fetch a b) → t.icache = s.icache ∧ ∀ e ∈ s.poison, e ∈ t.poison) ∧
    ((∀ a b, place ≠ .fetch a b ∧ place ≠ .l1 a b ∧ place ≠ .ro a b ∧ place ≠ .shared a b ∧ place ≠ .hostRead a) →
      ∀ e, e ∈ t.poison ↔ e ∈ s.poison ∨ (e = place ∧ bad = true ∧ ∀ u, place = .moduleMem u → 8 * u < Config.moduleBytes)) ∧
    ∀ core u i, bad = true → i < 8 → (place = .l1 core u ∧ (l1ByteAt s core (8 * u + i)).isSome = true ∨
      place = .ro core u ∧ (roFind s core (u / 16)).isSome = true) → place ∈ t.poison) ∧
  (∀ die, ∃ t, exec .wsphaseAdvance (s.about (.one die)) = .next t ∧ bGet t.wsphase die = (bGet s.wsphase die + 1) % 2 ^ 16 ∧
    (∀ d, d ≠ die → bGet t.wsphase d = bGet s.wsphase d) ∧ SameRegisters s t ∧ t.mem = s.mem) ∧
  (∀ fn off r v, reachable s fn = true → fn ≤ 128 → 2 ≤ r → r < 32 → off = mailBase fn + 8 * r → v < 2 ^ 64 →
    ∃ t, exec .registerWrite (s.about (.write fn off v)) = .next t ∧ mbReg t fn r = v ∧ (∀ j, j < 64 → j ≠ r → mbReg t fn j = mbReg s fn j) ∧
      { t with mbx := s.mbx, subject := s.subject } = s) ∧
  (∀ fn off v, reachable s fn = true → fn ≤ 128 → off = mailBase fn → v < 2 ^ 64 → hasBit (mbReg s fn 1) 0 = false →
    mailCodeOk s fn (bits v 7 0) = true → ∃ t, exec .registerWrite (s.about (.write fn off v)) = .next t ∧ mbReg t fn 0 = v % 2 ^ 12 ∧
      hasBit (mbReg t fn 1) 0 = true ∧ mbCommand t fn = v ∧ (∀ i, i < 30 → mbArg t fn i = mbReg s fn (2 + i)) ∧
      { t with mbx := s.mbx, mbxRun := s.mbxRun, subject := s.subject } = s) ∧
  (∀ fn off v, reachable s fn = true → fn ≤ 128 → off = mailBase fn → hasBit (mbReg s fn 1) 0 = true →
    ∃ t, exec .registerWrite (s.about (.write fn off v)) = .next t ∧ { t with subject := s.subject } = s)

/-- R24, R99 to R104, R291, R323, R410: the commands of the management mailbox and of the function mailboxes. Each that runs on parameters
in range has its effect, completes with status 0, and leaves its results. The model's choices here: what LOG's words hold (log entry 11), the
windows that CREATE places first-fit (log entry 74), and that DELETE of an absent partition and an empty mask answer OK (log entry 97). -/
def Obligations.Mailboxes : Prop := ∀ s fn a, a = mbArg s fn →
  (fn = 0 →
    (MailRuns s fn 1 → a 0 % 256 = 0 → a 0 < 4096 → ∃ t rs, exec .log (s.about (.one fn)) = .next t ∧ MailDone s t fn rs ∧
      rs = (List.range 32).map (fun i => (i, Config.logWord (a 0 + 8 * i)
        (s.pkg.failedAccesses :: s.pkg.lostRecords :: s.pkg.errorCounts.flatMap fun e => [e.1, e.2]))) ∧ t.pkg = s.pkg) ∧
    (MailRuns s fn 2 → ∃ t, exec .retry (s.about (.one fn)) = .next t ∧ MailDone s t fn [] ∧ t.pkg.state = .rom ∧ t.pkg.failStage = 0 ∧
      t.pkg.failDie = 0 ∧ t.pkg.failUnit = 0 ∧
      ∀ c x, aGet c s.ctxs = some x → x.state ≠ .free → ∃ y, aGet c t.ctxs = some y ∧ y.state = .destroyed) ∧
    (∀ b, MailRuns s fn 3 → a 1 ≤ Config.slotBytes → b = hostBytes s (a 0) (a 1) →
      ∃ t, exec .image (s.about (.one fn)) = .next t ∧ MailDone s t fn [] ∧
        t.pkg = if s.pkg.running = some 0 then { s.pkg with slotB := some b } else { s.pkg with slotA := some b }) ∧
    (∀ id m old, MailRuns s fn 8 → id = a 0 % 256 → m = a 1 + a 2 * 2 ^ 64 → a 0 < 2 ^ 10 →
      (∀ e ∈ s.ctxs, e.2.part = id → e.2.state ≠ .running ∧ e.2.state ≠ .preempting) → (∀ e ∈ s.ctxs, aGet e.1 s.ctxs = some e.2) →
      old = (aGet id s.parts).getD ⟨false, 0, 4096, 1024⟩ →
      (hasBit (a 0) 9 = false → (∀ e ∈ s.parts, e.1 ≠ id → e.2.clusters &&& m = 0) → ∃ t, exec .partcfg (s.about (.one fn)) = .next t ∧
        MailDone s t fn [] ∧ aGet id t.parts = some { old with dense := hasBit (a 0) 8, clusters := m } ∧
        ∀ k, k ≠ id → aGet k t.parts = aGet k s.parts) ∧
      (hasBit (a 0) 9 = true → ∃ t, exec .partcfg (s.about (.one fn)) = .next t ∧ MailDone s t fn [] ∧ aGet id t.parts = none ∧
        ∀ k, k ≠ id → aGet k t.parts = aGet k s.parts)) ∧
    (∀ part, MailRuns s fn 9 → a 0 < 256 → aGet (a 0) s.parts = some part → 1 ≤ a 1 → a 1 ≤ 65536 → 1 ≤ a 2 → a 2 ≤ 65536 →
      ∃ t, exec .replcfg (s.about (.one fn)) = .next t ∧ MailDone s t fn [] ∧
        aGet (a 0) t.parts = some { part with traise := a 1, tlower := a 2 } ∧ ∀ k, k ≠ a 0 → aGet k t.parts = aGet k s.parts)) ∧
  (∀ c, 1 ≤ fn → c = (fn - 1) * 16 + bits (mbCommand s fn) 11 8 →
    (∀ ws, MailRuns s fn 0x10 → createParams (a 0) (a 1) (a 2) (a 3) = true → (ctxAt s c).state = .free →
      (aGet (a 1 % 256) s.parts).isSome = true → placeWindows s (a 3) = some ws → ∃ t, exec .create (s.about (.one fn)) = .next t ∧
        MailDone s t fn [] ∧ aGet c t.ctxs = some ⟨.ready, a 0, a 1 % 256, bits (a 1) 23 8, bits (a 2) 19 0, hasBit (a 2) 32, ws, 0, none⟩ ∧
        (∀ i, i < 8 → ctxReg t c i = 0) ∧ (∀ e ∈ t.queues, e.1 / 16 ≠ c) ∧ ∀ k, k ≠ c → aGet k t.ctxs = aGet k s.ctxs) ∧
    (∀ x, aGet c s.ctxs = some x →
      (MailRuns s fn 0x11 → x.state = .running → ∃ t, exec .preempt (s.about (.one fn)) = .next t ∧ MailDone s t fn [] ∧
        aGet c t.ctxs = some { x with state := .preempting } ∧ SameRegisters s t ∧ ∀ r, r ∈ t.services ↔ r ∈ s.services ∧ r.ctx ≠ c) ∧
      (MailRuns s fn 0x12 → (x.state = .faulted ∨ x.state = .saved) → ∃ t, exec .reset (s.about (.one fn)) = .next t ∧ MailDone s t fn [] ∧
        aGet c t.ctxs = some { x with state := .ready, policy := 0, record := none } ∧ (∀ i, i < 8 → ctxReg t c i = 0) ∧
        (∀ e ∈ t.wgs, e.2.ctx ≠ c) ∧ (∀ e ∈ t.launches, e.2.ctx ≠ c) ∧ ∀ e ∈ t.cmds, e.2.ctx ≠ c) ∧
      (MailRuns s fn 0x13 → x.state ≠ .free → x.state ≠ .destroyed → ∃ t, exec .destroy (s.about (.one fn)) = .next t ∧ MailDone s t fn [] ∧
        aGet c t.ctxs = some { x with state := .destroyed, record := none } ∧
        (∀ e ∈ t.wgs, e.2.ctx ≠ c) ∧ (∀ e ∈ t.launches, e.2.ctx ≠ c) ∧ ∀ e ∈ t.cmds, e.2.ctx ≠ c) ∧
      (∀ k, MailRuns s fn 0x15 → (a 0, k) ∈ [(0x100, rTrapBase), (0x101, rTdtBase), (0x102, rWalker), (0x104, rDroopCnt), (0x112, rReplSel),
          (0x120, rPrCount)] → (x.state = .ready ∨ x.state = .saved ∨ x.state = .faulted) →
        ∃ t, exec .wrreg (s.about (.one fn)) = .next t ∧ MailDone s t fn [] ∧ ctxReg t c k = csrField (a 0) (a 1) ∧
          ∀ j, j ≠ c * 8 + k → bGet t.ctxRegs j = bGet s.ctxRegs j) ∧
      (MailRuns s fn 0x22 → a 0 < 3 → x.state ≠ .free → x.state ≠ .destroyed → ∃ t, exec .policy (s.about (.one fn)) = .next t ∧
        MailDone s t fn [] ∧ aGet c t.ctxs = some { x with policy := a 0 }) ∧
      (MailRuns s fn 0x23 → a 0 % 65536 = 0 → a 1 < 2 → x.state ≠ .free → x.state ≠ .destroyed → s.services.any (awaitsServe c (a 0)) = true →
        ∃ t, exec .serve (s.about (.one fn)) = .next t ∧ MailDone s t fn [] ∧ t.services = s.services.map fun r =>
          if awaitsServe c (a 0) r then { r with answer := some (a 1 == 1) } else r)) ∧
    (MailRuns s fn 0x14 → ∃ t rs, exec .query (s.about (.one fn)) = .next t ∧ MailDone s t fn rs ∧ t.ctxs = s.ctxs ∧
      rs = (0, stateCode (ctxAt s c).state) :: (List.range 4).map (fun d => (d + 1, (windowOf s c d).1 + (windowOf s c d).2 * 2 ^ 32)) ++
        (match (ctxAt s c).record with
          | some r => if (ctxAt s c).state = .faulted then (faultRecordWords c r).zipIdx.map fun w => (8 + w.2, w.1) else []
          | none => [])) ∧
    (MailRuns s fn 0x20 → a 0 < 16 → ∃ t, exec .keyload (s.about (.one fn)) = .next t ∧ MailDone s t fn [] ∧
      aGet ((fn - 1) * 16 + a 0) t.keys = some (BitVec.ofNat 256 (a 1 + a 2 * 2 ^ 64 + a 3 * 2 ^ 128 + a 4 * 2 ^ 192)) ∧
      ∀ k, k ≠ (fn - 1) * 16 + a 0 → aGet k t.keys = aGet k s.keys) ∧
    (MailRuns s fn 0x21 → a 0 < 16 → ∃ t, exec .keyclr (s.about (.one fn)) = .next t ∧ MailDone s t fn [] ∧
      aGet ((fn - 1) * 16 + a 0) t.keys = none ∧ ∀ k, k ≠ (fn - 1) * 16 + a 0 → aGet k t.keys = aGet k s.keys) ∧
    (MailRuns s fn 0x21 → 256 ≤ a 0 → a 0 < 272 → ∃ t, exec .keyclr (s.about (.one fn)) = .next t ∧ MailDone s t fn [] ∧
      (∀ e ∈ t.keys, e.1 / 16 ≠ fn - 1) ∧ ∀ k, k / 16 ≠ fn - 1 → aGet k t.keys = aGet k s.keys))

/-- R403, R404: a masked MSI-X vector keeps its pending bit however often it is raised, and one message is sent when it is unmasked; an unmasked
one sends a message each time; the message carries the PASID of the context it was raised for. A function-level reset of a virtual function
destroys its contexts, puts its queue registers back to their reset values, clears its keys and discards its page requests. Of every other
function the contexts, their registers, queues, keys, page requests, launches, workgroups with their scratchpads and tiles, gangs with their V, P, G and
slice-scope registers, paths, targets and commands are as they were, every mailbox and vector too, and every byte of memory that no L1 holds and no queued request
writes: a flush writes back no other. -/
def Obligations.VectorsAndFunctionReset : Prop := ∀ s : State,
  (∀ fn vec pid v key, key = fn * 256 + vec → aGet key s.vectors = some v →
    (v.masked = false → aGet key (raiseVector s fn vec pid).vectors = some ⟨false, v.pending, v.sent + 1, pid⟩) ∧
    ∀ (n : Nat) (t : State), v.masked = true → t = (List.range n).foldl (fun s _ => raiseVector s fn vec pid) s →
      (0 < n → aGet key t.vectors = some ⟨true, true, v.sent, pid⟩) ∧ ∃ u, exec .msixUnmask (t.about (.two fn vec)) = .next u ∧
        aGet key u.vectors = some ⟨false, false, if n = 0 ∧ v.pending = false then v.sent else v.sent + 1, if n = 0 then v.pasid else pid⟩ ∧
        { u with vectors := s.vectors, subject := s.subject } = s) ∧
  (∀ vf, ∃ t, exec .vfFunctionLevelReset (s.about (.one vf)) = .next t ∧
    (∀ c x, c / 16 = vf → aGet c s.ctxs = some x → x.state ≠ .free → ∃ y, aGet c t.ctxs = some y ∧ y.state = .destroyed) ∧
    (∀ k i, k / 256 = vf → i < 8 → (queueAt t k).state = .disabled ∧ qReg t k i = 0) ∧ (∀ e ∈ t.keys, e.1 / 16 ≠ vf) ∧
    (∀ r ∈ t.services, r.ctx / 16 ≠ vf) ∧
    (∀ c i, c / 16 ≠ vf → i < 8 → aGet c t.ctxs = aGet c s.ctxs ∧ ctxReg t c i = ctxReg s c i) ∧
    (∀ k i, k / 256 ≠ vf → i < 8 → aGet k t.queues = aGet k s.queues ∧ qReg t k i = qReg s k i) ∧
    (∀ k, k / 16 ≠ vf → aGet k t.keys = aGet k s.keys) ∧ (∀ r, r.ctx / 16 ≠ vf → (r ∈ t.services ↔ r ∈ s.services)) ∧
    (∀ w x, aGet w s.wgs = some x → x.ctx / 16 ≠ vf → aGet w t.wgs = some x) ∧
    (∀ k x, aGet k s.launches = some x → x.ctx / 16 ≠ vf → aGet k t.launches = some x) ∧
    (∀ k x, aGet k s.targets = some x → x.ctx / 16 ≠ vf → aGet k t.targets = some x) ∧
    (∀ k x, aGet k s.cmds = some x → x.ctx / 16 ≠ vf → aGet k t.cmds = some x) ∧
    (∀ w, (∀ c, c / 16 = vf → w ∉ wgsOf s c) → (∀ b, b < 2 ^ 18 → scratchByte t w b = scratchByte s w b) ∧
      ∀ k e, k < 96 → e < 1024 → getElem t w k e = getElem s w k e ∧ tileOf t w k = tileOf s w k) ∧
    (∀ g, (∀ c, c / 16 = vf → g ∉ gangsOf s c) → aGet g t.gangs = aGet g s.gangs ∧
      (∀ l r, l < 32 → (r < 128 → getV t g l r = getV s g l r) ∧ (r < 8 → getP t g l r = getP s g l r)) ∧
      ∀ k r, k < 8 → (r < 32 → getGs t g k r = getGs s g k r) ∧ (r < 16 → bGet t.csr (csrKey g k r) = bGet s.csr (csrKey g k r))) ∧
    (∀ p, (∀ c, c / 16 = vf → p ∉ (pathsOf s c).map (·.1)) → aGet p t.paths = aGet p s.paths) ∧
    t.mbx = s.mbx ∧ t.vectors = s.vectors ∧ ∀ a, Settled s a → bGet t.mem a = bGet s.mem a)

/-- R46 to R56, R58, R61, R66: the next step runs the decoded instruction. A path that is the agenda's next (log entry 1), RUNNING and at
an instruction of a clause, whose word, or two words, decode to i in a class that admits them, with its registers within the allocation
and nothing to hold it, takes the turn in which i is executed on the state past the fetch; a path at a header begins its clause first. A
word that no cache holds is fetched as the little-endian word that memory holds there. -/
def Obligations.StepRunsDecoded : Prop := (∀ s p ts s0 q q1 i s1 s2, s.agenda = .issue p :: ts → s0 = { s with agenda := ts } → aGet p s.paths = some q → q.stopped = false →
    chosenOn s0 (schedulerOf s0 q) = some p → (ctxAt s (ctxOf s q)).state = .running → active q ≠ 0 → dueFault s0 p q = none → heldAtBoundary s0 p q = false → q.wait = .none → q.cur = none →
    (q.pos.word ≠ 0 ∧ q.pos.n ≠ 0 ∧ q1 = q ∧ s1 = s0 ∨
      q.pos.word = 0 ∧ q.pos.hdr % 4 = 0 ∧ inExtent s0 q q.pos.hdr = true ∧ ∃ sh h, fetchWord s0 p q q.pos.hdr false = .ok (sh, h) ∧
        headerOk h = true ∧ waitMet sh q h = true ∧ q1 = { q with pos := ⟨q.pos.hdr, 1, bits h 27 25, bits h 3 0⟩ } ∧
        s1 = setPath sh p q1) →
    (∃ sw w, fetchWord s1 p q1 (wordAddr q1.pos) false = .ok (sw, w) ∧ majorAssigned (w / 2 ^ 26 % 64) = true ∧
      classAdmits q1.pos.cls (w / 2 ^ 26 % 64) = true ∧
      (takesTwo w = false ∧ s2 = sw ∧ decode [w] = .ok i ∨
        takesTwo w = true ∧ q1.pos.word ≠ q1.pos.n ∧ ∃ w1, fetchWord sw p q1 (wordAddr q1.pos + 4) true = .ok (s2, w1) ∧
          decode [w, w1] = .ok i)) →
    (∃ d, descOf s2 q1 = some d ∧ beyond i.usage d.vregs d.accTiles (barriersOf s2 q1) = none) → scoreboardBusy s2 q1 i = false →
    lookaheadSpent s2 p = false → countFull s2 q1 i = false →
    ∀ s3, (failsPriv q1 i = true ∧ s3 = spendLookahead s2 p ∨
      failsPriv q1 i = false ∧ poisonedSource s2 q1 i = false ∧ s3 = cleanRegisters (spendLookahead s2 p) q1 i) →
    step s = endTurn s0 p q (exec i { withHint (countIssue (setPath s3 p (issuedPath q1)) q1) p i with issuing := some p })) ∧
  (∀ s p q a two pa leaf, q.refused = [] → aGet (codeKey (ctxOf s q) (coreOf s q) q.sup a) s.icache = none → Maps s q .fetch a 4 pa leaf →
    poisonedFor s (coreOf s q) pa 4 = none → Uncached s (coreOf s q) pa 4 → ∃ t, fetchWord s p q a two = .ok (t, readMem s.mem pa 4) ∧ t.mem = s.mem ∧
      SameRegisters s t ∧ t.paths = s.paths)

/-- R57 to R65: decode and encode agree, on every encoded instruction with every operand at every value its encoding admits: its words are
one or two, as its major opcode has it, each of 32 bits, and decode, whatever follows them, is that instruction; the same from the bytes
as memory holds them. -/
def Obligations.DecodeEncode : Prop := ∀ i, WellFormed i → i.isEvent = false →
  (∀ rest, decode (encode i ++ rest) = .ok i) ∧ decodeBytes ((encode i).flatMap bytesOfWord) = .ok i ∧
  (∀ w ∈ encode i, w < 2 ^ 32) ∧ (encode i).length = if takesTwo (nth (encode i) 0) then 2 else 1

/-- R58, R61: nothing but an encoding decodes. Words that the decoder accepts begin with the encoding of the instruction it reads, which
is well formed and no event: a word with a reserved field, an unassigned opcode or function, or a missing second word is refused. -/
def Obligations.DecodeRefuses : Prop := ∀ ws i, decode ws = .ok i →
  WellFormed i ∧ i.isEvent = false ∧ ∃ rest, ws = encode i ++ rest

/-- R57 to R67: words written out from the encodings of the manual stand for these instructions. -/
def Obligations.DecodeWords : Prop := decode [0x04181040] = .ok (.iadd 3 1 2) ∧ decode [0x11103081] = .ok (.icmpN32 2 2 3 4) ∧ decode [0x30201040, 3] = .ok (.imad 4 1 2 3) ∧
  decode [0x40181040] = .ok (.fadd 3 1 2) ∧ decode [0x54101300] = .ok (.frcp 2 1 3) ∧ decode [0x68611000] = .ok (.uadd 3 1 2) ∧
  decode [0x817FFFFD] = .ok (.brc 2 1 0x3FFFFD) ∧ decode [0x9C001234] = .ok (.trap 0x1234) ∧ decode [0xA0206114] = .ok (.ldw 4 6 2 2 4) ∧
  decode [0xC8284107, 0x00001A60] = .ok (.atom 5 4 2 0 7 0 0 6 2 3 0) ∧ decode [0xD8A08A00] = .ok (.waitb 2 5 0)

/-- R3, R228, R414: every step keeps memory and the scratchpads in their canonical form, from every state, whichever turn it takes: addresses strictly
rising, and no entry equal to what an unlisted byte reads as. -/
def Obligations.StepKeepsMemory : Prop := ∀ s t, Canonical s → step s = .next t → Canonical t

/-- R22, R97, R106, R121: what the machine is at reset, as the manual gives it: the package OFF with no failure fields; every context FREE
and its registers zero; every queue DISABLED with its registers zero; no key, no path, no translation; and its memories in their canonical
form. What the manual gives no reset value for is not stated here. -/
def Obligations.ResetState : Prop := ∀ c k i : Nat,
  State.reset.pkg.state = .off ∧ State.reset.pkg.failStage = 0 ∧ State.reset.pkg.failDie = 0 ∧ State.reset.pkg.failUnit = 0 ∧
  (ctxAt State.reset c).state = .free ∧ ctxReg State.reset c i = 0 ∧ (queueAt State.reset k).state = .disabled ∧ qReg State.reset k i = 0 ∧
  aGet k State.reset.keys = none ∧ State.reset.paths = [] ∧ State.reset.tlb = [] ∧ Canonical State.reset
end

