-- ==== Sys2Proof/Laws/Maps.lean ====
section
/-! SUPPORT. Laws of finite maps: reading after writing, and that keys stay strictly rising. -/

namespace Sys2Proof.Machine

variable {α : Type}

@[simp] theorem aGet_nil (k : Nat) : aGet k ([] : AMap α) = none := rfl

theorem aGet_cons (k k' : Nat) (v : α) (m : AMap α) : aGet k ((k', v) :: m) = if k' = k then some v else aGet k m := rfl

theorem aGet_aSet (k k' : Nat) (v : α) (m : AMap α) : aGet k' (aSet k v m) = if k = k' then some v else aGet k' m := by
  induction m with
  | nil => rfl
  | cons e m ih =>
    obtain ⟨j, w⟩ := e
    simp only [aSet]
    split
    · rfl
    · split
      · subst_vars; simp only [aGet]; split <;> rfl
      · simp only [aGet, ih]; split <;> split <;> first | rfl | omega

@[simp] theorem aGet_aSet_self (k : Nat) (v : α) (m : AMap α) : aGet k (aSet k v m) = some v := by simp [aGet_aSet]

theorem aGet_aSet_ne {k k' : Nat} (v : α) (m : AMap α) (h : k ≠ k') : aGet k' (aSet k v m) = aGet k' m := by
  simp [aGet_aSet, h]

theorem aGet_aErase (k k' : Nat) (m : AMap α) : aGet k' (aErase k m) = if k = k' then none else aGet k' m := by
  induction m with
  | nil => simp [aErase]
  | cons e m ih =>
    obtain ⟨j, w⟩ := e
    simp only [aErase]
    split
    · rw [ih]; split
      · rfl
      · rw [aGet_cons, if_neg (by omega)]
    · simp only [aGet, ih]; split <;> split <;> first | rfl | omega

@[simp] theorem aGet_aErase_self (k : Nat) (m : AMap α) : aGet k (aErase k m) = none := by simp [aGet_aErase]

theorem aGet_aMod (k k' : Nat) (f : α → α) (m : AMap α) :
    aGet k' (aMod k f m) = if k = k' then (aGet k m).map f else aGet k' m := by
  unfold aMod
  split
  · rename_i v hv; rw [aGet_aSet]; split <;> simp_all
  · rename_i hv; split
    · subst_vars; simp [hv]
    · rfl

/-- Keys above a bound. -/
def aAbove (b : Nat) (m : AMap α) : Prop := ∀ e ∈ m, b < e.1

theorem aSorted_cons (e : Nat × α) (m : AMap α) : aSorted (e :: m) = true ↔ aAbove e.1 m ∧ aSorted m = true := by
  obtain ⟨k, v⟩ := e
  induction m generalizing k v with
  | nil => simp [aSorted, aAbove]
  | cons e' m ih =>
    obtain ⟨k', v'⟩ := e'
    simp only [aSorted, Bool.and_eq_true, decide_eq_true_eq]
    constructor
    · rintro ⟨h1, h2⟩
      refine ⟨?_, h2⟩
      intro e he
      rcases List.mem_cons.1 he with rfl | he
      · exact h1
      · exact Nat.lt_trans h1 ((ih k' v').1 h2 |>.1 e he)
    · rintro ⟨h1, h2⟩
      exact ⟨h1 _ (List.mem_cons_self ..), h2⟩

theorem mem_aSet {k : Nat} {v : α} {m : AMap α} {e : Nat × α} (h : e ∈ aSet k v m) : e = (k, v) ∨ e ∈ m := by
  induction m with
  | nil => simpa [aSet] using h
  | cons e' m ih =>
    obtain ⟨j, w⟩ := e'
    simp only [aSet] at h
    split at h
    · simpa using h
    · split at h
      · rcases List.mem_cons.1 h with h | h
        · exact .inl h
        · exact .inr (List.mem_cons_of_mem _ h)
      · rcases List.mem_cons.1 h with h | h
        · exact .inr (h ▸ List.mem_cons_self ..)
        · exact (ih h).imp id (List.mem_cons_of_mem _)

theorem mem_aErase {k : Nat} {m : AMap α} {e : Nat × α} (h : e ∈ aErase k m) : e ∈ m := by
  induction m with
  | nil => exact h
  | cons e' m ih =>
    obtain ⟨j, w⟩ := e'
    simp only [aErase] at h
    split at h
    · exact List.mem_cons_of_mem _ (ih h)
    · rcases List.mem_cons.1 h with h | h
      · exact h ▸ List.mem_cons_self ..
      · exact List.mem_cons_of_mem _ (ih h)

theorem aSorted_aSet (k : Nat) (v : α) (m : AMap α) (h : aSorted m = true) : aSorted (aSet k v m) = true := by
  induction m with
  | nil => rfl
  | cons e m ih =>
    obtain ⟨j, w⟩ := e
    have ⟨hb, hs⟩ := (aSorted_cons _ _).1 h
    simp only [aSet]
    split
    · refine (aSorted_cons _ _).2 ⟨?_, h⟩
      intro e he
      rcases List.mem_cons.1 he with rfl | he
      · assumption
      · have := hb e he; simp only at this ⊢; omega
    · split
      · subst_vars; exact (aSorted_cons _ _).2 ⟨hb, hs⟩
      · refine (aSorted_cons _ _).2 ⟨?_, ih hs⟩
        intro e he
        rcases mem_aSet he with rfl | he
        · simp only; omega
        · exact hb e he

theorem aSorted_aErase (k : Nat) (m : AMap α) (h : aSorted m = true) : aSorted (aErase k m) = true := by
  induction m with
  | nil => rfl
  | cons e m ih =>
    obtain ⟨j, w⟩ := e
    have ⟨hb, hs⟩ := (aSorted_cons _ _).1 h
    simp only [aErase]
    split
    · exact ih hs
    · exact (aSorted_cons _ _).2 ⟨fun e he => hb e (mem_aErase he), ih hs⟩

theorem aSorted_filter (p : Nat × α → Bool) (m : AMap α) (h : aSorted m = true) : aSorted (m.filter p) = true := by
  induction m with
  | nil => rfl
  | cons e m ih =>
    have ⟨hb, hs⟩ := (aSorted_cons _ _).1 h
    simp only [List.filter_cons]
    split
    · exact (aSorted_cons _ _).2 ⟨fun e he => hb e (List.mem_filter.1 he).1, ih hs⟩
    · exact ih hs

end Sys2Proof.Machine
end

