-- ==== Sys2Proof/Laws/State.lean ====
section
/-! SUPPORT. What each update of the state leaves and what it writes, field by field: no proof need unfold a record update. -/

namespace Sys2Proof.Machine

variable (s : State)

@[simp] theorem setVs_pkg (gid : Nat) (ws : List (Nat × Nat × Nat)) : (setVs s gid ws).pkg = s.pkg := rfl
@[simp] theorem setVs_mbx (gid : Nat) (ws : List (Nat × Nat × Nat)) : (setVs s gid ws).mbx = s.mbx := rfl
@[simp] theorem setVs_mbxRun (gid : Nat) (ws : List (Nat × Nat × Nat)) : (setVs s gid ws).mbxRun = s.mbxRun := rfl
@[simp] theorem setVs_parts (gid : Nat) (ws : List (Nat × Nat × Nat)) : (setVs s gid ws).parts = s.parts := rfl
@[simp] theorem setVs_droops (gid : Nat) (ws : List (Nat × Nat × Nat)) : (setVs s gid ws).droops = s.droops := rfl
@[simp] theorem setVs_wsphase (gid : Nat) (ws : List (Nat × Nat × Nat)) : (setVs s gid ws).wsphase = s.wsphase := rfl
@[simp] theorem setVs_scrub (gid : Nat) (ws : List (Nat × Nat × Nat)) : (setVs s gid ws).scrub = s.scrub := rfl
@[simp] theorem setVs_ctxs (gid : Nat) (ws : List (Nat × Nat × Nat)) : (setVs s gid ws).ctxs = s.ctxs := rfl
@[simp] theorem setVs_ctxRegs (gid : Nat) (ws : List (Nat × Nat × Nat)) : (setVs s gid ws).ctxRegs = s.ctxRegs := rfl
@[simp] theorem setVs_services (gid : Nat) (ws : List (Nat × Nat × Nat)) : (setVs s gid ws).services = s.services := rfl
@[simp] theorem setVs_keys (gid : Nat) (ws : List (Nat × Nat × Nat)) : (setVs s gid ws).keys = s.keys := rfl
@[simp] theorem setVs_vectors (gid : Nat) (ws : List (Nat × Nat × Nat)) : (setVs s gid ws).vectors = s.vectors := rfl
@[simp] theorem setVs_msix (gid : Nat) (ws : List (Nat × Nat × Nat)) : (setVs s gid ws).msix = s.msix := rfl
@[simp] theorem setVs_queueRegs (gid : Nat) (ws : List (Nat × Nat × Nat)) : (setVs s gid ws).queueRegs = s.queueRegs := rfl
@[simp] theorem setVs_queues (gid : Nat) (ws : List (Nat × Nat × Nat)) : (setVs s gid ws).queues = s.queues := rfl
@[simp] theorem setVs_records (gid : Nat) (ws : List (Nat × Nat × Nat)) : (setVs s gid ws).records = s.records := rfl
@[simp] theorem setVs_launches (gid : Nat) (ws : List (Nat × Nat × Nat)) : (setVs s gid ws).launches = s.launches := rfl
@[simp] theorem setVs_wgs (gid : Nat) (ws : List (Nat × Nat × Nat)) : (setVs s gid ws).wgs = s.wgs := rfl
@[simp] theorem setVs_gangs (gid : Nat) (ws : List (Nat × Nat × Nat)) : (setVs s gid ws).gangs = s.gangs := rfl
@[simp] theorem setVs_paths (gid : Nat) (ws : List (Nat × Nat × Nat)) : (setVs s gid ws).paths = s.paths := rfl
@[simp] theorem setVs_v (gid : Nat) (ws : List (Nat × Nat × Nat)) : (setVs s gid ws).v = bSetAll s.v (ws.map fun w => (vKey gid w.1 w.2.1, w.2.2)) := rfl
@[simp] theorem setVs_g (gid : Nat) (ws : List (Nat × Nat × Nat)) : (setVs s gid ws).g = s.g := rfl
@[simp] theorem setVs_p (gid : Nat) (ws : List (Nat × Nat × Nat)) : (setVs s gid ws).p = s.p := rfl
@[simp] theorem setVs_csr (gid : Nat) (ws : List (Nat × Nat × Nat)) : (setVs s gid ws).csr = s.csr := rfl
@[simp] theorem setVs_acc (gid : Nat) (ws : List (Nat × Nat × Nat)) : (setVs s gid ws).acc = s.acc := rfl
@[simp] theorem setVs_tiles (gid : Nat) (ws : List (Nat × Nat × Nat)) : (setVs s gid ws).tiles = s.tiles := rfl
@[simp] theorem setVs_scratch (gid : Nat) (ws : List (Nat × Nat × Nat)) : (setVs s gid ws).scratch = s.scratch := rfl
@[simp] theorem setVs_oldScratch (gid : Nat) (ws : List (Nat × Nat × Nat)) : (setVs s gid ws).oldScratch = s.oldScratch := rfl
@[simp] theorem setVs_mem (gid : Nat) (ws : List (Nat × Nat × Nat)) : (setVs s gid ws).mem = s.mem := rfl
@[simp] theorem setVs_poison (gid : Nat) (ws : List (Nat × Nat × Nat)) : (setVs s gid ws).poison = s.poison := rfl
@[simp] theorem setVs_ops (gid : Nat) (ws : List (Nat × Nat × Nat)) : (setVs s gid ws).ops = s.ops := rfl
@[simp] theorem setVs_l1 (gid : Nat) (ws : List (Nat × Nat × Nat)) : (setVs s gid ws).l1 = s.l1 := rfl
@[simp] theorem setVs_lines (gid : Nat) (ws : List (Nat × Nat × Nat)) : (setVs s gid ws).lines = s.lines := rfl
@[simp] theorem setVs_snoop (gid : Nat) (ws : List (Nat × Nat × Nat)) : (setVs s gid ws).snoop = s.snoop := rfl
@[simp] theorem setVs_regions (gid : Nat) (ws : List (Nat × Nat × Nat)) : (setVs s gid ws).regions = s.regions := rfl
@[simp] theorem setVs_cache (gid : Nat) (ws : List (Nat × Nat × Nat)) : (setVs s gid ws).cache = s.cache := rfl
@[simp] theorem setVs_ro (gid : Nat) (ws : List (Nat × Nat × Nat)) : (setVs s gid ws).ro = s.ro := rfl
@[simp] theorem setVs_roDrops (gid : Nat) (ws : List (Nat × Nat × Nat)) : (setVs s gid ws).roDrops = s.roDrops := rfl
@[simp] theorem setVs_nodes (gid : Nat) (ws : List (Nat × Nat × Nat)) : (setVs s gid ws).nodes = s.nodes := rfl
@[simp] theorem setVs_tlb (gid : Nat) (ws : List (Nat × Nat × Nat)) : (setVs s gid ws).tlb = s.tlb := rfl
@[simp] theorem setVs_ats (gid : Nat) (ws : List (Nat × Nat × Nat)) : (setVs s gid ws).ats = s.ats := rfl
@[simp] theorem setVs_hostSent (gid : Nat) (ws : List (Nat × Nat × Nat)) : (setVs s gid ws).hostSent = s.hostSent := rfl
@[simp] theorem setVs_invals (gid : Nat) (ws : List (Nat × Nat × Nat)) : (setVs s gid ws).invals = s.invals := rfl
@[simp] theorem setVs_invalDone (gid : Nat) (ws : List (Nat × Nat × Nat)) : (setVs s gid ws).invalDone = s.invalDone := rfl
@[simp] theorem setVs_icache (gid : Nat) (ws : List (Nat × Nat × Nat)) : (setVs s gid ws).icache = s.icache := rfl
@[simp] theorem setVs_beacons (gid : Nat) (ws : List (Nat × Nat × Nat)) : (setVs s gid ws).beacons = s.beacons := rfl
@[simp] theorem setVs_cmds (gid : Nat) (ws : List (Nat × Nat × Nat)) : (setVs s gid ws).cmds = s.cmds := rfl
@[simp] theorem setVs_targets (gid : Nat) (ws : List (Nat × Nat × Nat)) : (setVs s gid ws).targets = s.targets := rfl
@[simp] theorem setVs_frames (gid : Nat) (ws : List (Nat × Nat × Nat)) : (setVs s gid ws).frames = s.frames := rfl
@[simp] theorem setVs_passes (gid : Nat) (ws : List (Nat × Nat × Nat)) : (setVs s gid ws).passes = s.passes := rfl
@[simp] theorem setVs_peers (gid : Nat) (ws : List (Nat × Nat × Nat)) : (setVs s gid ws).peers = s.peers := rfl
@[simp] theorem setVs_far (gid : Nat) (ws : List (Nat × Nat × Nat)) : (setVs s gid ws).far = s.far := rfl
@[simp] theorem setVs_pubs (gid : Nat) (ws : List (Nat × Nat × Nat)) : (setVs s gid ws).pubs = s.pubs := rfl
@[simp] theorem setVs_clock (gid : Nat) (ws : List (Nat × Nat × Nat)) : (setVs s gid ws).clock = s.clock := rfl
@[simp] theorem setVs_turnSched (gid : Nat) (ws : List (Nat × Nat × Nat)) : (setVs s gid ws).turnSched = s.turnSched := rfl
@[simp] theorem setVs_fresh (gid : Nat) (ws : List (Nat × Nat × Nat)) : (setVs s gid ws).fresh = s.fresh := rfl
@[simp] theorem setVs_free (gid : Nat) (ws : List (Nat × Nat × Nat)) : (setVs s gid ws).free = s.free := rfl
@[simp] theorem setVs_stamp (gid : Nat) (ws : List (Nat × Nat × Nat)) : (setVs s gid ws).stamp = s.stamp := rfl
@[simp] theorem setVs_agenda (gid : Nat) (ws : List (Nat × Nat × Nat)) : (setVs s gid ws).agenda = s.agenda := rfl
@[simp] theorem setVs_subject (gid : Nat) (ws : List (Nat × Nat × Nat)) : (setVs s gid ws).subject = s.subject := rfl
@[simp] theorem setVs_issuing (gid : Nat) (ws : List (Nat × Nat × Nat)) : (setVs s gid ws).issuing = s.issuing := rfl

@[simp] theorem setPs_pkg (gid r : Nat) (ws : List (Nat × Bool)) : (setPs s gid r ws).pkg = s.pkg := by unfold setPs; split <;> rfl
@[simp] theorem setPs_mbx (gid r : Nat) (ws : List (Nat × Bool)) : (setPs s gid r ws).mbx = s.mbx := by unfold setPs; split <;> rfl
@[simp] theorem setPs_mbxRun (gid r : Nat) (ws : List (Nat × Bool)) : (setPs s gid r ws).mbxRun = s.mbxRun := by unfold setPs; split <;> rfl
@[simp] theorem setPs_parts (gid r : Nat) (ws : List (Nat × Bool)) : (setPs s gid r ws).parts = s.parts := by unfold setPs; split <;> rfl
@[simp] theorem setPs_droops (gid r : Nat) (ws : List (Nat × Bool)) : (setPs s gid r ws).droops = s.droops := by unfold setPs; split <;> rfl
@[simp] theorem setPs_wsphase (gid r : Nat) (ws : List (Nat × Bool)) : (setPs s gid r ws).wsphase = s.wsphase := by unfold setPs; split <;> rfl
@[simp] theorem setPs_scrub (gid r : Nat) (ws : List (Nat × Bool)) : (setPs s gid r ws).scrub = s.scrub := by unfold setPs; split <;> rfl
@[simp] theorem setPs_ctxs (gid r : Nat) (ws : List (Nat × Bool)) : (setPs s gid r ws).ctxs = s.ctxs := by unfold setPs; split <;> rfl
@[simp] theorem setPs_ctxRegs (gid r : Nat) (ws : List (Nat × Bool)) : (setPs s gid r ws).ctxRegs = s.ctxRegs := by unfold setPs; split <;> rfl
@[simp] theorem setPs_services (gid r : Nat) (ws : List (Nat × Bool)) : (setPs s gid r ws).services = s.services := by unfold setPs; split <;> rfl
@[simp] theorem setPs_keys (gid r : Nat) (ws : List (Nat × Bool)) : (setPs s gid r ws).keys = s.keys := by unfold setPs; split <;> rfl
@[simp] theorem setPs_vectors (gid r : Nat) (ws : List (Nat × Bool)) : (setPs s gid r ws).vectors = s.vectors := by unfold setPs; split <;> rfl
@[simp] theorem setPs_msix (gid r : Nat) (ws : List (Nat × Bool)) : (setPs s gid r ws).msix = s.msix := by unfold setPs; split <;> rfl
@[simp] theorem setPs_queueRegs (gid r : Nat) (ws : List (Nat × Bool)) : (setPs s gid r ws).queueRegs = s.queueRegs := by unfold setPs; split <;> rfl
@[simp] theorem setPs_queues (gid r : Nat) (ws : List (Nat × Bool)) : (setPs s gid r ws).queues = s.queues := by unfold setPs; split <;> rfl
@[simp] theorem setPs_records (gid r : Nat) (ws : List (Nat × Bool)) : (setPs s gid r ws).records = s.records := by unfold setPs; split <;> rfl
@[simp] theorem setPs_launches (gid r : Nat) (ws : List (Nat × Bool)) : (setPs s gid r ws).launches = s.launches := by unfold setPs; split <;> rfl
@[simp] theorem setPs_wgs (gid r : Nat) (ws : List (Nat × Bool)) : (setPs s gid r ws).wgs = s.wgs := by unfold setPs; split <;> rfl
@[simp] theorem setPs_gangs (gid r : Nat) (ws : List (Nat × Bool)) : (setPs s gid r ws).gangs = s.gangs := by unfold setPs; split <;> rfl
@[simp] theorem setPs_paths (gid r : Nat) (ws : List (Nat × Bool)) : (setPs s gid r ws).paths = s.paths := by unfold setPs; split <;> rfl
@[simp] theorem setPs_v (gid r : Nat) (ws : List (Nat × Bool)) : (setPs s gid r ws).v = s.v := by unfold setPs; split <;> rfl
@[simp] theorem setPs_g (gid r : Nat) (ws : List (Nat × Bool)) : (setPs s gid r ws).g = s.g := by unfold setPs; split <;> rfl
@[simp] theorem setPs_csr (gid r : Nat) (ws : List (Nat × Bool)) : (setPs s gid r ws).csr = s.csr := by unfold setPs; split <;> rfl
@[simp] theorem setPs_acc (gid r : Nat) (ws : List (Nat × Bool)) : (setPs s gid r ws).acc = s.acc := by unfold setPs; split <;> rfl
@[simp] theorem setPs_tiles (gid r : Nat) (ws : List (Nat × Bool)) : (setPs s gid r ws).tiles = s.tiles := by unfold setPs; split <;> rfl
@[simp] theorem setPs_scratch (gid r : Nat) (ws : List (Nat × Bool)) : (setPs s gid r ws).scratch = s.scratch := by unfold setPs; split <;> rfl
@[simp] theorem setPs_oldScratch (gid r : Nat) (ws : List (Nat × Bool)) : (setPs s gid r ws).oldScratch = s.oldScratch := by unfold setPs; split <;> rfl
@[simp] theorem setPs_mem (gid r : Nat) (ws : List (Nat × Bool)) : (setPs s gid r ws).mem = s.mem := by unfold setPs; split <;> rfl
@[simp] theorem setPs_poison (gid r : Nat) (ws : List (Nat × Bool)) : (setPs s gid r ws).poison = s.poison := by unfold setPs; split <;> rfl
@[simp] theorem setPs_ops (gid r : Nat) (ws : List (Nat × Bool)) : (setPs s gid r ws).ops = s.ops := by unfold setPs; split <;> rfl
@[simp] theorem setPs_l1 (gid r : Nat) (ws : List (Nat × Bool)) : (setPs s gid r ws).l1 = s.l1 := by unfold setPs; split <;> rfl
@[simp] theorem setPs_lines (gid r : Nat) (ws : List (Nat × Bool)) : (setPs s gid r ws).lines = s.lines := by unfold setPs; split <;> rfl
@[simp] theorem setPs_snoop (gid r : Nat) (ws : List (Nat × Bool)) : (setPs s gid r ws).snoop = s.snoop := by unfold setPs; split <;> rfl
@[simp] theorem setPs_regions (gid r : Nat) (ws : List (Nat × Bool)) : (setPs s gid r ws).regions = s.regions := by unfold setPs; split <;> rfl
@[simp] theorem setPs_cache (gid r : Nat) (ws : List (Nat × Bool)) : (setPs s gid r ws).cache = s.cache := by unfold setPs; split <;> rfl
@[simp] theorem setPs_ro (gid r : Nat) (ws : List (Nat × Bool)) : (setPs s gid r ws).ro = s.ro := by unfold setPs; split <;> rfl
@[simp] theorem setPs_roDrops (gid r : Nat) (ws : List (Nat × Bool)) : (setPs s gid r ws).roDrops = s.roDrops := by unfold setPs; split <;> rfl
@[simp] theorem setPs_nodes (gid r : Nat) (ws : List (Nat × Bool)) : (setPs s gid r ws).nodes = s.nodes := by unfold setPs; split <;> rfl
@[simp] theorem setPs_tlb (gid r : Nat) (ws : List (Nat × Bool)) : (setPs s gid r ws).tlb = s.tlb := by unfold setPs; split <;> rfl
@[simp] theorem setPs_ats (gid r : Nat) (ws : List (Nat × Bool)) : (setPs s gid r ws).ats = s.ats := by unfold setPs; split <;> rfl
@[simp] theorem setPs_hostSent (gid r : Nat) (ws : List (Nat × Bool)) : (setPs s gid r ws).hostSent = s.hostSent := by unfold setPs; split <;> rfl
@[simp] theorem setPs_invals (gid r : Nat) (ws : List (Nat × Bool)) : (setPs s gid r ws).invals = s.invals := by unfold setPs; split <;> rfl
@[simp] theorem setPs_invalDone (gid r : Nat) (ws : List (Nat × Bool)) : (setPs s gid r ws).invalDone = s.invalDone := by unfold setPs; split <;> rfl
@[simp] theorem setPs_icache (gid r : Nat) (ws : List (Nat × Bool)) : (setPs s gid r ws).icache = s.icache := by unfold setPs; split <;> rfl
@[simp] theorem setPs_beacons (gid r : Nat) (ws : List (Nat × Bool)) : (setPs s gid r ws).beacons = s.beacons := by unfold setPs; split <;> rfl
@[simp] theorem setPs_cmds (gid r : Nat) (ws : List (Nat × Bool)) : (setPs s gid r ws).cmds = s.cmds := by unfold setPs; split <;> rfl
@[simp] theorem setPs_targets (gid r : Nat) (ws : List (Nat × Bool)) : (setPs s gid r ws).targets = s.targets := by unfold setPs; split <;> rfl
@[simp] theorem setPs_frames (gid r : Nat) (ws : List (Nat × Bool)) : (setPs s gid r ws).frames = s.frames := by unfold setPs; split <;> rfl
@[simp] theorem setPs_passes (gid r : Nat) (ws : List (Nat × Bool)) : (setPs s gid r ws).passes = s.passes := by unfold setPs; split <;> rfl
@[simp] theorem setPs_peers (gid r : Nat) (ws : List (Nat × Bool)) : (setPs s gid r ws).peers = s.peers := by unfold setPs; split <;> rfl
@[simp] theorem setPs_far (gid r : Nat) (ws : List (Nat × Bool)) : (setPs s gid r ws).far = s.far := by unfold setPs; split <;> rfl
@[simp] theorem setPs_pubs (gid r : Nat) (ws : List (Nat × Bool)) : (setPs s gid r ws).pubs = s.pubs := by unfold setPs; split <;> rfl
@[simp] theorem setPs_clock (gid r : Nat) (ws : List (Nat × Bool)) : (setPs s gid r ws).clock = s.clock := by unfold setPs; split <;> rfl
@[simp] theorem setPs_turnSched (gid r : Nat) (ws : List (Nat × Bool)) : (setPs s gid r ws).turnSched = s.turnSched := by unfold setPs; split <;> rfl
@[simp] theorem setPs_fresh (gid r : Nat) (ws : List (Nat × Bool)) : (setPs s gid r ws).fresh = s.fresh := by unfold setPs; split <;> rfl
@[simp] theorem setPs_free (gid r : Nat) (ws : List (Nat × Bool)) : (setPs s gid r ws).free = s.free := by unfold setPs; split <;> rfl
@[simp] theorem setPs_stamp (gid r : Nat) (ws : List (Nat × Bool)) : (setPs s gid r ws).stamp = s.stamp := by unfold setPs; split <;> rfl
@[simp] theorem setPs_agenda (gid r : Nat) (ws : List (Nat × Bool)) : (setPs s gid r ws).agenda = s.agenda := by unfold setPs; split <;> rfl
@[simp] theorem setPs_subject (gid r : Nat) (ws : List (Nat × Bool)) : (setPs s gid r ws).subject = s.subject := by unfold setPs; split <;> rfl
@[simp] theorem setPs_issuing (gid r : Nat) (ws : List (Nat × Bool)) : (setPs s gid r ws).issuing = s.issuing := by unfold setPs; split <;> rfl

@[simp] theorem setGs_pkg (gid : Nat) (cs : List Nat) (r x : Nat) : (setGs s gid cs r x).pkg = s.pkg := rfl
@[simp] theorem setGs_mbx (gid : Nat) (cs : List Nat) (r x : Nat) : (setGs s gid cs r x).mbx = s.mbx := rfl
@[simp] theorem setGs_mbxRun (gid : Nat) (cs : List Nat) (r x : Nat) : (setGs s gid cs r x).mbxRun = s.mbxRun := rfl
@[simp] theorem setGs_parts (gid : Nat) (cs : List Nat) (r x : Nat) : (setGs s gid cs r x).parts = s.parts := rfl
@[simp] theorem setGs_droops (gid : Nat) (cs : List Nat) (r x : Nat) : (setGs s gid cs r x).droops = s.droops := rfl
@[simp] theorem setGs_wsphase (gid : Nat) (cs : List Nat) (r x : Nat) : (setGs s gid cs r x).wsphase = s.wsphase := rfl
@[simp] theorem setGs_scrub (gid : Nat) (cs : List Nat) (r x : Nat) : (setGs s gid cs r x).scrub = s.scrub := rfl
@[simp] theorem setGs_ctxs (gid : Nat) (cs : List Nat) (r x : Nat) : (setGs s gid cs r x).ctxs = s.ctxs := rfl
@[simp] theorem setGs_ctxRegs (gid : Nat) (cs : List Nat) (r x : Nat) : (setGs s gid cs r x).ctxRegs = s.ctxRegs := rfl
@[simp] theorem setGs_services (gid : Nat) (cs : List Nat) (r x : Nat) : (setGs s gid cs r x).services = s.services := rfl
@[simp] theorem setGs_keys (gid : Nat) (cs : List Nat) (r x : Nat) : (setGs s gid cs r x).keys = s.keys := rfl
@[simp] theorem setGs_vectors (gid : Nat) (cs : List Nat) (r x : Nat) : (setGs s gid cs r x).vectors = s.vectors := rfl
@[simp] theorem setGs_msix (gid : Nat) (cs : List Nat) (r x : Nat) : (setGs s gid cs r x).msix = s.msix := rfl
@[simp] theorem setGs_queueRegs (gid : Nat) (cs : List Nat) (r x : Nat) : (setGs s gid cs r x).queueRegs = s.queueRegs := rfl
@[simp] theorem setGs_queues (gid : Nat) (cs : List Nat) (r x : Nat) : (setGs s gid cs r x).queues = s.queues := rfl
@[simp] theorem setGs_records (gid : Nat) (cs : List Nat) (r x : Nat) : (setGs s gid cs r x).records = s.records := rfl
@[simp] theorem setGs_launches (gid : Nat) (cs : List Nat) (r x : Nat) : (setGs s gid cs r x).launches = s.launches := rfl
@[simp] theorem setGs_wgs (gid : Nat) (cs : List Nat) (r x : Nat) : (setGs s gid cs r x).wgs = s.wgs := rfl
@[simp] theorem setGs_gangs (gid : Nat) (cs : List Nat) (r x : Nat) : (setGs s gid cs r x).gangs = s.gangs := rfl
@[simp] theorem setGs_paths (gid : Nat) (cs : List Nat) (r x : Nat) : (setGs s gid cs r x).paths = s.paths := rfl
@[simp] theorem setGs_v (gid : Nat) (cs : List Nat) (r x : Nat) : (setGs s gid cs r x).v = s.v := rfl
@[simp] theorem setGs_g (gid : Nat) (cs : List Nat) (r x : Nat) : (setGs s gid cs r x).g = bSetAll s.g (cs.map fun c => (gKey gid c r, x)) := rfl
@[simp] theorem setGs_p (gid : Nat) (cs : List Nat) (r x : Nat) : (setGs s gid cs r x).p = s.p := rfl
@[simp] theorem setGs_csr (gid : Nat) (cs : List Nat) (r x : Nat) : (setGs s gid cs r x).csr = s.csr := rfl
@[simp] theorem setGs_acc (gid : Nat) (cs : List Nat) (r x : Nat) : (setGs s gid cs r x).acc = s.acc := rfl
@[simp] theorem setGs_tiles (gid : Nat) (cs : List Nat) (r x : Nat) : (setGs s gid cs r x).tiles = s.tiles := rfl
@[simp] theorem setGs_scratch (gid : Nat) (cs : List Nat) (r x : Nat) : (setGs s gid cs r x).scratch = s.scratch := rfl
@[simp] theorem setGs_oldScratch (gid : Nat) (cs : List Nat) (r x : Nat) : (setGs s gid cs r x).oldScratch = s.oldScratch := rfl
@[simp] theorem setGs_mem (gid : Nat) (cs : List Nat) (r x : Nat) : (setGs s gid cs r x).mem = s.mem := rfl
@[simp] theorem setGs_poison (gid : Nat) (cs : List Nat) (r x : Nat) : (setGs s gid cs r x).poison = s.poison := rfl
@[simp] theorem setGs_ops (gid : Nat) (cs : List Nat) (r x : Nat) : (setGs s gid cs r x).ops = s.ops := rfl
@[simp] theorem setGs_l1 (gid : Nat) (cs : List Nat) (r x : Nat) : (setGs s gid cs r x).l1 = s.l1 := rfl
@[simp] theorem setGs_lines (gid : Nat) (cs : List Nat) (r x : Nat) : (setGs s gid cs r x).lines = s.lines := rfl
@[simp] theorem setGs_snoop (gid : Nat) (cs : List Nat) (r x : Nat) : (setGs s gid cs r x).snoop = s.snoop := rfl
@[simp] theorem setGs_regions (gid : Nat) (cs : List Nat) (r x : Nat) : (setGs s gid cs r x).regions = s.regions := rfl
@[simp] theorem setGs_cache (gid : Nat) (cs : List Nat) (r x : Nat) : (setGs s gid cs r x).cache = s.cache := rfl
@[simp] theorem setGs_ro (gid : Nat) (cs : List Nat) (r x : Nat) : (setGs s gid cs r x).ro = s.ro := rfl
@[simp] theorem setGs_roDrops (gid : Nat) (cs : List Nat) (r x : Nat) : (setGs s gid cs r x).roDrops = s.roDrops := rfl
@[simp] theorem setGs_nodes (gid : Nat) (cs : List Nat) (r x : Nat) : (setGs s gid cs r x).nodes = s.nodes := rfl
@[simp] theorem setGs_tlb (gid : Nat) (cs : List Nat) (r x : Nat) : (setGs s gid cs r x).tlb = s.tlb := rfl
@[simp] theorem setGs_ats (gid : Nat) (cs : List Nat) (r x : Nat) : (setGs s gid cs r x).ats = s.ats := rfl
@[simp] theorem setGs_hostSent (gid : Nat) (cs : List Nat) (r x : Nat) : (setGs s gid cs r x).hostSent = s.hostSent := rfl
@[simp] theorem setGs_invals (gid : Nat) (cs : List Nat) (r x : Nat) : (setGs s gid cs r x).invals = s.invals := rfl
@[simp] theorem setGs_invalDone (gid : Nat) (cs : List Nat) (r x : Nat) : (setGs s gid cs r x).invalDone = s.invalDone := rfl
@[simp] theorem setGs_icache (gid : Nat) (cs : List Nat) (r x : Nat) : (setGs s gid cs r x).icache = s.icache := rfl
@[simp] theorem setGs_beacons (gid : Nat) (cs : List Nat) (r x : Nat) : (setGs s gid cs r x).beacons = s.beacons := rfl
@[simp] theorem setGs_cmds (gid : Nat) (cs : List Nat) (r x : Nat) : (setGs s gid cs r x).cmds = s.cmds := rfl
@[simp] theorem setGs_targets (gid : Nat) (cs : List Nat) (r x : Nat) : (setGs s gid cs r x).targets = s.targets := rfl
@[simp] theorem setGs_frames (gid : Nat) (cs : List Nat) (r x : Nat) : (setGs s gid cs r x).frames = s.frames := rfl
@[simp] theorem setGs_passes (gid : Nat) (cs : List Nat) (r x : Nat) : (setGs s gid cs r x).passes = s.passes := rfl
@[simp] theorem setGs_peers (gid : Nat) (cs : List Nat) (r x : Nat) : (setGs s gid cs r x).peers = s.peers := rfl
@[simp] theorem setGs_far (gid : Nat) (cs : List Nat) (r x : Nat) : (setGs s gid cs r x).far = s.far := rfl
@[simp] theorem setGs_pubs (gid : Nat) (cs : List Nat) (r x : Nat) : (setGs s gid cs r x).pubs = s.pubs := rfl
@[simp] theorem setGs_clock (gid : Nat) (cs : List Nat) (r x : Nat) : (setGs s gid cs r x).clock = s.clock := rfl
@[simp] theorem setGs_turnSched (gid : Nat) (cs : List Nat) (r x : Nat) : (setGs s gid cs r x).turnSched = s.turnSched := rfl
@[simp] theorem setGs_fresh (gid : Nat) (cs : List Nat) (r x : Nat) : (setGs s gid cs r x).fresh = s.fresh := rfl
@[simp] theorem setGs_free (gid : Nat) (cs : List Nat) (r x : Nat) : (setGs s gid cs r x).free = s.free := rfl
@[simp] theorem setGs_stamp (gid : Nat) (cs : List Nat) (r x : Nat) : (setGs s gid cs r x).stamp = s.stamp := rfl
@[simp] theorem setGs_agenda (gid : Nat) (cs : List Nat) (r x : Nat) : (setGs s gid cs r x).agenda = s.agenda := rfl
@[simp] theorem setGs_subject (gid : Nat) (cs : List Nat) (r x : Nat) : (setGs s gid cs r x).subject = s.subject := rfl
@[simp] theorem setGs_issuing (gid : Nat) (cs : List Nat) (r x : Nat) : (setGs s gid cs r x).issuing = s.issuing := rfl

@[simp] theorem setG_pkg (q : Path) (r x : Nat) : (setG s q r x).pkg = s.pkg := rfl
@[simp] theorem setG_mbx (q : Path) (r x : Nat) : (setG s q r x).mbx = s.mbx := rfl
@[simp] theorem setG_mbxRun (q : Path) (r x : Nat) : (setG s q r x).mbxRun = s.mbxRun := rfl
@[simp] theorem setG_parts (q : Path) (r x : Nat) : (setG s q r x).parts = s.parts := rfl
@[simp] theorem setG_droops (q : Path) (r x : Nat) : (setG s q r x).droops = s.droops := rfl
@[simp] theorem setG_wsphase (q : Path) (r x : Nat) : (setG s q r x).wsphase = s.wsphase := rfl
@[simp] theorem setG_scrub (q : Path) (r x : Nat) : (setG s q r x).scrub = s.scrub := rfl
@[simp] theorem setG_ctxs (q : Path) (r x : Nat) : (setG s q r x).ctxs = s.ctxs := rfl
@[simp] theorem setG_ctxRegs (q : Path) (r x : Nat) : (setG s q r x).ctxRegs = s.ctxRegs := rfl
@[simp] theorem setG_services (q : Path) (r x : Nat) : (setG s q r x).services = s.services := rfl
@[simp] theorem setG_keys (q : Path) (r x : Nat) : (setG s q r x).keys = s.keys := rfl
@[simp] theorem setG_vectors (q : Path) (r x : Nat) : (setG s q r x).vectors = s.vectors := rfl
@[simp] theorem setG_msix (q : Path) (r x : Nat) : (setG s q r x).msix = s.msix := rfl
@[simp] theorem setG_queueRegs (q : Path) (r x : Nat) : (setG s q r x).queueRegs = s.queueRegs := rfl
@[simp] theorem setG_queues (q : Path) (r x : Nat) : (setG s q r x).queues = s.queues := rfl
@[simp] theorem setG_records (q : Path) (r x : Nat) : (setG s q r x).records = s.records := rfl
@[simp] theorem setG_launches (q : Path) (r x : Nat) : (setG s q r x).launches = s.launches := rfl
@[simp] theorem setG_wgs (q : Path) (r x : Nat) : (setG s q r x).wgs = s.wgs := rfl
@[simp] theorem setG_gangs (q : Path) (r x : Nat) : (setG s q r x).gangs = s.gangs := rfl
@[simp] theorem setG_paths (q : Path) (r x : Nat) : (setG s q r x).paths = s.paths := rfl
@[simp] theorem setG_v (q : Path) (r x : Nat) : (setG s q r x).v = s.v := rfl
@[simp] theorem setG_g (q : Path) (r x : Nat) : (setG s q r x).g = bSetAll s.g ((if active q = 0 then [] else slicesOf q.lanes).map fun c => (gKey q.gang c r, x)) := rfl
@[simp] theorem setG_p (q : Path) (r x : Nat) : (setG s q r x).p = s.p := rfl
@[simp] theorem setG_csr (q : Path) (r x : Nat) : (setG s q r x).csr = s.csr := rfl
@[simp] theorem setG_acc (q : Path) (r x : Nat) : (setG s q r x).acc = s.acc := rfl
@[simp] theorem setG_tiles (q : Path) (r x : Nat) : (setG s q r x).tiles = s.tiles := rfl
@[simp] theorem setG_scratch (q : Path) (r x : Nat) : (setG s q r x).scratch = s.scratch := rfl
@[simp] theorem setG_oldScratch (q : Path) (r x : Nat) : (setG s q r x).oldScratch = s.oldScratch := rfl
@[simp] theorem setG_mem (q : Path) (r x : Nat) : (setG s q r x).mem = s.mem := rfl
@[simp] theorem setG_poison (q : Path) (r x : Nat) : (setG s q r x).poison = s.poison := rfl
@[simp] theorem setG_ops (q : Path) (r x : Nat) : (setG s q r x).ops = s.ops := rfl
@[simp] theorem setG_l1 (q : Path) (r x : Nat) : (setG s q r x).l1 = s.l1 := rfl
@[simp] theorem setG_lines (q : Path) (r x : Nat) : (setG s q r x).lines = s.lines := rfl
@[simp] theorem setG_snoop (q : Path) (r x : Nat) : (setG s q r x).snoop = s.snoop := rfl
@[simp] theorem setG_regions (q : Path) (r x : Nat) : (setG s q r x).regions = s.regions := rfl
@[simp] theorem setG_cache (q : Path) (r x : Nat) : (setG s q r x).cache = s.cache := rfl
@[simp] theorem setG_ro (q : Path) (r x : Nat) : (setG s q r x).ro = s.ro := rfl
@[simp] theorem setG_roDrops (q : Path) (r x : Nat) : (setG s q r x).roDrops = s.roDrops := rfl
@[simp] theorem setG_nodes (q : Path) (r x : Nat) : (setG s q r x).nodes = s.nodes := rfl
@[simp] theorem setG_tlb (q : Path) (r x : Nat) : (setG s q r x).tlb = s.tlb := rfl
@[simp] theorem setG_ats (q : Path) (r x : Nat) : (setG s q r x).ats = s.ats := rfl
@[simp] theorem setG_hostSent (q : Path) (r x : Nat) : (setG s q r x).hostSent = s.hostSent := rfl
@[simp] theorem setG_invals (q : Path) (r x : Nat) : (setG s q r x).invals = s.invals := rfl
@[simp] theorem setG_invalDone (q : Path) (r x : Nat) : (setG s q r x).invalDone = s.invalDone := rfl
@[simp] theorem setG_icache (q : Path) (r x : Nat) : (setG s q r x).icache = s.icache := rfl
@[simp] theorem setG_beacons (q : Path) (r x : Nat) : (setG s q r x).beacons = s.beacons := rfl
@[simp] theorem setG_cmds (q : Path) (r x : Nat) : (setG s q r x).cmds = s.cmds := rfl
@[simp] theorem setG_targets (q : Path) (r x : Nat) : (setG s q r x).targets = s.targets := rfl
@[simp] theorem setG_frames (q : Path) (r x : Nat) : (setG s q r x).frames = s.frames := rfl
@[simp] theorem setG_passes (q : Path) (r x : Nat) : (setG s q r x).passes = s.passes := rfl
@[simp] theorem setG_peers (q : Path) (r x : Nat) : (setG s q r x).peers = s.peers := rfl
@[simp] theorem setG_far (q : Path) (r x : Nat) : (setG s q r x).far = s.far := rfl
@[simp] theorem setG_pubs (q : Path) (r x : Nat) : (setG s q r x).pubs = s.pubs := rfl
@[simp] theorem setG_clock (q : Path) (r x : Nat) : (setG s q r x).clock = s.clock := rfl
@[simp] theorem setG_turnSched (q : Path) (r x : Nat) : (setG s q r x).turnSched = s.turnSched := rfl
@[simp] theorem setG_fresh (q : Path) (r x : Nat) : (setG s q r x).fresh = s.fresh := rfl
@[simp] theorem setG_free (q : Path) (r x : Nat) : (setG s q r x).free = s.free := rfl
@[simp] theorem setG_stamp (q : Path) (r x : Nat) : (setG s q r x).stamp = s.stamp := rfl
@[simp] theorem setG_agenda (q : Path) (r x : Nat) : (setG s q r x).agenda = s.agenda := rfl
@[simp] theorem setG_subject (q : Path) (r x : Nat) : (setG s q r x).subject = s.subject := rfl
@[simp] theorem setG_issuing (q : Path) (r x : Nat) : (setG s q r x).issuing = s.issuing := rfl

@[simp] theorem setCsr_pkg (q : Path) (i x : Nat) : (setCsr s q i x).pkg = s.pkg := rfl
@[simp] theorem setCsr_mbx (q : Path) (i x : Nat) : (setCsr s q i x).mbx = s.mbx := rfl
@[simp] theorem setCsr_mbxRun (q : Path) (i x : Nat) : (setCsr s q i x).mbxRun = s.mbxRun := rfl
@[simp] theorem setCsr_parts (q : Path) (i x : Nat) : (setCsr s q i x).parts = s.parts := rfl
@[simp] theorem setCsr_droops (q : Path) (i x : Nat) : (setCsr s q i x).droops = s.droops := rfl
@[simp] theorem setCsr_wsphase (q : Path) (i x : Nat) : (setCsr s q i x).wsphase = s.wsphase := rfl
@[simp] theorem setCsr_scrub (q : Path) (i x : Nat) : (setCsr s q i x).scrub = s.scrub := rfl
@[simp] theorem setCsr_ctxs (q : Path) (i x : Nat) : (setCsr s q i x).ctxs = s.ctxs := rfl
@[simp] theorem setCsr_ctxRegs (q : Path) (i x : Nat) : (setCsr s q i x).ctxRegs = s.ctxRegs := rfl
@[simp] theorem setCsr_services (q : Path) (i x : Nat) : (setCsr s q i x).services = s.services := rfl
@[simp] theorem setCsr_keys (q : Path) (i x : Nat) : (setCsr s q i x).keys = s.keys := rfl
@[simp] theorem setCsr_vectors (q : Path) (i x : Nat) : (setCsr s q i x).vectors = s.vectors := rfl
@[simp] theorem setCsr_msix (q : Path) (i x : Nat) : (setCsr s q i x).msix = s.msix := rfl
@[simp] theorem setCsr_queueRegs (q : Path) (i x : Nat) : (setCsr s q i x).queueRegs = s.queueRegs := rfl
@[simp] theorem setCsr_queues (q : Path) (i x : Nat) : (setCsr s q i x).queues = s.queues := rfl
@[simp] theorem setCsr_records (q : Path) (i x : Nat) : (setCsr s q i x).records = s.records := rfl
@[simp] theorem setCsr_launches (q : Path) (i x : Nat) : (setCsr s q i x).launches = s.launches := rfl
@[simp] theorem setCsr_wgs (q : Path) (i x : Nat) : (setCsr s q i x).wgs = s.wgs := rfl
@[simp] theorem setCsr_gangs (q : Path) (i x : Nat) : (setCsr s q i x).gangs = s.gangs := rfl
@[simp] theorem setCsr_paths (q : Path) (i x : Nat) : (setCsr s q i x).paths = s.paths := rfl
@[simp] theorem setCsr_v (q : Path) (i x : Nat) : (setCsr s q i x).v = s.v := rfl
@[simp] theorem setCsr_g (q : Path) (i x : Nat) : (setCsr s q i x).g = s.g := rfl
@[simp] theorem setCsr_p (q : Path) (i x : Nat) : (setCsr s q i x).p = s.p := rfl
@[simp] theorem setCsr_acc (q : Path) (i x : Nat) : (setCsr s q i x).acc = s.acc := rfl
@[simp] theorem setCsr_tiles (q : Path) (i x : Nat) : (setCsr s q i x).tiles = s.tiles := rfl
@[simp] theorem setCsr_scratch (q : Path) (i x : Nat) : (setCsr s q i x).scratch = s.scratch := rfl
@[simp] theorem setCsr_oldScratch (q : Path) (i x : Nat) : (setCsr s q i x).oldScratch = s.oldScratch := rfl
@[simp] theorem setCsr_mem (q : Path) (i x : Nat) : (setCsr s q i x).mem = s.mem := rfl
@[simp] theorem setCsr_poison (q : Path) (i x : Nat) : (setCsr s q i x).poison = s.poison := rfl
@[simp] theorem setCsr_ops (q : Path) (i x : Nat) : (setCsr s q i x).ops = s.ops := rfl
@[simp] theorem setCsr_l1 (q : Path) (i x : Nat) : (setCsr s q i x).l1 = s.l1 := rfl
@[simp] theorem setCsr_lines (q : Path) (i x : Nat) : (setCsr s q i x).lines = s.lines := rfl
@[simp] theorem setCsr_snoop (q : Path) (i x : Nat) : (setCsr s q i x).snoop = s.snoop := rfl
@[simp] theorem setCsr_regions (q : Path) (i x : Nat) : (setCsr s q i x).regions = s.regions := rfl
@[simp] theorem setCsr_cache (q : Path) (i x : Nat) : (setCsr s q i x).cache = s.cache := rfl
@[simp] theorem setCsr_ro (q : Path) (i x : Nat) : (setCsr s q i x).ro = s.ro := rfl
@[simp] theorem setCsr_roDrops (q : Path) (i x : Nat) : (setCsr s q i x).roDrops = s.roDrops := rfl
@[simp] theorem setCsr_nodes (q : Path) (i x : Nat) : (setCsr s q i x).nodes = s.nodes := rfl
@[simp] theorem setCsr_tlb (q : Path) (i x : Nat) : (setCsr s q i x).tlb = s.tlb := rfl
@[simp] theorem setCsr_ats (q : Path) (i x : Nat) : (setCsr s q i x).ats = s.ats := rfl
@[simp] theorem setCsr_hostSent (q : Path) (i x : Nat) : (setCsr s q i x).hostSent = s.hostSent := rfl
@[simp] theorem setCsr_invals (q : Path) (i x : Nat) : (setCsr s q i x).invals = s.invals := rfl
@[simp] theorem setCsr_invalDone (q : Path) (i x : Nat) : (setCsr s q i x).invalDone = s.invalDone := rfl
@[simp] theorem setCsr_icache (q : Path) (i x : Nat) : (setCsr s q i x).icache = s.icache := rfl
@[simp] theorem setCsr_beacons (q : Path) (i x : Nat) : (setCsr s q i x).beacons = s.beacons := rfl
@[simp] theorem setCsr_cmds (q : Path) (i x : Nat) : (setCsr s q i x).cmds = s.cmds := rfl
@[simp] theorem setCsr_targets (q : Path) (i x : Nat) : (setCsr s q i x).targets = s.targets := rfl
@[simp] theorem setCsr_frames (q : Path) (i x : Nat) : (setCsr s q i x).frames = s.frames := rfl
@[simp] theorem setCsr_passes (q : Path) (i x : Nat) : (setCsr s q i x).passes = s.passes := rfl
@[simp] theorem setCsr_peers (q : Path) (i x : Nat) : (setCsr s q i x).peers = s.peers := rfl
@[simp] theorem setCsr_far (q : Path) (i x : Nat) : (setCsr s q i x).far = s.far := rfl
@[simp] theorem setCsr_pubs (q : Path) (i x : Nat) : (setCsr s q i x).pubs = s.pubs := rfl
@[simp] theorem setCsr_clock (q : Path) (i x : Nat) : (setCsr s q i x).clock = s.clock := rfl
@[simp] theorem setCsr_turnSched (q : Path) (i x : Nat) : (setCsr s q i x).turnSched = s.turnSched := rfl
@[simp] theorem setCsr_fresh (q : Path) (i x : Nat) : (setCsr s q i x).fresh = s.fresh := rfl
@[simp] theorem setCsr_free (q : Path) (i x : Nat) : (setCsr s q i x).free = s.free := rfl
@[simp] theorem setCsr_stamp (q : Path) (i x : Nat) : (setCsr s q i x).stamp = s.stamp := rfl
@[simp] theorem setCsr_agenda (q : Path) (i x : Nat) : (setCsr s q i x).agenda = s.agenda := rfl
@[simp] theorem setCsr_subject (q : Path) (i x : Nat) : (setCsr s q i x).subject = s.subject := rfl
@[simp] theorem setCsr_issuing (q : Path) (i x : Nat) : (setCsr s q i x).issuing = s.issuing := rfl

@[simp] theorem mergeFlagsIn_pkg (gid lanes flags : Nat) : (mergeFlagsIn s gid lanes flags).pkg = s.pkg := rfl
@[simp] theorem mergeFlagsIn_mbx (gid lanes flags : Nat) : (mergeFlagsIn s gid lanes flags).mbx = s.mbx := rfl
@[simp] theorem mergeFlagsIn_mbxRun (gid lanes flags : Nat) : (mergeFlagsIn s gid lanes flags).mbxRun = s.mbxRun := rfl
@[simp] theorem mergeFlagsIn_parts (gid lanes flags : Nat) : (mergeFlagsIn s gid lanes flags).parts = s.parts := rfl
@[simp] theorem mergeFlagsIn_droops (gid lanes flags : Nat) : (mergeFlagsIn s gid lanes flags).droops = s.droops := rfl
@[simp] theorem mergeFlagsIn_wsphase (gid lanes flags : Nat) : (mergeFlagsIn s gid lanes flags).wsphase = s.wsphase := rfl
@[simp] theorem mergeFlagsIn_scrub (gid lanes flags : Nat) : (mergeFlagsIn s gid lanes flags).scrub = s.scrub := rfl
@[simp] theorem mergeFlagsIn_ctxs (gid lanes flags : Nat) : (mergeFlagsIn s gid lanes flags).ctxs = s.ctxs := rfl
@[simp] theorem mergeFlagsIn_ctxRegs (gid lanes flags : Nat) : (mergeFlagsIn s gid lanes flags).ctxRegs = s.ctxRegs := rfl
@[simp] theorem mergeFlagsIn_services (gid lanes flags : Nat) : (mergeFlagsIn s gid lanes flags).services = s.services := rfl
@[simp] theorem mergeFlagsIn_keys (gid lanes flags : Nat) : (mergeFlagsIn s gid lanes flags).keys = s.keys := rfl
@[simp] theorem mergeFlagsIn_vectors (gid lanes flags : Nat) : (mergeFlagsIn s gid lanes flags).vectors = s.vectors := rfl
@[simp] theorem mergeFlagsIn_msix (gid lanes flags : Nat) : (mergeFlagsIn s gid lanes flags).msix = s.msix := rfl
@[simp] theorem mergeFlagsIn_queueRegs (gid lanes flags : Nat) : (mergeFlagsIn s gid lanes flags).queueRegs = s.queueRegs := rfl
@[simp] theorem mergeFlagsIn_queues (gid lanes flags : Nat) : (mergeFlagsIn s gid lanes flags).queues = s.queues := rfl
@[simp] theorem mergeFlagsIn_records (gid lanes flags : Nat) : (mergeFlagsIn s gid lanes flags).records = s.records := rfl
@[simp] theorem mergeFlagsIn_launches (gid lanes flags : Nat) : (mergeFlagsIn s gid lanes flags).launches = s.launches := rfl
@[simp] theorem mergeFlagsIn_wgs (gid lanes flags : Nat) : (mergeFlagsIn s gid lanes flags).wgs = s.wgs := rfl
@[simp] theorem mergeFlagsIn_gangs (gid lanes flags : Nat) : (mergeFlagsIn s gid lanes flags).gangs = s.gangs := rfl
@[simp] theorem mergeFlagsIn_paths (gid lanes flags : Nat) : (mergeFlagsIn s gid lanes flags).paths = s.paths := rfl
@[simp] theorem mergeFlagsIn_v (gid lanes flags : Nat) : (mergeFlagsIn s gid lanes flags).v = s.v := rfl
@[simp] theorem mergeFlagsIn_g (gid lanes flags : Nat) : (mergeFlagsIn s gid lanes flags).g = s.g := rfl
@[simp] theorem mergeFlagsIn_p (gid lanes flags : Nat) : (mergeFlagsIn s gid lanes flags).p = s.p := rfl
@[simp] theorem mergeFlagsIn_acc (gid lanes flags : Nat) : (mergeFlagsIn s gid lanes flags).acc = s.acc := rfl
@[simp] theorem mergeFlagsIn_tiles (gid lanes flags : Nat) : (mergeFlagsIn s gid lanes flags).tiles = s.tiles := rfl
@[simp] theorem mergeFlagsIn_scratch (gid lanes flags : Nat) : (mergeFlagsIn s gid lanes flags).scratch = s.scratch := rfl
@[simp] theorem mergeFlagsIn_oldScratch (gid lanes flags : Nat) : (mergeFlagsIn s gid lanes flags).oldScratch = s.oldScratch := rfl
@[simp] theorem mergeFlagsIn_mem (gid lanes flags : Nat) : (mergeFlagsIn s gid lanes flags).mem = s.mem := rfl
@[simp] theorem mergeFlagsIn_poison (gid lanes flags : Nat) : (mergeFlagsIn s gid lanes flags).poison = s.poison := rfl
@[simp] theorem mergeFlagsIn_ops (gid lanes flags : Nat) : (mergeFlagsIn s gid lanes flags).ops = s.ops := rfl
@[simp] theorem mergeFlagsIn_l1 (gid lanes flags : Nat) : (mergeFlagsIn s gid lanes flags).l1 = s.l1 := rfl
@[simp] theorem mergeFlagsIn_lines (gid lanes flags : Nat) : (mergeFlagsIn s gid lanes flags).lines = s.lines := rfl
@[simp] theorem mergeFlagsIn_snoop (gid lanes flags : Nat) : (mergeFlagsIn s gid lanes flags).snoop = s.snoop := rfl
@[simp] theorem mergeFlagsIn_regions (gid lanes flags : Nat) : (mergeFlagsIn s gid lanes flags).regions = s.regions := rfl
@[simp] theorem mergeFlagsIn_cache (gid lanes flags : Nat) : (mergeFlagsIn s gid lanes flags).cache = s.cache := rfl
@[simp] theorem mergeFlagsIn_ro (gid lanes flags : Nat) : (mergeFlagsIn s gid lanes flags).ro = s.ro := rfl
@[simp] theorem mergeFlagsIn_roDrops (gid lanes flags : Nat) : (mergeFlagsIn s gid lanes flags).roDrops = s.roDrops := rfl
@[simp] theorem mergeFlagsIn_nodes (gid lanes flags : Nat) : (mergeFlagsIn s gid lanes flags).nodes = s.nodes := rfl
@[simp] theorem mergeFlagsIn_tlb (gid lanes flags : Nat) : (mergeFlagsIn s gid lanes flags).tlb = s.tlb := rfl
@[simp] theorem mergeFlagsIn_ats (gid lanes flags : Nat) : (mergeFlagsIn s gid lanes flags).ats = s.ats := rfl
@[simp] theorem mergeFlagsIn_hostSent (gid lanes flags : Nat) : (mergeFlagsIn s gid lanes flags).hostSent = s.hostSent := rfl
@[simp] theorem mergeFlagsIn_invals (gid lanes flags : Nat) : (mergeFlagsIn s gid lanes flags).invals = s.invals := rfl
@[simp] theorem mergeFlagsIn_invalDone (gid lanes flags : Nat) : (mergeFlagsIn s gid lanes flags).invalDone = s.invalDone := rfl
@[simp] theorem mergeFlagsIn_icache (gid lanes flags : Nat) : (mergeFlagsIn s gid lanes flags).icache = s.icache := rfl
@[simp] theorem mergeFlagsIn_beacons (gid lanes flags : Nat) : (mergeFlagsIn s gid lanes flags).beacons = s.beacons := rfl
@[simp] theorem mergeFlagsIn_cmds (gid lanes flags : Nat) : (mergeFlagsIn s gid lanes flags).cmds = s.cmds := rfl
@[simp] theorem mergeFlagsIn_targets (gid lanes flags : Nat) : (mergeFlagsIn s gid lanes flags).targets = s.targets := rfl
@[simp] theorem mergeFlagsIn_frames (gid lanes flags : Nat) : (mergeFlagsIn s gid lanes flags).frames = s.frames := rfl
@[simp] theorem mergeFlagsIn_passes (gid lanes flags : Nat) : (mergeFlagsIn s gid lanes flags).passes = s.passes := rfl
@[simp] theorem mergeFlagsIn_peers (gid lanes flags : Nat) : (mergeFlagsIn s gid lanes flags).peers = s.peers := rfl
@[simp] theorem mergeFlagsIn_far (gid lanes flags : Nat) : (mergeFlagsIn s gid lanes flags).far = s.far := rfl
@[simp] theorem mergeFlagsIn_pubs (gid lanes flags : Nat) : (mergeFlagsIn s gid lanes flags).pubs = s.pubs := rfl
@[simp] theorem mergeFlagsIn_clock (gid lanes flags : Nat) : (mergeFlagsIn s gid lanes flags).clock = s.clock := rfl
@[simp] theorem mergeFlagsIn_turnSched (gid lanes flags : Nat) : (mergeFlagsIn s gid lanes flags).turnSched = s.turnSched := rfl
@[simp] theorem mergeFlagsIn_fresh (gid lanes flags : Nat) : (mergeFlagsIn s gid lanes flags).fresh = s.fresh := rfl
@[simp] theorem mergeFlagsIn_free (gid lanes flags : Nat) : (mergeFlagsIn s gid lanes flags).free = s.free := rfl
@[simp] theorem mergeFlagsIn_stamp (gid lanes flags : Nat) : (mergeFlagsIn s gid lanes flags).stamp = s.stamp := rfl
@[simp] theorem mergeFlagsIn_agenda (gid lanes flags : Nat) : (mergeFlagsIn s gid lanes flags).agenda = s.agenda := rfl
@[simp] theorem mergeFlagsIn_subject (gid lanes flags : Nat) : (mergeFlagsIn s gid lanes flags).subject = s.subject := rfl
@[simp] theorem mergeFlagsIn_issuing (gid lanes flags : Nat) : (mergeFlagsIn s gid lanes flags).issuing = s.issuing := rfl

@[simp] theorem mergeFlags_pkg (q : Path) (flags : Nat) : (mergeFlags s q flags).pkg = s.pkg := rfl
@[simp] theorem mergeFlags_mbx (q : Path) (flags : Nat) : (mergeFlags s q flags).mbx = s.mbx := rfl
@[simp] theorem mergeFlags_mbxRun (q : Path) (flags : Nat) : (mergeFlags s q flags).mbxRun = s.mbxRun := rfl
@[simp] theorem mergeFlags_parts (q : Path) (flags : Nat) : (mergeFlags s q flags).parts = s.parts := rfl
@[simp] theorem mergeFlags_droops (q : Path) (flags : Nat) : (mergeFlags s q flags).droops = s.droops := rfl
@[simp] theorem mergeFlags_wsphase (q : Path) (flags : Nat) : (mergeFlags s q flags).wsphase = s.wsphase := rfl
@[simp] theorem mergeFlags_scrub (q : Path) (flags : Nat) : (mergeFlags s q flags).scrub = s.scrub := rfl
@[simp] theorem mergeFlags_ctxs (q : Path) (flags : Nat) : (mergeFlags s q flags).ctxs = s.ctxs := rfl
@[simp] theorem mergeFlags_ctxRegs (q : Path) (flags : Nat) : (mergeFlags s q flags).ctxRegs = s.ctxRegs := rfl
@[simp] theorem mergeFlags_services (q : Path) (flags : Nat) : (mergeFlags s q flags).services = s.services := rfl
@[simp] theorem mergeFlags_keys (q : Path) (flags : Nat) : (mergeFlags s q flags).keys = s.keys := rfl
@[simp] theorem mergeFlags_vectors (q : Path) (flags : Nat) : (mergeFlags s q flags).vectors = s.vectors := rfl
@[simp] theorem mergeFlags_msix (q : Path) (flags : Nat) : (mergeFlags s q flags).msix = s.msix := rfl
@[simp] theorem mergeFlags_queueRegs (q : Path) (flags : Nat) : (mergeFlags s q flags).queueRegs = s.queueRegs := rfl
@[simp] theorem mergeFlags_queues (q : Path) (flags : Nat) : (mergeFlags s q flags).queues = s.queues := rfl
@[simp] theorem mergeFlags_records (q : Path) (flags : Nat) : (mergeFlags s q flags).records = s.records := rfl
@[simp] theorem mergeFlags_launches (q : Path) (flags : Nat) : (mergeFlags s q flags).launches = s.launches := rfl
@[simp] theorem mergeFlags_wgs (q : Path) (flags : Nat) : (mergeFlags s q flags).wgs = s.wgs := rfl
@[simp] theorem mergeFlags_gangs (q : Path) (flags : Nat) : (mergeFlags s q flags).gangs = s.gangs := rfl
@[simp] theorem mergeFlags_paths (q : Path) (flags : Nat) : (mergeFlags s q flags).paths = s.paths := rfl
@[simp] theorem mergeFlags_v (q : Path) (flags : Nat) : (mergeFlags s q flags).v = s.v := rfl
@[simp] theorem mergeFlags_g (q : Path) (flags : Nat) : (mergeFlags s q flags).g = s.g := rfl
@[simp] theorem mergeFlags_p (q : Path) (flags : Nat) : (mergeFlags s q flags).p = s.p := rfl
@[simp] theorem mergeFlags_acc (q : Path) (flags : Nat) : (mergeFlags s q flags).acc = s.acc := rfl
@[simp] theorem mergeFlags_tiles (q : Path) (flags : Nat) : (mergeFlags s q flags).tiles = s.tiles := rfl
@[simp] theorem mergeFlags_scratch (q : Path) (flags : Nat) : (mergeFlags s q flags).scratch = s.scratch := rfl
@[simp] theorem mergeFlags_oldScratch (q : Path) (flags : Nat) : (mergeFlags s q flags).oldScratch = s.oldScratch := rfl
@[simp] theorem mergeFlags_mem (q : Path) (flags : Nat) : (mergeFlags s q flags).mem = s.mem := rfl
@[simp] theorem mergeFlags_poison (q : Path) (flags : Nat) : (mergeFlags s q flags).poison = s.poison := rfl
@[simp] theorem mergeFlags_ops (q : Path) (flags : Nat) : (mergeFlags s q flags).ops = s.ops := rfl
@[simp] theorem mergeFlags_l1 (q : Path) (flags : Nat) : (mergeFlags s q flags).l1 = s.l1 := rfl
@[simp] theorem mergeFlags_lines (q : Path) (flags : Nat) : (mergeFlags s q flags).lines = s.lines := rfl
@[simp] theorem mergeFlags_snoop (q : Path) (flags : Nat) : (mergeFlags s q flags).snoop = s.snoop := rfl
@[simp] theorem mergeFlags_regions (q : Path) (flags : Nat) : (mergeFlags s q flags).regions = s.regions := rfl
@[simp] theorem mergeFlags_cache (q : Path) (flags : Nat) : (mergeFlags s q flags).cache = s.cache := rfl
@[simp] theorem mergeFlags_ro (q : Path) (flags : Nat) : (mergeFlags s q flags).ro = s.ro := rfl
@[simp] theorem mergeFlags_roDrops (q : Path) (flags : Nat) : (mergeFlags s q flags).roDrops = s.roDrops := rfl
@[simp] theorem mergeFlags_nodes (q : Path) (flags : Nat) : (mergeFlags s q flags).nodes = s.nodes := rfl
@[simp] theorem mergeFlags_tlb (q : Path) (flags : Nat) : (mergeFlags s q flags).tlb = s.tlb := rfl
@[simp] theorem mergeFlags_ats (q : Path) (flags : Nat) : (mergeFlags s q flags).ats = s.ats := rfl
@[simp] theorem mergeFlags_hostSent (q : Path) (flags : Nat) : (mergeFlags s q flags).hostSent = s.hostSent := rfl
@[simp] theorem mergeFlags_invals (q : Path) (flags : Nat) : (mergeFlags s q flags).invals = s.invals := rfl
@[simp] theorem mergeFlags_invalDone (q : Path) (flags : Nat) : (mergeFlags s q flags).invalDone = s.invalDone := rfl
@[simp] theorem mergeFlags_icache (q : Path) (flags : Nat) : (mergeFlags s q flags).icache = s.icache := rfl
@[simp] theorem mergeFlags_beacons (q : Path) (flags : Nat) : (mergeFlags s q flags).beacons = s.beacons := rfl
@[simp] theorem mergeFlags_cmds (q : Path) (flags : Nat) : (mergeFlags s q flags).cmds = s.cmds := rfl
@[simp] theorem mergeFlags_targets (q : Path) (flags : Nat) : (mergeFlags s q flags).targets = s.targets := rfl
@[simp] theorem mergeFlags_frames (q : Path) (flags : Nat) : (mergeFlags s q flags).frames = s.frames := rfl
@[simp] theorem mergeFlags_passes (q : Path) (flags : Nat) : (mergeFlags s q flags).passes = s.passes := rfl
@[simp] theorem mergeFlags_peers (q : Path) (flags : Nat) : (mergeFlags s q flags).peers = s.peers := rfl
@[simp] theorem mergeFlags_far (q : Path) (flags : Nat) : (mergeFlags s q flags).far = s.far := rfl
@[simp] theorem mergeFlags_pubs (q : Path) (flags : Nat) : (mergeFlags s q flags).pubs = s.pubs := rfl
@[simp] theorem mergeFlags_clock (q : Path) (flags : Nat) : (mergeFlags s q flags).clock = s.clock := rfl
@[simp] theorem mergeFlags_turnSched (q : Path) (flags : Nat) : (mergeFlags s q flags).turnSched = s.turnSched := rfl
@[simp] theorem mergeFlags_fresh (q : Path) (flags : Nat) : (mergeFlags s q flags).fresh = s.fresh := rfl
@[simp] theorem mergeFlags_free (q : Path) (flags : Nat) : (mergeFlags s q flags).free = s.free := rfl
@[simp] theorem mergeFlags_stamp (q : Path) (flags : Nat) : (mergeFlags s q flags).stamp = s.stamp := rfl
@[simp] theorem mergeFlags_agenda (q : Path) (flags : Nat) : (mergeFlags s q flags).agenda = s.agenda := rfl
@[simp] theorem mergeFlags_subject (q : Path) (flags : Nat) : (mergeFlags s q flags).subject = s.subject := rfl
@[simp] theorem mergeFlags_issuing (q : Path) (flags : Nat) : (mergeFlags s q flags).issuing = s.issuing := rfl

@[simp] theorem setPath_pkg (p : Nat) (q : Path) : (setPath s p q).pkg = s.pkg := rfl
@[simp] theorem setPath_mbx (p : Nat) (q : Path) : (setPath s p q).mbx = s.mbx := rfl
@[simp] theorem setPath_mbxRun (p : Nat) (q : Path) : (setPath s p q).mbxRun = s.mbxRun := rfl
@[simp] theorem setPath_parts (p : Nat) (q : Path) : (setPath s p q).parts = s.parts := rfl
@[simp] theorem setPath_droops (p : Nat) (q : Path) : (setPath s p q).droops = s.droops := rfl
@[simp] theorem setPath_wsphase (p : Nat) (q : Path) : (setPath s p q).wsphase = s.wsphase := rfl
@[simp] theorem setPath_scrub (p : Nat) (q : Path) : (setPath s p q).scrub = s.scrub := rfl
@[simp] theorem setPath_ctxs (p : Nat) (q : Path) : (setPath s p q).ctxs = s.ctxs := rfl
@[simp] theorem setPath_ctxRegs (p : Nat) (q : Path) : (setPath s p q).ctxRegs = s.ctxRegs := rfl
@[simp] theorem setPath_services (p : Nat) (q : Path) : (setPath s p q).services = s.services := rfl
@[simp] theorem setPath_keys (p : Nat) (q : Path) : (setPath s p q).keys = s.keys := rfl
@[simp] theorem setPath_vectors (p : Nat) (q : Path) : (setPath s p q).vectors = s.vectors := rfl
@[simp] theorem setPath_msix (p : Nat) (q : Path) : (setPath s p q).msix = s.msix := rfl
@[simp] theorem setPath_queueRegs (p : Nat) (q : Path) : (setPath s p q).queueRegs = s.queueRegs := rfl
@[simp] theorem setPath_queues (p : Nat) (q : Path) : (setPath s p q).queues = s.queues := rfl
@[simp] theorem setPath_records (p : Nat) (q : Path) : (setPath s p q).records = s.records := rfl
@[simp] theorem setPath_launches (p : Nat) (q : Path) : (setPath s p q).launches = s.launches := rfl
@[simp] theorem setPath_wgs (p : Nat) (q : Path) : (setPath s p q).wgs = s.wgs := rfl
@[simp] theorem setPath_gangs (p : Nat) (q : Path) : (setPath s p q).gangs = s.gangs := rfl
@[simp] theorem setPath_paths (p : Nat) (q : Path) : (setPath s p q).paths = aSet p q s.paths := rfl
@[simp] theorem setPath_v (p : Nat) (q : Path) : (setPath s p q).v = s.v := rfl
@[simp] theorem setPath_g (p : Nat) (q : Path) : (setPath s p q).g = s.g := rfl
@[simp] theorem setPath_p (p : Nat) (q : Path) : (setPath s p q).p = s.p := rfl
@[simp] theorem setPath_csr (p : Nat) (q : Path) : (setPath s p q).csr = s.csr := rfl
@[simp] theorem setPath_acc (p : Nat) (q : Path) : (setPath s p q).acc = s.acc := rfl
@[simp] theorem setPath_tiles (p : Nat) (q : Path) : (setPath s p q).tiles = s.tiles := rfl
@[simp] theorem setPath_scratch (p : Nat) (q : Path) : (setPath s p q).scratch = s.scratch := rfl
@[simp] theorem setPath_oldScratch (p : Nat) (q : Path) : (setPath s p q).oldScratch = s.oldScratch := rfl
@[simp] theorem setPath_mem (p : Nat) (q : Path) : (setPath s p q).mem = s.mem := rfl
@[simp] theorem setPath_poison (p : Nat) (q : Path) : (setPath s p q).poison = s.poison := rfl
@[simp] theorem setPath_ops (p : Nat) (q : Path) : (setPath s p q).ops = s.ops := rfl
@[simp] theorem setPath_l1 (p : Nat) (q : Path) : (setPath s p q).l1 = s.l1 := rfl
@[simp] theorem setPath_lines (p : Nat) (q : Path) : (setPath s p q).lines = s.lines := rfl
@[simp] theorem setPath_snoop (p : Nat) (q : Path) : (setPath s p q).snoop = s.snoop := rfl
@[simp] theorem setPath_regions (p : Nat) (q : Path) : (setPath s p q).regions = s.regions := rfl
@[simp] theorem setPath_cache (p : Nat) (q : Path) : (setPath s p q).cache = s.cache := rfl
@[simp] theorem setPath_ro (p : Nat) (q : Path) : (setPath s p q).ro = s.ro := rfl
@[simp] theorem setPath_roDrops (p : Nat) (q : Path) : (setPath s p q).roDrops = s.roDrops := rfl
@[simp] theorem setPath_nodes (p : Nat) (q : Path) : (setPath s p q).nodes = s.nodes := rfl
@[simp] theorem setPath_tlb (p : Nat) (q : Path) : (setPath s p q).tlb = s.tlb := rfl
@[simp] theorem setPath_ats (p : Nat) (q : Path) : (setPath s p q).ats = s.ats := rfl
@[simp] theorem setPath_hostSent (p : Nat) (q : Path) : (setPath s p q).hostSent = s.hostSent := rfl
@[simp] theorem setPath_invals (p : Nat) (q : Path) : (setPath s p q).invals = s.invals := rfl
@[simp] theorem setPath_invalDone (p : Nat) (q : Path) : (setPath s p q).invalDone = s.invalDone := rfl
@[simp] theorem setPath_icache (p : Nat) (q : Path) : (setPath s p q).icache = s.icache := rfl
@[simp] theorem setPath_beacons (p : Nat) (q : Path) : (setPath s p q).beacons = s.beacons := rfl
@[simp] theorem setPath_cmds (p : Nat) (q : Path) : (setPath s p q).cmds = s.cmds := rfl
@[simp] theorem setPath_targets (p : Nat) (q : Path) : (setPath s p q).targets = s.targets := rfl
@[simp] theorem setPath_frames (p : Nat) (q : Path) : (setPath s p q).frames = s.frames := rfl
@[simp] theorem setPath_passes (p : Nat) (q : Path) : (setPath s p q).passes = s.passes := rfl
@[simp] theorem setPath_peers (p : Nat) (q : Path) : (setPath s p q).peers = s.peers := rfl
@[simp] theorem setPath_far (p : Nat) (q : Path) : (setPath s p q).far = s.far := rfl
@[simp] theorem setPath_pubs (p : Nat) (q : Path) : (setPath s p q).pubs = s.pubs := rfl
@[simp] theorem setPath_clock (p : Nat) (q : Path) : (setPath s p q).clock = s.clock := rfl
@[simp] theorem setPath_turnSched (p : Nat) (q : Path) : (setPath s p q).turnSched = s.turnSched := rfl
@[simp] theorem setPath_fresh (p : Nat) (q : Path) : (setPath s p q).fresh = s.fresh := rfl
@[simp] theorem setPath_free (p : Nat) (q : Path) : (setPath s p q).free = s.free := rfl
@[simp] theorem setPath_stamp (p : Nat) (q : Path) : (setPath s p q).stamp = s.stamp := rfl
@[simp] theorem setPath_agenda (p : Nat) (q : Path) : (setPath s p q).agenda = s.agenda := rfl
@[simp] theorem setPath_subject (p : Nat) (q : Path) : (setPath s p q).subject = s.subject := rfl
@[simp] theorem setPath_issuing (p : Nat) (q : Path) : (setPath s p q).issuing = s.issuing := rfl

@[simp] theorem advance_pkg (p : Nat) (q : Path) (k : Nat) : (advance s p q k).pkg = s.pkg := rfl
@[simp] theorem advance_mbx (p : Nat) (q : Path) (k : Nat) : (advance s p q k).mbx = s.mbx := rfl
@[simp] theorem advance_mbxRun (p : Nat) (q : Path) (k : Nat) : (advance s p q k).mbxRun = s.mbxRun := rfl
@[simp] theorem advance_parts (p : Nat) (q : Path) (k : Nat) : (advance s p q k).parts = s.parts := rfl
@[simp] theorem advance_droops (p : Nat) (q : Path) (k : Nat) : (advance s p q k).droops = s.droops := rfl
@[simp] theorem advance_wsphase (p : Nat) (q : Path) (k : Nat) : (advance s p q k).wsphase = s.wsphase := rfl
@[simp] theorem advance_scrub (p : Nat) (q : Path) (k : Nat) : (advance s p q k).scrub = s.scrub := rfl
@[simp] theorem advance_ctxs (p : Nat) (q : Path) (k : Nat) : (advance s p q k).ctxs = s.ctxs := rfl
@[simp] theorem advance_ctxRegs (p : Nat) (q : Path) (k : Nat) : (advance s p q k).ctxRegs = s.ctxRegs := rfl
@[simp] theorem advance_services (p : Nat) (q : Path) (k : Nat) : (advance s p q k).services = s.services := rfl
@[simp] theorem advance_keys (p : Nat) (q : Path) (k : Nat) : (advance s p q k).keys = s.keys := rfl
@[simp] theorem advance_vectors (p : Nat) (q : Path) (k : Nat) : (advance s p q k).vectors = s.vectors := rfl
@[simp] theorem advance_msix (p : Nat) (q : Path) (k : Nat) : (advance s p q k).msix = s.msix := rfl
@[simp] theorem advance_queueRegs (p : Nat) (q : Path) (k : Nat) : (advance s p q k).queueRegs = s.queueRegs := rfl
@[simp] theorem advance_queues (p : Nat) (q : Path) (k : Nat) : (advance s p q k).queues = s.queues := rfl
@[simp] theorem advance_records (p : Nat) (q : Path) (k : Nat) : (advance s p q k).records = s.records := rfl
@[simp] theorem advance_launches (p : Nat) (q : Path) (k : Nat) : (advance s p q k).launches = s.launches := rfl
@[simp] theorem advance_wgs (p : Nat) (q : Path) (k : Nat) : (advance s p q k).wgs = s.wgs := rfl
@[simp] theorem advance_gangs (p : Nat) (q : Path) (k : Nat) : (advance s p q k).gangs = s.gangs := rfl
@[simp] theorem advance_v (p : Nat) (q : Path) (k : Nat) : (advance s p q k).v = s.v := rfl
@[simp] theorem advance_g (p : Nat) (q : Path) (k : Nat) : (advance s p q k).g = s.g := rfl
@[simp] theorem advance_p (p : Nat) (q : Path) (k : Nat) : (advance s p q k).p = s.p := rfl
@[simp] theorem advance_csr (p : Nat) (q : Path) (k : Nat) : (advance s p q k).csr = s.csr := rfl
@[simp] theorem advance_acc (p : Nat) (q : Path) (k : Nat) : (advance s p q k).acc = s.acc := rfl
@[simp] theorem advance_tiles (p : Nat) (q : Path) (k : Nat) : (advance s p q k).tiles = s.tiles := rfl
@[simp] theorem advance_scratch (p : Nat) (q : Path) (k : Nat) : (advance s p q k).scratch = s.scratch := rfl
@[simp] theorem advance_oldScratch (p : Nat) (q : Path) (k : Nat) : (advance s p q k).oldScratch = s.oldScratch := rfl
@[simp] theorem advance_mem (p : Nat) (q : Path) (k : Nat) : (advance s p q k).mem = s.mem := rfl
@[simp] theorem advance_poison (p : Nat) (q : Path) (k : Nat) : (advance s p q k).poison = s.poison := rfl
@[simp] theorem advance_ops (p : Nat) (q : Path) (k : Nat) : (advance s p q k).ops = s.ops := rfl
@[simp] theorem advance_l1 (p : Nat) (q : Path) (k : Nat) : (advance s p q k).l1 = s.l1 := rfl
@[simp] theorem advance_lines (p : Nat) (q : Path) (k : Nat) : (advance s p q k).lines = s.lines := rfl
@[simp] theorem advance_snoop (p : Nat) (q : Path) (k : Nat) : (advance s p q k).snoop = s.snoop := rfl
@[simp] theorem advance_regions (p : Nat) (q : Path) (k : Nat) : (advance s p q k).regions = s.regions := rfl
@[simp] theorem advance_cache (p : Nat) (q : Path) (k : Nat) : (advance s p q k).cache = s.cache := rfl
@[simp] theorem advance_ro (p : Nat) (q : Path) (k : Nat) : (advance s p q k).ro = s.ro := rfl
@[simp] theorem advance_roDrops (p : Nat) (q : Path) (k : Nat) : (advance s p q k).roDrops = s.roDrops := rfl
@[simp] theorem advance_nodes (p : Nat) (q : Path) (k : Nat) : (advance s p q k).nodes = s.nodes := rfl
@[simp] theorem advance_tlb (p : Nat) (q : Path) (k : Nat) : (advance s p q k).tlb = s.tlb := rfl
@[simp] theorem advance_ats (p : Nat) (q : Path) (k : Nat) : (advance s p q k).ats = s.ats := rfl
@[simp] theorem advance_hostSent (p : Nat) (q : Path) (k : Nat) : (advance s p q k).hostSent = s.hostSent := rfl
@[simp] theorem advance_invals (p : Nat) (q : Path) (k : Nat) : (advance s p q k).invals = s.invals := rfl
@[simp] theorem advance_invalDone (p : Nat) (q : Path) (k : Nat) : (advance s p q k).invalDone = s.invalDone := rfl
@[simp] theorem advance_icache (p : Nat) (q : Path) (k : Nat) : (advance s p q k).icache = s.icache := rfl
@[simp] theorem advance_beacons (p : Nat) (q : Path) (k : Nat) : (advance s p q k).beacons = s.beacons := rfl
@[simp] theorem advance_cmds (p : Nat) (q : Path) (k : Nat) : (advance s p q k).cmds = s.cmds := rfl
@[simp] theorem advance_targets (p : Nat) (q : Path) (k : Nat) : (advance s p q k).targets = s.targets := rfl
@[simp] theorem advance_frames (p : Nat) (q : Path) (k : Nat) : (advance s p q k).frames = s.frames := rfl
@[simp] theorem advance_passes (p : Nat) (q : Path) (k : Nat) : (advance s p q k).passes = s.passes := rfl
@[simp] theorem advance_peers (p : Nat) (q : Path) (k : Nat) : (advance s p q k).peers = s.peers := rfl
@[simp] theorem advance_far (p : Nat) (q : Path) (k : Nat) : (advance s p q k).far = s.far := rfl
@[simp] theorem advance_pubs (p : Nat) (q : Path) (k : Nat) : (advance s p q k).pubs = s.pubs := rfl
@[simp] theorem advance_clock (p : Nat) (q : Path) (k : Nat) : (advance s p q k).clock = s.clock := rfl
@[simp] theorem advance_turnSched (p : Nat) (q : Path) (k : Nat) : (advance s p q k).turnSched = s.turnSched := rfl
@[simp] theorem advance_fresh (p : Nat) (q : Path) (k : Nat) : (advance s p q k).fresh = s.fresh := rfl
@[simp] theorem advance_free (p : Nat) (q : Path) (k : Nat) : (advance s p q k).free = s.free := rfl
@[simp] theorem advance_stamp (p : Nat) (q : Path) (k : Nat) : (advance s p q k).stamp = s.stamp := rfl
@[simp] theorem advance_agenda (p : Nat) (q : Path) (k : Nat) : (advance s p q k).agenda = s.agenda := rfl
@[simp] theorem advance_subject (p : Nat) (q : Path) (k : Nat) : (advance s p q k).subject = s.subject := rfl
@[simp] theorem advance_issuing (p : Nat) (q : Path) (k : Nat) : (advance s p q k).issuing = s.issuing := rfl

@[simp] theorem jump_pkg (p : Nat) (q : Path) (a : Nat) : (jump s p q a).pkg = s.pkg := rfl
@[simp] theorem jump_mbx (p : Nat) (q : Path) (a : Nat) : (jump s p q a).mbx = s.mbx := rfl
@[simp] theorem jump_mbxRun (p : Nat) (q : Path) (a : Nat) : (jump s p q a).mbxRun = s.mbxRun := rfl
@[simp] theorem jump_parts (p : Nat) (q : Path) (a : Nat) : (jump s p q a).parts = s.parts := rfl
@[simp] theorem jump_droops (p : Nat) (q : Path) (a : Nat) : (jump s p q a).droops = s.droops := rfl
@[simp] theorem jump_wsphase (p : Nat) (q : Path) (a : Nat) : (jump s p q a).wsphase = s.wsphase := rfl
@[simp] theorem jump_scrub (p : Nat) (q : Path) (a : Nat) : (jump s p q a).scrub = s.scrub := rfl
@[simp] theorem jump_ctxs (p : Nat) (q : Path) (a : Nat) : (jump s p q a).ctxs = s.ctxs := rfl
@[simp] theorem jump_ctxRegs (p : Nat) (q : Path) (a : Nat) : (jump s p q a).ctxRegs = s.ctxRegs := rfl
@[simp] theorem jump_services (p : Nat) (q : Path) (a : Nat) : (jump s p q a).services = s.services := rfl
@[simp] theorem jump_keys (p : Nat) (q : Path) (a : Nat) : (jump s p q a).keys = s.keys := rfl
@[simp] theorem jump_vectors (p : Nat) (q : Path) (a : Nat) : (jump s p q a).vectors = s.vectors := rfl
@[simp] theorem jump_msix (p : Nat) (q : Path) (a : Nat) : (jump s p q a).msix = s.msix := rfl
@[simp] theorem jump_queueRegs (p : Nat) (q : Path) (a : Nat) : (jump s p q a).queueRegs = s.queueRegs := rfl
@[simp] theorem jump_queues (p : Nat) (q : Path) (a : Nat) : (jump s p q a).queues = s.queues := rfl
@[simp] theorem jump_records (p : Nat) (q : Path) (a : Nat) : (jump s p q a).records = s.records := rfl
@[simp] theorem jump_launches (p : Nat) (q : Path) (a : Nat) : (jump s p q a).launches = s.launches := rfl
@[simp] theorem jump_wgs (p : Nat) (q : Path) (a : Nat) : (jump s p q a).wgs = s.wgs := rfl
@[simp] theorem jump_gangs (p : Nat) (q : Path) (a : Nat) : (jump s p q a).gangs = s.gangs := rfl
@[simp] theorem jump_v (p : Nat) (q : Path) (a : Nat) : (jump s p q a).v = s.v := rfl
@[simp] theorem jump_g (p : Nat) (q : Path) (a : Nat) : (jump s p q a).g = s.g := rfl
@[simp] theorem jump_p (p : Nat) (q : Path) (a : Nat) : (jump s p q a).p = s.p := rfl
@[simp] theorem jump_csr (p : Nat) (q : Path) (a : Nat) : (jump s p q a).csr = s.csr := rfl
@[simp] theorem jump_acc (p : Nat) (q : Path) (a : Nat) : (jump s p q a).acc = s.acc := rfl
@[simp] theorem jump_tiles (p : Nat) (q : Path) (a : Nat) : (jump s p q a).tiles = s.tiles := rfl
@[simp] theorem jump_scratch (p : Nat) (q : Path) (a : Nat) : (jump s p q a).scratch = s.scratch := rfl
@[simp] theorem jump_oldScratch (p : Nat) (q : Path) (a : Nat) : (jump s p q a).oldScratch = s.oldScratch := rfl
@[simp] theorem jump_mem (p : Nat) (q : Path) (a : Nat) : (jump s p q a).mem = s.mem := rfl
@[simp] theorem jump_poison (p : Nat) (q : Path) (a : Nat) : (jump s p q a).poison = s.poison := rfl
@[simp] theorem jump_ops (p : Nat) (q : Path) (a : Nat) : (jump s p q a).ops = s.ops := rfl
@[simp] theorem jump_l1 (p : Nat) (q : Path) (a : Nat) : (jump s p q a).l1 = s.l1 := rfl
@[simp] theorem jump_lines (p : Nat) (q : Path) (a : Nat) : (jump s p q a).lines = s.lines := rfl
@[simp] theorem jump_snoop (p : Nat) (q : Path) (a : Nat) : (jump s p q a).snoop = s.snoop := rfl
@[simp] theorem jump_regions (p : Nat) (q : Path) (a : Nat) : (jump s p q a).regions = s.regions := rfl
@[simp] theorem jump_cache (p : Nat) (q : Path) (a : Nat) : (jump s p q a).cache = s.cache := rfl
@[simp] theorem jump_ro (p : Nat) (q : Path) (a : Nat) : (jump s p q a).ro = s.ro := rfl
@[simp] theorem jump_roDrops (p : Nat) (q : Path) (a : Nat) : (jump s p q a).roDrops = s.roDrops := rfl
@[simp] theorem jump_nodes (p : Nat) (q : Path) (a : Nat) : (jump s p q a).nodes = s.nodes := rfl
@[simp] theorem jump_tlb (p : Nat) (q : Path) (a : Nat) : (jump s p q a).tlb = s.tlb := rfl
@[simp] theorem jump_ats (p : Nat) (q : Path) (a : Nat) : (jump s p q a).ats = s.ats := rfl
@[simp] theorem jump_hostSent (p : Nat) (q : Path) (a : Nat) : (jump s p q a).hostSent = s.hostSent := rfl
@[simp] theorem jump_invals (p : Nat) (q : Path) (a : Nat) : (jump s p q a).invals = s.invals := rfl
@[simp] theorem jump_invalDone (p : Nat) (q : Path) (a : Nat) : (jump s p q a).invalDone = s.invalDone := rfl
@[simp] theorem jump_icache (p : Nat) (q : Path) (a : Nat) : (jump s p q a).icache = s.icache := rfl
@[simp] theorem jump_beacons (p : Nat) (q : Path) (a : Nat) : (jump s p q a).beacons = s.beacons := rfl
@[simp] theorem jump_cmds (p : Nat) (q : Path) (a : Nat) : (jump s p q a).cmds = s.cmds := rfl
@[simp] theorem jump_targets (p : Nat) (q : Path) (a : Nat) : (jump s p q a).targets = s.targets := rfl
@[simp] theorem jump_frames (p : Nat) (q : Path) (a : Nat) : (jump s p q a).frames = s.frames := rfl
@[simp] theorem jump_passes (p : Nat) (q : Path) (a : Nat) : (jump s p q a).passes = s.passes := rfl
@[simp] theorem jump_peers (p : Nat) (q : Path) (a : Nat) : (jump s p q a).peers = s.peers := rfl
@[simp] theorem jump_far (p : Nat) (q : Path) (a : Nat) : (jump s p q a).far = s.far := rfl
@[simp] theorem jump_pubs (p : Nat) (q : Path) (a : Nat) : (jump s p q a).pubs = s.pubs := rfl
@[simp] theorem jump_clock (p : Nat) (q : Path) (a : Nat) : (jump s p q a).clock = s.clock := rfl
@[simp] theorem jump_turnSched (p : Nat) (q : Path) (a : Nat) : (jump s p q a).turnSched = s.turnSched := rfl
@[simp] theorem jump_fresh (p : Nat) (q : Path) (a : Nat) : (jump s p q a).fresh = s.fresh := rfl
@[simp] theorem jump_free (p : Nat) (q : Path) (a : Nat) : (jump s p q a).free = s.free := rfl
@[simp] theorem jump_stamp (p : Nat) (q : Path) (a : Nat) : (jump s p q a).stamp = s.stamp := rfl
@[simp] theorem jump_agenda (p : Nat) (q : Path) (a : Nat) : (jump s p q a).agenda = s.agenda := rfl
@[simp] theorem jump_subject (p : Nat) (q : Path) (a : Nat) : (jump s p q a).subject = s.subject := rfl
@[simp] theorem jump_issuing (p : Nat) (q : Path) (a : Nat) : (jump s p q a).issuing = s.issuing := rfl

@[simp] theorem waitAt_pkg (p : Nat) (q : Path) (i : Instr) (w : Wait) : (waitAt s p q i w).pkg = s.pkg := rfl
@[simp] theorem waitAt_mbx (p : Nat) (q : Path) (i : Instr) (w : Wait) : (waitAt s p q i w).mbx = s.mbx := rfl
@[simp] theorem waitAt_mbxRun (p : Nat) (q : Path) (i : Instr) (w : Wait) : (waitAt s p q i w).mbxRun = s.mbxRun := rfl
@[simp] theorem waitAt_parts (p : Nat) (q : Path) (i : Instr) (w : Wait) : (waitAt s p q i w).parts = s.parts := rfl
@[simp] theorem waitAt_droops (p : Nat) (q : Path) (i : Instr) (w : Wait) : (waitAt s p q i w).droops = s.droops := rfl
@[simp] theorem waitAt_wsphase (p : Nat) (q : Path) (i : Instr) (w : Wait) : (waitAt s p q i w).wsphase = s.wsphase := rfl
@[simp] theorem waitAt_scrub (p : Nat) (q : Path) (i : Instr) (w : Wait) : (waitAt s p q i w).scrub = s.scrub := rfl
@[simp] theorem waitAt_ctxs (p : Nat) (q : Path) (i : Instr) (w : Wait) : (waitAt s p q i w).ctxs = s.ctxs := rfl
@[simp] theorem waitAt_ctxRegs (p : Nat) (q : Path) (i : Instr) (w : Wait) : (waitAt s p q i w).ctxRegs = s.ctxRegs := rfl
@[simp] theorem waitAt_services (p : Nat) (q : Path) (i : Instr) (w : Wait) : (waitAt s p q i w).services = s.services := rfl
@[simp] theorem waitAt_keys (p : Nat) (q : Path) (i : Instr) (w : Wait) : (waitAt s p q i w).keys = s.keys := rfl
@[simp] theorem waitAt_vectors (p : Nat) (q : Path) (i : Instr) (w : Wait) : (waitAt s p q i w).vectors = s.vectors := rfl
@[simp] theorem waitAt_msix (p : Nat) (q : Path) (i : Instr) (w : Wait) : (waitAt s p q i w).msix = s.msix := rfl
@[simp] theorem waitAt_queueRegs (p : Nat) (q : Path) (i : Instr) (w : Wait) : (waitAt s p q i w).queueRegs = s.queueRegs := rfl
@[simp] theorem waitAt_queues (p : Nat) (q : Path) (i : Instr) (w : Wait) : (waitAt s p q i w).queues = s.queues := rfl
@[simp] theorem waitAt_records (p : Nat) (q : Path) (i : Instr) (w : Wait) : (waitAt s p q i w).records = s.records := rfl
@[simp] theorem waitAt_launches (p : Nat) (q : Path) (i : Instr) (w : Wait) : (waitAt s p q i w).launches = s.launches := rfl
@[simp] theorem waitAt_wgs (p : Nat) (q : Path) (i : Instr) (w : Wait) : (waitAt s p q i w).wgs = s.wgs := rfl
@[simp] theorem waitAt_gangs (p : Nat) (q : Path) (i : Instr) (w : Wait) : (waitAt s p q i w).gangs = s.gangs := rfl
@[simp] theorem waitAt_paths (p : Nat) (q : Path) (i : Instr) (w : Wait) : (waitAt s p q i w).paths = aSet p { q with wait := w, cur := some i, base := baseOf s q } s.paths := rfl
@[simp] theorem waitAt_v (p : Nat) (q : Path) (i : Instr) (w : Wait) : (waitAt s p q i w).v = s.v := rfl
@[simp] theorem waitAt_g (p : Nat) (q : Path) (i : Instr) (w : Wait) : (waitAt s p q i w).g = s.g := rfl
@[simp] theorem waitAt_p (p : Nat) (q : Path) (i : Instr) (w : Wait) : (waitAt s p q i w).p = s.p := rfl
@[simp] theorem waitAt_csr (p : Nat) (q : Path) (i : Instr) (w : Wait) : (waitAt s p q i w).csr = s.csr := rfl
@[simp] theorem waitAt_acc (p : Nat) (q : Path) (i : Instr) (w : Wait) : (waitAt s p q i w).acc = s.acc := rfl
@[simp] theorem waitAt_tiles (p : Nat) (q : Path) (i : Instr) (w : Wait) : (waitAt s p q i w).tiles = s.tiles := rfl
@[simp] theorem waitAt_scratch (p : Nat) (q : Path) (i : Instr) (w : Wait) : (waitAt s p q i w).scratch = s.scratch := rfl
@[simp] theorem waitAt_oldScratch (p : Nat) (q : Path) (i : Instr) (w : Wait) : (waitAt s p q i w).oldScratch = s.oldScratch := rfl
@[simp] theorem waitAt_mem (p : Nat) (q : Path) (i : Instr) (w : Wait) : (waitAt s p q i w).mem = s.mem := rfl
@[simp] theorem waitAt_poison (p : Nat) (q : Path) (i : Instr) (w : Wait) : (waitAt s p q i w).poison = s.poison := rfl
@[simp] theorem waitAt_ops (p : Nat) (q : Path) (i : Instr) (w : Wait) : (waitAt s p q i w).ops = s.ops := rfl
@[simp] theorem waitAt_l1 (p : Nat) (q : Path) (i : Instr) (w : Wait) : (waitAt s p q i w).l1 = s.l1 := rfl
@[simp] theorem waitAt_lines (p : Nat) (q : Path) (i : Instr) (w : Wait) : (waitAt s p q i w).lines = s.lines := rfl
@[simp] theorem waitAt_snoop (p : Nat) (q : Path) (i : Instr) (w : Wait) : (waitAt s p q i w).snoop = s.snoop := rfl
@[simp] theorem waitAt_regions (p : Nat) (q : Path) (i : Instr) (w : Wait) : (waitAt s p q i w).regions = s.regions := rfl
@[simp] theorem waitAt_cache (p : Nat) (q : Path) (i : Instr) (w : Wait) : (waitAt s p q i w).cache = s.cache := rfl
@[simp] theorem waitAt_ro (p : Nat) (q : Path) (i : Instr) (w : Wait) : (waitAt s p q i w).ro = s.ro := rfl
@[simp] theorem waitAt_roDrops (p : Nat) (q : Path) (i : Instr) (w : Wait) : (waitAt s p q i w).roDrops = s.roDrops := rfl
@[simp] theorem waitAt_nodes (p : Nat) (q : Path) (i : Instr) (w : Wait) : (waitAt s p q i w).nodes = s.nodes := rfl
@[simp] theorem waitAt_tlb (p : Nat) (q : Path) (i : Instr) (w : Wait) : (waitAt s p q i w).tlb = s.tlb := rfl
@[simp] theorem waitAt_ats (p : Nat) (q : Path) (i : Instr) (w : Wait) : (waitAt s p q i w).ats = s.ats := rfl
@[simp] theorem waitAt_hostSent (p : Nat) (q : Path) (i : Instr) (w : Wait) : (waitAt s p q i w).hostSent = s.hostSent := rfl
@[simp] theorem waitAt_invals (p : Nat) (q : Path) (i : Instr) (w : Wait) : (waitAt s p q i w).invals = s.invals := rfl
@[simp] theorem waitAt_invalDone (p : Nat) (q : Path) (i : Instr) (w : Wait) : (waitAt s p q i w).invalDone = s.invalDone := rfl
@[simp] theorem waitAt_icache (p : Nat) (q : Path) (i : Instr) (w : Wait) : (waitAt s p q i w).icache = s.icache := rfl
@[simp] theorem waitAt_beacons (p : Nat) (q : Path) (i : Instr) (w : Wait) : (waitAt s p q i w).beacons = s.beacons := rfl
@[simp] theorem waitAt_cmds (p : Nat) (q : Path) (i : Instr) (w : Wait) : (waitAt s p q i w).cmds = s.cmds := rfl
@[simp] theorem waitAt_targets (p : Nat) (q : Path) (i : Instr) (w : Wait) : (waitAt s p q i w).targets = s.targets := rfl
@[simp] theorem waitAt_frames (p : Nat) (q : Path) (i : Instr) (w : Wait) : (waitAt s p q i w).frames = s.frames := rfl
@[simp] theorem waitAt_passes (p : Nat) (q : Path) (i : Instr) (w : Wait) : (waitAt s p q i w).passes = s.passes := rfl
@[simp] theorem waitAt_peers (p : Nat) (q : Path) (i : Instr) (w : Wait) : (waitAt s p q i w).peers = s.peers := rfl
@[simp] theorem waitAt_far (p : Nat) (q : Path) (i : Instr) (w : Wait) : (waitAt s p q i w).far = s.far := rfl
@[simp] theorem waitAt_pubs (p : Nat) (q : Path) (i : Instr) (w : Wait) : (waitAt s p q i w).pubs = s.pubs := rfl
@[simp] theorem waitAt_clock (p : Nat) (q : Path) (i : Instr) (w : Wait) : (waitAt s p q i w).clock = s.clock := rfl
@[simp] theorem waitAt_turnSched (p : Nat) (q : Path) (i : Instr) (w : Wait) : (waitAt s p q i w).turnSched = s.turnSched := rfl
@[simp] theorem waitAt_fresh (p : Nat) (q : Path) (i : Instr) (w : Wait) : (waitAt s p q i w).fresh = s.fresh := rfl
@[simp] theorem waitAt_free (p : Nat) (q : Path) (i : Instr) (w : Wait) : (waitAt s p q i w).free = s.free := rfl
@[simp] theorem waitAt_stamp (p : Nat) (q : Path) (i : Instr) (w : Wait) : (waitAt s p q i w).stamp = s.stamp := rfl
@[simp] theorem waitAt_agenda (p : Nat) (q : Path) (i : Instr) (w : Wait) : (waitAt s p q i w).agenda = s.agenda := rfl
@[simp] theorem waitAt_subject (p : Nat) (q : Path) (i : Instr) (w : Wait) : (waitAt s p q i w).subject = s.subject := rfl
@[simp] theorem waitAt_issuing (p : Nat) (q : Path) (i : Instr) (w : Wait) : (waitAt s p q i w).issuing = s.issuing := rfl

@[simp] theorem modGang_pkg (k : Nat) (f : Gang → Gang) : (modGang s k f).pkg = s.pkg := rfl
@[simp] theorem modGang_mbx (k : Nat) (f : Gang → Gang) : (modGang s k f).mbx = s.mbx := rfl
@[simp] theorem modGang_mbxRun (k : Nat) (f : Gang → Gang) : (modGang s k f).mbxRun = s.mbxRun := rfl
@[simp] theorem modGang_parts (k : Nat) (f : Gang → Gang) : (modGang s k f).parts = s.parts := rfl
@[simp] theorem modGang_droops (k : Nat) (f : Gang → Gang) : (modGang s k f).droops = s.droops := rfl
@[simp] theorem modGang_wsphase (k : Nat) (f : Gang → Gang) : (modGang s k f).wsphase = s.wsphase := rfl
@[simp] theorem modGang_scrub (k : Nat) (f : Gang → Gang) : (modGang s k f).scrub = s.scrub := rfl
@[simp] theorem modGang_ctxs (k : Nat) (f : Gang → Gang) : (modGang s k f).ctxs = s.ctxs := rfl
@[simp] theorem modGang_ctxRegs (k : Nat) (f : Gang → Gang) : (modGang s k f).ctxRegs = s.ctxRegs := rfl
@[simp] theorem modGang_services (k : Nat) (f : Gang → Gang) : (modGang s k f).services = s.services := rfl
@[simp] theorem modGang_keys (k : Nat) (f : Gang → Gang) : (modGang s k f).keys = s.keys := rfl
@[simp] theorem modGang_vectors (k : Nat) (f : Gang → Gang) : (modGang s k f).vectors = s.vectors := rfl
@[simp] theorem modGang_msix (k : Nat) (f : Gang → Gang) : (modGang s k f).msix = s.msix := rfl
@[simp] theorem modGang_queueRegs (k : Nat) (f : Gang → Gang) : (modGang s k f).queueRegs = s.queueRegs := rfl
@[simp] theorem modGang_queues (k : Nat) (f : Gang → Gang) : (modGang s k f).queues = s.queues := rfl
@[simp] theorem modGang_records (k : Nat) (f : Gang → Gang) : (modGang s k f).records = s.records := rfl
@[simp] theorem modGang_launches (k : Nat) (f : Gang → Gang) : (modGang s k f).launches = s.launches := rfl
@[simp] theorem modGang_wgs (k : Nat) (f : Gang → Gang) : (modGang s k f).wgs = s.wgs := rfl
@[simp] theorem modGang_gangs (k : Nat) (f : Gang → Gang) : (modGang s k f).gangs = aMod k f s.gangs := rfl
@[simp] theorem modGang_paths (k : Nat) (f : Gang → Gang) : (modGang s k f).paths = s.paths := rfl
@[simp] theorem modGang_v (k : Nat) (f : Gang → Gang) : (modGang s k f).v = s.v := rfl
@[simp] theorem modGang_g (k : Nat) (f : Gang → Gang) : (modGang s k f).g = s.g := rfl
@[simp] theorem modGang_p (k : Nat) (f : Gang → Gang) : (modGang s k f).p = s.p := rfl
@[simp] theorem modGang_csr (k : Nat) (f : Gang → Gang) : (modGang s k f).csr = s.csr := rfl
@[simp] theorem modGang_acc (k : Nat) (f : Gang → Gang) : (modGang s k f).acc = s.acc := rfl
@[simp] theorem modGang_tiles (k : Nat) (f : Gang → Gang) : (modGang s k f).tiles = s.tiles := rfl
@[simp] theorem modGang_scratch (k : Nat) (f : Gang → Gang) : (modGang s k f).scratch = s.scratch := rfl
@[simp] theorem modGang_oldScratch (k : Nat) (f : Gang → Gang) : (modGang s k f).oldScratch = s.oldScratch := rfl
@[simp] theorem modGang_mem (k : Nat) (f : Gang → Gang) : (modGang s k f).mem = s.mem := rfl
@[simp] theorem modGang_poison (k : Nat) (f : Gang → Gang) : (modGang s k f).poison = s.poison := rfl
@[simp] theorem modGang_ops (k : Nat) (f : Gang → Gang) : (modGang s k f).ops = s.ops := rfl
@[simp] theorem modGang_l1 (k : Nat) (f : Gang → Gang) : (modGang s k f).l1 = s.l1 := rfl
@[simp] theorem modGang_lines (k : Nat) (f : Gang → Gang) : (modGang s k f).lines = s.lines := rfl
@[simp] theorem modGang_snoop (k : Nat) (f : Gang → Gang) : (modGang s k f).snoop = s.snoop := rfl
@[simp] theorem modGang_regions (k : Nat) (f : Gang → Gang) : (modGang s k f).regions = s.regions := rfl
@[simp] theorem modGang_cache (k : Nat) (f : Gang → Gang) : (modGang s k f).cache = s.cache := rfl
@[simp] theorem modGang_ro (k : Nat) (f : Gang → Gang) : (modGang s k f).ro = s.ro := rfl
@[simp] theorem modGang_roDrops (k : Nat) (f : Gang → Gang) : (modGang s k f).roDrops = s.roDrops := rfl
@[simp] theorem modGang_nodes (k : Nat) (f : Gang → Gang) : (modGang s k f).nodes = s.nodes := rfl
@[simp] theorem modGang_tlb (k : Nat) (f : Gang → Gang) : (modGang s k f).tlb = s.tlb := rfl
@[simp] theorem modGang_ats (k : Nat) (f : Gang → Gang) : (modGang s k f).ats = s.ats := rfl
@[simp] theorem modGang_hostSent (k : Nat) (f : Gang → Gang) : (modGang s k f).hostSent = s.hostSent := rfl
@[simp] theorem modGang_invals (k : Nat) (f : Gang → Gang) : (modGang s k f).invals = s.invals := rfl
@[simp] theorem modGang_invalDone (k : Nat) (f : Gang → Gang) : (modGang s k f).invalDone = s.invalDone := rfl
@[simp] theorem modGang_icache (k : Nat) (f : Gang → Gang) : (modGang s k f).icache = s.icache := rfl
@[simp] theorem modGang_beacons (k : Nat) (f : Gang → Gang) : (modGang s k f).beacons = s.beacons := rfl
@[simp] theorem modGang_cmds (k : Nat) (f : Gang → Gang) : (modGang s k f).cmds = s.cmds := rfl
@[simp] theorem modGang_targets (k : Nat) (f : Gang → Gang) : (modGang s k f).targets = s.targets := rfl
@[simp] theorem modGang_frames (k : Nat) (f : Gang → Gang) : (modGang s k f).frames = s.frames := rfl
@[simp] theorem modGang_passes (k : Nat) (f : Gang → Gang) : (modGang s k f).passes = s.passes := rfl
@[simp] theorem modGang_peers (k : Nat) (f : Gang → Gang) : (modGang s k f).peers = s.peers := rfl
@[simp] theorem modGang_far (k : Nat) (f : Gang → Gang) : (modGang s k f).far = s.far := rfl
@[simp] theorem modGang_pubs (k : Nat) (f : Gang → Gang) : (modGang s k f).pubs = s.pubs := rfl
@[simp] theorem modGang_clock (k : Nat) (f : Gang → Gang) : (modGang s k f).clock = s.clock := rfl
@[simp] theorem modGang_turnSched (k : Nat) (f : Gang → Gang) : (modGang s k f).turnSched = s.turnSched := rfl
@[simp] theorem modGang_fresh (k : Nat) (f : Gang → Gang) : (modGang s k f).fresh = s.fresh := rfl
@[simp] theorem modGang_free (k : Nat) (f : Gang → Gang) : (modGang s k f).free = s.free := rfl
@[simp] theorem modGang_stamp (k : Nat) (f : Gang → Gang) : (modGang s k f).stamp = s.stamp := rfl
@[simp] theorem modGang_agenda (k : Nat) (f : Gang → Gang) : (modGang s k f).agenda = s.agenda := rfl
@[simp] theorem modGang_subject (k : Nat) (f : Gang → Gang) : (modGang s k f).subject = s.subject := rfl
@[simp] theorem modGang_issuing (k : Nat) (f : Gang → Gang) : (modGang s k f).issuing = s.issuing := rfl

@[simp] theorem modWg_pkg (k : Nat) (f : Workgroup → Workgroup) : (modWg s k f).pkg = s.pkg := rfl
@[simp] theorem modWg_mbx (k : Nat) (f : Workgroup → Workgroup) : (modWg s k f).mbx = s.mbx := rfl
@[simp] theorem modWg_mbxRun (k : Nat) (f : Workgroup → Workgroup) : (modWg s k f).mbxRun = s.mbxRun := rfl
@[simp] theorem modWg_parts (k : Nat) (f : Workgroup → Workgroup) : (modWg s k f).parts = s.parts := rfl
@[simp] theorem modWg_droops (k : Nat) (f : Workgroup → Workgroup) : (modWg s k f).droops = s.droops := rfl
@[simp] theorem modWg_wsphase (k : Nat) (f : Workgroup → Workgroup) : (modWg s k f).wsphase = s.wsphase := rfl
@[simp] theorem modWg_scrub (k : Nat) (f : Workgroup → Workgroup) : (modWg s k f).scrub = s.scrub := rfl
@[simp] theorem modWg_ctxs (k : Nat) (f : Workgroup → Workgroup) : (modWg s k f).ctxs = s.ctxs := rfl
@[simp] theorem modWg_ctxRegs (k : Nat) (f : Workgroup → Workgroup) : (modWg s k f).ctxRegs = s.ctxRegs := rfl
@[simp] theorem modWg_services (k : Nat) (f : Workgroup → Workgroup) : (modWg s k f).services = s.services := rfl
@[simp] theorem modWg_keys (k : Nat) (f : Workgroup → Workgroup) : (modWg s k f).keys = s.keys := rfl
@[simp] theorem modWg_vectors (k : Nat) (f : Workgroup → Workgroup) : (modWg s k f).vectors = s.vectors := rfl
@[simp] theorem modWg_msix (k : Nat) (f : Workgroup → Workgroup) : (modWg s k f).msix = s.msix := rfl
@[simp] theorem modWg_queueRegs (k : Nat) (f : Workgroup → Workgroup) : (modWg s k f).queueRegs = s.queueRegs := rfl
@[simp] theorem modWg_queues (k : Nat) (f : Workgroup → Workgroup) : (modWg s k f).queues = s.queues := rfl
@[simp] theorem modWg_records (k : Nat) (f : Workgroup → Workgroup) : (modWg s k f).records = s.records := rfl
@[simp] theorem modWg_launches (k : Nat) (f : Workgroup → Workgroup) : (modWg s k f).launches = s.launches := rfl
@[simp] theorem modWg_wgs (k : Nat) (f : Workgroup → Workgroup) : (modWg s k f).wgs = aMod k f s.wgs := rfl
@[simp] theorem modWg_gangs (k : Nat) (f : Workgroup → Workgroup) : (modWg s k f).gangs = s.gangs := rfl
@[simp] theorem modWg_paths (k : Nat) (f : Workgroup → Workgroup) : (modWg s k f).paths = s.paths := rfl
@[simp] theorem modWg_v (k : Nat) (f : Workgroup → Workgroup) : (modWg s k f).v = s.v := rfl
@[simp] theorem modWg_g (k : Nat) (f : Workgroup → Workgroup) : (modWg s k f).g = s.g := rfl
@[simp] theorem modWg_p (k : Nat) (f : Workgroup → Workgroup) : (modWg s k f).p = s.p := rfl
@[simp] theorem modWg_csr (k : Nat) (f : Workgroup → Workgroup) : (modWg s k f).csr = s.csr := rfl
@[simp] theorem modWg_acc (k : Nat) (f : Workgroup → Workgroup) : (modWg s k f).acc = s.acc := rfl
@[simp] theorem modWg_tiles (k : Nat) (f : Workgroup → Workgroup) : (modWg s k f).tiles = s.tiles := rfl
@[simp] theorem modWg_scratch (k : Nat) (f : Workgroup → Workgroup) : (modWg s k f).scratch = s.scratch := rfl
@[simp] theorem modWg_oldScratch (k : Nat) (f : Workgroup → Workgroup) : (modWg s k f).oldScratch = s.oldScratch := rfl
@[simp] theorem modWg_mem (k : Nat) (f : Workgroup → Workgroup) : (modWg s k f).mem = s.mem := rfl
@[simp] theorem modWg_poison (k : Nat) (f : Workgroup → Workgroup) : (modWg s k f).poison = s.poison := rfl
@[simp] theorem modWg_ops (k : Nat) (f : Workgroup → Workgroup) : (modWg s k f).ops = s.ops := rfl
@[simp] theorem modWg_l1 (k : Nat) (f : Workgroup → Workgroup) : (modWg s k f).l1 = s.l1 := rfl
@[simp] theorem modWg_lines (k : Nat) (f : Workgroup → Workgroup) : (modWg s k f).lines = s.lines := rfl
@[simp] theorem modWg_snoop (k : Nat) (f : Workgroup → Workgroup) : (modWg s k f).snoop = s.snoop := rfl
@[simp] theorem modWg_regions (k : Nat) (f : Workgroup → Workgroup) : (modWg s k f).regions = s.regions := rfl
@[simp] theorem modWg_cache (k : Nat) (f : Workgroup → Workgroup) : (modWg s k f).cache = s.cache := rfl
@[simp] theorem modWg_ro (k : Nat) (f : Workgroup → Workgroup) : (modWg s k f).ro = s.ro := rfl
@[simp] theorem modWg_roDrops (k : Nat) (f : Workgroup → Workgroup) : (modWg s k f).roDrops = s.roDrops := rfl
@[simp] theorem modWg_nodes (k : Nat) (f : Workgroup → Workgroup) : (modWg s k f).nodes = s.nodes := rfl
@[simp] theorem modWg_tlb (k : Nat) (f : Workgroup → Workgroup) : (modWg s k f).tlb = s.tlb := rfl
@[simp] theorem modWg_ats (k : Nat) (f : Workgroup → Workgroup) : (modWg s k f).ats = s.ats := rfl
@[simp] theorem modWg_hostSent (k : Nat) (f : Workgroup → Workgroup) : (modWg s k f).hostSent = s.hostSent := rfl
@[simp] theorem modWg_invals (k : Nat) (f : Workgroup → Workgroup) : (modWg s k f).invals = s.invals := rfl
@[simp] theorem modWg_invalDone (k : Nat) (f : Workgroup → Workgroup) : (modWg s k f).invalDone = s.invalDone := rfl
@[simp] theorem modWg_icache (k : Nat) (f : Workgroup → Workgroup) : (modWg s k f).icache = s.icache := rfl
@[simp] theorem modWg_beacons (k : Nat) (f : Workgroup → Workgroup) : (modWg s k f).beacons = s.beacons := rfl
@[simp] theorem modWg_cmds (k : Nat) (f : Workgroup → Workgroup) : (modWg s k f).cmds = s.cmds := rfl
@[simp] theorem modWg_targets (k : Nat) (f : Workgroup → Workgroup) : (modWg s k f).targets = s.targets := rfl
@[simp] theorem modWg_frames (k : Nat) (f : Workgroup → Workgroup) : (modWg s k f).frames = s.frames := rfl
@[simp] theorem modWg_passes (k : Nat) (f : Workgroup → Workgroup) : (modWg s k f).passes = s.passes := rfl
@[simp] theorem modWg_peers (k : Nat) (f : Workgroup → Workgroup) : (modWg s k f).peers = s.peers := rfl
@[simp] theorem modWg_far (k : Nat) (f : Workgroup → Workgroup) : (modWg s k f).far = s.far := rfl
@[simp] theorem modWg_pubs (k : Nat) (f : Workgroup → Workgroup) : (modWg s k f).pubs = s.pubs := rfl
@[simp] theorem modWg_clock (k : Nat) (f : Workgroup → Workgroup) : (modWg s k f).clock = s.clock := rfl
@[simp] theorem modWg_turnSched (k : Nat) (f : Workgroup → Workgroup) : (modWg s k f).turnSched = s.turnSched := rfl
@[simp] theorem modWg_fresh (k : Nat) (f : Workgroup → Workgroup) : (modWg s k f).fresh = s.fresh := rfl
@[simp] theorem modWg_free (k : Nat) (f : Workgroup → Workgroup) : (modWg s k f).free = s.free := rfl
@[simp] theorem modWg_stamp (k : Nat) (f : Workgroup → Workgroup) : (modWg s k f).stamp = s.stamp := rfl
@[simp] theorem modWg_agenda (k : Nat) (f : Workgroup → Workgroup) : (modWg s k f).agenda = s.agenda := rfl
@[simp] theorem modWg_subject (k : Nat) (f : Workgroup → Workgroup) : (modWg s k f).subject = s.subject := rfl
@[simp] theorem modWg_issuing (k : Nat) (f : Workgroup → Workgroup) : (modWg s k f).issuing = s.issuing := rfl

@[simp] theorem modCtx_pkg (k : Nat) (f : Context → Context) : (modCtx s k f).pkg = s.pkg := rfl
@[simp] theorem modCtx_mbx (k : Nat) (f : Context → Context) : (modCtx s k f).mbx = s.mbx := rfl
@[simp] theorem modCtx_mbxRun (k : Nat) (f : Context → Context) : (modCtx s k f).mbxRun = s.mbxRun := rfl
@[simp] theorem modCtx_parts (k : Nat) (f : Context → Context) : (modCtx s k f).parts = s.parts := rfl
@[simp] theorem modCtx_droops (k : Nat) (f : Context → Context) : (modCtx s k f).droops = s.droops := rfl
@[simp] theorem modCtx_wsphase (k : Nat) (f : Context → Context) : (modCtx s k f).wsphase = s.wsphase := rfl
@[simp] theorem modCtx_scrub (k : Nat) (f : Context → Context) : (modCtx s k f).scrub = s.scrub := rfl
@[simp] theorem modCtx_ctxs (k : Nat) (f : Context → Context) : (modCtx s k f).ctxs = aMod k f s.ctxs := rfl
@[simp] theorem modCtx_ctxRegs (k : Nat) (f : Context → Context) : (modCtx s k f).ctxRegs = s.ctxRegs := rfl
@[simp] theorem modCtx_services (k : Nat) (f : Context → Context) : (modCtx s k f).services = s.services := rfl
@[simp] theorem modCtx_keys (k : Nat) (f : Context → Context) : (modCtx s k f).keys = s.keys := rfl
@[simp] theorem modCtx_vectors (k : Nat) (f : Context → Context) : (modCtx s k f).vectors = s.vectors := rfl
@[simp] theorem modCtx_msix (k : Nat) (f : Context → Context) : (modCtx s k f).msix = s.msix := rfl
@[simp] theorem modCtx_queueRegs (k : Nat) (f : Context → Context) : (modCtx s k f).queueRegs = s.queueRegs := rfl
@[simp] theorem modCtx_queues (k : Nat) (f : Context → Context) : (modCtx s k f).queues = s.queues := rfl
@[simp] theorem modCtx_records (k : Nat) (f : Context → Context) : (modCtx s k f).records = s.records := rfl
@[simp] theorem modCtx_launches (k : Nat) (f : Context → Context) : (modCtx s k f).launches = s.launches := rfl
@[simp] theorem modCtx_wgs (k : Nat) (f : Context → Context) : (modCtx s k f).wgs = s.wgs := rfl
@[simp] theorem modCtx_gangs (k : Nat) (f : Context → Context) : (modCtx s k f).gangs = s.gangs := rfl
@[simp] theorem modCtx_paths (k : Nat) (f : Context → Context) : (modCtx s k f).paths = s.paths := rfl
@[simp] theorem modCtx_v (k : Nat) (f : Context → Context) : (modCtx s k f).v = s.v := rfl
@[simp] theorem modCtx_g (k : Nat) (f : Context → Context) : (modCtx s k f).g = s.g := rfl
@[simp] theorem modCtx_p (k : Nat) (f : Context → Context) : (modCtx s k f).p = s.p := rfl
@[simp] theorem modCtx_csr (k : Nat) (f : Context → Context) : (modCtx s k f).csr = s.csr := rfl
@[simp] theorem modCtx_acc (k : Nat) (f : Context → Context) : (modCtx s k f).acc = s.acc := rfl
@[simp] theorem modCtx_tiles (k : Nat) (f : Context → Context) : (modCtx s k f).tiles = s.tiles := rfl
@[simp] theorem modCtx_scratch (k : Nat) (f : Context → Context) : (modCtx s k f).scratch = s.scratch := rfl
@[simp] theorem modCtx_oldScratch (k : Nat) (f : Context → Context) : (modCtx s k f).oldScratch = s.oldScratch := rfl
@[simp] theorem modCtx_mem (k : Nat) (f : Context → Context) : (modCtx s k f).mem = s.mem := rfl
@[simp] theorem modCtx_poison (k : Nat) (f : Context → Context) : (modCtx s k f).poison = s.poison := rfl
@[simp] theorem modCtx_ops (k : Nat) (f : Context → Context) : (modCtx s k f).ops = s.ops := rfl
@[simp] theorem modCtx_l1 (k : Nat) (f : Context → Context) : (modCtx s k f).l1 = s.l1 := rfl
@[simp] theorem modCtx_lines (k : Nat) (f : Context → Context) : (modCtx s k f).lines = s.lines := rfl
@[simp] theorem modCtx_snoop (k : Nat) (f : Context → Context) : (modCtx s k f).snoop = s.snoop := rfl
@[simp] theorem modCtx_regions (k : Nat) (f : Context → Context) : (modCtx s k f).regions = s.regions := rfl
@[simp] theorem modCtx_cache (k : Nat) (f : Context → Context) : (modCtx s k f).cache = s.cache := rfl
@[simp] theorem modCtx_ro (k : Nat) (f : Context → Context) : (modCtx s k f).ro = s.ro := rfl
@[simp] theorem modCtx_roDrops (k : Nat) (f : Context → Context) : (modCtx s k f).roDrops = s.roDrops := rfl
@[simp] theorem modCtx_nodes (k : Nat) (f : Context → Context) : (modCtx s k f).nodes = s.nodes := rfl
@[simp] theorem modCtx_tlb (k : Nat) (f : Context → Context) : (modCtx s k f).tlb = s.tlb := rfl
@[simp] theorem modCtx_ats (k : Nat) (f : Context → Context) : (modCtx s k f).ats = s.ats := rfl
@[simp] theorem modCtx_hostSent (k : Nat) (f : Context → Context) : (modCtx s k f).hostSent = s.hostSent := rfl
@[simp] theorem modCtx_invals (k : Nat) (f : Context → Context) : (modCtx s k f).invals = s.invals := rfl
@[simp] theorem modCtx_invalDone (k : Nat) (f : Context → Context) : (modCtx s k f).invalDone = s.invalDone := rfl
@[simp] theorem modCtx_icache (k : Nat) (f : Context → Context) : (modCtx s k f).icache = s.icache := rfl
@[simp] theorem modCtx_beacons (k : Nat) (f : Context → Context) : (modCtx s k f).beacons = s.beacons := rfl
@[simp] theorem modCtx_cmds (k : Nat) (f : Context → Context) : (modCtx s k f).cmds = s.cmds := rfl
@[simp] theorem modCtx_targets (k : Nat) (f : Context → Context) : (modCtx s k f).targets = s.targets := rfl
@[simp] theorem modCtx_frames (k : Nat) (f : Context → Context) : (modCtx s k f).frames = s.frames := rfl
@[simp] theorem modCtx_passes (k : Nat) (f : Context → Context) : (modCtx s k f).passes = s.passes := rfl
@[simp] theorem modCtx_peers (k : Nat) (f : Context → Context) : (modCtx s k f).peers = s.peers := rfl
@[simp] theorem modCtx_far (k : Nat) (f : Context → Context) : (modCtx s k f).far = s.far := rfl
@[simp] theorem modCtx_pubs (k : Nat) (f : Context → Context) : (modCtx s k f).pubs = s.pubs := rfl
@[simp] theorem modCtx_clock (k : Nat) (f : Context → Context) : (modCtx s k f).clock = s.clock := rfl
@[simp] theorem modCtx_turnSched (k : Nat) (f : Context → Context) : (modCtx s k f).turnSched = s.turnSched := rfl
@[simp] theorem modCtx_fresh (k : Nat) (f : Context → Context) : (modCtx s k f).fresh = s.fresh := rfl
@[simp] theorem modCtx_free (k : Nat) (f : Context → Context) : (modCtx s k f).free = s.free := rfl
@[simp] theorem modCtx_stamp (k : Nat) (f : Context → Context) : (modCtx s k f).stamp = s.stamp := rfl
@[simp] theorem modCtx_agenda (k : Nat) (f : Context → Context) : (modCtx s k f).agenda = s.agenda := rfl
@[simp] theorem modCtx_subject (k : Nat) (f : Context → Context) : (modCtx s k f).subject = s.subject := rfl
@[simp] theorem modCtx_issuing (k : Nat) (f : Context → Context) : (modCtx s k f).issuing = s.issuing := rfl

@[simp] theorem modPath_pkg (k : Nat) (f : Path → Path) : (modPath s k f).pkg = s.pkg := rfl
@[simp] theorem modPath_mbx (k : Nat) (f : Path → Path) : (modPath s k f).mbx = s.mbx := rfl
@[simp] theorem modPath_mbxRun (k : Nat) (f : Path → Path) : (modPath s k f).mbxRun = s.mbxRun := rfl
@[simp] theorem modPath_parts (k : Nat) (f : Path → Path) : (modPath s k f).parts = s.parts := rfl
@[simp] theorem modPath_droops (k : Nat) (f : Path → Path) : (modPath s k f).droops = s.droops := rfl
@[simp] theorem modPath_wsphase (k : Nat) (f : Path → Path) : (modPath s k f).wsphase = s.wsphase := rfl
@[simp] theorem modPath_scrub (k : Nat) (f : Path → Path) : (modPath s k f).scrub = s.scrub := rfl
@[simp] theorem modPath_ctxs (k : Nat) (f : Path → Path) : (modPath s k f).ctxs = s.ctxs := rfl
@[simp] theorem modPath_ctxRegs (k : Nat) (f : Path → Path) : (modPath s k f).ctxRegs = s.ctxRegs := rfl
@[simp] theorem modPath_services (k : Nat) (f : Path → Path) : (modPath s k f).services = s.services := rfl
@[simp] theorem modPath_keys (k : Nat) (f : Path → Path) : (modPath s k f).keys = s.keys := rfl
@[simp] theorem modPath_vectors (k : Nat) (f : Path → Path) : (modPath s k f).vectors = s.vectors := rfl
@[simp] theorem modPath_msix (k : Nat) (f : Path → Path) : (modPath s k f).msix = s.msix := rfl
@[simp] theorem modPath_queueRegs (k : Nat) (f : Path → Path) : (modPath s k f).queueRegs = s.queueRegs := rfl
@[simp] theorem modPath_queues (k : Nat) (f : Path → Path) : (modPath s k f).queues = s.queues := rfl
@[simp] theorem modPath_records (k : Nat) (f : Path → Path) : (modPath s k f).records = s.records := rfl
@[simp] theorem modPath_launches (k : Nat) (f : Path → Path) : (modPath s k f).launches = s.launches := rfl
@[simp] theorem modPath_wgs (k : Nat) (f : Path → Path) : (modPath s k f).wgs = s.wgs := rfl
@[simp] theorem modPath_gangs (k : Nat) (f : Path → Path) : (modPath s k f).gangs = s.gangs := rfl
@[simp] theorem modPath_paths (k : Nat) (f : Path → Path) : (modPath s k f).paths = aMod k f s.paths := rfl
@[simp] theorem modPath_v (k : Nat) (f : Path → Path) : (modPath s k f).v = s.v := rfl
@[simp] theorem modPath_g (k : Nat) (f : Path → Path) : (modPath s k f).g = s.g := rfl
@[simp] theorem modPath_p (k : Nat) (f : Path → Path) : (modPath s k f).p = s.p := rfl
@[simp] theorem modPath_csr (k : Nat) (f : Path → Path) : (modPath s k f).csr = s.csr := rfl
@[simp] theorem modPath_acc (k : Nat) (f : Path → Path) : (modPath s k f).acc = s.acc := rfl
@[simp] theorem modPath_tiles (k : Nat) (f : Path → Path) : (modPath s k f).tiles = s.tiles := rfl
@[simp] theorem modPath_scratch (k : Nat) (f : Path → Path) : (modPath s k f).scratch = s.scratch := rfl
@[simp] theorem modPath_oldScratch (k : Nat) (f : Path → Path) : (modPath s k f).oldScratch = s.oldScratch := rfl
@[simp] theorem modPath_mem (k : Nat) (f : Path → Path) : (modPath s k f).mem = s.mem := rfl
@[simp] theorem modPath_poison (k : Nat) (f : Path → Path) : (modPath s k f).poison = s.poison := rfl
@[simp] theorem modPath_ops (k : Nat) (f : Path → Path) : (modPath s k f).ops = s.ops := rfl
@[simp] theorem modPath_l1 (k : Nat) (f : Path → Path) : (modPath s k f).l1 = s.l1 := rfl
@[simp] theorem modPath_lines (k : Nat) (f : Path → Path) : (modPath s k f).lines = s.lines := rfl
@[simp] theorem modPath_snoop (k : Nat) (f : Path → Path) : (modPath s k f).snoop = s.snoop := rfl
@[simp] theorem modPath_regions (k : Nat) (f : Path → Path) : (modPath s k f).regions = s.regions := rfl
@[simp] theorem modPath_cache (k : Nat) (f : Path → Path) : (modPath s k f).cache = s.cache := rfl
@[simp] theorem modPath_ro (k : Nat) (f : Path → Path) : (modPath s k f).ro = s.ro := rfl
@[simp] theorem modPath_roDrops (k : Nat) (f : Path → Path) : (modPath s k f).roDrops = s.roDrops := rfl
@[simp] theorem modPath_nodes (k : Nat) (f : Path → Path) : (modPath s k f).nodes = s.nodes := rfl
@[simp] theorem modPath_tlb (k : Nat) (f : Path → Path) : (modPath s k f).tlb = s.tlb := rfl
@[simp] theorem modPath_ats (k : Nat) (f : Path → Path) : (modPath s k f).ats = s.ats := rfl
@[simp] theorem modPath_hostSent (k : Nat) (f : Path → Path) : (modPath s k f).hostSent = s.hostSent := rfl
@[simp] theorem modPath_invals (k : Nat) (f : Path → Path) : (modPath s k f).invals = s.invals := rfl
@[simp] theorem modPath_invalDone (k : Nat) (f : Path → Path) : (modPath s k f).invalDone = s.invalDone := rfl
@[simp] theorem modPath_icache (k : Nat) (f : Path → Path) : (modPath s k f).icache = s.icache := rfl
@[simp] theorem modPath_beacons (k : Nat) (f : Path → Path) : (modPath s k f).beacons = s.beacons := rfl
@[simp] theorem modPath_cmds (k : Nat) (f : Path → Path) : (modPath s k f).cmds = s.cmds := rfl
@[simp] theorem modPath_targets (k : Nat) (f : Path → Path) : (modPath s k f).targets = s.targets := rfl
@[simp] theorem modPath_frames (k : Nat) (f : Path → Path) : (modPath s k f).frames = s.frames := rfl
@[simp] theorem modPath_passes (k : Nat) (f : Path → Path) : (modPath s k f).passes = s.passes := rfl
@[simp] theorem modPath_peers (k : Nat) (f : Path → Path) : (modPath s k f).peers = s.peers := rfl
@[simp] theorem modPath_far (k : Nat) (f : Path → Path) : (modPath s k f).far = s.far := rfl
@[simp] theorem modPath_pubs (k : Nat) (f : Path → Path) : (modPath s k f).pubs = s.pubs := rfl
@[simp] theorem modPath_clock (k : Nat) (f : Path → Path) : (modPath s k f).clock = s.clock := rfl
@[simp] theorem modPath_turnSched (k : Nat) (f : Path → Path) : (modPath s k f).turnSched = s.turnSched := rfl
@[simp] theorem modPath_fresh (k : Nat) (f : Path → Path) : (modPath s k f).fresh = s.fresh := rfl
@[simp] theorem modPath_free (k : Nat) (f : Path → Path) : (modPath s k f).free = s.free := rfl
@[simp] theorem modPath_stamp (k : Nat) (f : Path → Path) : (modPath s k f).stamp = s.stamp := rfl
@[simp] theorem modPath_agenda (k : Nat) (f : Path → Path) : (modPath s k f).agenda = s.agenda := rfl
@[simp] theorem modPath_subject (k : Nat) (f : Path → Path) : (modPath s k f).subject = s.subject := rfl
@[simp] theorem modPath_issuing (k : Nat) (f : Path → Path) : (modPath s k f).issuing = s.issuing := rfl

@[simp] theorem modCmd_pkg (k : Nat) (f : Cmd → Cmd) : (modCmd s k f).pkg = s.pkg := rfl
@[simp] theorem modCmd_mbx (k : Nat) (f : Cmd → Cmd) : (modCmd s k f).mbx = s.mbx := rfl
@[simp] theorem modCmd_mbxRun (k : Nat) (f : Cmd → Cmd) : (modCmd s k f).mbxRun = s.mbxRun := rfl
@[simp] theorem modCmd_parts (k : Nat) (f : Cmd → Cmd) : (modCmd s k f).parts = s.parts := rfl
@[simp] theorem modCmd_droops (k : Nat) (f : Cmd → Cmd) : (modCmd s k f).droops = s.droops := rfl
@[simp] theorem modCmd_wsphase (k : Nat) (f : Cmd → Cmd) : (modCmd s k f).wsphase = s.wsphase := rfl
@[simp] theorem modCmd_scrub (k : Nat) (f : Cmd → Cmd) : (modCmd s k f).scrub = s.scrub := rfl
@[simp] theorem modCmd_ctxs (k : Nat) (f : Cmd → Cmd) : (modCmd s k f).ctxs = s.ctxs := rfl
@[simp] theorem modCmd_ctxRegs (k : Nat) (f : Cmd → Cmd) : (modCmd s k f).ctxRegs = s.ctxRegs := rfl
@[simp] theorem modCmd_services (k : Nat) (f : Cmd → Cmd) : (modCmd s k f).services = s.services := rfl
@[simp] theorem modCmd_keys (k : Nat) (f : Cmd → Cmd) : (modCmd s k f).keys = s.keys := rfl
@[simp] theorem modCmd_vectors (k : Nat) (f : Cmd → Cmd) : (modCmd s k f).vectors = s.vectors := rfl
@[simp] theorem modCmd_msix (k : Nat) (f : Cmd → Cmd) : (modCmd s k f).msix = s.msix := rfl
@[simp] theorem modCmd_queueRegs (k : Nat) (f : Cmd → Cmd) : (modCmd s k f).queueRegs = s.queueRegs := rfl
@[simp] theorem modCmd_queues (k : Nat) (f : Cmd → Cmd) : (modCmd s k f).queues = s.queues := rfl
@[simp] theorem modCmd_records (k : Nat) (f : Cmd → Cmd) : (modCmd s k f).records = s.records := rfl
@[simp] theorem modCmd_launches (k : Nat) (f : Cmd → Cmd) : (modCmd s k f).launches = s.launches := rfl
@[simp] theorem modCmd_wgs (k : Nat) (f : Cmd → Cmd) : (modCmd s k f).wgs = s.wgs := rfl
@[simp] theorem modCmd_gangs (k : Nat) (f : Cmd → Cmd) : (modCmd s k f).gangs = s.gangs := rfl
@[simp] theorem modCmd_paths (k : Nat) (f : Cmd → Cmd) : (modCmd s k f).paths = s.paths := rfl
@[simp] theorem modCmd_v (k : Nat) (f : Cmd → Cmd) : (modCmd s k f).v = s.v := rfl
@[simp] theorem modCmd_g (k : Nat) (f : Cmd → Cmd) : (modCmd s k f).g = s.g := rfl
@[simp] theorem modCmd_p (k : Nat) (f : Cmd → Cmd) : (modCmd s k f).p = s.p := rfl
@[simp] theorem modCmd_csr (k : Nat) (f : Cmd → Cmd) : (modCmd s k f).csr = s.csr := rfl
@[simp] theorem modCmd_acc (k : Nat) (f : Cmd → Cmd) : (modCmd s k f).acc = s.acc := rfl
@[simp] theorem modCmd_tiles (k : Nat) (f : Cmd → Cmd) : (modCmd s k f).tiles = s.tiles := rfl
@[simp] theorem modCmd_scratch (k : Nat) (f : Cmd → Cmd) : (modCmd s k f).scratch = s.scratch := rfl
@[simp] theorem modCmd_oldScratch (k : Nat) (f : Cmd → Cmd) : (modCmd s k f).oldScratch = s.oldScratch := rfl
@[simp] theorem modCmd_mem (k : Nat) (f : Cmd → Cmd) : (modCmd s k f).mem = s.mem := rfl
@[simp] theorem modCmd_poison (k : Nat) (f : Cmd → Cmd) : (modCmd s k f).poison = s.poison := rfl
@[simp] theorem modCmd_ops (k : Nat) (f : Cmd → Cmd) : (modCmd s k f).ops = s.ops := rfl
@[simp] theorem modCmd_l1 (k : Nat) (f : Cmd → Cmd) : (modCmd s k f).l1 = s.l1 := rfl
@[simp] theorem modCmd_lines (k : Nat) (f : Cmd → Cmd) : (modCmd s k f).lines = s.lines := rfl
@[simp] theorem modCmd_snoop (k : Nat) (f : Cmd → Cmd) : (modCmd s k f).snoop = s.snoop := rfl
@[simp] theorem modCmd_regions (k : Nat) (f : Cmd → Cmd) : (modCmd s k f).regions = s.regions := rfl
@[simp] theorem modCmd_cache (k : Nat) (f : Cmd → Cmd) : (modCmd s k f).cache = s.cache := rfl
@[simp] theorem modCmd_ro (k : Nat) (f : Cmd → Cmd) : (modCmd s k f).ro = s.ro := rfl
@[simp] theorem modCmd_roDrops (k : Nat) (f : Cmd → Cmd) : (modCmd s k f).roDrops = s.roDrops := rfl
@[simp] theorem modCmd_nodes (k : Nat) (f : Cmd → Cmd) : (modCmd s k f).nodes = s.nodes := rfl
@[simp] theorem modCmd_tlb (k : Nat) (f : Cmd → Cmd) : (modCmd s k f).tlb = s.tlb := rfl
@[simp] theorem modCmd_ats (k : Nat) (f : Cmd → Cmd) : (modCmd s k f).ats = s.ats := rfl
@[simp] theorem modCmd_hostSent (k : Nat) (f : Cmd → Cmd) : (modCmd s k f).hostSent = s.hostSent := rfl
@[simp] theorem modCmd_invals (k : Nat) (f : Cmd → Cmd) : (modCmd s k f).invals = s.invals := rfl
@[simp] theorem modCmd_invalDone (k : Nat) (f : Cmd → Cmd) : (modCmd s k f).invalDone = s.invalDone := rfl
@[simp] theorem modCmd_icache (k : Nat) (f : Cmd → Cmd) : (modCmd s k f).icache = s.icache := rfl
@[simp] theorem modCmd_beacons (k : Nat) (f : Cmd → Cmd) : (modCmd s k f).beacons = s.beacons := rfl
@[simp] theorem modCmd_cmds (k : Nat) (f : Cmd → Cmd) : (modCmd s k f).cmds = aMod k f s.cmds := rfl
@[simp] theorem modCmd_targets (k : Nat) (f : Cmd → Cmd) : (modCmd s k f).targets = s.targets := rfl
@[simp] theorem modCmd_frames (k : Nat) (f : Cmd → Cmd) : (modCmd s k f).frames = s.frames := rfl
@[simp] theorem modCmd_passes (k : Nat) (f : Cmd → Cmd) : (modCmd s k f).passes = s.passes := rfl
@[simp] theorem modCmd_peers (k : Nat) (f : Cmd → Cmd) : (modCmd s k f).peers = s.peers := rfl
@[simp] theorem modCmd_far (k : Nat) (f : Cmd → Cmd) : (modCmd s k f).far = s.far := rfl
@[simp] theorem modCmd_pubs (k : Nat) (f : Cmd → Cmd) : (modCmd s k f).pubs = s.pubs := rfl
@[simp] theorem modCmd_clock (k : Nat) (f : Cmd → Cmd) : (modCmd s k f).clock = s.clock := rfl
@[simp] theorem modCmd_turnSched (k : Nat) (f : Cmd → Cmd) : (modCmd s k f).turnSched = s.turnSched := rfl
@[simp] theorem modCmd_fresh (k : Nat) (f : Cmd → Cmd) : (modCmd s k f).fresh = s.fresh := rfl
@[simp] theorem modCmd_free (k : Nat) (f : Cmd → Cmd) : (modCmd s k f).free = s.free := rfl
@[simp] theorem modCmd_stamp (k : Nat) (f : Cmd → Cmd) : (modCmd s k f).stamp = s.stamp := rfl
@[simp] theorem modCmd_agenda (k : Nat) (f : Cmd → Cmd) : (modCmd s k f).agenda = s.agenda := rfl
@[simp] theorem modCmd_subject (k : Nat) (f : Cmd → Cmd) : (modCmd s k f).subject = s.subject := rfl
@[simp] theorem modCmd_issuing (k : Nat) (f : Cmd → Cmd) : (modCmd s k f).issuing = s.issuing := rfl

@[simp] theorem modQueue_pkg (k : Nat) (f : Queue → Queue) : (modQueue s k f).pkg = s.pkg := rfl
@[simp] theorem modQueue_mbx (k : Nat) (f : Queue → Queue) : (modQueue s k f).mbx = s.mbx := rfl
@[simp] theorem modQueue_mbxRun (k : Nat) (f : Queue → Queue) : (modQueue s k f).mbxRun = s.mbxRun := rfl
@[simp] theorem modQueue_parts (k : Nat) (f : Queue → Queue) : (modQueue s k f).parts = s.parts := rfl
@[simp] theorem modQueue_droops (k : Nat) (f : Queue → Queue) : (modQueue s k f).droops = s.droops := rfl
@[simp] theorem modQueue_wsphase (k : Nat) (f : Queue → Queue) : (modQueue s k f).wsphase = s.wsphase := rfl
@[simp] theorem modQueue_scrub (k : Nat) (f : Queue → Queue) : (modQueue s k f).scrub = s.scrub := rfl
@[simp] theorem modQueue_ctxs (k : Nat) (f : Queue → Queue) : (modQueue s k f).ctxs = s.ctxs := rfl
@[simp] theorem modQueue_ctxRegs (k : Nat) (f : Queue → Queue) : (modQueue s k f).ctxRegs = s.ctxRegs := rfl
@[simp] theorem modQueue_services (k : Nat) (f : Queue → Queue) : (modQueue s k f).services = s.services := rfl
@[simp] theorem modQueue_keys (k : Nat) (f : Queue → Queue) : (modQueue s k f).keys = s.keys := rfl
@[simp] theorem modQueue_vectors (k : Nat) (f : Queue → Queue) : (modQueue s k f).vectors = s.vectors := rfl
@[simp] theorem modQueue_msix (k : Nat) (f : Queue → Queue) : (modQueue s k f).msix = s.msix := rfl
@[simp] theorem modQueue_queueRegs (k : Nat) (f : Queue → Queue) : (modQueue s k f).queueRegs = s.queueRegs := rfl
@[simp] theorem modQueue_queues (k : Nat) (f : Queue → Queue) : (modQueue s k f).queues = aMod k f s.queues := rfl
@[simp] theorem modQueue_records (k : Nat) (f : Queue → Queue) : (modQueue s k f).records = s.records := rfl
@[simp] theorem modQueue_launches (k : Nat) (f : Queue → Queue) : (modQueue s k f).launches = s.launches := rfl
@[simp] theorem modQueue_wgs (k : Nat) (f : Queue → Queue) : (modQueue s k f).wgs = s.wgs := rfl
@[simp] theorem modQueue_gangs (k : Nat) (f : Queue → Queue) : (modQueue s k f).gangs = s.gangs := rfl
@[simp] theorem modQueue_paths (k : Nat) (f : Queue → Queue) : (modQueue s k f).paths = s.paths := rfl
@[simp] theorem modQueue_v (k : Nat) (f : Queue → Queue) : (modQueue s k f).v = s.v := rfl
@[simp] theorem modQueue_g (k : Nat) (f : Queue → Queue) : (modQueue s k f).g = s.g := rfl
@[simp] theorem modQueue_p (k : Nat) (f : Queue → Queue) : (modQueue s k f).p = s.p := rfl
@[simp] theorem modQueue_csr (k : Nat) (f : Queue → Queue) : (modQueue s k f).csr = s.csr := rfl
@[simp] theorem modQueue_acc (k : Nat) (f : Queue → Queue) : (modQueue s k f).acc = s.acc := rfl
@[simp] theorem modQueue_tiles (k : Nat) (f : Queue → Queue) : (modQueue s k f).tiles = s.tiles := rfl
@[simp] theorem modQueue_scratch (k : Nat) (f : Queue → Queue) : (modQueue s k f).scratch = s.scratch := rfl
@[simp] theorem modQueue_oldScratch (k : Nat) (f : Queue → Queue) : (modQueue s k f).oldScratch = s.oldScratch := rfl
@[simp] theorem modQueue_mem (k : Nat) (f : Queue → Queue) : (modQueue s k f).mem = s.mem := rfl
@[simp] theorem modQueue_poison (k : Nat) (f : Queue → Queue) : (modQueue s k f).poison = s.poison := rfl
@[simp] theorem modQueue_ops (k : Nat) (f : Queue → Queue) : (modQueue s k f).ops = s.ops := rfl
@[simp] theorem modQueue_l1 (k : Nat) (f : Queue → Queue) : (modQueue s k f).l1 = s.l1 := rfl
@[simp] theorem modQueue_lines (k : Nat) (f : Queue → Queue) : (modQueue s k f).lines = s.lines := rfl
@[simp] theorem modQueue_snoop (k : Nat) (f : Queue → Queue) : (modQueue s k f).snoop = s.snoop := rfl
@[simp] theorem modQueue_regions (k : Nat) (f : Queue → Queue) : (modQueue s k f).regions = s.regions := rfl
@[simp] theorem modQueue_cache (k : Nat) (f : Queue → Queue) : (modQueue s k f).cache = s.cache := rfl
@[simp] theorem modQueue_ro (k : Nat) (f : Queue → Queue) : (modQueue s k f).ro = s.ro := rfl
@[simp] theorem modQueue_roDrops (k : Nat) (f : Queue → Queue) : (modQueue s k f).roDrops = s.roDrops := rfl
@[simp] theorem modQueue_nodes (k : Nat) (f : Queue → Queue) : (modQueue s k f).nodes = s.nodes := rfl
@[simp] theorem modQueue_tlb (k : Nat) (f : Queue → Queue) : (modQueue s k f).tlb = s.tlb := rfl
@[simp] theorem modQueue_ats (k : Nat) (f : Queue → Queue) : (modQueue s k f).ats = s.ats := rfl
@[simp] theorem modQueue_hostSent (k : Nat) (f : Queue → Queue) : (modQueue s k f).hostSent = s.hostSent := rfl
@[simp] theorem modQueue_invals (k : Nat) (f : Queue → Queue) : (modQueue s k f).invals = s.invals := rfl
@[simp] theorem modQueue_invalDone (k : Nat) (f : Queue → Queue) : (modQueue s k f).invalDone = s.invalDone := rfl
@[simp] theorem modQueue_icache (k : Nat) (f : Queue → Queue) : (modQueue s k f).icache = s.icache := rfl
@[simp] theorem modQueue_beacons (k : Nat) (f : Queue → Queue) : (modQueue s k f).beacons = s.beacons := rfl
@[simp] theorem modQueue_cmds (k : Nat) (f : Queue → Queue) : (modQueue s k f).cmds = s.cmds := rfl
@[simp] theorem modQueue_targets (k : Nat) (f : Queue → Queue) : (modQueue s k f).targets = s.targets := rfl
@[simp] theorem modQueue_frames (k : Nat) (f : Queue → Queue) : (modQueue s k f).frames = s.frames := rfl
@[simp] theorem modQueue_passes (k : Nat) (f : Queue → Queue) : (modQueue s k f).passes = s.passes := rfl
@[simp] theorem modQueue_peers (k : Nat) (f : Queue → Queue) : (modQueue s k f).peers = s.peers := rfl
@[simp] theorem modQueue_far (k : Nat) (f : Queue → Queue) : (modQueue s k f).far = s.far := rfl
@[simp] theorem modQueue_pubs (k : Nat) (f : Queue → Queue) : (modQueue s k f).pubs = s.pubs := rfl
@[simp] theorem modQueue_clock (k : Nat) (f : Queue → Queue) : (modQueue s k f).clock = s.clock := rfl
@[simp] theorem modQueue_turnSched (k : Nat) (f : Queue → Queue) : (modQueue s k f).turnSched = s.turnSched := rfl
@[simp] theorem modQueue_fresh (k : Nat) (f : Queue → Queue) : (modQueue s k f).fresh = s.fresh := rfl
@[simp] theorem modQueue_free (k : Nat) (f : Queue → Queue) : (modQueue s k f).free = s.free := rfl
@[simp] theorem modQueue_stamp (k : Nat) (f : Queue → Queue) : (modQueue s k f).stamp = s.stamp := rfl
@[simp] theorem modQueue_agenda (k : Nat) (f : Queue → Queue) : (modQueue s k f).agenda = s.agenda := rfl
@[simp] theorem modQueue_subject (k : Nat) (f : Queue → Queue) : (modQueue s k f).subject = s.subject := rfl
@[simp] theorem modQueue_issuing (k : Nat) (f : Queue → Queue) : (modQueue s k f).issuing = s.issuing := rfl

@[simp] theorem modOp_pkg (k : Nat) (f : Op → Op) : (modOp s k f).pkg = s.pkg := rfl
@[simp] theorem modOp_mbx (k : Nat) (f : Op → Op) : (modOp s k f).mbx = s.mbx := rfl
@[simp] theorem modOp_mbxRun (k : Nat) (f : Op → Op) : (modOp s k f).mbxRun = s.mbxRun := rfl
@[simp] theorem modOp_parts (k : Nat) (f : Op → Op) : (modOp s k f).parts = s.parts := rfl
@[simp] theorem modOp_droops (k : Nat) (f : Op → Op) : (modOp s k f).droops = s.droops := rfl
@[simp] theorem modOp_wsphase (k : Nat) (f : Op → Op) : (modOp s k f).wsphase = s.wsphase := rfl
@[simp] theorem modOp_scrub (k : Nat) (f : Op → Op) : (modOp s k f).scrub = s.scrub := rfl
@[simp] theorem modOp_ctxs (k : Nat) (f : Op → Op) : (modOp s k f).ctxs = s.ctxs := rfl
@[simp] theorem modOp_ctxRegs (k : Nat) (f : Op → Op) : (modOp s k f).ctxRegs = s.ctxRegs := rfl
@[simp] theorem modOp_services (k : Nat) (f : Op → Op) : (modOp s k f).services = s.services := rfl
@[simp] theorem modOp_keys (k : Nat) (f : Op → Op) : (modOp s k f).keys = s.keys := rfl
@[simp] theorem modOp_vectors (k : Nat) (f : Op → Op) : (modOp s k f).vectors = s.vectors := rfl
@[simp] theorem modOp_msix (k : Nat) (f : Op → Op) : (modOp s k f).msix = s.msix := rfl
@[simp] theorem modOp_queueRegs (k : Nat) (f : Op → Op) : (modOp s k f).queueRegs = s.queueRegs := rfl
@[simp] theorem modOp_queues (k : Nat) (f : Op → Op) : (modOp s k f).queues = s.queues := rfl
@[simp] theorem modOp_records (k : Nat) (f : Op → Op) : (modOp s k f).records = s.records := rfl
@[simp] theorem modOp_launches (k : Nat) (f : Op → Op) : (modOp s k f).launches = s.launches := rfl
@[simp] theorem modOp_wgs (k : Nat) (f : Op → Op) : (modOp s k f).wgs = s.wgs := rfl
@[simp] theorem modOp_gangs (k : Nat) (f : Op → Op) : (modOp s k f).gangs = s.gangs := rfl
@[simp] theorem modOp_paths (k : Nat) (f : Op → Op) : (modOp s k f).paths = s.paths := rfl
@[simp] theorem modOp_v (k : Nat) (f : Op → Op) : (modOp s k f).v = s.v := rfl
@[simp] theorem modOp_g (k : Nat) (f : Op → Op) : (modOp s k f).g = s.g := rfl
@[simp] theorem modOp_p (k : Nat) (f : Op → Op) : (modOp s k f).p = s.p := rfl
@[simp] theorem modOp_csr (k : Nat) (f : Op → Op) : (modOp s k f).csr = s.csr := rfl
@[simp] theorem modOp_acc (k : Nat) (f : Op → Op) : (modOp s k f).acc = s.acc := rfl
@[simp] theorem modOp_tiles (k : Nat) (f : Op → Op) : (modOp s k f).tiles = s.tiles := rfl
@[simp] theorem modOp_scratch (k : Nat) (f : Op → Op) : (modOp s k f).scratch = s.scratch := rfl
@[simp] theorem modOp_oldScratch (k : Nat) (f : Op → Op) : (modOp s k f).oldScratch = s.oldScratch := rfl
@[simp] theorem modOp_mem (k : Nat) (f : Op → Op) : (modOp s k f).mem = s.mem := rfl
@[simp] theorem modOp_poison (k : Nat) (f : Op → Op) : (modOp s k f).poison = s.poison := rfl
@[simp] theorem modOp_ops (k : Nat) (f : Op → Op) : (modOp s k f).ops = aMod k f s.ops := rfl
@[simp] theorem modOp_l1 (k : Nat) (f : Op → Op) : (modOp s k f).l1 = s.l1 := rfl
@[simp] theorem modOp_lines (k : Nat) (f : Op → Op) : (modOp s k f).lines = s.lines := rfl
@[simp] theorem modOp_snoop (k : Nat) (f : Op → Op) : (modOp s k f).snoop = s.snoop := rfl
@[simp] theorem modOp_regions (k : Nat) (f : Op → Op) : (modOp s k f).regions = s.regions := rfl
@[simp] theorem modOp_cache (k : Nat) (f : Op → Op) : (modOp s k f).cache = s.cache := rfl
@[simp] theorem modOp_ro (k : Nat) (f : Op → Op) : (modOp s k f).ro = s.ro := rfl
@[simp] theorem modOp_roDrops (k : Nat) (f : Op → Op) : (modOp s k f).roDrops = s.roDrops := rfl
@[simp] theorem modOp_nodes (k : Nat) (f : Op → Op) : (modOp s k f).nodes = s.nodes := rfl
@[simp] theorem modOp_tlb (k : Nat) (f : Op → Op) : (modOp s k f).tlb = s.tlb := rfl
@[simp] theorem modOp_ats (k : Nat) (f : Op → Op) : (modOp s k f).ats = s.ats := rfl
@[simp] theorem modOp_hostSent (k : Nat) (f : Op → Op) : (modOp s k f).hostSent = s.hostSent := rfl
@[simp] theorem modOp_invals (k : Nat) (f : Op → Op) : (modOp s k f).invals = s.invals := rfl
@[simp] theorem modOp_invalDone (k : Nat) (f : Op → Op) : (modOp s k f).invalDone = s.invalDone := rfl
@[simp] theorem modOp_icache (k : Nat) (f : Op → Op) : (modOp s k f).icache = s.icache := rfl
@[simp] theorem modOp_beacons (k : Nat) (f : Op → Op) : (modOp s k f).beacons = s.beacons := rfl
@[simp] theorem modOp_cmds (k : Nat) (f : Op → Op) : (modOp s k f).cmds = s.cmds := rfl
@[simp] theorem modOp_targets (k : Nat) (f : Op → Op) : (modOp s k f).targets = s.targets := rfl
@[simp] theorem modOp_frames (k : Nat) (f : Op → Op) : (modOp s k f).frames = s.frames := rfl
@[simp] theorem modOp_passes (k : Nat) (f : Op → Op) : (modOp s k f).passes = s.passes := rfl
@[simp] theorem modOp_peers (k : Nat) (f : Op → Op) : (modOp s k f).peers = s.peers := rfl
@[simp] theorem modOp_far (k : Nat) (f : Op → Op) : (modOp s k f).far = s.far := rfl
@[simp] theorem modOp_pubs (k : Nat) (f : Op → Op) : (modOp s k f).pubs = s.pubs := rfl
@[simp] theorem modOp_clock (k : Nat) (f : Op → Op) : (modOp s k f).clock = s.clock := rfl
@[simp] theorem modOp_turnSched (k : Nat) (f : Op → Op) : (modOp s k f).turnSched = s.turnSched := rfl
@[simp] theorem modOp_fresh (k : Nat) (f : Op → Op) : (modOp s k f).fresh = s.fresh := rfl
@[simp] theorem modOp_free (k : Nat) (f : Op → Op) : (modOp s k f).free = s.free := rfl
@[simp] theorem modOp_stamp (k : Nat) (f : Op → Op) : (modOp s k f).stamp = s.stamp := rfl
@[simp] theorem modOp_agenda (k : Nat) (f : Op → Op) : (modOp s k f).agenda = s.agenda := rfl
@[simp] theorem modOp_subject (k : Nat) (f : Op → Op) : (modOp s k f).subject = s.subject := rfl
@[simp] theorem modOp_issuing (k : Nat) (f : Op → Op) : (modOp s k f).issuing = s.issuing := rfl

@[simp] theorem modPkg_pkg (f : Package → Package) : (modPkg s f).pkg = f s.pkg := rfl
@[simp] theorem modPkg_mbx (f : Package → Package) : (modPkg s f).mbx = s.mbx := rfl
@[simp] theorem modPkg_mbxRun (f : Package → Package) : (modPkg s f).mbxRun = s.mbxRun := rfl
@[simp] theorem modPkg_parts (f : Package → Package) : (modPkg s f).parts = s.parts := rfl
@[simp] theorem modPkg_droops (f : Package → Package) : (modPkg s f).droops = s.droops := rfl
@[simp] theorem modPkg_wsphase (f : Package → Package) : (modPkg s f).wsphase = s.wsphase := rfl
@[simp] theorem modPkg_scrub (f : Package → Package) : (modPkg s f).scrub = s.scrub := rfl
@[simp] theorem modPkg_ctxs (f : Package → Package) : (modPkg s f).ctxs = s.ctxs := rfl
@[simp] theorem modPkg_ctxRegs (f : Package → Package) : (modPkg s f).ctxRegs = s.ctxRegs := rfl
@[simp] theorem modPkg_services (f : Package → Package) : (modPkg s f).services = s.services := rfl
@[simp] theorem modPkg_keys (f : Package → Package) : (modPkg s f).keys = s.keys := rfl
@[simp] theorem modPkg_vectors (f : Package → Package) : (modPkg s f).vectors = s.vectors := rfl
@[simp] theorem modPkg_msix (f : Package → Package) : (modPkg s f).msix = s.msix := rfl
@[simp] theorem modPkg_queueRegs (f : Package → Package) : (modPkg s f).queueRegs = s.queueRegs := rfl
@[simp] theorem modPkg_queues (f : Package → Package) : (modPkg s f).queues = s.queues := rfl
@[simp] theorem modPkg_records (f : Package → Package) : (modPkg s f).records = s.records := rfl
@[simp] theorem modPkg_launches (f : Package → Package) : (modPkg s f).launches = s.launches := rfl
@[simp] theorem modPkg_wgs (f : Package → Package) : (modPkg s f).wgs = s.wgs := rfl
@[simp] theorem modPkg_gangs (f : Package → Package) : (modPkg s f).gangs = s.gangs := rfl
@[simp] theorem modPkg_paths (f : Package → Package) : (modPkg s f).paths = s.paths := rfl
@[simp] theorem modPkg_v (f : Package → Package) : (modPkg s f).v = s.v := rfl
@[simp] theorem modPkg_g (f : Package → Package) : (modPkg s f).g = s.g := rfl
@[simp] theorem modPkg_p (f : Package → Package) : (modPkg s f).p = s.p := rfl
@[simp] theorem modPkg_csr (f : Package → Package) : (modPkg s f).csr = s.csr := rfl
@[simp] theorem modPkg_acc (f : Package → Package) : (modPkg s f).acc = s.acc := rfl
@[simp] theorem modPkg_tiles (f : Package → Package) : (modPkg s f).tiles = s.tiles := rfl
@[simp] theorem modPkg_scratch (f : Package → Package) : (modPkg s f).scratch = s.scratch := rfl
@[simp] theorem modPkg_oldScratch (f : Package → Package) : (modPkg s f).oldScratch = s.oldScratch := rfl
@[simp] theorem modPkg_mem (f : Package → Package) : (modPkg s f).mem = s.mem := rfl
@[simp] theorem modPkg_poison (f : Package → Package) : (modPkg s f).poison = s.poison := rfl
@[simp] theorem modPkg_ops (f : Package → Package) : (modPkg s f).ops = s.ops := rfl
@[simp] theorem modPkg_l1 (f : Package → Package) : (modPkg s f).l1 = s.l1 := rfl
@[simp] theorem modPkg_lines (f : Package → Package) : (modPkg s f).lines = s.lines := rfl
@[simp] theorem modPkg_snoop (f : Package → Package) : (modPkg s f).snoop = s.snoop := rfl
@[simp] theorem modPkg_regions (f : Package → Package) : (modPkg s f).regions = s.regions := rfl
@[simp] theorem modPkg_cache (f : Package → Package) : (modPkg s f).cache = s.cache := rfl
@[simp] theorem modPkg_ro (f : Package → Package) : (modPkg s f).ro = s.ro := rfl
@[simp] theorem modPkg_roDrops (f : Package → Package) : (modPkg s f).roDrops = s.roDrops := rfl
@[simp] theorem modPkg_nodes (f : Package → Package) : (modPkg s f).nodes = s.nodes := rfl
@[simp] theorem modPkg_tlb (f : Package → Package) : (modPkg s f).tlb = s.tlb := rfl
@[simp] theorem modPkg_ats (f : Package → Package) : (modPkg s f).ats = s.ats := rfl
@[simp] theorem modPkg_hostSent (f : Package → Package) : (modPkg s f).hostSent = s.hostSent := rfl
@[simp] theorem modPkg_invals (f : Package → Package) : (modPkg s f).invals = s.invals := rfl
@[simp] theorem modPkg_invalDone (f : Package → Package) : (modPkg s f).invalDone = s.invalDone := rfl
@[simp] theorem modPkg_icache (f : Package → Package) : (modPkg s f).icache = s.icache := rfl
@[simp] theorem modPkg_beacons (f : Package → Package) : (modPkg s f).beacons = s.beacons := rfl
@[simp] theorem modPkg_cmds (f : Package → Package) : (modPkg s f).cmds = s.cmds := rfl
@[simp] theorem modPkg_targets (f : Package → Package) : (modPkg s f).targets = s.targets := rfl
@[simp] theorem modPkg_frames (f : Package → Package) : (modPkg s f).frames = s.frames := rfl
@[simp] theorem modPkg_passes (f : Package → Package) : (modPkg s f).passes = s.passes := rfl
@[simp] theorem modPkg_peers (f : Package → Package) : (modPkg s f).peers = s.peers := rfl
@[simp] theorem modPkg_far (f : Package → Package) : (modPkg s f).far = s.far := rfl
@[simp] theorem modPkg_pubs (f : Package → Package) : (modPkg s f).pubs = s.pubs := rfl
@[simp] theorem modPkg_clock (f : Package → Package) : (modPkg s f).clock = s.clock := rfl
@[simp] theorem modPkg_turnSched (f : Package → Package) : (modPkg s f).turnSched = s.turnSched := rfl
@[simp] theorem modPkg_fresh (f : Package → Package) : (modPkg s f).fresh = s.fresh := rfl
@[simp] theorem modPkg_free (f : Package → Package) : (modPkg s f).free = s.free := rfl
@[simp] theorem modPkg_stamp (f : Package → Package) : (modPkg s f).stamp = s.stamp := rfl
@[simp] theorem modPkg_agenda (f : Package → Package) : (modPkg s f).agenda = s.agenda := rfl
@[simp] theorem modPkg_subject (f : Package → Package) : (modPkg s f).subject = s.subject := rfl
@[simp] theorem modPkg_issuing (f : Package → Package) : (modPkg s f).issuing = s.issuing := rfl

@[simp] theorem setCtxReg_pkg (c i x : Nat) : (setCtxReg s c i x).pkg = s.pkg := rfl
@[simp] theorem setCtxReg_mbx (c i x : Nat) : (setCtxReg s c i x).mbx = s.mbx := rfl
@[simp] theorem setCtxReg_mbxRun (c i x : Nat) : (setCtxReg s c i x).mbxRun = s.mbxRun := rfl
@[simp] theorem setCtxReg_parts (c i x : Nat) : (setCtxReg s c i x).parts = s.parts := rfl
@[simp] theorem setCtxReg_droops (c i x : Nat) : (setCtxReg s c i x).droops = s.droops := rfl
@[simp] theorem setCtxReg_wsphase (c i x : Nat) : (setCtxReg s c i x).wsphase = s.wsphase := rfl
@[simp] theorem setCtxReg_scrub (c i x : Nat) : (setCtxReg s c i x).scrub = s.scrub := rfl
@[simp] theorem setCtxReg_ctxs (c i x : Nat) : (setCtxReg s c i x).ctxs = s.ctxs := rfl
@[simp] theorem setCtxReg_ctxRegs (c i x : Nat) : (setCtxReg s c i x).ctxRegs = bSet s.ctxRegs (c * 8 + i) x := rfl
@[simp] theorem setCtxReg_services (c i x : Nat) : (setCtxReg s c i x).services = s.services := rfl
@[simp] theorem setCtxReg_keys (c i x : Nat) : (setCtxReg s c i x).keys = s.keys := rfl
@[simp] theorem setCtxReg_vectors (c i x : Nat) : (setCtxReg s c i x).vectors = s.vectors := rfl
@[simp] theorem setCtxReg_msix (c i x : Nat) : (setCtxReg s c i x).msix = s.msix := rfl
@[simp] theorem setCtxReg_queueRegs (c i x : Nat) : (setCtxReg s c i x).queueRegs = s.queueRegs := rfl
@[simp] theorem setCtxReg_queues (c i x : Nat) : (setCtxReg s c i x).queues = s.queues := rfl
@[simp] theorem setCtxReg_records (c i x : Nat) : (setCtxReg s c i x).records = s.records := rfl
@[simp] theorem setCtxReg_launches (c i x : Nat) : (setCtxReg s c i x).launches = s.launches := rfl
@[simp] theorem setCtxReg_wgs (c i x : Nat) : (setCtxReg s c i x).wgs = s.wgs := rfl
@[simp] theorem setCtxReg_gangs (c i x : Nat) : (setCtxReg s c i x).gangs = s.gangs := rfl
@[simp] theorem setCtxReg_paths (c i x : Nat) : (setCtxReg s c i x).paths = s.paths := rfl
@[simp] theorem setCtxReg_v (c i x : Nat) : (setCtxReg s c i x).v = s.v := rfl
@[simp] theorem setCtxReg_g (c i x : Nat) : (setCtxReg s c i x).g = s.g := rfl
@[simp] theorem setCtxReg_p (c i x : Nat) : (setCtxReg s c i x).p = s.p := rfl
@[simp] theorem setCtxReg_csr (c i x : Nat) : (setCtxReg s c i x).csr = s.csr := rfl
@[simp] theorem setCtxReg_acc (c i x : Nat) : (setCtxReg s c i x).acc = s.acc := rfl
@[simp] theorem setCtxReg_tiles (c i x : Nat) : (setCtxReg s c i x).tiles = s.tiles := rfl
@[simp] theorem setCtxReg_scratch (c i x : Nat) : (setCtxReg s c i x).scratch = s.scratch := rfl
@[simp] theorem setCtxReg_oldScratch (c i x : Nat) : (setCtxReg s c i x).oldScratch = s.oldScratch := rfl
@[simp] theorem setCtxReg_mem (c i x : Nat) : (setCtxReg s c i x).mem = s.mem := rfl
@[simp] theorem setCtxReg_poison (c i x : Nat) : (setCtxReg s c i x).poison = s.poison := rfl
@[simp] theorem setCtxReg_ops (c i x : Nat) : (setCtxReg s c i x).ops = s.ops := rfl
@[simp] theorem setCtxReg_l1 (c i x : Nat) : (setCtxReg s c i x).l1 = s.l1 := rfl
@[simp] theorem setCtxReg_lines (c i x : Nat) : (setCtxReg s c i x).lines = s.lines := rfl
@[simp] theorem setCtxReg_snoop (c i x : Nat) : (setCtxReg s c i x).snoop = s.snoop := rfl
@[simp] theorem setCtxReg_regions (c i x : Nat) : (setCtxReg s c i x).regions = s.regions := rfl
@[simp] theorem setCtxReg_cache (c i x : Nat) : (setCtxReg s c i x).cache = s.cache := rfl
@[simp] theorem setCtxReg_ro (c i x : Nat) : (setCtxReg s c i x).ro = s.ro := rfl
@[simp] theorem setCtxReg_roDrops (c i x : Nat) : (setCtxReg s c i x).roDrops = s.roDrops := rfl
@[simp] theorem setCtxReg_nodes (c i x : Nat) : (setCtxReg s c i x).nodes = s.nodes := rfl
@[simp] theorem setCtxReg_tlb (c i x : Nat) : (setCtxReg s c i x).tlb = s.tlb := rfl
@[simp] theorem setCtxReg_ats (c i x : Nat) : (setCtxReg s c i x).ats = s.ats := rfl
@[simp] theorem setCtxReg_hostSent (c i x : Nat) : (setCtxReg s c i x).hostSent = s.hostSent := rfl
@[simp] theorem setCtxReg_invals (c i x : Nat) : (setCtxReg s c i x).invals = s.invals := rfl
@[simp] theorem setCtxReg_invalDone (c i x : Nat) : (setCtxReg s c i x).invalDone = s.invalDone := rfl
@[simp] theorem setCtxReg_icache (c i x : Nat) : (setCtxReg s c i x).icache = s.icache := rfl
@[simp] theorem setCtxReg_beacons (c i x : Nat) : (setCtxReg s c i x).beacons = s.beacons := rfl
@[simp] theorem setCtxReg_cmds (c i x : Nat) : (setCtxReg s c i x).cmds = s.cmds := rfl
@[simp] theorem setCtxReg_targets (c i x : Nat) : (setCtxReg s c i x).targets = s.targets := rfl
@[simp] theorem setCtxReg_frames (c i x : Nat) : (setCtxReg s c i x).frames = s.frames := rfl
@[simp] theorem setCtxReg_passes (c i x : Nat) : (setCtxReg s c i x).passes = s.passes := rfl
@[simp] theorem setCtxReg_peers (c i x : Nat) : (setCtxReg s c i x).peers = s.peers := rfl
@[simp] theorem setCtxReg_far (c i x : Nat) : (setCtxReg s c i x).far = s.far := rfl
@[simp] theorem setCtxReg_pubs (c i x : Nat) : (setCtxReg s c i x).pubs = s.pubs := rfl
@[simp] theorem setCtxReg_clock (c i x : Nat) : (setCtxReg s c i x).clock = s.clock := rfl
@[simp] theorem setCtxReg_turnSched (c i x : Nat) : (setCtxReg s c i x).turnSched = s.turnSched := rfl
@[simp] theorem setCtxReg_fresh (c i x : Nat) : (setCtxReg s c i x).fresh = s.fresh := rfl
@[simp] theorem setCtxReg_free (c i x : Nat) : (setCtxReg s c i x).free = s.free := rfl
@[simp] theorem setCtxReg_stamp (c i x : Nat) : (setCtxReg s c i x).stamp = s.stamp := rfl
@[simp] theorem setCtxReg_agenda (c i x : Nat) : (setCtxReg s c i x).agenda = s.agenda := rfl
@[simp] theorem setCtxReg_subject (c i x : Nat) : (setCtxReg s c i x).subject = s.subject := rfl
@[simp] theorem setCtxReg_issuing (c i x : Nat) : (setCtxReg s c i x).issuing = s.issuing := rfl

@[simp] theorem setQReg_pkg (k i x : Nat) : (setQReg s k i x).pkg = s.pkg := rfl
@[simp] theorem setQReg_mbx (k i x : Nat) : (setQReg s k i x).mbx = s.mbx := rfl
@[simp] theorem setQReg_mbxRun (k i x : Nat) : (setQReg s k i x).mbxRun = s.mbxRun := rfl
@[simp] theorem setQReg_parts (k i x : Nat) : (setQReg s k i x).parts = s.parts := rfl
@[simp] theorem setQReg_droops (k i x : Nat) : (setQReg s k i x).droops = s.droops := rfl
@[simp] theorem setQReg_wsphase (k i x : Nat) : (setQReg s k i x).wsphase = s.wsphase := rfl
@[simp] theorem setQReg_scrub (k i x : Nat) : (setQReg s k i x).scrub = s.scrub := rfl
@[simp] theorem setQReg_ctxs (k i x : Nat) : (setQReg s k i x).ctxs = s.ctxs := rfl
@[simp] theorem setQReg_ctxRegs (k i x : Nat) : (setQReg s k i x).ctxRegs = s.ctxRegs := rfl
@[simp] theorem setQReg_services (k i x : Nat) : (setQReg s k i x).services = s.services := rfl
@[simp] theorem setQReg_keys (k i x : Nat) : (setQReg s k i x).keys = s.keys := rfl
@[simp] theorem setQReg_vectors (k i x : Nat) : (setQReg s k i x).vectors = s.vectors := rfl
@[simp] theorem setQReg_msix (k i x : Nat) : (setQReg s k i x).msix = s.msix := rfl
@[simp] theorem setQReg_queueRegs (k i x : Nat) : (setQReg s k i x).queueRegs = bSet s.queueRegs (k * 8 + i) x := rfl
@[simp] theorem setQReg_queues (k i x : Nat) : (setQReg s k i x).queues = s.queues := rfl
@[simp] theorem setQReg_records (k i x : Nat) : (setQReg s k i x).records = s.records := rfl
@[simp] theorem setQReg_launches (k i x : Nat) : (setQReg s k i x).launches = s.launches := rfl
@[simp] theorem setQReg_wgs (k i x : Nat) : (setQReg s k i x).wgs = s.wgs := rfl
@[simp] theorem setQReg_gangs (k i x : Nat) : (setQReg s k i x).gangs = s.gangs := rfl
@[simp] theorem setQReg_paths (k i x : Nat) : (setQReg s k i x).paths = s.paths := rfl
@[simp] theorem setQReg_v (k i x : Nat) : (setQReg s k i x).v = s.v := rfl
@[simp] theorem setQReg_g (k i x : Nat) : (setQReg s k i x).g = s.g := rfl
@[simp] theorem setQReg_p (k i x : Nat) : (setQReg s k i x).p = s.p := rfl
@[simp] theorem setQReg_csr (k i x : Nat) : (setQReg s k i x).csr = s.csr := rfl
@[simp] theorem setQReg_acc (k i x : Nat) : (setQReg s k i x).acc = s.acc := rfl
@[simp] theorem setQReg_tiles (k i x : Nat) : (setQReg s k i x).tiles = s.tiles := rfl
@[simp] theorem setQReg_scratch (k i x : Nat) : (setQReg s k i x).scratch = s.scratch := rfl
@[simp] theorem setQReg_oldScratch (k i x : Nat) : (setQReg s k i x).oldScratch = s.oldScratch := rfl
@[simp] theorem setQReg_mem (k i x : Nat) : (setQReg s k i x).mem = s.mem := rfl
@[simp] theorem setQReg_poison (k i x : Nat) : (setQReg s k i x).poison = s.poison := rfl
@[simp] theorem setQReg_ops (k i x : Nat) : (setQReg s k i x).ops = s.ops := rfl
@[simp] theorem setQReg_l1 (k i x : Nat) : (setQReg s k i x).l1 = s.l1 := rfl
@[simp] theorem setQReg_lines (k i x : Nat) : (setQReg s k i x).lines = s.lines := rfl
@[simp] theorem setQReg_snoop (k i x : Nat) : (setQReg s k i x).snoop = s.snoop := rfl
@[simp] theorem setQReg_regions (k i x : Nat) : (setQReg s k i x).regions = s.regions := rfl
@[simp] theorem setQReg_cache (k i x : Nat) : (setQReg s k i x).cache = s.cache := rfl
@[simp] theorem setQReg_ro (k i x : Nat) : (setQReg s k i x).ro = s.ro := rfl
@[simp] theorem setQReg_roDrops (k i x : Nat) : (setQReg s k i x).roDrops = s.roDrops := rfl
@[simp] theorem setQReg_nodes (k i x : Nat) : (setQReg s k i x).nodes = s.nodes := rfl
@[simp] theorem setQReg_tlb (k i x : Nat) : (setQReg s k i x).tlb = s.tlb := rfl
@[simp] theorem setQReg_ats (k i x : Nat) : (setQReg s k i x).ats = s.ats := rfl
@[simp] theorem setQReg_hostSent (k i x : Nat) : (setQReg s k i x).hostSent = s.hostSent := rfl
@[simp] theorem setQReg_invals (k i x : Nat) : (setQReg s k i x).invals = s.invals := rfl
@[simp] theorem setQReg_invalDone (k i x : Nat) : (setQReg s k i x).invalDone = s.invalDone := rfl
@[simp] theorem setQReg_icache (k i x : Nat) : (setQReg s k i x).icache = s.icache := rfl
@[simp] theorem setQReg_beacons (k i x : Nat) : (setQReg s k i x).beacons = s.beacons := rfl
@[simp] theorem setQReg_cmds (k i x : Nat) : (setQReg s k i x).cmds = s.cmds := rfl
@[simp] theorem setQReg_targets (k i x : Nat) : (setQReg s k i x).targets = s.targets := rfl
@[simp] theorem setQReg_frames (k i x : Nat) : (setQReg s k i x).frames = s.frames := rfl
@[simp] theorem setQReg_passes (k i x : Nat) : (setQReg s k i x).passes = s.passes := rfl
@[simp] theorem setQReg_peers (k i x : Nat) : (setQReg s k i x).peers = s.peers := rfl
@[simp] theorem setQReg_far (k i x : Nat) : (setQReg s k i x).far = s.far := rfl
@[simp] theorem setQReg_pubs (k i x : Nat) : (setQReg s k i x).pubs = s.pubs := rfl
@[simp] theorem setQReg_clock (k i x : Nat) : (setQReg s k i x).clock = s.clock := rfl
@[simp] theorem setQReg_turnSched (k i x : Nat) : (setQReg s k i x).turnSched = s.turnSched := rfl
@[simp] theorem setQReg_fresh (k i x : Nat) : (setQReg s k i x).fresh = s.fresh := rfl
@[simp] theorem setQReg_free (k i x : Nat) : (setQReg s k i x).free = s.free := rfl
@[simp] theorem setQReg_stamp (k i x : Nat) : (setQReg s k i x).stamp = s.stamp := rfl
@[simp] theorem setQReg_agenda (k i x : Nat) : (setQReg s k i x).agenda = s.agenda := rfl
@[simp] theorem setQReg_subject (k i x : Nat) : (setQReg s k i x).subject = s.subject := rfl
@[simp] theorem setQReg_issuing (k i x : Nat) : (setQReg s k i x).issuing = s.issuing := rfl

@[simp] theorem setQueue_pkg (k : Nat) (q : Queue) : (setQueue s k q).pkg = s.pkg := rfl
@[simp] theorem setQueue_mbx (k : Nat) (q : Queue) : (setQueue s k q).mbx = s.mbx := rfl
@[simp] theorem setQueue_mbxRun (k : Nat) (q : Queue) : (setQueue s k q).mbxRun = s.mbxRun := rfl
@[simp] theorem setQueue_parts (k : Nat) (q : Queue) : (setQueue s k q).parts = s.parts := rfl
@[simp] theorem setQueue_droops (k : Nat) (q : Queue) : (setQueue s k q).droops = s.droops := rfl
@[simp] theorem setQueue_wsphase (k : Nat) (q : Queue) : (setQueue s k q).wsphase = s.wsphase := rfl
@[simp] theorem setQueue_scrub (k : Nat) (q : Queue) : (setQueue s k q).scrub = s.scrub := rfl
@[simp] theorem setQueue_ctxs (k : Nat) (q : Queue) : (setQueue s k q).ctxs = s.ctxs := rfl
@[simp] theorem setQueue_ctxRegs (k : Nat) (q : Queue) : (setQueue s k q).ctxRegs = s.ctxRegs := rfl
@[simp] theorem setQueue_services (k : Nat) (q : Queue) : (setQueue s k q).services = s.services := rfl
@[simp] theorem setQueue_keys (k : Nat) (q : Queue) : (setQueue s k q).keys = s.keys := rfl
@[simp] theorem setQueue_vectors (k : Nat) (q : Queue) : (setQueue s k q).vectors = s.vectors := rfl
@[simp] theorem setQueue_msix (k : Nat) (q : Queue) : (setQueue s k q).msix = s.msix := rfl
@[simp] theorem setQueue_queueRegs (k : Nat) (q : Queue) : (setQueue s k q).queueRegs = s.queueRegs := rfl
@[simp] theorem setQueue_queues (k : Nat) (q : Queue) : (setQueue s k q).queues = aSet k q s.queues := rfl
@[simp] theorem setQueue_records (k : Nat) (q : Queue) : (setQueue s k q).records = s.records := rfl
@[simp] theorem setQueue_launches (k : Nat) (q : Queue) : (setQueue s k q).launches = s.launches := rfl
@[simp] theorem setQueue_wgs (k : Nat) (q : Queue) : (setQueue s k q).wgs = s.wgs := rfl
@[simp] theorem setQueue_gangs (k : Nat) (q : Queue) : (setQueue s k q).gangs = s.gangs := rfl
@[simp] theorem setQueue_paths (k : Nat) (q : Queue) : (setQueue s k q).paths = s.paths := rfl
@[simp] theorem setQueue_v (k : Nat) (q : Queue) : (setQueue s k q).v = s.v := rfl
@[simp] theorem setQueue_g (k : Nat) (q : Queue) : (setQueue s k q).g = s.g := rfl
@[simp] theorem setQueue_p (k : Nat) (q : Queue) : (setQueue s k q).p = s.p := rfl
@[simp] theorem setQueue_csr (k : Nat) (q : Queue) : (setQueue s k q).csr = s.csr := rfl
@[simp] theorem setQueue_acc (k : Nat) (q : Queue) : (setQueue s k q).acc = s.acc := rfl
@[simp] theorem setQueue_tiles (k : Nat) (q : Queue) : (setQueue s k q).tiles = s.tiles := rfl
@[simp] theorem setQueue_scratch (k : Nat) (q : Queue) : (setQueue s k q).scratch = s.scratch := rfl
@[simp] theorem setQueue_oldScratch (k : Nat) (q : Queue) : (setQueue s k q).oldScratch = s.oldScratch := rfl
@[simp] theorem setQueue_mem (k : Nat) (q : Queue) : (setQueue s k q).mem = s.mem := rfl
@[simp] theorem setQueue_poison (k : Nat) (q : Queue) : (setQueue s k q).poison = s.poison := rfl
@[simp] theorem setQueue_ops (k : Nat) (q : Queue) : (setQueue s k q).ops = s.ops := rfl
@[simp] theorem setQueue_l1 (k : Nat) (q : Queue) : (setQueue s k q).l1 = s.l1 := rfl
@[simp] theorem setQueue_lines (k : Nat) (q : Queue) : (setQueue s k q).lines = s.lines := rfl
@[simp] theorem setQueue_snoop (k : Nat) (q : Queue) : (setQueue s k q).snoop = s.snoop := rfl
@[simp] theorem setQueue_regions (k : Nat) (q : Queue) : (setQueue s k q).regions = s.regions := rfl
@[simp] theorem setQueue_cache (k : Nat) (q : Queue) : (setQueue s k q).cache = s.cache := rfl
@[simp] theorem setQueue_ro (k : Nat) (q : Queue) : (setQueue s k q).ro = s.ro := rfl
@[simp] theorem setQueue_roDrops (k : Nat) (q : Queue) : (setQueue s k q).roDrops = s.roDrops := rfl
@[simp] theorem setQueue_nodes (k : Nat) (q : Queue) : (setQueue s k q).nodes = s.nodes := rfl
@[simp] theorem setQueue_tlb (k : Nat) (q : Queue) : (setQueue s k q).tlb = s.tlb := rfl
@[simp] theorem setQueue_ats (k : Nat) (q : Queue) : (setQueue s k q).ats = s.ats := rfl
@[simp] theorem setQueue_hostSent (k : Nat) (q : Queue) : (setQueue s k q).hostSent = s.hostSent := rfl
@[simp] theorem setQueue_invals (k : Nat) (q : Queue) : (setQueue s k q).invals = s.invals := rfl
@[simp] theorem setQueue_invalDone (k : Nat) (q : Queue) : (setQueue s k q).invalDone = s.invalDone := rfl
@[simp] theorem setQueue_icache (k : Nat) (q : Queue) : (setQueue s k q).icache = s.icache := rfl
@[simp] theorem setQueue_beacons (k : Nat) (q : Queue) : (setQueue s k q).beacons = s.beacons := rfl
@[simp] theorem setQueue_cmds (k : Nat) (q : Queue) : (setQueue s k q).cmds = s.cmds := rfl
@[simp] theorem setQueue_targets (k : Nat) (q : Queue) : (setQueue s k q).targets = s.targets := rfl
@[simp] theorem setQueue_frames (k : Nat) (q : Queue) : (setQueue s k q).frames = s.frames := rfl
@[simp] theorem setQueue_passes (k : Nat) (q : Queue) : (setQueue s k q).passes = s.passes := rfl
@[simp] theorem setQueue_peers (k : Nat) (q : Queue) : (setQueue s k q).peers = s.peers := rfl
@[simp] theorem setQueue_far (k : Nat) (q : Queue) : (setQueue s k q).far = s.far := rfl
@[simp] theorem setQueue_pubs (k : Nat) (q : Queue) : (setQueue s k q).pubs = s.pubs := rfl
@[simp] theorem setQueue_clock (k : Nat) (q : Queue) : (setQueue s k q).clock = s.clock := rfl
@[simp] theorem setQueue_turnSched (k : Nat) (q : Queue) : (setQueue s k q).turnSched = s.turnSched := rfl
@[simp] theorem setQueue_fresh (k : Nat) (q : Queue) : (setQueue s k q).fresh = s.fresh := rfl
@[simp] theorem setQueue_free (k : Nat) (q : Queue) : (setQueue s k q).free = s.free := rfl
@[simp] theorem setQueue_stamp (k : Nat) (q : Queue) : (setQueue s k q).stamp = s.stamp := rfl
@[simp] theorem setQueue_agenda (k : Nat) (q : Queue) : (setQueue s k q).agenda = s.agenda := rfl
@[simp] theorem setQueue_subject (k : Nat) (q : Queue) : (setQueue s k q).subject = s.subject := rfl
@[simp] theorem setQueue_issuing (k : Nat) (q : Queue) : (setQueue s k q).issuing = s.issuing := rfl

@[simp] theorem setMb_pkg (fn r x : Nat) : (setMb s fn r x).pkg = s.pkg := rfl
@[simp] theorem setMb_mbx (fn r x : Nat) : (setMb s fn r x).mbx = bSet s.mbx (fn * 64 + r) x := rfl
@[simp] theorem setMb_mbxRun (fn r x : Nat) : (setMb s fn r x).mbxRun = s.mbxRun := rfl
@[simp] theorem setMb_parts (fn r x : Nat) : (setMb s fn r x).parts = s.parts := rfl
@[simp] theorem setMb_droops (fn r x : Nat) : (setMb s fn r x).droops = s.droops := rfl
@[simp] theorem setMb_wsphase (fn r x : Nat) : (setMb s fn r x).wsphase = s.wsphase := rfl
@[simp] theorem setMb_scrub (fn r x : Nat) : (setMb s fn r x).scrub = s.scrub := rfl
@[simp] theorem setMb_ctxs (fn r x : Nat) : (setMb s fn r x).ctxs = s.ctxs := rfl
@[simp] theorem setMb_ctxRegs (fn r x : Nat) : (setMb s fn r x).ctxRegs = s.ctxRegs := rfl
@[simp] theorem setMb_services (fn r x : Nat) : (setMb s fn r x).services = s.services := rfl
@[simp] theorem setMb_keys (fn r x : Nat) : (setMb s fn r x).keys = s.keys := rfl
@[simp] theorem setMb_vectors (fn r x : Nat) : (setMb s fn r x).vectors = s.vectors := rfl
@[simp] theorem setMb_msix (fn r x : Nat) : (setMb s fn r x).msix = s.msix := rfl
@[simp] theorem setMb_queueRegs (fn r x : Nat) : (setMb s fn r x).queueRegs = s.queueRegs := rfl
@[simp] theorem setMb_queues (fn r x : Nat) : (setMb s fn r x).queues = s.queues := rfl
@[simp] theorem setMb_records (fn r x : Nat) : (setMb s fn r x).records = s.records := rfl
@[simp] theorem setMb_launches (fn r x : Nat) : (setMb s fn r x).launches = s.launches := rfl
@[simp] theorem setMb_wgs (fn r x : Nat) : (setMb s fn r x).wgs = s.wgs := rfl
@[simp] theorem setMb_gangs (fn r x : Nat) : (setMb s fn r x).gangs = s.gangs := rfl
@[simp] theorem setMb_paths (fn r x : Nat) : (setMb s fn r x).paths = s.paths := rfl
@[simp] theorem setMb_v (fn r x : Nat) : (setMb s fn r x).v = s.v := rfl
@[simp] theorem setMb_g (fn r x : Nat) : (setMb s fn r x).g = s.g := rfl
@[simp] theorem setMb_p (fn r x : Nat) : (setMb s fn r x).p = s.p := rfl
@[simp] theorem setMb_csr (fn r x : Nat) : (setMb s fn r x).csr = s.csr := rfl
@[simp] theorem setMb_acc (fn r x : Nat) : (setMb s fn r x).acc = s.acc := rfl
@[simp] theorem setMb_tiles (fn r x : Nat) : (setMb s fn r x).tiles = s.tiles := rfl
@[simp] theorem setMb_scratch (fn r x : Nat) : (setMb s fn r x).scratch = s.scratch := rfl
@[simp] theorem setMb_oldScratch (fn r x : Nat) : (setMb s fn r x).oldScratch = s.oldScratch := rfl
@[simp] theorem setMb_mem (fn r x : Nat) : (setMb s fn r x).mem = s.mem := rfl
@[simp] theorem setMb_poison (fn r x : Nat) : (setMb s fn r x).poison = s.poison := rfl
@[simp] theorem setMb_ops (fn r x : Nat) : (setMb s fn r x).ops = s.ops := rfl
@[simp] theorem setMb_l1 (fn r x : Nat) : (setMb s fn r x).l1 = s.l1 := rfl
@[simp] theorem setMb_lines (fn r x : Nat) : (setMb s fn r x).lines = s.lines := rfl
@[simp] theorem setMb_snoop (fn r x : Nat) : (setMb s fn r x).snoop = s.snoop := rfl
@[simp] theorem setMb_regions (fn r x : Nat) : (setMb s fn r x).regions = s.regions := rfl
@[simp] theorem setMb_cache (fn r x : Nat) : (setMb s fn r x).cache = s.cache := rfl
@[simp] theorem setMb_ro (fn r x : Nat) : (setMb s fn r x).ro = s.ro := rfl
@[simp] theorem setMb_roDrops (fn r x : Nat) : (setMb s fn r x).roDrops = s.roDrops := rfl
@[simp] theorem setMb_nodes (fn r x : Nat) : (setMb s fn r x).nodes = s.nodes := rfl
@[simp] theorem setMb_tlb (fn r x : Nat) : (setMb s fn r x).tlb = s.tlb := rfl
@[simp] theorem setMb_ats (fn r x : Nat) : (setMb s fn r x).ats = s.ats := rfl
@[simp] theorem setMb_hostSent (fn r x : Nat) : (setMb s fn r x).hostSent = s.hostSent := rfl
@[simp] theorem setMb_invals (fn r x : Nat) : (setMb s fn r x).invals = s.invals := rfl
@[simp] theorem setMb_invalDone (fn r x : Nat) : (setMb s fn r x).invalDone = s.invalDone := rfl
@[simp] theorem setMb_icache (fn r x : Nat) : (setMb s fn r x).icache = s.icache := rfl
@[simp] theorem setMb_beacons (fn r x : Nat) : (setMb s fn r x).beacons = s.beacons := rfl
@[simp] theorem setMb_cmds (fn r x : Nat) : (setMb s fn r x).cmds = s.cmds := rfl
@[simp] theorem setMb_targets (fn r x : Nat) : (setMb s fn r x).targets = s.targets := rfl
@[simp] theorem setMb_frames (fn r x : Nat) : (setMb s fn r x).frames = s.frames := rfl
@[simp] theorem setMb_passes (fn r x : Nat) : (setMb s fn r x).passes = s.passes := rfl
@[simp] theorem setMb_peers (fn r x : Nat) : (setMb s fn r x).peers = s.peers := rfl
@[simp] theorem setMb_far (fn r x : Nat) : (setMb s fn r x).far = s.far := rfl
@[simp] theorem setMb_pubs (fn r x : Nat) : (setMb s fn r x).pubs = s.pubs := rfl
@[simp] theorem setMb_clock (fn r x : Nat) : (setMb s fn r x).clock = s.clock := rfl
@[simp] theorem setMb_turnSched (fn r x : Nat) : (setMb s fn r x).turnSched = s.turnSched := rfl
@[simp] theorem setMb_fresh (fn r x : Nat) : (setMb s fn r x).fresh = s.fresh := rfl
@[simp] theorem setMb_free (fn r x : Nat) : (setMb s fn r x).free = s.free := rfl
@[simp] theorem setMb_stamp (fn r x : Nat) : (setMb s fn r x).stamp = s.stamp := rfl
@[simp] theorem setMb_agenda (fn r x : Nat) : (setMb s fn r x).agenda = s.agenda := rfl
@[simp] theorem setMb_subject (fn r x : Nat) : (setMb s fn r x).subject = s.subject := rfl
@[simp] theorem setMb_issuing (fn r x : Nat) : (setMb s fn r x).issuing = s.issuing := rfl

@[simp] theorem setTile_pkg (wg t : Nat) (x : Tile) : (setTile s wg t x).pkg = s.pkg := rfl
@[simp] theorem setTile_mbx (wg t : Nat) (x : Tile) : (setTile s wg t x).mbx = s.mbx := rfl
@[simp] theorem setTile_mbxRun (wg t : Nat) (x : Tile) : (setTile s wg t x).mbxRun = s.mbxRun := rfl
@[simp] theorem setTile_parts (wg t : Nat) (x : Tile) : (setTile s wg t x).parts = s.parts := rfl
@[simp] theorem setTile_droops (wg t : Nat) (x : Tile) : (setTile s wg t x).droops = s.droops := rfl
@[simp] theorem setTile_wsphase (wg t : Nat) (x : Tile) : (setTile s wg t x).wsphase = s.wsphase := rfl
@[simp] theorem setTile_scrub (wg t : Nat) (x : Tile) : (setTile s wg t x).scrub = s.scrub := rfl
@[simp] theorem setTile_ctxs (wg t : Nat) (x : Tile) : (setTile s wg t x).ctxs = s.ctxs := rfl
@[simp] theorem setTile_ctxRegs (wg t : Nat) (x : Tile) : (setTile s wg t x).ctxRegs = s.ctxRegs := rfl
@[simp] theorem setTile_services (wg t : Nat) (x : Tile) : (setTile s wg t x).services = s.services := rfl
@[simp] theorem setTile_keys (wg t : Nat) (x : Tile) : (setTile s wg t x).keys = s.keys := rfl
@[simp] theorem setTile_vectors (wg t : Nat) (x : Tile) : (setTile s wg t x).vectors = s.vectors := rfl
@[simp] theorem setTile_msix (wg t : Nat) (x : Tile) : (setTile s wg t x).msix = s.msix := rfl
@[simp] theorem setTile_queueRegs (wg t : Nat) (x : Tile) : (setTile s wg t x).queueRegs = s.queueRegs := rfl
@[simp] theorem setTile_queues (wg t : Nat) (x : Tile) : (setTile s wg t x).queues = s.queues := rfl
@[simp] theorem setTile_records (wg t : Nat) (x : Tile) : (setTile s wg t x).records = s.records := rfl
@[simp] theorem setTile_launches (wg t : Nat) (x : Tile) : (setTile s wg t x).launches = s.launches := rfl
@[simp] theorem setTile_wgs (wg t : Nat) (x : Tile) : (setTile s wg t x).wgs = s.wgs := rfl
@[simp] theorem setTile_gangs (wg t : Nat) (x : Tile) : (setTile s wg t x).gangs = s.gangs := rfl
@[simp] theorem setTile_paths (wg t : Nat) (x : Tile) : (setTile s wg t x).paths = s.paths := rfl
@[simp] theorem setTile_v (wg t : Nat) (x : Tile) : (setTile s wg t x).v = s.v := rfl
@[simp] theorem setTile_g (wg t : Nat) (x : Tile) : (setTile s wg t x).g = s.g := rfl
@[simp] theorem setTile_p (wg t : Nat) (x : Tile) : (setTile s wg t x).p = s.p := rfl
@[simp] theorem setTile_csr (wg t : Nat) (x : Tile) : (setTile s wg t x).csr = s.csr := rfl
@[simp] theorem setTile_acc (wg t : Nat) (x : Tile) : (setTile s wg t x).acc = s.acc := rfl
@[simp] theorem setTile_tiles (wg t : Nat) (x : Tile) : (setTile s wg t x).tiles = aSet (tileKey wg t) x s.tiles := rfl
@[simp] theorem setTile_scratch (wg t : Nat) (x : Tile) : (setTile s wg t x).scratch = s.scratch := rfl
@[simp] theorem setTile_oldScratch (wg t : Nat) (x : Tile) : (setTile s wg t x).oldScratch = s.oldScratch := rfl
@[simp] theorem setTile_mem (wg t : Nat) (x : Tile) : (setTile s wg t x).mem = s.mem := rfl
@[simp] theorem setTile_poison (wg t : Nat) (x : Tile) : (setTile s wg t x).poison = s.poison := rfl
@[simp] theorem setTile_ops (wg t : Nat) (x : Tile) : (setTile s wg t x).ops = s.ops := rfl
@[simp] theorem setTile_l1 (wg t : Nat) (x : Tile) : (setTile s wg t x).l1 = s.l1 := rfl
@[simp] theorem setTile_lines (wg t : Nat) (x : Tile) : (setTile s wg t x).lines = s.lines := rfl
@[simp] theorem setTile_snoop (wg t : Nat) (x : Tile) : (setTile s wg t x).snoop = s.snoop := rfl
@[simp] theorem setTile_regions (wg t : Nat) (x : Tile) : (setTile s wg t x).regions = s.regions := rfl
@[simp] theorem setTile_cache (wg t : Nat) (x : Tile) : (setTile s wg t x).cache = s.cache := rfl
@[simp] theorem setTile_ro (wg t : Nat) (x : Tile) : (setTile s wg t x).ro = s.ro := rfl
@[simp] theorem setTile_roDrops (wg t : Nat) (x : Tile) : (setTile s wg t x).roDrops = s.roDrops := rfl
@[simp] theorem setTile_nodes (wg t : Nat) (x : Tile) : (setTile s wg t x).nodes = s.nodes := rfl
@[simp] theorem setTile_tlb (wg t : Nat) (x : Tile) : (setTile s wg t x).tlb = s.tlb := rfl
@[simp] theorem setTile_ats (wg t : Nat) (x : Tile) : (setTile s wg t x).ats = s.ats := rfl
@[simp] theorem setTile_hostSent (wg t : Nat) (x : Tile) : (setTile s wg t x).hostSent = s.hostSent := rfl
@[simp] theorem setTile_invals (wg t : Nat) (x : Tile) : (setTile s wg t x).invals = s.invals := rfl
@[simp] theorem setTile_invalDone (wg t : Nat) (x : Tile) : (setTile s wg t x).invalDone = s.invalDone := rfl
@[simp] theorem setTile_icache (wg t : Nat) (x : Tile) : (setTile s wg t x).icache = s.icache := rfl
@[simp] theorem setTile_beacons (wg t : Nat) (x : Tile) : (setTile s wg t x).beacons = s.beacons := rfl
@[simp] theorem setTile_cmds (wg t : Nat) (x : Tile) : (setTile s wg t x).cmds = s.cmds := rfl
@[simp] theorem setTile_targets (wg t : Nat) (x : Tile) : (setTile s wg t x).targets = s.targets := rfl
@[simp] theorem setTile_frames (wg t : Nat) (x : Tile) : (setTile s wg t x).frames = s.frames := rfl
@[simp] theorem setTile_passes (wg t : Nat) (x : Tile) : (setTile s wg t x).passes = s.passes := rfl
@[simp] theorem setTile_peers (wg t : Nat) (x : Tile) : (setTile s wg t x).peers = s.peers := rfl
@[simp] theorem setTile_far (wg t : Nat) (x : Tile) : (setTile s wg t x).far = s.far := rfl
@[simp] theorem setTile_pubs (wg t : Nat) (x : Tile) : (setTile s wg t x).pubs = s.pubs := rfl
@[simp] theorem setTile_clock (wg t : Nat) (x : Tile) : (setTile s wg t x).clock = s.clock := rfl
@[simp] theorem setTile_turnSched (wg t : Nat) (x : Tile) : (setTile s wg t x).turnSched = s.turnSched := rfl
@[simp] theorem setTile_fresh (wg t : Nat) (x : Tile) : (setTile s wg t x).fresh = s.fresh := rfl
@[simp] theorem setTile_free (wg t : Nat) (x : Tile) : (setTile s wg t x).free = s.free := rfl
@[simp] theorem setTile_stamp (wg t : Nat) (x : Tile) : (setTile s wg t x).stamp = s.stamp := rfl
@[simp] theorem setTile_agenda (wg t : Nat) (x : Tile) : (setTile s wg t x).agenda = s.agenda := rfl
@[simp] theorem setTile_subject (wg t : Nat) (x : Tile) : (setTile s wg t x).subject = s.subject := rfl
@[simp] theorem setTile_issuing (wg t : Nat) (x : Tile) : (setTile s wg t x).issuing = s.issuing := rfl

@[simp] theorem setElem_pkg (wg t e x : Nat) : (setElem s wg t e x).pkg = s.pkg := rfl
@[simp] theorem setElem_mbx (wg t e x : Nat) : (setElem s wg t e x).mbx = s.mbx := rfl
@[simp] theorem setElem_mbxRun (wg t e x : Nat) : (setElem s wg t e x).mbxRun = s.mbxRun := rfl
@[simp] theorem setElem_parts (wg t e x : Nat) : (setElem s wg t e x).parts = s.parts := rfl
@[simp] theorem setElem_droops (wg t e x : Nat) : (setElem s wg t e x).droops = s.droops := rfl
@[simp] theorem setElem_wsphase (wg t e x : Nat) : (setElem s wg t e x).wsphase = s.wsphase := rfl
@[simp] theorem setElem_scrub (wg t e x : Nat) : (setElem s wg t e x).scrub = s.scrub := rfl
@[simp] theorem setElem_ctxs (wg t e x : Nat) : (setElem s wg t e x).ctxs = s.ctxs := rfl
@[simp] theorem setElem_ctxRegs (wg t e x : Nat) : (setElem s wg t e x).ctxRegs = s.ctxRegs := rfl
@[simp] theorem setElem_services (wg t e x : Nat) : (setElem s wg t e x).services = s.services := rfl
@[simp] theorem setElem_keys (wg t e x : Nat) : (setElem s wg t e x).keys = s.keys := rfl
@[simp] theorem setElem_vectors (wg t e x : Nat) : (setElem s wg t e x).vectors = s.vectors := rfl
@[simp] theorem setElem_msix (wg t e x : Nat) : (setElem s wg t e x).msix = s.msix := rfl
@[simp] theorem setElem_queueRegs (wg t e x : Nat) : (setElem s wg t e x).queueRegs = s.queueRegs := rfl
@[simp] theorem setElem_queues (wg t e x : Nat) : (setElem s wg t e x).queues = s.queues := rfl
@[simp] theorem setElem_records (wg t e x : Nat) : (setElem s wg t e x).records = s.records := rfl
@[simp] theorem setElem_launches (wg t e x : Nat) : (setElem s wg t e x).launches = s.launches := rfl
@[simp] theorem setElem_wgs (wg t e x : Nat) : (setElem s wg t e x).wgs = s.wgs := rfl
@[simp] theorem setElem_gangs (wg t e x : Nat) : (setElem s wg t e x).gangs = s.gangs := rfl
@[simp] theorem setElem_paths (wg t e x : Nat) : (setElem s wg t e x).paths = s.paths := rfl
@[simp] theorem setElem_v (wg t e x : Nat) : (setElem s wg t e x).v = s.v := rfl
@[simp] theorem setElem_g (wg t e x : Nat) : (setElem s wg t e x).g = s.g := rfl
@[simp] theorem setElem_p (wg t e x : Nat) : (setElem s wg t e x).p = s.p := rfl
@[simp] theorem setElem_csr (wg t e x : Nat) : (setElem s wg t e x).csr = s.csr := rfl
@[simp] theorem setElem_acc (wg t e x : Nat) : (setElem s wg t e x).acc = bSet s.acc (elemKey wg t e) x := rfl
@[simp] theorem setElem_tiles (wg t e x : Nat) : (setElem s wg t e x).tiles = s.tiles := rfl
@[simp] theorem setElem_scratch (wg t e x : Nat) : (setElem s wg t e x).scratch = s.scratch := rfl
@[simp] theorem setElem_oldScratch (wg t e x : Nat) : (setElem s wg t e x).oldScratch = s.oldScratch := rfl
@[simp] theorem setElem_mem (wg t e x : Nat) : (setElem s wg t e x).mem = s.mem := rfl
@[simp] theorem setElem_poison (wg t e x : Nat) : (setElem s wg t e x).poison = s.poison := rfl
@[simp] theorem setElem_ops (wg t e x : Nat) : (setElem s wg t e x).ops = s.ops := rfl
@[simp] theorem setElem_l1 (wg t e x : Nat) : (setElem s wg t e x).l1 = s.l1 := rfl
@[simp] theorem setElem_lines (wg t e x : Nat) : (setElem s wg t e x).lines = s.lines := rfl
@[simp] theorem setElem_snoop (wg t e x : Nat) : (setElem s wg t e x).snoop = s.snoop := rfl
@[simp] theorem setElem_regions (wg t e x : Nat) : (setElem s wg t e x).regions = s.regions := rfl
@[simp] theorem setElem_cache (wg t e x : Nat) : (setElem s wg t e x).cache = s.cache := rfl
@[simp] theorem setElem_ro (wg t e x : Nat) : (setElem s wg t e x).ro = s.ro := rfl
@[simp] theorem setElem_roDrops (wg t e x : Nat) : (setElem s wg t e x).roDrops = s.roDrops := rfl
@[simp] theorem setElem_nodes (wg t e x : Nat) : (setElem s wg t e x).nodes = s.nodes := rfl
@[simp] theorem setElem_tlb (wg t e x : Nat) : (setElem s wg t e x).tlb = s.tlb := rfl
@[simp] theorem setElem_ats (wg t e x : Nat) : (setElem s wg t e x).ats = s.ats := rfl
@[simp] theorem setElem_hostSent (wg t e x : Nat) : (setElem s wg t e x).hostSent = s.hostSent := rfl
@[simp] theorem setElem_invals (wg t e x : Nat) : (setElem s wg t e x).invals = s.invals := rfl
@[simp] theorem setElem_invalDone (wg t e x : Nat) : (setElem s wg t e x).invalDone = s.invalDone := rfl
@[simp] theorem setElem_icache (wg t e x : Nat) : (setElem s wg t e x).icache = s.icache := rfl
@[simp] theorem setElem_beacons (wg t e x : Nat) : (setElem s wg t e x).beacons = s.beacons := rfl
@[simp] theorem setElem_cmds (wg t e x : Nat) : (setElem s wg t e x).cmds = s.cmds := rfl
@[simp] theorem setElem_targets (wg t e x : Nat) : (setElem s wg t e x).targets = s.targets := rfl
@[simp] theorem setElem_frames (wg t e x : Nat) : (setElem s wg t e x).frames = s.frames := rfl
@[simp] theorem setElem_passes (wg t e x : Nat) : (setElem s wg t e x).passes = s.passes := rfl
@[simp] theorem setElem_peers (wg t e x : Nat) : (setElem s wg t e x).peers = s.peers := rfl
@[simp] theorem setElem_far (wg t e x : Nat) : (setElem s wg t e x).far = s.far := rfl
@[simp] theorem setElem_pubs (wg t e x : Nat) : (setElem s wg t e x).pubs = s.pubs := rfl
@[simp] theorem setElem_clock (wg t e x : Nat) : (setElem s wg t e x).clock = s.clock := rfl
@[simp] theorem setElem_turnSched (wg t e x : Nat) : (setElem s wg t e x).turnSched = s.turnSched := rfl
@[simp] theorem setElem_fresh (wg t e x : Nat) : (setElem s wg t e x).fresh = s.fresh := rfl
@[simp] theorem setElem_free (wg t e x : Nat) : (setElem s wg t e x).free = s.free := rfl
@[simp] theorem setElem_stamp (wg t e x : Nat) : (setElem s wg t e x).stamp = s.stamp := rfl
@[simp] theorem setElem_agenda (wg t e x : Nat) : (setElem s wg t e x).agenda = s.agenda := rfl
@[simp] theorem setElem_subject (wg t e x : Nat) : (setElem s wg t e x).subject = s.subject := rfl
@[simp] theorem setElem_issuing (wg t e x : Nat) : (setElem s wg t e x).issuing = s.issuing := rfl

@[simp] theorem memPut_pkg (a : Nat) (bs : List Nat) : (memPut s a bs).pkg = s.pkg := rfl
@[simp] theorem memPut_mbx (a : Nat) (bs : List Nat) : (memPut s a bs).mbx = s.mbx := rfl
@[simp] theorem memPut_mbxRun (a : Nat) (bs : List Nat) : (memPut s a bs).mbxRun = s.mbxRun := rfl
@[simp] theorem memPut_parts (a : Nat) (bs : List Nat) : (memPut s a bs).parts = s.parts := rfl
@[simp] theorem memPut_droops (a : Nat) (bs : List Nat) : (memPut s a bs).droops = s.droops := rfl
@[simp] theorem memPut_wsphase (a : Nat) (bs : List Nat) : (memPut s a bs).wsphase = s.wsphase := rfl
@[simp] theorem memPut_scrub (a : Nat) (bs : List Nat) : (memPut s a bs).scrub = s.scrub := rfl
@[simp] theorem memPut_ctxs (a : Nat) (bs : List Nat) : (memPut s a bs).ctxs = s.ctxs := rfl
@[simp] theorem memPut_ctxRegs (a : Nat) (bs : List Nat) : (memPut s a bs).ctxRegs = s.ctxRegs := rfl
@[simp] theorem memPut_services (a : Nat) (bs : List Nat) : (memPut s a bs).services = s.services := rfl
@[simp] theorem memPut_keys (a : Nat) (bs : List Nat) : (memPut s a bs).keys = s.keys := rfl
@[simp] theorem memPut_vectors (a : Nat) (bs : List Nat) : (memPut s a bs).vectors = s.vectors := rfl
@[simp] theorem memPut_msix (a : Nat) (bs : List Nat) : (memPut s a bs).msix = s.msix := rfl
@[simp] theorem memPut_queueRegs (a : Nat) (bs : List Nat) : (memPut s a bs).queueRegs = s.queueRegs := rfl
@[simp] theorem memPut_queues (a : Nat) (bs : List Nat) : (memPut s a bs).queues = s.queues := rfl
@[simp] theorem memPut_records (a : Nat) (bs : List Nat) : (memPut s a bs).records = s.records := rfl
@[simp] theorem memPut_launches (a : Nat) (bs : List Nat) : (memPut s a bs).launches = s.launches := rfl
@[simp] theorem memPut_wgs (a : Nat) (bs : List Nat) : (memPut s a bs).wgs = s.wgs := rfl
@[simp] theorem memPut_gangs (a : Nat) (bs : List Nat) : (memPut s a bs).gangs = s.gangs := rfl
@[simp] theorem memPut_paths (a : Nat) (bs : List Nat) : (memPut s a bs).paths = s.paths := rfl
@[simp] theorem memPut_v (a : Nat) (bs : List Nat) : (memPut s a bs).v = s.v := rfl
@[simp] theorem memPut_g (a : Nat) (bs : List Nat) : (memPut s a bs).g = s.g := rfl
@[simp] theorem memPut_p (a : Nat) (bs : List Nat) : (memPut s a bs).p = s.p := rfl
@[simp] theorem memPut_csr (a : Nat) (bs : List Nat) : (memPut s a bs).csr = s.csr := rfl
@[simp] theorem memPut_acc (a : Nat) (bs : List Nat) : (memPut s a bs).acc = s.acc := rfl
@[simp] theorem memPut_tiles (a : Nat) (bs : List Nat) : (memPut s a bs).tiles = s.tiles := rfl
@[simp] theorem memPut_scratch (a : Nat) (bs : List Nat) : (memPut s a bs).scratch = s.scratch := rfl
@[simp] theorem memPut_oldScratch (a : Nat) (bs : List Nat) : (memPut s a bs).oldScratch = s.oldScratch := rfl
@[simp] theorem memPut_ops (a : Nat) (bs : List Nat) : (memPut s a bs).ops = s.ops := rfl
@[simp] theorem memPut_l1 (a : Nat) (bs : List Nat) : (memPut s a bs).l1 = s.l1 := rfl
@[simp] theorem memPut_lines (a : Nat) (bs : List Nat) : (memPut s a bs).lines = s.lines := rfl
@[simp] theorem memPut_snoop (a : Nat) (bs : List Nat) : (memPut s a bs).snoop = s.snoop := rfl
@[simp] theorem memPut_regions (a : Nat) (bs : List Nat) : (memPut s a bs).regions = s.regions := rfl
@[simp] theorem memPut_cache (a : Nat) (bs : List Nat) : (memPut s a bs).cache = s.cache := rfl
@[simp] theorem memPut_ro (a : Nat) (bs : List Nat) : (memPut s a bs).ro = s.ro := rfl
@[simp] theorem memPut_roDrops (a : Nat) (bs : List Nat) : (memPut s a bs).roDrops = s.roDrops := rfl
@[simp] theorem memPut_nodes (a : Nat) (bs : List Nat) : (memPut s a bs).nodes = s.nodes := rfl
@[simp] theorem memPut_tlb (a : Nat) (bs : List Nat) : (memPut s a bs).tlb = s.tlb := rfl
@[simp] theorem memPut_ats (a : Nat) (bs : List Nat) : (memPut s a bs).ats = s.ats := rfl
@[simp] theorem memPut_hostSent (a : Nat) (bs : List Nat) : (memPut s a bs).hostSent = s.hostSent := rfl
@[simp] theorem memPut_invals (a : Nat) (bs : List Nat) : (memPut s a bs).invals = s.invals := rfl
@[simp] theorem memPut_invalDone (a : Nat) (bs : List Nat) : (memPut s a bs).invalDone = s.invalDone := rfl
@[simp] theorem memPut_icache (a : Nat) (bs : List Nat) : (memPut s a bs).icache = s.icache := rfl
@[simp] theorem memPut_cmds (a : Nat) (bs : List Nat) : (memPut s a bs).cmds = s.cmds := rfl
@[simp] theorem memPut_targets (a : Nat) (bs : List Nat) : (memPut s a bs).targets = s.targets := rfl
@[simp] theorem memPut_frames (a : Nat) (bs : List Nat) : (memPut s a bs).frames = s.frames := rfl
@[simp] theorem memPut_passes (a : Nat) (bs : List Nat) : (memPut s a bs).passes = s.passes := rfl
@[simp] theorem memPut_peers (a : Nat) (bs : List Nat) : (memPut s a bs).peers = s.peers := rfl
@[simp] theorem memPut_far (a : Nat) (bs : List Nat) : (memPut s a bs).far = s.far := rfl
@[simp] theorem memPut_pubs (a : Nat) (bs : List Nat) : (memPut s a bs).pubs = s.pubs := rfl
@[simp] theorem memPut_clock (a : Nat) (bs : List Nat) : (memPut s a bs).clock = s.clock := rfl
@[simp] theorem memPut_turnSched (a : Nat) (bs : List Nat) : (memPut s a bs).turnSched = s.turnSched := rfl
@[simp] theorem memPut_fresh (a : Nat) (bs : List Nat) : (memPut s a bs).fresh = s.fresh := rfl
@[simp] theorem memPut_free (a : Nat) (bs : List Nat) : (memPut s a bs).free = s.free := rfl
@[simp] theorem memPut_stamp (a : Nat) (bs : List Nat) : (memPut s a bs).stamp = s.stamp := rfl
@[simp] theorem memPut_agenda (a : Nat) (bs : List Nat) : (memPut s a bs).agenda = s.agenda := rfl
@[simp] theorem memPut_subject (a : Nat) (bs : List Nat) : (memPut s a bs).subject = s.subject := rfl
@[simp] theorem memPut_issuing (a : Nat) (bs : List Nat) : (memPut s a bs).issuing = s.issuing := rfl

@[simp] theorem putOp_pkg (k : Nat) (o : Op) : (putOp s k o).pkg = s.pkg := rfl
@[simp] theorem putOp_mbx (k : Nat) (o : Op) : (putOp s k o).mbx = s.mbx := rfl
@[simp] theorem putOp_mbxRun (k : Nat) (o : Op) : (putOp s k o).mbxRun = s.mbxRun := rfl
@[simp] theorem putOp_parts (k : Nat) (o : Op) : (putOp s k o).parts = s.parts := rfl
@[simp] theorem putOp_droops (k : Nat) (o : Op) : (putOp s k o).droops = s.droops := rfl
@[simp] theorem putOp_wsphase (k : Nat) (o : Op) : (putOp s k o).wsphase = s.wsphase := rfl
@[simp] theorem putOp_scrub (k : Nat) (o : Op) : (putOp s k o).scrub = s.scrub := rfl
@[simp] theorem putOp_ctxs (k : Nat) (o : Op) : (putOp s k o).ctxs = s.ctxs := rfl
@[simp] theorem putOp_ctxRegs (k : Nat) (o : Op) : (putOp s k o).ctxRegs = s.ctxRegs := rfl
@[simp] theorem putOp_services (k : Nat) (o : Op) : (putOp s k o).services = s.services := rfl
@[simp] theorem putOp_keys (k : Nat) (o : Op) : (putOp s k o).keys = s.keys := rfl
@[simp] theorem putOp_vectors (k : Nat) (o : Op) : (putOp s k o).vectors = s.vectors := rfl
@[simp] theorem putOp_msix (k : Nat) (o : Op) : (putOp s k o).msix = s.msix := rfl
@[simp] theorem putOp_queueRegs (k : Nat) (o : Op) : (putOp s k o).queueRegs = s.queueRegs := rfl
@[simp] theorem putOp_queues (k : Nat) (o : Op) : (putOp s k o).queues = s.queues := rfl
@[simp] theorem putOp_records (k : Nat) (o : Op) : (putOp s k o).records = s.records := rfl
@[simp] theorem putOp_launches (k : Nat) (o : Op) : (putOp s k o).launches = s.launches := rfl
@[simp] theorem putOp_wgs (k : Nat) (o : Op) : (putOp s k o).wgs = s.wgs := rfl
@[simp] theorem putOp_gangs (k : Nat) (o : Op) : (putOp s k o).gangs = s.gangs := rfl
@[simp] theorem putOp_paths (k : Nat) (o : Op) : (putOp s k o).paths = s.paths := rfl
@[simp] theorem putOp_v (k : Nat) (o : Op) : (putOp s k o).v = s.v := rfl
@[simp] theorem putOp_g (k : Nat) (o : Op) : (putOp s k o).g = s.g := rfl
@[simp] theorem putOp_p (k : Nat) (o : Op) : (putOp s k o).p = s.p := rfl
@[simp] theorem putOp_csr (k : Nat) (o : Op) : (putOp s k o).csr = s.csr := rfl
@[simp] theorem putOp_acc (k : Nat) (o : Op) : (putOp s k o).acc = s.acc := rfl
@[simp] theorem putOp_tiles (k : Nat) (o : Op) : (putOp s k o).tiles = s.tiles := rfl
@[simp] theorem putOp_scratch (k : Nat) (o : Op) : (putOp s k o).scratch = s.scratch := rfl
@[simp] theorem putOp_oldScratch (k : Nat) (o : Op) : (putOp s k o).oldScratch = s.oldScratch := rfl
@[simp] theorem putOp_mem (k : Nat) (o : Op) : (putOp s k o).mem = s.mem := rfl
@[simp] theorem putOp_poison (k : Nat) (o : Op) : (putOp s k o).poison = s.poison := rfl
@[simp] theorem putOp_ops (k : Nat) (o : Op) : (putOp s k o).ops = aSet k o s.ops := rfl
@[simp] theorem putOp_l1 (k : Nat) (o : Op) : (putOp s k o).l1 = s.l1 := rfl
@[simp] theorem putOp_lines (k : Nat) (o : Op) : (putOp s k o).lines = s.lines := rfl
@[simp] theorem putOp_snoop (k : Nat) (o : Op) : (putOp s k o).snoop = s.snoop := rfl
@[simp] theorem putOp_regions (k : Nat) (o : Op) : (putOp s k o).regions = s.regions := rfl
@[simp] theorem putOp_cache (k : Nat) (o : Op) : (putOp s k o).cache = s.cache := rfl
@[simp] theorem putOp_ro (k : Nat) (o : Op) : (putOp s k o).ro = s.ro := rfl
@[simp] theorem putOp_roDrops (k : Nat) (o : Op) : (putOp s k o).roDrops = s.roDrops := rfl
@[simp] theorem putOp_nodes (k : Nat) (o : Op) : (putOp s k o).nodes = s.nodes := rfl
@[simp] theorem putOp_tlb (k : Nat) (o : Op) : (putOp s k o).tlb = s.tlb := rfl
@[simp] theorem putOp_ats (k : Nat) (o : Op) : (putOp s k o).ats = s.ats := rfl
@[simp] theorem putOp_hostSent (k : Nat) (o : Op) : (putOp s k o).hostSent = s.hostSent := rfl
@[simp] theorem putOp_invals (k : Nat) (o : Op) : (putOp s k o).invals = s.invals := rfl
@[simp] theorem putOp_invalDone (k : Nat) (o : Op) : (putOp s k o).invalDone = s.invalDone := rfl
@[simp] theorem putOp_icache (k : Nat) (o : Op) : (putOp s k o).icache = s.icache := rfl
@[simp] theorem putOp_beacons (k : Nat) (o : Op) : (putOp s k o).beacons = s.beacons := rfl
@[simp] theorem putOp_cmds (k : Nat) (o : Op) : (putOp s k o).cmds = s.cmds := rfl
@[simp] theorem putOp_targets (k : Nat) (o : Op) : (putOp s k o).targets = s.targets := rfl
@[simp] theorem putOp_frames (k : Nat) (o : Op) : (putOp s k o).frames = s.frames := rfl
@[simp] theorem putOp_passes (k : Nat) (o : Op) : (putOp s k o).passes = s.passes := rfl
@[simp] theorem putOp_peers (k : Nat) (o : Op) : (putOp s k o).peers = s.peers := rfl
@[simp] theorem putOp_far (k : Nat) (o : Op) : (putOp s k o).far = s.far := rfl
@[simp] theorem putOp_pubs (k : Nat) (o : Op) : (putOp s k o).pubs = s.pubs := rfl
@[simp] theorem putOp_clock (k : Nat) (o : Op) : (putOp s k o).clock = s.clock := rfl
@[simp] theorem putOp_turnSched (k : Nat) (o : Op) : (putOp s k o).turnSched = s.turnSched := rfl
@[simp] theorem putOp_fresh (k : Nat) (o : Op) : (putOp s k o).fresh = s.fresh := rfl
@[simp] theorem putOp_free (k : Nat) (o : Op) : (putOp s k o).free = s.free := rfl
@[simp] theorem putOp_stamp (k : Nat) (o : Op) : (putOp s k o).stamp = s.stamp := rfl
@[simp] theorem putOp_agenda (k : Nat) (o : Op) : (putOp s k o).agenda = s.agenda := rfl
@[simp] theorem putOp_subject (k : Nat) (o : Op) : (putOp s k o).subject = s.subject := rfl
@[simp] theorem putOp_issuing (k : Nat) (o : Op) : (putOp s k o).issuing = s.issuing := rfl

end Sys2Proof.Machine
end

