-- ==== Sys2Proof/Laws/Regs.lean ====
section
/-! SUPPORT. Laws of register banks: what a register reads after writes, that keys of different registers differ, and that writes
keep a bank canonical. -/

namespace Sys2Proof.Machine

theorem bGet_lt {n : Nat} (m : Bank n) (k : Nat) : bGet m k < 2 ^ n := BitVec.isLt _

theorem bGet_bSet {n : Nat} (m : Bank n) (k k' x : Nat) : bGet (bSet m k x) k' = if k = k' then x % 2 ^ n else bGet m k' := by
  unfold bSet bGet
  split
  · rename_i h
    rw [aGet_aErase]
    split
    · have := congrArg BitVec.toNat h; simp at this; simp [this]
    · rfl
  · rw [aGet_aSet]
    split
    · simp
    · rfl

@[simp] theorem bGet_bSet_self {n : Nat} (m : Bank n) (k x : Nat) : bGet (bSet m k x) k = x % 2 ^ n := by simp [bGet_bSet]

@[simp] theorem bSetAll_nil {n : Nat} (m : Bank n) : bSetAll m [] = m := rfl
@[simp] theorem bSetAll_cons {n : Nat} (m : Bank n) (e : Nat × Nat) (es : List (Nat × Nat)) :
    bSetAll m (e :: es) = bSetAll (bSet m e.1 e.2) es := rfl

theorem bSetAll_append {n : Nat} (m : Bank n) (es fs : List (Nat × Nat)) : bSetAll m (es ++ fs) = bSetAll (bSetAll m es) fs := by
  simp [bSetAll, List.foldl_append]

/-- A register that no write names reads as before. -/
theorem bGet_bSetAll_of_not_mem {n : Nat} (m : Bank n) (es : List (Nat × Nat)) (k : Nat) (h : ∀ e ∈ es, e.1 ≠ k) :
    bGet (bSetAll m es) k = bGet m k := by
  induction es generalizing m with
  | nil => rfl
  | cons e es ih =>
    rw [bSetAll_cons, ih _ fun e he => h e (List.mem_cons_of_mem _ he), bGet_bSet, if_neg (h e (List.mem_cons_self ..))]

/-- A register that some write names, all that name it with one value, reads as that value. -/
theorem bGet_bSetAll_of_mem {n : Nat} (m : Bank n) (es : List (Nat × Nat)) (k x : Nat) (hm : ∃ e ∈ es, e.1 = k)
    (hx : ∀ e ∈ es, e.1 = k → e.2 = x) : bGet (bSetAll m es) k = x % 2 ^ n := by
  induction es generalizing m with
  | nil => obtain ⟨e, he, _⟩ := hm; cases he
  | cons e es ih =>
    rw [bSetAll_cons]
    by_cases h : ∃ e ∈ es, e.1 = k
    · exact ih _ h fun e he => hx e (List.mem_cons_of_mem _ he)
    · rw [bGet_bSetAll_of_not_mem _ _ _ fun e he hk => h ⟨e, he, hk⟩]
      obtain ⟨e', he', hk⟩ := hm
      rcases List.mem_cons.1 he' with rfl | he'
      · rw [bGet_bSet, if_pos hk, hx _ (List.mem_cons_self ..) hk]
      · exact absurd ⟨e', he', hk⟩ h

/-! The canonical form. -/

theorem Bank.wf_iff {n : Nat} (m : Bank n) : Bank.wf m = true ↔ aSorted m = true ∧ ∀ e ∈ m, e.2 ≠ 0 := by
  simp [Bank.wf]

theorem Bank.wf_bSet {n : Nat} (m : Bank n) (k x : Nat) (h : Bank.wf m = true) : Bank.wf (bSet m k x) = true := by
  rw [Bank.wf_iff] at *
  unfold bSet
  split
  · exact ⟨aSorted_aErase _ _ h.1, fun e he => h.2 e (mem_aErase he)⟩
  · refine ⟨aSorted_aSet _ _ _ h.1, fun e he => ?_⟩
    rcases mem_aSet he with rfl | he
    · assumption
    · exact h.2 e he

theorem Bank.wf_bSetAll {n : Nat} (m : Bank n) (es : List (Nat × Nat)) (h : Bank.wf m = true) : Bank.wf (bSetAll m es) = true := by
  induction es generalizing m with
  | nil => exact h
  | cons e es ih => exact ih _ (Bank.wf_bSet _ _ _ h)

theorem Bank.wf_filter {n : Nat} (m : Bank n) (p : Nat × BitVec n → Bool) (h : Bank.wf m = true) :
    Bank.wf (m.filter p) = true := by
  rw [Bank.wf_iff] at *
  exact ⟨aSorted_filter _ _ h.1, fun e he => h.2 e (List.mem_filter.1 he).1⟩

/-! Keys. -/

theorem vKey_inj {g l r g' l' r' : Nat} (hl : l < 32) (hr : r < 128) (hl' : l' < 32) (hr' : r' < 128) :
    vKey g l r = vKey g' l' r' ↔ g = g' ∧ l = l' ∧ r = r' := by unfold vKey; omega
theorem pKey_inj {g l r g' l' r' : Nat} (hl : l < 32) (hr : r < 8) (hl' : l' < 32) (hr' : r' < 8) :
    pKey g l r = pKey g' l' r' ↔ g = g' ∧ l = l' ∧ r = r' := by unfold pKey; omega
theorem gKey_inj {g c r g' c' r' : Nat} (hc : c < 8) (hr : r < 32) (hc' : c' < 8) (hr' : r' < 32) :
    gKey g c r = gKey g' c' r' ↔ g = g' ∧ c = c' ∧ r = r' := by unfold gKey; omega
theorem csrKey_inj {g c r g' c' r' : Nat} (hc : c < 8) (hr : r < 16) (hc' : c' < 8) (hr' : r' < 16) :
    csrKey g c r = csrKey g' c' r' ↔ g = g' ∧ c = c' ∧ r = r' := by unfold csrKey; omega

@[simp] theorem mem_lanesOf (m l : Nat) : l ∈ lanesOf m ↔ l < 32 ∧ hasBit m l = true := by
  simp [lanesOf, bitsBelow]

@[simp] theorem mem_slicesOf (m c : Nat) : c ∈ slicesOf m ↔ c < 8 ∧ (bits m (4 * c + 3) (4 * c) != 0) = true := by
  simp [slicesOf]

/-! Reads after writes. -/

/-- V registers after a write of one register in some lanes (R11). -/
theorem getV_setVs_laneWrites (s : State) (gid lanes d : Nat) (f : Nat → Nat) (hd : d < 128) (gid' l r : Nat) (hl : l < 32)
    (hr : r < 128) : getV (setVs s gid (laneWrites lanes d f)) gid' l r =
      if gid' = gid ∧ hasBit lanes l = true ∧ r = d then f l % 2 ^ 32 else getV s gid' l r := by
  unfold getV
  simp only [setVs_v, laneWrites, List.map_map]
  split
  · rename_i h
    obtain ⟨rfl, h2, rfl⟩ := h
    apply bGet_bSetAll_of_mem
    · exact ⟨(vKey gid' l r, f l), List.mem_map.2 ⟨l, by simp [hl, h2], rfl⟩, rfl⟩
    · intro e he hk
      obtain ⟨j, hj, rfl⟩ := List.mem_map.1 he
      simp only [mem_lanesOf] at hj
      simp only [Function.comp] at hk ⊢
      rw [vKey_inj hj.1 hd hl hr] at hk
      rw [hk.2.1]
  · rename_i h
    apply bGet_bSetAll_of_not_mem
    intro e he hk
    obtain ⟨j, hj, rfl⟩ := List.mem_map.1 he
    simp only [mem_lanesOf] at hj
    simp only [Function.comp] at hk
    rw [vKey_inj hj.1 hd hl hr] at hk
    obtain ⟨rfl, rfl, rfl⟩ := hk
    exact h ⟨rfl, hj.2, rfl⟩

/-- V registers after a write of a register pair in some lanes (R73). -/
theorem getV_setVs_pairWrites (s : State) (gid lanes d : Nat) (f : Nat → Nat) (hd : d < 127) (gid' l r : Nat) (hl : l < 32)
    (hr : r < 128) : getV (setVs s gid (pairWrites lanes d f)) gid' l r =
      if gid' = gid ∧ hasBit lanes l = true ∧ r = d then f l % 2 ^ 32
      else if gid' = gid ∧ hasBit lanes l = true ∧ r = d + 1 then f l / 2 ^ 32 % 2 ^ 32 else getV s gid' l r := by
  unfold getV
  simp only [setVs_v, pairWrites, List.map_flatMap]
  have key : ∀ e, e ∈ (lanesOf lanes).flatMap (fun j =>
      [(j, d, f j % 2 ^ 32), (j, d + 1, f j / 2 ^ 32)].map fun w => (vKey gid w.1 w.2.1, w.2.2)) ↔
      ∃ j, j < 32 ∧ hasBit lanes j = true ∧ (e = (vKey gid j d, f j % 2 ^ 32) ∨ e = (vKey gid j (d + 1), f j / 2 ^ 32)) := by
    intro e; simp [List.mem_flatMap, and_assoc]
  split
  · rename_i h
    obtain ⟨rfl, h2, rfl⟩ := h
    rw [bGet_bSetAll_of_mem (x := f l % 2 ^ 32), Nat.mod_mod]
    · exact ⟨(vKey gid' l r, f l % 2 ^ 32), (key _).2 ⟨l, hl, h2, .inl rfl⟩, rfl⟩
    · intro e he hk
      obtain ⟨j, hj, _, rfl | rfl⟩ := (key _).1 he
      · rw [vKey_inj hj hr hl hr] at hk; rw [hk.2.1]
      · rw [vKey_inj hj (by omega) hl hr] at hk; omega
  · rename_i h0
    split
    · rename_i h
      obtain ⟨rfl, h2, rfl⟩ := h
      rw [bGet_bSetAll_of_mem (x := f l / 2 ^ 32)]
      · exact ⟨(vKey gid' l (d + 1), f l / 2 ^ 32), (key _).2 ⟨l, hl, h2, .inr rfl⟩, rfl⟩
      · intro e he hk
        obtain ⟨j, hj, _, rfl | rfl⟩ := (key _).1 he
        · rw [vKey_inj hj (by omega) hl hr] at hk; omega
        · rw [vKey_inj hj (by omega) hl hr] at hk; rw [hk.2.1]
    · rename_i h1
      apply bGet_bSetAll_of_not_mem
      intro e he hk
      obtain ⟨j, hj, hb, rfl | rfl⟩ := (key _).1 he
      · rw [vKey_inj hj (by omega) hl hr] at hk; obtain ⟨rfl, rfl, rfl⟩ := hk; exact h0 ⟨rfl, hb, rfl⟩
      · rw [vKey_inj hj (by omega) hl hr] at hk; obtain ⟨rfl, rfl, rfl⟩ := hk; exact h1 ⟨rfl, hb, rfl⟩

/-- P registers after a write of one register in some lanes; P7 discards it (R11). -/
theorem getP_setPs_lanes (s : State) (gid lanes d : Nat) (f : Nat → Bool) (hd : d < 8) (gid' l r : Nat) (hl : l < 32)
    (hr : r < 8) : getP (setPs s gid d ((lanesOf lanes).map fun l => (l, f l))) gid' l r =
      if gid' = gid ∧ hasBit lanes l = true ∧ r = d ∧ d ≠ 7 then f l else getP s gid' l r := by
  unfold getP setPs
  by_cases h7 : d = 7
  · simp [h7]
  · rw [if_neg h7]
    by_cases hr7 : r = 7
    · simp only [hr7, ↓reduceIte]; rw [if_neg (by omega)]
    · simp only [if_neg hr7, List.map_map]
      split
      · rename_i h
        obtain ⟨rfl, h2, rfl, -⟩ := h
        rw [bGet_bSetAll_of_mem (x := (f l).toNat)]
        · cases f l <;> simp
        · exact ⟨(pKey gid' l r, (f l).toNat), List.mem_map.2 ⟨l, by simp [hl, h2], rfl⟩, rfl⟩
        · intro e he hk
          obtain ⟨j, hj, rfl⟩ := List.mem_map.1 he
          simp only [mem_lanesOf] at hj
          simp only [Function.comp] at hk ⊢
          rw [pKey_inj hj.1 hd hl hr] at hk; rw [hk.2.1]
      · rename_i h
        rw [bGet_bSetAll_of_not_mem]
        intro e he hk
        obtain ⟨j, hj, rfl⟩ := List.mem_map.1 he
        simp only [mem_lanesOf] at hj
        simp only [Function.comp] at hk
        rw [pKey_inj hj.1 hd hl hr] at hk
        obtain ⟨rfl, rfl, rfl⟩ := hk
        exact h ⟨rfl, hj.2, rfl, h7⟩

/-- G registers after a write in some slices (R169). -/
theorem getGs_setGs (s : State) (gid : Nat) (cs : List Nat) (d x : Nat) (hd : d < 32) (hcs : ∀ c ∈ cs, c < 8) (gid' c r : Nat)
    (hc : c < 8) (hr : r < 32) : getGs (setGs s gid cs d x) gid' c r =
      if gid' = gid ∧ c ∈ cs ∧ r = d then x % 2 ^ 64 else getGs s gid' c r := by
  unfold getGs
  simp only [setGs_g]
  split
  · rename_i h
    obtain ⟨rfl, h2, rfl⟩ := h
    apply bGet_bSetAll_of_mem
    · exact ⟨(gKey gid' c r, x), List.mem_map.2 ⟨c, h2, rfl⟩, rfl⟩
    · intro e he _
      obtain ⟨j, _, rfl⟩ := List.mem_map.1 he
      rfl
  · rename_i h
    apply bGet_bSetAll_of_not_mem
    intro e he hk
    obtain ⟨j, hj, rfl⟩ := List.mem_map.1 he
    simp only at hk
    rw [gKey_inj (hcs _ hj) hd hc hr] at hk
    obtain ⟨rfl, rfl, rfl⟩ := hk
    exact h ⟨rfl, hj, rfl⟩

/-- G[d] written as a path writes it (R116, R147, R169). -/
theorem getGs_setG (s : State) (q : Path) (d x : Nat) (hd : d < 32) (gid c r : Nat) (hc : c < 8) (hr : r < 32) :
    getGs (setG s q d x) gid c r =
      if gid = q.gang ∧ c ∈ slicesOf q.lanes ∧ active q ≠ 0 ∧ r = d then x % 2 ^ 64 else getGs s gid c r := by
  rw [setG, getGs_setGs _ _ _ _ _ hd _ _ _ _ hc hr]
  · split <;> simp_all
  · intro c hc; split at hc <;> simp_all

/-- Slice-scope registers after flags are merged (R189). -/
theorem csr_mergeFlagsIn (s : State) (gid lanes flags gid' c i : Nat) (hc : c < 8) (hi : i < 16) :
    bGet (mergeFlagsIn s gid lanes flags).csr (csrKey gid' c i) =
      if gid' = gid ∧ c ∈ slicesOf lanes ∧ i = csrFpStat then
        (bGet s.csr (csrKey gid' c i) ||| flags) % 2 ^ 64 else bGet s.csr (csrKey gid' c i) := by
  unfold mergeFlagsIn
  split
  · rename_i h
    obtain ⟨rfl, h2, rfl⟩ := h
    apply bGet_bSetAll_of_mem
    · exact ⟨(csrKey gid' c csrFpStat, _), List.mem_map.2 ⟨c, h2, rfl⟩, rfl⟩
    · intro e he hk
      obtain ⟨j, hj, rfl⟩ := List.mem_map.1 he
      rw [csrKey_inj (by simp at hj; omega) hi hc hi] at hk
      simp [hk.2.1]
  · rename_i h
    apply bGet_bSetAll_of_not_mem
    intro e he hk
    obtain ⟨j, hj, rfl⟩ := List.mem_map.1 he
    rw [csrKey_inj (by simp at hj; omega) (by decide) hc hi] at hk
    obtain ⟨rfl, rfl, rfl⟩ := hk
    exact h ⟨rfl, hj, rfl⟩

end Sys2Proof.Machine
end

