-- ==== Sys2Proof/Laws/Forms.lean ====
section
/-! SUPPORT. What the operand forms of lane and uniform instructions do, once for each form: the claims about an instruction of a
form need only its arithmetic. -/

namespace Sys2Proof.Machine

/-- An instruction that issues answers what its meaning makes of the path. -/
theorem onPath_next {s : State} {p : Nat} {q : Path} (h : Issues s p q) (f : Nat → Path → State) :
    onPath s f = .next (f p q) := by
  simp [onPath, h.1, h.2]

/-- Every meaning of an encoded instruction that answers a next state has an issuing path. -/
theorem onPath_cases {s t : State} {f : Nat → Path → State} (h : onPath s f = .next t) : ∃ p q, Issues s p q ∧ t = f p q := by
  unfold onPath at h
  split at h
  · cases h
  · split at h
    · cases h
    · rename_i p hp _ q hq
      cases h
      exact ⟨p, q, ⟨hp, hq⟩, rfl⟩

/-- A byte's home value rests on memory, the L1s and the lines' home states alone (R228). -/
theorem peekByte_congr {s t : State} (hm : t.mem = s.mem) (hc : t.l1 = s.l1) (hl : t.lines = s.lines) (a : Nat) :
    peekByte t a = peekByte s a := by
  unfold peekByte lineAt l1At
  rw [hm, hc, hl]

theorem advance_eq (s : State) (p : Nat) (q : Path) (k : Nat) : advance s p q k = setPath s p (q.past k) := rfl
theorem jump_eq (s : State) (p : Nat) (q : Path) (a : Nat) : jump s p q a = setPath s p (q.goneTo a) := rfl

theorem pathBecomes_setPath (s u : State) (p : Nat) (q : Path) (h : u.paths = s.paths) : PathBecomes s (setPath u p q) p q := by
  refine ⟨by simp, fun k hk => ?_⟩
  rw [setPath_paths, aGet_aSet_ne _ _ (Ne.symm hk), h]

theorem getV_setPath (s : State) (p : Nat) (q : Path) (g l r : Nat) : getV (setPath s p q) g l r = getV s g l r := rfl
theorem getP_setPath (s : State) (p : Nat) (q : Path) (g l r : Nat) : getP (setPath s p q) g l r = getP s g l r := rfl
theorem getGs_setPath (s : State) (p : Nat) (q : Path) (g c r : Nat) : getGs (setPath s p q) g c r = getGs s g c r := rfl

/-- A lane form writes V[d] in the active lanes and nothing else (R168). -/
theorem laneForm_writes {i : Instr} {k d : Nat} {f : State → Path → Nat → Nat} {val : State → Path → Nat → Word} (hd : d < 128)
    (he : ∀ s, exec i s = laneForm s k d (f s)) (hv : ∀ s q l, f s q l % 2 ^ 32 = (val s q l).toNat) : WritesV i k d val := by
  intro s p q hq
  refine ⟨_, (he s).trans (onPath_next hq _), pathBecomes_setPath _ _ _ _ (by simp), rfl, fun _ => rfl, ?_⟩
  intro gid l r hl hr
  rw [advance_eq, getV_setPath, getV_setVs_laneWrites _ _ _ _ _ hd _ _ _ hl hr]
  constructor
  · rintro ⟨⟨rfl, h2⟩, rfl⟩; rw [if_pos ⟨rfl, h2, rfl⟩, hv]
  · intro h; rw [if_neg]; rintro ⟨rfl, h2, rfl⟩; exact h ⟨⟨rfl, h2⟩, rfl⟩

/-- A pair form writes V[d] and V[d+1] in the active lanes and nothing else (R73). -/
theorem pairForm_writes {i : Instr} {d : Nat} {f : State → Path → Nat → Nat} {val : State → Path → Nat → DWord} (hd : d < 127)
    (he : ∀ s, exec i s = pairForm s d (f s)) (hv : ∀ s q l, f s q l % 2 ^ 64 = (val s q l).toNat) : WritesPair i d val := by
  intro s p q hq
  refine ⟨_, (he s).trans (onPath_next hq _), pathBecomes_setPath _ _ _ _ (by simp), rfl, fun _ => rfl, ?_⟩
  intro gid l r hl hr
  rw [advance_eq, getV_setPath, getV_setVs_pairWrites _ _ _ _ _ hd _ _ _ hl hr]
  refine ⟨?_, ?_, ?_⟩
  · rintro ⟨⟨rfl, h2⟩, rfl⟩
    rw [if_pos ⟨rfl, h2, rfl⟩, BitVec.extractLsb'_toNat, ← hv]
    simp only [Nat.shiftRight_zero]
    omega
  · rintro ⟨⟨rfl, h2⟩, rfl⟩
    rw [if_neg (by omega), if_pos ⟨rfl, h2, rfl⟩, BitVec.extractLsb'_toNat, ← hv, Nat.shiftRight_eq_div_pow]
    omega
  · intro h
    rw [if_neg, if_neg]
    · rintro ⟨rfl, h2, rfl⟩; exact h ⟨⟨rfl, h2⟩, .inr rfl⟩
    · rintro ⟨rfl, h2, rfl⟩; exact h ⟨⟨rfl, h2⟩, .inl rfl⟩

/-- A predicate form writes P[d] in the active lanes, P7 excepted, and nothing else (R11). -/
theorem predForm_writes {i : Instr} {d : Nat} {f : State → Path → Nat → Bool} (hd : d < 8)
    (he : ∀ s, exec i s = predForm s d (f s)) : WritesP i d f := by
  intro s p q hq
  refine ⟨_, (he s).trans (onPath_next hq _), pathBecomes_setPath _ _ _ _ (by simp), ?_, fun a => ?_, ?_⟩
  · simp only [OnlyP, advance_eq, setPath, setPs]; split <;> rfl
  · simp only [advance_eq, setPath, setPs]; split <;> rfl
  · intro gid l r hl hr
    rw [advance_eq, getP_setPath, getP_setPs_lanes _ _ _ _ _ hd _ _ _ hl hr]
    constructor
    · rintro ⟨⟨rfl, h2⟩, rfl, h7⟩; rw [if_pos ⟨rfl, h2, rfl, h7⟩]
    · intro h; rw [if_neg]; rintro ⟨rfl, h2, rfl, h7⟩; exact h ⟨⟨rfl, h2⟩, rfl, h7⟩

/-- A uniform form writes G[d] in every slice of the path, where some lane issues, and nothing else (R116, R169). -/
theorem uniForm_writes {i : Instr} {k d : Nat} {f : State → Path → Nat} {val : State → Path → DWord} (hd : d < 32)
    (he : ∀ s, exec i s = uniForm s k d (f s)) (hv : ∀ s q, f s q % 2 ^ 64 = (val s q).toNat) : WritesG i k d val := by
  intro s p q hq _
  refine ⟨_, (he s).trans (onPath_next hq _), pathBecomes_setPath _ _ _ _ (by simp), rfl, fun _ => rfl, ?_⟩
  intro gid c r hc hr
  rw [advance_eq, getGs_setPath, getGs_setG _ _ _ _ hd _ _ _ hc hr]
  constructor
  · rintro ⟨⟨rfl, h2⟩, h3, rfl⟩; rw [if_pos ⟨rfl, h2, h3, rfl⟩, hv]
  · intro h; rw [if_neg]; rintro ⟨rfl, h2, h3, rfl⟩; exact h ⟨⟨rfl, h2⟩, h3, rfl⟩

theorem flagsMerged_of (s u : State) (p : Nat) (q q' : Path) (f : Nat → Nat × Nat) (h : u.csr = s.csr) :
    FlagsMerged s (setPath (mergeFlags u q (orFlags (active q) f)) p q') q (fun l => (f l).2) := by
  intro gid c i hc hi
  have : bGet (setPath (mergeFlags u q (orFlags (active q) f)) p q').csr (csrKey gid c i) = _ :=
    csr_mergeFlagsIn u q.gang q.lanes (orFlags (active q) f) gid c i hc hi
  rw [this, h]
  constructor
  · rintro ⟨⟨rfl, h2⟩, rfl⟩; rw [if_pos ⟨rfl, h2, rfl⟩]; rfl
  · intro h; rw [if_neg]; rintro ⟨rfl, h2, rfl⟩; exact h ⟨⟨rfl, h2⟩, rfl⟩

/-- A flag form writes V[d] in the active lanes and merges the union of their flags (R189). -/
theorem flagForm_writes {i : Instr} {k d : Nat} {f : State → Path → Nat → Nat × Nat} (hd : d < 128)
    (he : ∀ s, exec i s = flagForm s k d (f s)) : WritesVFlags i k d f := by
  intro s p q hq
  refine ⟨_, (he s).trans (onPath_next hq _), pathBecomes_setPath _ _ _ _ (by simp), ?_, fun _ => ?_, ?_, ?_⟩
  · simp only [OnlyVF, advance_eq, setPath, mergeFlags, mergeFlagsIn, setVs]
  · exact peekByte_congr (by simp) (by simp) (by simp) _
  · exact flagsMerged_of s (setVs s q.gang _) p q _ (f s q) (by simp)
  intro gid l r hl hr
  rw [advance_eq, getV_setPath]
  change (_ → getV (setVs s q.gang _) gid l r = _) ∧ (_ → getV (setVs s q.gang _) gid l r = _)
  rw [getV_setVs_laneWrites _ _ _ _ _ hd _ _ _ hl hr]
  constructor
  · rintro ⟨⟨rfl, h2⟩, rfl⟩; rw [if_pos ⟨rfl, h2, rfl⟩]
  · intro h; rw [if_neg]; rintro ⟨rfl, h2, rfl⟩; exact h ⟨⟨rfl, h2⟩, rfl⟩

/-- The same for a pair. -/
theorem flagPairForm_writes {i : Instr} {d : Nat} {f : State → Path → Nat → Nat × Nat} (hd : d < 127)
    (he : ∀ s, exec i s = flagPairForm s d (f s)) : WritesPairFlags i d f := by
  intro s p q hq
  refine ⟨_, (he s).trans (onPath_next hq _), pathBecomes_setPath _ _ _ _ (by simp), ?_, fun _ => ?_, ?_, ?_⟩
  · simp only [OnlyVF, advance_eq, setPath, mergeFlags, mergeFlagsIn, setVs]
  · exact peekByte_congr (by simp) (by simp) (by simp) _
  · exact flagsMerged_of s (setVs s q.gang _) p q _ (f s q) (by simp)
  intro gid l r hl hr
  rw [advance_eq, getV_setPath]
  change (_ → getV (setVs s q.gang _) gid l r = _) ∧ (_ → getV (setVs s q.gang _) gid l r = _) ∧
    (_ → getV (setVs s q.gang _) gid l r = _)
  rw [getV_setVs_pairWrites _ _ _ _ _ hd _ _ _ hl hr]
  refine ⟨?_, ?_, ?_⟩
  · rintro ⟨⟨rfl, h2⟩, rfl⟩; rw [if_pos ⟨rfl, h2, rfl⟩]
  · rintro ⟨⟨rfl, h2⟩, rfl⟩; rw [if_neg (by omega), if_pos ⟨rfl, h2, rfl⟩]
  · intro h
    rw [if_neg, if_neg]
    · rintro ⟨rfl, h2, rfl⟩; exact h ⟨⟨rfl, h2⟩, .inr rfl⟩
    · rintro ⟨rfl, h2, rfl⟩; exact h ⟨⟨rfl, h2⟩, .inl rfl⟩

/-- The same for a predicate. -/
theorem flagPredForm_writes {i : Instr} {d : Nat} {f : State → Path → Nat → Bool × Nat} (hd : d < 8)
    (he : ∀ s, exec i s = flagPredForm s d (f s)) : WritesPFlags i d f := by
  intro s p q hq
  refine ⟨_, (he s).trans (onPath_next hq _), pathBecomes_setPath _ _ _ _ (by simp [mergeFlags]), ?_, fun a => ?_,
    flagsMerged_of s (setPs s q.gang d _) p q _ (fun l => ((f s q l).1.toNat, (f s q l).2)) (by simp), ?_⟩
  · simp only [OnlyPF, advance_eq, setPath, mergeFlags, mergeFlagsIn, setPs]; split <;> rfl
  · simp only [advance_eq, setPath, mergeFlags, mergeFlagsIn, setPs]; split <;> rfl
  · intro gid l r hl hr
    rw [advance_eq, getP_setPath]
    change (_ → getP (setPs s q.gang d _) gid l r = _) ∧ (_ → getP (setPs s q.gang d _) gid l r = _)
    rw [getP_setPs_lanes _ _ _ _ _ hd _ _ _ hl hr]
    constructor
    · rintro ⟨⟨rfl, h2⟩, rfl, h7⟩; rw [if_pos ⟨rfl, h2, rfl, h7⟩]
    · intro h; rw [if_neg]; rintro ⟨rfl, h2, rfl, h7⟩; exact h ⟨⟨rfl, h2⟩, rfl, h7⟩

end Sys2Proof.Machine
end

