-- ==== Sys2Proof/Laws/Bits.lean ====
section
/-! SUPPORT. The bit helpers of the pseudocode and the register reads, as operations of bit vectors. -/

namespace Sys2Proof.Machine

theorem getV_eq (s : State) (q : Path) (l r : Nat) : getV s q.gang l r = (vWord s q l r).toNat := by
  rw [vWord, BitVec.toNat_ofNat]
  exact (Nat.mod_eq_of_lt (bGet_lt _ _)).symm

theorem getG_eq (s : State) (q : Path) (r : Nat) : getG s q r = (gWord s q r).toNat := by
  rw [gWord, BitVec.toNat_ofNat]
  exact (Nat.mod_eq_of_lt (bGet_lt _ _)).symm

theorem getPair_eq (s : State) (q : Path) (l r : Nat) : getPair s q.gang l r = (vPair s q l r).toNat := by
  rw [getPair, getV_eq, getV_eq, vPair, BitVec.toNat_append, Nat.shiftLeft_eq, Nat.mul_comm _ (2 ^ 32),
    ← Nat.two_pow_add_eq_or_of_lt (vWord s q l r).isLt, Nat.add_comm]

/-- The signed value of a bit vector's number (R15). -/
theorem sext_toNat {n : Nat} (x : BitVec n) (h : 0 < n) : sext x.toNat n = x.toInt := by
  unfold sext
  rw [BitVec.toInt_eq_toNat_cond, Nat.mod_eq_of_lt x.isLt]
  obtain ⟨k, rfl⟩ : ∃ k, n = k + 1 := ⟨n - 1, by omega⟩
  have h2 : 2 ^ (k + 1) = 2 ^ k * 2 := Nat.pow_succ ..
  simp only [Nat.add_sub_cancel, h2]
  by_cases hx : x.toNat < 2 ^ k
  · rw [if_pos hx, if_pos (by omega)]
  · rw [if_neg hx, if_neg (by omega)]

theorem wrapInt_eq (x : Int) (n : Nat) : wrapInt x n = (BitVec.ofInt n x).toNat := by
  simp [wrapInt]

theorem wrapInt_lt (x : Int) (n : Nat) : wrapInt x n < 2 ^ n := by
  rw [wrapInt_eq]; exact BitVec.isLt _

@[simp] theorem wrapInt_mod (x : Int) (n : Nat) : wrapInt x n % 2 ^ n = wrapInt x n := Nat.mod_eq_of_lt (wrapInt_lt x n)

theorem bits_low (x n : Nat) : bits x n 0 = x % 2 ^ (n + 1) := by simp [bits]

theorem bits_lt (x hi lo : Nat) : bits x hi lo < 2 ^ (hi + 1 - lo) := Nat.mod_lt _ (Nat.pow_pos (by omega))

end Sys2Proof.Machine
end

