-- ==== Sys2Proof/Laws/Memory.lean ====
section
/-! SUPPORT. Laws of memory: what a byte reads as after bytes are stored, that a number reads back, and that the memory operations
keep the canonical form of memory and of the scratchpads. -/

namespace Sys2Proof.Machine

/-! Bytes. -/

@[simp] theorem toBytes_length (n x : Nat) : (toBytes n x).length = n := by
  induction n generalizing x with
  | zero => rfl
  | succ n ih => simp [toBytes, ih]

theorem ofBytes_toBytes (n x : Nat) : ofBytes (toBytes n x) = x % 256 ^ n := by
  induction n generalizing x with
  | zero => simp [toBytes, ofBytes, Nat.mod_one]
  | succ n ih => rw [toBytes, ofBytes, ih, Nat.pow_succ', Nat.mod_mul]

/-- A byte below the bytes stored reads as before. -/
theorem bGet_writeMem_below (m : Memory) (a : Nat) (bs : List Nat) (x : Nat) (h : x < a) : bGet (writeMem m a bs) x = bGet m x := by
  induction bs generalizing m a with
  | nil => rfl
  | cons b bs ih => rw [writeMem, ih _ _ (by omega), bGet_bSet, if_neg (by omega)]

/-- A byte after bytes are stored: the stored one inside them, the old one outside (R22). -/
theorem bGet_writeMem (m : Memory) (a : Nat) (bs : List Nat) (x : Nat) : bGet (writeMem m a bs) x =
    if a ≤ x ∧ x < a + bs.length then nth bs (x - a) % 256 else bGet m x := by
  induction bs generalizing m a with
  | nil => rw [if_neg (by simp)]; rfl
  | cons b bs ih =>
    rw [writeMem, ih, bGet_bSet]
    simp only [List.length_cons]
    by_cases h : a = x
    · subst h
      rw [if_neg (by omega), if_pos rfl, if_pos (by omega)]
      simp [nth]
    · rw [if_neg h]
      by_cases h' : a + 1 ≤ x ∧ x < a + 1 + bs.length
      · rw [if_pos h', if_pos (by omega)]
        obtain ⟨k, rfl⟩ : ∃ k, x = a + 1 + k := ⟨x - (a + 1), by omega⟩
        rw [show a + 1 + k - (a + 1) = k by omega, show a + 1 + k - a = k + 1 by omega]
        simp [nth]
      · rw [if_neg h', if_neg (by omega)]

/-- A number stored reads back (R3). -/
theorem readMem_writeMem_toBytes (m : Memory) (a n x : Nat) : readMem (writeMem m a (toBytes n x)) a n = x % 256 ^ n := by
  induction n generalizing m a x with
  | zero => simp [readMem, Nat.mod_one]
  | succ n ih =>
    have hx : x % 256 % 2 ^ 8 = x % 256 := Nat.mod_eq_of_lt (Nat.mod_lt _ (by decide))
    rw [readMem, toBytes, writeMem, ih, bGet_writeMem_below _ _ _ _ (by omega), bGet_bSet_self, hx,
      show 256 ^ (n + 1) = 256 * 256 ^ n from Nat.pow_succ', Nat.mod_mul]

/-- Bytes disjoint from those stored read as before. -/
theorem readMem_writeMem_of_disjoint (m : Memory) (a b n : Nat) (bs : List Nat) (h : b + n ≤ a ∨ a + bs.length ≤ b) :
    readMem (writeMem m a bs) b n = readMem m b n := by
  induction n generalizing b with
  | zero => rfl
  | succ n ih => rw [readMem, readMem, ih _ (by omega), bGet_writeMem, if_neg (by omega)]

/-- Storing bytes keeps the canonical form. -/
theorem Memory.wf_writeMem (m : Memory) (a : Nat) (bs : List Nat) (h : Memory.wf m = true) :
    Memory.wf (writeMem m a bs) = true := by
  induction bs generalizing m a with
  | nil => exact h
  | cons b bs ih => exact ih _ _ (Bank.wf_bSet _ _ _ h)

theorem Memory.wf_filter (m : Memory) (p : Host.Cell → Bool) (h : Memory.wf m = true) : Memory.wf (m.filter p) = true :=
  Bank.wf_filter m p h

/-! The canonical form of a state's memory. -/

/-- A state with the memory and the scratchpads of a canonical one is canonical: what a change of any other field needs. -/
theorem Canonical.of_eq {s t : State} (h : Canonical s) (hm : t.mem = s.mem) (hs : t.scratch = s.scratch) : Canonical t := by
  unfold Canonical; rw [hm, hs]; exact h

/-- Steps that each keep the form keep it together. -/
theorem Canonical.foldl {α : Type} {f : State → α → State} (hf : ∀ s x, Canonical s → Canonical (f s x)) (xs : List α) {s : State}
    (h : Canonical s) : Canonical (xs.foldl f s) := by
  induction xs generalizing s with
  | nil => exact h
  | cons x xs ih => exact ih (hf s x h)

/-- The same for steps that also carry a result along. -/
theorem Canonical.foldl_fst {α β : Type} {f : State × β → α → State × β} (hf : ∀ p x, Canonical p.1 → Canonical (f p x).1)
    (xs : List α) {p : State × β} (h : Canonical p.1) : Canonical (xs.foldl f p).1 := by
  induction xs generalizing p with
  | nil => exact h
  | cons x xs ih => exact ih (hf p x h)

theorem Memory.wf_foldl_bSet (m : Memory) (bs : List (Nat × Nat)) (h : Memory.wf m = true) :
    Memory.wf (bs.foldl (fun m b => bSet m b.1 b.2) m) = true := by
  induction bs generalizing m with
  | nil => exact h
  | cons b bs ih => exact ih _ (Bank.wf_bSet _ _ _ h)

section
variable {s : State}

theorem Canonical.memPut (h : Canonical s) (a : Nat) (bs : List Nat) : Canonical (memPut s a bs) := ⟨Memory.wf_writeMem _ _ _ h.1, h.2⟩

theorem Canonical.memPutAll (h : Canonical s) (bs : List (Nat × Nat)) : Canonical (memPutAll s bs) :=
  ⟨Memory.wf_foldl_bSet _ _ h.1, h.2⟩

theorem Canonical.scratchWrite (h : Canonical s) (wg a : Nat) (bs : List Nat) : Canonical (scratchWrite s wg a bs) :=
  ⟨h.1, Memory.wf_writeMem _ _ _ h.2⟩

@[simp] theorem canonical_setLine (ln : Nat) (l : Line) : Canonical (setLine s ln l) ↔ Canonical s := Iff.rfl
@[simp] theorem canonical_askLine (ln : Nat) (r : HomeReq) : Canonical (askLine s ln r) ↔ Canonical s := Iff.rfl
@[simp] theorem canonical_dropWords (core : Nat) (ws : List Nat) : Canonical (dropWords s core ws) ↔ Canonical s := Iff.rfl
@[simp] theorem canonical_dropClean (core : Nat) (ws : List Nat) : Canonical (dropClean s core ws) ↔ Canonical s := Iff.rfl
@[simp] theorem canonical_unkeep (which : PeerReq → Bool) : Canonical (unkeep s which) ↔ Canonical s := Iff.rfl
@[simp] theorem canonical_markClean (core : Nat) (ws : List Nat) : Canonical (markClean s core ws) ↔ Canonical s := Iff.rfl
@[simp] theorem canonical_dropCached (gone : CacheLine → Bool) : Canonical (dropCached s gone) ↔ Canonical s := Iff.rfl
@[simp] theorem canonical_unholdLine (die ln : Nat) : Canonical (unholdLine s die ln) ↔ Canonical s := Iff.rfl
@[simp] theorem canonical_countRegion (a : Nat) (f : Region → Region) : Canonical (countRegion s a f) ↔ Canonical s := Iff.rfl
@[simp] theorem canonical_countRequest (a : Nat) (b : Bool) : Canonical (countRequest s a b) ↔ Canonical s := Iff.rfl
@[simp] theorem canonical_countCollapse (a : Nat) : Canonical (countCollapse s a) ↔ Canonical s := Iff.rfl
@[simp] theorem canonical_markRecall (ln : Nat) (xs : List Span) : Canonical (markRecall s ln xs) ↔ Canonical s := Iff.rfl
@[simp] theorem canonical_invalidate (ln die left : Nat) : Canonical (invalidate s ln die left) ↔ Canonical s := Iff.rfl
@[simp] theorem canonical_opArrive (op lane x : Nat) : Canonical (opArrive s op lane x) ↔ Canonical s := Iff.rfl
@[simp] theorem canonical_addPoison (es : List ErrorPlace) : Canonical (addPoison s es) ↔ Canonical s := Iff.rfl
@[simp] theorem canonical_roDrop (gone : RoLine → Bool) : Canonical (roDrop s gone) ↔ Canonical s := Iff.rfl

/-! Spans and the L1s. -/

theorem Canonical.putBack (h : Canonical s) (bs : List (Nat × Nat)) (bad : List Nat) : Canonical (putBack s bs bad) :=
  (canonical_addPoison _).2 (h.memPutAll bs)

theorem Canonical.dropSpan (h : Canonical s) (ln : Nat) (x : Span) : Canonical (dropSpan s ln x) :=
  (canonical_dropWords _ _).2 (h.putBack _ _)

theorem Canonical.recallSpan (h : Canonical s) (ln : Nat) (x : Span) : Canonical (recallSpan s ln x) :=
  (canonical_setLine _ _).2 (Canonical.foldl (fun _ y h => h.dropSpan ln y) _ h)

theorem Canonical.recallAll (h : Canonical s) (ln : Nat) (xs : List Span) : Canonical (recallAll s ln xs) :=
  Canonical.foldl (fun _ y h => h.recallSpan ln y) _ h

theorem Canonical.sendBack (h : Canonical s) (core ctx rt ln : Nat) (bs : List (Nat × Nat)) (bad : List Nat) :
    Canonical (sendBack s core ctx rt ln bs bad) := by
  unfold Machine.sendBack
  split
  · exact h
  · exact (canonical_askLine _ _).2 h

theorem Canonical.writeBackAs (h : Canonical s) (rt core ln : Nat) (words : List Nat) : Canonical (writeBackAs rt s core ln words) := by
  unfold Machine.writeBackAs
  dsimp only
  split
  · exact h
  · refine Canonical.sendBack ((canonical_markClean _ _).2 ?_) _ _ _ _ _ _
    split
    · exact h
    · exact h.putBack _ _

theorem Canonical.writeBackWords (h : Canonical s) (core ln : Nat) (words : List Nat) : Canonical (writeBackWords s core ln words) :=
  h.writeBackAs _ _ _ _

theorem Canonical.writeBackLine (h : Canonical s) (core ln : Nat) : Canonical (writeBackLine s core ln) := h.writeBackWords _ _ _

theorem Canonical.writeBackRange (h : Canonical s) (core a n : Nat) : Canonical (writeBackRange s core a n) :=
  Canonical.foldl (fun _ ln h => h.writeBackWords core ln _) _ h

theorem Canonical.evictWord (h : Canonical s) (core a : Nat) : Canonical (evictWord s core a) :=
  (canonical_dropWords _ _).2 ((h.recallAll _ _).writeBackWords _ _ _)

theorem Canonical.trimL1 (h : Canonical s) (core ln fuel : Nat) : Canonical (trimL1 core ln fuel s) := by
  induction fuel generalizing s with
  | zero => exact h
  | succ n ih =>
    unfold Machine.trimL1
    dsimp only
    split
    · exact h
    · split
      · exact ih (h.evictWord _ _)
      · exact h

theorem Canonical.l1Put (h : Canonical s) (core ctx : Nat) (kind : L1Kind) (dirty : Bool) (bs : List (Nat × Nat)) :
    Canonical (l1Put s core ctx kind dirty bs) := by
  unfold Machine.l1Put
  split
  · exact h
  · dsimp only
    refine Canonical.trimL1 ?_ _ _ _
    exact h.of_eq rfl rfl

theorem Canonical.l1Update (h : Canonical s) (core ctx a : Nat) (kind : L1Kind) (bs : List Nat) :
    Canonical (l1Update s core ctx a kind bs) := h.l1Put _ _ _ _ _

theorem Canonical.l1Fill (h : Canonical s) (core ctx a n : Nat) (kind : L1Kind) : Canonical (l1Fill s core ctx a n kind) :=
  h.l1Put _ _ _ _ _

/-! The shared cache. -/

theorem Canonical.giveUp (h : Canonical s) (e ln : Nat) : Canonical (giveUp s e ln) :=
  (canonical_setLine _ _).2 (Canonical.recallAll ((canonical_unholdLine _ _).2 h) _ _)

theorem Canonical.evictCopy (h : Canonical s) (x : CacheLine) : Canonical (evictCopy s x) := by
  unfold Machine.evictCopy
  have hu := (canonical_unholdLine (s := s) x.die x.line).2 h
  dsimp only
  split
  · exact hu
  · split
    · split <;> exact (canonical_setLine _ _).2 hu
    · split
      · exact (canonical_setLine _ _).2 hu
      · split
        · exact hu.giveUp _ _
        · exact hu
    · exact hu

theorem Canonical.makeRoom (h : Canonical s) (slice c : Nat) : Canonical (makeRoom s slice c) := by
  unfold Machine.makeRoom
  split
  · exact h.evictCopy _
  · exact h

theorem Canonical.holdLine (h : Canonical s) (die ln ctx : Nat) (peer first : Bool) : Canonical (holdLine s die ln ctx peer first) := by
  unfold Machine.holdLine
  split
  · exact h.of_eq rfl rfl
  · dsimp only
    refine Canonical.of_eq (s := if _ then _ else _) ?_ rfl rfl
    split
    · exact h.makeRoom _ _
    · exact h

/-! The home slices. -/

theorem Canonical.consumePackage (h : Canonical s) (place : ErrorPlace) (die unit : Nat) : Canonical (consumePackage s place die unit) := by
  unfold Machine.consumePackage
  split
  · exact h.of_eq rfl rfl
  · exact h

theorem Canonical.noteSnoop (h : Canonical s) (die ln : Nat) : Canonical (noteSnoop s die ln) := by
  unfold Machine.noteSnoop
  have hc := h.consumePackage (.snoop (holderSlice die ln)) die (bankUnit (holderSlice die ln * 4))
  dsimp only
  split
  · exact hc
  · refine Canonical.of_eq (s := if _ then _ else _) ?_ rfl rfl
    split
    · split
      · exact hc.recallAll _ _
      · exact hc
    · exact hc

theorem Canonical.roomIn (h : Canonical s) (ln : Nat) (map : List Span) : Canonical (roomIn s ln map) := by
  unfold Machine.roomIn
  split
  · split
    · exact h.recallSpan _ _
    · exact h
  · exact h

theorem Canonical.grantSpan (h : Canonical s) (ln core ctx first len : Nat) : Canonical (grantSpan s ln core ctx first len) :=
  Canonical.l1Fill (Canonical.noteSnoop ((canonical_setLine _ _).2 (h.roomIn _ _)) _ _) _ _ _ _ _

theorem Canonical.grantProxy (h : Canonical s) (ln die first len : Nat) : Canonical (grantProxy s ln die first len) :=
  (canonical_setLine _ _).2 (h.roomIn _ _)

theorem Canonical.arriveAt (h : Canonical s) (ln : Nat) (r : HomeReq) (atHome : Bool) : Canonical (arriveAt s ln r atHome) := by
  unfold Machine.arriveAt
  cases atHome
  · dsimp only
    split
    · exact h
    · exact h.holdLine _ _ _ _ _
  · have hc := (canonical_countRequest (s := s) (ln * 128) (decide (r.kind = .read) && r.die != homeDie (ln * 128) && decide (r.pin = 0))).2 h
    dsimp only
    split
    · exact hc
    · exact hc.holdLine _ _ _ _ _

theorem Canonical.serveReq (h : Canonical s) (ln : Nat) (r : HomeReq) (atHome : Bool) : Canonical (serveReq s ln r atHome) := by
  unfold Machine.serveReq
  have h1 := h.arriveAt ln r atHome
  revert h1
  generalize Machine.arriveAt s ln r atHome = u
  intro h1
  dsimp only
  split
  · exact h1.putBack _ _
  · refine (canonical_opArrive _ _ _).2 ?_
    split
    · exact h1.l1Fill _ _ _ _ _
    · exact h1.grantSpan _ _ _ _ _
  · refine (canonical_opArrive _ _ _).2 ?_
    split
    · exact h1.l1Fill _ _ _ _ _
    · split
      · exact (canonical_dropClean _ _).2 h1
      · exact h1
  · exact h1

theorem Canonical.serveHead (h : Canonical s) (ln : Nat) (r : HomeReq) (dir : DirState) (atHome : Bool) :
    Canonical (serveHead s ln r dir atHome) := Canonical.serveReq ((canonical_setLine _ _).2 h) _ _ _

theorem Canonical.homeUnc (h : Canonical s) (ln : Nat) (r : HomeReq) : Canonical (homeUnc s ln r) := by
  unfold Machine.homeUnc
  dsimp only
  split
  · exact (canonical_markRecall _ _).2 h
  · split
    · exact Canonical.serveHead (Canonical.grantProxy (h.holdLine _ _ _ _ _) _ _ _ _) _ _ _ _
    · split
      · exact (h.holdLine _ _ _ _ _).serveHead _ _ _ _
      · exact h.serveHead _ _ _ _

theorem Canonical.cleanFirst (h : Canonical s) (ln : Nat) (r : HomeReq) : Canonical (cleanFirst s ln r) :=
  (canonical_setLine _ _).2 (h.writeBackWords _ _ _)

theorem Canonical.homeStep (h : Canonical s) (ln : Nat) : Canonical (homeStep s ln) := by
  unfold Machine.homeStep
  split
  · exact h
  · have hc := h.consumePackage (.directory ln) (homeDie (ln * 128)) (bankUnit (homeBank (ln * 128)))
    dsimp only
    split
    · exact hc.cleanFirst _ _
    · split
      · exact hc.homeUnc _ _
      · split
        · refine (canonical_setLine _ _).2 ?_
          split
          · exact (canonical_countCollapse _).2 hc
          · exact hc
        · split
          · exact (canonical_markRecall _ _).2 hc
          · split
            · exact (hc.holdLine _ _ _ _ _).serveHead _ _ _ _
            · exact hc.serveHead _ _ _ _
      · split
        · exact (canonical_setLine _ _).2 hc
        · split
          · exact (canonical_markRecall _ _).2 hc
          · exact hc.serveHead _ _ _ _
      · exact hc

theorem Canonical.recallMarked (h : Canonical s) (ln : Nat) : Canonical (recallMarked s ln) := by
  unfold Machine.recallMarked
  split
  · exact h.recallSpan _ _
  · exact h

theorem Canonical.lineStep (h : Canonical s) (ln : Nat) : Canonical (lineStep s ln) := by
  unfold Machine.lineStep
  dsimp only
  split
  · exact (canonical_setLine _ _).2 h
  · exact (canonical_setLine _ _).2 h
  · exact (canonical_invalidate _ _ _).2 h
  · exact h.giveUp _ _
  · split
    · exact h.recallMarked _
    · exact h.homeStep _

theorem Canonical.settleSteps (h : Canonical s) (ln fuel : Nat) : Canonical (settleSteps ln fuel s) := by
  induction fuel generalizing s with
  | zero => exact h
  | succ n ih =>
    unfold Machine.settleSteps
    dsimp only
    split
    · exact h
    · exact ih (h.lineStep _)

theorem Canonical.settleLine (h : Canonical s) (ln : Nat) : Canonical (settleLine s ln) := h.settleSteps _ _

theorem Canonical.homeDo (h : Canonical s) (ln : Nat) (r : HomeReq) : Canonical (homeDo s ln r) :=
  Canonical.settleLine ((canonical_askLine _ _).2 h) _

theorem Canonical.homeEach (h : Canonical s) (w : Who) (kind : HomeKind) (a n : Nat) (bs : List (Nat × Nat)) :
    Canonical (homeEach s w kind a n bs) := Canonical.foldl (fun _ ln h => h.homeDo ln _) _ h

theorem Canonical.ncRequest (h : Canonical s) (w : Who) (read : Bool) (a n : Nat) : Canonical (ncRequest s w read a n) := by
  refine Canonical.foldl (fun s ln h => ?_) _ h
  dsimp only
  split
  · exact (canonical_countRequest _ _).2 h
  · exact Canonical.holdLine ((canonical_countRequest _ _).2 h) _ _ _ _ _

theorem Canonical.hostSend (h : Canonical s) (c : Nat) (kind : HostKind) (a n : Nat) : Canonical (hostSend s c kind a n) := by
  unfold Machine.hostSend
  split
  · exact h.of_eq rfl rfl
  · exact h

theorem Canonical.homeRead (h : Canonical s) (w : Who) (a n : Nat) : Canonical (homeRead s w a n).1 := by
  unfold Machine.homeRead
  dsimp only
  split
  · exact h.hostSend _ _ _ _
  · split
    · exact h.ncRequest _ _ _ _
    · exact h.homeEach _ _ _ _ _

theorem Canonical.homeWrite (h : Canonical s) (w : Who) (a : Nat) (bs : List Nat) : Canonical (homeWrite s w a bs) := by
  unfold Machine.homeWrite
  split
  · exact (h.hostSend _ _ _ _).memPut _ _
  · split
    · exact (h.ncRequest _ _ _ _).memPut _ _
    · exact h.homeEach _ _ _ _ _

theorem Canonical.homeOpen (h : Canonical s) (w : Who) (a n : Nat) : Canonical (homeOpen s w a n) := by
  unfold Machine.homeOpen
  split
  · exact h.homeEach _ _ _ _ _
  · exact h

theorem Canonical.obtainOwn (h : Canonical s) (core ctx pin a n : Nat) : Canonical (obtainOwn s core ctx pin a n) := h.homeDo _ _

theorem Canonical.flushDirtySi (h : Canonical s) (core : Nat) : Canonical (flushDirtySi s core) :=
  Canonical.foldl (fun _ ln h => (h.writeBackLine core ln).settleLine ln) _ h

theorem Canonical.acquire (h : Canonical s) (scope core ctx : Nat) : Canonical (acquire s scope core ctx) := by
  unfold Machine.acquire
  split
  · exact h
  · dsimp only
    split
    · exact (canonical_unkeep _).2 ((canonical_dropCached _).2 ((canonical_dropWords _ _).2 (h.flushDirtySi core)))
    · exact (canonical_dropWords _ _).2 (h.flushDirtySi core)

theorem Canonical.roInsert (h : Canonical s) (x : RoLine) : Canonical (roInsert s x) := by
  unfold Machine.roInsert
  dsimp only
  refine Canonical.of_eq (s := if _ then _ else _) ?_ rfl rfl
  split
  · split
    · exact (canonical_roDrop _).2 (h.of_eq rfl rfl)
    · exact h.of_eq rfl rfl
  · exact h.of_eq rfl rfl

theorem Canonical.touchP (h : Canonical s) (die ctx ln : Nat) : Canonical (touchP s die ctx ln) := by
  unfold Machine.touchP
  split
  · exact h.holdLine _ _ _ _ _
  · exact h

theorem Canonical.roLine (h : Canonical s) (w : Who) (core ctx ln : Nat) : Canonical (roLine s w core ctx ln).1 := by
  have hr : ∀ words : List Nat, Canonical (if words.length = 32 then (Machine.homeRead s w (ln * 128) 128).1
      else words.foldl (fun s a => (Machine.homeRead s w a 4).1) s) := by
    intro words
    split
    · exact h.homeRead _ _ _
    · exact Canonical.foldl (fun _ a h => h.homeRead w a 4) _ h
  unfold Machine.roLine
  dsimp only
  split
  · exact (hr _).touchP _ _ _
  · exact hr _

theorem Canonical.roFill (h : Canonical s) (w : Who) (core ctx ln : Nat) : Canonical (roFill s w core ctx ln) :=
  (canonical_addPoison _).2 ((h.roLine w core ctx ln).roInsert _)

theorem Canonical.roRead (h : Canonical s) (w : Who) (core ctx a n : Nat) : Canonical (roRead s w core ctx a n).1 := by
  unfold Machine.roRead
  dsimp only
  split
  · exact h.roInsert _
  · exact h.roFill _ _ _ _

end

/-- The memory and the scratchpads are canonical right after reset: nothing is listed. -/
theorem reset_canonical : Canonical State.reset := ⟨rfl, rfl⟩

end Sys2Proof.Machine
end

