-- ==== Sys2Proof/Laws/Traps.lean ====
section
/-! SUPPORT. Laws of the shared operations: what taking an exception and returning from one can do, and that translation, engine
accesses, records and exceptions keep memory canonical. -/

namespace Sys2Proof.Machine

variable {s : State}

/-! Translation and engine accesses. -/

theorem Canonical.walkFrom (h : Canonical s) (w : Who) (va fuel lvl table : Nat) (path : List (Nat × Nat)) :
    Canonical (walkFrom w va fuel lvl table path s).1 := by
  induction fuel generalizing lvl table path s with
  | zero => exact h
  | succ fuel ih =>
    have hr := h.homeRead w (table + 8 * levelIndex lvl va) 8
    unfold Machine.walkFrom
    dsimp only
    split
    · exact hr
    · split
      · exact hr
      · split
        · split
          · exact ih hr _ _ _
          · exact hr
        · split
          · split
            · split <;> exact hr
            · split
              · exact ih hr _ _ _
              · exact hr
          · split <;> exact hr

theorem Canonical.walk (h : Canonical s) (w : Who) (va : Nat) : Canonical (walk s w va).1 := h.walkFrom _ _ _ _ _ _

theorem Canonical.markWalk (h : Canonical s) (w : Who) (path : List (Nat × Nat)) (dirty : Bool) : Canonical (markWalk s w path dirty) := by
  refine Canonical.foldl (fun s e h => ?_) _ h
  dsimp only
  split
  · split
    · exact h
    · exact h.homeWrite _ _ _
  · split
    · exact h
    · exact h.homeWrite _ _ _

theorem Canonical.tlbRoom (h : Canonical s) (core : Nat) : Canonical (tlbRoom s core) := by
  unfold Machine.tlbRoom
  split
  · exact h
  · split
    · exact h.of_eq rfl rfl
    · split
      · exact h.of_eq rfl rfl
      · exact h

theorem Canonical.tlbInsert (h : Canonical s) (t : TlbEntry) : Canonical (tlbInsert s t) :=
  have hr := Canonical.tlbRoom (s := { s with tlb := s.tlb.filter fun x => !(x.core == t.core && x.ctx == t.ctx && x.va == t.va && x.size == t.size) })
    (h.of_eq rfl rfl) t.core
  ⟨hr.1, hr.2⟩

theorem Canonical.translate (h : Canonical s) (c core : Nat) (sup : Bool) (acc : Acc) (va n : Nat) :
    Canonical (translate s c core sup acc va n).1 := by
  have hw := h.walk (whoOf core c 0) va
  unfold Machine.translate
  dsimp only
  split
  · exact h
  · split
    · exact h
    · split
      · exact h
      · split <;> exact hw

theorem Canonical.commitXl (h : Canonical s) (c core : Nat) (acc : Acc) (va : Nat) (walked : List (Nat × Nat)) :
    Canonical (commitXl s c core acc va walked) := by
  unfold Machine.commitXl
  split
  · exact h
  · split
    · exact h
    · exact (h.markWalk _ _ _).tlbInsert _

theorem Canonical.askService (h : Canonical s) (c core page : Nat) (host : Bool) (acc : Acc) :
    Canonical (askService s c core page host acc) := by
  unfold Machine.askService
  split
  · exact h
  · split <;> exact h.of_eq rfl rfl

@[simp] theorem canonical_sendPeer (r : PeerReq) : Canonical (sendPeer s r) ↔ Canonical s := by
  unfold sendPeer
  dsimp only
  split <;> exact Iff.rfl

@[simp] theorem canonical_countFailedAccess : Canonical (countFailedAccess s) ↔ Canonical s := Iff.rfl

theorem Canonical.readFault (h : Canonical s) (pa : Nat) : Canonical (readFault s pa).1 := by
  unfold Machine.readFault
  split
  · exact h.of_eq rfl rfl
  · exact h

theorem Canonical.checkPart (h : Canonical s) (c core : Nat) (acc : Acc) (pn : Nat × Nat) : Canonical (checkPart s c core acc pn).1 := by
  have ht := h.translate c core false acc (pn.1 % 2 ^ 64) 1
  unfold Machine.checkPart
  dsimp only
  split
  · exact ht
  · exact ht
  · split
    · exact ht
    · split <;> exact ht

theorem Canonical.checkParts (h : Canonical s) (c core : Nat) (acc : Acc) (ps : List (Nat × Nat)) :
    Canonical (checkParts s c core acc ps).1 := by
  unfold Machine.checkParts
  refine Canonical.foldl_fst (fun p x hp => ?_) ps ?_
  · exact hp.checkPart c core acc x
  · exact h

theorem Canonical.settleFail (h : Canonical s) (c core : Nat) (acc : Acc) (code detail va : Nat) :
    Canonical (settleFail s c core acc code detail va) := by
  unfold Machine.settleFail
  split
  · exact canonical_countFailedAccess.2 h
  · split
    · have ht := h.translate c core false acc (va % 2 ^ 64) 1
      revert ht
      generalize Machine.translate s c core false acc (va % 2 ^ 64) 1 = r
      rcases r with ⟨u, pa | _ | _⟩ <;> intro ht
      · exact ht.readFault _
      · exact ht
      · exact ht
    · exact h

theorem Canonical.engCheckAll (h : Canonical s) (c core : Nat) (acc : Acc) (blocks : List (Nat × Nat)) :
    Canonical (engCheckAll s c core acc blocks).1 := by
  have key := Canonical.foldl_fst (f := fun (a : State × List PartOut) (b : Nat × Nat) =>
    ((Machine.checkParts a.1 c core acc (partsOf a.1 c core acc b.1 b.2)).1,
      a.2 ++ (Machine.checkParts a.1 c core acc (partsOf a.1 c core acc b.1 b.2)).2)) (fun _ x hp => hp.checkParts c core acc _) blocks
      (p := (s, [])) h
  unfold Machine.engCheckAll
  dsimp only
  split
  · exact key.askService _ _ _ _ _
  · split
    · exact key.settleFail _ _ _ _ _ _
    · exact key
    · exact key

theorem Canonical.commitParts (h : Canonical s) (c core : Nat) (acc : Acc) (ps : List (Part × List (Nat × Nat))) :
    Canonical (commitParts s c core acc ps) := Canonical.foldl (fun _ p h => h.commitXl c core acc _ p.2) _ h

theorem Canonical.engTranslateAll (h : Canonical s) (c core : Nat) (acc : Acc) (blocks : List (Nat × Nat)) :
    Canonical (engTranslateAll s c core acc blocks).1 := by
  have key := h.engCheckAll c core acc blocks
  unfold Machine.engTranslateAll
  dsimp only
  split
  · exact key
  · exact key.commitParts _ _ _ _

theorem Canonical.engTranslate (h : Canonical s) (c core : Nat) (acc : Acc) (va n : Nat) :
    Canonical (engTranslate s c core acc va n).1 := h.engTranslateAll _ _ _ _

theorem Canonical.updateCopies (h : Canonical s) (c core pa : Nat) (bs : List Nat) : Canonical (updateCopies s c core pa bs) := by
  refine Canonical.l1Update (Canonical.foldl (fun s ln h => ?_) _ h) _ _ _ _ _
  split
  · exact h.memPut _ _
  · exact h

theorem Canonical.writeAtPeer (h : Canonical s) (c core cmd va pa : Nat) (bs : List Nat) : Canonical (writeAtPeer s c core cmd va pa bs) :=
  Canonical.foldl (fun _ _ h => (canonical_sendPeer _).2 h) _ (h.updateCopies c core pa bs)

theorem Canonical.writeParts (h : Canonical s) (c core cmd : Nat) (ps : List Part) (bs : List Nat) :
    Canonical (writeParts s c core cmd ps bs) := by
  induction ps generalizing s bs with
  | nil => exact h
  | cons p ps ih =>
    refine ih ?_ _
    split
    · exact h.writeAtPeer _ _ _ _ _ _
    · split
      · exact (h.updateCopies _ _ _ _).homeWrite _ _ _
      · exact h.homeWrite _ _ _

theorem Canonical.engWrite (h : Canonical s) (c core cmd va : Nat) (bs : List Nat) : Canonical (engWrite s c core cmd va bs).1 := by
  have ht := h.engTranslate c core .write va bs.length
  unfold Machine.engWrite
  dsimp only
  split
  · exact ht
  · exact ht.writeParts _ _ _ _ _

theorem Canonical.readParts (h : Canonical s) (c core cmd : Nat) (ps : List Part) : Canonical (readParts s c core cmd ps).1 := by
  refine Canonical.foldl_fst (fun a x ha => ?_) ps h
  dsimp only
  refine Canonical.homeRead ?_ _ _ _
  split
  · exact Canonical.foldl (fun _ ln h => h.touchP _ c ln) _ ha
  · exact ha

theorem Canonical.askPeerLine (h : Canonical s) (who ctx ln gang core va : Nat) : Canonical (askPeerLine s who ctx ln gang core va) := by
  unfold Machine.askPeerLine
  split
  · exact h
  · exact (canonical_sendPeer _).2 h

theorem Canonical.engReadParts (h : Canonical s) (c core cmd : Nat) (ps : List Part) : Canonical (engReadParts s c core cmd ps).1 := by
  unfold Machine.engReadParts
  split
  · split
    · exact h.of_eq rfl rfl
    · exact h.askPeerLine _ _ _ _ _ _
  · exact h.readParts _ _ _ _

theorem Canonical.engRead (h : Canonical s) (c core cmd va n : Nat) : Canonical (engRead s c core cmd va n).1 := by
  have ht := h.engTranslate c core .read va n
  unfold Machine.engRead
  dsimp only
  split
  · exact ht
  · exact ht.engReadParts _ _ _ _

/-! Records and faults. -/

@[simp] theorem raiseQueue_mem (k : Nat) : (raiseQueue s k).mem = s.mem := rfl
@[simp] theorem raiseQueue_scratch (k : Nat) : (raiseQueue s k).scratch = s.scratch := rfl
@[simp] theorem canonical_setPath (p : Nat) (q : Path) : Canonical (setPath s p q) ↔ Canonical s := Iff.rfl
@[simp] theorem canonical_setCsr (q : Path) (i x : Nat) : Canonical (setCsr s q i x) ↔ Canonical s := Iff.rfl
@[simp] theorem canonical_modCtx (c : Nat) (f : Context → Context) : Canonical (modCtx s c f) ↔ Canonical s := Iff.rfl

@[simp] theorem canonical_raiseQueue (k : Nat) : Canonical (raiseQueue s k) ↔ Canonical s := Iff.rfl
@[simp] theorem canonical_setQReg (k r x : Nat) : Canonical (setQReg s k r x) ↔ Canonical s := Iff.rfl
@[simp] theorem canonical_countLostRecord : Canonical (countLostRecord s) ↔ Canonical s := Iff.rfl

theorem Canonical.writeRecord (h : Canonical s) (k : Nat) (ws : List Nat) : Canonical (writeRecord s k ws) := by
  have ht := h.engCheckAll (k / 16) frontCore .write [((qReg s k qRecBase + 64 * (qReg s k qRecW % 64)) % 2 ^ 64, 64)]
  unfold Machine.writeRecord
  dsimp only
  split
  · exact ht.of_eq rfl rfl
  · exact (canonical_raiseQueue _).2 ((canonical_setQReg _ _ _).2 (canonical_countLostRecord.2 ht))
  · split
    · exact (canonical_raiseQueue _).2 ((canonical_setQReg _ _ _).2 (canonical_countLostRecord.2 ht))
    · exact (canonical_raiseQueue _).2 ((canonical_setQReg _ _ _).2 ((ht.commitParts _ _ _ _).writeParts _ _ _ _ _))

theorem Canonical.contextFault (h : Canonical s) (c queue : Nat) (r : FaultRecord) : Canonical (contextFault s c queue r) := by
  unfold Machine.contextFault
  dsimp only
  split
  · exact Canonical.writeRecord (s := { modCtx s c _ with cmds := _, beacons := _ }) ⟨h.1, h.2⟩ _ _
  · exact h

theorem Canonical.takeTrapAt (h : Canonical s) (p : Nat) (q : Path) (t : Trap) (base : Nat) : Canonical (takeTrapAt s p q t base) := by
  unfold Machine.takeTrapAt
  split
  · exact h
  · split
    · exact h.contextFault _ _ _
    · split
      · exact h.contextFault _ _ _
      · split
        · exact (canonical_setPath _ _).2 h
        · exact (canonical_setPath _ _).2 (by simpa using h)

theorem Canonical.takeTrap (h : Canonical s) (p : Nat) (q : Path) (t : Trap) : Canonical (takeTrap s p q t) := h.takeTrapAt _ _ _ _

theorem Canonical.trapAll (h : Canonical s) (p : Nat) (q : Path) (i : Instr) (code detail addr : Nat) :
    Canonical (trapAll s p q i code detail addr) := h.takeTrap _ _ _

theorem Canonical.deliverNext (h : Canonical s) (p : Nat) : Canonical (deliverNext s p) := by
  unfold Machine.deliverNext
  split
  · exact h
  · split
    · exact h
    · split
      · exact h
      · exact h.takeTrapAt _ _ _ _

theorem Canonical.trapReturn (h : Canonical s) (p : Nat) (q : Path) (skip : Bool) : Canonical (trapReturn s p q skip) :=
  Canonical.foldl (fun _ p h => h.deliverNext p) _ ((canonical_setPath _ _).2 h)

/-! Taking an exception (R111, R114): all that it can do. -/

/-- The state after an exception taken at user level with a handler in place and no other lane of its slices at supervisor level (R111). -/
def entered (s : State) (p : Nat) (q : Path) (t : Trap) (base : Nat) : State :=
  setPath (setCsr (setCsr (setCsr (setCsr (setCsr s q csrTrapPc q.pos.hdr) q csrTrapInfo (trapInfo t)) q csrFaultAddr t.addr)
      q csrClauseHdr q.pos.hdr) q csrClause (q.pos.cls * 16 + q.pos.n)) p
    { q with sup := true, pos := ⟨base + 64 * t.code, 0, 0, 0⟩, wait := .none, cur := none, replay := none, refused := [] }

/-- The five outcomes of an exception: of a context that is FAULTED already, double fault, no handler, kept pending, and entry. -/
theorem takeTrapAt_cases (p : Nat) (q : Path) (t : Trap) (base : Nat) :
    ((ctxAt s (ctxOf s q)).state = .faulted ∧ takeTrapAt s p q t base = s) ∨
    ((ctxAt s (ctxOf s q)).state ≠ .faulted ∧
      ((q.sup = true ∧ takeTrapAt s p q t base = contextFault s (ctxOf s q) (queueOf s q) (recordOf s q t 2)) ∨
      (q.sup = false ∧ base = 0 ∧ takeTrapAt s p q t base = contextFault s (ctxOf s q) (queueOf s q) (recordOf s q t 1)) ∨
      (q.sup = false ∧ base ≠ 0 ∧ levelFree s p q = false ∧
        takeTrapAt s p q t base = setPath s p { q with pending := q.pending ++ [(t, base)], wait := .none, cur := none }) ∨
      (q.sup = false ∧ base ≠ 0 ∧ levelFree s p q = true ∧ takeTrapAt s p q t base = entered s p q t base))) := by
  unfold takeTrapAt entered
  by_cases hf : (ctxAt s (ctxOf s q)).state = .faulted
  · simp [hf]
  · cases hs : q.sup
    · by_cases hb : base = 0
      · simp [hf, hb]
      · cases hh : levelFree s p q <;> simp [hf, hb]
    · simp [hf]

/-- A fault of a context that has ended running leaves everything (R113). -/
theorem contextFault_of_ended (c queue : Nat) (r : FaultRecord)
    (h : (ctxAt s c).state ≠ .running ∧ (ctxAt s c).state ≠ .preempting ∧ (ctxAt s c).state ≠ .saved) :
    contextFault s c queue r = s := by
  unfold contextFault
  simp [h.1, h.2.1, h.2.2]

end Sys2Proof.Machine
end

