-- ==== Sys2Proof/Tests/Slice0.lean ====
section
/-! SUPPORT. Tests: ill-formed terms that the checks refuse, words written out from the manual's encodings, small steps with results
worked out by hand from the manual, and for every statement with hypotheses a state and operands that meet them. -/

namespace Sys2Proof.Tests

set_option Elab.async false

open Sys2Proof Sys2Proof.Machine

/-! Ill-formed terms, one for each kind of check (R57 to R65). -/

theorem test_illformed_registers : ([.iadd 128 1 2, .iadd 1 128 2, .iadd 1 2 128, .pand 8 0 0, .pand 0 8 0, .pand 0 0 8, .uadd 32 0 0,
    .uadd 0 32 0, .uadd 0 0 32, .imad 0 0 0 128, .icmpI32 8 0 0 0, .sel 0 0 0 8 0, .rdlane 0 128 0, .ballot 0 8, .voteany 8 0,
    .bcast 0 32, .jmp 32] : List Instr).all (fun i => !i.wellFormed) = true := by decide

theorem test_illformed_pairs : ([.iadd64 1 2 4, .iadd64 2 1 4, .iadd64 2 4 1, .shl64 1 2 0, .shr64 2 1 0, .icmpI64 0 0 1 2, .icmpN64 0 0 2 1,
    .fcmpF64 0 0 1 2, .dadd 1 2 4, .dfma 2 4 1, .cvtF64F32 1 0, .cvtF32F64 0 1, .cvtF64I64 1 2, .cvtI64F64 2 1, .movsr 1 13, .ldd 1 0 0 0 0,
    .std 1 0 0 0, .lds 1 0 0 0 5, .sts 1 0 0 5, .rpush 1 0, .rpop 1 0 0, .mma 1 0 0 0 5 0 0 0,
    .atom 1 0 0 0 0 0 0 0 0 0 13, .atom 0 0 0 0 0 0 0 1 0 0 13, .atom 0 0 0 0 0 0 1 0 0 0 15, .atom 0 0 0 0 0 1 0 1 0 0 12] :
    List Instr).all (fun i => !i.wellFormed) = true := by decide

theorem test_illformed_quads : ([.ldq 2 0 0 0 0, .stq 2 0 0 0, .lds 2 0 0 0 6, .sts 2 0 0 6, .sqput 2, .sqget 2 0 0, .nodeld 2 0 0, .boxt 2 0,
    .trit 2 0, .rsave 2 0, .rload 2 0, .nodepub 2 0] : List Instr).all (fun i => !i.wellFormed) = true := by decide

theorem test_illformed_immediates : ([.iaddi 0 0 4096, .andi 0 0 4096, .shli 0 0 32, .movi 0 65536, .lit 0 4294967296, .sel 0 0 0 0 2,
    .umovi 0 2097152, .ulit 0 4294967296, .shflidxi 0 0 32, .rdlane 0 0 32, .frnd 0 0 4, .cvtF32E4m3 0 0 4, .frcp 0 0 16, .xqrow 0 0 0 32,
    .brc 0 2 0, .brc 0 0 4194304, .ubrc 0 0 262144, .call 67108864, .jset 4194304, .reorder 0 0 8 0, .reorder 0 0 0 4294967296, .trap 65536,
    .trapret 2, .bararr 0 0 16, .waitb 0 0 2, .cpyq 0 0 0 65536 0, .bdset 0 16, .bdget 0 2 0, .post 0 0 16, .smp 0 0 0 0 2, .raysub 0 0 8,
    .nodeld 0 0 8, .rcommit 0 32, .drain 0 0 0 0 0 0 4 0 0, .drain 0 0 0 0 2 0 0 0 0] : List Instr).all (fun i => !i.wellFormed) = true := by
  decide

theorem test_illformed_codes : ([.icmpI32 0 6 0 0, .fcmpF32 0 8 0 0, .movsr 0 15, .ubrc 0 6 0, .csrrd 0 0x003, .csrwr 0 0x107, .uld 0 0 0 6,
    .ldw 0 0 0 0 6, .stw 0 0 0 4, .stw 0 0 0 6, .lds 0 0 0 0 7, .sts 0 0 0 1, .sts 0 0 0 3, .fence 0 5, .fencex 7 0 0, .fencex 0 7 0,
    .fencex 0 0 5, .cflush 0 0 2, .cflush 0 0 6, .pref 0 0 6, .waitc 0 0 2 0 0 0, .waitc 0 0 0 6 0 0, .waitc 0 0 0 0 5 0,
    .atom 0 0 0 0 4 0 0 0 0 0 0, .atom 0 0 0 0 6 0 0 0 0 0 0, .atom 0 0 0 0 0 0 0 0 0 0 16, .atom 0 0 0 0 0 0 0 0 0 5 0,
    .atom 0 0 0 0 0 0 0 0 0 0 11, .atom 0 0 0 0 0 0 1 0 0 0 0, .atom 1 0 0 0 0 1 0 0 0 0 0, .atoms 0 0 0 0 0 0 0 0 10,
    .atoms 0 0 0 0 0 1 0 0 0, .atoms 1 0 0 0 1 0 0 0 0, .ttcon 0 0 17 0 0, .prim 0 0 0 3, .drain 0 0 0 0 0 0 0 6 0,
    .mma 0 0 0 0 6 0 0 0, .mma 0 0 1 0 3 0 0 0] : List Instr).all (fun i => !i.wellFormed) = true := by decide

theorem test_illformed_barriers : ([.cpyt 0 0 1, .cpyg 0 0 0 1, .cpys 0 0 0 1, .cpyq 0 0 1 0 0, .cpyz 0 0 0 1 0, .cpyx 0 0 0 1 0, .mjob 0 0 0 1 0,
    .drain 0 0 0 1 0 0 0 0 0, .ttcon 0 0 0 0 1, .ttprog 0 0 0 1, .stepend 0 1] : List Instr).all (fun i => !i.wellFormed) = true := by decide

/-! Words of the manual's encodings: its worked examples, and words laid out by hand from R57 to R65. -/

theorem test_words_integer : decode [0x04181040] = .ok (.iadd 3 1 2) ∧ decode [0x042020CA] = .ok (.iadd64 4 2 6) ∧
    decode [0x08285026] = .ok (.sar 5 5 1) ∧ decode [0x0C101000] = .ok (.popc 2 1) ∧ decode [0x11103081] = .ok (.icmpN32 2 2 3 4) ∧
    decode [0x14081FFF] = .ok (.iaddi 1 1 0xFFF) ∧ decode [0x24101803] = .ok (.sari 2 1 3) :=
  ⟨rfl, rfl, rfl, rfl, rfl, rfl, rfl⟩

theorem test_words_moves : decode [0x280C1234] = .ok (.movhi 1 0x1234) ∧ decode [0x2C18104A] = .ok (.sel 3 1 2 2 1) ∧
    decode [0x30201040, 3] = .ok (.imad 4 1 2 3) ∧ decode [0x34480000, 0x3FC00000] = .ok (.lit 9 0x3FC00000) ∧
    decode [0x39F20003] = .ok (.pandn 3 7 1) :=
  ⟨rfl, rfl, rfl, rfl, rfl⟩

theorem test_words_float : decode [0x40181040] = .ok (.fadd 3 1 2) ∧ decode [0x44201040, 3] = .ok (.fma 4 1 2 3) ∧
    decode [0x48281042] = .ok (.hfma2 5 1 2) ∧ decode [0x4C200040] = .ok (.dadd 4 0 2) ∧ decode [0x10902062] = .ok (.fcmpF32 1 2 2 3) ∧
    decode [0x5030104C] = .ok (.cvtE4m3x2F32 6 1 2) ∧ decode [0x54101300] = .ok (.frcp 2 1 3) :=
  ⟨rfl, rfl, rfl, rfl, rfl, rfl, rfl⟩

theorem test_words_exchange : decode [0x60101027] = .ok (.shflxori 2 1 1) ∧ decode [0x64381004] = .ok (.ballot 7 1) :=
  ⟨rfl, rfl⟩

theorem test_words_uniform : decode [0x68611000] = .ok (.uadd 3 1 2) ∧ decode [0x6CBFFFFE] = .ok (.umovi 5 0x1FFFFE) ∧
    decode [0x70A00001, 0x12] = .ok (.ulithi 5 0x12) ∧ decode [0x74080000] = .ok (.movsr 1 0) ∧ decode [0x74202221] = .ok (.rdlane 4 2 17) ∧
    decode [0x741800E4] = .ok (.uld 3 0 0 7) :=
  ⟨rfl, rfl, rfl, rfl, rfl, rfl⟩

theorem test_words_control : decode [0x817FFFFD] = .ok (.brc 2 1 0x3FFFFD) ∧ decode [0x84840006] = .ok (.ubrc 4 1 6) ∧
    decode [0x8800000A] = .ok (.call 10) ∧ decode [0x8FE00000] = .ok (.jmp 31) ∧ decode [0x90000007] = .ok (.jset 7) ∧
    decode [0x94000003] = .ok .exit ∧ decode [0x98003104, 9] = .ok (.reorder 3 8 1 9) :=
  ⟨rfl, rfl, rfl, rfl, rfl, rfl, rfl⟩

theorem test_words_system : decode [0x9C001234] = .ok (.trap 0x1234) ∧ decode [0x9CA30011] = .ok (.csrrd 5 0x011) ∧
    decode [0x9C840100] = .ok (.csrwr 4 0x100) ∧ decode [0x9CC50000] = .ok (.tlbinvPage 6) :=
  ⟨rfl, rfl, rfl, rfl⟩

theorem test_words_memory : decode [0xA0206114] = .ok (.ldw 4 6 2 2 4) ∧ decode [0xB4107001] = .ok (.std 2 7 0 1) ∧
    decode [0xBC082180] = .ok (.stb 1 2 3) ∧ decode [0xC0281304] = .ok (.lds 5 1 6 0 4) :=
  ⟨rfl, rfl, rfl, rfl⟩

theorem test_words_atomics : decode [0xC8284107, 0x00001A60] = .ok (.atom 5 4 2 0 7 0 0 6 2 3 0) ∧
    decode [0xD000000B] = .ok (.fence 1 3) ∧ decode [0xD0240003] = .ok (.fencex 2 0 3) ∧ decode [0xD0410403] = .ok (.cflush 4 2 3) ∧ decode [0xD060C204] = .ok (.pref 3 1 4) :=
  ⟨rfl, rfl, rfl, rfl, rfl⟩

theorem test_words_sync : decode [0xD8018802] = .ok (.bararr 6 4 2) ∧ decode [0xD4000801, 0x0AC5] = .ok (.waitc 4 1 0 5 3 5) ∧
    decode [0xD8A08A00] = .ok (.waitb 2 5 0) ∧
    decode [0xDC040000] = .ok (.sqput 16) :=
  ⟨rfl, rfl, rfl, rfl⟩

theorem test_words_engines : decode [0xE0000813] = .ok (.cpyt 4 1 3) ∧ decode [0xE0600A00, 0x40003] = .ok (.cpyq 5 0 0 4 3) ∧
    decode [0xE081CC11, 2] = .ok (.cpyz 7 6 1 1 2) ∧ decode [0xE4040A02, 0x30600] = .ok (.mma 16 5 0 0 2 3 6 0) ∧
    decode [0xE4230A12, 6] = .ok (.mjob 12 5 1 2 6) ∧ decode [0xE4404E00] = .ok (.accz 1 7) ∧
    decode [0xE4C05400, 4] = .ok (.drain 1 10 0 0 0 0 0 0 4) ∧ decode [0xE8620E00, 0] = .ok (.ttcon 8 7 0 0 0) ∧
    decode [0xE8820E00] = .ok (.ttprog 8 7 0 0) ∧
    decode [0xE8000801] = .ok (.bdset 4 1) ∧ decode [0xEC000800] = .ok (.stepbeg 4) ∧ decode [0xEC200012] = .ok (.stepend 1 2) :=
  ⟨rfl, rfl, rfl, rfl, rfl, rfl, rfl, rfl, rfl, rfl, rfl, rfl⟩

theorem test_words_graphics : decode [0xF0000C00, 0] = .ok (.prim 0 6 0 0) ∧ decode [0xF0E40845, 0] = .ok (.smp 16 4 2 5 0) ∧
    decode [0xF440C022] = .ok (.mbxget 3 1 2) ∧ decode [0xF5420003] = .ok (.rcommit 8 3) ∧ decode [0x5800080A] = .ok (.xqrow 0 4 0 10) ∧
    decode [0xF0220800] = .ok (.post 8 4 0) ∧ decode [0xF0400001] = .ok .killAll ∧
    decode [0xF1040805] = .ok (.smpl 16 4 0 5) ∧ decode [0xF4008A03] = .ok (.raysub 2 5 3) ∧ decode [0xF5901200] = .ok (.nodepub 64 9) :=
  ⟨rfl, rfl, rfl, rfl, rfl, rfl, rfl, rfl, rfl, rfl⟩

theorem test_words_refused : (decode [0x04181041 + 2 ^ 4]).toOption = none ∧ (decode []).toOption = none ∧ (decode [0x30201040]).toOption = none ∧
    (decode [0x042010CA]).toOption = none ∧ (decode [0xFC000000]).toOption = none :=
  ⟨rfl, rfl, rfl, rfl, rfl⟩

/-! The states the witnesses below use: one context, launch, workgroup, gang and path, with one live lane, whose core's translation cache
maps the first 64 MiB to themselves. -/

/-- Readable, writable, executable, accessed and dirty, at user level. -/
def leaf : Nat := 0x6F
def entry : TlbEntry := ⟨0, 0, 0, 2 ^ 26, leaf⟩
def desc : LaunchDesc := { placeDesc with codeWords := 16, constAddr := 0x300, scratch := 8192, raySlots := 8 }
def launch : Launch :=
  { ctx := 0, queue := 0, packet := 0, prio := 0, desc := desc, side := [], nextSet := 1, pass := none, room := [] }
def wg : Workgroup := { placeWorkgroup 1 with ctx := 0 }
def gang : Gang := { placeGang 2 with live := 1 }
def path : Path :=
  { gang := 3, lanes := 1, slot1 := 0, park := false, pos := ⟨0x20000, 1, 0, 3⟩, sup := false, wait := .none, cur := none, base := 0,
    refused := [], replay := none, pending := [], barsync := none, starve := 0, starving := false, prefer := false, stopped := false }
def sup : Path := { path with sup := true }

/-- The world with one path as given. -/
def world (q : Path) : State :=
  { State.reset with
    pkg := { Package.reset with state := .service }
    parts := [(0, ⟨false, 1, 4096, 1024⟩)]
    ctxs := [(0, { Context.blank with state := .running })]
    ctxRegs := [(rTrapBase, 0x1000#64), (rTdtBase, 0x4000#64), (rWalker, 0x20000#64)]
    launches := [(1, launch)]
    wgs := [(2, wg)]
    gangs := [(3, gang)]
    paths := [(4, q)]
    tlb := [entry]
    fresh := 100
    issuing := some 4 }

/-- The world in which G[r] of the path holds x. -/
def withG (q : Path) (r x : Nat) : State := setG (world q) q r x

theorem lane0 : ∀ l, l < 32 → hasBit 1 l = true → l = 0 := by decide

theorem maps_of (s : State) (q : Path) (acc : Acc) (va n : Nat) (h : tlbFind s (coreOf s q) (ctxOf s q) va = some entry)
    (hv : va < 2 ^ 26) (hn : va % n = 0) (hp : permitted q.sup acc leaf = true) : Maps s q acc va n va leaf := by
  have hl : Nat.log2 entry.size = 26 := by decide
  have ha : eAddr leaf = 0 := by decide
  refine ⟨by omega, hn, hp, by decide, ?_, entry, h, rfl, fun _ => by decide, ?_⟩
  · exact decide_eq_true (show va < 2 ^ 53 by omega)
  · rw [hl, ha]; omega

theorem idle_of (s : State) (lines : List Nat) (hl : s.lines = []) (hc : s.cache = []) : LinesIdle s lines :=
  ⟨fun ln _ => by simp [lineAt, hl, aGet], fun sl => by simp [sliceHolds, hc, Config.sliceLines]⟩

theorem engine_of (s : State) (c core : Nat) (acc : Acc) (va n : Nat) (h : tlbFind s core c va = some entry) (hv : va < 2 ^ 26)
    (hp : permitted false acc leaf = true) (hn : 0 < n) (hb : va % 65536 + n ≤ 65536) (hl : s.lines = []) (hc : s.cache = []) :
    EngineMaps s c core acc va n va := by
  have hl2 : Nat.log2 entry.size = 26 := by decide
  have ha : eAddr leaf = 0 := by decide
  refine ⟨hn, hb, ⟨leaf, by omega, by omega, hp, by decide, ?_, entry, h, rfl, fun _ => by decide, ?_⟩, idle_of s _ hl hc⟩
  · exact decide_eq_true (show va < 2 ^ 53 by omega)
  · rw [hl2, ha]; omega

theorem uncached_of (s : State) (core a n : Nat) (hl : s.lines = []) (hc : s.cache = []) (h1 : s.l1 = []) : Uncached s core a n :=
  ⟨idle_of s _ hl hc, fun ln _ w _ => by simp [l1At, h1, aGet]⟩

theorem clean (s : State) (die a n : Nat) (h : s.poison = []) : poisonedAt s die a n = none := by
  simp [poisonedAt, badByte, badUnit, hostFails, h]

theorem cleanVia (b : Bool) (s : State) (core a n : Nat) (h : s.poison = []) : poisonedVia b s core a n = none := by
  simp [poisonedVia, badByte, badUnit, hostFails, h]

theorem cleanFor (s : State) (core a n : Nat) (h : s.poison = []) : poisonedFor s core a n = none := cleanVia _ _ _ _ _ h

theorem cleanRo (s : State) (core a n : Nat) (h : s.poison = []) : poisonedRo s core a n = none := by
  simp [poisonedRo, h, cleanFor]

/-! Witnesses of hypotheses. -/

/-- Every statement about an instruction of which only the issuing path is assumed. -/
theorem test_meets_issues : Issues (world path) 4 path ∧ path.lanes < 2 ^ 32 ∧ 4 < (world path).fresh := ⟨⟨rfl, rfl⟩, by decide⟩

theorem test_meets_FloatRules : isNan f32 0x3F800000 = false ∧ isNan f32 0x40000000 = false ∧ isNan f32 0x7FC00000 = true := by decide

theorem test_meets_CanTrap : Issues (world path) 4 path ∧ CanTrap (world path) 4 path ∧ Issues (withG path 5 2) 4 path ∧
    CanTrap (withG path 5 2) 4 path ∧ getG (withG path 5 2) path 5 % 4 ≠ 0 := by
  refine ⟨⟨rfl, rfl⟩, ⟨rfl, by decide, by decide⟩, ⟨rfl, rfl⟩, ⟨rfl, by decide, by decide⟩, by decide⟩

theorem test_meets_PathControl : getG (withG path 5 0x20008) path 5 % 4 = 0 ∧ active path = path.lanes := by decide

theorem test_meets_DoubleFault : Issues (world sup) 4 sup ∧ sup.sup = true ∧ (aGet (ctxOf (world sup) sup) (world sup).ctxs).isSome = true ∧
    (ctxAt (world sup) (ctxOf (world sup) sup)).state = .running := ⟨⟨rfl, rfl⟩, rfl, rfl, rfl⟩

theorem test_meets_TrapAndReturn : 0 < path.lanes ∧ path.pending = [] ∧ (∀ e ∈ (world path).paths, e.2.gang = path.gang → e.2.pending = []) ∧
    0 < path.pos.word ∧ path.pos.word ≤ path.pos.n ∧ path.pos.n < 16 ∧ path.pos.cls < 8 ∧ path.pos.hdr < 2 ^ 64 := by decide

theorem test_meets_ControlRegisters : Issues (world sup) 4 sup ∧ 0 < active sup ∧ sup.lanes < 2 ^ 32 ∧ active sup = sup.lanes ∧ fpStatReady (world sup) sup = true :=
  ⟨⟨rfl, rfl⟩, by decide, by decide, by decide, by decide⟩

/-- BRC: P0 is false in the lane; with it inverted every lane takes the branch. -/
theorem test_meets_Branch_whole : (∀ l, l < 32 → takesBranch (world path) path 0 0 l = false) ∧
    (∀ l, l < 32 → takesBranch (world path) path 0 1 l = hasBit path.lanes l) := by decide

/-- Two lanes in slice 0 with P0 set in lane 0 alone; the gang's third lane makes the split serialised. -/
def two : Path := { path with lanes := 3 }
def split (live : Nat) : State := setPs { world two with gangs := [(3, { gang with live := live })] } 3 0 [(0, true)]

theorem test_meets_Branch_split : gangOf (split 3) two = some { gang with live := 3 } ∧ takesBranch (split 3) two 0 0 0 = true ∧
    takesBranch (split 3) two 0 0 1 = false ∧ slicesOf two.lanes = [0] ∧ dualSplit (split 3) two { gang with live := 3 } 0 = true ∧
    dualSplit (split 7) two { gang with live := 7 } 0 = false ∧ hasRoom (split 7) two { gang with live := 7 } 0 = true ∧
    takesBranch (split 7) two 0 0 0 = true ∧ takesBranch (split 7) two 0 0 1 = false := by decide

/-- A gang whose slice waits at a JOIN for lanes 0 and 1, above it a PEND entry for lane 2. -/
def joinEntry : StackEntry :=
  { slice := 0, tag := 7, isJoin := true, group := 7, lanes := 0, addr := 0x20020, word := 0, cls := 0, n := 0, sup := false, park := false, barsync := none }
def pendEntry : StackEntry := { joinEntry with tag := 8, isJoin := false, lanes := 4 }
def joining : Gang := { gang with live := 0xF, stack := [pendEntry, joinEntry] }

theorem test_meets_JoinAndRegang_wait : (topJoin joining.stack (sliceLanes 0 two.lanes)).isSome = true ∧
    pendOnTop joining.stack two.lanes = [pendEntry] ∧ pendEntry.lanes ≠ 0 ∧
    joinDeadlock { joining with stack := markArrived (popEntries joining.stack [pendEntry]) two.lanes,
                                waits := joining.waits ++ [⟨two.lanes, two.pos, two.sup, false, 0, baseOf (world path) two, none⟩] } = false ∧
    joinDeadlock { joining with stack := popEntries joining.stack [pendEntry],
                                waits := joining.waits ++ [⟨two.lanes, two.pos, two.sup, true, wordAddr two.pos, baseOf (world path) two, none⟩] } = false ∧
    hasRoom (world path) path gang 0 = true := by decide

theorem test_meets_JoinAndRegang_complete : tagDone { joining with stack := [{ joinEntry with lanes := 7 }] } 7 = true ∧
    regangDone { gang with waits := [⟨1, path.pos, false, true, wordAddr path.pos, 0, none⟩] } = true ∧ gang.slices.length ≤ 8 := by decide

theorem test_meets_LanesEnd : gangOf (world path) path = some gang ∧ (∀ l, l < 32 → hasBit path.lanes l = true → hasBit gang.live l = true) ∧
    aGet gang.wg (world path).wgs = some wg ∧ inExtent (world path) path (branchAddr path 4 32) = true ∧
    liftClash wg.lift (getV (world path) 3 0 1) 1 (branchAddr path 4 32) = none := ⟨rfl, by decide, rfl, by decide, by decide⟩

theorem test_meets_TransformPipe : xqFormat (getG (withG path 5 0x11) path 5) = some (9, 16) := by decide

/-- A world whose G5 holds an address, for loads, stores, flushes and atomics of up to 16 bytes. -/
theorem test_meets_LanesMap (acc : Acc) (hp : permitted false acc leaf = true) (n : Nat) (hn : n ∈ [1, 2, 4, 8, 16]) :
    LanesMap (withG path 5 0x3FFFFF0) path acc (accessAddr (withG path 5 0x3FFFFF0) path 5 127) n := by
  refine ⟨rfl, ⟨0, by decide, by decide⟩, fun l hl hb => ⟨0x3FFFFF0, leaf, ?_, cleanFor _ _ _ _ rfl, cleanVia _ _ _ _ _ rfl, cleanRo _ _ _ _ rfl, rfl⟩⟩
  obtain rfl := lane0 l hl hb
  have ha : accessAddr (withG path 5 0x3FFFFF0) path 5 127 0 = 0x3FFFFF0 := by decide
  rw [ha]
  refine maps_of _ _ _ _ _ (by decide) (by decide) ?_ hp
  revert n
  decide

theorem test_meets_VectorAccesses : permitted false .read leaf = true ∧ permitted false .write leaf = true ∧
    coreOf (withG path 5 0x3FFFFF0) path ∉ (withG path 5 0x3FFFFF0).roDrops := by decide

/-- An operation of the path, all of whose values are there. -/
def op (kind : OpKind) (i : Instr) (a : LaneAccess) : Op :=
  { kind := kind, gang := 3, ctx := 0, path := 4, lanes := 1, pathLanes := 1, base := 0, instr := i, count := some .loads, ahead := none, rt := 0, core := 0,
    accesses := [a], writes := [], flags := 0, left := 0, failed := [] }
def access (pa size value rt lf : Nat) : LaneAccess :=
  { lane := 0, va := pa, pa := pa, size := size, value := value, done := true, rt := rt, leaf := lf }
def inFlight (o : Op) : State := { world path with ops := [(50, o)] }

theorem test_meets_TransformPipe_writeback :
    let o := { op .xpipe (.frcp 1 2 0) (access 0 4 0 0 leaf) with count := some .xpipe, writes := [(vKey 3 0 1, 7)] }
    aGet 50 (inFlight o).ops = some o ∧ o.kind = .xpipe ∧ (o.writes.map (·.1)).Nodup := ⟨rfl, rfl, by decide⟩

theorem test_meets_LoadReturns_lanes : let o := op .load (.ldbs 124 0 0 0) (access 0x100 1 0xFF 0 leaf)
    aGet 50 (inFlight o).ops = some o ∧ o.left = 0 ∧ (aGet o.path (inFlight o).paths) = some path ∧ path.wait ≠ .home ∧
    (o.accesses.map (·.lane)).Nodup ∧ (∀ a ∈ o.accesses, a.lane < 32 ∧ a.value < 256 ^ 1) ∧ 124 + 1 ≤ 128 := ⟨rfl, rfl, rfl, by decide⟩

theorem test_meets_LoadReturns_uniform : Issues (withG path 5 0x108) 4 path ∧
    Maps (withG path 5 0x108) path .read (getG (withG path 5 0x108) path 5) 8 0x108 leaf ∧ poisonedFor (withG path 5 0x108) (coreOf (withG path 5 0x108) path) 0x108 8 = none ∧
    poisonedRo (withG path 5 0x108) (coreOf (withG path 5 0x108) path) 0x108 8 = none ∧
    (∀ j, j < 32 → hasBit (active path) j = true → laneConflict (withG path 5 0x108) 3 j 0x108 8 = false) ∧
    coreOf (withG path 5 0x108) path ∉ (withG path 5 0x108).roDrops ∧
    aGet 50 (inFlight (op .uload (.uld 1 5 0 0) (access 0x108 8 9 0 leaf))).ops = some (op .uload (.uld 1 5 0 0) (access 0x108 8 9 0 leaf)) :=
  ⟨⟨rfl, rfl⟩, maps_of _ _ _ _ _ (by decide) (by decide) (by decide) (by decide), cleanFor _ _ _ _ rfl, cleanRo _ _ _ _ rfl, by decide, by decide, rfl⟩

/-- The last word of the scratchpad's range: 8192 bytes and eight ray slots. -/
theorem test_meets_Scratchpad : ScratchMaps (withG path 5 9212) path 5 127 4 ∧ (∀ u, ErrorPlace.scratch 2 u ∉ (withG path 5 9212).poison) ∧
    releaseReady (withG path 5 9212) 3 1 0 = true ∧ loadsReady (withG path 5 9212) 3 1 = true := by
  refine ⟨⟨by decide, by decide, ⟨0, by decide, by decide⟩, fun l hl hb => ?_⟩, fun u => List.not_mem_nil, by decide, by decide⟩
  obtain rfl := lane0 l hl hb
  decide

theorem test_meets_StoreReachesMemory : let o := op .store (.stw 1 127 5 3) (access 0x100 4 7 3 leaf)
    aGet 50 (inFlight o).ops = some o ∧ o.accesses = [access 0x100 4 7 3 leaf] ∧ isDevice 0x100 = true ∧ Uncached (inFlight o) 0 0x100 4 ∧
    eNc leaf = false ∧ eNc (leaf + 2 ^ 10) = true ∧ (lineAt (inFlight o) 2).queue = [] ∧ opBlocked (inFlight o) 50 o = false :=
  ⟨rfl, rfl, by decide, uncached_of _ _ _ _ rfl rfl rfl, by decide, by decide, rfl, by decide⟩

theorem test_meets_Atomics : let o := { op .atom (.atom 1 127 5 0 3 0 0 2 1 3 0) (access 0x100 4 0 3 leaf) with writes := [(0, 5)] }
    aGet 50 (inFlight o).ops = some o ∧ Uncached (inFlight o) 0 0x100 4 ∧ (aGet o.path (inFlight o).paths).isSome = true ∧
    releaseReady (withG path 5 0x3FFFFF0) 3 1 3 = true ∧ loadsReady (withG path 5 0x3FFFFF0) 3 1 = true ∧
    opBlocked (inFlight o) 50 o = false ∧ path.wait ≠ .home := ⟨rfl, uncached_of _ _ _ _ rfl rfl rfl, rfl, by decide, by decide, by decide, by decide⟩

theorem test_meets_FencesAndCaches : releaseReady (world path) 3 1 4 = true ∧ pathReleased (world path) path 0 4 = true ∧
    (∀ a, a < 7 → pathReleased (world path) path a 4 = true) ∧ permitted false .flush leaf = true ∧
    loadsReady (world path) 3 1 = true ∧ aSorted (world path).l1 = true := by decide

theorem test_meets_WaitOnWord : Maps (withG path 5 0x108) path .read (getG (withG path 5 0x108) path 5) 8 0x108 leaf ∧ eNc leaf = false ∧
    Uncached (withG path 5 0x108) 0 0x108 8 ∧ ((withG path 5 0x108).beacons.filter fun b => b.woken = none && homeSlice b.addr == homeSlice 0x108).length
      < Config.beacons ∧ wordCond 0 8 (readMem (withG path 5 0x108).mem 0x108 8) (getG (withG path 5 0x108) path 1 % 256 ^ 8) = true ∧
    wordCond 1 8 (readMem (withG path 5 0x108).mem 0x108 8) (getG (withG path 5 0x108) path 1 % 256 ^ 8) = false ∧
    poisonedFor (withG path 5 0x108) 0 0x108 8 = none ∧ loadsReady (withG path 5 0x108) 3 1 = true ∧ (∀ b ∈ (withG path 5 0x108).beacons, b.path ≠ 4) :=
  ⟨maps_of _ _ _ _ _ (by decide) (by decide) (by decide) (by decide), by decide, uncached_of _ _ _ _ rfl rfl rfl, by decide, by decide, by decide, cleanFor _ _ _ _ rfl, by decide, by decide⟩

theorem test_meets_WaitOnWord_beacons : overlap 0x104 4 0x100 8 = true ∧
    wordCond 0 8 (readMem (memPut (world path) 0x104 [1]).mem 0x100 8) (2 ^ 32) = true ∧ overlap 0x0FC 4 0x100 8 = false := by decide

/-! Barriers, batches, stage queues, lines, services and peers. -/

/-- The world of a path in a workgroup whose first barrier is as given, and whose G5 holds x. -/
def withBarrier (q : Path) (b : Barrier) (x : Nat) : State :=
  { withG q 5 x with wgs := [(2, { wg with barriers := b :: List.replicate 15 Barrier.idle })] }

theorem test_meets_BarrierGenerations : Barrier.idle.arrived = 0 ∧ Barrier.idle.count = 0 ∧ Barrier.idle.res = 0 ∧
    (let s := withBarrier path { Barrier.idle with gen := 1, res := 1 } 0
     barrierAt ((wgOfPath s path).getD wg) 0 = { Barrier.idle with gen := 1, res := 1 } ∧ getG s path 5 % 65536 = (1 + 65536 - 1) % 65536) ∧
    (let s := withBarrier path { Barrier.idle with gen := 1, res := 1 } 1
     getG s path 5 % 65536 = 1 ∧ loadsReady s 3 1 = true ∧ barrierDeadlock (waitAt s 4 path (.barwait 0 5 0) (.barrier 0 1 0)) (wgIdOf s path) = false) := by decide

theorem test_meets_BarrierGenerations_edges : (32768 + 65536 - 0) % 65536 ≤ 32768 ∧ ¬ (1 ≤ (0 + 65536 - 0) % 65536) ∧
    ¬ ((32769 + 65536 - 0) % 65536 ≤ 32768) := by decide

theorem test_meets_BarrierArrival : let s := withBarrier path Barrier.idle 1
    aSorted s.paths = true ∧ gangOf s path = some gang ∧ (∀ e ∈ s.paths, e.2.gang = path.gang → e.1 = 4) ∧ maskDiff gang.live path.lanes = 0 ∧
    gang.live ≠ 0 ∧ releaseReady s 3 1 0 = true ∧ aGet 2 s.wgs = wgOf s gang ∧ getGs s 3 (lowSlice gang.live) 5 = 1 ∧ path.barsync = none ∧
    ((gangArrival Barrier.idle 1).toOption.map fun x => barrierDone x 0) = some true := by decide

theorem test_meets_Batches : gang.openBatch < 0xFFFFFFFF ∧ batchPending (world path) 3 0 = false ∧
    (0 : Nat) = min (getG (world path) path 5 % 2 ^ 32) (gang.openBatch - 1) ∧
    (aGet 4 (world { path with wait := .batch 0 1 true }).paths) = some { path with wait := .batch 0 1 true } := by decide

/-- Two stages of one set: the path's, and its consumer's or its producer's. -/
def stages (q : Path) (mine other : Workgroup) : State :=
  { world q with launches := [(1, { launch with desc := { desc with stages := 2 } })], wgs := [(2, mine), (8, other)] }
def producer : State := stages path wg { wg with stage := 1, incoming := ⟨[], [3], []⟩ }
def fed : Workgroup := { wg with stage := 1, incoming := ⟨[List.replicate 16 9], [], []⟩ }

theorem test_meets_StageQueues_put : aSorted producer.wgs = true ∧ putCause producer path wg = none ∧
    (consumerOf producer wg).map (·.1) = some 8 ∧ (consumerOf producer wg).all (fun c => !c.2.finished) = true ∧
    releaseReady producer 3 1 3 = true := by decide

theorem test_meets_StageQueues_get : 0 < fed.stage ∧ (lanesOf (active path)).length ≤ fed.incoming.records.length ∧
    (∀ x ∈ fed.incoming.records, x.length = 16) ∧ slicesOf path.lanes ≠ [] ∧ fed.incoming.waiters = [] ∧
    wgOfPath (stages path fed wg) path = some fed := by decide

theorem test_meets_StageQueues_waits : let q := { path with wait := .sqget, cur := some (.sqget 0 1 2) }
    let w := { fed with incoming := { fed.incoming with waiters := [4] } }
    wgOfPath (stages q w wg) q = some w ∧ w.incoming.waiters.head? = some 4 ∧ aGet 4 (stages q w wg).paths = some q := by decide

/-- A line of which core 1 owns the first word, with one dirty byte, marked for recall; and a line in a directory state. -/
def owned : State :=
  { world path with lines := [(2, ⟨.unc, [⟨1, 0, 1, true⟩], [], []⟩)], l1 := [(l1Key 1 0x100, ⟨0xAB#32, [1, 0, 0, 0], 1, 1, .own, 0⟩)] }
def inDir (d : DirState) : State := { world path with lines := [(2, ⟨d, [], [], []⟩)] }

theorem test_meets_DirectoryMoves : (lineAt owned 2).spans = [⟨1, 0, 1, true⟩] ∧ peekByte owned 0x100 = 0xAB ∧
    (lineAt (inDir (.busyR 1 0)) 2).dir = .busyR 1 0 ∧ (lineAt (inDir (.busyX 1)) 2).dir = .busyX 1 ∧
    (lineAt (inDir (.busyC 2)) 2).dir = .busyC 2 ∧ (lineAt (inDir (.busyW 1)) 2).dir = .busyW 1 ∧ (lineAt (inDir (.rsh 2)) 2).dir = .rsh 2 ∧
    (lineAt (inDir (.rex 1)) 2).dir = .rex 1 := by decide

theorem test_meets_IntervalsEnd : let r : Region := ⟨1, 4096, 1024, Config.intervalRequests, 0, 0, 255⟩
    aGet 0 { world path with regions := [(0, r)] }.regions = some r ∧ Config.intervalRequests ≤ r.requests ∧
    (5 : Nat) ∈ { world path with roDrops := [5] }.roDrops := ⟨rfl, Nat.le_refl _, List.mem_singleton.2 rfl⟩

/-- A request for page 0 of the context under a policy, with tables whose level-4 entry for it is as given. -/
def asking (policy leaf4 : Nat) : State :=
  { world path with
    ctxs := [(0, { Context.blank with state := .running, root := 0x10000, policy := policy })]
    services := [⟨0, 0, 0, false, 1, false, none⟩]
    mem := writeMem (writeMem (writeMem (writeMem [] 0x10000 (toBytes 8 0x12001)) 0x12000 (toBytes 8 0x14001)) 0x14000 (toBytes 8 0x16001))
      0x16000 (toBytes 8 leaf4) }

theorem test_meets_ServicePolicies : (asking 1 0x6E).services[0]? = some ⟨0, 0, 0, false, 1, false, none⟩ ∧
    (walk (asking 1 0x6E) (whoHome 0) 0).2.1 = .invalid 0x16000 0x6E 4 ∧ leafOk 16 (0x6E ||| 1) = true ∧
    (walk (asking 1 0x6F) (whoHome 0) 0).2.1 = .leaf 0x6F 16 ∧ (walk (asking 1 0x8000000000006F) (whoHome 0) 0).2.1 = .malformed ∧
    (walk { asking 1 0 with mem := [] } (whoHome 0) 0).2.1 = .invalid 0x10000 0 1 ∧ (ctxAt (asking 0 0) 0).policy = 0 ∧
    (ctxAt (asking 2 0) 0).policy = 2 ∧ (asking 1 0x6E).lines = [] ∧ (asking 1 0x6E).cache = [] := by decide +kernel

theorem test_meets_ServiceAnswers : let q := { path with wait := .service [pageKey 0 false] }
    let r : ServiceReq := ⟨0, 0, 0, false, 1, true, some false⟩
    let s := { world q with services := [r] }
    s.services[0]? = some r ∧ onCore s 3 0 0 = true ∧ onCore s 3 0 5 = false ∧ aGet 4 s.paths = some q ∧ r.answer = some false ∧ withdrawn s 0 = false := by decide

theorem test_meets_ServiceAnswers_groups : let x : ParkGroup := ⟨0, path.pos, false, 1, none, 0, none⟩
    let g := { gang with groups := [x], parks := [⟨0, path.pos, false, [(0, 0x100, pageKey 0 false)], 0, none⟩] }
    let s := { world path with gangs := [(3, g)] }
    g.groups.find? (fun y => y.slice == 0) = some x ∧ parkBusy s 3 0 = false ∧ x.lanes &&& g.live ≠ 0 ∧
    (∃ rec ∈ g.parks, ∃ l ∈ rec.lanes, l.2.2 = pageKey 0 false) := by decide

/-- A read and a write at a peer, and a load of a host word, in flight. -/
def peerOp : Op := { op .load (.ldw 1 127 5 0 0) { access peerBase 4 0 0 leaf with va := 0x100, done := false } with left := 1 }
def peers : State :=
  { world path with ops := [(50, peerOp), (51, op .load (.ldw 1 127 5 0 0) (access hostBase 4 0 0 leaf))],
                    peers := [(60, ⟨50, 0, 0, peerBase, .read 128, false, 3, 0, 0x100, 0, 0x1000, some 2, 7⟩), (61, ⟨0, 0, 0, peerBase, .write [1, 2, 3, 4], false, 3, 0, 0x100, 3, 0x1000, some 2, 7⟩)] }

theorem test_meets_PeerAnswers : aGet 50 peers.ops = some peerOp ∧ peerOp.kind ≠ .store ∧
    peerOp.accesses.find? (fun a => a.lane == 0) = some { access peerBase 4 0 0 leaf with va := 0x100, done := false } ∧
    (aGet 60 peers.peers).map (isRead ·.ask) = some true ∧ (aGet 61 peers.peers).map (isRead ·.ask) = some false ∧
    isHost hostBase = true ∧ (∀ e ∈ peers.peers, e.2.port ≠ some 3) := by decide

theorem test_meets_PeerAnswers_windows : let s := { world path with pkg := { (world path).pkg with windows := [(0x1000, 0x100, [], [9])] } }
    admitted s ⟨9, 0x1000, .write [1, 2]⟩ = true ∧ admitted s ⟨9, 0x10FF, .write [1, 2]⟩ = false ∧ admitted s ⟨9, 0x1000, .read 2⟩ = false := by
  decide

/-! Launches, the lift, and engine commands. -/

/-- A launch of one stage whose first workgroup has not started. -/
def waitingLaunch : State :=
  { world path with launches := [(1, launch), (9, { launch with nextSet := 0 })] }

theorem test_meets_WorkgroupsStartAndEnd_start : aGet 9 waitingLaunch.launches = some { launch with nextSet := 0 } ∧
    setDue waitingLaunch 9 { launch with nextSet := 0 } = true ∧ setHeld waitingLaunch 9 { launch with nextSet := 0 } = false ∧
    placeSet (placesOf waitingLaunch 0) (coresInUse waitingLaunch 0) desc = some [1] ∧ (∀ e ∈ waitingLaunch.wgs, e.2.launch ≠ 9) ∧
    waitingLaunch.g = [] := by decide +kernel

theorem test_meets_WorkgroupsStartAndEnd_finish : let s := { world path with gangs := [], paths := [] }
    aGet 2 s.wgs = some wg ∧ (∀ e ∈ s.gangs, e.2.wg ≠ 2) ∧ wg.lift = [] ∧ wg.liftGangs = [] ∧ wg.rayQueue = [] ∧ commandsLeft s 2 = false := by
  decide

/-- A workgroup whose gang has ended: one deposit in its lift, or one gang of it that waits for its slice. -/
def deposit : LiftEntry := ⟨7, [1, 2], 0x20020⟩
def lifted : Workgroup := { wg with idle := [0], lift := [deposit] }
def waitingGang : Workgroup := { wg with idle := [0], liftGangs := [⟨1, [deposit]⟩] }

theorem test_meets_LiftLaunches : let s := { world path with gangs := [], paths := [], wgs := [(2, lifted)] }
    let t := { s with wgs := [(2, waitingGang)] }
    noLiveLane s 2 = true ∧ lifted.lift ≠ [] ∧ liftReady s 2 lifted = false ∧ 1 ≤ (gangShape s lifted).1 ∧
    (freeIndexes t 2 (gangShape t waitingGang).2).head? = some 0 ∧ ([deposit].length + 3) / 4 = 1 ∧ deposit.payload.length ≤ 8 := by decide

/-- The bytes of a tensor descriptor (R280). -/
def tensorBytes (base kind fmt block : Nat) (dims strides : List Nat) (scale : Nat) : List Nat :=
  toBytes 8 base ++ [kind, fmt, dims.length, block, 0, 0, 0, 0] ++ (dims ++ List.replicate (8 - dims.length) 1).flatMap (toBytes 4) ++
    (strides ++ List.replicate (8 - strides.length) 0).flatMap (toBytes 8) ++ toBytes 8 scale ++ List.replicate 8 0

/-- The world with structures in memory, and G5 as given. -/
def withMem (x : Nat) (ps : List (Nat × List Nat)) : State :=
  { withG path 5 x with mem := ps.foldl (fun m p => writeMem m p.1 p.2) [] }

theorem structure_of (x va n : Nat) (ps : List (Nat × List Nat)) (b : List Nat) (hv : va < 2 ^ 26)
    (hn : va % 65536 + n ≤ 65536) (h : tlbFind (withMem x ps) 0 0 va = some entry) (hb : readBytes (withMem x ps).mem va n = b) : Structure (withMem x ps) path va n b :=
  ⟨rfl, rfl, hn, va, leaf, maps_of _ _ _ _ _ h hv (Nat.mod_one _) rfl, cleanFor _ _ _ _ rfl, uncached_of _ _ _ _ rfl rfl rfl, hb⟩

theorem tensor_of (x k : Nat) (ps : List (Nat × List Nat)) (b : List Nat) (hk : 0x4000 + 128 * k < 2 ^ 26)
    (h : tlbFind (withMem x ps) 0 0 (0x4000 + 128 * k) = some entry) (hb : readBytes (withMem x ps).mem (0x4000 + 128 * k) 128 = b)
    (ho : descOk b (descOfBytes (0x4000 + 128 * k) b) = true)
    (hs : scratchOut (scratchBytes (withMem x ps) path) (descOfBytes (0x4000 + 128 * k) b) = none) :
    Tensor (withMem x ps) path k (descOfBytes (0x4000 + 128 * k) b) := by
  have ht : ctxReg (withMem x ps) (ctxOf (withMem x ps) path) rTdtBase = 0x4000 := rfl
  refine ⟨by rw [ht], hs, 0x4000 + 128 * k, b, ?_, structure_of x _ _ ps b hk (by omega) h hb, rfl, ho⟩
  rw [ht, Nat.mod_eq_of_lt (by omega)]

/-- A matrix of 32 by 32 binary32 elements in device memory, and one in the scratchpad. -/
def matrix : List Nat := tensorBytes 0x8000 0 6 0 [32, 32] [1, 32] 0
def local32 : List Nat := tensorBytes 0 2 6 0 [32, 32] [1, 32] 0
def mats (x : Nat) : State := withMem x [(0x4000, matrix), (0x4080, local32)]

theorem test_meets_CopyCommands_plain : Tensor (mats 0x10000) path 0 (descOfBytes 0x4000 matrix) ∧
    Tensor (mats 0x10000) path 1 (descOfBytes 0x4080 local32) ∧ bits (getG (mats 0x10000) path 5) 15 0 = 0 ∧
    bits (getG (mats 0x10000) path 5) 31 16 = 1 ∧ bits (getG (mats 0x10000) path 5) 63 32 = 0 ∧
    rowConditions path true [descOfBytes 0x4000 matrix, descOfBytes 0x4080 local32] = none ∧
    rowConditions path false [descOfBytes 0x4000 matrix, descOfBytes 0x4080 local32] = none := by
  refine ⟨tensor_of _ 0 _ _ (by decide) ?_ ?_ ?_ ?_, tensor_of _ 1 _ _ (by decide) ?_ ?_ ?_ ?_, ?_⟩ <;> decide +kernel

theorem test_meets_BarRoom : BarRoom (world path) path (barOf 1 15) := by
  intro b hb
  obtain rfl : (15 : Nat) = b := Option.some.inj (hb.symm.trans rfl).symm
  exact ⟨wg, rfl, by decide, by decide⟩

/-- 256 bytes, and a packed block of PKZ (R289). -/
def plain : List Nat := tensorBytes 0x8000 0 0 0 [256] [1] 0
def packed1 : List Nat := tensorBytes 0x9000 0 15 0 [1] [1] 0
def streams (x : Nat) : State := { withMem x [(0x4000, plain), (0x4080, packed1)] with keys := [(2, 7#256)] }

theorem test_meets_CopyCommands_streams : descOk plain (descOfBytes 0x4000 plain) = true ∧ descOk packed1 (descOfBytes 0x4080 packed1) = true ∧
    readBytes (streams 0x10000).mem 0x4080 128 = packed1 ∧ aGet (ctxOf (streams 0x10000) path / 16 * 16 + 2) (streams 0x10000).keys = some 7#256 ∧
    streamConditions 0 (descOfBytes 0x4000 plain) (descOfBytes 0x4080 packed1) (descOfBytes 0x4080 packed1) = none ∧
    streamConditions 0 (descOfBytes 0x4000 plain) (descOfBytes 0x4080 packed1) (descOfBytes 0x4000 plain) = none := by decide +kernel

/-- 32 rows of 128 columns of binary32, their rows quantised to E4M3 in blocks of 32, and their columns (R288). -/
def wide : List Nat := tensorBytes 0x10000 0 6 0 [128, 128] [1, 128] 0
def quantRow : List Nat := tensorBytes 0x30000 0 8 32 [128, 128] [1, 128] 0x50000
def quantCol : List Nat := tensorBytes 0x40000 0 8 32 [128, 128] [1, 128] 0x60000
def quants : State := withMem 0 [(0x4000, wide), (0x4080, quantRow), (0x4100, quantCol)]

theorem test_meets_CopyCommands_quant : Tensor quants path 0 (descOfBytes 0x4000 wide) ∧ Tensor quants path 1 (descOfBytes 0x4080 quantRow) ∧
    Tensor quants path 2 (descOfBytes 0x4100 quantCol) ∧
    quantConditions [descOfBytes 0x4000 wide, descOfBytes 0x4080 quantRow, descOfBytes 0x4100 quantCol] = none ∧
    wholeScales (descOfBytes 0x4080 quantRow) = true ∧ wholeScales (descOfBytes 0x4100 quantCol) = true := by
  refine ⟨tensor_of _ 0 _ _ (by decide) ?_ ?_ ?_ ?_, tensor_of _ 1 _ _ (by decide) ?_ ?_ ?_ ?_,
    tensor_of _ 2 _ _ (by decide) ?_ ?_ ?_ ?_, ?_⟩ <;> decide +kernel

/-- A format block of binary32 at 0x5000, a job card of one pass at 0x5080; G5 is the crew word of gang 0 alone, G6 the block's
address, G7 the card's. -/
def formatBytes : List Nat := [6, 6, 0, 0] ++ List.replicate 28 0
def cardBytes : List Nat := [0, 0, 0, 0, 0, 0, 1, 0] ++ List.replicate 24 0 ++ [1, 0] ++ List.replicate 94 0
def crewWorld : State :=
  { mats 1 with g := bSetAll [] [(gKey 3 0 5, 1), (gKey 3 0 6, 0x5000), (gKey 3 0 7, 0x5080)]
                mem := writeMem (writeMem (mats 1).mem 0x5000 formatBytes) 0x5080 cardBytes }

theorem crew_structure (va n : Nat) (b : List Nat) (hv : va < 2 ^ 26) (hn : va % 65536 + n ≤ 65536) (h : tlbFind crewWorld 0 0 va = some entry)
    (hb : readBytes crewWorld.mem va n = b) : Structure crewWorld path va n b :=
  ⟨rfl, rfl, hn, va, leaf, maps_of _ _ _ _ _ h hv (Nat.mod_one _) rfl, cleanFor _ _ _ _ rfl, uncached_of _ _ _ _ rfl rfl rfl, hb⟩

theorem test_meets_MatrixCommands_crew (mjob scales : Bool) :
    CrewOfOne crewWorld path 5 6 mjob scales formatBytes (formatOfBytes 0x5000 formatBytes) ∧ entryFree crewWorld 0 = true := by
  refine ⟨⟨?_, ?_, ?_, crew_structure _ _ _ ?_ ?_ ?_ ?_, ?_, ?_, wg, gang, rfl, rfl, rfl⟩, ?_⟩ <;> cases mjob <;> cases scales <;> decide +kernel

theorem test_meets_MatrixCommands_mma : let fb := formatOfBytes 0x5000 formatBytes
    widthAdmits 4 fb.afmt = true ∧ operandOk fb fb.bfmt (descOfBytes 0x4000 matrix) = true ∧
    fb.bk0 + 32 ≤ nth (descOfBytes 0x4000 matrix).dims 0 ∧ fb.bn0 + 32 ≤ nth (descOfBytes 0x4000 matrix).dims 1 ∧
    badScales fb (descOfBytes 0x4000 matrix) = false ∧ gang.latch = none := by decide +kernel

theorem test_meets_MatrixCommands_mjob : let card := cardOfBytes 0x5080 cardBytes
    Structure crewWorld path (getG crewWorld path 7) 128 cardBytes ∧ cardOk cardBytes card = true ∧ fieldAt cardBytes 8 2 = 0 ∧
    fieldAt cardBytes 10 2 = 0 ∧
    (∀ j, j < passCount card 1 → passOk 96 (descOfBytes 0x4000 matrix) (descOfBytes 0x4000 matrix) (passAt card 1 j) = true) := by
  refine ⟨crew_structure _ _ _ ?_ ?_ ?_ ?_, ?_⟩ <;> decide +kernel

theorem test_meets_MatrixCommands_drain : let d := descOfBytes 0x4000 matrix
    d.kind ≠ 1 ∧ d.rank = 2 ∧ d.fmt = nth [6, 7, 5, 4, 8, 9] 0 ∧ bits (getG (mats 0) path 5) 31 0 + 32 ≤ nth d.dims 0 := by decide +kernel

/-- A chain of one core whose bonds and modes are 1, with its weight-store window (R328). -/
def chainBytes : List Nat :=
  [1, 4, 4, 0, 0, 0, 1, 0] ++ toBytes 4 0 ++ toBytes 4 128 ++ toBytes 4 1 ++ toBytes 4 256 ++ List.replicate 232 0
def chains : State :=
  { withMem 0x5000 [(0x5000, chainBytes)] with
    ctxs := [(0, { Context.blank with state := .running, windows := [(0, 128)] })]
    g := bSetAll [] [(gKey 3 0 5, 0x5000), (gKey 3 0 8, 1)] }

theorem test_meets_ChainAndStepCommands_chain : let c := chainOfBytes 0x5000 chainBytes wg.bonds wg.modes
    readBytes chains.mem (getG chains path 5) 256 = chainBytes ∧ chainOk chainBytes c = true ∧ chainScratch (scratchBytes chains path) c = none ∧
    (checkSteps chains 0 c 0 (getG chains path 8) [(0, 0)]).toOption = some ([⟨0, true, 0, 0, 1, 0, 0⟩], 2 ^ 26 + 2 ^ 21 + 1) ∧
    entryFree chains 0 = true := by decide +kernel

theorem test_meets_ChainAndStepCommands_registers : wg.bonds.length = 16 ∧ wg.modes.length = 16 ∧ getG (withG path 5 4096) path 5 ≤ 4096 ∧
    modeOk (getG (withG path 5 0x01FF01FF) path 5) = true := by decide

/-- An open step with one block of two tiles. -/
def stepping : Workgroup := { wg with step := { wg.step with isOpen := true, blocks := [⟨1, 2, 1, 0, 0⟩] } }

theorem test_meets_ChainAndStepCommands_skip : let s := { withG path 5 0 with wgs := [(2, stepping)] }
    slicesOf path.lanes ≠ [] ∧ indexOk (getG s path 5) = true ∧ orderClear s 2 s.fresh ([], true) = true ∧
    stepping.step.blocks[bits (getG s path 5) 11 8]? = some ⟨1, 2, 1, 0, 0⟩ := by decide

theorem test_meets_TileAccess : path.wait = .none ∧ orderClear (withG path 5 31) 2 (withG path 5 31).fresh ([95], false) = true ∧
    hasBit (getG (withG path 5 31) path 5) 8 = false ∧ (addValues (withG path 5 31) path 0 31 0).length = 4 ∧
    elemPoisoned (withG path 5 31) 2 95 31 = false := by decide

/-- A command of the workgroup. -/
def command (b : CmdBody) : Cmd :=
  { ctx := 0, wg := 2, core := 0, instr := .nopC, body := b, base := 0, owners := [(3, 1, 1)], bar := none, accepted := true, passedOver := 0,
    next := 0, ended := false, failed := false, trap := none, page := none, flags := 0, fetched := none, units := [], planned := false, step := 0, pass := 0,
    skips := [], changed := [] }
def commands (c : Cmd) : State := { world path with cmds := [(70, c)] }
def local4 (base : Nat) : Desc := descOfBytes 0 (tensorBytes base 2 6 0 [4] [1] 0)

theorem test_meets_CommandsRun_copy : unitCount (local4 0) = unitCount (local4 16) ∧ unitCount (local4 0) = 4 ∧
    (∀ j, j < 4 → 0 ≤ unitAt (local4 0) j ∧ unitAt (local4 0) j + unitBytes 6 ≤ 2 ^ 18 ∧ 0 ≤ unitAt (local4 16) j ∧
      unitAt (local4 16) j + unitBytes 6 ≤ 2 ^ 18) ∧
    (∀ j, j < 4 → ∀ k, k < 4 → unitAt (local4 0) j + unitBytes 6 ≤ unitAt (local4 16) k ∨ unitAt (local4 16) k + unitBytes 6 ≤ unitAt (local4 0) j) ∧
    (∀ j, j < 4 → ∀ k, k < 4 → j ≠ k →
      unitAt (local4 16) j + unitBytes 6 ≤ unitAt (local4 16) k ∨ unitAt (local4 16) k + unitBytes 6 ≤ unitAt (local4 16) j) ∧
    peerBusy (commands (command (.copy (local4 0) (local4 16)))) 70 = false := by decide +kernel

theorem test_meets_CommandsRun_engine : passReady (commands (command (.accz 95 0))) 70 (command (.accz 95 0)) = true ∧
    entryFree (commands { command (.accz 0 0) with accepted := false }) 0 = true ∧ takesEntry (.accz 0 0) = true := by decide

/-- An MMA of one member, granted once its B tile is fetched. -/
def mmaCommand : Cmd :=
  { command (.mma (formatOfBytes 0x5000 formatBytes) (descOfBytes 0x4000 matrix) [⟨3, 1, 0, ⟨4, false, 1, [List.replicate 32 0]⟩, false, false⟩]) with
    fetched := some (List.replicate 1024 0, []) }

theorem test_meets_CommandsRun_mma : passReady (commands mmaCommand) 70 mmaCommand = true ∧ (formatOfBytes 0x5000 formatBytes).block = 0 ∧
    (memberWindow (commands mmaCommand) 70 mmaCommand (formatOfBytes 0x5000 formatBytes) ⟨3, 1, 0, ⟨4, false, 1, [List.replicate 32 0]⟩, false, false⟩).2.isOk = true ∧
    (tileOf (commands mmaCommand) 2 0).anchor = (formatOfBytes 0x5000 formatBytes).anchor := by decide +kernel

/-- A latch that holds the two members its crew word names. -/
def members : List LatchMember :=
  let m (path gang : Nat) (latched reuse : Bool) : LatchMember :=
    ⟨path, gang, .mma 0 5 0 0 4 0 6 0, 0x010002, formatBytes,
      .mma (formatOfBytes 0x5000 formatBytes) (descOfBytes 0x4000 matrix) [⟨gang, 1, 0, ⟨4, false, 1, []⟩, latched, reuse⟩], 1⟩
  [m 4 3 false true, m 11 10 true false]

theorem test_meets_CrewForms : let w := { wg with latch := members }
    let s := { world { path with wait := .latch } with
      wgs := [(2, w)], gangs := [(3, gang), (10, { gang with idx := 1 })], paths := [(4, { path with wait := .latch }), (11, { path with gang := 10, wait := .latch })] }
    (ctxAt s w.ctx).state = .running ∧ 0 ∈ crewIds 0x010002 ∧ 1 ∈ crewIds 0x010002 ∧
    (w.latch.map fun m => (aGet m.gang s.gangs).map (·.idx)) = [some 0, some 1] ∧ w.latch.length = bits 0x010002 2 0 ∧ crewBar (.mma 0 5 0 0 4 0 6 0) = none ∧ entryFree s (coreOf s { path with gang := 10 }) = true ∧
    (w.latch.map (·.path)).Nodup ∧ (w.latch.map (·.gang)).Nodup ∧ (aGet 11 s.paths).isSome = true := by decide

/-! Targets, graphics, rays and nodes. -/

/-- The bytes of a target descriptor (R346): four by four pixels, one RGBA8 plane at 0x8000, coverage at 0x9000. -/
def targetBytes (st flags pmask : Nat) : List Nat :=
  [st, flags, 1, 1, 4, 0, 4, 0, 1, 0, 0, 0, 0, 0, 0, 0] ++ [0x8000, 0, 0, 0, 0, 0x9000, 0xA000].flatMap (toBytes 8) ++ toBytes 2 pmask ++
    [0, 1] ++ List.replicate 180 0

theorem engineStructure_of (x va n : Nat) (ps : List (Nat × List Nat)) (b : List Nat) (h0 : 0 < n) (hp : va % 65536 + n ≤ 65536)
    (hv : va < 2 ^ 26) (h : tlbFind (withMem x ps) 0 0 va = some entry) (hb : readBytes (withMem x ps).mem va n = b) :
    EngineStructure (withMem x ps) 0 0 va n b :=
  ⟨va, engine_of _ _ _ _ _ _ h hv rfl h0 hp rfl rfl, clean _ _ _ _ rfl, hb⟩

/-- The descriptor at 0x5000 with a STATE. -/
def targets (st : Nat) : State := withMem 0x5000 [(0x5000, targetBytes st 0 0)]

theorem test_meets_CanOpen : CanOpen (targets tgtCreated) 0 0 0x5000 (0 * 16 + queueOf (targets tgtCreated) path) (targetBytes tgtCreated 0 0)
    0x5000 (fun k => 0x9000 + 128 * k) := by
  refine ⟨by decide, engineStructure_of _ _ _ _ _ ?_ ?_ ?_ ?_ ?_, ?_, ?_, ?_, ?_, ?_, ?_, ?_, engine_of _ _ _ _ _ _ ?_ ?_ ?_ ?_ ?_ ?_ ?_⟩
  case refine_12 =>
    intro k hk
    have hw : (targetOfBytes (targetBytes tgtCreated 0 0)).width * (targetOfBytes (targetBytes tgtCreated 0 0)).height = 16 := by decide +kernel
    rw [hw] at hk ⊢
    obtain rfl : k = 0 := by omega
    have hc : (targetOfBytes (targetBytes tgtCreated 0 0)).cover = 0x9000 := by decide +kernel
    rw [hc]
    refine engine_of _ _ _ _ _ _ ?_ ?_ ?_ ?_ ?_ ?_ ?_ <;> decide +kernel
  case refine_11 => exact fun f hf => nomatch hf
  all_goals decide +kernel

/-- The target captured, with one order entry that lane 0 of the gang holds. -/
def lantern : OrderEntry := ⟨0, 80, 3, 0, 1, 1, 1, none, 0, 0⟩
def captured (st pmask : Nat) (o : List OrderEntry) (sealing : Bool) : State :=
  { targets st with
    targets := [(tgtKey 0 0x5000, { ctx := 0, addr := 0x5000, desc := targetOfBytes (targetBytes st 0 pmask), ops := List.replicate 17 [],
                                    bound := none, sealing := sealing, entries := o, refused := [], lines := [], sealed := 0 })] }

theorem captured_struct (st pmask : Nat) (o : List OrderEntry) (sl : Bool) (va n : Nat) (b : List Nat) (h0 : 0 < n)
    (hp : va % 65536 + n ≤ 65536) (hv : va < 2 ^ 26) (h : tlbFind (captured st pmask o sl) 0 0 va = some entry)
    (hb : readBytes (captured st pmask o sl).mem va n = b) : EngineStructure (captured st pmask o sl) 0 0 va n b :=
  ⟨va, engine_of _ _ _ _ _ _ h hv rfl h0 hp rfl rfl, clean _ _ _ _ rfl, hb⟩

theorem test_meets_CanSeal : ∃ x, CanSeal (captured tgtOpened 0 [] false) 0 0 0x5000 0x5000 x := by
  refine ⟨_, rfl, rfl, captured_struct _ _ _ _ _ _ _ ?_ ?_ ?_ ?_ ?_, engine_of _ _ _ _ _ _ ?_ ?_ ?_ ?_ ?_ ?_ ?_, fun h => absurd rfl h⟩ <;> decide +kernel

theorem test_meets_TargetInstructions_wait : EngineStructure (captured tgtSealed 0 [] false) 0 0 0x5000 1 [tgtSealed] ∧
    tgtSealed ≠ tgtSealing := by
  refine ⟨captured_struct _ _ _ _ _ _ _ ?_ ?_ ?_ ?_ ?_, ?_⟩ <;> decide +kernel

theorem test_meets_TargetInstructions_post : (aGet (tgtKey 0 0x5000) (captured tgtOpened 1 [lantern] false).targets).all (fun x =>
    hasBit x.desc.pmask 0 && (laneEntry x 3 0).any (eligible x)) = true ∧ getG (captured tgtOpened 1 [lantern] false) path 5 = 0x5000 ∧
    (aGet (tgtKey 0 0x5000) (captured tgtOpened 1 [lantern] false).targets).isSome = true := by decide +kernel

theorem test_meets_TargetInstructions_zprobe : EngineStructure (targets tgtCreated) 0 0 0x5000 256 (targetBytes tgtCreated 0 0) ∧
    aGet (tgtKey 0 0x5000) (targets tgtCreated).targets = none := by
  refine ⟨engineStructure_of _ _ _ _ _ ?_ ?_ ?_ ?_ ?_, ?_⟩ <;> decide +kernel

/-- SMP of the SEALED target: the coordinates 0 and 0, level 0, clamped, reach the texel of pixel (0, 0) alone. -/
theorem test_meets_Graphics_sample : let d := targetOfBytes (targetBytes tgtSealed 0 0)
    sampleFault (targetBytes tgtSealed 0 0) d 0 0x5000 = none ∧ getG (targets tgtSealed) path 5 % 256 < 4 ∧
    smpTexels d 0 0 0x3E000000 0x3E000000 0 = [(0x8000, 65536)] ∧ smplTexels d 0 1 2 0 = [(0x8024, 65536)] := by decide +kernel

theorem test_meets_Graphics_texel : TexelReads (targets tgtSealed) path 0x8000 4 0 :=
  ⟨0x8000, leaf, maps_of _ _ _ _ _ rfl (by decide) (by decide) rfl, cleanRo _ _ _ _ rfl, by decide, uncached_of _ _ _ _ rfl rfl rfl,
    fun _ h => absurd h List.not_mem_nil, by decide +kernel⟩

/-- A raster state block at 0x5000 of a four by four target, and the descriptor of its fragment kernel at 0x6000, with one side-table
entry at 0x7000 (R131, R367). -/
def rasterBytes : List Nat := toBytes 8 0x6000 ++ [4, 0, 4, 0, 1] ++ List.replicate 51 0
def launchBytes : List Nat :=
  toBytes 8 0x20000 ++ toBytes 4 16 ++ toBytes 4 1 ++ [0x7000, 0, 0].flatMap (toBytes 8) ++ [1, 1, 1, 0].flatMap (toBytes 4) ++
    [128, 1, 1, 1] ++ toBytes 4 0 ++ List.replicate 192 0
def sideBytes : List Nat := List.replicate 32 0

/-- The world whose queue has an open frame with this much bin memory, these triangles recorded, and these PRIMs waiting. -/
def raster : Raster := ⟨0x6000, 4, 4, 1⟩
def frame (size used : Nat) (ts : List Tri) (xs : List PrimIssue) : Frame :=
  { ctx := 0, queue := 0, id := 0, base := 0x40000, size := size, used := used, raster := if ts.isEmpty then none else some raster, tris := ts, prims := xs,
    refused := [] }
def framed (f : Frame) : State :=
  { withMem 0x5000 [(0x5000, rasterBytes), (0x6000, launchBytes), (0x7000, sideBytes)] with
    queues := [(0, { state := .active, hold := .none, packets := [], nextSeq := 0, frame := some 77, waiting := none, answer := none })]
    frames := [(77, f)] }

theorem framed_struct (f : Frame) (va n : Nat) (b : List Nat) (h0 : 0 < n) (hp : va % 65536 + n ≤ 65536) (hv : va < 2 ^ 26)
    (h : tlbFind (framed f) 0 0 va = some entry) (hb : readBytes (framed f).mem va n = b) : EngineStructure (framed f) 0 0 va n b :=
  ⟨va, engine_of _ _ _ _ _ _ h hv rfl h0 hp rfl rfl, clean _ _ _ _ rfl, hb⟩

theorem framed_launch (f : Frame) (hf : f = frame 4096 0 [] []) : LaunchReads (framed f) 0 0 launchBytes [sideBytes] := by
  subst hf
  refine ⟨by decide +kernel, by decide +kernel, fun i e h => ?_, ⟨[0, 0, 0, 0], framed_struct _ _ _ _ ?_ ?_ ?_ ?_ ?_⟩, ?_, ?_⟩
  case refine_1 =>
    match i with
    | 0 =>
      obtain rfl : sideBytes = e := Option.some.inj h
      refine framed_struct _ _ _ _ ?_ ?_ ?_ ?_ ?_ <;> decide +kernel
    | n + 1 => simp at h
  all_goals decide +kernel

theorem test_meets_Graphics_prim : let s := framed (frame 4096 0 [] [])
    EngineStructure s 0 0 0x6000 256 launchBytes ∧ LaunchReads s 0 0 launchBytes [sideBytes] ∧ rasterOk rasterBytes (rasterOfBytes rasterBytes) = true ∧
    readBytes s.mem 0x5000 64 = rasterBytes ∧ fragDescOk launchBytes (some ([sideBytes].map sideOfBytes)) = true ∧ boundTo s 77 = [] ∧
    emitting s 77 = false := by
  refine ⟨framed_struct _ _ _ _ ?_ ?_ ?_ ?_ ?_, framed_launch _ rfl, ?_⟩ <;> decide +kernel

theorem test_meets_Graphics_prim_maps : let s := framed (frame 4096 0 [] [])
    Structure s path 0x5000 64 rasterBytes ∧ ∀ off, off < 4096 →
      MapsFor s (ctxOf s path) frontCore false .write (0x40000 + off) 1 (0x40000 + off) leaf := by
  refine ⟨⟨rfl, by decide, by decide, 0x5000, leaf, maps_of _ _ _ _ _ rfl (by decide) (by decide) rfl, cleanFor _ _ _ _ rfl,
    uncached_of _ _ _ _ rfl rfl rfl, by decide +kernel⟩, fun off h => ?_⟩
  have e : tlbFind (framed (frame 4096 0 [] [])) frontCore 0 (0x40000 + off) = some entry := by
    have hh : (decide (0 ≤ 0x40000 + off) && decide (0x40000 + off < 0 + 2 ^ 26)) = true := by simp; omega
    simp only [tlbFind]
    show List.find? _ [entry] = some entry
    simp [entry, frontCore]; omega
  exact maps_of _ path _ _ _ e (by omega) (Nat.mod_one _) rfl

/-- A triangle that covers the pixels below the diagonal. -/
def tri : Tri :=
  { off := some 0, key := 5, order := 0, xs := [0, 1024, 0], ys := [0, 0, 1024], zs := [0, 0, 0], qs := [0x3F800000, 0x3F800000, 0x3F800000], a2 := 1024 * 1024 }

theorem test_meets_Graphics_partial : let s := framed (frame 100 80 [tri] [⟨4, 0, raster, [tri]⟩])
    (frameOf s 0).map (·.1) = some 77 ∧ emitting s 77 = false ∧ 100 < 80 + triBytes tri raster ∧ [tri] ≠ [] ∧ (frame 100 80 [tri] []).raster = some raster := by decide +kernel

/-- A pass that may start, and one that has started and emits into the captured target. -/
def pass (st : Bool) (l : Option Nat) : Pass :=
  { ctx := 0, queue := 0, frame := 77, packet := 0, raster := raster, binBase := 0x40000, tris := [tri], targets := [tgtKey 0 0x5000], started := st, page := none,
    refused := none, launch := l, todo := [⟨0, 5, 0, 1, 1, 1, 0, 0, 0⟩], packing := [], ready := [] }

theorem test_meets_Graphics_pass : passTurn { framed (frame 4096 0 [] []) with passes := [(90, pass false none)] } 90 (pass false none) = true ∧
    lanternFull { captured tgtOpened 0 [] false with passes := [(90, pass true (some 1))] } (pass true (some 1)) ⟨0, 5, 0, 1, 1, 1, 0, 0, 0⟩ = false := by
  decide +kernel

theorem test_meets_Graphics_pass_bins : ∀ o, tri.off = some o → EngineStructure (framed (frame 4096 0 [] [])) 0 0 (0x40000 + o) (triBytes tri raster)
    (List.replicate (triBytes tri raster) 0) := by
  intro o h
  obtain rfl : 0 = o := Option.some.inj h
  refine framed_struct _ _ _ _ ?_ ?_ ?_ ?_ ?_ <;> decide +kernel

theorem test_meets_Graphics_apply : (aGet (tgtKey 0 0x5000) (captured tgtOpened 1 [{ lantern with frag := some (0, [0, 0, 0, 0], 0) }] false).targets).all (fun x =>
    (x.entries.find? (fun o => o.seq == 80)).any (fun o => eligible x o) && lanternsGo (captured tgtOpened 1 [] false) x.ctx &&
      let r := loadPixel (captured tgtOpened 1 [] false) x (x.ops.getD 0 []) 1 1
      r.2.toOption.any fun px => (storePixel r.1 x 1 1 px px).2.isNone) = true := by decide +kernel

theorem test_meets_Graphics_seal : let s := captured tgtSealing 0 [] true
    EngineStructure s 0 frontCore (0x5000 + 12) 4 [0, 0, 0, 0] ∧ EngineMaps s 0 frontCore .write (0x5000 + 12) 4 0x500C ∧
    EngineMaps s 0 frontCore .write 0x5000 1 0x5000 ∧ passPending s (tgtKey 0 0x5000) = false ∧ lanternsGo s 0 = true ∧
    (List.replicate 17 ([] : List Nat)).getD 16 [] = [] := by
  refine ⟨captured_struct _ _ _ _ _ _ _ ?_ ?_ ?_ ?_ ?_, engine_of _ _ _ _ _ _ ?_ ?_ ?_ ?_ ?_ ?_ ?_, engine_of _ _ _ _ _ _ ?_ ?_ ?_ ?_ ?_ ?_ ?_, ?_⟩ <;>
    decide +kernel

/-- A ray slot 0 of the workgroup, all of whose bytes are zero but STATE (R375): 128 bytes at 8192. -/
def rays (st : Nat) : State := { withG path 5 0 with scratch := if st = 0 then [] else [(scratchKey 2 (8192 + oState), st)] }

theorem test_meets_SlotIs (st : Nat) (h : st < 5) : SlotIs (rays st) path (getV (rays st) 3 0 9) [st] := by
  match st, h with
  | 0, _ => refine ⟨?_, ?_, ?_, fun _ _ => List.not_mem_nil⟩ <;> decide +kernel
  | 1, _ => refine ⟨?_, ?_, ?_, fun _ _ => List.not_mem_nil⟩ <;> decide +kernel
  | 2, _ => refine ⟨?_, ?_, ?_, fun _ _ => List.not_mem_nil⟩ <;> decide +kernel
  | 3, _ => refine ⟨?_, ?_, ?_, fun _ _ => List.not_mem_nil⟩ <;> decide +kernel
  | 4, _ => refine ⟨?_, ?_, ?_, fun _ _ => List.not_mem_nil⟩ <;> decide +kernel

theorem test_meets_RaySlots : wgOfPath (rays 0) path = some wg ∧ gangOf (rays 0) path = some gang ∧ aGet (wgIdOf (rays 0) path) (rays 0).wgs = some wg ∧
    ctxReg (rays 0) (ctxOf (rays 0) path) rWalker ≠ 0 ∧ releaseReady (rays 0) 3 1 0 = true ∧ loadsReady (rays 0) 3 1 = true ∧ tagBusy (rays 0) 3 0 3 = false ∧
    ((lanesOf (active path)).map fun l => getV (rays 0) 3 l 9).Nodup ∧ lanesOf (active path) = [0] := by decide +kernel

/-- A gang to which one walk has been answered. -/
def answered : Gang := { gang with mail := [⟨0, 3, 0, true⟩] }

theorem test_meets_RaySlots_mail : mailReady answered path = true ∧ firstMail answered 0 = some ⟨0, 3, 0, true⟩ ∧
    (((lanesOf (active path)).filterMap fun l => (firstMail answered l).map (·.slot)).Nodup) ∧ [0].take (lanesOf (active path)).length = [0] := by
  decide

theorem test_meets_RaySlots_spill : SpillFits (rays 2) path 5 ∧ (laneStack (rays 2) 3 0) = (0, []) := by
  refine ⟨⟨?_, ?_, ?_, ?_, fun _ _ => List.not_mem_nil⟩, ?_⟩ <;> decide +kernel

theorem test_meets_RaySlots_walker : let w := { wg with idle := [1], rayQueue := [0] }
    let s := { world path with wgs := [(2, w)], launches := [(1, { launch with desc := { desc with wgSize := 2 } })] }
    walkerReady s 2 w = true ∧ (freeIndexes s 2 (gangShape s w).2).head? = some 1 ∧ (∀ k, s.fresh * 256 ≤ k → aGet k s.g = none) := by
  refine ⟨by decide +kernel, by decide +kernel, fun _ _ => rfl⟩

theorem test_meets_Nodes : NodeReads (withG path 5 0x5000) path (getPair (withG path 5 0x5000) 3 0 8) (List.replicate 128 0) ∧
    Maps (withG path 5 0x5000) path .write ((getG (withG path 5 0x5000) path 5 + getV (withG path 5 0x5000) 3 0 1) % 2 ^ 64) 128 0x5000 leaf ∧
    releaseReady (withG path 5 0x5000) 3 1 3 = true ∧ (∀ x ∈ (withG path 5 0x5000).pubs, x.gang = 3 → x.lanes &&& 1 = 0) ∧
    poisonedAt (withG path 5 0x5000) (dieOf (coreOf (withG path 5 0x5000) path)) 0x5000 4 = none := by
  refine ⟨⟨0, leaf, maps_of _ _ _ _ _ ?_ ?_ ?_ ?_, clean _ _ _ _ rfl, ?_, idle_of _ _ rfl rfl, fun _ h => absurd h List.not_mem_nil⟩,
    maps_of _ _ _ _ _ ?_ ?_ ?_ ?_, ?_, ?_, clean _ _ _ _ rfl⟩
  all_goals decide +kernel

theorem test_meets_Nodes_result : let o : Op := { op .ray (.boxt 0 0) (access 0 0 0 0 leaf) with writes := [(vKey 3 0 10, 1), (vKey 3 0 11, 0)] }
    aGet 50 (inFlight o).ops = some o ∧ (o.writes.map (·.1)).Nodup := ⟨rfl, by decide⟩

/-! Queues and packets, contexts, the package, mailboxes, and the step itself. -/

/-- A packet of an opcode and length, and its words after the header (R124). -/
def packet (o len : Nat) (words : List Nat) : List Nat := [o, len, 0, 0, 0, 0, 0, 0] ++ words.flatMap (toBytes 8)

/-- The world whose queue 0 holds seventeen granules from 0x5000, the first of them given, with a launch descriptor and a target
descriptor in memory, and whose context has a window of 128 bytes in the weight store. -/
def packets (b : List Nat) : State :=
  { withMem 0 [(0x5000, b), (0x6000, targetBytes tgtNone 0 0), (0x7000, sideBytes)] with
    ctxs := [(0, { Context.blank with state := .running, windows := [(0, 128), (0, 0), (0, 0), (0, 0)] })]
    launches := []
    queues := [(0, { state := .active, hold := .none, packets := [], nextSeq := 0, frame := none, waiting := none, answer := none })]
    queueRegs := [(qBase, 0x5000), (qCtl, 1), (qWptr, 17)] }

theorem packets_struct (b : List Nat) (va n : Nat) (x : List Nat) (h0 : 0 < n) (hp : va % 65536 + n ≤ 65536) (hv : va < 2 ^ 26)
    (h : tlbFind (packets b) 0 0 va = some entry) (hb : readBytes (packets b).mem va n = x) : EngineStructure (packets b) 0 0 va n x :=
  ⟨va, engine_of _ _ _ _ _ _ h hv rfl h0 hp rfl rfl, clean _ _ _ _ rfl, hb⟩

/-- One packet of each opcode. -/
def nopPacket : List Nat := packet 0 1 [0]
def wrapPacket : List Nat := packet 9 1 [0]
def launchPacket : List Nat := packet 1 17 [0] ++ launchBytes
def framePacket : List Nat := packet 2 2 [0x10000, 0x10000, 7]
def signalPacket (f : Nat) : List Nat := packet 3 2 [0x8000, 9, f]
def waitPacket (v : Nat) : List Nat := packet 4 2 [0x8000, v, 0]
def fencePacket : List Nat := packet 5 1 [4]
def targetPacket (f : Nat) : List Nat := packet 6 2 [0x6000, f, 0]
def storePacket : List Nat := packet 7 2 [0x8000, 0, 128]
def markPacket : List Nat := packet 8 2 [0x8000, 9, 0]

theorem test_meets_PacketReads (b : List Nat) (hb : b ∈ [nopPacket, wrapPacket, launchPacket, framePacket, signalPacket 0, signalPacket 1,
    waitPacket 0, waitPacket 1, fencePacket, targetPacket 0, targetPacket 1, targetPacket 2, targetPacket 3, storePacket, markPacket]) :
    PacketReads (packets b) 0 b := by
  have hq : (queueAt (packets b) 0).packets = [] := rfl
  have hr : qReg (packets b) 0 qRptr = 0 := rfl
  have hw : qReg (packets b) 0 qWptr = 17 := rfl
  have hb0 : qReg (packets b) 0 qBase = 0x5000 := rfl
  have hn : ringSize (packets b) 0 = 256 := by
    have h : qReg (packets b) 0 qCtl = 1 := rfl
    unfold ringSize
    rw [h]
    decide
  have hall : ∀ b ∈ [nopPacket, wrapPacket, launchPacket, framePacket, signalPacket 0, signalPacket 1,
      waitPacket 0, waitPacket 1, fencePacket, targetPacket 0, targetPacket 1, targetPacket 2, targetPacket 3, storePacket, markPacket],
      headerCode (ofBytes (b.take 8)) 0 256 = none ∧ hLen (ofBytes (b.take 8)) ≤ 17 ∧ bodyCode (ofBytes (b.take 8)) b = none ∧
      (let n := if hOp (ofBytes (b.take 8)) = 0 then 16 else 16 * hLen (ofBytes (b.take 8))
       0 < n ∧ n ≤ 272 ∧ readBytes (packets b).mem 0x5000 n = b) := by decide +kernel
  obtain ⟨h1, h2, h3, h4, h5, h6⟩ := hall b hb
  refine ⟨rfl, .inl rfl, rfl, ?_, ?_, ?_, ?_, h3, fun x hx => ?_, fun _ => hq⟩
  · rw [hr, hw]; decide
  · rw [hr, hn]; exact h1
  · rw [hr, hn, hw]; exact h2
  · rw [hr, hb0]
    exact packets_struct b 0x5000 _ _ h4 (Nat.le_trans (Nat.add_le_add_left h5 20480) (by decide)) (by decide) rfl h6
  · rw [hq] at hx; exact nomatch hx

theorem test_meets_Packets_launch : wstoreHeld (packets launchPacket) 0 = false ∧ (launchPacket.drop 16).take 256 = launchBytes ∧
    LaunchReads (packets launchPacket) 0 frontCore launchBytes [sideBytes] := by
  refine ⟨by decide +kernel, by decide +kernel, by decide +kernel, by decide +kernel, fun i e h => ?_,
    ⟨[0, 0, 0, 0], packets_struct _ _ _ _ ?_ ?_ ?_ ?_ ?_⟩, ?_, ?_⟩
  case refine_1 =>
    match i with
    | 0 =>
      obtain rfl : sideBytes = e := Option.some.inj h
      refine packets_struct _ _ _ _ ?_ ?_ ?_ ?_ ?_ <;> decide +kernel
    | n + 1 => simp at h
  all_goals decide +kernel

theorem test_meets_Packets_words (b : List Nat) : workReleased (packets b) 0 4 = true ∧
    EngineMaps (packets b) 0 frontCore .write 0x8000 8 0x8000 ∧ EngineMaps (packets b) 0 frontCore .write 0x8000 16 0x8000 ∧
    (∀ core, Uncached (packets b) core 0x8000 8) :=
  ⟨rfl, engine_of _ _ _ _ _ _ rfl (by decide) rfl (by decide) (by decide) rfl rfl,
    engine_of _ _ _ _ _ _ rfl (by decide) rfl (by decide) (by decide) rfl rfl, fun _ => uncached_of _ _ _ _ rfl rfl rfl⟩

theorem test_meets_Packets_waitv : EngineStructure (packets (waitPacket 1)) 0 frontCore (fieldAt (waitPacket 1) 8 8) 8 [0, 0, 0, 0, 0, 0, 0, 0] ∧
    waitvCond 0 0 0 = true ∧ waitvCond 0 0 1 = false := by
  refine ⟨packets_struct _ _ _ _ ?_ ?_ ?_ ?_ ?_, ?_⟩ <;> decide +kernel

theorem test_meets_Packets_target : EngineStructure (packets (targetPacket 0)) 0 frontCore 0x6000 256 (targetBytes tgtNone 0 0) ∧
    targetOk (targetBytes tgtNone 0 0) (targetOfBytes (targetBytes tgtNone 0 0)) = true ∧
    EngineMaps (packets (targetPacket 0)) 0 frontCore .write 0x6000 1 0x6000 := by
  refine ⟨packets_struct _ _ _ _ ?_ ?_ ?_ ?_ ?_, ?_, engine_of _ _ _ _ _ _ ?_ ?_ ?_ ?_ ?_ ?_ ?_⟩ <;> decide +kernel

theorem test_meets_Packets_wstore : storeWindowOk (packets storePacket) 0 0 128 = true ∧ (∀ e ∈ (packets storePacket).launches, e.2.ctx ≠ 0) ∧
    (∀ e ∈ (packets storePacket).passes, e.2.ctx ≠ 0) ∧
    EngineStructure (packets storePacket) 0 frontCore (0x8000 + 128 * 0) 128 (List.replicate 128 0) := by
  refine ⟨?_, ?_, ?_, packets_struct _ _ _ _ ?_ ?_ ?_ ?_ ?_⟩ <;> decide +kernel

/-- A queue whose WAITV waits for the word at 0x8000 to be 0, which it is; in host memory when the page lies there. -/
def waiting (hostPage : Bool) : State :=
  { packets (waitPacket 0) with
    ctxs := [(0, { Context.blank with state := .running, pasidEn := true })]
    queues := [(0, { state := .blocked, hold := .waitv, packets := [⟨3, 0, 0x204, waitPacket 0, .waitv⟩], nextSeq := 4, frame := none, waiting := none, answer := none })]
    tlb := [if hostPage then { entry with leaf := leaf + 2 ^ 11 } else entry]
    ats := [⟨frontCore, 0, 0x8000, 0x8000⟩] }

theorem test_meets_Packets_waits : (queueAt (waiting true) 0).packets.find? (fun x => decide (x.wait = .waitv)) =
      some ⟨3, 0, 0x204, waitPacket 0, .waitv⟩ ∧ fieldAt (waitPacket 0) 8 8 % 8 = 0 ∧ waitvCond (fieldAt (waitPacket 0) 24 8) 0 (fieldAt (waitPacket 0) 16 8) = true ∧
    EngineStructure (waiting false) 0 frontCore (fieldAt (waitPacket 0) 8 8) 8 [0, 0, 0, 0, 0, 0, 0, 0] ∧
    tlbFind (waiting true) frontCore 0 (fieldAt (waitPacket 0) 8 8) = some { entry with leaf := leaf + 2 ^ 11 } ∧ eLoc (leaf + 2 ^ 11) = 1 ∧
    (waiting true).ats.find? (fun y => y.core == frontCore && y.ctx == 0 && y.page == 0x8000) = some ⟨frontCore, 0, 0x8000, 0x8000⟩ ∧
    isDevice (hostBase + 0x8000) = false ∧ isPeer (hostBase + 0x8000) = false ∧ poisonedAt (waiting true) (dieOf frontCore) (hostBase + 0x8000) 8 = none := by
  refine ⟨?_, ?_, ?_, ⟨0x8000, engine_of _ _ _ _ _ _ ?_ ?_ ?_ ?_ ?_ ?_ ?_, ?_, ?_⟩, ?_⟩ <;> decide +kernel

/-- A request that awaits the host's translation of page 0x8000, of a core with room for it. -/
theorem test_meets_Translations : let s := { waiting true with services := [⟨0, 5, 0x8000, true, 1, true, none⟩] }
    atsCores s 0 0x8000 = [5] ∧ tlbCount s 5 < Config.tlbEntries := by decide +kernel

theorem test_meets_QueueRegisters : let s := { packets nopPacket with queues := [(1, { queueAt State.reset 1 with state := .idle })] }
    s.pkg.state = .service ∧ (queueAt s 1).state = .idle ∧ (5 : Nat) < ringSize s 1 ∧ (queueAt s 0).state = .disabled ∧ bits 3 4 1 ≠ 15 ∧
    packetOver { waiting false with launches := [] } 0 ⟨3, 0, 0x204, waitPacket 0, .done⟩ = true := by decide +kernel

/-- Contexts that may move: READY with work, RUNNING without, PREEMPTING with every path stopped, SAVED and restorable, DESTROYED. -/
def inState (st : CtxState) (q : Path) : State := { world q with ctxs := [(0, { Context.blank with state := st })] }

theorem test_meets_Contexts : hasWork (inState .ready path) 0 = true ∧ ((aGet 0 (inState .ready path).parts).isSome) = true ∧
    (let s := { inState .running path with launches := [], wgs := [] }; hasWork s 0 = false ∧ isResident s 0 = false) ∧
    canSave (inState .preempting { path with stopped := true }) 0 = true ∧
    stopping (inState .preempting path) path = true ∧ stopping (inState .preempting sup) sup = true ∧ sup.wait = .none ∧ path.starve = 0 := by
  decide +kernel

/-- A user path beside a supervisor path of its slice, and a gang whose slice 0 has issued 4096 instructions since the request. -/
theorem test_meets_Contexts_stops : let q := { path with pos := ⟨0x20000, 1, 0, 3⟩ }
    let s := { inState .preempting q with paths := [(4, q), (5, sup)], gangs := [(3, { gang with since := [4096, 0, 0, 0, 0, 0, 0, 0] })] }
    stopping s q = true ∧ heldBack s q = true ∧ q.cur = none ∧ q.wait = .none ∧ sliceLanes 0 q.lanes ≠ 0 ∧
    (gangOf s q).map (fun g => nth g.since 0) = some 4096 ∧ (∀ r ∈ s.records, r.1 / 16 ≠ 0) := by decide +kernel

/-- A path at a clause of the side table, in the first word of the launch's code. -/
def atSide : Path := { path with pos := ⟨0x20000, 0, 0, 0⟩ }
def sided : State := { inState .preempting atSide with mem := writeMem [] 0x20000 (toBytes 4 0xB0000001), launches := [(1, { launch with side := [⟨0, 0x0F, 1, 1⟩] })] }

theorem test_meets_Contexts_side : atSideEntry sided atSide = some ⟨0, 0x0F, 1, 1⟩ ∧ pathsOf sided 0 = [(4, atSide)] ∧ stopping sided atSide = true := by
  decide +kernel

theorem test_meets_Contexts_restore : restoreOk (inState .saved path) 0 ⟨false, 1, 4096, 1024⟩ = true ∧
    (rePlace (inState .saved path) 0 (savedCores (inState .saved path) 0) (partCores (inState .saved path) 0)).isSome = true ∧
    (let s := { inState .saved path with parts := [(0, ⟨false, 0, 4096, 1024⟩)] }; restoreOk s 0 ⟨false, 0, 4096, 1024⟩ = false) := by decide +kernel

/-- A path that starts a clause, and a fault of a store pending for its gang. -/
def faulted : State :=
  { world { path with pos := ⟨0x20000, 0, 0, 0⟩ } with gangs := [(3, { gang with faults := [⟨0, 1, ⟨cTagFail, 1, 3, 0, false, 0x100⟩, 0x1000⟩] })] }

theorem test_meets_Contexts_fault : dueFault faulted 4 { path with pos := ⟨0x20000, 0, 0, 0⟩ } = some ⟨0, 1, ⟨cTagFail, 1, 3, 0, false, 0x100⟩, 0x1000⟩ ∧
    ctxReg faulted (ctxOf faulted path) rTrapBase ≠ 0 := by decide

/-- The package in a state. -/
def inPkg (st : PkgState) : State := { world path with pkg := { Package.reset with state := st }, poison := [.controller], droops := [(0, ⟨true, 40, 9⟩), (1, ⟨false, 40, 32⟩)] }

theorem test_meets_PackageEvents : (inPkg .rom).pkg.state = .rom ∧ (slotOrder (inPkg .rom).pkg).find? (fun x => imageAccepted (inPkg .rom).pkg x.2) = none ∧
    (inPkg .service).pkg.failing = none ∧ ErrorPlace.controller ∈ (inPkg .service).poison ∧ (∃ c x, (inPkg .service).ctxs = [(c, x)] ∧ x.state = .running ∧
      aGet x.part (inPkg .service).parts = some ⟨false, 1, 4096, 1024⟩) ∧ hasBit 1 0 = true ∧ aGet 0 (inPkg .service).droops = some ⟨true, 40, 9⟩ ∧ aGet 1 (inPkg .service).droops = some ⟨false, 40, 32⟩ ∧ hasBit 2 1 = true ∧ hasBit (mbReg (inPkg .service) 1 1) 0 = false ∧
    reachable (inPkg .service) 1 = true ∧ reachable (inPkg .rom) 0 = true ∧ mailCodeOk (inPkg .service) 1 0x14 = true ∧
    mailCodeOk (inPkg .safe) 0 2 = true :=
  ⟨rfl, rfl, rfl, List.mem_singleton.2 rfl, ⟨_, _, rfl, rfl, rfl⟩, rfl, rfl, rfl, rfl, rfl, rfl, rfl, by decide, by decide⟩

/-- The world whose mailbox of a function runs a command with these parameters, and whose context is in a state. -/
def mail (fn code : Nat) (st : CtxState) (args : List Nat) : State :=
  { inState st path with
    mbx := bSetAll [] ((fn * 64, code) :: (fn * 64 + 1, 1) :: args.zipIdx.map fun a => (fn * 64 + 2 + a.2, a.1))
    mbxRun := bSetAll [] ((fn * 64, code) :: args.zipIdx.map fun a => (fn * 64 + 2 + a.2, a.1)) }

theorem test_meets_MailRuns : (∀ code ∈ [1, 2, 3, 8, 9], MailRuns (mail 0 code .running []) 0 code) ∧
    (∀ code ∈ [0x10, 0x11, 0x12, 0x13, 0x14, 0x15, 0x20, 0x21, 0x22, 0x23], MailRuns (mail 1 code .running []) 1 code) := by
  refine ⟨fun code h => ?_, fun code h => ?_⟩
  · have := (by decide +kernel : ∀ code ∈ [1, 2, 3, 8, 9], hasBit (mbReg (mail 0 code .running []) 0 1) 0 = true ∧
      bits (mbCommand (mail 0 code .running []) 0) 7 0 = code ∧ mailCodeOk (mail 0 code .running []) 0 code = true ∧
      bits (mbCommand (mail 0 code .running []) 0) 63 12 = 0)
    exact this code h
  · have := (by decide +kernel : ∀ code ∈ [0x10, 0x11, 0x12, 0x13, 0x14, 0x15, 0x20, 0x21, 0x22, 0x23],
      hasBit (mbReg (mail 1 code .running []) 1 1) 0 = true ∧
      bits (mbCommand (mail 1 code .running []) 1) 7 0 = code ∧ mailCodeOk (mail 1 code .running []) 1 code = true ∧
      bits (mbCommand (mail 1 code .running []) 1) 63 12 = 0)
    exact this code h

theorem test_meets_Mailboxes_management : mbArg (mail 0 8 .ready [0x105, 6, 0]) 0 0 % 256 = 5 ∧ mbArg (mail 0 8 .ready [0x105, 6, 0]) 0 0 < 2 ^ 10 ∧
    (∀ e ∈ (mail 0 8 .ready [0x105, 6, 0]).parts, e.1 ≠ 5 → e.2.clusters &&& 6 = 0) ∧
    (∀ e ∈ (mail 0 8 .ready [0x105, 6, 0]).ctxs, e.2.part = 5 → e.2.state ≠ .running ∧ e.2.state ≠ .preempting) ∧
    (∀ e ∈ (mail 0 8 .ready [0x105, 6, 0]).ctxs, aGet e.1 (mail 0 8 .ready [0x105, 6, 0]).ctxs = some e.2) ∧ hasBit 0x105 9 = false ∧ hasBit 0x305 9 = true ∧ aGet (mbArg (mail 0 9 .ready [0, 8, 4]) 0 0) (mail 0 9 .ready [0, 8, 4]).parts = some ⟨false, 1, 4096, 1024⟩ := by
  decide +kernel

theorem test_meets_Mailboxes_create : let s := { mail 1 0x110 .ready [0x10000, 0, 0, 0] with ctxs := [] }
    createParams 0x10000 0 0 0 = true ∧ mbArg s 1 0 = 0x10000 ∧ (ctxAt s 1).state = .free ∧ ((aGet 0 s.parts).isSome) = true ∧
    (placeWindows s 0).isSome = true ∧ bits (mbCommand s 1) 11 8 = 1 := by decide +kernel

theorem test_meets_Mailboxes_serve : let s := { mail 1 0x23 .running [0x10000, 1] with services := [⟨0, 0, 0x10000, false, 1, true, none⟩] }
    s.services.any (awaitsServe 0 (mbArg s 1 0)) = true ∧ mbArg s 1 0 % 65536 = 0 ∧ mbArg s 1 1 < 2 := by decide +kernel

theorem test_meets_VectorsAndFunctionReset : let s := { world path with vectors := [(256, ⟨true, false, 2, none⟩), (257, ⟨false, false, 1, none⟩)] }
    aGet (1 * 256 + 0) s.vectors = some ⟨true, false, 2, none⟩ ∧ aGet (1 * 256 + 1) s.vectors = some ⟨false, false, 1, none⟩ ∧
    aGet 0 s.ctxs = some { Context.blank with state := .running } ∧ (0 : Nat) / 16 = 0 := by decide

/-- IADD V3, V1, V2 as the one instruction of a clause of one. -/
def placed : State := State.reset.withFetchWord 32 0x04181040

/-- Its path before the clause and in it. -/
def placedPath : Path := { path with lanes := 0xF, pos := ⟨0x20000, 0, 0, 0⟩, starve := 2 ^ 64 }
def startedPath : Path := { placedPath with pos := ⟨0x20000, 1, 0, 1⟩ }

theorem test_meets_StepRunsDecoded : placed.agenda = [.issue 4] ∧ aGet 4 placed.paths = some placedPath ∧
    chosenOn { placed with agenda := [] } (schedulerOf { placed with agenda := [] } placedPath) = some 4 ∧ active placedPath ≠ 0 ∧
    (ctxAt placed (ctxOf placed placedPath)).state = .running ∧ dueFault placed 4 placedPath = none ∧ heldAtBoundary placed 4 placedPath = false ∧
    inExtent placed placedPath 0x20000 = true ∧
    ((fetchWord { placed with agenda := [] } 4 placedPath 0x20000 false).toOption.any fun x => headerOk x.2 && waitMet x.1 placedPath x.2 &&
      (fetchWord (setPath x.1 4 startedPath) 4 startedPath (wordAddr startedPath.pos) false).toOption.any fun y => y.2 == 0x04181040) = true ∧
    majorAssigned 1 = true ∧ classAdmits 0 1 = true ∧ takesTwo 0x04181040 = false ∧
    (descOf placed startedPath).any (fun d => (beyond (Instr.iadd 3 1 2).usage d.vregs d.accTiles (barriersOf placed startedPath)).isNone) = true ∧
    scoreboardBusy placed startedPath (.iadd 3 1 2) = false ∧ lookaheadSpent placed 4 = false ∧ countFull placed startedPath (.iadd 3 1 2) = false ∧
    poisonedSource placed startedPath (.iadd 3 1 2) = false := by decide +kernel

theorem test_meets_StepRunsDecoded_fetch : aGet (codeKey (ctxOf (world path) path) (coreOf (world path) path) path.sup 0x20000) (world path).icache = none ∧
    Maps (world path) path .fetch 0x20000 4 0x20000 leaf ∧ poisonedFor (world path) (coreOf (world path) path) 0x20000 4 = none ∧
    Uncached (world path) (coreOf (world path) path) 0x20000 4 :=
  ⟨rfl, maps_of _ _ _ _ _ rfl (by decide) (by decide) rfl, cleanFor _ _ _ _ rfl, uncached_of _ _ _ _ rfl rfl rfl⟩

theorem test_meets_DecodeEncode : WellFormed (.iadd 3 1 2) ∧ Instr.isEvent (.iadd 3 1 2) = false := by decide

theorem test_meets_StepKeepsMemory : Canonical placed ∧ (match step placed with | .next t => aKeys t.paths | _ => []) = [4] := by
  refine ⟨⟨?_, ?_⟩, ?_⟩ <;> decide +kernel

/-! Small steps, with results worked out by hand from the manual. -/

/-- What a next state shows. -/
def shows {α : Type} (i : Instr) (s : State) (f : State → α) : Option α :=
  match exec i s with
  | .next t => some (f t)
  | _ => none

/-- The world with V registers of lane 0. -/
def withV (q : Path) (xs : List (Nat × Nat)) : State := { world q with v := bSetAll [] (xs.map fun x => (vKey 3 0 x.1, x.2)) }
def v0 (r : Nat) (s : State) : Nat := getV s 3 0 r
def p0 (r : Nat) (s : State) : Bool := getP s 3 0 r
def hdrOf (s : State) : Nat := ((aGet 4 s.paths).map (·.pos.hdr)).getD 0
def csrOf (i : Nat) (s : State) : Nat := bGet s.csr (csrKey 3 0 i)

theorem test_iadd_wraps : shows (.iadd 3 1 2) (withV path [(1, 0xFFFFFFFF), (2, 3)]) (v0 3) = some 2 := by decide +kernel
theorem test_isub_source_is_destination : shows (.isub 1 1 1) (withV path [(1, 7)]) (v0 1) = some 0 := by decide +kernel
theorem test_imulh_signs : shows (.imulh 3 1 2) (withV path [(1, 0xFFFFFFFF), (2, 2)]) (v0 3) = some 0xFFFFFFFF := by decide +kernel
theorem test_imulhu : shows (.imulhu 3 1 2) (withV path [(1, 0xFFFFFFFF), (2, 2)]) (v0 3) = some 1 := by decide +kernel
theorem test_sar_keeps_sign : shows (.sar 3 1 2) (withV path [(1, 0x80000000), (2, 36)]) (v0 3) = some 0xF8000000 := by decide +kernel
theorem test_iaddsat : shows (.iaddsat 3 1 2) (withV path [(1, 0x7FFFFFFF), (2, 1)]) (v0 3) = some 0x7FFFFFFF := by decide +kernel
theorem test_iadd64_carries : shows (.iadd64 4 2 6) (withV path [(2, 0xFFFFFFFF), (6, 1)]) (fun t => (v0 4 t, v0 5 t)) = some (0, 1) := by decide +kernel
theorem test_clz_zero : shows (.clz 3 1) (withV path []) (v0 3) = some 32 := by decide +kernel
theorem test_bfe_signed : shows (.bfe 3 1 2) (withV path [(1, 0xF0), (2, 0x404)]) (v0 3) = some 0xFFFFFFFF := by decide +kernel
theorem test_bfi : shows (.bfi 3 1 2) (withV path [(1, 5), (2, 0x408), (3, 0xFFFFFFFF)]) (v0 3) = some 0xFFFFF5FF := by decide +kernel
theorem test_icmp_signed : shows (.icmpI32 2 2 1 0) (withV path [(1, 0x80000000)]) (p0 2) = some true := by decide +kernel
theorem test_icmp_unsigned : shows (.icmpN32 2 2 1 0) (withV path [(1, 0x80000000)]) (p0 2) = some false := by decide +kernel
theorem test_p7_reads_true : shows (.pand 1 7 7) (world path) (p0 1) = some true := by decide +kernel
theorem test_p7_discards : shows (.pandn 7 7 7) (world path) (p0 7) = some true := by decide +kernel
theorem test_movhi_keeps_low : shows (.movhi 1 0x1234) (withV path [(1, 0xABCD5678)]) (v0 1) = some 0x12345678 := by decide +kernel
theorem test_umovi_extends : shows (.umovi 5 0x1FFFFF) (world path) (fun t => getG t path 5) = some (2 ^ 64 - 1) := by decide +kernel

/-- 1 + 2^-24 lies halfway between 1 and the next binary32 value, and goes to the even one; it is inexact (NX, bit 4; R75, R189). -/
theorem test_fadd_ties_to_even : shows (.fadd 3 1 2) (withV path [(1, 0x3F800000), (2, 0x33800000)]) (fun t => (v0 3 t, csrOf 1 t)) =
    some (0x3F800000, 0x10) := by decide +kernel
theorem test_fma_is_fused : shows (.fma 4 1 2 3) (withV path [(1, 0x3F800001), (2, 0x3F800001), (3, 0xBF800002)]) (v0 4) = some 0x28800000 := by
  decide +kernel
theorem test_fcmp_nan : shows (.fcmpF32 1 0 1 1) (withV path [(1, 0x7FC00000)]) (p0 1) = some false := by decide +kernel

/-- BRC back by three words from word 1 of the clause at 0x20000, P7 true. -/
theorem test_brc_back : shows (.brc 7 0 0x3FFFFD) (world path) hdrOf = some 0x1FFF8 := by decide +kernel

/-- TRAP enters the handler at TRAPBASE + 64 · 0x16 with its immediate as DETAIL, WORD 1 and lane 0 (R107, R111). -/
theorem test_trap_enters : shows (.trap 0x1234) (world path) (fun t => (hdrOf t, csrOf csrTrapPc t, csrOf csrTrapInfo t)) =
    some (0x1580, 0x20000, 0x112341016) := by decide +kernel
theorem test_csrwr_at_user_level : shows (.csrwr 4 0x100) (world path) hdrOf = some 0x1100 := by decide +kernel
theorem test_ldw_misaligned : shows (.ldw 1 127 5 0 0) (withG path 5 0x102) (fun t => (hdrOf t, csrOf csrFaultAddr t)) = some (0x1140, 0x102) := by
  decide +kernel

/-- The low byte of V1 stored in the scratchpad and loaded with its sign. -/
theorem test_scratch_byte : shows (.sts 1 127 5 0) { withV path [(1, 0x1F0)] with g := [(gKey 3 0 5, 16)] } (fun t => scratchByte t 2 16) = some 0xF0 := by
  decide +kernel

/-- A store of four bytes to a page that is not coherent reaches memory at its acceptance, the low byte first. -/
theorem test_store_accepted : shows .storeAccept ((inFlight (op .store (.stw 1 127 5 3) (access 0x100 4 0x04030201 3 (leaf + 2 ^ 10)))).about (.one 50))
    (fun t => readBytes t.mem 0x100 4) = some [1, 2, 3, 4] := by decide +kernel

theorem test_exit_ends_the_gang : shows .exit (world path) (fun t => (t.paths, t.gangs)) = some ([], []) := by decide +kernel
theorem test_gang_form_arrives : shows .gangFormComplete ((withBarrier { path with wait := .form, cur := some (.bararr 0 5 0) } Barrier.idle 1).about (.one 3))
    (fun t => (aGet 2 t.wgs).map fun w => (barrierAt w 0).gen) = some (some 1) := by decide +kernel
theorem test_supply_good : shows .supplyGood State.reset (·.pkg.state) = some .rom := by decide +kernel
theorem test_query_running : shows .query ((mail 1 0x14 .running []).about (.one 1)) (fun t => (mbReg t 1 32, mbReg t 1 1)) = some (2, 0) := by
  decide +kernel
theorem test_signal_write : shows .signalWrite ((packets (signalPacket 0)).about (.one 0)) (fun t => (readMem t.mem 0x8000 8, qReg t 0 qRptr)) =
    some (9, 2) := by decide +kernel
theorem test_frame_opens : shows .packetComplete (((packets framePacket).about (.one 0)).about (.two 0 0)) (fun t => t.frames.map fun f => (f.2.id, f.2.size)) = some [] := by
  decide +kernel

/-- The placed instruction is the one that the next step runs: V3 = V1 + V2 is zero, and the path is past the clause. -/
theorem test_step_runs_placed : (match step placed with | .next t => some ((aGet 4 t.paths).map fun q => (q.pos.hdr, q.pos.word)) | _ => none) =
    some (some (0x20008, 0)) := by decide +kernel
theorem test_decodeTableWord : decodeTableWord 32 0x04181040 = some (.iadd 3 1 2) ∧ decodeTableWord 64 (0x330201040) = some (.imad 4 1 2 3) := by decide +kernel

/-! Further clauses of the statements above, each with a state that meets its hypotheses. -/

/-- A store to host memory that has still to be sent, through a translation that is to be forgotten. -/
def sending : State :=
  { inFlight (op .store (.stw 1 127 5 3) { access (hostBase + 0x8004) 4 7 3 leaf with done := false }) with ats := [⟨0, 0, 0x8000, 0x8000⟩] }

theorem test_meets_Translations_invalidation : sending.invals = [] ∧ (∀ o ∈ (world path).ops, o.2.ctx ≠ 0) ∧
    ∃ o ∈ sending.ops, o.2.ctx = 0 ∧ o.2.kind = .store ∧ ∃ a ∈ o.2.accesses, isHost a.pa = true ∧ a.done = false ∧
      ∃ e ∈ sending.ats, e.ctx = 0 ∧ e.page = 0x8000 ∧ e.target = (a.pa - hostBase) / 4096 * 4096 := by
  refine ⟨rfl, fun _ h => absurd h List.not_mem_nil, _, List.mem_singleton.2 rfl, rfl, rfl, _, List.mem_singleton.2 rfl, ?_, rfl, _,
    List.mem_singleton.2 rfl, ?_⟩ <;> decide +kernel

theorem test_meets_JoinAndRegang_live : gangLive (world path) gang = true ∧
    gangLive (world path) { joining with stack := [{ joinEntry with lanes := 7 }] } = true := by decide

/-- A store of each request type, to a page that is coherent and to one that is not; and one that a beacon covers. -/
def storing (rt lf : Nat) : State := inFlight (op .store (.stw 1 127 5 rt) (access 0x100 4 7 rt lf))
def beaconed : State := { storing 0 leaf with beacons := [⟨9, 0x100, 8, 0, 5, none⟩] }

theorem test_meets_StoreReachesMemory_types (rt lf : Nat) (hr : rt ∈ [0, 1, 2, 3, 5]) (hl : lf ∈ [leaf, leaf + 2 ^ 10]) :
    let s := storing rt lf
    let o := op .store (.stw 1 127 5 rt) (access 0x100 4 7 rt lf)
    aGet 50 s.ops = some o ∧ o.accesses = [access 0x100 4 7 rt lf] ∧ Uncached s 0 0x100 4 ∧ opBlocked s 50 o = false ∧ 0x100 % 4 = 0 ∧ 4 ∣ 16 ∧
      (l1Words s 0 fun _ _ => true).length + 8 ≤ Config.l1Words ∧ beaconCovers s 0x100 4 = false ∧
      (s.snoop.filter fun e => e.1 == holderSlice (dieOf 0) (0x100 / 128)).length < Config.snoopEntries := by
  refine ⟨rfl, rfl, uncached_of _ _ _ _ rfl rfl rfl, ?_, rfl, by decide, ?_, rfl, ?_⟩
  · exact (by decide +kernel : ∀ rt ∈ [0, 1, 2, 3, 5], ∀ lf ∈ [leaf, leaf + 2 ^ 10],
      opBlocked (storing rt lf) 50 (op .store (.stw 1 127 5 rt) (access 0x100 4 7 rt lf)) = false) rt hr lf hl
  · exact (by decide : (l1Words (storing 0 leaf) 0 fun _ _ => true).length + 8 ≤ Config.l1Words)
  · exact (by decide : ((storing 0 leaf).snoop.filter fun e => e.1 == holderSlice (dieOf 0) (0x100 / 128)).length < Config.snoopEntries)

theorem test_meets_StoreReachesMemory_beacon : beaconCovers beaconed 0x100 4 = true ∧ Uncached beaconed 0 0x100 4 ∧
    opBlocked beaconed 50 (op .store (.stw 1 127 5 0) (access 0x100 4 7 0 leaf)) = false :=
  ⟨by decide, uncached_of _ _ _ _ rfl rfl rfl, by decide⟩

/-- An atomic of a path that waits for its acquire, and one with none. -/
def atomic (r sc : Nat) : Op :=
  { op .atom (.atom 1 127 5 0 3 0 0 2 r sc 0) (access 0x100 4 0 3 leaf) with writes := [(0, 5)] }
def performing (r sc : Nat) : State :=
  { world (if r = 1 then path else { path with wait := .home, cur := some (atomic r sc).instr }) with ops := [(50, atomic r sc)] }

theorem test_meets_Atomics_orders (r sc : Nat) (hr : r < 4) (hs : sc < 5) : let s := performing r sc
    aGet 50 s.ops = some (atomic r sc) ∧ opBlocked s 50 (atomic r sc) = false ∧ Uncached s 0 0x100 4 ∧ aSorted s.l1 = true ∧
      (atomic r sc).failed = [] ∧ s.poison = [] ∧ (∀ e ∈ s.lines, ∀ x ∈ e.2.queue, x.bad = []) ∧
      (r = 1 → aGet 4 s.paths = some path) ∧ (r ≠ 1 → (aGet 4 s.paths).any (fun q => decide (q.wait = Wait.home ∧ q.cur = some (atomic r sc).instr)) = true) := by
  refine ⟨rfl, ?_, uncached_of _ _ _ _ rfl rfl rfl, rfl, rfl, rfl, fun _ h => absurd h List.not_mem_nil, ?_, ?_⟩
  · exact (by decide +kernel : ∀ r, r < 4 → ∀ sc, sc < 5 → opBlocked (performing r sc) 50 (atomic r sc) = false) r hr sc hs
  · rintro rfl; rfl
  · exact (by decide +kernel : ∀ r, r < 4 → ∀ sc, sc < 5 → r ≠ 1 →
      (aGet 4 (performing r sc).paths).any (fun q => decide (q.wait = Wait.home ∧ q.cur = some (atomic r sc).instr)) = true) r hr sc hs

/-- A core whose L1 holds one word at 0x100, of this kind, with its first byte dirty; an OWN word is the core's own span. -/
def dirtyWord (kind : L1Kind) : State :=
  { withG path 5 0x100 with
    l1 := [(l1Key 0 0x100, ⟨0xAB#32, [1, 0, 0, 0], 1, 1, kind, 0⟩)]
    lines := if kind = .own then [(2, ⟨.unc, [⟨0, 0, 1, false⟩], [], []⟩)] else [] }

theorem test_meets_FencesAndCaches_dirty : let s := dirtyWord .si
    (∀ x ∈ s.l1, x.1 / 2 ^ 56 = coreOf s path ∧ x.2.kind = .si ∧ isDevice (x.1 % 2 ^ 56 * 4) = true ∧ hasBit x.2.dirty 0 = true) ∧
    (∀ x ∈ s.l1, lineAt s (x.1 % 2 ^ 56 * 4 / 128) = ⟨.unc, [], [], []⟩) ∧ aSorted s.l1 = true ∧
    (∀ sl, (sliceHolds s sl).length + (l1Words s (coreOf s path) fun _ w => w.dirty != 0).length ≤ Config.sliceLines) ∧
    releaseReady s 3 1 4 = true ∧ loadsReady s 3 1 = true ∧ sideScope pathMat 0 = sideScope pathMat 0 ∧
    (∀ b, b < 7 → ∀ e, e < 5 → pathReleased s path pathCore (sideScope b e) = true) := by
  refine ⟨by decide, by decide, by decide, fun sl => ?_, by decide, by decide, rfl, by decide⟩
  show (sliceHolds (dirtyWord .si) sl).length + _ ≤ _
  rw [show sliceHolds (dirtyWord .si) sl = [] from rfl]
  decide +kernel

theorem test_meets_FencesAndCaches_flush (kind : L1Kind) : let s := dirtyWord kind
    LanesMap s path .flush (accessAddr s path 5 127) 1 ∧ coreOf s path ∉ s.roDrops ∧
    (∀ l, l < 32 → hasBit (active path) l = true → laneConflict s 3 l (2 * 128) 128 = false) ∧ (lineAt s 2).queue = [] ∧
    (∀ x ∈ (lineAt s 2).spans ++ (lineAt s 2).proxy, x.core = coreOf s path) ∧ (∀ e ∈ s.l1, 4 < e.2.unit → e.2.unit ∣ 16) ∧
    l1At s (coreOf s path) (2 * 128 + 4 * 0) = some ⟨0xAB#32, [1, 0, 0, 0], 1, 1, kind, 0⟩ ∧ (lineAt s 2).dir = .unc := by
  have e : tlbFind (dirtyWord kind) 0 0 0x100 = some entry := by cases kind <;> decide +kernel
  refine ⟨⟨rfl, ⟨0, by decide, by decide⟩, fun l hl hb => ⟨0x100, leaf, ?_, cleanFor _ _ _ _ rfl, cleanVia _ _ _ _ _ rfl, cleanRo _ _ _ _ rfl, rfl⟩⟩, ?_⟩
  · obtain rfl := lane0 l hl hb
    have ha : accessAddr (dirtyWord kind) path 5 127 0 = 0x100 := by cases kind <;> decide +kernel
    rw [ha]
    exact maps_of _ _ _ _ _ e (by decide) (by decide) rfl
  · cases kind <;> decide +kernel

/-- An SQGET of a lane with a load in flight. -/
theorem test_meets_StageQueues_early : let s := { stages path fed wg with ops := [(50, op .load (.ldw 1 127 5 0 0) (access 0x100 4 7 0 leaf))] }
    loadsReady s 3 1 = false ∧ 4 ∉ fed.incoming.waiters ∧ (ctxAt s (ctxOf s path)).state = .running := by decide

/-- Tables whose level-3 entry for page 0 is as given, or whose root is poisoned; and a page that two cores ask of the host. -/
def asking3 (leaf3 : Nat) : State := { asking 1 0 with mem := writeMem (asking 1 0).mem 0x14000 (toBytes 8 leaf3) }
def told (taken : Bool) : State :=
  { world path with services := [⟨0, 0, 0x8000, true, 1, false, none⟩, ⟨0, 5, 0x8000, true, 1, taken, none⟩] }

theorem test_meets_ServicePolicies_levels : (walk (asking3 0x6E) (whoHome 0) 0).2.1 = .invalid 0x14000 0x6E 3 ∧ eLeaf 0x6E = true ∧
    leafOk 26 (0x6E ||| 1) = true ∧ (walk (asking3 0x200E) (whoHome 0) 0).2.1 = .invalid 0x14000 0x200E 3 ∧ leafOk 26 (0x200E ||| 1) = false ∧
    (walk (asking3 0x6C) (whoHome 0) 0).2.1 = .invalid 0x14000 0x6C 3 ∧ eLeaf 0x6C = false ∧
    (walk (asking 1 0x200E) (whoHome 0) 0).2.1 = .invalid 0x16000 0x200E 4 ∧ leafOk 16 (0x200E ||| 1) = false ∧
    (walk { asking 1 0x6E with poison := [.mem (0x10000 / 8)] } (whoHome 0) 0).2.1 = .poisoned ∧
    (asking3 0x6E).lines = [] ∧ (asking3 0x6E).cache = [] := by decide +kernel

theorem test_meets_ServicePolicies_told : (∃ x ∈ (told true).services, x.ctx = 0 ∧ x.page = 0x8000 ∧ x.host = true ∧ x.taken = true ∧ x.answer = none) ∧
    (∀ x ∈ (told false).services, x.taken = false) ∧ (told true).services[0]? = some ⟨0, 0, 0x8000, true, 1, false, none⟩ := by decide

theorem test_meets_ServiceAnswers_refused : let f : Trap := ⟨0x07, 1, 3, path.pos.word, false, 0x100⟩
    let x : ParkGroup := ⟨0, path.pos, false, 1, some f, 0x1000, none⟩
    let g := { gang with groups := [x] }
    let s := { world path with gangs := [(3, g)] }
    g.groups.find? (fun y => y.slice == 0) = some x ∧ parkBusy s 3 0 = false ∧ x.lanes &&& g.live ≠ 0 ∧ wgOf s g = some wg ∧
    (ctxAt s wg.ctx).state = .running ∧ x.base ≠ 0 ∧ supervisorApart s 3 (x.lanes &&& g.live) = false ∧
    (∀ e ∈ s.paths, e.2.gang = 3 → e.2.sup = false) := by decide

/-- One lane's read of a peer through the read-only path, an atomic, a read by a lane, and a store to the host and a load from it. -/
def roRequest (fill : Nat) : PeerReq := ⟨50, 0, 0, peerBase, .read 128, false, 3, 0, 0x100, fill, 0x1000, some 2, 7⟩
def atomicRequest : PeerReq := ⟨52, 0, 0, peerBase + 8, .atomic 0 5 0, false, 3, 0, 0x108, 3, 0x1000, some 2, 7⟩
def answers (fill : Nat) : State :=
  { world path with
    ops := [(50, { op .load (.ldw 1 127 5 0 4) { access peerBase 4 0 4 leaf with va := 0x100, done := false } with left := 1 }),
            (52, { op .atom (.atom 1 127 5 0 3 0 0 2 1 3 0) { access (peerBase + 8) 4 0 3 leaf with done := false } with left := 1, writes := [(0, 5)] }),
            (53, op .store (.stw 1 127 5 3) (access hostBase 4 7 3 leaf))]
    peers := [(60, roRequest fill), (62, atomicRequest)] }

theorem test_meets_PeerAnswers_kinds (fill : Nat) (hf : fill = 2 ∨ fill = 3) : let s := answers fill
    aGet 60 s.peers = some (roRequest fill) ∧ (roRequest fill).ask = .read 128 ∧ isPeer (roRequest fill).addr = true ∧ (roRequest fill).addr % 128 = 0 ∧
    (∀ sl, (sliceHolds s sl).length + 64 ≤ Config.sliceLines) ∧ (∀ i, i < 128 → l1At s 0 (peerBase + i) = none) ∧
    (∀ o, aGet 50 s.ops = some o → ∀ a ∈ o.accesses, a.lane = 0 ∧ a.rt = 4 ∧ peerBase ≤ a.pa ∧ a.pa + a.size ≤ peerBase + 128) ∧
    aGet 62 s.peers = some atomicRequest ∧ isAtomic atomicRequest.ask = true ∧ (aGet 52 s.ops).any (fun o => o.kind = .atom) = true ∧
    (∀ o, aGet 50 s.ops = some o → (o.accesses.map (·.lane)).Nodup ∧ o.failed = []) ∧ aSorted s.peers = true ∧
    (∀ e ∈ s.peers, e.2.op ≠ 0) := by
  refine ⟨rfl, rfl, (by decide : isPeer peerBase = true), (by decide : peerBase % 128 = 0), fun sl => ?_, fun _ _ => rfl, ?_, rfl, rfl, rfl, ?_, rfl, ?_⟩
  · rw [show sliceHolds (answers fill) sl = [] from rfl]; decide
  · rintro o h a ha
    obtain rfl := Option.some.inj h
    obtain rfl := List.mem_singleton.1 ha
    decide
  · rintro o h
    obtain rfl := Option.some.inj h
    decide
  · rcases hf with rfl | rfl <;> decide

theorem test_meets_PeerAnswers_ack : frontOf ⟨0, 0, 0, peerBase, .write [1, 2, 3, 4], false, 3, 0, 0x100, 3, 0x1000, some 2, 7⟩ = none ∧
    (aGet 53 (answers 2).ops).any (fun o => decide (o.kind = .store)) = true := by decide

/-- An RTS and a WRITE of at most a line through a window, with nothing of it in motion. -/
theorem test_meets_PeerAnswers_idle : LinesIdle (world path) (linesOf 0x1000 2) := idle_of _ _ rfl rfl

theorem test_meets_WorkgroupsStartAndEnd_room : setPlace waitingLaunch 9 { launch with nextSet := 0 } = some [1] ∧
    ∀ k, waitingLaunch.fresh * 128 ≤ k → (waitingLaunch.fresh * 256 ≤ k → aGet k waitingLaunch.g = none ∧ aGet k waitingLaunch.p = none) ∧
      (waitingLaunch.fresh * 4096 ≤ k → aGet k waitingLaunch.v = none) ∧ aGet k waitingLaunch.csr = none :=
  ⟨by decide +kernel, fun _ _ => ⟨fun _ => ⟨rfl, rfl⟩, fun _ => rfl, rfl⟩⟩

theorem test_meets_TargetInstructions_idle : pathAway (world path) 4 = false ∧ (ctxAt (world path) 0).state = .running ∧ path.wait = .none := by decide

/-- A fragment whose turn has not come: an earlier entry of its pixel has none yet. -/
theorem test_meets_TargetInstructions_parked : let s := captured tgtOpened 1 [{ lantern with key := 0, seq := 7, gang := 9 }, lantern] false
    (aGet (tgtKey 0 0x5000) s.targets).all (fun x => (laneEntry x 3 0).any (fun o => !eligible x o &&
      decide (parkedAt s (lanternOf s x o.x o.y) + x.entries.length < Config.parkedFragments)) && hasBit x.desc.pmask 0) = true ∧ aSorted s.targets = true := by
  decide +kernel

/-- A MONO target whose depth falls (flag 1), with its depth plane at 0xB000, captured, and one sample of pixel (1, 1) covered. -/
def monoBytes : List Nat :=
  [tgtOpened, 2, 1, 1, 4, 0, 4, 0, 1, 0, 0, 0, 0, 0, 0, 0] ++ [0x8000, 0, 0, 0, 0xB000, 0x9000, 0xA000].flatMap (toBytes 8) ++ [0, 0, 0, 1] ++
    List.replicate 180 0
def mono : State :=
  { withMem 0x5000 [(0x5000, monoBytes)] with
    targets := [(tgtKey 0 0x5000, { ctx := 0, addr := 0x5000, desc := targetOfBytes monoBytes, ops := List.replicate 17 [], bound := none, sealing := false,
                                    entries := [lantern], refused := [], lines := [], sealed := 0 })] }

theorem mono_struct (va n : Nat) (b : List Nat) (h0 : 0 < n) (hp : va % 65536 + n ≤ 65536) (hv : va < 2 ^ 26) (h : tlbFind mono 0 0 va = some entry)
    (hb : readBytes mono.mem va n = b) : EngineStructure mono 0 0 va n b :=
  ⟨va, engine_of _ _ _ _ _ _ h hv rfl h0 hp rfl rfl, clean _ _ _ _ rfl, hb⟩

theorem test_meets_TargetInstructions_mono : EngineStructure mono 0 0 0x5000 256 monoBytes ∧ isMono (targetOfBytes monoBytes) = true ∧
    nth monoBytes 0 = tgtOpened ∧ (aGet (tgtKey 0 0x5000) mono.targets).bind (laneEntry · 3 0) = some lantern ∧
    hasBit lantern.samples 0 = true ∧ pixelAddr (targetOfBytes monoBytes) 4 1 1 = 0xB014 ∧ EngineStructure mono 0 0 0xB014 4 [0, 0, 0, 0] := by
  refine ⟨mono_struct _ _ _ ?_ ?_ ?_ ?_ ?_, ?_, ?_, ?_, ?_, ?_, mono_struct _ _ _ ?_ ?_ ?_ ?_ ?_⟩ <;> decide +kernel

/-- A target bound to the open frame 77, and nothing in motion. -/
theorem test_meets_CanSeal_bound : ∀ y ∈ (captured tgtOpened 0 [] false).cache, lineAt (captured tgtOpened 0 [] false) y.line = ⟨.unc, [], [], []⟩ :=
  fun _ h => absurd h List.not_mem_nil

theorem test_meets_Graphics_lanterns : ErrorPlace.lantern (tgtKey 0 0x5000) 80 ∉ (captured tgtOpened 1 [lantern] false).poison ∧
    ((aGet (tgtKey 0 0x5000) (captured tgtOpened 1 [lantern] false).targets).all fun x => tgtKey x.ctx x.addr == tgtKey 0 0x5000) = true ∧
    emitting (framed (frame 4096 0 [] [])) 77 = false := by decide +kernel

/-- A publication that has not begun, and one whose SEQ is odd already. -/
def publishing (began : Option Nat) : State :=
  { world path with pubs := [⟨4, 3, 1, 0, 0x5000, List.replicate 124 7, began⟩] }

theorem test_meets_Nodes_publish (began : Option Nat) :
    (publishing began).pubs[0]? = some ⟨4, 3, 1, 0, 0x5000, List.replicate 124 7, began⟩ ∧ isDevice 0x5000 = true ∧
    LinesIdle (publishing began) (linesOf 0x5000 128) ∧ (List.replicate 124 7).length = 124 :=
  ⟨rfl, by decide, idle_of _ _ rfl rfl, by decide⟩

/-- A FRAME packet that waits: for a pass of the old frame, for none, or with no frame open. -/
def framing (old : Option Nat) (passes : List (Nat × Pass)) : State :=
  { framed (frame 4096 0 [] []) with
    queues := [(0, { state := .active, hold := .none, packets := [⟨3, 0, 0x202, framePacket, .frame⟩], nextSeq := 4, frame := old, waiting := none, answer := none })]
    passes := passes }

theorem test_meets_Packets_frame : emitting (framing (some 77) [(90, pass false none)]) 77 = true ∧ emitting (framing (some 77) []) 77 = false ∧
    77 < (framing (some 77) []).fresh ∧ (queueAt (framing none []) 0).frame = none ∧
    (queueAt (framing none []) 0).packets.find? (fun x => x.seq == 3) = some ⟨3, 0, 0x202, framePacket, .frame⟩ := by decide +kernel

theorem test_meets_Contexts_due : let q := { path with pos := ⟨0x20000, 0, 0, 0⟩ }
    levelFree faulted 4 q = true ∧ (ctxAt faulted (ctxOf faulted q)).state = .running ∧ q.cur = none := by decide

theorem test_meets_PackageEvents_controller : (inPkg .service).pkg.failing = none ∧ (ErrorPlace.controller ∈ (inPkg .service).poison) ∧ 482 ≤ 483 ∧ 483 ≤ 484 :=
  ⟨rfl, List.mem_singleton.2 rfl, by decide, by decide⟩

theorem test_meets_StepRunsDecoded_priv : failsPriv startedPath (.iadd 3 1 2) = false ∧ failsPriv startedPath (.csrwr 4 0x100) = true := by decide

theorem test_meets_VectorsAndFunctionReset_settled : Settled (world path) 0x100 ∧ (∀ c, c / 16 = 1 → 3 ∉ gangsOf (world path) c) ∧
    (∀ c, c / 16 = 1 → 2 ∉ wgsOf (world path) c) ∧ ∀ c, c / 16 = 1 → 4 ∉ (pathsOf (world path) c).map (·.1) := by
  have h0 : ∀ c, c / 16 = 1 → (0 == c) = false := fun c h => by
    simp only [beq_eq_false_iff_ne]; omega
  refine ⟨⟨fun _ => rfl, fun _ h => absurd h List.not_mem_nil⟩, fun c h => ?_, fun c h => ?_, fun c h => ?_⟩ <;>
    simp [gangsOf, wgsOf, pathsOf, world, wg, gang, path, h0 c h]

end Sys2Proof.Tests
end

section
/-! SUPPORT. Integer comparisons, predicate logic and votes (R11, R174, R179, R181): each instruction is a predicate form, so a claim about
one rests on what the form's condition means. -/

namespace Sys2Proof.Machine

/-- The condition that an integer comparison tests is the one that R174 lists. -/
theorem intCond_eq_holdsCond (c : Nat) (x y : Int) : intCond c x y = holdsCond c x y := by
  unfold intCond holdsCond
  split
  · rfl
  · simp [bne, BEq.beq]
  · rfl
  · rfl
  · rfl
  · rename_i h0 h1 h2 h3 h4
    rw [if_neg h0, if_neg h1, if_neg h2, if_neg h3, if_neg h4]

theorem sext_getV (s : State) (q : Path) (l r : Nat) : sext (getV s q.gang l r) 32 = (vWord s q l r).toInt := by
  rw [getV_eq, sext_toNat _ (by decide)]

theorem sext_getPair (s : State) (q : Path) (l r : Nat) : sext (getPair s q.gang l r) 64 = (vPair s q l r).toInt := by
  rw [getPair_eq, sext_toNat _ (by decide)]

/-- Setting further bits in a mask leaves it zero only where there was nothing to set. -/
theorem foldl_or_pow_eq_zero (bs : List Nat) (m : Nat) : bs.foldl (fun m b => m ||| 2 ^ b) m = 0 ↔ m = 0 ∧ bs = [] := by
  induction bs generalizing m with
  | nil => simp
  | cons b bs ih => simp [ih]

theorem maskOf_eq_zero (bs : List Nat) : maskOf bs = 0 ↔ bs = [] := by
  simp [maskOf, foldl_or_pow_eq_zero]

/-- A vote finds a bit in the ballot's mask where some active lane has the predicate (R181). -/
theorem ballotMask_ne_zero (s : State) (q : Path) (a : Nat) :
    (ballotMask s q a != 0) = (lanesOf (active q)).any fun l => getP s q.gang l a := by
  rw [Bool.eq_iff_iff, bne_iff_ne, ne_eq, ballotMask, maskOf_eq_zero, List.filter_eq_nil_iff, List.any_eq_true]
  simp only [not_forall, not_not, exists_prop]

/-- An integer comparison writes its condition on the operands that it reads (R174). -/
theorem intCond_writes {i : Instr} {d c : Nat} {x y f g : State → Path → Nat → Int} (hd : d < 8)
    (he : ∀ s, exec i s = predForm s d fun q l => intCond c (f s q l) (g s q l)) (hf : ∀ s q l, f s q l = x s q l)
    (hg : ∀ s q l, g s q l = y s q l) : WritesP i d fun s q l => holdsCond c (x s q l) (y s q l) :=
  predForm_writes hd fun s => by simp only [he, hf, hg, intCond_eq_holdsCond]

theorem icmp32_writes (d c a b : Nat) (hd : d < 8) :
    WritesP (.icmpI32 d c a b) d (fun s q l => holdsCond c (vWord s q l a).toInt (vWord s q l b).toInt) ∧
    WritesP (.icmpN32 d c a b) d (fun s q l => holdsCond c (vWord s q l a).toNat (vWord s q l b).toNat) :=
  ⟨intCond_writes hd (fun _ => rfl) (fun s q l => sext_getV s q l a) fun s q l => sext_getV s q l b,
   intCond_writes hd (fun _ => rfl) (fun s q l => congrArg Int.ofNat (getV_eq s q l a)) fun s q l => congrArg Int.ofNat (getV_eq s q l b)⟩

theorem icmp64_writes (d c a b : Nat) (hd : d < 8) :
    WritesP (.icmpI64 d c a b) d (fun s q l => holdsCond c (vPair s q l a).toInt (vPair s q l b).toInt) ∧
    WritesP (.icmpN64 d c a b) d (fun s q l => holdsCond c (vPair s q l a).toNat (vPair s q l b).toNat) :=
  ⟨intCond_writes hd (fun _ => rfl) (fun s q l => sext_getPair s q l a) fun s q l => sext_getPair s q l b,
   intCond_writes hd (fun _ => rfl) (fun s q l => congrArg Int.ofNat (getPair_eq s q l a)) fun s q l => congrArg Int.ofNat (getPair_eq s q l b)⟩

theorem voteany_writes (d a : Nat) (hd : d < 8) :
    WritesP (.voteany d a) d fun s q _ => (lanesOf (active q)).any fun l => getP s q.gang l a :=
  predForm_writes hd fun s => by
    change predForm s d (fun q _ => ballotMask s q a != 0) = _
    simp only [ballotMask_ne_zero]

/-- Settles O4: every instruction named is a predicate form, which writes P[d] alone and discards a write of P7. -/
theorem predicates : Obligations.Predicates := by
  intro d a b hd
  refine ⟨fun _ _ c _ => ?_, fun _ _ => ?_⟩
  · obtain ⟨hI32, hN32⟩ := icmp32_writes d c a b hd
    exact ⟨hI32, hN32, fun _ _ => icmp64_writes d c a b hd⟩
  · exact ⟨predForm_writes hd fun _ => rfl, predForm_writes hd fun _ => rfl, predForm_writes hd fun _ => rfl,
      predForm_writes hd fun _ => rfl, voteany_writes d a hd, predForm_writes hd fun _ => rfl⟩

end Sys2Proof.Machine
end

section
/-! SUPPORT. Every step keeps memory and the scratchpads in canonical form (R3, R228, R414): one rule for each operation of the model,
in the model's order, from the accessors of a state up to a turn of the machine. An operation that changes other fields alone keeps the
form as it is; one that stores bytes, or drops some, does it through the laws of memory. -/

namespace Sys2Proof.Machine

/-- What an outcome keeps: its next state, where there is one, is canonical. -/
def CanonicalOut : Out → Prop
  | .next t => Canonical t
  | .fault _ => True
  | .refused _ => True

section
variable {s : State}

theorem canonicalOut_onPath {f : Nat → Path → State} (hf : ∀ p q, Canonical (f p q)) : CanonicalOut (onPath s f) := by
  unfold onPath
  split
  · trivial
  · split
    · trivial
    · exact hf _ _

/-! Registers, paths and contexts. -/

theorem Canonical.setVs (h : Canonical s) (gid : Nat) (ws : List (Nat × Nat × Nat)) : Canonical (setVs s gid ws) := h.of_eq rfl rfl

theorem Canonical.setPs (h : Canonical s) (gid r : Nat) (ws : List (Nat × Bool)) : Canonical (setPs s gid r ws) := by
  unfold Machine.setPs
  split
  · exact h
  · exact h.of_eq rfl rfl

theorem Canonical.setGs (h : Canonical s) (gid : Nat) (cs : List Nat) (r x : Nat) : Canonical (setGs s gid cs r x) := h.of_eq rfl rfl

theorem Canonical.setG (h : Canonical s) (q : Path) (r x : Nat) : Canonical (setG s q r x) := h.of_eq rfl rfl

theorem Canonical.mergeFlagsIn (h : Canonical s) (gid lanes flags : Nat) : Canonical (mergeFlagsIn s gid lanes flags) := h.of_eq rfl rfl

theorem Canonical.mergeFlags (h : Canonical s) (q : Path) (flags : Nat) : Canonical (mergeFlags s q flags) := h.of_eq rfl rfl

theorem Canonical.advance (h : Canonical s) (p : Nat) (q : Path) (k : Nat) : Canonical (advance s p q k) := h.of_eq rfl rfl

theorem Canonical.jump (h : Canonical s) (p : Nat) (q : Path) (a : Nat) : Canonical (jump s p q a) := h.of_eq rfl rfl

theorem Canonical.modGang (h : Canonical s) (gid : Nat) (f : Gang → Gang) : Canonical (modGang s gid f) := h.of_eq rfl rfl

theorem Canonical.modWg (h : Canonical s) (w : Nat) (f : Workgroup → Workgroup) : Canonical (modWg s w f) := h.of_eq rfl rfl

theorem Canonical.modPath (h : Canonical s) (p : Nat) (f : Path → Path) : Canonical (modPath s p f) := h.of_eq rfl rfl

theorem Canonical.modCmd (h : Canonical s) (k : Nat) (f : Cmd → Cmd) : Canonical (modCmd s k f) := h.of_eq rfl rfl

theorem Canonical.modOp (h : Canonical s) (k : Nat) (f : Op → Op) : Canonical (modOp s k f) := h.of_eq rfl rfl

theorem Canonical.freshId (h : Canonical s) : Canonical (freshId s).2 := h.of_eq rfl rfl

theorem Canonical.setCtxReg (h : Canonical s) (c i x : Nat) : Canonical (setCtxReg s c i x) := h.of_eq rfl rfl

theorem Canonical.waitAt (h : Canonical s) (p : Nat) (q : Path) (i : Instr) (w : Wait) : Canonical (waitAt s p q i w) := h.of_eq rfl rfl

theorem Canonical.setQueue (h : Canonical s) (k : Nat) (q : Queue) : Canonical (setQueue s k q) := h.of_eq rfl rfl

theorem Canonical.raiseVector (h : Canonical s) (fn vec : Nat) (pasid : Option Nat) :
    Canonical (raiseVector s fn vec pasid) := h.of_eq rfl rfl

theorem Canonical.raiseError (h : Canonical s) : Canonical (raiseError s) := h.of_eq rfl rfl

/-! Poison marks. -/

theorem Canonical.trimPoison (h : Canonical s) (core : Nat) : Canonical (trimPoison s core) := h.of_eq rfl rfl

/-! The home slices and the lines they serve. -/

theorem Canonical.hostStore (h : Canonical s) (a : Nat) (bytes : List Nat) : Canonical (hostStore s a bytes) := by
  unfold Machine.hostStore
  dsimp only
  split
  · exact h
  · refine Canonical.foldl (fun s x h => ?_) _ ?_
    · exact (canonical_dropClean _ _).2 h
    · refine Canonical.homeWrite ?_ _ _ _
      exact Canonical.foldl (fun _ _ h => h.writeBackRange _ _ _) _ h

theorem Canonical.execHomeRequest (h : Canonical s) : CanonicalOut (execHomeRequest s) := by
  unfold Machine.execHomeRequest
  split
  · exact h.homeStep _
  · exact h

theorem Canonical.execSpanRecall (h : Canonical s) : CanonicalOut (execSpanRecall s) := by
  unfold Machine.execSpanRecall
  split
  · exact h.recallMarked _
  · exact h

theorem Canonical.execReplicaConfirm (h : Canonical s) : CanonicalOut (execReplicaConfirm s) := by
  unfold Machine.execReplicaConfirm
  split
  · split
    · exact (canonical_setLine _ _).2 h
    · exact h
  · exact h

theorem Canonical.execOwnConfirm (h : Canonical s) : CanonicalOut (execOwnConfirm s) := by
  unfold Machine.execOwnConfirm
  split
  · split
    · exact (canonical_setLine _ _).2 h
    · exact h
  · exact h

theorem Canonical.execInvalidationConfirm (h : Canonical s) : CanonicalOut (execInvalidationConfirm s) := by
  unfold Machine.execInvalidationConfirm
  split
  · split
    · dsimp only
      split
      · exact ((canonical_invalidate _ _ _).2 h).homeStep _
      · exact (canonical_invalidate _ _ _).2 h
    · exact h
  · exact h

theorem Canonical.execOwnedWriteback (h : Canonical s) : CanonicalOut (execOwnedWriteback s) := by
  unfold Machine.execOwnedWriteback
  split
  · split
    · exact (h.giveUp _ _).homeStep _
    · exact h
  · exact h

theorem Canonical.execProxyEviction (h : Canonical s) : CanonicalOut (execProxyEviction s) := by
  unfold Machine.execProxyEviction
  split
  · split
    · dsimp only
      exact (canonical_setLine _ _).2 ((canonical_unholdLine _ _).2 h)
    · split
      · exact h.giveUp _ _
      · exact h
    · exact h
  · exact h

theorem Canonical.execReplicationIntervalEnd (h : Canonical s) : CanonicalOut (execReplicationIntervalEnd s) := by
  unfold Machine.execReplicationIntervalEnd
  split
  · split
    · exact h.of_eq rfl rfl
    · exact h
  · exact h

theorem Canonical.execReadOnlyDropEnd (h : Canonical s) : CanonicalOut (execReadOnlyDropEnd s) := by
  unfold Machine.execReadOnlyDropEnd
  split
  · split
    · exact h.of_eq rfl rfl
    · exact h
  · exact h

/-! Translation and its faults. -/

theorem Canonical.atsInsert (h : Canonical s) (t : AtsEntry) : Canonical (atsInsert s t) := by
  unfold Machine.atsInsert
  dsimp only
  unfold Canonical
  dsimp only
  refine Canonical.tlbRoom ?_ _
  exact h.of_eq rfl rfl

theorem Canonical.askPeer (h : Canonical s) (op lane ctx addr n gang core va fill : Nat) :
    Canonical (askPeer s op lane ctx addr n gang core va fill) := h.of_eq rfl rfl

theorem Canonical.writePeer (h : Canonical s) (op lane ctx addr : Nat) (bytes : List Nat) (gang core va : Nat) :
    Canonical (writePeer s op lane ctx addr bytes gang core va) := h.of_eq rfl rfl

theorem Canonical.atomPeer (h : Canonical s) (op lane ctx addr code x y : Nat) (silent : Bool) (gang core va : Nat) :
    Canonical (atomPeer s op lane ctx addr code x y silent gang core va) := h.of_eq rfl rfl

theorem Canonical.engWriteAll (h : Canonical s) (c core cmd : Nat) (runs : List (Nat × List Nat)) :
    Canonical (engWriteAll s c core cmd runs).1 := by
  unfold Machine.engWriteAll
  dsimp only
  split
  · exact h.engTranslateAll _ _ _ _
  · exact (h.engTranslateAll _ _ _ _).writeParts _ _ _ _ _

theorem Canonical.engReadAll (h : Canonical s) (c core cmd : Nat) (runs : List (Nat × Nat)) :
    Canonical (engReadAll s c core cmd runs).1 := by
  unfold Machine.engReadAll
  dsimp only
  split
  · exact h.engTranslateAll _ _ _ _
  · exact (h.engTranslateAll _ _ _ _).engReadParts _ _ _ _

/-! Accesses in flight, machine checks and the end of lanes. -/

theorem Canonical.machineCheckOn (h : Canonical s) (c queue : Nat) : Canonical (machineCheckOn s c queue) := by
  unfold Machine.machineCheckOn
  dsimp only
  split
  · exact h
  · exact ((canonical_modCtx _ _).2 h).contextFault _ _ _

theorem Canonical.machineCheckContext (h : Canonical s) (c : Nat) : Canonical (machineCheckContext s c) :=
  h.machineCheckOn _ _

theorem Canonical.dropLanes (h : Canonical s) (p : Nat) (q : Path) (lanes : Nat) : Canonical (dropLanes s p q lanes) := by
  unfold Machine.dropLanes
  dsimp only
  split
  · exact h.of_eq rfl rfl
  · exact (canonical_setPath _ _).2 h

theorem Canonical.newPath (h : Canonical s) (gid lanes : Nat) (pos : Position) (sup park : Bool) (barsync : Option (Nat × Nat)) :
    Canonical (newPath s gid lanes pos sup park barsync) := by
  unfold Machine.newPath
  split
  · exact h
  · exact (canonical_setPath _ _).2 h.freshId

theorem Canonical.resumeLanes (h : Canonical s) (gid : Nat) (es : List StackEntry) : Canonical (resumeLanes s gid es) := by
  unfold Machine.resumeLanes
  dsimp only
  refine Canonical.foldl (fun s x h => ?_) _ h
  split
  · exact h
  · exact h.newPath _ _ _ _ _ _

theorem Canonical.breakDeadlock (h : Canonical s) (gid : Nat) (w : WaitIssue) : Canonical (breakDeadlock s gid w) := by
  unfold Machine.breakDeadlock
  dsimp only
  split
  · exact ((h.modGang _ _).newPath _ _ _ _ _ _).takeTrapAt _ _ _ _
  · exact (h.modGang _ _).newPath _ _ _ _ _ _

theorem Canonical.checkJoinDeadlock (h : Canonical s) (gid : Nat) : Canonical (checkJoinDeadlock s gid) := by
  unfold Machine.checkJoinDeadlock
  split
  · exact h
  · split
    · split
      · exact h.breakDeadlock _ _
      · exact h
    · exact h

theorem Canonical.killTokens (h : Canonical s) (gid lanes : Nat) : Canonical (killTokens s gid lanes) := h.of_eq rfl rfl

theorem Canonical.emptyLatch (h : Canonical s) (w code detail : Nat) : Canonical (emptyLatch s w code detail) := by
  unfold Machine.emptyLatch
  split
  · exact h
  · dsimp only
    refine Canonical.foldl (fun s x h => ?_) _ (h.modWg _ _)
    split
    · exact h.trapAll _ _ _ _ _ _
    · exact h

theorem Canonical.barrierFault (h : Canonical s) (p detail : Nat) : Canonical (barrierFault s p detail) := by
  unfold Machine.barrierFault
  split
  · split
    · exact h.trapAll _ _ _ _ _ _
    · exact h
  · exact h

theorem Canonical.endDeadlock (h : Canonical s) (wid : Nat) : Canonical (endDeadlock s wid) := by
  unfold Machine.endDeadlock
  split
  · split
    · exact h.barrierFault _ _
    · exact h
  · exact h

theorem Canonical.checkBarrierEnd (h : Canonical s) (wid gid : Nat) : Canonical (checkBarrierEnd s wid gid) := by
  unfold Machine.checkBarrierEnd
  dsimp only
  refine Canonical.endDeadlock ?_ _
  split
  · split
    · split
      · exact h.barrierFault _ _
      · exact h
    · exact h
  · exact h

theorem Canonical.mailFault (h : Canonical s) (p : Nat) : Canonical (mailFault s p) := by
  unfold Machine.mailFault
  split
  · split
    · exact h.trapAll _ _ _ _ _ _
    · exact h
  · exact h

theorem Canonical.checkMailEnd (h : Canonical s) (wid : Nat) : Canonical (checkMailEnd s wid) := by
  unfold Machine.checkMailEnd
  split
  · split
    · split
      · exact h.mailFault _
      · exact h
    · exact h
  · exact h

theorem Canonical.endGang (h : Canonical s) (gid : Nat) (g : Gang) : Canonical (endGang s gid g) := by
  unfold Machine.endGang
  dsimp only
  split
  · exact h.of_eq rfl rfl
  · split
    · exact h.of_eq rfl rfl
    · split
      · refine Canonical.emptyLatch ?_ _ _ _
        exact h.of_eq rfl rfl
      · exact h.of_eq rfl rfl

theorem Canonical.endLanes (h : Canonical s) (gid lanes : Nat) : Canonical (endLanes s gid lanes) := by
  unfold Machine.endLanes
  split
  · exact h
  · dsimp only
    refine Canonical.checkMailEnd ?_ _
    refine Canonical.checkBarrierEnd ?_ _ _
    split
    · refine Canonical.endGang ?_ _ _
      exact h.of_eq rfl rfl
    · refine Canonical.checkJoinDeadlock ?_ _
      refine Canonical.resumeLanes ?_ _ _
      exact h.of_eq rfl rfl

theorem Canonical.parkLanes (h : Canonical s) (p : Nat) (q : Path) (miss : List (Nat × Nat × Nat)) : Canonical (parkLanes s p q miss) :=
  (h.modGang _ _).dropLanes _ _ _

theorem Canonical.settleLanes (h : Canonical s) (p : Nat) (q : Path) (i : Instr) (outs : List (Nat × LaneOut)) :
    Canonical (settleLanes s p q i outs) := by
  unfold Machine.settleLanes
  dsimp only
  split
  · split
    · exact h
    · exact h.parkLanes _ _ _
  · split
    · refine Canonical.takeTrap ?_ _ _ _
      split
      · exact h
      · exact h.parkLanes _ _ _
    · refine Canonical.advance ?_ _ _ _
      split
      · exact h
      · exact h.parkLanes _ _ _

theorem Canonical.settleWhole (h : Canonical s) (p : Nat) (q : Path) (i : Instr) (outs : List (Nat × LaneOut)) (effect : State → State)
    (heffect : ∀ s, Canonical s → Canonical (effect s)) : Canonical (settleWhole s p q i outs effect) := by
  unfold Machine.settleWhole
  dsimp only
  split
  · exact h.waitAt _ _ _ _
  · split
    · exact heffect _ h
    · split
      · exact (heffect _ h).takeTrap _ _ _
      · exact (heffect _ h).advance _ _ _

theorem Canonical.laneXl (h : Canonical s) (q : Path) (acc : Acc) (va al : Nat) : Canonical (laneXl s q acc va al).1 := by
  unfold Machine.laneXl
  dsimp only
  split <;> exact h.translate _ _ _ _ _ _

theorem Canonical.askMissing (h : Canonical s) (q : Path) (acc : Acc) (outs : List (Nat × LaneOut)) :
    Canonical (askMissing s q acc outs) := by
  unfold Machine.askMissing
  refine Canonical.foldl (fun s x h => ?_) _ h
  split
  · exact h.askService _ _ _ _ _
  · exact h

theorem Canonical.laneCheckBy (h : Canonical s) (poison : State → Nat → Nat → Option Nat)
    (further : State → Nat → Nat → Option (Nat × Nat × Nat)) (q : Path) (acc : Acc) (va n al : Nat) :
    Canonical (laneCheckBy poison further s q acc va n al).1 := by
  unfold Machine.laneCheckBy
  dsimp only
  split
  · exact h.laneXl _ _ _ _
  · exact (h.laneXl _ _ _ _).askService _ _ _ _ _
  · split
    · exact (canonical_countFailedAccess).2 (h.laneXl _ _ _ _)
    · split
      · exact (h.laneXl _ _ _ _).readFault _
      · split
        · exact h.laneXl _ _ _ _
        · exact (h.laneXl _ _ _ _).commitXl _ _ _ _ _

theorem Canonical.laneCheck (h : Canonical s) (q : Path) (acc : Acc) (va n al : Nat) : Canonical (laneCheck s q acc va n al).1 :=
  h.laneCheckBy _ _ _ _ _ _ _

theorem Canonical.checkLanes (h : Canonical s) (check : State → Nat → State × LaneOut) (q : Path) (va : Nat → Nat)
    (hcheck : ∀ s x1, Canonical s → Canonical (check s x1).1) : Canonical (checkLanes check s q va).1 := by
  unfold Machine.checkLanes
  dsimp only
  refine Canonical.foldl_fst (fun s x h => ?_) _ ?_
  · exact hcheck _ _ h
  · exact h

theorem Canonical.laneChecks (h : Canonical s) (q : Path) (acc : Acc) (n al : Nat) (va : Nat → Nat) :
    Canonical (laneChecks s q acc n al va).1 :=
  h.checkLanes _ _ _ (fun _ _ h => h.laneCheck _ _ _ _ _)

/-! The forms of instructions that read and write registers. -/

theorem Canonical.laneForm (h : Canonical s) (k d : Nat) (f : Path → Nat → Nat) : CanonicalOut (laneForm s k d f) :=
  canonicalOut_onPath fun _ _ => (h.setVs _ _).advance _ _ _

theorem Canonical.pairForm (h : Canonical s) (d : Nat) (f : Path → Nat → Nat) : CanonicalOut (pairForm s d f) :=
  canonicalOut_onPath fun _ _ => (h.setVs _ _).advance _ _ _

theorem Canonical.predForm (h : Canonical s) (d : Nat) (f : Path → Nat → Bool) : CanonicalOut (predForm s d f) :=
  canonicalOut_onPath fun _ _ => (h.setPs _ _ _).advance _ _ _

theorem Canonical.uniForm (h : Canonical s) (k d : Nat) (f : Path → Nat) : CanonicalOut (uniForm s k d f) :=
  canonicalOut_onPath fun _ _ => (h.setG _ _ _).advance _ _ _

/-! The forms that merge floating flags. -/

theorem Canonical.flagForm (h : Canonical s) (k d : Nat) (f : Path → Nat → Nat × Nat) : CanonicalOut (flagForm s k d f) :=
  canonicalOut_onPath fun _ _ => ((h.setVs _ _).mergeFlags _ _).advance _ _ _

theorem Canonical.flagPairForm (h : Canonical s) (d : Nat) (f : Path → Nat → Nat × Nat) : CanonicalOut (flagPairForm s d f) :=
  canonicalOut_onPath fun _ _ => ((h.setVs _ _).mergeFlags _ _).advance _ _ _

theorem Canonical.flagPredForm (h : Canonical s) (d : Nat) (f : Path → Nat → Bool × Nat) : CanonicalOut (flagPredForm s d f) :=
  canonicalOut_onPath fun _ _ => ((h.setPs _ _ _).mergeFlags _ _).advance _ _ _

/-! Special registers copied to vector registers. -/

theorem Canonical.execMovsr (h : Canonical s) (d n : Nat) : CanonicalOut (execMovsr d n s) := by
  unfold Machine.execMovsr
  split
  · exact h.pairForm _ _
  · exact h.laneForm _ _ _

/-! Loads, stores and atomics. -/

theorem Canonical.clearWay (h : Canonical s) (core leaf pa n : Nat) : Canonical (clearWay s core leaf pa n) := by
  unfold Machine.clearWay
  split
  · exact h.writeBackRange _ _ _
  · split
    · exact h
    · exact (canonical_dropClean _ _).2 (h.writeBackRange _ _ _)

theorem Canonical.loadNow (h : Canonical s) (core ctx t leaf pa n : Nat) : Canonical (loadNow s core ctx t leaf pa n).1 := by
  unfold Machine.loadNow
  have hw := h.clearWay core leaf pa n
  dsimp only
  split
  · split
    · exact h
    · dsimp only
      exact h.roRead _ _ _ _ _
  · split
    · exact h
    · split
      · split
        · dsimp only
          split
          · exact (h.touchP _ _ _).l1Fill _ _ _ _ _
          · exact (canonical_dropClean _ _).2 (h.touchP _ _ _)
        · exact h
      · split
        · dsimp only
          split
          · exact h
          · exact hw
        · dsimp only
          have hr : Canonical (if isDevice pa then Machine.ncRequest (Machine.clearWay s core leaf pa n)
              { whoLeaf core ctx leaf with rt := t } true pa n else Machine.hostSend
                (Machine.clearWay s core leaf pa n) ctx .read pa n) := by
            split
            · exact hw.ncRequest _ _ _ _
            · exact hw.hostSend _ _ _ _
          split
          · exact hr.l1Fill _ _ _ _ _
          · exact (canonical_dropClean _ _).2 hr

theorem Canonical.askHome (h : Canonical s) (pa n : Nat) (r : HomeReq) : Canonical (askHome s pa n r) := h.of_eq rfl rfl

theorem Canonical.askPeerLane (h : Canonical s) (op gid core ctx : Nat) (a : LaneAccess) :
    Canonical (askPeerLane s op gid core ctx a).1 := by
  unfold Machine.askPeerLane
  split
  · dsimp only
    split
    · exact h
    · exact h.askPeer _ _ _ _ _ _ _ _ _
  · dsimp only
    exact Canonical.foldl (fun _ _ h => h.askPeer _ _ _ _ _ _ _ _ _) _ h

theorem Canonical.loadLane (h : Canonical s) (op gid core ctx : Nat) (a : LaneAccess) : Canonical (loadLane s op gid core ctx a).1 := by
  unfold Machine.loadLane
  dsimp only
  split
  · exact h.loadNow _ _ _ _ _ _
  · split
    · exact (h.loadNow _ _ _ _ _ _).askPeerLane _ _ _ _ _
    · exact (h.loadNow _ _ _ _ _ _).askHome _ _ _

theorem Canonical.startLanes (h : Canonical s) (op gid core ctx : Nat) (as : List LaneAccess)
    (f : State → Nat → Nat → Nat → Nat → LaneAccess → State × LaneAccess × Nat)
    (hf : ∀ s x1 x2 x3 x4 x5, Canonical s → Canonical (f s x1 x2 x3 x4 x5).1) : Canonical (startLanes s op gid core ctx as f).1 := by
  unfold Machine.startLanes
  dsimp only
  refine Canonical.foldl_fst (fun s x h => ?_) _ ?_
  · exact hf _ _ _ _ _ _ h
  · exact h

theorem Canonical.putOp (h : Canonical s) (k : Nat) (o : Op) : Canonical (putOp s k o) := h.of_eq rfl rfl

theorem Canonical.startLoad (h : Canonical s) (op gid core ctx : Nat) (as : List LaneAccess) :
    Canonical (startLoad s op gid core ctx as).1 := by
  unfold Machine.startLoad
  split
  · dsimp only
    exact h.startLanes _ _ _ _ _ _ (fun _ _ _ _ _ _ h => h.loadLane _ _ _ _ _)
  · exact h.startLanes _ _ _ _ _ _ (fun _ _ _ _ _ _ h => h.loadLane _ _ _ _ _)

theorem Canonical.settleOp (h : Canonical s) (p : Nat) (q : Path) (i : Instr) (outs : List (Nat × LaneOut)) (k : Nat) (wait : Bool) :
    Canonical (settleOp s p q i outs k wait) := by
  unfold Machine.settleOp
  split
  · dsimp only
    split
    · refine Canonical.waitAt ?_ _ _ _ _
      split
      · exact h.modOp _ _
      · exact (h.modOp _ _).parkLanes _ _ _
    · split
      · exact h.modOp _ _
      · exact (h.modOp _ _).parkLanes _ _ _
  · exact h.settleLanes _ _ _ _

theorem Canonical.vectorLoad (h : Canonical s) (i : Instr) (off g la rt n : Nat) : CanonicalOut (vectorLoad i off g la rt n s) := by
  unfold Machine.vectorLoad
  refine canonicalOut_onPath fun p q => ?_
  dsimp only
  split
  · exact h.waitAt _ _ _ _
  · split
    · exact h.waitAt _ _ _ _
    · split
      · exact (h.checkLanes _ _ _ (fun _ _ h => h.laneCheckBy _ _ _ _ _ _ _)).settleLanes _ _ _ _
      · exact (((h.checkLanes _ _ _ (fun _ _ h => h.laneCheckBy _ _ _ _ _ _ _)).freshId.startLoad _ _ _ _ _).putOp _ _).settleOp _ _ _ _ _ _

theorem Canonical.execLdw (h : Canonical s) (d o g l t : Nat) : CanonicalOut (execLdw d o g l t s) :=
  h.vectorLoad _ _ _ _ _ _

theorem Canonical.execLdd (h : Canonical s) (d o g l t : Nat) : CanonicalOut (execLdd d o g l t s) :=
  h.vectorLoad _ _ _ _ _ _

theorem Canonical.execLdq (h : Canonical s) (d o g l t : Nat) : CanonicalOut (execLdq d o g l t s) :=
  h.vectorLoad _ _ _ _ _ _

theorem Canonical.execLdbn (h : Canonical s) (d o g l : Nat) : CanonicalOut (execLdbn d o g l s) :=
  h.vectorLoad _ _ _ _ _ _

theorem Canonical.execLdbs (h : Canonical s) (d o g l : Nat) : CanonicalOut (execLdbs d o g l s) :=
  h.vectorLoad _ _ _ _ _ _

theorem Canonical.execLdhn (h : Canonical s) (d o g l : Nat) : CanonicalOut (execLdhn d o g l s) :=
  h.vectorLoad _ _ _ _ _ _

theorem Canonical.execLdhs (h : Canonical s) (d o g l : Nat) : CanonicalOut (execLdhs d o g l s) :=
  h.vectorLoad _ _ _ _ _ _

theorem Canonical.resumeAfter (h : Canonical s) (k : Nat) (o : Op) : Canonical (resumeAfter s k o) := by
  unfold Machine.resumeAfter
  split
  · split
    · split
      · exact h.takeTrapAt _ _ _ _
      · exact h.advance _ _ _
    · exact h
  · exact h.of_eq rfl rfl

theorem Canonical.execLoadDataReturn (h : Canonical s) : CanonicalOut (execLoadDataReturn s) := by
  unfold Machine.execLoadDataReturn
  split
  · split
    · split
      · exact h
      · dsimp only
        split
        · refine Canonical.resumeAfter ?_ _ _
          exact h.of_eq rfl rfl
        · refine Canonical.resumeAfter ?_ _ _
          exact h.of_eq rfl rfl
        · split
          · refine Canonical.resumeAfter ?_ _ _
            split <;> exact h.of_eq rfl rfl
          · exact h
        · exact h
    · exact h
  · exact h

theorem Canonical.vectorStore (h : Canonical s) (i : Instr) (d off g rt n : Nat) : CanonicalOut (vectorStore i d off g rt n s) := by
  unfold Machine.vectorStore
  refine canonicalOut_onPath fun p q => ?_
  dsimp only
  split
  · exact h.waitAt _ _ _ _
  · split
    · exact (h.laneChecks _ _ _ _ _).settleLanes _ _ _ _
    · refine Canonical.settleLanes ?_ _ _ _ _
      refine Canonical.putOp ?_ _ _
      refine (h.laneChecks _ _ _ _ _).freshId.startLanes _ _ _ _ _ _ (fun s op gid core ctx a h => ?_)
      split
      · exact h.askHome _ _ _
      · exact h

theorem Canonical.execStw (h : Canonical s) (d o g t : Nat) : CanonicalOut (execStw d o g t s) :=
  h.vectorStore _ _ _ _ _ _

theorem Canonical.execStd (h : Canonical s) (d o g t : Nat) : CanonicalOut (execStd d o g t s) :=
  h.vectorStore _ _ _ _ _ _

theorem Canonical.execStq (h : Canonical s) (d o g t : Nat) : CanonicalOut (execStq d o g t s) :=
  h.vectorStore _ _ _ _ _ _

theorem Canonical.execStb (h : Canonical s) (d o g : Nat) : CanonicalOut (execStb d o g s) :=
  h.vectorStore _ _ _ _ _ _

theorem Canonical.execSth (h : Canonical s) (d o g : Nat) : CanonicalOut (execSth d o g s) :=
  h.vectorStore _ _ _ _ _ _

theorem Canonical.pendFault (h : Canonical s) (gid order lanes base : Nat) (t : Trap) :
    Canonical (pendFault s gid order lanes base t) := h.of_eq rfl rfl

theorem Canonical.writeThrough (h : Canonical s) (k : Nat) (o : Op) (ctx : Nat) (a : LaneAccess) :
    Canonical (writeThrough s k o ctx a) := h.of_eq rfl rfl

theorem Canonical.yieldSpans (h : Canonical s) (core pa n : Nat) : Canonical (yieldSpans s core pa n) :=
  h.recallAll _ _

theorem Canonical.keepStored (h : Canonical s) (core ctx : Nat) (a : LaneAccess) (kind : L1Kind) (wt : Bool) :
    Canonical (keepStored s core ctx a kind wt) := by
  unfold Machine.keepStored
  dsimp only
  split
  · exact h.l1Put _ _ _ _ _
  · exact h.l1Update _ _ _ _ _

theorem Canonical.acceptCoherent (h : Canonical s) (k : Nat) (o : Op) (ctx : Nat) (a : LaneAccess) :
    Canonical (acceptCoherent k o ctx s a) := by
  unfold Machine.acceptCoherent
  extract_lets bytes s1 s2
  have h1 : Canonical s1 := by
    unfold s1
    split
    · split
      · exact h
      · exact h.obtainOwn _ _ _ _ _
    · exact h
  have h2 : Canonical s2 := h1.yieldSpans _ _ _
  split
  · exact h1.l1Put _ _ _ _ _
  · split
    · exact h2.l1Put _ _ _ _ _
    · exact ((h2.clearWay _ _ _ _).keepStored _ _ _ _ _).writeThrough _ _ _ _

theorem Canonical.acceptPeer (h : Canonical s) (k : Nat) (o : Op) (ctx : Nat) (a : LaneAccess) : Canonical (acceptPeer k o ctx s a) := by
  unfold Machine.acceptPeer
  split
  · exact ((canonical_countFailedAccess).2 h).pendFault _ _ _ _ _
  · dsimp only
    refine Canonical.foldl (fun s x h => ?_) _ ?_
    · exact h.writePeer _ _ _ _ _ _ _ _
    · split
      · exact (h.keepStored _ _ _ _ _).memPut _ _
      · exact h.keepStored _ _ _ _ _

theorem Canonical.acceptLane (h : Canonical s) (k : Nat) (o : Op) (ctx : Nat) (a : LaneAccess) : Canonical (acceptLane k o ctx s a) := by
  unfold Machine.acceptLane
  dsimp only
  split
  · exact h.acceptCoherent _ _ _ _
  · split
    · split
      · exact h.l1Put _ _ _ _ _
      · exact (((h.clearWay _ _ _ _).ncRequest _ _ _ _).keepStored _ _ _ _ _).memPut _ _
    · split
      · exact h.acceptPeer _ _ _ _
      · exact ((h.keepStored _ _ _ _ _).hostSend _ _ _ _).memPut _ _

theorem Canonical.sendInvalDone (h : Canonical s) : Canonical (sendInvalDone s) := h.of_eq rfl rfl

theorem Canonical.execStoreAccept (h : Canonical s) : CanonicalOut (execStoreAccept s) := by
  unfold Machine.execStoreAccept
  split
  · split
    · split
      · exact h
      · dsimp only
        refine Canonical.sendInvalDone ?_
        exact (Canonical.foldl (fun _ _ h => h.acceptLane _ _ _ _) _ h).of_eq rfl rfl
    · exact h
  · exact h

theorem Canonical.execUld (h : Canonical s) (d a l t : Nat) : CanonicalOut (execUld d a l t s) := by
  unfold Machine.execUld
  refine canonicalOut_onPath fun p q => ?_
  extract_lets i va acc first r f
  have hr : Canonical r.1 := h.laneCheckBy _ _ _ _ _ _ _
  clear_value r first
  split
  · exact h.waitAt _ _ _ _
  · split
    · exact h.waitAt _ _ _ _
    · split
      · exact hr.waitAt _ _ _ _
      · exact hr.trapAll _ _ _ _ _ _
      · extract_lets u o s1
        have hu : Canonical u.1 := hr.freshId.startLanes _ _ _ _ _ _ fun _ _ _ _ _ _ h => h.loadLane _ _ _ _ _
        have h1 : Canonical s1 := hu.putOp _ _
        split
        · exact h1.advance _ _ _
        · exact h1.waitAt _ _ _ _

theorem Canonical.execLds (h : Canonical s) (d o g l sz : Nat) : CanonicalOut (execLds d o g l sz s) := by
  unfold Machine.execLds
  refine canonicalOut_onPath fun p q => ?_
  dsimp only
  split
  · exact h.trapAll _ _ _ _ _ _
  · refine Canonical.settleLanes ?_ _ _ _ _
    split
    · exact h
    · exact h.freshId.putOp _ _

theorem Canonical.execSts (h : Canonical s) (d o g sz : Nat) : CanonicalOut (execSts d o g sz s) := by
  unfold Machine.execSts
  refine canonicalOut_onPath fun p q => ?_
  dsimp only
  split
  · exact h.trapAll _ _ _ _ _ _
  · refine Canonical.settleLanes ?_ _ _ _ _
    exact Canonical.foldl (fun _ _ h => h.scratchWrite _ _ _) _ h

theorem Canonical.afterLoads (h : Canonical s) (p : Nat) (q : Path) (i : Instr) (then_ : State) (hthen_ : Canonical then_) :
    Canonical (afterLoads s p q i then_) := by
  unfold Machine.afterLoads
  split
  · exact hthen_
  · exact h.waitAt _ _ _ _

theorem Canonical.releaseCore (h : Canonical s) (scope core : Nat) : Canonical (releaseCore s scope core) := by
  unfold Machine.releaseCore
  split
  · exact h
  · exact h.flushDirtySi _

theorem Canonical.execAtom (h : Canonical s) (d o g l t nr c b r sc op : Nat) : CanonicalOut (execAtom d o g l t nr c b r sc op s) := by
  unfold Machine.execAtom
  refine canonicalOut_onPath fun p q => ?_
  extract_lets i n va dry core s1 s2 poison far ck outs s3 as f wr u s4
  split
  · exact (h.askMissing _ _ _).waitAt _ _ _ _
  split
  · exact h.waitAt _ _ _ _
  split
  · exact h.waitAt _ _ _ _
  have h1 : Canonical s1 := by
    unfold s1
    split
    · exact h.releaseCore _ _
    · exact h
  have h2 : Canonical s2 := by
    unfold s2
    split
    · exact h1.acquire _ _ _
    · exact h1
  have hck : Canonical ck.1 := h2.checkLanes _ _ _ fun _ _ h => h.laneCheckBy _ _ _ _ _ _ _
  have h3 : Canonical s3 := by
    refine Canonical.foldl (fun s f h => ?_) _ hck
    split
    · exact canonical_countFailedAccess.2 h
    · exact h
  split
  · exact h3.settleLanes _ _ _ _
  have hu : Canonical u.1 := by
    refine h3.freshId.startLanes _ _ _ _ _ _ fun s op gid core ctx a h => ?_
    split
    · exact (canonical_countFailedAccess.2 h).pendFault _ _ _ _ _
    · split
      · exact h.atomPeer _ _ _ _ _ _ _ _ _ _ _
      · exact h
  have h4 : Canonical s4 := hu.putOp _ _
  split
  · exact h4.waitAt _ _ _ _
  · exact h4.settleLanes _ _ _ _

theorem Canonical.performLane (h : Canonical s) (o : Op) (ctx opc x y : Nat) (a : LaneAccess) :
    Canonical (performLane o ctx opc x y s a).1 := by
  unfold Machine.performLane
  extract_lets w who own held s1 old r s2 s3 s4 old' r'
  have h1 : Canonical s1 := by
    unfold s1
    split
    · exact h.obtainOwn _ _ _ _ _
    · exact h
  have h2 : Canonical s2 := (h1.yieldSpans _ _ _).clearWay _ _ _ _
  have h3 : Canonical s3 := by
    unfold s3
    split
    · exact h2.homeOpen _ _ _
    · split
      · exact h2.ncRequest _ _ _ _
      · exact h2.hostSend _ _ _ _
  have h4 : Canonical s4 := (canonical_dropClean _ _).2 h3
  split
  · exact h1.l1Put _ _ _ _ _
  · exact h4.memPut _ _

theorem Canonical.execAtomicPerformed (h : Canonical s) : CanonicalOut (execAtomicPerformed s) := by
  unfold Machine.execAtomicPerformed
  split
  · split
    · split
      · split
        · exact h
        · extract_lets ctx res s1 o' s2 s3
          have hres : Canonical res.1 := by
            refine Canonical.foldl_fst (fun acc a h => ?_) _ (h.of_eq rfl rfl)
            split
            · exact h
            · exact (h.performLane _ _ _ _ _ _).mergeFlagsIn _ _ _
          have h2 : Canonical s2 := by
            unfold s2
            split
            · exact hres
            · exact hres.of_eq rfl rfl
          have h3 : Canonical s3 := by
            unfold s3
            split
            · exact h2.acquire _ _ _
            · exact h2
          exact (h3.resumeAfter _ _).sendInvalDone
      · exact h
    · exact h
  · exact h

theorem Canonical.execAtoms (h : Canonical s) (d o g l nr c b r op : Nat) : CanonicalOut (execAtoms d o g l nr c b r op s) := by
  unfold Machine.execAtoms
  refine canonicalOut_onPath fun p q => ?_
  dsimp only
  split
  · exact h.trapAll _ _ _ _ _ _
  · split
    · exact h.waitAt _ _ _ _
    · refine Canonical.settleLanes ?_ _ _ _ _
      split
      · refine Canonical.foldl_fst (fun s x h => ?_) _ ?_
        · exact h.scratchWrite _ _ _
        · exact h
      · refine Canonical.putOp ?_ _ _
        refine Canonical.freshId ?_
        refine Canonical.foldl_fst (fun s x h => ?_) _ ?_
        · exact h.scratchWrite _ _ _
        · exact h

/-! Fences, flushes and word waits. -/

theorem Canonical.execFence (h : Canonical s) (o e : Nat) : CanonicalOut (execFence o e s) := by
  unfold Machine.execFence
  refine canonicalOut_onPath fun p q => ?_
  split
  · exact h.waitAt _ _ _ _
  · split
    · exact h.waitAt _ _ _ _
    · dsimp only
      refine Canonical.advance ?_ _ _ _
      split
      · refine Canonical.acquire ?_ _ _ _
        split
        · exact h.releaseCore _ _
        · exact h
      · split
        · exact h.releaseCore _ _
        · exact h

theorem Canonical.pathAcquire (h : Canonical s) (q : Path) (path scope : Nat) : Canonical (pathAcquire s q path scope) := by
  unfold Machine.pathAcquire
  dsimp only
  split
  · exact h.acquire _ _ _
  · split
    · exact h.of_eq rfl rfl
    · split
      · exact h.of_eq rfl rfl
      · exact h

theorem Canonical.execFencex (h : Canonical s) (a b e : Nat) : CanonicalOut (execFencex a b e s) := by
  unfold Machine.execFencex
  refine canonicalOut_onPath fun p q => ?_
  extract_lets i s1 s2
  have h1 : Canonical s1 := by
    unfold s1
    split
    · exact h
    · exact h.releaseCore _ _
  have h2 : Canonical s2 := by
    unfold s2
    split
    · exact h1.pathAcquire _ _ _
    · exact h1
  refine iteInduction (fun _ => h.waitAt _ _ _ _) fun _ => ?_
  refine iteInduction (fun _ => h.waitAt _ _ _ _) fun _ => ?_
  exact (h2.pathAcquire _ _ _).advance _ _ _

theorem Canonical.cleanLine (h : Canonical s) (core ln : Nat) : Canonical (cleanLine s core ln) := by
  unfold Machine.cleanLine
  extract_lets words own s1 release s2 l
  have h1 : Canonical s1 := (h.writeBackAs _ _ _ _).putBack _ _
  exact (canonical_setLine _ _).2 (h1.of_eq rfl rfl)

theorem Canonical.dropEverywhere (h : Canonical s) (ln : Nat) : Canonical (dropEverywhere s ln) :=
  (canonical_dropCached _).2 ((canonical_setLine _ _).2 ((h.settleLine _).recallAll _ _))

theorem Canonical.flushLine (h : Canonical s) (code core ln : Nat) : Canonical (flushLine code core s ln) := by
  unfold Machine.flushLine
  dsimp only
  split
  · exact h.cleanLine _ _
  · refine (canonical_roDrop _).2 ?_
    refine (canonical_dropWords _ _).2 ?_
    split
    · exact (h.cleanLine _ _).dropEverywhere _
    · exact h.cleanLine _ _

theorem Canonical.execCflush (h : Canonical s) (v g t : Nat) : CanonicalOut (execCflush v g t s) := by
  unfold Machine.execCflush
  refine canonicalOut_onPath fun p q => ?_
  dsimp only
  split
  · exact h.waitAt _ _ _ _
  · refine (h.laneChecks _ _ _ _ _).settleWhole _ _ _ _ _ (fun s h => ?_)
    exact Canonical.foldl (fun _ _ h => h.flushLine _ _ _) _ h

theorem Canonical.prefLine (h : Canonical s) (core ctx t leaf pa : Nat) : Canonical (prefLine s core ctx t leaf pa) := by
  unfold Machine.prefLine
  extract_lets ln rt w who s1
  have h1 : Canonical s1 := by
    unfold s1
    split
    · exact h.touchP _ _ _
    · split
      · exact h.ncRequest _ _ _ _
      · split
        · exact h
        · exact h.hostSend _ _ _ _
  split
  · split
    · exact h
    · exact h.askPeer _ _ _ _ _ _ _ _ _
  · split
    · exact h.roRead _ _ _ _ _
    · split
      · exact (canonical_askLine _ _).2 h
      · split
        · exact h1
        · exact h1.l1Fill _ _ _ _ _

theorem Canonical.execPref (h : Canonical s) (v g t : Nat) : CanonicalOut (execPref v g t s) := by
  unfold Machine.execPref
  refine canonicalOut_onPath fun p q => ?_
  dsimp only
  split
  · exact h.waitAt _ _ _ _
  · refine Canonical.advance ?_ _ _ _
    refine Canonical.foldl (fun s x h => ?_) _ h
    split
    · refine Canonical.prefLine ?_ _ _ _ _ _
      split <;> exact h.translate _ _ _ _ _ _
    · split <;> exact h.translate _ _ _ _ _ _

theorem Canonical.overflowBeacons (h : Canonical s) (pa : Nat) : Canonical (overflowBeacons s pa) := by
  unfold Machine.overflowBeacons
  dsimp only
  split
  · split
    · exact h.of_eq rfl rfl
    · exact h
  · exact h

theorem Canonical.endWaitc (h : Canonical s) (p : Nat) (q : Path) (pd scope pa n : Nat) (r : Bool) :
    Canonical (endWaitc s p q pd scope pa n r) :=
  (((canonical_dropClean _ _).2 (h.setPs _ _ _)).acquire _ _ _).advance _ _ _

theorem Canonical.execWaitc (h : Canonical s) (g pd w cond scope gc : Nat) : CanonicalOut (execWaitc g pd w cond scope gc s) := by
  unfold Machine.execWaitc
  refine canonicalOut_onPath fun p q => ?_
  extract_lets i addr n core r c
  have hr : Canonical r.1 := h.laneCheckBy _ _ _ _ _ _ _
  clear_value r c n
  split
  · exact h.waitAt _ _ _ _
  · split
    · exact h.trapAll _ _ _ _ _ _
    · split
      · exact hr.waitAt _ _ _ _
      · exact hr.trapAll _ _ _ _ _ _
      · split
        · exact hr.trapAll _ _ _ _ _ _
        · extract_lets s1 s2 b
          have h1 : Canonical s1 := (hr.writeBackRange _ _ _).homeRead _ _ _
          have h2 : Canonical s2 := ((canonical_dropClean _ _).2 h1).overflowBeacons _
          split
          · exact h2.endWaitc _ _ _ _ _ _ _
          · exact h2.of_eq rfl rfl

theorem Canonical.execBeaconWake (h : Canonical s) : CanonicalOut (execBeaconWake s) := by
  unfold Machine.execBeaconWake
  split
  · split
    · split
      · split
        · exact h
        · refine Canonical.endWaitc ?_ _ _ _ _ _ _ _
          exact h.of_eq rfl rfl
      · exact h
    · exact h
  · exact h

/-! Barriers and batches. -/

theorem Canonical.setBarrier (h : Canonical s) (wid b : Nat) (x : Barrier) : Canonical (setBarrier s wid b x) := h.of_eq rfl rfl

theorem Canonical.endBarrierWait (h : Canonical s) (p : Nat) (q : Path) (b t pd : Nat) : Canonical (endBarrierWait s p q b t pd) := by
  unfold Machine.endBarrierWait
  split
  · exact h
  · exact ((h.setPs _ _ _).acquire _ _ _).advance _ _ _

theorem Canonical.waitBarrier (h : Canonical s) (p : Nat) (q : Path) (i : Instr) (b t pd : Nat) :
    Canonical (waitBarrier s p q i b t pd) := by
  unfold Machine.waitBarrier
  split
  · exact h
  · split
    · exact h.endBarrierWait _ _ _ _ _
    · dsimp only
      split
      · exact (h.waitAt _ _ _ _).barrierFault _ _
      · exact h.waitAt _ _ _ _

theorem Canonical.formWait (h : Canonical s) (p : Nat) (q : Path) (i : Instr) : Canonical (formWait s p q i) := by
  unfold Machine.formWait
  split
  · exact h.waitAt _ _ _ _
  · dsimp only
    split
    · exact (h.waitAt _ _ _ _).modGang _ _
    · split
      · exact ((h.waitAt _ _ _ _).modGang _ _).barrierFault _ _
      · split
        · exact ((h.waitAt _ _ _ _).modGang _ _).barrierFault _ _
        · exact (h.waitAt _ _ _ _).modGang _ _

theorem Canonical.execBarsync (h : Canonical s) (pd g b : Nat) : CanonicalOut (execBarsync pd g b s) := by
  unfold Machine.execBarsync
  refine canonicalOut_onPath fun p q => ?_
  dsimp only
  split
  · split
    · exact h.afterLoads _ _ _ _ (h.waitBarrier _ _ _ _ _ _)
    · exact h.formWait _ _ _
  · exact h.formWait _ _ _

theorem Canonical.execGangFormComplete (h : Canonical s) : CanonicalOut (execGangFormComplete s) := by
  unfold Machine.execGangFormComplete
  split
  · split
    · exact h
    · split
      · exact h
      · split
        · exact h
        · extract_lets mine fail
          have hf : ∀ detail, Canonical (fail detail) := by
            intro detail
            unfold fail
            split
            · exact h.barrierFault _ _
            · exact h
          clear_value fail
          split
          · split
            · exact hf _
            · exact Canonical.foldl (fun _ _ h => h.advance _ _ _) _ ((h.setBarrier _ _ _).setGs _ _ _ _)
          · split
            · exact hf _
            · extract_lets t s1 s2
              have h2 : Canonical s2 := by
                refine Canonical.foldl (fun s e h => ?_) _ (h.setBarrier _ _ _)
                split
                · exact (canonical_setPath _ _).2 h
                · exact h
              refine (?_ : Canonical _)
              split
              · split
                · exact h2.barrierFault _ _
                · exact h2
              · exact h2.endDeadlock _
          · exact h
  · exact h

theorem Canonical.execBarrierWaitEnd (h : Canonical s) : CanonicalOut (execBarrierWaitEnd s) := by
  unfold Machine.execBarrierWaitEnd
  split
  · split
    · split
      · split
        · exact h.endBarrierWait _ _ _ _ _
        · exact h
      · exact h
    · exact h
  · exact h

theorem Canonical.execBatch (h : Canonical s) (v : Nat) : CanonicalOut (execBatch v s) := by
  unfold Machine.execBatch
  refine canonicalOut_onPath fun p q => ?_
  split
  · exact h
  · dsimp only
    split
    · split
      · exact h.trapAll _ _ _ _ _ _
      · split
        · exact h.waitAt _ _ _ _
        · exact ((h.setG _ _ _).modGang _ _).advance _ _ _
    · exact ((h.setG _ _ _).modGang _ _).advance _ _ _

theorem Canonical.endBatchWait (h : Canonical s) (p : Nat) (q : Path) (k pd : Nat) (clr : Bool) :
    Canonical (endBatchWait s p q k pd clr) := by
  unfold Machine.endBatchWait
  dsimp only
  refine Canonical.advance ?_ _ _ _
  refine Canonical.acquire ?_ _ _ _
  split
  · exact (h.setPs _ _ _).modGang _ _
  · exact h.setPs _ _ _

theorem Canonical.execWaitb (h : Canonical s) (pd g c : Nat) : CanonicalOut (execWaitb pd g c s) := by
  unfold Machine.execWaitb
  refine canonicalOut_onPath fun p q => ?_
  dsimp only
  refine h.afterLoads _ _ _ _ ?_
  split
  · exact h.waitAt _ _ _ _
  · exact h.endBatchWait _ _ _ _ _

theorem Canonical.execBatchWaitEnd (h : Canonical s) : CanonicalOut (execBatchWaitEnd s) := by
  unfold Machine.execBatchWaitEnd
  split
  · split
    · split
      · split
        · exact h
        · exact h.endBatchWait _ _ _ _ _
      · exact h
    · exact h
  · exact h

/-! Gangs launched from the lift. -/

theorem Canonical.startGang (h : Canonical s) (x : GangStart) : Canonical (startGang s x) := by
  unfold Machine.startGang
  dsimp only
  refine Canonical.newPath ?_ _ _ _ _ _ _
  split
  · refine Canonical.modWg ?_ _ _
    refine Canonical.setVs ?_ _ _
    refine Canonical.foldl (fun s x h => ?_) _ ?_
    · exact h.setGs _ _ _ _
    · exact h.of_eq rfl rfl
  · refine Canonical.setVs ?_ _ _
    refine Canonical.foldl (fun s x h => ?_) _ ?_
    · exact h.setGs _ _ _ _
    · exact h.of_eq rfl rfl

theorem Canonical.poisonFirst (h : Canonical s) (gid w : Nat) : Canonical (poisonFirst gid w s) := by
  unfold Machine.poisonFirst
  split
  · exact h.of_eq rfl rfl
  · exact h

theorem Canonical.startContinuation (h : Canonical s) (w idx : Nat) (g : LiftGang) : Canonical (startContinuation s w idx g) := by
  unfold Machine.startContinuation
  split
  · exact h
  · exact (h.startGang _).poisonFirst _ _

theorem Canonical.execContinuationGangLaunch (h : Canonical s) : CanonicalOut (execContinuationGangLaunch s) := by
  unfold Machine.execContinuationGangLaunch
  split
  · split
    · exact h
    · dsimp only
      split
      · exact h
      · split
        · split
          · exact h
          · exact (h.modWg _ _).startContinuation _ _ _
        · split
          · exact h
          · split
            · exact h
            · exact (h.modWg _ _).startContinuation _ _ _
  · exact h

theorem Canonical.execLiftFlush (h : Canonical s) : CanonicalOut (execLiftFlush s) := by
  unfold Machine.execLiftFlush
  split
  · split
    · exact h
    · split
      · exact h
      · dsimp only
        exact h.modWg _ _
  · exact h

/-! Accumulator tiles and tensor commands. -/

theorem Canonical.coreRead (h : Canonical s) (w : Who) (core a n : Nat) : Canonical (coreRead s w core a n).1 := by
  unfold Machine.coreRead
  dsimp only
  split
  · refine Canonical.touchP ?_ _ _ _
    split
    · exact h
    · exact h.homeRead _ _ _
  · split
    · exact h
    · exact h.homeRead _ _ _

theorem Canonical.structPart (h : Canonical s) (p : Nat) (q : Path) (i : Instr) (va n : Nat) : Canonical (structPart s p q i va n).1 := by
  unfold Machine.structPart
  dsimp only
  split
  · exact (h.laneCheck _ _ _ _ _).waitAt _ _ _ _
  · exact (h.laneCheck _ _ _ _ _).trapAll _ _ _ _ _ _
  · split
    · exact (h.laneCheck _ _ _ _ _).trapAll _ _ _ _ _ _
    · exact ((h.laneCheck _ _ _ _ _).askPeerLine _ _ _ _ _ _).waitAt _ _ _ _
    · exact (h.laneCheck _ _ _ _ _).coreRead _ _ _ _

theorem Canonical.structParts (h : Canonical s) (p : Nat) (q : Path) (i : Instr) (xs : List (Nat × Nat)) :
    Canonical (structParts s p q i xs).1 := by
  induction xs generalizing s with
  | nil => exact h
  | cons x xs ih =>
    unfold Machine.structParts
    dsimp only
    split
    · exact h.structPart _ _ _ _ _
    · exact ih (h.structPart _ _ _ _ _)

theorem Canonical.structRead (h : Canonical s) (p : Nat) (q : Path) (i : Instr) (va n : Nat) : Canonical (structRead s p q i va n).1 := by
  unfold Machine.structRead
  split
  · exact h.waitAt _ _ _ _
  · exact h.structParts _ _ _ _

theorem Canonical.readDescs (h : Canonical s) (p : Nat) (q : Path) (i : Instr) (xs : List (Nat × Nat)) :
    Canonical (readDescs s p q i xs).1 := by
  induction xs generalizing s with
  | nil => exact h
  | cons x xs ih =>
    unfold Machine.readDescs
    dsimp only
    split
    · exact h.trapAll _ _ _ _ _ _
    · split
      · exact h.structRead _ _ _ _ _
      · exact ih (h.structRead _ _ _ _ _)

theorem Canonical.storeRead (h : Canonical s) (id die off pa a n : Nat) : Canonical (storeRead s id die off pa a n).1 := by
  unfold Machine.storeRead
  split
  · exact h
  · split
    · exact h
    · split
      · exact h
      · dsimp only
        exact h.modCmd _ _

theorem Canonical.unitRead (h : Canonical s) (id : Nat) (c : Cmd) (kind : Nat) (addr : Int) (n : Nat) :
    Canonical (unitRead s id c kind addr n).1 := by
  unfold Machine.unitRead
  dsimp only
  split
  · exact h.engRead _ _ _ _ _
  · split
    · exact h
    · split
      · exact h
      · exact h.storeRead _ _ _ _ _ _
  · split <;> exact h

theorem Canonical.unitWrite (h : Canonical s) (id : Nat) (c : Cmd) (kind : Nat) (addr : Int) (bytes : List Nat) :
    Canonical (unitWrite s id c kind addr bytes).1 := by
  unfold Machine.unitWrite
  dsimp only
  split
  · exact h.engWrite _ _ _ _ _
  · exact h
  · exact h.scratchWrite _ _ _

theorem Canonical.issueFor {t : State} {q : Path} {i : Instr} {body : CmdBody} {bar : Option Nat} {accepted : Bool}
    {owners : List (Nat × Nat)} (h : Canonical s) (ht : issueFor s q i body bar accepted owners = some t) : Canonical t := by
  unfold Machine.issueFor at ht
  dsimp only at ht
  split at ht
  · cases ht
    exact h.of_eq rfl rfl
  · split at ht
    · cases ht
      exact h.of_eq rfl rfl
    · cases ht

theorem Canonical.issueCmd {t : State} {q : Path} {i : Instr} {body : CmdBody} {bar : Option Nat} {accepted : Bool}
    (h : Canonical s) (ht : issueCmd s q i body bar accepted = some t) : Canonical t := h.issueFor ht

theorem Canonical.closeCmd (h : Canonical s) (id : Nat) (c : Cmd) : Canonical (closeCmd s id c) := by
  unfold Machine.closeCmd
  extract_lets s1 s2
  have h1 : Canonical s1 := h.of_eq rfl rfl
  have h2 : Canonical s2 := by
    unfold s2
    split
    · refine Canonical.foldl (fun s o h => ?_) _ h1
      split
      · exact (h.modGang _ _).pendFault _ _ _ _ _
      · exact h.modGang _ _
    · exact h1
  split
  · exact h2.setBarrier _ _ _
  · exact h2

theorem Canonical.finishCmd (h : Canonical s) (id : Nat) (c : Cmd) : Canonical (finishCmd s id c) := by
  unfold Machine.finishCmd
  split
  · exact (h.closeCmd _ _).endDeadlock _
  · exact h.closeCmd _ _

/-! Tile accesses in their order. -/

theorem Canonical.setTile (h : Canonical s) (wg t : Nat) (x : Tile) : Canonical (setTile s wg t x) := h.of_eq rfl rfl

theorem Canonical.setElem (h : Canonical s) (wg t e x : Nat) : Canonical (setElem s wg t e x) := h.of_eq rfl rfl

theorem Canonical.clearElems (h : Canonical s) (wg t first n : Nat) : Canonical (clearElems s wg t first n) := h.of_eq rfl rfl

theorem Canonical.zeroTile (h : Canonical s) (wg t : Nat) (anchor : Int) (dstat : Nat) :
    Canonical (zeroTile s wg t anchor dstat) := h.of_eq rfl rfl

theorem Canonical.addToTile (h : Canonical s) (wg t e : Nat) (p : Partial) : Canonical (addToTile s wg t e p) := h.of_eq rfl rfl

theorem Canonical.inTileOrder (h : Canonical s) (p : Nat) (q : Path) (i : Instr) (act : State → Path → State)
    (hact : ∀ s q, Canonical s → Canonical (act s q)) : Canonical (inTileOrder s p q i act) := by
  unfold Machine.inTileOrder
  extract_lets turn s1
  have h1 : Canonical s1 := by
    unfold s1
    split
    · exact h.of_eq rfl rfl
    · exact h
  split
  · exact hact _ _ h1
  · exact h1.waitAt _ _ _ _

theorem Canonical.execAccadd (h : Canonical s) (v g x : Nat) : CanonicalOut (execAccadd v g x s) := by
  unfold Machine.execAccadd
  refine canonicalOut_onPath fun p q => ?_
  dsimp only
  refine h.inTileOrder _ _ _ _ (fun s q h => ?_)
  refine Canonical.advance ?_ _ _ _
  exact Canonical.foldl (fun _ _ h => h.addToTile _ _ _ _) _ h

theorem Canonical.execAccrd (h : Canonical s) (v g l x : Nat) : CanonicalOut (execAccrd v g l x s) := by
  unfold Machine.execAccrd
  refine canonicalOut_onPath fun p q => ?_
  dsimp only
  refine h.inTileOrder _ _ _ _ (fun s q h => ?_)
  refine Canonical.settleLanes ?_ _ _ _ _
  exact h.of_eq rfl rfl

theorem Canonical.execAccwr (h : Canonical s) (v g x : Nat) : CanonicalOut (execAccwr v g x s) := by
  unfold Machine.execAccwr
  refine canonicalOut_onPath fun p q => ?_
  dsimp only
  refine h.inTileOrder _ _ _ _ (fun s q h => ?_)
  refine Canonical.advance ?_ _ _ _
  refine Canonical.foldl (fun s x h => ?_) _ h
  split
  · exact h.setTile _ _ _
  · exact (h.setElem _ _ _ _).clearElems _ _ _ _

theorem Canonical.addPass (h : Canonical s) (wg t : Nat) (fb : FormatBlock) (rows : List Nat) (a b : Window) :
    Canonical (addPass s wg t fb rows a b) := by
  unfold Machine.addPass
  dsimp only
  refine Canonical.foldl (fun s x h => ?_) _ h
  refine Canonical.foldl (fun s x h => ?_) _ h
  exact Canonical.foldl (fun _ _ h => h.addToTile _ _ _ _) _ h

/-! Placing workgroups and ending them. -/

theorem Canonical.readSide (h : Canonical s) (c core cmd n k : Nat) : Canonical (readSide s c core cmd n k).1 := by
  induction n generalizing s k with
  | zero => exact h
  | succ n ih =>
    unfold Machine.readSide
    dsimp only
    split
    · exact ih (h.engRead _ _ _ _ _) _
    · exact h.engRead _ _ _ _ _

theorem Canonical.checkLaunch (h : Canonical s) (c core cmd : Nat) (b : List Nat) : Canonical (checkLaunch s c core cmd b).1 := by
  unfold Machine.checkLaunch
  dsimp only
  split
  · exact h.readSide _ _ _ _ _
  · split <;> exact (h.readSide _ _ _ _ _).engRead _ _ _ _ _

theorem Canonical.addLaunch (h : Canonical s) (l : Launch) : Canonical (addLaunch s l).1 := h.of_eq rfl rfl

theorem Canonical.startScratch (h : Canonical s) (wid c core size : Nat) : Canonical (startScratch s wid c core size) :=
  ⟨h.1, Bank.wf_bSetAll _ _ h.2⟩

theorem Canonical.startTiles (h : Canonical s) (wid n : Nat) : Canonical (startTiles s wid n) := h.of_eq rfl rfl

theorem Canonical.startGangs (h : Canonical s) (wid : Nat) (w : Workgroup) (d : LaunchDesc) : Canonical (startGangs s wid w d) :=
  Canonical.foldl (fun _ _ h => h.startGang _) _ h

theorem Canonical.startFragGang (h : Canonical s) (wid : Nat) (d : LaunchDesc) (fs : List Frag) : Canonical (startFragGang s wid d fs) :=
  ((h.modWg _ _).startGang _).of_eq rfl rfl

theorem Canonical.startWorkgroup (h : Canonical s) (lid : Nat) (l : Launch) (n stage core : Nat) (frags : Option (List Frag)) :
    Canonical (startWorkgroup s lid l n stage core frags) := by
  unfold Machine.startWorkgroup
  dsimp only
  split
  · refine Canonical.startFragGang ?_ _ _ _
    refine Canonical.startTiles ?_ _ _
    refine Canonical.startScratch ?_ _ _ _ _
    exact h.of_eq rfl rfl
  · refine Canonical.startGangs ?_ _ _ _
    refine Canonical.startTiles ?_ _ _
    refine Canonical.startScratch ?_ _ _ _ _
    exact h.of_eq rfl rfl

theorem Canonical.execPipelineSetStart (h : Canonical s) : CanonicalOut (execPipelineSetStart s) := by
  unfold Machine.execPipelineSetStart
  split
  · split
    · exact h
    · split
      · exact h
      · split
        · exact h
        · dsimp only
          split <;> exact (Canonical.foldl (fun _ _ h => h.startWorkgroup _ _ _ _ _ _) _ h).of_eq rfl rfl
  · exact h

theorem Canonical.releaseWorkgroup (h : Canonical s) (wid : Nat) (w : Workgroup) : Canonical (releaseWorkgroup s wid w) :=
  ⟨h.1, Memory.wf_filter _ _ h.2⟩

theorem Canonical.execWorkgroupFinish (h : Canonical s) : CanonicalOut (execWorkgroupFinish s) := by
  unfold Machine.execWorkgroupFinish
  split
  · split
    · exact h
    · split
      · exact h
      · dsimp only
        split
        · exact h.of_eq rfl rfl
        · refine Canonical.releaseWorkgroup ?_ _ _
          exact h.of_eq rfl rfl
  · exact h

/-! Primitives and bins. -/

theorem Canonical.makePass (h : Canonical s) (fid : Nat) (f : Frame) (queue packet : Nat) (ts : List Tri) :
    Canonical (makePass s fid f queue packet ts) := by
  unfold Machine.makePass
  split
  · exact h
  · split
    · exact h
    · exact h.of_eq rfl rfl

theorem Canonical.rasteriseFrame (h : Canonical s) (fid queue packet : Nat) : Canonical (rasteriseFrame s fid queue packet) := by
  unfold Machine.rasteriseFrame
  split
  · exact h
  · exact (h.makePass _ _ _ _ _).of_eq rfl rfl

theorem Canonical.unbindTargets (h : Canonical s) (fid : Nat) (keys : List Nat) : Canonical (unbindTargets s fid keys) := h.of_eq rfl rfl

theorem Canonical.countPartial (h : Canonical s) (c : Nat) : Canonical (countPartial s c) := h.of_eq rfl rfl

theorem Canonical.pathEng (h : Canonical s) (p : Nat) (q : Path) (i : Instr) (e : Eng) : Canonical (pathEng s p q i e) := by
  unfold Machine.pathEng
  split
  · split
    · exact h.trapAll _ _ _ _ _ _
    · exact h.waitAt _ _ _ _
  · exact h.trapAll _ _ _ _ _ _
  · exact h.waitAt _ _ _ _

theorem Canonical.primAccept (h : Canonical s) (p : Nat) (q : Path) (i : Instr) (fid : Nat) (r : Raster) (v f c : Nat) :
    Canonical (primAccept s p q i fid r v f c) := h.of_eq rfl rfl

theorem Canonical.execPrim (h : Canonical s) (v g f c : Nat) : CanonicalOut (execPrim v g f c s) := by
  unfold Machine.execPrim
  refine canonicalOut_onPath fun p q => ?_
  dsimp only
  split
  · exact h.trapAll _ _ _ _ _ _
  · split
    · exact h.structRead _ _ _ _ _
    · split
      · exact (h.structRead _ _ _ _ _).trapAll _ _ _ _ _ _
      · split
        · split
          · exact (((h.structRead _ _ _ _ _).engRead _ _ _ _ _).checkLaunch _ _ _ _).pathEng _ _ _ _
          · split
            · exact (((h.structRead _ _ _ _ _).engRead _ _ _ _ _).checkLaunch _ _ _ _).trapAll _ _ _ _ _ _
            · split
              · exact (((h.structRead _ _ _ _ _).engRead _ _ _ _ _).checkLaunch _ _ _ _).trapAll _ _ _ _ _ _
              · split
                · exact (((h.structRead _ _ _ _ _).engRead _ _ _ _ _).checkLaunch _ _ _ _).trapAll _ _ _ _ _ _
                · exact (((h.structRead _ _ _ _ _).engRead _ _ _ _ _).checkLaunch _ _ _ _).primAccept _ _ _ _ _ _ _ _
        · exact ((h.structRead _ _ _ _ _).engRead _ _ _ _ _).pathEng _ _ _ _

theorem Canonical.binWrite (h : Canonical s) (f : Frame) (off : Nat) (bytes : List Nat) : Canonical (binWrite s f off bytes).1 := by
  unfold Machine.binWrite
  dsimp only
  split <;> exact h.engWrite _ _ _ _ _

theorem Canonical.recordTris (h : Canonical s) (r : Raster) (xs : List Tri) (fr : Frame) : Canonical (recordTris r xs s fr).1.1 := by
  induction xs generalizing s fr with
  | nil => exact h
  | cons x xs ih =>
    unfold Machine.recordTris
    split
    · dsimp only
      split
      · exact ih (h.binWrite _ _ _) _
      · exact h.binWrite _ _ _
    · exact h

theorem Canonical.execPrimitiveBinned (h : Canonical s) : CanonicalOut (execPrimitiveBinned s) := by
  unfold Machine.execPrimitiveBinned
  split
  · split
    · exact h
    · split
      · exact h
      · split
        · exact h
        · dsimp only
          split
          · split
            · split <;> exact (h.recordTris _ _ _).of_eq rfl rfl
            · exact (h.recordTris _ _ _).of_eq rfl rfl
          · exact (h.recordTris _ _ _).of_eq rfl rfl
  · exact h

/-! The copy engine. -/

theorem Canonical.badHandles (h : Canonical s) (p : Nat) (q : Path) (i : Instr) (detail addr : Nat) :
    Canonical (badHandles s p q i detail addr) :=
  h.trapAll _ _ _ _ _ _

theorem Canonical.copyChecks (h : Canonical s) (p : Nat) (q : Path) (i : Instr) (handles : List Nat) (wordOk : Bool)
    (own : List Desc → Option (Nat × Nat)) (rest : State → List Desc → State) (hrest : ∀ s x1, Canonical s → Canonical (rest s x1)) :
    Canonical (copyChecks s p q i handles wordOk own rest) := by
  unfold Machine.copyChecks
  dsimp only
  split
  · exact h.readDescs _ _ _ _
  · split
    · exact (h.readDescs _ _ _ _).badHandles _ _ _ _ _
    · split
      · exact (h.readDescs _ _ _ _).badHandles _ _ _ _ _
      · split
        · exact (h.readDescs _ _ _ _).badHandles _ _ _ _ _
        · split
          · exact (h.readDescs _ _ _ _).trapAll _ _ _ _ _ _
          · exact hrest _ _ (h.readDescs _ _ _ _)

theorem Canonical.copyIssue (h : Canonical s) (p : Nat) (q : Path) (i : Instr) (body : CmdBody) (bar : Option Nat) :
    Canonical (copyIssue s p q i body bar) := by
  unfold Machine.copyIssue
  split
  · rename_i ht
    exact (h.issueCmd ht).advance _ _ _
  · exact h.trapAll _ _ _ _ _ _

theorem Canonical.copyTo (h : Canonical s) (p : Nat) (q : Path) (i : Instr) (dsts : List Desc) (body : CmdBody) (bar : Option Nat) :
    Canonical (copyTo s p q i dsts body bar) := by
  unfold Machine.copyTo
  split
  · exact h.trapAll _ _ _ _ _ _
  · exact h.copyIssue _ _ _ _ _

theorem Canonical.execCpyq (h : Canonical s) (g x b k hd : Nat) : CanonicalOut (execCpyq g x b k hd s) := by
  unfold Machine.execCpyq
  refine canonicalOut_onPath fun p q => ?_
  dsimp only
  refine h.copyChecks _ _ _ _ _ _ _ (fun s ds h => ?_)
  split
  · exact h.trapAll _ _ _ _ _ _
  · split
    · exact h.trapAll _ _ _ _ _ _
    · exact h.copyIssue _ _ _ _ _

theorem Canonical.streamCopy (h : Canonical s) (p : Nat) (q : Path) (i : Instr) (w k : Nat) (enc : Bool) (stream : Nat)
    (bar : Option Nat) : Canonical (streamCopy s p q i w k enc stream bar) := by
  unfold Machine.streamCopy
  dsimp only
  refine h.copyChecks _ _ _ _ _ _ _ (fun s ds h => ?_)
  split
  · exact h.trapAll _ _ _ _ _ _
  · split
    · exact h.trapAll _ _ _ _ _ _
    · exact h.copyIssue _ _ _ _ _

theorem Canonical.moveUnit (h : Canonical s) (id : Nat) (c : Cmd) (src dst : Desc) (a b : Int) :
    Canonical (moveUnit s id c src dst a b).1 := by
  unfold Machine.moveUnit
  dsimp only
  split
  · exact (h.unitRead _ _ _ _ _).unitWrite _ _ _ _ _
  · exact h.unitRead _ _ _ _ _

theorem Canonical.readEachRun (h : Canonical s) (id : Nat) (c : Cmd) (kind : Nat) (xs : List (Int × Nat)) :
    Canonical (readEachRun s id c kind xs).1 := by
  induction xs generalizing s with
  | nil => exact h
  | cons x xs ih =>
    unfold Machine.readEachRun
    dsimp only
    split
    · split <;> exact ih (h.unitRead _ _ _ _ _)
    · exact h.unitRead _ _ _ _ _

theorem Canonical.readWhole (h : Canonical s) (id : Nat) (c : Cmd) (kind : Nat) (runs : List (Int × Nat)) :
    Canonical (readWhole s id c kind runs).1 := by
  unfold Machine.readWhole
  split
  · exact h.engReadAll _ _ _ _
  · exact h.readEachRun _ _ _ _

theorem Canonical.writeWhole (h : Canonical s) (id : Nat) (c : Cmd) (kind : Nat) (runs : List (Int × Nat)) (bytes : List Nat) :
    Canonical (writeWhole s id c kind runs bytes).1 := by
  unfold Machine.writeWhole
  dsimp only
  split
  · exact h.engWriteAll _ _ _ _
  · exact Canonical.foldl (fun _ _ h => h.unitWrite _ _ _ _ _) _ h

theorem Canonical.readTile (h : Canonical s) (id : Nat) (c : Cmd) (d : Desc) (tr tc : Nat) : Canonical (readTile s id c d tr tc).1 := by
  unfold Machine.readTile
  dsimp only
  refine Canonical.foldl_fst (fun s x h => ?_) _ ?_
  · split
    · exact h
    · split <;> exact h.unitRead _ _ _ _ _
  · exact h

theorem Canonical.writeAll (h : Canonical s) (id : Nat) (c : Cmd) (n : Nat) (xs : List (Nat × Int × List Nat)) :
    Canonical (writeAll s id c n xs).1.1 := by
  induction xs generalizing s n with
  | nil => exact h
  | cons x xs ih =>
    unfold Machine.writeAll
    dsimp only
    split
    · exact ih (h.unitWrite _ _ _ _ _) _
    · exact h.unitWrite _ _ _ _ _

theorem Canonical.quantStep (h : Canonical s) (id : Nat) (c : Cmd) (src row col : Desc) : Canonical (quantStep s id c src row col).1.1 := by
  unfold Machine.quantStep
  dsimp only
  split
  · dsimp only
    split
    · exact h
    · exact h.readTile _ _ _ _ _
  · dsimp only
    refine Canonical.writeAll ?_ _ _ _ _
    split
    · exact h
    · exact h.readTile _ _ _ _ _

/-- Counting a step of a copy leaves the state that its accesses left. -/
theorem stepped_state (c : Cmd) (r : State × Eng) : (stepped c r).1 = r := by
  unfold stepped
  split <;> rfl

theorem Canonical.copyStep (h : Canonical s) (id : Nat) (c : Cmd) : Canonical (copyStep s id c).1.1 := by
  unfold Machine.copyStep
  dsimp only
  split
  · rw [stepped_state]
    exact h.moveUnit _ _ _ _ _ _
  · split
    · rw [stepped_state]
      exact h
    · rw [stepped_state]
      exact h.moveUnit _ _ _ _ _ _
  · split
    · rw [stepped_state]
      exact h
    · rw [stepped_state]
      exact h.moveUnit _ _ _ _ _ _
  · exact h.quantStep _ _ _ _ _
  · split
    · rw [stepped_state]
      exact (h.readWhole _ _ _ _).writeWhole _ _ _ _ _
    · exact h.readWhole _ _ _ _
  · split
    · split
      · rw [stepped_state]
        exact (h.unitRead _ _ _ _ _).writeWhole _ _ _ _ _
      · exact h.unitRead _ _ _ _ _
    · exact h.unitRead _ _ _ _ _
  · exact h

theorem Canonical.dropUnits (h : Canonical s) (id : Nat) : Canonical (dropUnits s id) := h.of_eq rfl rfl

theorem Canonical.runCopy (h : Canonical s) (n k : Nat) (cmd : Cmd) : Canonical (runCopy n s k cmd).1 := by
  induction n generalizing s cmd with
  | zero => exact h
  | succ n ih =>
    unfold Machine.runCopy
    split
    · exact h
    · dsimp only
      split
      · split
        · exact (h.copyStep _ _).dropUnits _
        · exact ih ((h.copyStep _ _).dropUnits _) _
      · exact h.copyStep _ _
      · exact h.copyStep _ _

theorem Canonical.storeCmd (h : Canonical s) (id : Nat) (c : Cmd) : Canonical (storeCmd s id c) := h.of_eq rfl rfl

theorem Canonical.execCopyComplete (h : Canonical s) : CanonicalOut (execCopyComplete s) := by
  unfold Machine.execCopyComplete
  split
  · split
    · exact h
    · split
      · exact h
      · split
        · exact h.finishCmd _ _
        · dsimp only
          split
          · exact ((h.runCopy _ _ _).storeCmd _ _).finishCmd _ _
          · exact (h.runCopy _ _ _).storeCmd _ _
  · exact h

/-! The matrix engine, its jobs and its crews. -/

theorem Canonical.pastCommand (h : Canonical s) (p : Nat) (q : Path) (i : Instr) (id : Nat) (accepted : Bool) :
    Canonical (pastCommand s p q i id accepted) := by
  unfold Machine.pastCommand
  dsimp only
  split
  · exact h.advance _ _ _
  · exact (h.advance _ _ _).modPath _ _

theorem Canonical.engineIssue (h : Canonical s) (p : Nat) (q : Path) (i : Instr) (body : CmdBody) (bar : Option Nat) :
    Canonical (engineIssue s p q i body bar) := by
  unfold Machine.engineIssue
  dsimp only
  split
  · rename_i ht
    exact (h.issueCmd ht).pastCommand _ _ _ _ _
  · exact h.trapAll _ _ _ _ _ _

theorem Canonical.fillLatches (h : Canonical s) (b : CmdBody) : Canonical (fillLatches s b) := by
  unfold Machine.fillLatches
  split
  · refine Canonical.foldl (fun s x h => ?_) _ h
    split
    · exact h.modGang _ _
    · exact h
  · exact h

theorem Canonical.spendLatches (h : Canonical s) (b : CmdBody) : Canonical (spendLatches s b) := by
  unfold Machine.spendLatches
  split
  · refine Canonical.foldl (fun s x h => ?_) _ h
    split
    · exact h.modGang _ _
    · exact h
  · exact h

theorem Canonical.execReservationAccept (h : Canonical s) : CanonicalOut (execReservationAccept s) := by
  unfold Machine.execReservationAccept
  split
  · split
    · exact h
    · split
      · exact h
      · extract_lets f
        have hf : Canonical f.2 := by
          unfold f
          split
          · exact h
          · exact h.freshId
        exact (hf.spendLatches _).of_eq rfl rfl
  · exact h

theorem Canonical.crewStart (h : Canonical s) (p : Nat) (q : Path) (i : Instr) (g f : Nat) (mjob scales : Bool)
    (agrees : FormatBlock → Bool) (rest : State → List Nat → FormatBlock → State)
    (hrest : ∀ s x1 x2, Canonical s → Canonical (rest s x1 x2)) : Canonical (crewStart s p q i g f mjob scales agrees rest) := by
  unfold Machine.crewStart
  dsimp only
  split
  · exact h.trapAll _ _ _ _ _ _
  · split
    · exact h.structRead _ _ _ _ _
    · split
      · exact hrest _ _ _ (h.structRead _ _ _ _ _)
      · exact (h.structRead _ _ _ _ _).trapAll _ _ _ _ _ _

theorem Canonical.oneDesc (h : Canonical s) (p : Nat) (q : Path) (i : Instr) (hd detail : Nat) (own : Desc → Bool)
    (rest : State → Desc → State) (hrest : ∀ s x1, Canonical s → Canonical (rest s x1)) :
    Canonical (oneDesc s p q i hd detail own rest) := by
  unfold Machine.oneDesc
  dsimp only
  split
  · exact h.readDescs _ _ _ _
  · split
    · split
      · exact hrest _ _ (h.readDescs _ _ _ _)
      · exact (h.readDescs _ _ _ _).trapAll _ _ _ _ _ _
    · exact h.readDescs _ _ _ _

theorem Canonical.formCrew {t : State} {q : Path} {ms : List LatchMember} (h : Canonical s) (ht : formCrew s q ms = some t) :
    Canonical t := by
  unfold Machine.formCrew at ht
  split at ht
  · cases ht
  · dsimp only at ht
    split at ht
    · cases ht
    · rename_i hi
      have hf := (h.issueFor hi).fillLatches (crewBody s ms)
      cases ht
      refine Canonical.foldl (fun s x h => ?_) _ ?_
      · split
        · exact h.pastCommand _ _ _ _ _
        · exact h
      · split
        · exact hf.spendLatches _
        · exact hf

theorem Canonical.formFull (h : Canonical s) (wid : Nat) : Canonical (formFull s wid) := by
  unfold Machine.formFull
  split
  · exact h
  · split
    · split
      · exact h
      · split
        · rename_i ht
          exact (h.modWg _ _).formCrew ht
        · exact h.emptyLatch _ _ _
    · exact h

theorem Canonical.execCrewForm (h : Canonical s) : CanonicalOut (execCrewForm s) := by
  unfold Machine.execCrewForm
  split
  · split
    · exact h.formFull _
    · exact h
  · exact h

theorem Canonical.joinLatch (h : Canonical s) (p : Nat) (q : Path) (m : LatchMember) : Canonical (joinLatch s p q m) :=
  ((h.modWg _ _).waitAt _ _ _ _).formFull _

theorem Canonical.arrive (h : Canonical s) (p : Nat) (q : Path) (m : LatchMember) : Canonical (arrive s p q m) := by
  unfold Machine.arrive
  split
  · dsimp only
    split
    · split
      · rename_i ht
        exact h.formCrew ht
      · exact h.trapAll _ _ _ _ _ _
    · split
      · exact h.trapAll _ _ _ _ _ _
      · split
        · split
          · split
            · exact (h.emptyLatch _ _ _).trapAll _ _ _ _ _ _
            · exact h.emptyLatch _ _ _
          · exact h.joinLatch _ _ _
        · exact h.joinLatch _ _ _
  · exact h

theorem Canonical.execMma (h : Canonical s) (v g sr ru wd hd f t : Nat) : CanonicalOut (execMma v g sr ru wd hd f t s) := by
  unfold Machine.execMma
  refine canonicalOut_onPath fun p q => ?_
  dsimp only
  refine h.crewStart _ _ _ _ _ _ _ _ _ (fun s bytes fb h => ?_)
  split
  · exact h.trapAll _ _ _ _ _ _
  · refine h.oneDesc _ _ _ _ _ _ _ (fun s d h => ?_)
    split
    · exact h.trapAll _ _ _ _ _ _
    · split
      · exact h.trapAll _ _ _ _ _ _
      · exact h.arrive _ _ _

theorem Canonical.execMjob (h : Canonical s) (v g x b f : Nat) : CanonicalOut (execMjob v g x b f s) := by
  unfold Machine.execMjob
  refine canonicalOut_onPath fun p q => ?_
  dsimp only
  refine h.crewStart _ _ _ _ _ _ _ _ _ (fun s bytes fb h => ?_)
  split
  · exact h.structRead _ _ _ _ _
  · split
    · exact (h.structRead _ _ _ _ _).trapAll _ _ _ _ _ _
    · refine (h.structRead _ _ _ _ _).oneDesc _ _ _ _ _ _ _ (fun s da h => ?_)
      refine h.oneDesc _ _ _ _ _ _ _ (fun s db h => ?_)
      split
      · exact h.trapAll _ _ _ _ _ _
      · split
        · exact h.trapAll _ _ _ _ _ _
        · split
          · exact h.trapAll _ _ _ _ _ _
          · exact h.arrive _ _ _

theorem Canonical.execDrain (h : Canonical s) (v g x b e z m f hd : Nat) : CanonicalOut (execDrain v g x b e z m f hd s) := by
  unfold Machine.execDrain
  refine canonicalOut_onPath fun p q => ?_
  dsimp only
  refine h.oneDesc _ _ _ _ _ _ _ (fun s d h => ?_)
  split
  · exact h.trapAll _ _ _ _ _ _
  · split
    · exact h.trapAll _ _ _ _ _ _
    · split
      · exact h.trapAll _ _ _ _ _ _
      · exact h.engineIssue _ _ _ _ _

theorem Canonical.elemRead (h : Canonical s) (id : Nat) (c : Cmd) (d : Desc) (i0 i1 : Nat) : Canonical (elemRead s id c d i0 i1).1 := by
  unfold Machine.elemRead
  dsimp only
  split <;> exact h.unitRead _ _ _ _ _

theorem Canonical.readEach (h : Canonical s) (n : Nat) (f : State → Nat → State × Except Eng Nat)
    (hf : ∀ s x1, Canonical s → Canonical (f s x1).1) : Canonical (readEach s n f).1 := by
  unfold Machine.readEach
  dsimp only
  refine Canonical.foldl_fst (fun s x h => ?_) _ ?_
  · split
    · exact h
    · split <;> exact hf _ _ h
  · exact h

theorem Canonical.byteRead (h : Canonical s) (id : Nat) (c : Cmd) (va : Nat) : Canonical (byteRead s id c va).1 := by
  unfold Machine.byteRead
  dsimp only
  split <;> exact h.engRead _ _ _ _ _

theorem Canonical.readWindow (h : Canonical s) (id : Nat) (c : Cmd) (fb : FormatBlock) (d : Desc) (k0 r0 : Nat) :
    Canonical (readWindow s id c fb d k0 r0).1 := by
  unfold Machine.readWindow
  extract_lets e nb w t
  have he : Canonical e.1 := h.readEach _ _ fun _ _ h => h.elemRead _ _ _ _ _
  have ht : Canonical t.1 := he.readEach _ _ fun _ _ h => h.byteRead _ _ _
  clear_value e t
  split
  · exact he
  · split
    · exact he
    · split <;> exact ht

theorem Canonical.memberWindow (h : Canonical s) (id : Nat) (c : Cmd) (fb : FormatBlock) (m : Member) :
    Canonical (memberWindow s id c fb m).1 := by
  unfold Machine.memberWindow
  dsimp only
  split
  · exact h
  · split
    · exact h
    · split <;> exact h.readEach _ _ (fun _ _ h => h.byteRead _ _ _)

theorem Canonical.runPass (h : Canonical s) (c : Cmd) (t : Nat) (fb : FormatBlock) (rows : List Nat) (a b : Window) :
    Canonical (runPass s c t fb rows a b).1 := by
  unfold Machine.runPass
  split
  · exact h
  · split
    · exact h
    · exact h.addPass _ _ _ _ _ _

theorem Canonical.fetchB (h : Canonical s) (id : Nat) (c : Cmd) (fb : FormatBlock) (d : Desc) (k0 n0 : Nat) :
    Canonical (fetchB s id c fb d k0 n0).1 := by
  unfold Machine.fetchB
  split
  · exact h
  · exact h.readWindow _ _ _ _ _ _

theorem Canonical.grantMma (h : Canonical s) (id : Nat) (c : Cmd) (fb : FormatBlock) (d : Desc) (ms : List Member) :
    Canonical (grantMma s id c fb d ms).1 := by
  unfold Machine.grantMma
  split
  · exact h
  · dsimp only
    split
    · exact h.fetchB _ _ _ _ _ _
    · split
      · exact (h.fetchB _ _ _ _ _ _).memberWindow _ _ _ _
      · split
        · exact ((h.fetchB _ _ _ _ _ _).memberWindow _ _ _ _).runPass _ _ _ _ _ _
        · exact (((h.fetchB _ _ _ _ _ _).memberWindow _ _ _ _).runPass _ _ _ _ _ _).dropUnits _

theorem Canonical.grantJobPass (h : Canonical s) (id : Nat) (c : Cmd) (fb : FormatBlock) (a b : Desc) (x : PassPlan) (more : Bool) :
    Canonical (grantJobPass s id c fb a b x more).1 := by
  unfold Machine.grantJobPass
  extract_lets rb
  have hb : Canonical rb.1 := h.fetchB _ _ _ _ _ _
  clear_value rb
  split
  · exact hb
  · extract_lets c' ra
    have ha : Canonical ra.1 := hb.readWindow _ _ _ _ _ _
    clear_value ra
    split
    · exact ha
    · extract_lets r
      have hr : Canonical r.1 := ha.runPass _ _ _ _ _ _
      clear_value r
      split
      · exact hr
      · exact hr.dropUnits _

theorem Canonical.grantJob (h : Canonical s) (id : Nat) (c : Cmd) (fb : FormatBlock) (card : JobCard) (a b : Desc) (k : Nat) :
    Canonical (grantJob s id c fb card a b k).1 := by
  unfold Machine.grantJob
  dsimp only
  refine Canonical.grantJobPass ?_ _ _ _ _ _ _ _
  split
  · exact Canonical.foldl (fun _ _ h => h.zeroTile _ _ _ _) _ h
  · exact h

theorem Canonical.drainStep (h : Canonical s) (id : Nat) (c : Cmd) (t org : Nat) (d : Desc) (fmt mode j : Nat) :
    Canonical (drainStep s id c t org d fmt mode j).1.1 := by
  unfold Machine.drainStep
  extract_lets per r k x row col code kb va bad e st f v addr
  clear_value per k bad
  split
  · exact h.engWrite _ _ _ _ _
  · split
    · exact h
    · exact h.unitWrite _ _ _ _ _

theorem Canonical.runDrain (h : Canonical s) (t org : Nat) (d : Desc) (fmt mode : Nat) (zero werr : Bool) (n id : Nat) (cmd : Cmd) :
    Canonical (runDrain t org d fmt mode zero werr n s id cmd).1 := by
  induction n generalizing s cmd with
  | zero =>
    unfold Machine.runDrain
    dsimp only
    split
    · exact h.zeroTile _ _ _ _
    · exact h.setTile _ _ _
  | succ n ih =>
    unfold Machine.runDrain
    dsimp only
    split
    · exact ih (h.drainStep _ _ _ _ _ _ _ _) _
    · exact h.drainStep _ _ _ _ _ _ _ _

/-! Chains of the tensor train. -/

theorem Canonical.execBdset (h : Canonical s) (g n : Nat) : CanonicalOut (execBdset g n s) := by
  unfold Machine.execBdset
  refine canonicalOut_onPath fun p q => ?_
  dsimp only
  split
  · exact h.trapAll _ _ _ _ _ _
  · exact (h.modWg _ _).advance _ _ _

theorem Canonical.execMdset (h : Canonical s) (g n : Nat) : CanonicalOut (execMdset g n s) := by
  unfold Machine.execMdset
  refine canonicalOut_onPath fun p q => ?_
  dsimp only
  split
  · exact h.trapAll _ _ _ _ _ _
  · exact (h.modWg _ _).advance _ _ _

theorem Canonical.chainIssue (h : Canonical s) (p : Nat) (q : Path) (i : Instr) (v g : Nat) (bar : Option Nat)
    (program : List Nat → List (Nat × Nat)) : Canonical (chainIssue s p q i v g bar program) := by
  have hr := h.structRead p q i (getG s q g) 256
  unfold Machine.chainIssue
  dsimp only
  split
  · exact hr
  · split
    · exact hr.trapAll _ _ _ _ _ _
    · split
      · exact hr.trapAll _ _ _ _ _ _
      · split
        · exact hr.trapAll _ _ _ _ _ _
        · split
          · exact hr.trapAll _ _ _ _ _ _
          · rename_i ht
            exact ((hr.issueCmd ht).setG _ _ _).pastCommand _ _ _ _ _

theorem Canonical.chainElem (h : Canonical s) (id : Nat) (cmd : Cmd) (c : Chain) (x : ChainStep) (y : Nat) :
    Canonical (chainElem s id cmd c x y).1.1 := by
  unfold Machine.chainElem
  extract_lets nb nw r
  have hr : Canonical r.1.1 := by
    refine List.foldlRecOn (motive := fun a : (State × Option Eng) × ChainSum => Canonical a.1.1) _ _ h fun a ha t _ => ?_
    split
    · exact ha
    · dsimp only
      split
      · split
        · exact (ha.unitRead _ _ _ _ _).unitRead _ _ _ _ _
        · exact (ha.unitRead _ _ _ _ _).unitRead _ _ _ _ _
      · exact ha.unitRead _ _ _ _ _
  split
  · exact hr
  · exact hr.scratchWrite _ _ _

theorem Canonical.runChainPass (h : Canonical s) (c : Chain) (x : ChainStep) (n id : Nat) (cmd : Cmd) :
    Canonical (runChainPass c x n s id cmd).1 := by
  induction n generalizing s cmd with
  | zero =>
    unfold Machine.runChainPass
    split <;> exact h
  | succ n ih =>
    unfold Machine.runChainPass
    dsimp only
    split
    · exact ih ((h.chainElem _ _ _ _ _).dropUnits _) _
    · exact h.chainElem _ _ _ _ _
    · exact h.chainElem _ _ _ _ _

theorem Canonical.grantChain (h : Canonical s) (id : Nat) (cmd : Cmd) (c : Chain) (steps : List ChainStep) :
    Canonical (grantChain s id cmd c steps).1 := by
  unfold Machine.grantChain
  split
  · exact h
  · dsimp only
    split
    · exact (h.runChainPass _ _ _ _ _).scratchWrite _ _ _
    · exact h.runChainPass _ _ _ _ _

/-! Control transfer and traps. -/

theorem Canonical.forkPath (h : Canonical s) (q : Path) (lanes slot1 : Nat) (pos : Position) :
    Canonical (forkPath s q lanes slot1 pos) := h.of_eq rfl rfl

theorem Canonical.splitPath (h : Canonical s) (p : Nat) (q : Path) (i : Instr) (taken tgt : Nat) :
    Canonical (splitPath s p q i taken tgt) := by
  unfold Machine.splitPath
  dsimp only
  split
  · exact h.advance _ _ _
  · split
    · exact h.jump _ _ _
    · split
      · exact h
      · split
        · exact h.trapAll _ _ _ _ _ _
        · split
          · exact (h.modGang _ _).jump _ _ _
          · exact ((h.modGang _ _).forkPath _ _ _ _).advance _ _ _

theorem Canonical.transfer (h : Canonical s) (p : Nat) (q : Path) (i : Instr) (tgt : Nat) : Canonical (transfer s p q i tgt) := by
  unfold Machine.transfer
  split
  · exact h.jump _ _ _
  · exact h.splitPath _ _ _ _ _

theorem Canonical.execUbrc (h : Canonical s) (g c o : Nat) : CanonicalOut (execUbrc g c o s) := by
  unfold Machine.execUbrc
  refine canonicalOut_onPath fun p q => ?_
  split
  · exact h.transfer _ _ _ _
  · exact h.advance _ _ _

theorem Canonical.execCall (h : Canonical s) (o : Nat) : CanonicalOut (execCall o s) := by
  unfold Machine.execCall
  refine canonicalOut_onPath fun p q => ?_
  split
  · exact h.trapAll _ _ _ _ _ _
  · exact (h.setG _ _ _).transfer _ _ _ _

theorem Canonical.execJmp (h : Canonical s) (g : Nat) : CanonicalOut (execJmp g s) := by
  unfold Machine.execJmp
  refine canonicalOut_onPath fun p q => ?_
  split
  · exact h.trapAll _ _ _ _ _ _
  · exact h.transfer _ _ _ _

theorem Canonical.execJset (h : Canonical s) (o : Nat) : CanonicalOut (execJset o s) := by
  unfold Machine.execJset
  refine canonicalOut_onPath fun p q => ?_
  split
  · exact h
  · dsimp only
    split
    · exact h.trapAll _ _ _ _ _ _
    · exact (h.modGang _ _).advance _ _ _

theorem Canonical.waitLanes (h : Canonical s) (p : Nat) (q : Path) (stack pops : List StackEntry) (w : WaitIssue) :
    Canonical (waitLanes s p q stack pops w) := by
  unfold Machine.waitLanes
  extract_lets s1 rest s2 s3
  have h1 : Canonical s1 := h.modGang _ _
  have h2 : Canonical s2 := by
    unfold s2
    split
    · exact h1.of_eq rfl rfl
    · exact h1.advance _ _ _
  have h3 : Canonical s3 := h2.resumeLanes _ _
  split
  · split
    · exact h3.breakDeadlock _ _
    · exact h3
  · exact h3

theorem Canonical.execJoin (h : Canonical s) : CanonicalOut (execJoin s) := by
  unfold Machine.execJoin
  refine canonicalOut_onPath fun p q => ?_
  split
  · exact h
  · dsimp only
    split
    · exact h.trapAll _ _ _ _ _ _
    · exact h.waitLanes _ _ _ _ _

theorem Canonical.execRegang (h : Canonical s) : CanonicalOut (execRegang s) := by
  unfold Machine.execRegang
  refine canonicalOut_onPath fun p q => ?_
  split
  · exact h
  · exact h.waitLanes _ _ _ _ _

theorem Canonical.execTagComplete (h : Canonical s) : CanonicalOut (execTagComplete s) := by
  unfold Machine.execTagComplete
  split
  · split
    · exact h
    · split
      · exact h
      · dsimp only
        split
        · refine Canonical.newPath ?_ _ _ _ _ _ _
          exact h.of_eq rfl rfl
        · exact h
  · exact h

theorem Canonical.execRegangComplete (h : Canonical s) : CanonicalOut (execRegangComplete s) := by
  unfold Machine.execRegangComplete
  split
  · split
    · exact h
    · split
      · exact h
      · split
        · exact h
        · dsimp only
          refine Canonical.newPath ?_ _ _ _ _ _ _
          exact h.of_eq rfl rfl
  · exact h

theorem Canonical.deliverPending (h : Canonical s) (gid lanes : Nat) : Canonical (deliverPending s gid lanes) :=
  Canonical.foldl (fun _ _ h => h.deliverNext _) _ h

theorem Canonical.execExit (h : Canonical s) : CanonicalOut (execExit s) := by
  unfold Machine.execExit
  refine canonicalOut_onPath fun p q => ?_
  dsimp only
  split
  · exact ((h.advance _ _ _).endLanes _ _).deliverPending _ _
  · exact (h.advance _ _ _).endLanes _ _

theorem Canonical.execReorder (h : Canonical s) (a b n o : Nat) : CanonicalOut (execReorder a b n o s) := by
  unfold Machine.execReorder
  refine canonicalOut_onPath fun p q => ?_
  dsimp only
  split
  · exact h
  · split
    · exact h.trapAll _ _ _ _ _ _
    · split
      · exact h.trapAll _ _ _ _ _ _
      · split
        · exact (((h.modWg _ _).advance _ _ _).endLanes _ _).deliverPending _ _
        · exact ((h.modWg _ _).advance _ _ _).endLanes _ _

/-! Network steps: signatures, skips and their tiles. -/

theorem Canonical.modStep (h : Canonical s) (wg : Nat) (f : StepState → StepState) : Canonical (modStep s wg f) := h.of_eq rfl rfl

theorem Canonical.grantBegin (h : Canonical s) (id : Nat) (c : Cmd) (st : StepState) (addr : Nat) :
    Canonical (grantBegin s id c st addr).1 := by
  unfold Machine.grantBegin
  split
  · exact h
  · dsimp only
    split
    · split
      · exact (h.engRead _ _ _ _ _).modStep _ _
      · exact h.engRead _ _ _ _ _
    · exact h.engRead _ _ _ _ _

theorem Canonical.grantEnd (h : Canonical s) (id : Nat) (c : Cmd) (st : StepState) : Canonical (grantEnd s id c st).1 := by
  unfold Machine.grantEnd
  extract_lets r
  have hr : Canonical r.1 := h.engWrite _ _ _ _ _
  clear_value r
  split
  · exact h
  · split
    · exact hr.modStep _ _
    · exact hr

theorem Canonical.execSkiprd (h : Canonical s) (d g : Nat) : CanonicalOut (execSkiprd d g s) := by
  unfold Machine.execSkiprd
  refine canonicalOut_onPath fun p q => ?_
  dsimp only
  split
  · exact h.trapAll _ _ _ _ _ _
  · exact h.inTileOrder _ _ _ _ (fun _ _ h => (h.setG _ _ _).advance _ _ _)

theorem Canonical.execSkipwr (h : Canonical s) (v g : Nat) : CanonicalOut (execSkipwr v g s) := by
  unfold Machine.execSkipwr
  refine canonicalOut_onPath fun p q => ?_
  dsimp only
  split
  · exact h.trapAll _ _ _ _ _ _
  · exact h.inTileOrder _ _ _ _ (fun _ _ h => (h.modStep _ _).advance _ _ _)

/-- The equation lemmas of `signTiles` are past the recursion limit, so the induction is on its recursor. -/
theorem Canonical.signTiles (h : Canonical s) (id : Nat) (c : Cmd) (fb : FormatBlock) (a : Desc) (blk : StepBlock) (tau : Nat) (pr : Bool)
    (ts : List (Nat × Nat)) : Canonical (signTiles s id c fb a blk tau pr ts).1 := by
  delta Machine.signTiles Machine.signTiles._f List.brecOn List.brecOn.go
  induction ts generalizing s with
  | nil => exact h
  | cons t ts ih =>
    dsimp -zeta only
    extract_lets r old u
    have hr : Canonical r.1 := by
      unfold r
      exact h.readWindow id c fb a (32 * t.2) (32 * t.1)
    have ho : Canonical old.1 := by
      unfold old
      split
      · exact hr.engRead _ _ _ _ _
      · dsimp only
        exact hr
    have hu : Canonical u.1 := ih ho
    clear_value u old r
    split
    · exact hr
    · split
      · split <;> exact hu
      · exact ho

theorem Canonical.loadEntries (h : Canonical s) (id : Nat) (c : Cmd) (blk : StepBlock) (xs : List (Nat × Nat × Nat)) :
    Canonical (loadEntries s id c blk xs).1 := by
  induction xs generalizing s with
  | nil => exact h
  | cons x xs ih =>
    unfold Machine.loadEntries
    dsimp only
    split
    · split <;> exact ih (h.engRead _ _ _ _ _)
    · exact h.engRead _ _ _ _ _

theorem Canonical.loadTile (h : Canonical s) (wg t : Nat) (anchor : Int) (b : List Nat) : Canonical (loadTile s wg t anchor b) := by
  unfold Machine.loadTile
  extract_lets s1 s2 f
  have h1 : Canonical s1 := h.zeroTile _ _ _ _
  have h2 : Canonical s2 := h1.of_eq rfl rfl
  exact h2.setTile _ _ _

theorem Canonical.planStep (h : Canonical s) (id : Nat) (c : Cmd) (st : StepState) (fb : FormatBlock) (card : JobCard) (a : Desc)
    (k : Nat) : Canonical (planStep s id c st fb card a k).1 := by
  unfold Machine.planStep
  extract_lets ps pr failed map outs
  split
  · exact h
  · split
    · exact h
    · split
      · exact h
      · split
        · exact h
        · extract_lets sg
          have hf : ∀ {s : State} (c : Cmd), Canonical s → Canonical (failed s c).1 := by
            intro s c h
            unfold failed
            split
            · exact h.modStep _ _
            · exact h
          have hsg : Canonical sg.1 := h.signTiles _ _ _ _ _ _ _ _
          clear_value sg
          split
          · exact hf _ hsg
          · extract_lets skip skipped ld s1 map'
            have hld : Canonical ld.1 := hsg.loadEntries _ _ _ _
            split
            · exact hf _ hld
            · split
              · exact hf _ hld
              · extract_lets s2 s3
                have h1 : Canonical s1 := by
                  refine Canonical.foldl (fun s x h => ?_) _ hld
                  split
                  · exact h
                  · exact h.zeroTile _ _ _ _
                have h2 : Canonical s2 := Canonical.foldl (fun _ _ h => h.loadTile _ _ _ _) _ h1
                exact h2.modStep _ _

theorem Canonical.storeAct (h : Canonical s) (id : Nat) (c : Cmd) (va : Nat) (bytes : List Nat) :
    Canonical (storeAct s id c va bytes).1 := by
  unfold Machine.storeAct
  dsimp only
  split <;> exact h.engWrite _ _ _ _ _

theorem Canonical.grantStepJob (h : Canonical s) (id : Nat) (c : Cmd) (st : StepState) (fb : FormatBlock) (card : JobCard) (a b : Desc)
    (k : Nat) : Canonical (grantStepJob s id c st fb card a b k).1 := by
  unfold Machine.grantStepJob
  split
  · exact h.planStep _ _ _ _ _ _ _
  · dsimp only
    split
    · exact h
    · exact h.grantJobPass _ _ _ _ _ _ _
    · exact h.storeAct _ _ _ _
    · exact h.storeAct _ _ _ _

theorem Canonical.endStepJob (h : Canonical s) (c : Cmd) : Canonical (endStepJob s c) := by
  unfold Machine.endStepJob
  split
  · split
    · exact h
    · exact h.modStep _ _
  · exact h

/-! A grant to an engine. -/

theorem Canonical.grantPass (h : Canonical s) (id : Nat) (c : Cmd) : Canonical (grantPass s id c).1 := by
  unfold Machine.grantPass
  split
  · exact h.grantMma _ _ _ _ _
  · split
    · exact h.grantStepJob _ _ _ _ _ _ _ _
    · exact h.grantJob _ _ _ _ _ _ _
  · exact h.zeroTile _ _ _ _
  · exact h.runDrain _ _ _ _ _ _ _ _ _ _
  · exact h.grantChain _ _ _ _
  · exact h.grantBegin _ _ _ _
  · exact h.grantEnd _ _ _
  · exact h

theorem Canonical.passOver (h : Canonical s) (id cluster : Nat) : Canonical (passOver s id cluster) := h.of_eq rfl rfl

theorem Canonical.execMatrixPass (h : Canonical s) : CanonicalOut (execMatrixPass s) := by
  unfold Machine.execMatrixPass
  split
  · split
    · exact h
    · split
      · exact h
      · dsimp only
        exact ((h.passOver _ _).grantPass _ _).storeCmd _ _
  · exact h

theorem Canonical.execEngineCommandComplete (h : Canonical s) : CanonicalOut (execEngineCommandComplete s) := by
  unfold Machine.execEngineCommandComplete
  split
  · split
    · exact h
    · split
      · exact h
      · exact (h.endStepJob _).finishCmd _ _
  · exact h

/-! Ray slots, mail and walkers. -/

theorem Canonical.slotSet (h : Canonical s) (q : Path) (j k n x : Nat) : Canonical (slotSet s q j k n x) :=
  h.scratchWrite _ _ _

theorem Canonical.foldLanes (h : Canonical s) (q : Path) (f : State → Nat → State × LaneOut)
    (hf : ∀ s x1, Canonical s → Canonical (f s x1).1) : Canonical (foldLanes s q f).1 := by
  unfold Machine.foldLanes
  dsimp only
  refine Canonical.foldl_fst (fun s x h => ?_) _ ?_
  · exact hf _ _ h
  · exact h

theorem Canonical.modMail (h : Canonical s) (gid : Nat) (f : List MailTag → List MailTag) : Canonical (modMail s gid f) := h.of_eq rfl rfl

theorem Canonical.submitLane (h : Canonical s) (v g t : Nat) (q : Path) (l : Nat) : Canonical (submitLane v g t q s l).1 := by
  unfold Machine.submitLane
  dsimp only
  split
  · exact h
  · split
    · exact h
    · exact ((((((h.slotSet _ _ _ _ _).slotSet _ _ _ _ _).slotSet _ _ _ _ _).slotSet _ _ _ _ _).slotSet _ _ _ _ _).modMail _ _).modWg _ _

theorem Canonical.execRaysub (h : Canonical s) (v g t : Nat) : CanonicalOut (execRaysub v g t s) := by
  unfold Machine.execRaysub
  refine canonicalOut_onPath fun p q => ?_
  dsimp only
  split
  · exact h.trapAll _ _ _ _ _ _
  · split
    · exact h.waitAt _ _ _ _
    · exact (h.foldLanes _ _ (fun _ _ h => h.submitLane _ _ _ _ _)).settleLanes _ _ _ _

theorem Canonical.takeRays (h : Canonical s) (q : Path) (ls js : List Nat) : Canonical (takeRays q ls js s).1 := by
  induction ls generalizing s js with
  | nil => exact h
  | cons l ls ih =>
    cases js with
    | nil => exact h
    | cons j js =>
      unfold Machine.takeRays
      split
      · exact ih h js
      · exact ih (h.slotSet _ _ _ _ _) js

theorem Canonical.execRayget (h : Canonical s) (v g pd : Nat) : CanonicalOut (execRayget v g pd s) := by
  unfold Machine.execRayget
  refine canonicalOut_onPath fun p q => ?_
  split
  · exact h
  · exact h.afterLoads _ _ _ _ (((((((h.takeRays _ _ _).modWg _ _).setVs _ _).setPs _ _ _).setG _ _ _).modGang _ _).settleLanes _ _ _ _)

theorem Canonical.mailLane (h : Canonical s) (v pd : Nat) (q : Path) (l : Nat) : Canonical (mailLane v pd q s l).1 := by
  unfold Machine.mailLane
  split
  · exact h.setPs _ _ _
  · split
    · exact h
    · dsimp only
      exact (((h.setVs _ _).setPs _ _ _).modMail _ _).slotSet _ _ _ _ _

theorem Canonical.takeMail (h : Canonical s) (p : Nat) (q : Path) (i : Instr) (v pd : Nat) : Canonical (takeMail s p q i v pd) :=
  (h.foldLanes _ _ (fun _ _ h => h.mailLane _ _ _ _)).settleLanes _ _ _ _

theorem Canonical.execMbxget (h : Canonical s) (v l pd : Nat) : CanonicalOut (execMbxget v l pd s) := by
  unfold Machine.execMbxget
  refine canonicalOut_onPath fun p q => ?_
  split
  · exact h
  · dsimp only
    refine h.afterLoads _ _ _ _ ?_
    split
    · exact h.takeMail _ _ _ _ _
    · split
      · exact (h.waitAt _ _ _ _).mailFault _
      · exact h.waitAt _ _ _ _

theorem Canonical.execMbxgetResume (h : Canonical s) : CanonicalOut (execMbxgetResume s) := by
  unfold Machine.execMbxgetResume
  split
  · split
    · exact h
    · split
      · split
        · exact h.takeMail _ _ _ _ _
        · exact h
      · exact h
  · exact h

theorem Canonical.execWalkerGangStart (h : Canonical s) : CanonicalOut (execWalkerGangStart s) := by
  unfold Machine.execWalkerGangStart
  split
  · split
    · exact h
    · split
      · exact h
      · split
        · exact h.startGang _
        · exact h
  · exact h

theorem Canonical.setLaneStack (h : Canonical s) (gid l : Nat) (x : Nat × List Nat) : Canonical (setLaneStack s gid l x) := h.of_eq rfl rfl

theorem Canonical.spillSet (h : Canonical s) (q : Path) (g l i x : Nat) : Canonical (spillSet s q g l i x) :=
  h.scratchWrite _ _ _

theorem Canonical.spillForm (h : Canonical s) (i : Instr) (g : Nat) (f : Path → State → Nat → State × LaneOut)
    (hf : ∀ x0 s x2, Canonical s → Canonical (f x0 s x2).1) : CanonicalOut (spillForm s i g f) := by
  unfold Machine.spillForm
  refine canonicalOut_onPath fun p q => ?_
  split
  · exact h.trapAll _ _ _ _ _ _
  · exact (h.foldLanes _ _ (fun _ _ h => hf _ _ _ h)).settleLanes _ _ _ _

theorem Canonical.pushLane (h : Canonical s) (v g : Nat) (q : Path) (l : Nat) : Canonical (pushLane v g q s l).1 := by
  unfold Machine.pushLane
  dsimp only
  split
  · exact h
  · split
    · exact h.setLaneStack _ _ _
    · split
      · exact h
      · exact (h.spillSet _ _ _ _ _).setLaneStack _ _ _

theorem Canonical.execRpush (h : Canonical s) (v g : Nat) : CanonicalOut (execRpush v g s) :=
  h.spillForm _ _ _ (fun _ _ _ h => h.pushLane _ _ _ _)

theorem Canonical.popLane (h : Canonical s) (v g pd : Nat) (q : Path) (l : Nat) : Canonical (popLane v g pd q s l).1 := by
  unfold Machine.popLane
  dsimp only
  split
  · exact h.setPs _ _ _
  · split
    · exact ((h.setVs _ _).setPs _ _ _).setLaneStack _ _ _
    · split
      · exact h
      · exact ((h.setVs _ _).setPs _ _ _).setLaneStack _ _ _

theorem Canonical.execRpop (h : Canonical s) (v g pd : Nat) : CanonicalOut (execRpop v g pd s) :=
  h.spillForm _ _ _ (fun _ _ _ h => h.popLane _ _ _ _ _)

theorem Canonical.saveLane (h : Canonical s) (v g : Nat) (q : Path) (l : Nat) : Canonical (saveLane v g q s l).1 := by
  unfold Machine.saveLane
  dsimp only
  split
  · exact h
  · split
    · exact h
    · split
      · exact h
      · dsimp only
        refine Canonical.setLaneStack ?_ _ _ _
        refine Canonical.slotSet ?_ _ _ _ _ _
        refine Canonical.slotSet ?_ _ _ _ _ _
        refine Canonical.slotSet ?_ _ _ _ _ _
        exact Canonical.foldl (fun _ _ h => h.slotSet _ _ _ _ _) _ h

theorem Canonical.execRsave (h : Canonical s) (v g : Nat) : CanonicalOut (execRsave v g s) :=
  h.spillForm _ _ _ (fun _ _ _ h => h.saveLane _ _ _ _)

theorem Canonical.loadWalk (h : Canonical s) (v g : Nat) (q : Path) (l : Nat) : Canonical (loadWalk v g q s l).1 := by
  unfold Machine.loadWalk
  dsimp only
  split
  · exact h
  · split
    · exact h
    · split
      · exact h
      · exact h
      · dsimp only
        refine Canonical.setLaneStack ?_ _ _ _
        refine Canonical.slotSet ?_ _ _ _ _ _
        refine Canonical.setVs ?_ _ _
        exact Canonical.foldl (fun _ _ h => h.spillSet _ _ _ _ _) _ h

theorem Canonical.execRload (h : Canonical s) (v g : Nat) : CanonicalOut (execRload v g s) :=
  h.spillForm _ _ _ (fun _ _ _ h => h.loadWalk _ _ _ _)

theorem Canonical.commitLane (h : Canonical s) (v hd : Nat) (q : Path) (l : Nat) : Canonical (commitLane v hd q s l).1 := by
  unfold Machine.commitLane
  dsimp only
  split
  · exact h
  · split
    · exact (h.slotSet _ _ _ _ _).slotSet _ _ _ _ _
    · exact h

theorem Canonical.doneLane (h : Canonical s) (v : Nat) (q : Path) (l : Nat) : Canonical (doneLane v q s l).1 := by
  unfold Machine.doneLane
  dsimp only
  split
  · exact h
  · split
    · exact h.slotSet _ _ _ _ _
    · exact (h.slotSet _ _ _ _ _).modMail _ _

theorem Canonical.execRdone (h : Canonical s) (v : Nat) : CanonicalOut (execRdone v s) := by
  unfold Machine.execRdone
  refine canonicalOut_onPath fun p q => ?_
  split
  · exact h.waitAt _ _ _ _
  · exact (h.foldLanes _ _ (fun _ _ h => h.doneLane _ _ _)).settleLanes _ _ _ _

/-! Node tests and publications. -/

theorem Canonical.nodeRead (h : Canonical s) (w : Who) (core pa : Nat) : Canonical (nodeRead s w core pa).1 := by
  unfold Machine.nodeRead
  split
  · exact h.of_eq rfl rfl
  · dsimp only
    split
    · exact (h.homeRead _ _ _).of_eq rfl rfl
    · exact h.homeRead _ _ _

theorem Canonical.testLane (h : Canonical s) (i : Instr) (v : Nat) (q : Path) (l pa leaf : Nat) :
    Canonical (testLane i v q s l pa leaf).1 := by
  unfold Machine.testLane
  dsimp only
  split
  · exact h
  · exact h.nodeRead _ _ _

theorem Canonical.nodeCheck (h : Canonical s) (i : Instr) (v : Nat) (q : Path) (l : Nat) : Canonical (nodeCheck i v q s l).1 := by
  unfold Machine.nodeCheck
  dsimp only
  exact h.laneCheckBy _ _ _ _ _ _ _

theorem Canonical.askPeerLines (h : Canonical s) (v p : Nat) (q : Path) (x : Nat × Nat × Nat) : Canonical (askPeerLines v p q s x) :=
  Canonical.foldl (fun _ _ h => h.askPeerLine _ _ _ _ _ _) _ h

theorem Canonical.nodeTest (h : Canonical s) (i : Instr) (v la : Nat) : CanonicalOut (nodeTest i v la s) := by
  unfold Machine.nodeTest
  refine canonicalOut_onPath fun p q => ?_
  dsimp only
  split
  · refine Canonical.waitAt ?_ _ _ _ _
    exact Canonical.foldl (fun _ _ h => h.askPeerLines _ _ _ _) _ (h.foldLanes _ _ (fun _ _ h => h.nodeCheck _ _ _ _))
  · refine Canonical.settleLanes ?_ _ _ _ _
    split
    · refine Canonical.foldl_fst (fun s x h => ?_) _ ?_
      · exact h.testLane _ _ _ _ _ _
      · exact h.foldLanes _ _ (fun _ _ h => h.nodeCheck _ _ _ _)
    · refine Canonical.putOp ?_ _ _
      refine Canonical.freshId ?_
      refine Canonical.foldl_fst (fun s x h => ?_) _ ?_
      · exact h.testLane _ _ _ _ _ _
      · exact h.foldLanes _ _ (fun _ _ h => h.nodeCheck _ _ _ _)

theorem Canonical.execNodeld (h : Canonical s) (v l k : Nat) : CanonicalOut (execNodeld v l k s) :=
  h.nodeTest _ _ _

theorem Canonical.execBoxt (h : Canonical s) (v l : Nat) : CanonicalOut (execBoxt v l s) :=
  h.nodeTest _ _ _

theorem Canonical.execTrit (h : Canonical s) (v l : Nat) : CanonicalOut (execTrit v l s) :=
  h.nodeTest _ _ _

theorem Canonical.execRayTestResult (h : Canonical s) : CanonicalOut (execRayTestResult s) := by
  unfold Machine.execRayTestResult
  split
  · split
    · split
      · exact h.of_eq rfl rfl
      · exact h
    · exact h
  · exact h

theorem Canonical.execNodepub (h : Canonical s) (v g : Nat) : CanonicalOut (execNodepub v g s) := by
  unfold Machine.execNodepub
  refine canonicalOut_onPath fun p q => ?_
  dsimp only
  split
  · exact (h.checkLanes _ _ _ (fun _ _ h => h.laneCheckBy _ _ _ _ _ _ _)).waitAt _ _ _ _
  · exact (h.checkLanes _ _ _ (fun _ _ h => h.laneCheckBy _ _ _ _ _ _ _)).settleWhole _ _ _ _ _ (fun _ h =>
    (h.releaseCore _ _).of_eq rfl rfl)

theorem Canonical.publishStep (h : Canonical s) (k : Nat) : Canonical (publishStep s k) := by
  unfold Machine.publishStep
  split
  · exact h
  · split
    · split
      · exact h
      · exact ((h.homeRead _ _ _).homeWrite _ _ _).of_eq rfl rfl
    · exact ((h.homeWrite _ _ _).homeWrite _ _ _).of_eq rfl rfl

/-! Page service, address services and peers. -/

theorem Canonical.modService (h : Canonical s) (i : Nat) (f : ServiceReq → ServiceReq) : Canonical (modService s i f) := h.of_eq rfl rfl

theorem Canonical.serveArmed (h : Canonical s) (c page : Nat) : Canonical (serveArmed s c page).1 := by
  unfold Machine.serveArmed
  dsimp only
  split
  · exact h.walk _ _
  · exact h.walk _ _
  · exact h.walk _ _
  · split
    · exact (h.walk _ _).homeWrite _ _ _
    · exact h.walk _ _

theorem Canonical.execServiceRequest (h : Canonical s) : CanonicalOut (execServiceRequest s) := by
  unfold Machine.execServiceRequest
  split
  · split
    · exact h
    · split
      · exact h
      · split
        · dsimp only
          split
          · exact h.modService _ _
          · exact h.of_eq rfl rfl
        · split
          · exact h.modService _ _
          · dsimp only
            exact (h.serveArmed _ _).modService _ _
          · dsimp only
            split
            · exact h.modService _ _
            · exact (h.modService _ _).writeRecord _ _
  · exact h

theorem Canonical.serveRecords (h : Canonical s) (c key : Nat) (ok : Bool) : Canonical (serveRecords s c key ok) := by
  unfold Machine.serveRecords
  dsimp only
  refine Canonical.foldl (fun s x h => ?_) _ ?_
  · split
    · exact h.writeRecord _ _
    · exact (canonical_raiseQueue _).2 ((canonical_setQReg _ _ _).2 ((canonical_countLostRecord).2 h))
  · exact h.of_eq rfl rfl

theorem Canonical.retryRecords (h : Canonical s) (c : Nat) : Canonical (retryRecords s c) := by
  unfold Machine.retryRecords
  dsimp only
  refine Canonical.foldl (fun s x h => ?_) _ ?_
  · exact h.writeRecord _ _
  · exact h.of_eq rfl rfl

theorem Canonical.queueStop (h : Canonical s) (k code off header addr : Nat) : Canonical (queueStop s k code off header addr) :=
  (h.setQueue _ _).writeRecord _ _

theorem Canonical.stopQueue (h : Canonical s) (k code off header addr : Nat) : Canonical (stopQueue s k code off header addr) := by
  unfold Machine.stopQueue
  dsimp only
  split
  · exact h.queueStop _ _ _ _ _
  · exact h

theorem Canonical.endWithAccess (h : Canonical s) (k addr : Nat) (x : Packet) : Canonical (endWithAccess s k addr x) :=
  (h.setQueue _ _).stopQueue _ _ _ _ _

theorem Canonical.accessStop (h : Canonical s) (k off header addr : Nat) : Canonical (accessStop s k off header addr) := by
  unfold Machine.accessStop
  split
  · exact h.endWithAccess _ _ _
  · exact (h.setQueue _ _).stopQueue _ _ _ _ _

theorem Canonical.serveQueue (h : Canonical s) (c key : Nat) (ok : Bool) : Canonical (serveQueue s c key ok) := by
  unfold Machine.serveQueue
  dsimp only
  refine Canonical.foldl (fun s x h => ?_) _ h
  split
  · split
    · exact h
    · split
      · exact h.setQueue _ _
      · exact h.accessStop _ _ _ _
  · exact h

theorem Canonical.answerQueue (h : Canonical s) (k : Nat) (x : Option Nat) : Canonical (answerQueue s k x) := by
  unfold Machine.answerQueue
  dsimp only
  split
  · exact h.setQueue _ _
  · exact h

theorem Canonical.failTgt (h : Canonical s) (k va : Nat) : Canonical (failTgt s k va) := by
  unfold Machine.failTgt
  split
  · exact h.endWithAccess _ _ _
  · exact h

theorem Canonical.failQueue (h : Canonical s) (k va : Nat) : Canonical (failQueue s k va) := by
  unfold Machine.failQueue
  split
  · split
    · exact h.accessStop _ _ _ _
    · exact h
  · exact h

theorem Canonical.serveFront (h : Canonical s) (c key : Nat) (ok : Bool) : Canonical (serveFront s c key ok) := h.of_eq rfl rfl

theorem Canonical.answerService (h : Canonical s) (r : ServiceReq) (ok : Bool) : Canonical (answerService s r ok) := by
  unfold Machine.answerService
  dsimp only
  split
  · refine Canonical.serveFront ?_ _ _ _
    refine Canonical.serveQueue ?_ _ _ _
    refine Canonical.serveRecords ?_ _ _ _
    exact h.of_eq rfl rfl
  · exact h.of_eq rfl rfl

theorem Canonical.execServiceAnswer (h : Canonical s) : CanonicalOut (execServiceAnswer s) := by
  unfold Machine.execServiceAnswer
  split
  · split
    · split
      · split
        · exact h.of_eq rfl rfl
        · exact h.answerService _ _
      · exact h
    · exact h
  · exact h

theorem Canonical.execParkGroupStart (h : Canonical s) : CanonicalOut (execParkGroupStart s) := by
  unfold Machine.execParkGroupStart
  split
  · split
    · exact h
    · split
      · exact h
      · split
        · exact h
        · dsimp only
          split
          · exact ((h.modGang _ _).newPath _ _ _ _ _ _).takeTrapAt _ _ _ _
          · exact (h.modGang _ _).newPath _ _ _ _ _ _
  · exact h

theorem Canonical.execAtsResponse (h : Canonical s) : CanonicalOut (execAtsResponse s) := by
  unfold Machine.execAtsResponse
  split
  · extract_lets s1
    have h1 : Canonical s1 := by
      unfold s1
      split
      · exact Canonical.foldl (fun _ _ h => h.atsInsert _) _ h
      · exact h
    exact h1.of_eq rfl rfl
  · exact h

theorem Canonical.execAtsInvalidation (h : Canonical s) : CanonicalOut (execAtsInvalidation s) := by
  unfold Machine.execAtsInvalidation
  split
  · dsimp only
    exact h.of_eq rfl rfl
  · exact h

theorem Canonical.failLane (h : Canonical s) (op lane detail va : Nat) : Canonical (failLane s op lane detail va) := h.of_eq rfl rfl

theorem Canonical.peerFailed (h : Canonical s) (r : PeerReq) (detail : Nat) : Canonical (peerFailed s r detail) := by
  unfold Machine.peerFailed
  split
  · exact h
  · dsimp only
    split
    · split
      · exact h.of_eq rfl rfl
      · exact (canonical_countFailedAccess).2 h
    · split
      · split
        · exact (canonical_countLostRecord).2 ((canonical_countFailedAccess).2 h)
        · split
          · split
            · exact ((canonical_countFailedAccess).2 h).failTgt _ _
            · exact ((canonical_countFailedAccess).2 h).failQueue _ _
          · split
            · exact ((canonical_countFailedAccess).2 h).modCmd _ _
            · exact ((canonical_countFailedAccess).2 h).modPath _ _
      · split
        · split
          · exact (((canonical_countFailedAccess).2 h).pendFault _ _ _ _ _).modOp _ _
          · exact ((canonical_countFailedAccess).2 h).pendFault _ _ _ _ _
        · exact Canonical.foldl (fun _ _ h => h.failLane _ _ _ _) _ (((canonical_countFailedAccess).2 h).failLane _ _ _ _)

theorem Canonical.takePeer (h : Canonical s) (tag : Nat) : Canonical (takePeer s tag) := h.of_eq rfl rfl

theorem Canonical.keepRead (h : Canonical s) (r : PeerReq) (data : Nat) : Canonical (keepRead s r data) := by
  unfold Machine.keepRead
  extract_lets n die s1 s2
  have h1 : Canonical s1 := ⟨Memory.wf_writeMem _ _ _ h.1, h.2⟩
  have h2 : Canonical s2 := by
    unfold s2
    split
    · exact h1.holdLine _ _ _ _ _
    · exact h1
  split
  · exact h
  · split
    · exact h2.l1Fill _ _ _ _ _
    · split
      · exact h2.roFill _ _ _ _
      · split
        · exact h2
        · exact (canonical_dropClean _ _).2 h2

theorem Canonical.peerArrive (h : Canonical s) (r : PeerReq) (data lane : Nat) : Canonical (peerArrive s r data lane) := h.of_eq rfl rfl

theorem Canonical.execPeerReadData (h : Canonical s) : CanonicalOut (execPeerReadData s) := by
  unfold Machine.execPeerReadData
  split
  · split
    · exact h
    · split
      · exact h
      · dsimp only
        split
        · split
          · exact (h.takePeer _).answerQueue _ _
          · exact ((h.takePeer _).keepRead _ _).answerQueue _ _
        · split
          · exact (h.takePeer _).keepRead _ _
          · exact Canonical.foldl (fun _ _ h => h.peerArrive _ _ _) _ (((h.takePeer _).keepRead _ _).peerArrive _ _ _)
  · exact h

theorem Canonical.peerUpdate (h : Canonical s) (r : PeerReq) (old : Nat) : Canonical (peerUpdate s r old) := by
  unfold Machine.peerUpdate
  split
  · exact h.updateCopies _ _ _ _
  · exact h

theorem Canonical.execPeerWriteAck (h : Canonical s) : CanonicalOut (execPeerWriteAck s) := by
  unfold Machine.execPeerWriteAck
  split
  · split
    · exact h
    · split
      · exact h
      · dsimp only
        split
        · split
          · exact h.takePeer _
          · exact (h.takePeer _).answerQueue _ _
        · split
          · exact (canonical_opArrive _ _ _).2 ((h.takePeer _).peerUpdate _ _)
          · exact h.takePeer _
  · exact h

theorem Canonical.execPeerNak (h : Canonical s) : CanonicalOut (execPeerNak s) := by
  unfold Machine.execPeerNak
  split
  · split
    · exact (h.takePeer _).peerFailed _ _
    · exact h
  · exact h

theorem Canonical.execPeerTimeout (h : Canonical s) : CanonicalOut (execPeerTimeout s) := by
  unfold Machine.execPeerTimeout
  split
  · split
    · exact (h.takePeer _).peerFailed _ _
    · exact h
  · exact h

theorem Canonical.execPolnuPortDown (h : Canonical s) : CanonicalOut (execPolnuPortDown s) := by
  unfold Machine.execPolnuPortDown
  split
  · dsimp only
    refine Canonical.foldl (fun s x h => ?_) _ ?_
    · exact (h.takePeer _).peerFailed _ _
    · exact h.of_eq rfl rfl
  · exact h

theorem Canonical.setExports (h : Canonical s) (ws : List (Nat × Nat × List Nat × List Nat)) : Canonical (setExports s ws) := by
  unfold Machine.setExports
  split
  · exact h.of_eq rfl rfl
  · exact h

theorem Canonical.setRoute (h : Canonical s) (fabric : Nat) (ports : List Nat) : Canonical (setRoute s fabric ports) := h.of_eq rfl rfl

theorem Canonical.setFabric (h : Canonical s) (id : Nat) : Canonical (setFabric s id) := h.of_eq rfl rfl

theorem Canonical.answerPeer (h : Canonical s) (fabric : Nat) (x : PeerAnswer) : Canonical (answerPeer s fabric x) := h.of_eq rfl rfl

theorem Canonical.execPeerRequestReceived (h : Canonical s) : CanonicalOut (execPeerRequestReceived s) := by
  unfold Machine.execPeerRequestReceived
  split
  · split
    · exact h.answerPeer _ _
    · split
      · dsimp only
        exact (h.homeRead _ _ _).answerPeer _ _
      · exact (h.homeWrite _ _ _).answerPeer _ _
      · dsimp only
        exact ((h.homeRead _ _ _).homeWrite _ _ _).answerPeer _ _
  · exact h

theorem Canonical.execHostErrorCompletion (h : Canonical s) : CanonicalOut (execHostErrorCompletion s) := by
  unfold Machine.execHostErrorCompletion
  split
  · split
    · exact h
    · split
      · exact h
      · split
        · exact h
        · dsimp only
          split
          · exact (((canonical_countFailedAccess).2 h).modOp _ _).pendFault _ _ _ _ _
          · exact h.of_eq rfl rfl
  · dsimp only
    split
    · exact h
    · exact h.of_eq rfl rfl
  · exact h

/-! Slots of targets: lines, planes and pixels. -/

theorem Canonical.readSlots (h : Canonical s) (c core cmd : Nat) (d : TargetDesc) (xs : List Nat) :
    Canonical (readSlots s c core cmd d xs).1 := by
  induction xs generalizing s with
  | nil => exact h
  | cons x xs ih =>
    unfold Machine.readSlots
    dsimp only
    split
    · exact ih (h.engRead _ _ _ _ _)
    · exact h.engRead _ _ _ _ _

theorem Canonical.lanternRead (h : Canonical s) (t : Target) (va n : Nat) : Canonical (lanternRead s t va n).1 := by
  unfold Machine.lanternRead
  dsimp only
  split <;> exact h.engRead _ _ _ _ _

theorem Canonical.noteLines (h : Canonical s) (key : Nat) (ls : List (Nat × Nat)) : Canonical (noteLines s key ls) := h.of_eq rfl rfl

theorem Canonical.lanternWrite (h : Canonical s) (t : Target) (runs : List (Nat × List Nat)) : Canonical (lanternWrite s t runs).1 := by
  unfold Machine.lanternWrite
  dsimp only
  split
  · exact (h.engWriteAll _ _ _ _).noteLines _ _
  · exact h.engWriteAll _ _ _ _

theorem Canonical.lanternFault (h : Canonical s) (t : Target) (o : Option OrderEntry) (code detail addr : Nat) :
    Canonical (lanternFault s t o code detail addr) := by
  unfold Machine.lanternFault
  split
  · exact h.pendFault _ _ _ _ _
  · dsimp only
    split
    · exact h.machineCheckOn _ _
    · exact h

theorem Canonical.loadPlanes (h : Canonical s) (t : Target) (x y : Nat) (xs : List Nat) : Canonical (loadPlanes t x y xs s).1 := by
  induction xs generalizing s with
  | nil => exact h
  | cons x xs ih =>
    unfold Machine.loadPlanes
    dsimp only
    split
    · exact h.lanternRead _ _ _
    · exact ih (h.lanternRead _ _ _)

theorem Canonical.loadPixel (h : Canonical s) (t : Target) (ops : List Nat) (x y : Nat) : Canonical (loadPixel s t ops x y).1 := by
  unfold Machine.loadPixel
  dsimp only
  split
  · exact h.lanternRead _ _ _
  · exact (h.lanternRead _ _ _).loadPlanes _ _ _ _

theorem Canonical.storePixel (h : Canonical s) (t : Target) (x y : Nat) (old new : PixBuf) : Canonical (storePixel s t x y old new).1 :=
  h.lanternWrite _ _

/-! Render targets. -/

theorem Canonical.fillLines (h : Canonical s) (c core cmd : Nat) (pattern : List Nat) (n k a : Nat) :
    Canonical (fillLines s c core cmd pattern n k a).1 := by
  induction k generalizing s n a with
  | zero => exact h
  | succ n ih =>
    unfold Machine.fillLines
    dsimp only
    split
    · exact h
    · split
      · exact ih (h.engWrite _ _ _ _ _) _ _
      · exact h.engWrite _ _ _ _ _

theorem Canonical.flushTargets (h : Canonical s) (fid : Nat) : Canonical (flushTargets s fid) :=
  Canonical.foldl (fun _ _ h => h.dropEverywhere _) _ h

theorem Canonical.clearPlanes (h : Canonical s) (c core cmd : Nat) (d : TargetDesc) (xs : List Nat) :
    Canonical (clearPlanes s c core cmd d xs).1 := by
  induction xs generalizing s with
  | nil => exact h
  | cons x xs ih =>
    unfold Machine.clearPlanes
    dsimp only
    split
    · exact ih (h.fillLines _ _ _ _ _ _ _)
    · exact h.fillLines _ _ _ _ _ _ _

theorem Canonical.writeTgtState (h : Canonical s) (c core cmd a v : Nat) : Canonical (writeTgtState s c core cmd a v).1 :=
  h.engWrite _ _ _ _ _

theorem Canonical.openTarget (h : Canonical s) (c core cmd a queue : Nat) : Canonical (openTarget s c core cmd a queue).1 := by
  unfold Machine.openTarget
  extract_lets r key
  have hr : Canonical r.1 := h.engRead _ _ _ _ _
  split
  · extract_lets d m st frame bound n ck cov cl w
    have hm : Canonical m.1 := hr.readSlots _ _ _ _ _
    have hck : Canonical ck.1 := hm.engTranslateAll _ _ _ _
    have hcov : Canonical cov.1 := hck.fillLines _ _ _ _ _ _ _
    have hcl : Canonical cl.1 := by
      unfold cl
      split
      · exact hcov.clearPlanes _ _ _ _ _
      · exact hcov
    have hw : Canonical w.1 := hcl.writeTgtState _ _ _ _ _
    split
    · exact hr
    · split
      · exact hm
      · split
        · exact hm
        · split
          · exact hm
          · split
            · exact hm
            · split
              · exact hck
              · split
                · exact hcov
                · split
                  · exact hcl
                  · split
                    · exact hw.of_eq rfl rfl
                    · exact hw
  · exact hr

theorem Canonical.sealTarget (h : Canonical s) (c core cmd a queue packet : Nat) :
    Canonical (sealTarget s c core cmd a queue packet).1 := by
  unfold Machine.sealTarget
  split
  · exact h
  · dsimp only
    split
    · split
      · exact h.engRead _ _ _ _ _
      · split
        · dsimp only
          unfold Canonical
          dsimp only
          split
          · exact ((((h.engRead _ _ _ _ _).writeTgtState _ _ _ _ _).rasteriseFrame _ _ _).flushTargets _).unbindTargets _ _
          · exact (h.engRead _ _ _ _ _).writeTgtState _ _ _ _ _
        · exact (h.engRead _ _ _ _ _).writeTgtState _ _ _ _ _
    · exact h.engRead _ _ _ _ _

theorem Canonical.moveTarget (h : Canonical s) (c core cmd a : Nat) (checked : Bool) (from_ : List Nat) (to_ : Nat) :
    Canonical (moveTarget s c core cmd a checked from_ to_).1 := by
  unfold Machine.moveTarget
  dsimp only
  split
  · split
    · exact h.engRead _ _ _ _ _
    · split
      · exact h.engRead _ _ _ _ _
      · split <;> exact (h.engRead _ _ _ _ _).writeTgtState _ _ _ _ _
  · exact h.engRead _ _ _ _ _

theorem Canonical.admitLane (h : Canonical s) (q : Path) (key slot v l : Nat) : Canonical (admitLane s q key slot v l) := h.of_eq rfl rfl

theorem Canonical.admitLanes (h : Canonical s) (q : Path) (key slot v : Nat) (xs : List Nat) :
    Canonical (admitLanes q key slot v xs s).1 := by
  induction xs generalizing s with
  | nil => exact h
  | cons x xs ih =>
    unfold Machine.admitLanes
    exact ih (iteInduction (fun _ => h.admitLane _ _ _ _ _) fun _ => h)

theorem Canonical.withTarget (h : Canonical s) (p : Nat) (q : Path) (i : Instr) (g low : Nat) (f : Nat → State)
    (hf : ∀ x0, Canonical (f x0)) : Canonical (withTarget s p q i g low f) := by
  unfold Machine.withTarget
  dsimp only
  split
  · exact h.trapAll _ _ _ _ _ _
  · exact hf _

theorem Canonical.endPost (h : Canonical s) (p : Nat) (q : Path) (i : Instr) (fault : Option Trap) : Canonical (endPost s p q i fault) := by
  unfold Machine.endPost
  split
  · exact h.takeTrap _ _ _
  · exact h.advance _ _ _

theorem Canonical.execPost (h : Canonical s) (v g k : Nat) : CanonicalOut (execPost v g k s) := by
  unfold Machine.execPost
  refine canonicalOut_onPath fun p q => ?_
  dsimp only
  split
  · split
    · exact (h.admitLanes _ _ _ _ _).endPost _ _ _ _
    · exact (h.admitLanes _ _ _ _ _).waitAt _ _ _ _
  · refine h.withTarget _ _ _ _ _ _ (fun a => ?_)
    split
    · exact (h.admitLanes _ _ _ _ _).endPost _ _ _ _
    · exact (h.admitLanes _ _ _ _ _).waitAt _ _ _ _

theorem Canonical.execKill (h : Canonical s) (g : Nat) : CanonicalOut (execKill g s) := by
  unfold Machine.execKill
  refine canonicalOut_onPath fun p q => ?_
  dsimp only
  refine h.withTarget _ _ _ _ _ _ (fun a => ?_)
  refine Canonical.endPost ?_ _ _ _ _
  exact h.of_eq rfl rfl

theorem Canonical.softRead (h : Canonical s) (q : Path) (p va n : Nat) : Canonical (softRead s q p va n).1 := by
  unfold Machine.softRead
  dsimp only
  split
  · exact h.engRead _ _ _ _ _
  · split <;> exact h.engRead _ _ _ _ _
  · exact h.engRead _ _ _ _ _
  · exact h.engRead _ _ _ _ _

theorem Canonical.zprobeLane (h : Canonical s) (q : Path) (p : Nat) (d : TargetDesc) (o : OrderEntry) (v : Nat) (xs : List Nat) :
    Canonical (zprobeLane s q p d o v xs).1 := by
  induction xs generalizing s with
  | nil => exact h
  | cons x xs ih =>
    unfold Machine.zprobeLane
    have hr := h.softRead q p ((pixelAddr d 4 o.x o.y + 4 * x) % 2 ^ 64) 4
    dsimp only
    split
    · exact hr
    · exact hr
    · exact iteInduction (motive := fun r : State × Except Eng Bool => Canonical r.1) (fun _ => ih hr) fun _ => hr

theorem Canonical.zprobeLanes (h : Canonical s) (q : Path) (p : Nat) (t : Target) (d : TargetDesc) (v : Nat) (xs : List Nat) :
    Canonical (zprobeLanes q p t d v xs s).1 := by
  induction xs generalizing s with
  | nil => exact h
  | cons x xs ih =>
    unfold Machine.zprobeLanes
    dsimp only
    split
    · dsimp only
      split
      · exact h
      · exact h.zprobeLane _ _ _ _ _ _
    · dsimp only
      refine ih ?_
      split
      · exact h
      · exact h.zprobeLane _ _ _ _ _ _

theorem Canonical.execZprobe (h : Canonical s) (v g pd : Nat) : CanonicalOut (execZprobe v g pd s) := by
  unfold Machine.execZprobe
  refine canonicalOut_onPath fun p q => ?_
  dsimp only
  refine h.withTarget _ _ _ _ _ _ (fun a => ?_)
  split
  · exact (h.softRead _ _ _ _).pathEng _ _ _ _
  · exact ((h.softRead _ _ _ _).setPs _ _ _).advance _ _ _
  · split
    · exact ((h.softRead _ _ _ _).setPs _ _ _).advance _ _ _
    · split
      · exact ((h.softRead _ _ _ _).setPs _ _ _).advance _ _ _
      · split
        · exact ((h.softRead _ _ _ _).zprobeLanes _ _ _ _ _ _).pathEng _ _ _ _
        · exact (((h.softRead _ _ _ _).zprobeLanes _ _ _ _ _ _).setPs _ _ _).advance _ _ _

theorem Canonical.settleTarget (h : Canonical s) (p : Nat) (q : Path) (i : Instr) (a : Nat) (r : TgtRes) :
    Canonical (settleTarget s p q i a r) := by
  unfold Machine.settleTarget
  split
  · split
    · exact h.waitAt _ _ _ _
    · exact h.advance _ _ _
  · exact h.pathEng _ _ _ _
  · exact h.trapAll _ _ _ _ _ _
  · exact h.trapAll _ _ _ _ _ _
  · exact h.trapAll _ _ _ _ _ _

theorem Canonical.endTgtwait (h : Canonical s) (p : Nat) (q : Path) (pd : Nat) (sealed : Bool) : Canonical (endTgtwait s p q pd sealed) :=
  ((h.setPs _ _ _).acquire _ _ _).advance _ _ _

theorem Canonical.doTgtwait (h : Canonical s) (p : Nat) (q : Path) (g pd a : Nat) : Canonical (doTgtwait s p q g pd a) := by
  unfold Machine.doTgtwait
  dsimp only
  split
  · split
    · exact (h.engRead _ _ _ _ _).waitAt _ _ _ _
    · exact (h.engRead _ _ _ _ _).endTgtwait _ _ _ _
  · exact (h.engRead _ _ _ _ _).pathEng _ _ _ _

theorem Canonical.endTgtWrite (h : Canonical s) (p : Nat) (q : Path) (i : Instr) (g : Nat) : Canonical (endTgtWrite s p q i g) := by
  unfold Machine.endTgtWrite
  split
  · exact h
  · split
    · exact h.trapAll _ _ _ _ _ _
    · exact h.advance _ _ _

theorem Canonical.execTargetWaitEnd (h : Canonical s) : CanonicalOut (execTargetWaitEnd s) := by
  unfold Machine.execTargetWaitEnd
  split
  · split
    · split
      · exact h
      · split
        · exact h.doTgtwait _ _ _ _ _
        · exact h.endTgtWrite _ _ _ _
        · exact h.endTgtWrite _ _ _ _
        · exact h
    · exact h
  · exact h

theorem Canonical.resolveSeq (h : Canonical s) (key seq : Nat) : Canonical (resolveSeq s key seq) := h.of_eq rfl rfl

theorem Canonical.stopLantern (h : Canonical s) (t : Target) (o : Option OrderEntry) (e : LanternStop) :
    Canonical (stopLantern s t o e).1 := by
  unfold Machine.stopLantern
  split
  · exact h
  · exact h.lanternFault _ _ _ _ _

theorem Canonical.changePixel (h : Canonical s) (t : Target) (o : Option OrderEntry) (ops : List Nat) (x y : Nat)
    (run : PixBuf → PixBuf) : Canonical (changePixel s t o ops x y run).1 := by
  unfold Machine.changePixel
  dsimp only
  split
  · exact (h.loadPixel _ _ _ _).stopLantern _ _ _
  · split
    · exact (h.loadPixel _ _ _ _).storePixel _ _ _ _ _
    · exact ((h.loadPixel _ _ _ _).storePixel _ _ _ _ _).stopLantern _ _ _

theorem Canonical.applyFragment (h : Canonical s) (t : Target) (o : OrderEntry) (slot : Nat) (f : List Nat) (z : Nat) :
    Canonical (applyFragment s t o slot f z).1 := by
  unfold Machine.applyFragment
  dsimp only
  exact h.changePixel _ _ _ _ _ _

theorem Canonical.execFragmentApply (h : Canonical s) : CanonicalOut (execFragmentApply s) := by
  unfold Machine.execFragmentApply
  split
  · split
    · exact h
    · split
      · exact h
      · split
        · exact h
        · split
          · exact h
          · split
            · dsimp only
              refine Canonical.resolveSeq ?_ _ _
              refine Canonical.lanternFault ?_ _ _ _ _ _
              exact h.of_eq rfl rfl
            · dsimp only
              split
              · exact (h.applyFragment _ _ _ _ _).resolveSeq _ _
              · exact h.applyFragment _ _ _ _ _
  · exact h

theorem Canonical.sealPixels (h : Canonical s) (key : Nat) (t : Target) (ops : List Nat) (xs : List (Nat × Nat)) :
    Canonical (sealPixels key t ops xs s).1 := by
  induction xs generalizing s with
  | nil => exact h
  | cons x xs ih =>
    unfold Machine.sealPixels
    dsimp only
    split
    · exact h.changePixel _ _ _ _ _ _
    · refine ih ?_
      exact (h.changePixel _ _ _ _ _ _).of_eq rfl rfl

theorem Canonical.dropPlaneLines (h : Canonical s) (key : Nat) : Canonical (dropPlaneLines s key) :=
  Canonical.foldl (fun _ _ h => (canonical_dropClean _ _).2 h) _ ((canonical_roDrop _).2 h)

theorem Canonical.writeSealed (h : Canonical s) (t : Target) : Canonical (writeSealed s t).1 := by
  unfold Machine.writeSealed
  dsimp only
  split
  · exact (h.lanternRead _ _ _).stopLantern _ _ _
  · split
    · exact (h.lanternRead _ _ _).lanternWrite _ _
    · exact ((h.lanternRead _ _ _).lanternWrite _ _).stopLantern _ _ _

theorem Canonical.finishSeal (h : Canonical s) (key : Nat) (t : Target) : Canonical (finishSeal s key t).1 := by
  unfold Machine.finishSeal
  dsimp only
  split
  · dsimp only
    split
    · exact h
    · exact h.sealPixels _ _ _ _
  · refine Canonical.writeSealed ?_ _
    refine Canonical.dropPlaneLines ?_ _
    split
    · exact h
    · exact h.sealPixels _ _ _ _

theorem Canonical.execTargetSealComplete (h : Canonical s) : CanonicalOut (execTargetSealComplete s) := by
  unfold Machine.execTargetSealComplete
  split
  · split
    · exact h
    · split
      · exact h
      · dsimp only
        split
        · exact (h.finishSeal _ _).of_eq rfl rfl
        · exact h.finishSeal _ _
  · exact h

theorem Canonical.execPartialRender (h : Canonical s) : CanonicalOut (execPartialRender s) := by
  unfold Machine.execPartialRender
  split
  · split
    · exact h
    · split
      · exact h
      · split
        · exact h
        · split
          · exact h
          · dsimp only
            refine Canonical.countPartial ?_ _
            refine Canonical.flushTargets ?_ _
            split
            · refine Canonical.makePass ?_ _ _ _ _ _
              exact h.of_eq rfl rfl
            · exact h.rasteriseFrame _ _ _
  · exact h

/-! Fragment passes. -/

theorem Canonical.failPass (h : Canonical s) (pid : Nat) (x : Pass) (code addr : Nat) : Canonical (failPass s pid x code addr) := by
  unfold Machine.failPass
  dsimp only
  refine Canonical.stopQueue ?_ _ _ _ _ _
  exact h.of_eq rfl rfl

theorem Canonical.readTris (h : Canonical s) (x : Pass) (xs : List Tri) : Canonical (readTris s x xs).1 := by
  induction xs generalizing s with
  | nil => exact h
  | cons x xs ih =>
    unfold Machine.readTris
    dsimp only
    split
    · dsimp only
      split
      · exact h
      · split <;> exact h.engRead _ _ _ _ _
    · dsimp only
      refine ih ?_
      split
      · exact h
      · split <;> exact h.engRead _ _ _ _ _

theorem Canonical.execFragmentPassStart (h : Canonical s) : CanonicalOut (execFragmentPassStart s) := by
  unfold Machine.execFragmentPassStart
  split
  · split
    · exact h
    · split
      · exact h
      · split
        · exact h.failPass _ _ _ _
        · extract_lets stop e key
          have hstop : ∀ {s : State} (e : Eng), Canonical s → Canonical (stop s e) := by
            intro s e h
            unfold stop
            split
            · exact h.of_eq rfl rfl
            · exact h.failPass _ _ _ _
            · exact h
          have he : Canonical e.1 := h.engRead _ _ _ _ _
          clear_value stop e
          split
          · extract_lets ck ts
            have hck : Canonical ck.1 := he.checkLaunch _ _ _ _
            split
            · exact hstop _ hck
            · split
              · exact hck.failPass _ _ _ _
              · extract_lets l r src
                have hts : Canonical ts.1 := hck.readTris _ _
                split
                · refine (?_ : Canonical _)
                  split
                  · exact hts.machineCheckOn _ _
                  · exact hts.failPass _ _ _ _
                · exact hstop _ hts
                · exact hts.of_eq rfl rfl
          · exact hstop _ he
  · exact h

theorem Canonical.execRasterEmit (h : Canonical s) : CanonicalOut (execRasterEmit s) := by
  unfold Machine.execRasterEmit
  split
  · split
    · exact h
    · split
      · split
        · exact h
        · dsimp only
          exact h.of_eq rfl rfl
      · exact h
  · exact h

/-! Registers and messages of the functions. -/

theorem Canonical.execTrapret (h : Canonical s) (k : Nat) : CanonicalOut (execTrapret k s) := by
  unfold Machine.execTrapret
  refine canonicalOut_onPath fun p q => ?_
  split
  · exact h.trapAll _ _ _ _ _ _
  · exact h.trapReturn _ _ _

theorem Canonical.replCnt (h : Canonical s) (c core : Nat) : Canonical (replCnt s c core).1 := by
  unfold Machine.replCnt
  dsimp only
  split
  · split <;> exact h.translate _ _ _ _ _ _
  · exact h.translate _ _ _ _ _ _

/-- A choice between two results keeps the form where both do. -/
theorem Canonical.ite_fst {α : Type} {c : Prop} [Decidable c] {r u : State × α} (hr : Canonical r.1) (hu : Canonical u.1) :
    Canonical (if c then r else u).1 := by
  split
  · exact hr
  · exact hu

/-- Only the read of REPLCNT, which translates an address, can change the state. -/
theorem Canonical.readCsr (h : Canonical s) (q : Path) (n : Nat) : Canonical (readCsr s q n).1 := by
  unfold Machine.readCsr
  exact ite_fst h <| ite_fst h <| ite_fst h <| ite_fst h <| ite_fst h <| ite_fst h <| ite_fst h <| ite_fst h <| ite_fst h <| ite_fst h <|
    ite_fst h <| ite_fst h <| ite_fst h <| ite_fst h <| ite_fst (h.replCnt _ _) h

theorem Canonical.writeCtxCsr (h : Canonical s) (c n x : Nat) : Canonical (writeCtxCsr s c n x) := by
  unfold Machine.writeCtxCsr
  split
  · exact h.setCtxReg _ _ _
  · split
    · exact h.setCtxReg _ _ _
    · split
      · exact h.setCtxReg _ _ _
      · split
        · exact h.setCtxReg _ _ _
        · split
          · exact h.setCtxReg _ _ _
          · split
            · exact h.setCtxReg _ _ _
            · exact h

theorem Canonical.writeCsr (h : Canonical s) (q : Path) (n x : Nat) : Canonical (writeCsr s q n x) := by
  unfold Machine.writeCsr
  split
  · exact (canonical_setCsr _ _ _).2 h
  · split
    · exact (canonical_setCsr _ _ _).2 h
    · split
      · exact (canonical_setCsr _ _ _).2 h
      · exact h.writeCtxCsr _ _ _

theorem Canonical.execCsrrd (h : Canonical s) (g n : Nat) : CanonicalOut (execCsrrd g n s) := by
  unfold Machine.execCsrrd
  refine canonicalOut_onPath fun p q => ?_
  split
  · exact h.trapAll _ _ _ _ _ _
  · split
    · exact h.waitAt _ _ _ _
    · exact ((h.readCsr _ _).setG _ _ _).advance _ _ _

theorem Canonical.execCsrwr (h : Canonical s) (g n : Nat) : CanonicalOut (execCsrwr g n s) := by
  unfold Machine.execCsrwr
  refine canonicalOut_onPath fun p q => ?_
  split
  · exact h.trapAll _ _ _ _ _ _
  · split
    · exact h.waitAt _ _ _ _
    · exact (h.writeCsr _ _ _).advance _ _ _

theorem Canonical.execTlbinvPage (h : Canonical s) (g : Nat) : CanonicalOut (execTlbinvPage g s) := by
  unfold Machine.execTlbinvPage
  refine canonicalOut_onPath fun p q => ?_
  split
  · exact h.trapAll _ _ _ _ _ _
  · exact h.of_eq rfl rfl

theorem Canonical.execTlbinvAll (h : Canonical s) : CanonicalOut (execTlbinvAll s) := by
  unfold Machine.execTlbinvAll
  refine canonicalOut_onPath fun p q => ?_
  split
  · exact h.trapAll _ _ _ _ _ _
  · exact h.of_eq rfl rfl

/-! Scheduling of contexts, save and restore. -/

theorem Canonical.flushCtx (h : Canonical s) (c : Nat) : Canonical (flushCtx s c) := by
  unfold Machine.flushCtx
  dsimp only
  refine Canonical.foldl (fun s x h => ?_) _ ?_
  · exact (canonical_dropWords _ _).2 h
  · exact Canonical.foldl (fun _ _ h => (h.writeBackLine _ _).settleLine _) _ h

theorem Canonical.emptyCaches (h : Canonical s) (c : Nat) : Canonical (emptyCaches s c) := h.of_eq rfl rfl

theorem Canonical.discardWork (h : Canonical s) (c : Nat) : Canonical (discardWork s c) := by
  have he := (h.flushCtx c).emptyCaches c
  unfold Machine.discardWork
  refine Canonical.sendInvalDone ?_
  exact ⟨he.1, Memory.wf_filter _ _ he.2⟩

theorem Canonical.resetCtxRegs (h : Canonical s) (c : Nat) : Canonical (resetCtxRegs s c) := h.of_eq rfl rfl

theorem Canonical.clearQueues (h : Canonical s) (c : Nat) : Canonical (clearQueues s c) := h.of_eq rfl rfl

theorem Canonical.destroyContext (h : Canonical s) (c : Nat) : Canonical (destroyContext s c) := by
  unfold Machine.destroyContext
  dsimp only
  split
  · exact h
  · exact (h.discardWork _).of_eq rfl rfl

theorem Canonical.resetQueues (h : Canonical s) (c : Nat) : Canonical (resetQueues s c) := by
  unfold Machine.resetQueues
  dsimp only
  refine Canonical.foldl (fun s x h => ?_) _ h
  split
  · exact h
  · exact (canonical_setQReg _ _ _).2 (h.setQueue _ _)

theorem Canonical.resetContext (h : Canonical s) (c : Nat) : Canonical (resetContext s c) :=
  (canonical_modCtx _ _).2 (((h.discardWork _).resetCtxRegs _).resetQueues _)

theorem Canonical.execContextSchedule (h : Canonical s) : CanonicalOut (execContextSchedule s) := by
  unfold Machine.execContextSchedule
  split
  · dsimp only
    split
    · exact (canonical_modCtx _ _).2 h
    · exact h
  · exact h

theorem Canonical.execContextIdle (h : Canonical s) : CanonicalOut (execContextIdle s) := by
  unfold Machine.execContextIdle
  split
  · split
    · exact (canonical_modCtx _ _).2 h
    · exact h
  · exact h

theorem Canonical.startPreempt (h : Canonical s) (c : Nat) : Canonical (startPreempt s c) := by
  unfold Machine.startPreempt
  split
  · exact h
  · exact h.of_eq rfl rfl

theorem Canonical.execTimeSliceExpiry (h : Canonical s) : CanonicalOut (execTimeSliceExpiry s) := by
  unfold Machine.execTimeSliceExpiry
  split
  · exact h.startPreempt _
  · exact h

theorem Canonical.execPriorityPreempt (h : Canonical s) : CanonicalOut (execPriorityPreempt s) := by
  unfold Machine.execPriorityPreempt
  split
  · exact h.startPreempt _
  · exact h

theorem Canonical.execSlicePreemptStop (h : Canonical s) : CanonicalOut (execSlicePreemptStop s) := by
  unfold Machine.execSlicePreemptStop
  split
  · split
    · exact h
    · dsimp only
      split
      · exact (canonical_setPath _ _).2 h
      · exact h
  · exact h

theorem Canonical.execPreemptFallback (h : Canonical s) : CanonicalOut (execPreemptFallback s) := by
  unfold Machine.execPreemptFallback
  split
  · split
    · exact h
    · dsimp only
      split
      · exact (canonical_setPath _ _).2 h
      · exact h
  · exact h

theorem Canonical.dropUnmarked (h : Canonical s) (q : Path) (x : SideEntry) : Canonical (dropUnmarked s q x) := h.of_eq rfl rfl

theorem Canonical.dropUniform (h : Canonical s) (gid : Nat) (g : Gang) : Canonical (dropUniform s gid g) := by
  unfold Machine.dropUniform
  dsimp only
  refine Canonical.foldl (fun s x h => ?_) _ h
  exact h.of_eq rfl rfl

theorem Canonical.failBeacons (h : Canonical s) (c : Nat) : Canonical (failBeacons s c) := by
  unfold Machine.failBeacons
  dsimp only
  refine Canonical.foldl (fun s x h => ?_) _ h
  split
  · refine Canonical.endWaitc ?_ _ _ _ _ _ _ _
    exact h.of_eq rfl rfl
  · exact h

theorem Canonical.execPreemptionComplete (h : Canonical s) : CanonicalOut (execPreemptionComplete s) := by
  unfold Machine.execPreemptionComplete
  split
  · split
    · exact h
    · dsimp only
      refine (canonical_modCtx _ _).2 ?_
      refine Canonical.emptyCaches ?_ _
      refine Canonical.flushCtx ?_ _
      unfold Canonical
      dsimp only
      refine Canonical.failBeacons ?_ _
      refine Canonical.foldl (fun s x h => ?_) _ ?_
      · split
        · exact h.dropUnmarked _ _
        · exact h
      · exact Canonical.foldl (fun _ _ h => h.dropUniform _ _) _ h
  · exact h

theorem Canonical.restoreOn (h : Canonical s) (c : Nat) (m : List (Nat × Nat)) : Canonical (restoreOn s c m) := by
  unfold Machine.restoreOn
  dsimp only
  refine Canonical.retryRecords ?_ _
  refine Canonical.foldl (fun s x h => ?_) _ ?_
  · exact h.modGang _ _
  · exact h.of_eq rfl rfl

theorem Canonical.execContextRestore (h : Canonical s) : CanonicalOut (execContextRestore s) := by
  unfold Machine.execContextRestore
  split
  · dsimp only
    split
    · exact h
    · split
      · exact h
      · split
        · exact h.contextFault _ _ _
        · split
          · exact h
          · exact h.restoreOn _ _
  · exact h

theorem Canonical.execContextRelease (h : Canonical s) : CanonicalOut (execContextRelease s) := by
  unfold Machine.execContextRelease
  split
  · split
    · exact h.of_eq rfl rfl
    · exact h
  · exact h

theorem Canonical.execPathStarvation (h : Canonical s) : CanonicalOut (execPathStarvation s) := by
  unfold Machine.execPathStarvation
  split
  · split
    · split
      · exact (canonical_setPath _ _).2 h
      · exact h
    · exact h
  · exact h

theorem Canonical.execCommandFaultDelivery (h : Canonical s) : CanonicalOut (execCommandFaultDelivery s) := by
  unfold Machine.execCommandFaultDelivery
  split
  · split
    · exact h
    · split
      · exact h
      · exact (h.modGang _ _).takeTrapAt _ _ _ _
  · exact h

/-! Queues and their packets. -/

theorem Canonical.settleQueue (h : Canonical s) (k : Nat) : Canonical (settleQueue s k) := by
  unfold Machine.settleQueue
  dsimp only
  split
  · exact h.setQueue _ _
  · exact h

theorem Canonical.writeWptr (h : Canonical s) (k v : Nat) : Canonical (writeWptr s k v) := by
  unfold Machine.writeWptr
  dsimp only
  split
  · exact (canonical_setQReg _ _ _).2 h
  · split
    · exact ((canonical_setQReg _ _ _).2 h).queueStop _ _ _ _ _
    · split
      · exact ((canonical_setQReg _ _ _).2 h).setQueue _ _
      · exact ((canonical_setQReg _ _ _).2 h).settleQueue _

theorem Canonical.writeCtl (h : Canonical s) (k v : Nat) : Canonical (writeCtl s k v) := by
  unfold Machine.writeCtl
  dsimp only
  split
  · exact h
  · split
    · split
      · exact ((canonical_setQReg _ _ _).2 ((canonical_setQReg _ _ _).2 ((canonical_setQReg _ _ _).2
        ((canonical_setQReg _ _ _).2 h)))).setQueue _ _
      · exact (canonical_setQReg _ _ _).2 h
    · split
      · exact ((canonical_setQReg _ _ _).2 h).setQueue _ _
      · split
        · exact ((canonical_setQReg _ _ _).2 ((canonical_setQReg _ _ _).2 h)).setQueue _ _
        · exact ((canonical_setQReg _ _ _).2 h).queueStop _ _ _ _ _
    · split
      · exact h
      · exact ((canonical_setQReg _ _ _).2 h).setQueue _ _

theorem Canonical.writeBase (h : Canonical s) (k r v : Nat) : Canonical (writeBase s k r v) := by
  unfold Machine.writeBase
  dsimp only
  split
  · exact (canonical_setQReg _ _ _).2 h
  · exact h

theorem Canonical.writeQueueReg (h : Canonical s) (k r v : Nat) : Canonical (writeQueueReg s k r v) := by
  unfold Machine.writeQueueReg
  split
  · exact h.writeWptr _ _
  · split
    · exact h.writeCtl _ _
    · split
      · exact h.writeBase _ _ _
      · exact h

theorem Canonical.execQwptr (h : Canonical s) : CanonicalOut (execQwptr s) := by
  unfold Machine.execQwptr
  split
  · split
    · exact h.writeWptr _ _
    · exact h
  · exact h

theorem Canonical.execQueueEnable (h : Canonical s) : CanonicalOut (execQueueEnable s) := by
  unfold Machine.execQueueEnable
  split
  · split
    · exact h.writeCtl _ _
    · exact h
  · exact h

theorem Canonical.execQueueDisable (h : Canonical s) : CanonicalOut (execQueueDisable s) := by
  unfold Machine.execQueueDisable
  split
  · split
    · exact h.writeCtl _ _
    · exact h
  · exact h

theorem Canonical.frontRead (h : Canonical s) (k : Nat) : Canonical (frontRead s k).1 := by
  unfold Machine.frontRead
  dsimp only
  split
  · exact h
  · split
    · split
      · exact h.engRead _ _ _ _ _
      · split
        · exact h.engRead _ _ _ _ _
        · split
          · exact h.engRead _ _ _ _ _
          · split
            · split <;> exact (h.engRead _ _ _ _ _).engRead _ _ _ _ _
            · split
              · exact ((h.engRead _ _ _ _ _).engRead _ _ _ _ _).setQueue _ _
              · exact (h.engRead _ _ _ _ _).engRead _ _ _ _ _
              · exact ((h.engRead _ _ _ _ _).engRead _ _ _ _ _).setQueue _ _
              · exact (h.engRead _ _ _ _ _).engRead _ _ _ _ _
    · split
      · exact (h.engRead _ _ _ _ _).setQueue _ _
      · exact h.engRead _ _ _ _ _
      · exact (h.engRead _ _ _ _ _).setQueue _ _
      · exact h.engRead _ _ _ _ _

theorem Canonical.startPacket (h : Canonical s) (k hd : Nat) (b : List Nat) (w : PacketWait) :
    Canonical (startPacket s k hd b w) := h.of_eq rfl rfl

theorem Canonical.holdQueue (h : Canonical s) (k : Nat) (why : Hold) : Canonical (holdQueue s k why) := h.of_eq rfl rfl

theorem Canonical.packetEng (h : Canonical s) (k hd : Nat) (e : Eng) : Canonical (packetEng s k hd e) := by
  unfold Machine.packetEng
  dsimp only
  split
  · exact h.setQueue _ _
  · exact h.queueStop _ _ _ _ _
  · exact h.setQueue _ _
  · exact h

theorem Canonical.endHold (h : Canonical s) (k : Nat) : Canonical (endHold s k) := by
  unfold Machine.endHold
  dsimp only
  split
  · exact h.setQueue _ _
  · exact h

theorem Canonical.packetEvent (h : Canonical s) (mine : Nat → List Nat → Bool) (go : State → Nat → Nat → List Nat → State)
    (hgo : ∀ s x1 x2 x3, Canonical s → Canonical (go s x1 x2 x3)) : CanonicalOut (packetEvent s mine go) := by
  unfold Machine.packetEvent
  split
  · dsimp only
    split
    · exact h.frontRead _
    · exact (h.frontRead _).queueStop _ _ _ _ _
    · split
      · exact h.frontRead _
      · split
        · exact (h.frontRead _).holdQueue _ _
        · split
          · exact (h.frontRead _).holdQueue _ _
          · split
            · exact h.frontRead _
            · exact hgo _ _ _ _ ((h.frontRead _).endHold _)
  · exact h

theorem Canonical.execNop (h : Canonical s) : CanonicalOut (execNop s) :=
  h.packetEvent _ _ (fun _ _ _ _ h => h.startPacket _ _ _ _)

theorem Canonical.execLaunch (h : Canonical s) : CanonicalOut (execLaunch s) := by
  refine h.packetEvent _ _ fun s k hd b h => ?_
  extract_lets c d r
  have hr : Canonical r.1 := h.checkLaunch _ _ _ _
  split
  · exact h.holdQueue _ _
  · split
    · exact hr.packetEng _ _ _
    · exact hr.queueStop _ _ _ _ _
    · refine Canonical.startPacket (Canonical.addLaunch ?_ _) _ _ _ _
      exact hr.of_eq rfl rfl

theorem Canonical.execFrame (h : Canonical s) : CanonicalOut (execFrame s) := by
  unfold Machine.execFrame
  refine h.packetEvent _ _ (fun s k h b h => ?_)
  dsimp only
  refine Canonical.startPacket ?_ _ _ _ _
  split
  · exact h.rasteriseFrame _ _ _
  · exact h

theorem Canonical.openFrame (h : Canonical s) (k : Nat) (x : Packet) : Canonical (openFrame s k x) := by
  unfold Machine.openFrame
  dsimp only
  refine Canonical.setQueue ?_ _ _
  unfold Canonical
  dsimp only
  refine Canonical.freshId ?_
  split
  · exact h.of_eq rfl rfl
  · exact h

theorem Canonical.releaseAll (h : Canonical s) (c scope : Nat) : Canonical (releaseAll s c scope) :=
  Canonical.foldl (fun _ _ h => h.releaseCore _ _) _ h

theorem Canonical.acquireAll (h : Canonical s) (c scope : Nat) : Canonical (acquireAll s c scope) :=
  Canonical.foldl (fun _ _ h => h.acquire _ _ _) _ h

theorem Canonical.peerWord (h : Canonical s) (k pa va : Nat) (ask : PeerOp) : Canonical (peerWord s k pa va ask).1 := by
  unfold Machine.peerWord
  split
  · exact h.setQueue _ _
  · split
    · exact (canonical_countFailedAccess).2 h
    · exact (canonical_sendPeer _).2 h

theorem Canonical.peerCopy (h : Canonical s) (pa : Nat) (bytes : List Nat) : Canonical (peerCopy s pa bytes) := by
  unfold Machine.peerCopy
  split
  · exact h.memPut _ _
  · exact h

theorem Canonical.frontWrite (h : Canonical s) (k a : Nat) (bytes : List Nat) : Canonical (frontWrite s k a bytes).1 := by
  unfold Machine.frontWrite
  dsimp only
  split
  · exact h.engCheckAll _ _ _ _
  · split
    · dsimp only
      split
      · exact (((h.engCheckAll _ _ _ _).peerWord _ _ _ _).commitParts _ _ _ _).peerCopy _ _
      · exact (h.engCheckAll _ _ _ _).peerWord _ _ _ _
    · exact ((h.engCheckAll _ _ _ _).commitParts _ _ _ _).writeParts _ _ _ _ _

theorem Canonical.frontWord (h : Canonical s) (k a : Nat) : Canonical (frontWord s k a).1 := by
  unfold Machine.frontWord
  dsimp only
  split
  · exact h.engTranslate _ _ _ _ _
  · split
    · exact (h.engTranslate _ _ _ _ _).peerWord _ _ _ _
    · exact (h.engTranslate _ _ _ _ _).readParts _ _ _ _

theorem Canonical.frontAdd (h : Canonical s) (k a v : Nat) : Canonical (frontAdd s k a v).1 := by
  unfold Machine.frontAdd
  dsimp only
  split
  · exact h.engCheckAll _ _ _ _
  · split
    · dsimp only
      split
      · exact (((h.engCheckAll _ _ _ _).peerWord _ _ _ _).commitParts _ _ _ _).peerCopy _ _
      · exact (h.engCheckAll _ _ _ _).peerWord _ _ _ _
    · split
      · exact (h.engCheckAll _ _ _ _).readFault _
      · exact (((h.engCheckAll _ _ _ _).commitParts _ _ _ _).readParts _ _ _ _).writeParts _ _ _ _ _

theorem Canonical.startAfter {r : State × Eng} (h : Canonical r.1) (k hd : Nat) (b : List Nat) : Canonical (startAfter r k hd b) := by
  unfold Machine.startAfter
  split
  · exact h.startPacket _ _ _ _
  · exact h.packetEng _ _ _

theorem Canonical.signalPacket (h : Canonical s) {act : State → Nat → Nat → Nat → State × Eng} (k hd : Nat) (b : List Nat)
    (hact : ∀ s k a n, Canonical s → Canonical (act s k a n).1) : Canonical (signalPacket act s k hd b) := by
  unfold Machine.signalPacket
  dsimp only
  split
  · exact h
  · exact (hact _ _ _ _ (h.releaseAll _ _)).startAfter _ _ _

theorem Canonical.execSignalWrite (h : Canonical s) : CanonicalOut (execSignalWrite s) :=
  h.packetEvent _ _ fun _ _ _ _ h => h.signalPacket _ _ _ fun _ _ _ _ h => h.frontWrite _ _ _

theorem Canonical.execSignalAdd (h : Canonical s) : CanonicalOut (execSignalAdd s) :=
  h.packetEvent _ _ fun _ _ _ _ h => h.signalPacket _ _ _ fun _ _ _ _ h => h.frontAdd _ _ _

theorem Canonical.execWaitv (h : Canonical s) : CanonicalOut (execWaitv s) := by
  unfold Machine.execWaitv
  refine h.packetEvent _ _ (fun s k h b h => ?_)
  dsimp only
  split
  · split
    · exact ((h.frontWord _ _).acquireAll _ _).startPacket _ _ _ _
    · exact (h.frontWord _ _).startPacket _ _ _ _
  · exact (h.frontWord _ _).packetEng _ _ _

theorem Canonical.modPacket (h : Canonical s) (k seq : Nat) (f : Packet → Packet) : Canonical (modPacket s k seq f) := h.of_eq rfl rfl

theorem Canonical.recheckWaitv (h : Canonical s) (k : Nat) (ok : Nat → Bool) : Canonical (recheckWaitv s k ok) := by
  unfold Machine.recheckWaitv
  dsimp only
  split
  · exact h
  · split
    · exact h
    · split
      · split
        · exact (((h.frontWord _ _).acquireAll _ _).modPacket _ _ _).setQueue _ _
        · exact h.frontWord _ _
      · exact (h.frontWord _ _).accessStop _ _ _ _
      · exact (h.frontWord _ _).setQueue _ _
      · exact (h.frontWord _ _).setQueue _ _

theorem Canonical.execWaitvRecheck (h : Canonical s) : CanonicalOut (execWaitvRecheck s) := by
  unfold Machine.execWaitvRecheck
  split
  · exact h.recheckWaitv _ _
  · exact h

theorem Canonical.execWaitvPollTimer (h : Canonical s) : CanonicalOut (execWaitvPollTimer s) := by
  unfold Machine.execWaitvPollTimer
  split
  · exact h.recheckWaitv _ _
  · exact h

theorem Canonical.execFencePacket (h : Canonical s) : CanonicalOut (execFencePacket s) := by
  unfold Machine.execFencePacket
  refine h.packetEvent _ _ (fun s k h b h => ?_)
  dsimp only
  split
  · exact h
  · exact ((canonical_roDrop _).2 ((h.releaseAll _ _).acquireAll _ _)).startPacket _ _ _ _

theorem Canonical.settlePacketTarget (h : Canonical s) (k hd : Nat) (b : List Nat) (r : TgtRes) (w : PacketWait) :
    Canonical (settlePacketTarget s k hd b r w) := by
  unfold Machine.settlePacketTarget
  split
  · exact h.startPacket _ _ _ _
  · exact h.packetEng _ _ _
  · exact h.queueStop _ _ _ _ _

theorem Canonical.execTgtCreate (h : Canonical s) : CanonicalOut (execTgtCreate s) :=
  h.packetEvent _ _ (fun _ _ _ _ h => (h.moveTarget _ _ _ _ _ _ _).settlePacketTarget _ _ _ _ _)

theorem Canonical.execTgtOpen (h : Canonical s) : CanonicalOut (execTgtOpen s) :=
  h.packetEvent _ _ (fun _ _ _ _ h => (h.openTarget _ _ _ _ _).settlePacketTarget _ _ _ _ _)

theorem Canonical.execTgtSeal (h : Canonical s) : CanonicalOut (execTgtSeal s) :=
  h.packetEvent _ _ (fun _ _ _ _ h => (h.sealTarget _ _ _ _ _ _).settlePacketTarget _ _ _ _ _)

theorem Canonical.execTgtRelease (h : Canonical s) : CanonicalOut (execTgtRelease s) :=
  h.packetEvent _ _ (fun _ _ _ _ h => (h.moveTarget _ _ _ _ _ _ _).settlePacketTarget _ _ _ _ _)

theorem Canonical.copyToStore (h : Canonical s) (c id n k a : Nat) : Canonical (copyToStore s c id n k a).1 := by
  induction n generalizing s k a with
  | zero => exact h
  | succ n ih =>
    unfold Machine.copyToStore
    dsimp only
    split
    · exact ih ((h.engRead _ _ _ _ _).memPut _ _) _ _
    · exact h.engRead _ _ _ _ _

theorem Canonical.runWstore (h : Canonical s) (k : Nat) (x : Packet) (n : Nat) : Canonical (runWstore s k x n) := by
  unfold Machine.runWstore
  dsimp only
  split
  · exact (h.copyToStore _ _ _ _ _).modPacket _ _ _
  · exact ((h.copyToStore _ _ _ _ _).modPacket _ _ _).setQueue _ _
  · exact ((h.copyToStore _ _ _ _ _).modPacket _ _ _).setQueue _ _
  · exact (h.copyToStore _ _ _ _ _).accessStop _ _ _ _

theorem Canonical.execWstore (h : Canonical s) : CanonicalOut (execWstore s) := by
  unfold Machine.execWstore
  refine h.packetEvent _ _ (fun s k h b h => ?_)
  dsimp only
  split
  · exact h.queueStop _ _ _ _ _
  · split
    · exact h.holdQueue _ _
    · exact (h.startPacket _ _ _ _).runWstore _ _ _

theorem Canonical.execMark (h : Canonical s) : CanonicalOut (execMark s) :=
  h.packetEvent _ _ fun _ _ _ _ h => (h.frontWrite _ _ _).startAfter _ _ _

theorem Canonical.execWrap (h : Canonical s) : CanonicalOut (execWrap s) :=
  h.packetEvent _ _ (fun _ _ _ _ h => h.startPacket _ _ _ _)

theorem Canonical.execPacketComplete (h : Canonical s) : CanonicalOut (execPacketComplete s) := by
  unfold Machine.execPacketComplete
  split
  · split
    · exact h
    · split
      · split
        · exact h
        · exact h.runWstore _ _ _
      · split
        · exact h
        · exact h.openFrame _ _
      · split
        · exact h
        · dsimp only
          split <;> exact ((h.setQueue _ _).settleQueue _).of_eq rfl rfl
  · exact h

/-! Events of the package. -/

theorem Canonical.modPkg (h : Canonical s) (f : Package → Package) : Canonical (modPkg s f) := h.of_eq rfl rfl

theorem Canonical.goSafe (h : Canonical s) (stage die unit : Nat) : Canonical (goSafe s stage die unit) := h.of_eq rfl rfl

theorem Canonical.execSupplyGood (h : Canonical s) : CanonicalOut (execSupplyGood s) := by
  unfold Machine.execSupplyGood
  split
  · exact h.modPkg _
  · exact h

theorem Canonical.loadImage (h : Canonical s) (slot : Nat) (b : List Nat) : Canonical (loadImage s slot b) := h.of_eq rfl rfl

theorem Canonical.execBootRomPass (h : Canonical s) : CanonicalOut (execBootRomPass s) := by
  unfold Machine.execBootRomPass
  split
  · exact h
  · split
    · exact h.loadImage _ _
    · exact h.goSafe _ _ _

theorem Canonical.execImageInitialised (h : Canonical s) : CanonicalOut (execImageInitialised s) := by
  unfold Machine.execImageInitialised
  split
  · exact h.modPkg _
  · exact h

theorem Canonical.execTrainingComplete (h : Canonical s) : CanonicalOut (execTrainingComplete s) := by
  unfold Machine.execTrainingComplete
  split
  · split
    · exact h
    · split
      · exact h.goSafe _ _ _
      · exact h.goSafe _ _ _
      · exact h.modPkg _
  · exact h

theorem Canonical.clearStores (h : Canonical s) : Canonical (clearStores s) := ⟨Memory.wf_filter _ _ h.1, h.2⟩

theorem Canonical.execSelftestComplete (h : Canonical s) : CanonicalOut (execSelftestComplete s) := by
  unfold Machine.execSelftestComplete
  split
  · split
    · exact h
    · split
      · exact h.goSafe _ _ _
      · exact h.clearStores.modPkg _
  · exact h

theorem Canonical.packageFails (h : Canonical s) (die unit : Nat) : Canonical (packageFails s die unit) := by
  unfold Machine.packageFails
  split
  · exact h
  · refine Canonical.raiseError ?_
    refine Canonical.modPkg ?_ _
    refine Canonical.goSafe ?_ _ _ _
    exact Canonical.foldl (fun _ _ h => h.machineCheckContext _) _ h

theorem Canonical.execPackageMachineCheck (h : Canonical s) : CanonicalOut (execPackageMachineCheck s) := by
  unfold Machine.execPackageMachineCheck
  split
  · split
    · exact h.packageFails _ _
    · split
      · exact h.packageFails _ _
      · exact h
  · exact h

theorem Canonical.execDieLinkFailure (h : Canonical s) : CanonicalOut (execDieLinkFailure s) := by
  unfold Machine.execDieLinkFailure
  split
  · split
    · exact h
    · dsimp only
      exact (h.packageFails _ _).of_eq rfl rfl
  · exact h

theorem Canonical.restartRom (h : Canonical s) : Canonical (restartRom s) := by
  unfold Machine.restartRom
  split
  · dsimp only
    refine Canonical.modPkg ?_ _
    exact (Canonical.foldl (fun _ _ h => h.destroyContext _) _ h).of_eq rfl rfl
  · exact h

theorem Canonical.execPfFunctionLevelReset (h : Canonical s) : CanonicalOut (execPfFunctionLevelReset s) := by
  unfold Machine.execPfFunctionLevelReset
  split
  · refine Canonical.restartRom ?_
    exact h.of_eq rfl rfl
  · exact h

/-- Of memory only the host's stays (R22); the scratchpads are as at reset. -/
theorem Canonical.execSupplyLost (h : Canonical s) : CanonicalOut (execSupplyLost s) := ⟨Memory.wf_filter _ _ h.1, reset_canonical.2⟩

theorem Canonical.countDroop (h : Canonical s) (cluster : Nat) (f : Nat → Nat) : Canonical (countDroop s cluster f) := by
  unfold Machine.countDroop
  dsimp only
  refine Canonical.foldl (fun s x h => ?_) _ h
  split
  · exact h.setCtxReg _ _ _
  · exact h

theorem Canonical.execDroopTrip (h : Canonical s) : CanonicalOut (execDroopTrip s) := by
  unfold Machine.execDroopTrip
  split
  · dsimp only
    refine Canonical.countDroop ?_ _ _
    exact h.of_eq rfl rfl
  · exact h

theorem Canonical.execDroopRecovery (h : Canonical s) : CanonicalOut (execDroopRecovery s) := by
  unfold Machine.execDroopRecovery
  split
  · split
    · exact h
    · split
      · refine Canonical.countDroop ?_ _ _
        exact h.of_eq rfl rfl
      · exact h.of_eq rfl rfl
  · exact h

theorem Canonical.dropFetched (h : Canonical s) (e : ErrorPlace) : Canonical (dropFetched s e) := by
  unfold Machine.dropFetched
  split
  · exact h.of_eq rfl rfl
  · exact h

theorem Canonical.execSoftError (h : Canonical s) : CanonicalOut (execSoftError s) := by
  unfold Machine.execSoftError
  split
  · dsimp only
    split
    · split
      · split
        · exact h.of_eq rfl rfl
        · exact h
      · split
        · exact (h.dropFetched _).of_eq rfl rfl
        · exact (h.dropFetched _).modPkg _
    · split
      · exact h
      · exact (h.dropFetched _).modPkg _
  · exact h

theorem Canonical.scrubBank (h : Canonical s) (die : Nat) : Canonical (scrubBank s die) := by
  unfold Machine.scrubBank
  dsimp only
  split
  · exact h.of_eq rfl rfl
  · exact h

theorem Canonical.execWsphaseAdvance (h : Canonical s) : CanonicalOut (execWsphaseAdvance s) := by
  unfold Machine.execWsphaseAdvance
  split
  · extract_lets s1
    have h1 : Canonical s1 := by
      refine Canonical.scrubBank ?_ _
      exact h.of_eq rfl rfl
    clear_value s1
    exact h1.of_eq rfl rfl
  · exact h

theorem Canonical.setMb (h : Canonical s) (fn r x : Nat) : Canonical (setMb s fn r x) := h.of_eq rfl rfl

theorem Canonical.finishMail (h : Canonical s) (fn status : Nat) (results : List (Nat × Nat)) :
    Canonical (finishMail s fn status results) := by
  unfold Machine.finishMail
  dsimp only
  refine Canonical.raiseVector ?_ _ _ _
  refine Canonical.setMb ?_ _ _ _
  split <;> exact h.of_eq rfl rfl

theorem Canonical.latchMail (h : Canonical s) (fn v : Nat) : Canonical (latchMail s fn v) := h.of_eq rfl rfl

theorem Canonical.writeMail (h : Canonical s) (fn r v : Nat) : Canonical (writeMail s fn r v) := by
  unfold Machine.writeMail
  split
  · split
    · exact h
    · dsimp only
      split
      · exact ((h.latchMail _ _).setMb _ _ _).setMb _ _ _
      · exact (((h.latchMail _ _).setMb _ _ _).setMb _ _ _).finishMail _ _ _
  · split
    · exact h.setMb _ _ _
    · exact h

theorem Canonical.maskVector (h : Canonical s) (fn vec : Nat) (on : Bool) : Canonical (maskVector s fn vec on) := by
  unfold Machine.maskVector
  dsimp only
  split
  · exact h.of_eq rfl rfl
  · split
    · exact h.of_eq rfl rfl
    · exact h

theorem Canonical.tableWrite (h : Canonical s) (fn place v : Nat) : Canonical (tableWrite s fn place v) := by
  unfold Machine.tableWrite
  dsimp only
  split
  · refine Canonical.maskVector ?_ _ _ _
    exact h.of_eq rfl rfl
  · exact h.of_eq rfl rfl

theorem Canonical.execRegisterWrite (h : Canonical s) : CanonicalOut (execRegisterWrite s) := by
  unfold Machine.execRegisterWrite
  split
  · dsimp only
    split
    · exact h
    · split
      · exact h.writeQueueReg _ _ _
      · exact h.tableWrite _ _ _
      · split
        · exact h.writeMail _ _ _
        · exact h
  · exact h

theorem Canonical.mailCommand (h : Canonical s) (code : Nat) (run : State → Nat → Nat → State × Nat × List (Nat × Nat))
    (hrun : ∀ s x1 x2, Canonical s → Canonical (run s x1 x2).1) : CanonicalOut (mailCommand s code run) := by
  unfold Machine.mailCommand
  split
  · dsimp only
    split
    · exact h
    · split
      · exact h.finishMail _ _ _
      · split
        · exact h.finishMail _ _ _
        · refine Canonical.finishMail ?_ _ _ _
          split
          · exact hrun _ _ _ h
          · exact h
  · exact h

theorem Canonical.execLog (h : Canonical s) : CanonicalOut (execLog s) := by
  unfold Machine.execLog
  refine h.mailCommand _ _ (fun s fn x h => ?_)
  dsimp only
  split <;> exact h

theorem Canonical.execRetry (h : Canonical s) : CanonicalOut (execRetry s) :=
  h.mailCommand _ _ (fun _ _ _ h => h.restartRom)

theorem Canonical.execImage (h : Canonical s) : CanonicalOut (execImage s) := by
  unfold Machine.execImage
  refine h.mailCommand _ _ (fun s fn x h => ?_)
  dsimp only
  split
  · exact h
  · exact h.modPkg _

theorem Canonical.execPartcfg (h : Canonical s) : CanonicalOut (execPartcfg s) := by
  unfold Machine.execPartcfg
  refine h.mailCommand _ _ (fun s fn x h => ?_)
  dsimp only
  split
  · exact h
  · split
    · exact h
    · split <;> exact h.of_eq rfl rfl

theorem Canonical.execReplcfg (h : Canonical s) : CanonicalOut (execReplcfg s) := by
  unfold Machine.execReplcfg
  refine h.mailCommand _ _ (fun s fn x h => ?_)
  dsimp only
  split
  · split
    · exact h
    · exact h.of_eq rfl rfl
  · exact h

theorem Canonical.execCreate (h : Canonical s) : CanonicalOut (execCreate s) := by
  unfold Machine.execCreate
  refine h.mailCommand _ _ (fun s fn c h => ?_)
  dsimp only
  split
  · exact h
  · split
    · exact h
    · split
      · exact h.of_eq rfl rfl
      · exact h

theorem Canonical.execPreempt (h : Canonical s) : CanonicalOut (execPreempt s) := by
  unfold Machine.execPreempt
  refine h.mailCommand _ _ (fun s x c h => ?_)
  split
  · exact h.startPreempt _
  · exact h

theorem Canonical.execReset (h : Canonical s) : CanonicalOut (execReset s) := by
  unfold Machine.execReset
  refine h.mailCommand _ _ (fun s x c h => ?_)
  dsimp only
  split
  · exact h.resetContext _
  · exact h

theorem Canonical.execDestroy (h : Canonical s) : CanonicalOut (execDestroy s) := by
  unfold Machine.execDestroy
  refine h.mailCommand _ _ (fun s x c h => ?_)
  dsimp only
  split
  · exact h
  · exact h.destroyContext _

theorem Canonical.execQuery (h : Canonical s) : CanonicalOut (execQuery s) :=
  h.mailCommand _ _ (fun _ _ _ h => h)

theorem Canonical.execWrreg (h : Canonical s) : CanonicalOut (execWrreg s) := by
  unfold Machine.execWrreg
  refine h.mailCommand _ _ (fun s fn c h => ?_)
  dsimp only
  split
  · exact h
  · split
    · exact h
    · split
      · exact h.writeCtxCsr _ _ _
      · exact h

theorem Canonical.execKeyload (h : Canonical s) : CanonicalOut (execKeyload s) := by
  unfold Machine.execKeyload
  refine h.mailCommand _ _ (fun s fn x h => ?_)
  dsimp only
  split
  · exact h
  · exact h.of_eq rfl rfl

theorem Canonical.execKeyclr (h : Canonical s) : CanonicalOut (execKeyclr s) := by
  unfold Machine.execKeyclr
  refine h.mailCommand _ _ (fun s fn x h => ?_)
  dsimp only
  split
  · exact h
  · split <;> exact h.of_eq rfl rfl

theorem Canonical.execPolicy (h : Canonical s) : CanonicalOut (execPolicy s) := by
  unfold Machine.execPolicy
  refine h.mailCommand _ _ (fun s fn c h => ?_)
  dsimp only
  split
  · exact h
  · split
    · exact h
    · exact (canonical_modCtx _ _).2 h

theorem Canonical.execServe (h : Canonical s) : CanonicalOut (execServe s) := by
  unfold Machine.execServe
  refine h.mailCommand _ _ (fun s fn c h => ?_)
  dsimp only
  split
  · exact h
  · split
    · exact h
    · split
      · exact h
      · exact h.of_eq rfl rfl

theorem Canonical.execVfFunctionLevelReset (h : Canonical s) : CanonicalOut (execVfFunctionLevelReset s) := by
  unfold Machine.execVfFunctionLevelReset
  split
  · extract_lets cs s1
    have h1 : Canonical s1 := Canonical.foldl (fun _ _ h => (h.destroyContext _).clearQueues _) _ h
    clear_value s1
    exact h1.of_eq rfl rfl
  · exact h

theorem Canonical.execMsixUnmask (h : Canonical s) : CanonicalOut (execMsixUnmask s) := by
  unfold Machine.execMsixUnmask
  split
  · exact h.maskVector _ _ _
  · exact h

/-! Sampling. -/

theorem Canonical.checkTexels (h : Canonical s) (q : Path) (n : Nat) (xs : List (Nat × Nat)) : Canonical (checkTexels q n xs s).1 := by
  induction xs generalizing s with
  | nil => exact h
  | cons x xs ih =>
    unfold Machine.checkTexels
    dsimp only
    split
    · exact ih (h.laneCheckBy _ _ _ _ _ _ _)
    · exact h.laneCheckBy _ _ _ _ _ _ _

theorem Canonical.texelLines (h : Canonical s) (q : Path) (ts : List (Nat × Nat)) : Canonical (texelLines q ts s).1 := by
  refine Canonical.foldl_fst (fun acc x h => ?_) _ ?_
  · split
    · split
      · exact h
      · dsimp only
        exact h.roRead _ _ _ _ _
    · exact h
  · exact h

theorem Canonical.sampleForm (h : Canonical s) (i : Instr) (g la dst : Nat)
    (texels : State → Path → TargetDesc → Nat → Nat → List (Nat × Nat)) (value : TargetDesc → Nat → List (Nat × Nat) → List Nat) :
    CanonicalOut (sampleForm i g la dst texels value s) := by
  unfold Machine.sampleForm
  refine canonicalOut_onPath fun p q => h.withTarget _ _ _ _ _ _ fun a => ?_
  extract_lets pl e
  have he : Canonical e.1 := h.engRead _ _ _ _ _
  split
  · extract_lets d n lanes ck miss good passed rd res f o
    split
    · exact he.trapAll _ _ _ _ _ _
    · have hck : Canonical ck.1 := by
        unfold ck
        refine Canonical.foldl_fst (fun _ _ h => ?_) _ he
        exact h.checkTexels _ _ _
      split
      · exact hck.waitAt _ _ _ _
      · split
        · exact hck.waitAt _ _ _ _
        · split
          · exact (hck.askPeerLine _ _ _ _ _ _).waitAt _ _ _ _
          · have hrd : Canonical rd.1 := hck.texelLines _ _
            refine Canonical.settleLanes ?_ _ _ _ _
            split
            · exact hrd
            · exact hrd.freshId.putOp _ _
  · exact he.pathEng _ _ _ _

theorem Canonical.execSmp (h : Canonical s) (v g l k wr : Nat) : CanonicalOut (execSmp v g l k wr s) :=
  h.sampleForm _ _ _ _ _ _

theorem Canonical.execSmpl (h : Canonical s) (v g l k : Nat) : CanonicalOut (execSmpl v g l k s) :=
  h.sampleForm _ _ _ _ _ _

/-! Graphics stages. -/

theorem Canonical.doPut (h : Canonical s) (p : Nat) (q : Path) (w : Workgroup) (v : Nat) : Canonical (doPut s p q w v) := by
  unfold Machine.doPut
  split
  · exact h
  · exact ((h.releaseCore _ _).modWg _ _).advance _ _ _

theorem Canonical.execSqput (h : Canonical s) (v : Nat) : CanonicalOut (execSqput v s) := by
  unfold Machine.execSqput
  refine canonicalOut_onPath fun p q => ?_
  split
  · exact h
  · split
    · exact h.trapAll _ _ _ _ _ _
    · split
      · exact h.trapAll _ _ _ _ _ _
      · split
        · exact h.doPut _ _ _ _
        · exact h.waitAt _ _ _ _

theorem Canonical.execSqputResume (h : Canonical s) : CanonicalOut (execSqputResume s) := by
  unfold Machine.execSqputResume
  split
  · split
    · split
      · split
        · exact h
        · split
          · exact h.trapAll _ _ _ _ _ _
          · split
            · exact h.doPut _ _ _ _
            · exact h
      · exact h
    · exact h
  · exact h

theorem Canonical.doGet (h : Canonical s) (p : Nat) (q : Path) (w : Workgroup) (v g pd : Nat) : Canonical (doGet s p q w v g pd) :=
  (((((h.acquire _ _ _).modWg _ _).setVs _ _).setPs _ _ _).setG _ _ _).advance _ _ _

theorem Canonical.execSqget (h : Canonical s) (v g pd : Nat) : CanonicalOut (execSqget v g pd s) := by
  unfold Machine.execSqget
  refine canonicalOut_onPath fun p q => ?_
  split
  · exact h
  · split
    · exact h.trapAll _ _ _ _ _ _
    · split
      · exact h.doGet _ _ _ _ _ _
      · exact (h.modWg _ _).waitAt _ _ _ _

theorem Canonical.execSqgetResume (h : Canonical s) : CanonicalOut (execSqgetResume s) := by
  unfold Machine.execSqgetResume
  split
  · split
    · split
      · split
        · exact h.doGet _ _ _ _ _ _
        · exact h
      · exact h
    · exact h
  · exact h

theorem Canonical.execSqend (h : Canonical s) : CanonicalOut (execSqend s) := by
  unfold Machine.execSqend
  refine canonicalOut_onPath fun p q => ?_
  split
  · exact h
  · split
    · exact h.trapAll _ _ _ _ _ _
    · split
      · exact h.waitAt _ _ _ _
      · dsimp only
        refine Canonical.advance ?_ _ _ _
        split
        · exact ((h.releaseCore _ _).modGang _ _).modWg _ _
        · exact (h.releaseCore _ _).modGang _ _

/-! The transform pipe. -/

theorem Canonical.xpipeStart (h : Canonical s) (p : Nat) (q : Path) (i : Instr) (la : Nat) (ws : List (Nat × Nat × Nat)) (flags : Nat) :
    Canonical (xpipeStart s p q i la ws flags) := h.of_eq rfl rfl

theorem Canonical.xmathForm (h : Canonical s) (i : Instr) (d a la : Nat) (f : Nat → Nat × Nat) : CanonicalOut (xmathForm i d a la f s) :=
  canonicalOut_onPath fun _ _ => h.xpipeStart _ _ _ _ _ _

theorem Canonical.xqForm (h : Canonical s) (i : Instr) (v g la x : Nat) (col : Bool) : CanonicalOut (xqForm i v g la x col s) := by
  unfold Machine.xqForm
  refine canonicalOut_onPath fun p q => ?_
  split
  · exact h.trapAll _ _ _ _ _ _
  · exact h.xpipeStart _ _ _ _ _ _

theorem Canonical.execXpipeWriteback (h : Canonical s) : CanonicalOut (execXpipeWriteback s) := by
  unfold Machine.execXpipeWriteback
  split
  · split
    · split
      · exact h
      · exact h.of_eq rfl rfl
    · exact h
  · exact h

/-! Every instruction, and every event. -/

theorem Canonical.exec (h : Canonical s) (i : Instr) : CanonicalOut (exec i s) := by
  cases i with
  | iadd | isub | imul | imulh | imulhu | imin | imax | iminu | imaxu | iaddsat | and | or | xor | andn | shl | shr | sar | rotl | popc
    | clz | ctz | brev | bswap | bfe | bfeu | bfi | iaddi | andi | ori | xori | shli | shri | sari | rotli | movi | movhi | sel | imad
    | lit | fneg | fabs | fcpys | shflidx | shflup | shfldn | shflxor | shflidxi | shflupi | shfldni | shflxori | redadd | redmin | redmax
    | ballot | bcast | bcasthi => exact h.laneForm _ _ _
  | iadd64 | isub64 | shl64 | shr64 => exact h.pairForm _ _
  | icmpI32 | icmpN32 | icmpI64 | icmpN64 | pand | por | pxor | pandn | voteany | voteall => exact h.predForm _ _
  | fcmpF32 | fcmpF64 | fcmpF16 => exact h.flagPredForm _ _
  | fadd | fsub | fmul | fmac | fmin | fmax | frnd | fma | fms | fnma | hadd2 | hmul2 | hfma2 | hmin2 | hmax2 | badd2 | bmul2 | bfma2
    | cvtF32I32 | cvtF32N32 | cvtI32F32 | cvtN32F32 | cvtF16F32 | cvtF32F16 | cvtBf16F32 | cvtF32Bf16 | cvtF32F64 | cvtE4m3x2F32
    | cvtE5m2x2F32 | cvtF32E4m3 | cvtF32E5m2 | redaddf => exact h.flagForm _ _ _
  | dadd | dsub | dmul | dfma | dmin | dmax | cvtF64F32 | cvtF64I64 | cvtI64F64 => exact h.flagPairForm _ _
  | frcp | frsq | fsqrt | fexp2 | flog2 | fsin | fcos => exact h.xmathForm _ _ _ _ _
  | xqrow | xqcol => exact h.xqForm _ _ _ _ _ _
  | xtrans | xsig => exact canonicalOut_onPath fun _ _ => h.xpipeStart _ _ _ _ _ _
  | uadd | usub | umul | uand | uor | uxor | ushl | ushr | usar | umin | umax | uslt | usltn | useq | umovi | ulit | ulithi | rdlane =>
    exact h.uniForm _ _ _
  | movsr => exact h.execMovsr _ _
  | uld => exact h.execUld _ _ _ _
  | brc => exact canonicalOut_onPath fun _ _ => h.splitPath _ _ _ _ _
  | ubrc => exact h.execUbrc _ _ _
  | call => exact h.execCall _
  | jmp => exact h.execJmp _
  | jset => exact h.execJset _
  | reorder => exact h.execReorder _ _ _ _
  | trap | brk => exact canonicalOut_onPath fun _ _ => h.trapAll _ _ _ _ _ _
  | trapret => exact h.execTrapret _
  | csrrd => exact h.execCsrrd _ _
  | csrwr => exact h.execCsrwr _ _
  | tlbinvPage => exact h.execTlbinvPage _
  | ldw => exact h.execLdw _ _ _ _ _
  | ldd => exact h.execLdd _ _ _ _ _
  | ldq => exact h.execLdq _ _ _ _ _
  | ldbn => exact h.execLdbn _ _ _ _
  | ldbs => exact h.execLdbs _ _ _ _
  | ldhn => exact h.execLdhn _ _ _ _
  | ldhs => exact h.execLdhs _ _ _ _
  | stw => exact h.execStw _ _ _ _
  | std => exact h.execStd _ _ _ _
  | stq => exact h.execStq _ _ _ _
  | stb => exact h.execStb _ _ _
  | sth => exact h.execSth _ _ _
  | lds => exact h.execLds _ _ _ _ _
  | sts => exact h.execSts _ _ _ _
  | atom => exact h.execAtom _ _ _ _ _ _ _ _ _ _ _
  | atoms => exact h.execAtoms _ _ _ _ _ _ _ _ _
  | fence => exact h.execFence _ _
  | fencex => exact h.execFencex _ _ _
  | cflush => exact h.execCflush _ _ _
  | pref => exact h.execPref _ _ _
  | waitc => exact h.execWaitc _ _ _ _ _ _
  | bararr => exact canonicalOut_onPath fun _ _ => h.formWait _ _ _
  | barwait => exact canonicalOut_onPath fun _ _ => h.afterLoads _ _ _ _ (h.waitBarrier _ _ _ _ _ _)
  | barsync => exact h.execBarsync _ _ _
  | barqry | bdget => exact canonicalOut_onPath fun _ _ => (h.setG _ _ _).advance _ _ _
  | batch => exact h.execBatch _
  | waitb => exact h.execWaitb _ _ _
  | sqput => exact h.execSqput _
  | sqget => exact h.execSqget _ _ _
  | cpyt | cpyg | cpys => exact canonicalOut_onPath fun _ _ => h.copyChecks _ _ _ _ _ _ _ (fun _ _ h => h.copyTo _ _ _ _ _ _)
  | cpyq => exact h.execCpyq _ _ _ _ _
  | cpyz | cpyx => exact canonicalOut_onPath fun _ _ => h.streamCopy _ _ _ _ _ _ _ _
  | mma => exact h.execMma _ _ _ _ _ _ _ _
  | mjob => exact h.execMjob _ _ _ _ _
  | accz | stepbeg | stepend => exact canonicalOut_onPath fun _ _ => h.engineIssue _ _ _ _ _
  | accadd => exact h.execAccadd _ _ _
  | accrd => exact h.execAccrd _ _ _ _
  | accwr => exact h.execAccwr _ _ _
  | drain => exact h.execDrain _ _ _ _ _ _ _ _ _
  | bdset => exact h.execBdset _ _
  | mdset => exact h.execMdset _ _
  | ttcon | ttprog => exact canonicalOut_onPath fun _ _ => h.chainIssue _ _ _ _ _ _ _
  | skiprd => exact h.execSkiprd _ _
  | skipwr => exact h.execSkipwr _ _
  | prim => exact h.execPrim _ _ _ _
  | post => exact h.execPost _ _ _
  | kill => exact h.execKill _
  | zprobe => exact h.execZprobe _ _ _
  | tgtopen => exact canonicalOut_onPath fun _ _ => h.withTarget _ _ _ _ _ _ (fun _ => (h.openTarget _ _ _ _ _).settleTarget _ _ _ _ _)
  | tgtseal => exact canonicalOut_onPath fun _ _ => h.withTarget _ _ _ _ _ _ (fun _ => (h.sealTarget _ _ _ _ _ _).settleTarget _ _ _ _ _)
  | tgtwait => exact canonicalOut_onPath fun _ _ => h.afterLoads _ _ _ _ (h.withTarget _ _ _ _ _ _ (fun _ => h.doTgtwait _ _ _ _ _))
  | smp => exact h.execSmp _ _ _ _ _
  | smpl => exact h.execSmpl _ _ _ _
  | raysub => exact h.execRaysub _ _ _
  | rayget => exact h.execRayget _ _ _
  | mbxget => exact h.execMbxget _ _ _
  | nodeld => exact h.execNodeld _ _ _
  | boxt => exact h.execBoxt _ _
  | trit => exact h.execTrit _ _
  | rpush => exact h.execRpush _ _
  | rpop => exact h.execRpop _ _ _
  | rsave => exact h.execRsave _ _
  | rload => exact h.execRload _ _
  | rcommit => exact canonicalOut_onPath fun _ _ => (h.foldLanes _ _ (fun _ _ h => h.commitLane _ _ _ _)).settleLanes _ _ _ _
  | rdone => exact h.execRdone _
  | nodepub => exact h.execNodepub _ _
  | nopC => exact canonicalOut_onPath fun _ _ => h.advance _ _ _
  | join => exact h.execJoin
  | regang => exact h.execRegang
  | exit => exact h.execExit
  | yield => exact canonicalOut_onPath fun _ _ => (h.advance _ _ _).modPath _ _
  | tlbinvAll => exact h.execTlbinvAll
  | sqend => exact h.execSqend
  | killAll => exact canonicalOut_onPath fun _ _ => h.of_eq rfl rfl
  | supplyGood => exact h.execSupplyGood
  | bootRomPass => exact h.execBootRomPass
  | imageInitialised => exact h.execImageInitialised
  | trainingComplete => exact h.execTrainingComplete
  | selftestComplete => exact h.execSelftestComplete
  | packageMachineCheck => exact h.execPackageMachineCheck
  | dieLinkFailure => exact h.execDieLinkFailure
  | pfFunctionLevelReset => exact h.execPfFunctionLevelReset
  | supplyLost => exact h.execSupplyLost
  | log => exact h.execLog
  | retry => exact h.execRetry
  | image => exact h.execImage
  | partcfg => exact h.execPartcfg
  | replcfg => exact h.execReplcfg
  | droopTrip => exact h.execDroopTrip
  | droopRecovery => exact h.execDroopRecovery
  | softError => exact h.execSoftError
  | wsphaseAdvance => exact h.execWsphaseAdvance
  | create => exact h.execCreate
  | preempt => exact h.execPreempt
  | reset => exact h.execReset
  | destroy => exact h.execDestroy
  | query => exact h.execQuery
  | wrreg => exact h.execWrreg
  | keyload => exact h.execKeyload
  | keyclr => exact h.execKeyclr
  | policy => exact h.execPolicy
  | serve => exact h.execServe
  | contextSchedule => exact h.execContextSchedule
  | contextIdle => exact h.execContextIdle
  | timeSliceExpiry => exact h.execTimeSliceExpiry
  | priorityPreempt => exact h.execPriorityPreempt
  | preemptionComplete => exact h.execPreemptionComplete
  | contextRestore => exact h.execContextRestore
  | contextRelease => exact h.execContextRelease
  | slicePreemptStop => exact h.execSlicePreemptStop
  | preemptFallback => exact h.execPreemptFallback
  | pathStarvation => exact h.execPathStarvation
  | qwptr => exact h.execQwptr
  | queueEnable => exact h.execQueueEnable
  | queueDisable => exact h.execQueueDisable
  | registerWrite => exact h.execRegisterWrite
  | nop => exact h.execNop
  | launch => exact h.execLaunch
  | frame => exact h.execFrame
  | signalWrite => exact h.execSignalWrite
  | signalAdd => exact h.execSignalAdd
  | waitv => exact h.execWaitv
  | waitvRecheck => exact h.execWaitvRecheck
  | waitvPollTimer => exact h.execWaitvPollTimer
  | fencePacket => exact h.execFencePacket
  | tgtCreate => exact h.execTgtCreate
  | tgtOpen => exact h.execTgtOpen
  | tgtSeal => exact h.execTgtSeal
  | tgtRelease => exact h.execTgtRelease
  | wstore => exact h.execWstore
  | mark => exact h.execMark
  | wrap => exact h.execWrap
  | packetComplete => exact h.execPacketComplete
  | pipelineSetStart => exact h.execPipelineSetStart
  | workgroupFinish => exact h.execWorkgroupFinish
  | serviceRequest => exact h.execServiceRequest
  | serviceAnswer => exact h.execServiceAnswer
  | parkGroupStart => exact h.execParkGroupStart
  | loadDataReturn => exact h.execLoadDataReturn
  | storeAccept => exact h.execStoreAccept
  | atomicPerformed => exact h.execAtomicPerformed
  | xpipeWriteback => exact h.execXpipeWriteback
  | rayTestResult => exact h.execRayTestResult
  | homeRequest => exact h.execHomeRequest
  | spanRecall => exact h.execSpanRecall
  | replicaConfirm => exact h.execReplicaConfirm
  | ownConfirm => exact h.execOwnConfirm
  | invalidationConfirm => exact h.execInvalidationConfirm
  | ownedWriteback => exact h.execOwnedWriteback
  | proxyEviction => exact h.execProxyEviction
  | replicationIntervalEnd => exact h.execReplicationIntervalEnd
  | commandFaultDelivery => exact h.execCommandFaultDelivery
  | sqputResume => exact h.execSqputResume
  | sqgetResume => exact h.execSqgetResume
  | tagComplete => exact h.execTagComplete
  | regangComplete => exact h.execRegangComplete
  | continuationGangLaunch => exact h.execContinuationGangLaunch
  | liftFlush => exact h.execLiftFlush
  | gangFormComplete => exact h.execGangFormComplete
  | barrierWaitEnd => exact h.execBarrierWaitEnd
  | batchWaitEnd => exact h.execBatchWaitEnd
  | beaconWake => exact h.execBeaconWake
  | crewForm => exact h.execCrewForm
  | reservationAccept => exact h.execReservationAccept
  | matrixPass => exact h.execMatrixPass
  | engineCommandComplete => exact h.execEngineCommandComplete
  | copyComplete => exact h.execCopyComplete
  | fragmentApply => exact h.execFragmentApply
  | targetSealComplete => exact h.execTargetSealComplete
  | targetWaitEnd => exact h.execTargetWaitEnd
  | primitiveBinned => exact h.execPrimitiveBinned
  | partialRender => exact h.execPartialRender
  | fragmentPassStart => exact h.execFragmentPassStart
  | rasterEmit => exact h.execRasterEmit
  | walkerGangStart => exact h.execWalkerGangStart
  | mbxgetResume => exact h.execMbxgetResume
  | polnuPortDown => exact h.execPolnuPortDown
  | peerRequestReceived => exact h.execPeerRequestReceived
  | peerReadData => exact h.execPeerReadData
  | peerWriteAck => exact h.execPeerWriteAck
  | peerNak => exact h.execPeerNak
  | peerTimeout => exact h.execPeerTimeout
  | vfFunctionLevelReset => exact h.execVfFunctionLevelReset
  | msixUnmask => exact h.execMsixUnmask
  | atsResponse => exact h.execAtsResponse
  | atsInvalidation => exact h.execAtsInvalidation
  | hostErrorCompletion => exact h.execHostErrorCompletion
  | readOnlyDropEnd => exact h.execReadOnlyDropEnd

/-! Fetch and issue. -/

theorem Canonical.captureWord (h : Canonical s) (core key w : Nat) : Canonical (captureWord s core key w) := by
  unfold Machine.captureWord
  dsimp only
  refine Canonical.of_eq (s := if _ then _ else _) ?_ rfl rfl
  split
  · exact h
  · split
    · exact h.of_eq rfl rfl
    · exact h

theorem Canonical.frontTrap (h : Canonical s) (p : Nat) (q : Path) (two : Bool) (code detail addr : Nat) :
    Canonical (frontTrap s p q two code detail addr) :=
  h.takeTrap _ _ _

/-- What a fetch of a word keeps: the state it goes on in, with the word or with the path waiting or at its fault. -/
def CanonicalFetch : Except State (State × Nat) → Prop
  | .ok r => Canonical r.1
  | .error t => Canonical t

theorem Canonical.fetchWord (h : Canonical s) (p : Nat) (q : Path) (a : Nat) (two : Bool) : CanonicalFetch (fetchWord s p q a two) := by
  have ht := h.translate (ctxOf s q) (coreOf s q) q.sup .fetch a 4
  unfold Machine.fetchWord
  dsimp only
  split
  · exact h
  · split
    · exact ht.frontTrap _ _ _ _ _ _
    · split
      · exact ht.frontTrap _ _ _ _ _ _
      · split
        · exact (ht.askService _ _ _ _ _).of_eq rfl rfl
        · split
          · exact ht.frontTrap _ _ _ _ _ _
          · split
            · split
              · exact (canonical_countFailedAccess.2 ht).frontTrap _ _ _ _ _ _
              · exact (canonical_setPath _ _).2 (ht.askPeerLine _ _ _ _ _ _)
            · split
              · exact (ht.readFault _).frontTrap _ _ _ _ _ _
              · exact ((ht.commitXl _ _ _ _ _).coreRead _ _ _ _).captureWord _ _ _
        · exact ht.frontTrap _ _ _ _ _ _

theorem Canonical.spendLookahead (h : Canonical s) (p : Nat) : Canonical (spendLookahead s p) := h.of_eq rfl rfl

theorem Canonical.cleanRegisters (h : Canonical s) (q : Path) (i : Instr) : Canonical (cleanRegisters s q i) := h.of_eq rfl rfl

theorem Canonical.countIssue (h : Canonical s) (q : Path) : Canonical (countIssue s q) := by
  unfold Machine.countIssue
  split
  · exact h
  · exact h.modGang _ _

/-! A turn: an event, an instruction, or an item of the agenda. -/

theorem Canonical.takeEvent (h : Canonical s) (i : Instr) (x : Subject) : CanonicalOut (takeEvent s i x) := by
  have he := Canonical.exec (s := { s with subject := x }) (h.of_eq rfl rfl) i
  unfold Machine.takeEvent
  split
  · rename_i ht
    rw [ht] at he
    exact he
  · exact he

theorem Canonical.pollWaitv (h : Canonical s) : Canonical (pollWaitv s) :=
  Canonical.foldl (fun _ _ h => h.recheckWaitv _ _) _ h

theorem Canonical.tick (h : Canonical s) : Canonical (tick s) := by
  unfold Machine.tick
  dsimp only
  split
  · refine Canonical.pollWaitv ?_
    exact h.of_eq rfl rfl
  · exact h.of_eq rfl rfl

theorem Canonical.endYields (h : Canonical s) (u : State) (sched : Option Nat) : Canonical (endYields u sched s) :=
  Canonical.foldl (fun _ _ h => h.modPath _ _) _ h

theorem Canonical.afterIssue (h : Canonical s) (u : State) (p : Nat) (q : Path) : Canonical (afterIssue u p q s) := by
  unfold Machine.afterIssue
  dsimp only
  refine Canonical.tick ?_
  unfold Canonical
  dsimp only
  refine Canonical.endYields ?_ _ _
  refine Canonical.modPath ?_ _ _
  exact Canonical.foldl (fun _ _ h => h.modPath _ _) _ h

theorem canonicalOut_endTurn (s : State) (p : Nat) (q : Path) {r : Out} (hr : CanonicalOut r) : CanonicalOut (endTurn s p q r) := by
  unfold endTurn
  split
  · exact Canonical.afterIssue hr _ _ _
  · exact hr

theorem Canonical.withHint (h : Canonical s) (p : Nat) (i : Instr) : Canonical (withHint s p i) := h.of_eq rfl rfl

/-- What a path's turn has come to keeps the form: the state in which it stops or issues. -/
def CanonicalFetched : Fetched → Prop
  | .stall => True
  | .done t => Canonical t
  | .go t _ => Canonical t

theorem Canonical.issueInstr (h : Canonical s) (p : Nat) (q : Path) (i : Instr) (two : Bool) :
    CanonicalFetched (issueInstr s p q i two) := by
  unfold Machine.issueInstr
  split
  · trivial
  · split
    · exact h.frontTrap _ _ _ _ _ _
    · split
      · trivial
      · split
        · exact ((canonical_setPath _ _).2 (h.spendLookahead p)).countIssue q
        · split
          · exact h.frontTrap _ _ _ _ _ _
          · exact ((canonical_setPath _ _).2 ((h.spendLookahead p).cleanRegisters q i)).countIssue q

theorem Canonical.fetchWord_ok {u : State} {p a w : Nat} {q : Path} {two : Bool} (h : Canonical s)
    (hf : Machine.fetchWord s p q a two = .ok (u, w)) : Canonical u := by
  have := h.fetchWord p q a two
  rwa [hf] at this

theorem Canonical.fetchWord_error {u : State} {p a : Nat} {q : Path} {two : Bool} (h : Canonical s)
    (hf : Machine.fetchWord s p q a two = .error u) : Canonical u := by
  have := h.fetchWord p q a two
  rwa [hf] at this

/-- The words of an instruction: its first, and the second where it takes two. -/
theorem canonicalFetch_second (h : Canonical s) (p a w : Nat) (q : Path) (two : Bool) :
    match (if two then (fetchWord s p q a true).map fun r => (r.1, [w, r.2]) else .ok (s, [w]) : Except State (State × List Nat)) with
    | .error u => Canonical u
    | .ok r => Canonical r.1 := by
  cases two
  · exact h
  · have hf := h.fetchWord p q a true
    revert hf
    cases Machine.fetchWord s p q a true <;> exact id

theorem Canonical.instrStage (h : Canonical s) (p : Nat) (q : Path) : CanonicalFetched (instrStage s p q) := by
  unfold Machine.instrStage
  dsimp only
  split
  · rename_i hf
    exact h.fetchWord_error hf
  · rename_i u w hf
    have hu := h.fetchWord_ok hf
    split
    · exact hu.advance _ _ _
    · split
      · exact hu.frontTrap _ _ _ _ _ _
      · split
        · exact hu.frontTrap _ _ _ _ _ _
        · have hs := canonicalFetch_second hu p (wordAddr q.pos + 4) w q (takesTwo w)
          split
          · rename_i heq
            rw [heq] at hs
            exact hs
          · rename_i heq
            rw [heq] at hs
            split
            · exact Canonical.frontTrap hs _ _ _ _ _ _
            · exact Canonical.issueInstr hs _ _ _ _

theorem Canonical.rereadStage (h : Canonical s) (p : Nat) (q : Path) : CanonicalFetched (rereadStage s p q) := by
  unfold Machine.rereadStage
  extract_lets bad
  split
  · exact h.frontTrap _ _ _ _ _ _
  · split
    · rename_i hf
      exact h.fetchWord_error hf
    · rename_i hf
      have hu := h.fetchWord_ok hf
      extract_lets n q'
      split
      · exact hu.frontTrap _ _ _ _ _ _
      · split
        · exact (canonical_setPath _ _).2 hu
        · exact hu.instrStage _ _

theorem Canonical.headerStage (h : Canonical s) (p : Nat) (q : Path) : CanonicalFetched (headerStage s p q) := by
  unfold Machine.headerStage
  dsimp only
  split
  · exact h.frontTrap _ _ _ _ _ _
  · split
    · rename_i hf
      exact h.fetchWord_error hf
    · rename_i hf
      have hu := h.fetchWord_ok hf
      split
      · exact hu.frontTrap _ _ _ _ _ _
      · split
        · trivial
        · exact Canonical.instrStage ((canonical_setPath _ _).2 hu) _ _

theorem Canonical.freshStage (h : Canonical s) (p : Nat) (q : Path) : CanonicalFetched (freshStage s p q) := by
  unfold Machine.freshStage
  dsimp only
  split
  · exact h.headerStage _ _
  · split
    · exact h.rereadStage _ _
    · exact h.instrStage _ _

theorem Canonical.issueOf (h : Canonical s) (p : Nat) : CanonicalFetched (issueOf s p) := by
  unfold Machine.issueOf
  split
  · trivial
  · dsimp only
    split
    · trivial
    · split
      · trivial
      · split
        · trivial
        · split
          · exact h.freshStage _ _
          · exact h
          · split
            · exact h.freshStage _ _
            · trivial
          · split
            · exact h
            · trivial
          · exact h
          · exact h
          · exact h
          · exact h
          · exact h
          · split
            · trivial
            · exact h
          · trivial

theorem Canonical.issueTurn (h : Canonical s) (p : Nat) : CanonicalOut (issueTurn s p) := by
  have hi := h.issueOf p
  unfold Machine.issueTurn
  split
  · exact h
  · split
    · exact h
    · rename_i heq
      rw [heq] at hi
      refine canonicalOut_endTurn _ _ _ ?_
      exact Canonical.modPath hi _ _
    · rename_i t i heq
      rw [heq] at hi
      refine canonicalOut_endTurn _ _ _ (Canonical.exec ?_ i)
      exact (Canonical.withHint hi p i).of_eq rfl rfl

theorem Canonical.issueChosen (h : Canonical s) (p : Nat) : CanonicalOut (issueChosen s p) := by
  unfold Machine.issueChosen
  split
  · split
    · exact h.issueTurn _
    · exact h
  · exact h

theorem Canonical.idleTurn (h : Canonical s) : CanonicalOut (idleTurn s) :=
  (h.endYields _ _).tick

theorem Canonical.agendaTurn (h : Canonical s) (t : Turn) : CanonicalOut (agendaTurn s t) := by
  unfold Machine.agendaTurn
  split
  · exact h.takeEvent _ _
  · exact h.issueChosen _
  · exact h.evictWord _ _
  · exact h.makeRoom _ _
  · exact h.of_eq rfl rfl
  · exact h.memPut _ _
  · exact h.hostStore _ _
  · exact h.maskVector _ _ _
  · exact h.setExports _
  · exact h.setRoute _ _
  · exact h.setFabric _
  · exact h.publishStep _

theorem Canonical.nextTurn (h : Canonical s) : CanonicalOut (nextTurn s) := by
  unfold Machine.nextTurn
  split
  · refine Canonical.agendaTurn ?_ _
    exact h.of_eq rfl rfl
  · split
    · exact h.takeEvent _ _
    · split
      · exact h.publishStep _
      · split
        · exact h.issueTurn _
        · exact h.idleTurn

/-! A step. -/

theorem Canonical.step (h : Canonical s) : CanonicalOut (step s) :=
  h.nextTurn

end

/-- Settles O59: the next turn of the machine keeps memory and the scratchpads in canonical form, whichever it is. -/
theorem stepKeepsMemory : Obligations.StepKeepsMemory := by
  intro s t h hs
  have hn := h.step
  rw [hs] at hn
  exact hn

end Sys2Proof.Machine
end

section
/-! SUPPORT. The encodings, both ways (R57 to R65): what the rows of a major are, and that the words of a well-formed instruction name its
row with its fields. -/

-- One proof after another: their threads' stacks count against the memory limit.
set_option Elab.async false

namespace Sys2Proof

/-- What R60 gives a major: the rows among which its instructions are, and, by bits [25:21] of the first word, which of them take two words. -/
structure Row (m : Nat) (wide : Nat → Prop) (row : Nat → Nat → Option Instr) : Prop where
  lt : m < 64
  skeleton_eq : ∀ w w1, w / 67108864 = m → skeleton w w1 = row w w1
  takesTwo_iff : ∀ w, w / 67108864 = m → (takesTwo w = true ↔ wide (w / 2097152 % 32))

theorem row_iarith : Row 1 (fun _ => False) skIarith :=
  ⟨by decide, fun _ _ h => by simp only [skeleton, h], fun _ h => by simp [takesTwo, h]⟩
theorem row_ilogic : Row 2 (fun _ => False) skIlogic :=
  ⟨by decide, fun _ _ h => by simp only [skeleton, h], fun _ h => by simp [takesTwo, h]⟩
theorem row_ibits : Row 3 (fun _ => False) skIbits :=
  ⟨by decide, fun _ _ h => by simp only [skeleton, h], fun _ h => by simp [takesTwo, h]⟩
theorem row_cmp : Row 4 (fun _ => False) skCmp :=
  ⟨by decide, fun _ _ h => by simp only [skeleton, h], fun _ h => by simp [takesTwo, h]⟩
theorem row_iaddi : Row 5 (fun _ => False) skIaddi :=
  ⟨by decide, fun _ _ h => by simp only [skeleton, h], fun _ h => by simp [takesTwo, h]⟩
theorem row_andi : Row 6 (fun _ => False) skAndi :=
  ⟨by decide, fun _ _ h => by simp only [skeleton, h], fun _ h => by simp [takesTwo, h]⟩
theorem row_ori : Row 7 (fun _ => False) skOri :=
  ⟨by decide, fun _ _ h => by simp only [skeleton, h], fun _ h => by simp [takesTwo, h]⟩
theorem row_xori : Row 8 (fun _ => False) skXori :=
  ⟨by decide, fun _ _ h => by simp only [skeleton, h], fun _ h => by simp [takesTwo, h]⟩
theorem row_shfi : Row 9 (fun _ => False) skShfi :=
  ⟨by decide, fun _ _ h => by simp only [skeleton, h], fun _ h => by simp [takesTwo, h]⟩
theorem row_movi : Row 10 (fun _ => False) skMovi :=
  ⟨by decide, fun _ _ h => by simp only [skeleton, h], fun _ h => by simp [takesTwo, h]⟩
theorem row_sel : Row 11 (fun _ => False) skSel :=
  ⟨by decide, fun _ _ h => by simp only [skeleton, h], fun _ h => by simp [takesTwo, h]⟩
theorem row_imad : Row 12 (fun _ => True) skImad :=
  ⟨by decide, fun _ _ h => by simp only [skeleton, h], fun _ h => by simp [takesTwo, h]⟩
theorem row_lit : Row 13 (fun _ => True) skLit :=
  ⟨by decide, fun _ _ h => by simp only [skeleton, h], fun _ h => by simp [takesTwo, h]⟩
theorem row_plog : Row 14 (fun _ => False) skPlog :=
  ⟨by decide, fun _ _ h => by simp only [skeleton, h], fun _ h => by simp [takesTwo, h]⟩
theorem row_farith : Row 16 (fun _ => False) skFarith :=
  ⟨by decide, fun _ _ h => by simp only [skeleton, h], fun _ h => by simp [takesTwo, h]⟩
theorem row_fma : Row 17 (fun _ => True) skFma :=
  ⟨by decide, fun _ _ h => by simp only [skeleton, h], fun _ h => by simp [takesTwo, h]⟩
theorem row_harith : Row 18 (fun _ => False) skHarith :=
  ⟨by decide, fun _ _ h => by simp only [skeleton, h], fun _ h => by simp [takesTwo, h]⟩
theorem row_darith : Row 19 (fun _ => False) skDarith :=
  ⟨by decide, fun _ _ h => by simp only [skeleton, h], fun _ h => by simp [takesTwo, h]⟩
theorem row_cvt : Row 20 (fun _ => False) skCvt :=
  ⟨by decide, fun _ _ h => by simp only [skeleton, h], fun _ h => by simp [takesTwo, h]⟩
theorem row_xmath : Row 21 (fun _ => False) skXmath :=
  ⟨by decide, fun _ _ h => by simp only [skeleton, h], fun _ h => by simp [takesTwo, h]⟩
theorem row_xtile : Row 22 (fun _ => False) skXtile :=
  ⟨by decide, fun _ _ h => by simp only [skeleton, h], fun _ h => by simp [takesTwo, h]⟩
theorem row_lanex : Row 24 (fun _ => False) skLanex :=
  ⟨by decide, fun _ _ h => by simp only [skeleton, h], fun _ h => by simp [takesTwo, h]⟩
theorem row_gangop : Row 25 (fun _ => False) skGangop :=
  ⟨by decide, fun _ _ h => by simp only [skeleton, h], fun _ h => by simp [takesTwo, h]⟩
theorem row_ualu : Row 26 (fun _ => False) skUalu :=
  ⟨by decide, fun _ _ h => by simp only [skeleton, h], fun _ h => by simp [takesTwo, h]⟩
theorem row_umovi : Row 27 (fun _ => False) skUmovi :=
  ⟨by decide, fun _ _ h => by simp only [skeleton, h], fun _ h => by simp [takesTwo, h]⟩
theorem row_ulit : Row 28 (fun _ => True) skUlit :=
  ⟨by decide, fun _ _ h => by simp only [skeleton, h], fun _ h => by simp [takesTwo, h]⟩
theorem row_uxfer : Row 29 (fun _ => False) skUxfer :=
  ⟨by decide, fun _ _ h => by simp only [skeleton, h], fun _ h => by simp [takesTwo, h]⟩
theorem row_brc : Row 32 (fun _ => False) skBrc :=
  ⟨by decide, fun _ _ h => by simp only [skeleton, h], fun _ h => by simp [takesTwo, h]⟩
theorem row_ubrc : Row 33 (fun _ => False) skUbrc :=
  ⟨by decide, fun _ _ h => by simp only [skeleton, h], fun _ h => by simp [takesTwo, h]⟩
theorem row_call : Row 34 (fun _ => False) skCall :=
  ⟨by decide, fun _ _ h => by simp only [skeleton, h], fun _ h => by simp [takesTwo, h]⟩
theorem row_jmp : Row 35 (fun _ => False) skJmp :=
  ⟨by decide, fun _ _ h => by simp only [skeleton, h], fun _ h => by simp [takesTwo, h]⟩
theorem row_jset : Row 36 (fun _ => False) skJset :=
  ⟨by decide, fun _ _ h => by simp only [skeleton, h], fun _ h => by simp [takesTwo, h]⟩
theorem row_reorder : Row 38 (fun _ => True) skReorder :=
  ⟨by decide, fun _ _ h => by simp only [skeleton, h], fun _ h => by simp [takesTwo, h]⟩
theorem row_sys : Row 39 (fun _ => False) skSys :=
  ⟨by decide, fun _ _ h => by simp only [skeleton, h], fun _ h => by simp [takesTwo, h]⟩
theorem row_ldw : Row 40 (fun _ => False) skLdw :=
  ⟨by decide, fun _ _ h => by simp only [skeleton, h], fun _ h => by simp [takesTwo, h]⟩
theorem row_ldd : Row 41 (fun _ => False) skLdd :=
  ⟨by decide, fun _ _ h => by simp only [skeleton, h], fun _ h => by simp [takesTwo, h]⟩
theorem row_ldq : Row 42 (fun _ => False) skLdq :=
  ⟨by decide, fun _ _ h => by simp only [skeleton, h], fun _ h => by simp [takesTwo, h]⟩
theorem row_ldsub : Row 43 (fun _ => False) skLdsub :=
  ⟨by decide, fun _ _ h => by simp only [skeleton, h], fun _ h => by simp [takesTwo, h]⟩
theorem row_stw : Row 44 (fun _ => False) skStw :=
  ⟨by decide, fun _ _ h => by simp only [skeleton, h], fun _ h => by simp [takesTwo, h]⟩
theorem row_std : Row 45 (fun _ => False) skStd :=
  ⟨by decide, fun _ _ h => by simp only [skeleton, h], fun _ h => by simp [takesTwo, h]⟩
theorem row_stq : Row 46 (fun _ => False) skStq :=
  ⟨by decide, fun _ _ h => by simp only [skeleton, h], fun _ h => by simp [takesTwo, h]⟩
theorem row_stsub : Row 47 (fun _ => False) skStsub :=
  ⟨by decide, fun _ _ h => by simp only [skeleton, h], fun _ h => by simp [takesTwo, h]⟩
theorem row_lds : Row 48 (fun _ => False) skLds :=
  ⟨by decide, fun _ _ h => by simp only [skeleton, h], fun _ h => by simp [takesTwo, h]⟩
theorem row_sts : Row 49 (fun _ => False) skSts :=
  ⟨by decide, fun _ _ h => by simp only [skeleton, h], fun _ h => by simp [takesTwo, h]⟩
theorem row_atom : Row 50 (fun _ => True) skAtom :=
  ⟨by decide, fun _ _ h => by simp only [skeleton, h], fun _ h => by simp [takesTwo, h]⟩
theorem row_atoms : Row 51 (fun _ => True) skAtoms :=
  ⟨by decide, fun _ _ h => by simp only [skeleton, h], fun _ h => by simp [takesTwo, h]⟩
theorem row_sync : Row 52 (fun _ => False) skSync :=
  ⟨by decide, fun _ _ h => by simp only [skeleton, h], fun _ h => by simp [takesTwo, h]⟩
theorem row_waitc : Row 53 (fun _ => True) skWaitc :=
  ⟨by decide, fun _ _ h => by simp only [skeleton, h], fun _ h => by simp [takesTwo, h]⟩
theorem row_bar : Row 54 (fun _ => False) skBar :=
  ⟨by decide, fun _ _ h => by simp only [skeleton, h], fun _ h => by simp [takesTwo, h]⟩
theorem row_sq : Row 55 (fun _ => False) skSq :=
  ⟨by decide, fun _ _ h => by simp only [skeleton, h], fun _ h => by simp [takesTwo, h]⟩
theorem row_copy : Row 56 (fun e => 3 ≤ e ∧ e ≤ 5) skCopy :=
  ⟨by decide, fun _ _ h => by simp only [skeleton, h], fun _ h => by simp [takesTwo, h]⟩
theorem row_mat : Row 57 (fun e => e = 0 ∨ e = 1 ∨ e = 6) skMat :=
  ⟨by decide, fun _ _ h => by simp only [skeleton, h], fun _ h => by simp [takesTwo, h, or_assoc]⟩
theorem row_chain : Row 58 (fun e => e = 3) skChain :=
  ⟨by decide, fun _ _ h => by simp only [skeleton, h], fun _ h => by simp [takesTwo, h]⟩
theorem row_step : Row 59 (fun _ => False) skStep :=
  ⟨by decide, fun _ _ h => by simp only [skeleton, h], fun _ h => by simp [takesTwo, h]⟩
theorem row_gfx : Row 60 (fun e => e = 0 ∨ e = 7) skGfx :=
  ⟨by decide, fun _ _ h => by simp only [skeleton, h], fun _ h => by simp [takesTwo, h]⟩
theorem row_ray : Row 61 (fun _ => False) skRay :=
  ⟨by decide, fun _ _ h => by simp only [skeleton, h], fun _ h => by simp [takesTwo, h]⟩

/-- The words of an instruction are one or two, as its major has it, and name its row with its fields. -/
inductive ReadsBack (i : Instr) : Prop
  | one (w : Nat) (henc : encode i = [w]) (hlt : w < 2 ^ 32) (htwo : takesTwo w = false) (hsk : ∀ w1, skeleton w w1 = some i)
  | two (w w1 : Nat) (henc : encode i = [w, w1]) (hlt : w < 2 ^ 32) (hlt1 : w1 < 2 ^ 32) (htwo : takesTwo w = true)
      (hsk : skeleton w w1 = some i)

section
variable {m : Nat} {wide : Nat → Prop} {row : Nat → Nat → Option Instr} {i : Instr} {w w1 : Nat}

/-- The head of a word built from a base and fields below the major: the major and the fields are where they were put. -/
theorem head_div {k x m : Nat} (hk : k / 67108864 = m) (hx : k % 67108864 + x < 67108864) :
    (k + x) / 67108864 = m ∧ (k + x) % 67108864 = k % 67108864 + x := by omega

/-- A one-word instruction reads back if its row, at any word with these low 26 bits, is the instruction. -/
theorem Row.one (h : Row m wide row) {k x : Nat} (henc : encode i = [k + x]) (hk : k / 67108864 = m)
    (hx : k % 67108864 + x < 67108864) (hone : ∀ w, w % 67108864 = k % 67108864 + x → ¬ wide (w / 2097152 % 32))
    (hrow : ∀ w w1, w % 67108864 = k % 67108864 + x → row w w1 = some i) : ReadsBack i := by
  obtain ⟨hm, hl⟩ := head_div hk hx
  have hlt := h.lt
  exact .one _ henc (by omega) (Bool.not_eq_true _ ▸ mt (h.takesTwo_iff _ hm).1 (hone _ hl)) fun w1 =>
    (h.skeleton_eq _ w1 hm).trans (hrow _ _ hl)

/-- The same for two words. -/
theorem Row.two (h : Row m wide row) {k x : Nat} (henc : encode i = [k + x, w1]) (hk : k / 67108864 = m)
    (hx : k % 67108864 + x < 67108864) (htwo : ∀ w, w % 67108864 = k % 67108864 + x → wide (w / 2097152 % 32))
    (hlt1 : w1 < 2 ^ 32) (hrow : ∀ w, w % 67108864 = k % 67108864 + x → row w w1 = some i) : ReadsBack i := by
  obtain ⟨hm, hl⟩ := head_div hk hx
  have hlt := h.lt
  exact .two _ w1 henc (by omega) hlt1 ((h.takesTwo_iff _ hm).2 (htwo _ hl)) ((h.skeleton_eq _ w1 hm).trans (hrow _ hl))

/-- Format R with three V registers (R57): the function is in the low five bits. -/
theorem Row.formatR (h : Row m (fun _ => False) row) {k d a b : Nat} (henc : encode i = [k + d * 524288 + a * 4096 + b * 32])
    (hk : k / 67108864 = m) (hf : k % 67108864 < 32) (hi : d < 128 ∧ a < 128 ∧ b < 128)
    (hrow : ∀ w w1, w % 32 = k % 67108864 → w / 524288 % 128 = d → w / 4096 % 128 = a → w / 32 % 128 = b → row w w1 = some i) :
    ReadsBack i := by
  rw [Nat.add_assoc, Nat.add_assoc] at henc
  exact h.one henc hk (by omega) (fun _ _ => id) fun w w1 hw => hrow w w1 (by omega) (by omega) (by omega) (by omega)

/-- Format R with two V registers. -/
theorem Row.formatR2 (h : Row m (fun _ => False) row) {k d a : Nat} (henc : encode i = [k + d * 524288 + a * 4096])
    (hk : k / 67108864 = m) (hf : k % 67108864 < 32) (hi : d < 128 ∧ a < 128)
    (hrow : ∀ w w1, w % 32 = k % 67108864 → w / 524288 % 128 = d → w / 4096 % 128 = a → row w w1 = some i) : ReadsBack i :=
  h.formatR (b := 0) henc hk hf ⟨hi.1, hi.2, by decide⟩ fun w w1 hw hd ha _ => hrow w w1 hw hd ha

/-- Format U (R57): three G registers. -/
theorem Row.formatU (h : Row m (fun _ => False) row) {k d a b : Nat} (henc : encode i = [k + d * 2097152 + a * 65536 + b * 2048])
    (hk : k / 67108864 = m) (hf : k % 67108864 < 32) (hi : d < 32 ∧ a < 32 ∧ b < 32)
    (hrow : ∀ w w1, w % 32 = k % 67108864 → w / 2097152 % 32 = d → w / 65536 % 32 = a → w / 2048 % 32 = b → row w w1 = some i) :
    ReadsBack i := by
  rw [Nat.add_assoc, Nat.add_assoc] at henc
  exact h.one henc hk (by omega) (fun _ _ => id) fun w w1 hw => hrow w w1 (by omega) (by omega) (by omega) (by omega)

/-- Format E (R57): the function is bits [25:21], and the operands are below it. -/
theorem Row.formatE (h : Row m wide row) {k y : Nat} (henc : encode i = [k + y]) (hk : k / 67108864 = m) (h0 : k % 2097152 = 0)
    (hy : y < 2097152) (hone : ¬ wide (k / 2097152 % 32))
    (hrow : ∀ w w1, w / 2097152 % 32 = k / 2097152 % 32 → w % 2097152 = y → row w w1 = some i) : ReadsBack i :=
  h.one henc hk (by omega) (fun w hw => by rwa [show w / 2097152 % 32 = k / 2097152 % 32 by omega]) fun w w1 hw =>
    hrow w w1 (by omega) (by omega)

/-- The same with a second word. -/
theorem Row.formatE_two (h : Row m wide row) {k y : Nat} (henc : encode i = [k + y, w1]) (hk : k / 67108864 = m) (h0 : k % 2097152 = 0)
    (hy : y < 2097152) (htwo : wide (k / 2097152 % 32)) (hlt1 : w1 < 2 ^ 32)
    (hrow : ∀ w, w / 2097152 % 32 = k / 2097152 % 32 → w % 2097152 = y → row w w1 = some i) : ReadsBack i :=
  h.two henc hk (by omega) (fun w hw => by rwa [show w / 2097152 % 32 = k / 2097152 % 32 by omega]) hlt1 fun w hw =>
    hrow w (by omega) (by omega)

/-- A function in the low five bits, whatever the fields above it are. -/
theorem Row.byFn (h : Row m (fun _ => False) row) {k y : Nat} (henc : encode i = [k + y]) (hk : k / 67108864 = m)
    (hf : k % 67108864 < 32) (hy : y < 67108864 ∧ y % 32 = 0)
    (hrow : ∀ w w1, w % 32 = k % 67108864 → w % 67108864 = k % 67108864 + y → row w w1 = some i) : ReadsBack i :=
  h.one henc hk (by omega) (fun _ _ => id) fun w w1 hw => hrow w w1 (by omega) hw

/-- The same with a second word. -/
theorem Row.byFn_two (h : Row m (fun _ => True) row) {k y : Nat} (henc : encode i = [k + y, w1]) (hk : k / 67108864 = m)
    (hf : k % 67108864 < 32) (hy : y < 67108864 ∧ y % 32 = 0) (hlt1 : w1 < 2 ^ 32)
    (hrow : ∀ w, w % 32 = k % 67108864 → w % 67108864 = k % 67108864 + y → row w w1 = some i) : ReadsBack i :=
  h.two henc hk (by omega) (fun _ _ => trivial) hlt1 fun w hw => hrow w (by omega) hw

/-- Format I (R57): two V registers and a 12-bit immediate. -/
theorem Row.formatI (h : Row m (fun _ => False) row) {k d a n : Nat} (henc : encode i = [k + d * 524288 + a * 4096 + n])
    (hk : k / 67108864 = m) (h0 : k % 67108864 = 0) (hi : d < 128 ∧ a < 128 ∧ n < 4096)
    (hrow : ∀ w w1, w / 524288 % 128 = d → w / 4096 % 128 = a → w % 4096 = n → row w w1 = some i) : ReadsBack i := by
  rw [Nat.add_assoc, Nat.add_assoc] at henc
  exact h.one henc hk (by omega) (fun _ _ => id) fun w w1 hw => hrow w w1 (by omega) (by omega) (by omega)

/-- Format M (R57): a V register, an offset register, a G register, the lookahead and the request type or size. -/
theorem Row.formatM (h : Row m (fun _ => False) row) {k d o g l t : Nat}
    (henc : encode i = [k + d * 524288 + o * 4096 + g * 128 + l * 8 + t]) (hk : k / 67108864 = m) (h0 : k % 67108864 = 0)
    (hi : d < 128 ∧ o < 128 ∧ g < 32 ∧ l < 16 ∧ t < 8)
    (hrow : ∀ w w1, w / 524288 % 128 = d → w / 4096 % 128 = o → w / 128 % 32 = g → w / 8 % 16 = l → w % 8 = t → row w w1 = some i) :
    ReadsBack i := by
  rw [Nat.add_assoc, Nat.add_assoc, Nat.add_assoc, Nat.add_assoc] at henc
  exact h.one henc hk (by omega) (fun _ _ => id) fun w w1 hw =>
    hrow w w1 (by omega) (by omega) (by omega) (by omega) (by omega)

/-- Format M of a store: no lookahead. -/
theorem Row.formatM_store (h : Row m (fun _ => False) row) {k d o g t : Nat}
    (henc : encode i = [k + d * 524288 + o * 4096 + g * 128 + t]) (hk : k / 67108864 = m) (h0 : k % 67108864 = 0)
    (hi : d < 128 ∧ o < 128 ∧ g < 32 ∧ t < 8)
    (hrow : ∀ w w1, w / 524288 % 128 = d → w / 4096 % 128 = o → w / 128 % 32 = g → w % 8 = t → row w w1 = some i) : ReadsBack i :=
  h.formatM (l := 0) henc hk h0 ⟨hi.1, hi.2.1, hi.2.2.1, by decide, hi.2.2.2⟩ fun w w1 hd ho hg _ ht => hrow w w1 hd ho hg ht

end

/-- Majors 0x01 to 0x0E: integer lanes and predicates. -/
theorem readsBack_integer {i : Instr} (h : WellFormed i) (hi : i.ctorIdx < 54) : ReadsBack i := by
  cases i
  case iadd d a b | isub d a b | imul d a b | imulh d a b | imulhu d a b | imin d a b | imax d a b | iminu d a b | imaxu d a b |
      iaddsat d a b | iadd64 d a b | isub64 d a b =>
    simp only [WellFormed, Instr.wellFormed, Bool.and_eq_true, decide_eq_true_eq] at h
    refine row_iarith.formatR rfl rfl (by decide) (by omega) fun w w1 hf hd ha hb => ?_
    simp [skIarith, hf, hd, ha, hb]
  case and d a b | or d a b | xor d a b | andn d a b | shl d a b | shr d a b | sar d a b | rotl d a b | shl64 d a b | shr64 d a b
      =>
    simp only [WellFormed, Instr.wellFormed, Bool.and_eq_true, decide_eq_true_eq] at h
    refine row_ilogic.formatR rfl rfl (by decide) (by omega) fun w w1 hf hd ha hb => ?_
    simp [skIlogic, hf, hd, ha, hb]
  case popc d a | clz d a | ctz d a | brev d a | bswap d a =>
    simp only [WellFormed, Instr.wellFormed, Bool.and_eq_true, decide_eq_true_eq] at h
    refine row_ibits.formatR2 rfl rfl (by decide) (by omega) fun w w1 hf hd ha => ?_
    simp [skIbits, hf, hd, ha]
  case bfe d a b | bfeu d a b | bfi d a b =>
    simp only [WellFormed, Instr.wellFormed, Bool.and_eq_true, decide_eq_true_eq] at h
    refine row_ibits.formatR rfl rfl (by decide) (by omega) fun w w1 hf hd ha hb => ?_
    simp [skIbits, hf, hd, ha, hb]
  case icmpI32 p c a b | icmpN32 p c a b | icmpI64 p c a b | icmpN64 p c a b | fcmpF32 p c a b | fcmpF64 p c a b | fcmpF16 p c a b
      =>
    simp only [WellFormed, Instr.wellFormed, Bool.and_eq_true, decide_eq_true_eq] at h
    refine row_cmp.byFn (by simp only [encode, Nat.add_assoc]; rfl) rfl (by decide) (by omega) fun w w1 hf hw => ?_
    rw [skCmp, hf]
    exact congrArg some (by congr 1 <;> omega)
  case iaddi d a i =>
    simp only [WellFormed, Instr.wellFormed, Bool.and_eq_true, decide_eq_true_eq] at h
    exact row_iaddi.formatI rfl rfl rfl (by omega) fun w w1 hd ha hi => by rw [skIaddi, hd, ha, hi]
  case andi d a i =>
    simp only [WellFormed, Instr.wellFormed, Bool.and_eq_true, decide_eq_true_eq] at h
    exact row_andi.formatI rfl rfl rfl (by omega) fun w w1 hd ha hi => by rw [skAndi, hd, ha, hi]
  case ori d a i =>
    simp only [WellFormed, Instr.wellFormed, Bool.and_eq_true, decide_eq_true_eq] at h
    exact row_ori.formatI rfl rfl rfl (by omega) fun w w1 hd ha hi => by rw [skOri, hd, ha, hi]
  case xori d a i =>
    simp only [WellFormed, Instr.wellFormed, Bool.and_eq_true, decide_eq_true_eq] at h
    exact row_xori.formatI rfl rfl rfl (by omega) fun w w1 hd ha hi => by rw [skXori, hd, ha, hi]
  case shli d a n | shri d a n | sari d a n | rotli d a n =>
    simp only [WellFormed, Instr.wellFormed, Bool.and_eq_true, decide_eq_true_eq] at h
    refine row_shfi.one (by simp only [encode, Nat.add_assoc]; rfl) rfl (by omega) (fun _ _ => id) fun w w1 hw => ?_
    simp (disch := omega) only [skShfi, if_pos, if_neg]
    congr 2 <;> omega
  case movi d i | movhi d i =>
    simp only [WellFormed, Instr.wellFormed, Bool.and_eq_true, decide_eq_true_eq] at h
    refine row_movi.one (by simp only [encode, Nat.add_assoc]; rfl) rfl (by omega) (fun _ _ => id) fun w w1 hw => ?_
    simp (disch := omega) only [skMovi, if_pos, if_neg]
    congr 2 <;> omega
  case sel d a b p n =>
    simp only [WellFormed, Instr.wellFormed, Bool.and_eq_true, decide_eq_true_eq] at h
    refine row_sel.one (by simp only [encode, Nat.add_assoc]; rfl) rfl (by omega) (fun _ _ => id) fun w w1 hw => ?_
    rw [skSel]
    congr 2 <;> omega
  case imad d a b c =>
    simp only [WellFormed, Instr.wellFormed, Bool.and_eq_true, decide_eq_true_eq] at h
    refine row_imad.byFn_two (by simp only [encode, Nat.add_assoc]; rfl) rfl (by decide) (by omega) (by omega) fun w hf hw => ?_
    rw [skImad, hf]
    exact congrArg some (by congr 1 <;> omega)
  case lit d i =>
    simp only [WellFormed, Instr.wellFormed, Bool.and_eq_true, decide_eq_true_eq] at h
    refine row_lit.byFn_two rfl rfl (by decide) (by omega) (by omega) fun w hf hw => ?_
    rw [skLit, hf]
    exact congrArg some (by congr 1; omega)
  case pand d a b | por d a b | pxor d a b | pandn d a b =>
    simp only [WellFormed, Instr.wellFormed, Bool.and_eq_true, decide_eq_true_eq] at h
    refine row_plog.byFn (by simp only [encode, Nat.add_assoc]; rfl) rfl (by decide) (by omega) fun w w1 hf hw => ?_
    rw [skPlog, hf]
    exact congrArg some (by congr 1 <;> omega)
  all_goals exact absurd hi (of_decide_eq_false rfl)

/-- Majors 0x10 to 0x15: floating lanes. -/
theorem readsBack_float {i : Instr} (h : WellFormed i) (hi : 54 ≤ i.ctorIdx ∧ i.ctorIdx < 104) : ReadsBack i := by
  cases i
  case fadd d a b | fsub d a b | fmul d a b | fmac d a b | fmin d a b | fmax d a b | fcpys d a b =>
    simp only [WellFormed, Instr.wellFormed, Bool.and_eq_true, decide_eq_true_eq] at h
    refine row_farith.formatR rfl rfl (by decide) (by omega) fun w w1 hf hd ha hb => ?_
    simp [skFarith, hf, hd, ha, hb]
  case fneg d a | fabs d a =>
    simp only [WellFormed, Instr.wellFormed, Bool.and_eq_true, decide_eq_true_eq] at h
    refine row_farith.formatR2 rfl rfl (by decide) (by omega) fun w w1 hf hd ha => ?_
    simp [skFarith, hf, hd, ha]
  case frnd d a m =>
    simp only [WellFormed, Instr.wellFormed, Bool.and_eq_true, decide_eq_true_eq] at h
    refine row_farith.byFn (by simp only [encode, Nat.add_assoc]; rfl) rfl (by decide) (by omega) fun w w1 hf hw => ?_
    rw [skFarith, hf]
    exact congrArg some (by congr 1 <;> omega)
  case fma d a b c | fms d a b c | fnma d a b c =>
    simp only [WellFormed, Instr.wellFormed, Bool.and_eq_true, decide_eq_true_eq] at h
    refine row_fma.byFn_two (by simp only [encode, Nat.add_assoc]; rfl) rfl (by decide) (by omega) (by omega) fun w hf hw => ?_
    rw [skFma, hf]
    exact congrArg some (by congr 1 <;> omega)
  case hadd2 d a b | hmul2 d a b | hfma2 d a b | hmin2 d a b | hmax2 d a b | badd2 d a b | bmul2 d a b | bfma2 d a b =>
    simp only [WellFormed, Instr.wellFormed, Bool.and_eq_true, decide_eq_true_eq] at h
    refine row_harith.formatR rfl rfl (by decide) (by omega) fun w w1 hf hd ha hb => ?_
    simp [skHarith, hf, hd, ha, hb]
  case dadd d a b | dsub d a b | dmul d a b | dfma d a b | dmin d a b | dmax d a b =>
    simp only [WellFormed, Instr.wellFormed, Bool.and_eq_true, decide_eq_true_eq] at h
    refine row_darith.formatR rfl rfl (by decide) (by omega) fun w w1 hf hd ha hb => ?_
    simp [skDarith, hf, hd, ha, hb]
  case cvtF32I32 d a | cvtF32N32 d a | cvtI32F32 d a | cvtN32F32 d a | cvtF16F32 d a | cvtF32F16 d a | cvtBf16F32 d a | cvtF32Bf16
      d a | cvtF64F32 d a | cvtF32F64 d a | cvtF64I64 d a | cvtI64F64 d a =>
    simp only [WellFormed, Instr.wellFormed, Bool.and_eq_true, decide_eq_true_eq] at h
    refine row_cvt.formatR2 rfl rfl (by decide) (by omega) fun w w1 hf hd ha => ?_
    simp [skCvt, hf, hd, ha]
  case cvtE4m3x2F32 d a b | cvtE5m2x2F32 d a b =>
    simp only [WellFormed, Instr.wellFormed, Bool.and_eq_true, decide_eq_true_eq] at h
    refine row_cvt.formatR rfl rfl (by decide) (by omega) fun w w1 hf hd ha hb => ?_
    simp [skCvt, hf, hd, ha, hb]
  case cvtF32E4m3 d a k | cvtF32E5m2 d a k =>
    simp only [WellFormed, Instr.wellFormed, Bool.and_eq_true, decide_eq_true_eq] at h
    refine row_cvt.byFn (by simp only [encode, Nat.add_assoc]; rfl) rfl (by decide) (by omega) fun w w1 hf hw => ?_
    rw [skCvt, hf]
    exact congrArg some (by congr 1 <;> omega)
  case frcp d a l | frsq d a l | fsqrt d a l | fexp2 d a l | flog2 d a l | fsin d a l | fcos d a l =>
    simp only [WellFormed, Instr.wellFormed, Bool.and_eq_true, decide_eq_true_eq] at h
    refine row_xmath.byFn (by simp only [encode, Nat.add_assoc]; rfl) rfl (by decide) (by omega) fun w w1 hf hw => ?_
    rw [skXmath, hf]
    exact congrArg some (by congr 1 <;> omega)
  all_goals exact absurd hi (of_decide_eq_false rfl)

/-- Majors 0x16 to 0x1D: register tiles, exchanges between lanes and the uniform forms. -/
theorem readsBack_uniform {i : Instr} (h : WellFormed i) (hi : 104 ≤ i.ctorIdx ∧ i.ctorIdx < 145) : ReadsBack i := by
  cases i
  case xqrow v g l x | xqcol v g l x | xtrans v l x | xsig v l x =>
    simp only [WellFormed, Instr.wellFormed, Bool.and_eq_true, decide_eq_true_eq] at h
    refine row_xtile.formatE (by simp only [encode, Nat.add_assoc]; rfl) rfl rfl (by omega) id fun w w1 hf hw => ?_
    rw [skXtile, hf]
    exact congrArg some (by congr 1 <;> omega)
  case shflidx d a b | shflup d a b | shfldn d a b | shflxor d a b =>
    simp only [WellFormed, Instr.wellFormed, Bool.and_eq_true, decide_eq_true_eq] at h
    refine row_lanex.formatR rfl rfl (by decide) (by omega) fun w w1 hf hd ha hb => ?_
    simp [skLanex, hf, hd, ha, hb]
  case shflidxi d a k | shflupi d a k | shfldni d a k | shflxori d a k =>
    simp only [WellFormed, Instr.wellFormed, Bool.and_eq_true, decide_eq_true_eq] at h
    refine row_lanex.byFn (by simp only [encode, Nat.add_assoc]; rfl) rfl (by decide) (by omega) fun w w1 hf hw => ?_
    rw [skLanex, hf]
    exact congrArg some (by congr 1 <;> omega)
  case redadd d a | redaddf d a | redmin d a | redmax d a =>
    simp only [WellFormed, Instr.wellFormed, Bool.and_eq_true, decide_eq_true_eq] at h
    refine row_gangop.formatR2 rfl rfl (by decide) (by omega) fun w w1 hf hd ha => ?_
    simp [skGangop, hf, hd, ha]
  case ballot d a | voteany d a | voteall d a =>
    simp only [WellFormed, Instr.wellFormed, Bool.and_eq_true, decide_eq_true_eq] at h
    refine row_gangop.byFn (by simp only [encode, Nat.add_assoc]; rfl) rfl (by decide) (by omega) fun w w1 hf hw => ?_
    rw [skGangop, hf]
    exact congrArg some (by congr 1 <;> omega)
  case uadd d a b | usub d a b | umul d a b | uand d a b | uor d a b | uxor d a b | ushl d a b | ushr d a b | usar d a b | umin d
      a b | umax d a b | uslt d a b | usltn d a b | useq d a b =>
    simp only [WellFormed, Instr.wellFormed, Bool.and_eq_true, decide_eq_true_eq] at h
    refine row_ualu.formatU rfl rfl (by decide) (by omega) fun w w1 hf hd ha hb => ?_
    simp [skUalu, hf, hd, ha, hb]
  case umovi d i =>
    simp only [WellFormed, Instr.wellFormed, Bool.and_eq_true, decide_eq_true_eq] at h
    refine row_umovi.one (by simp only [encode, Nat.add_assoc]; rfl) rfl (by omega) (fun _ _ => id) fun w w1 hw => ?_
    rw [skUmovi]
    congr 2 <;> omega
  case ulit d i | ulithi d i =>
    simp only [WellFormed, Instr.wellFormed, Bool.and_eq_true, decide_eq_true_eq] at h
    refine row_ulit.byFn_two rfl rfl (by decide) (by omega) (by omega) fun w hf hw => ?_
    rw [skUlit, hf]
    exact congrArg some (by congr 1; omega)
  case movsr d s =>
    simp only [WellFormed, Instr.wellFormed, Bool.and_eq_true, decide_eq_true_eq] at h
    refine row_uxfer.formatR2 rfl rfl (by decide) (by omega) fun w w1 hf hd ha => ?_
    simp [skUxfer, hf, hd, ha]
  case rdlane d a n | bcast d a | bcasthi d a | uld d a l t =>
    simp only [WellFormed, Instr.wellFormed, Bool.and_eq_true, decide_eq_true_eq] at h
    refine row_uxfer.byFn (by simp only [encode, Nat.add_assoc]; rfl) rfl (by decide) (by omega) fun w w1 hf hw => ?_
    rw [skUxfer, hf]
    exact congrArg some (by congr 1 <;> omega)
  all_goals exact absurd hi (of_decide_eq_false rfl)

/-- Majors 0x20 to 0x27: control and system. -/
theorem readsBack_control {i : Instr} (h : WellFormed i) (hi : 145 ≤ i.ctorIdx ∧ i.ctorIdx < 157) : ReadsBack i := by
  cases i
  case brc p n o =>
    simp only [WellFormed, Instr.wellFormed, Bool.and_eq_true, decide_eq_true_eq] at h
    refine row_brc.one (by simp only [encode, Nat.add_assoc]; rfl) rfl (by omega) (fun _ _ => id) fun w w1 hw => ?_
    rw [skBrc]
    congr 2 <;> omega
  case ubrc g c o =>
    simp only [WellFormed, Instr.wellFormed, Bool.and_eq_true, decide_eq_true_eq] at h
    refine row_ubrc.one (by simp only [encode, Nat.add_assoc]; rfl) rfl (by omega) (fun _ _ => id) fun w w1 hw => ?_
    rw [skUbrc]
    congr 2 <;> omega
  case call o =>
    simp only [WellFormed, Instr.wellFormed, decide_eq_true_eq] at h
    refine row_call.one rfl rfl (by omega) (fun _ _ => id) fun w w1 hw => ?_
    rw [skCall]
    congr 2; omega
  case jmp g =>
    simp only [WellFormed, Instr.wellFormed, decide_eq_true_eq] at h
    refine row_jmp.one rfl rfl (by omega) (fun _ _ => id) fun w w1 hw => ?_
    rw [skJmp]
    congr 2; omega
  case jset o =>
    simp only [WellFormed, Instr.wellFormed, decide_eq_true_eq] at h
    refine row_jset.one rfl rfl (by omega) (fun _ _ => id) fun w w1 hw => ?_
    rw [skJset]
    congr 2; omega
  case reorder a b n o =>
    simp only [WellFormed, Instr.wellFormed, Bool.and_eq_true, decide_eq_true_eq] at h
    refine row_reorder.two (by simp only [encode, Nat.add_assoc]; rfl) rfl (by omega) (fun _ _ => trivial) (by omega) fun w hw => ?_
    rw [skReorder]
    congr 2 <;> omega
  case trap i | brk i | trapret s | csrrd g c | csrwr g c =>
    simp only [WellFormed, Instr.wellFormed, Bool.and_eq_true, decide_eq_true_eq] at h
    refine row_sys.one (by simp only [encode, Nat.add_assoc]; rfl) rfl (by omega) (fun _ _ => id) fun w w1 hw => ?_
    simp (disch := omega) only [skSys, if_pos, if_neg]
    congr 2 <;> omega
  case tlbinvPage g =>
    simp only [WellFormed, Instr.wellFormed, decide_eq_true_eq] at h
    refine row_sys.one rfl rfl (by omega) (fun _ _ => id) fun w w1 hw => ?_
    simp (disch := omega) only [skSys, if_pos, if_neg]
    congr 2; omega
  all_goals exact absurd hi (of_decide_eq_false rfl)

/-- Majors 0x28 to 0x33: loads, stores and atomics. -/
theorem readsBack_memory {i : Instr} (h : WellFormed i) (hi : 157 ≤ i.ctorIdx ∧ i.ctorIdx < 173) : ReadsBack i := by
  cases i
  case ldw d o g l t =>
    simp only [WellFormed, Instr.wellFormed, Bool.and_eq_true, decide_eq_true_eq] at h
    exact row_ldw.formatM rfl rfl rfl (by omega) fun w w1 hd ho hg hl ht => by rw [skLdw, hd, ho, hg, hl, ht]
  case ldd d o g l t =>
    simp only [WellFormed, Instr.wellFormed, Bool.and_eq_true, decide_eq_true_eq] at h
    exact row_ldd.formatM rfl rfl rfl (by omega) fun w w1 hd ho hg hl ht => by rw [skLdd, hd, ho, hg, hl, ht]
  case ldq d o g l t =>
    simp only [WellFormed, Instr.wellFormed, Bool.and_eq_true, decide_eq_true_eq] at h
    exact row_ldq.formatM rfl rfl rfl (by omega) fun w w1 hd ho hg hl ht => by rw [skLdq, hd, ho, hg, hl, ht]
  case ldbn d o g l | ldbs d o g l | ldhn d o g l | ldhs d o g l =>
    simp only [WellFormed, Instr.wellFormed, Bool.and_eq_true, decide_eq_true_eq] at h
    refine row_ldsub.one (by simp only [encode, Nat.add_assoc]; rfl) rfl (by omega) (fun _ _ => id) fun w w1 hw => ?_
    simp (disch := omega) only [skLdsub, if_pos, if_neg]
    congr 2 <;> omega
  case stw d o g t =>
    simp only [WellFormed, Instr.wellFormed, Bool.and_eq_true, decide_eq_true_eq] at h
    exact row_stw.formatM_store rfl rfl rfl (by omega) fun w w1 hd ho hg ht => by rw [skStw, hd, ho, hg, ht]
  case std d o g t =>
    simp only [WellFormed, Instr.wellFormed, Bool.and_eq_true, decide_eq_true_eq] at h
    exact row_std.formatM_store rfl rfl rfl (by omega) fun w w1 hd ho hg ht => by rw [skStd, hd, ho, hg, ht]
  case stq d o g t =>
    simp only [WellFormed, Instr.wellFormed, Bool.and_eq_true, decide_eq_true_eq] at h
    exact row_stq.formatM_store rfl rfl rfl (by omega) fun w w1 hd ho hg ht => by rw [skStq, hd, ho, hg, ht]
  case stb d o g | sth d o g =>
    simp only [WellFormed, Instr.wellFormed, Bool.and_eq_true, decide_eq_true_eq] at h
    refine row_stsub.one (by simp only [encode, Nat.add_assoc]; rfl) rfl (by omega) (fun _ _ => id) fun w w1 hw => ?_
    simp (disch := omega) only [skStsub, if_pos, if_neg]
    congr 2 <;> omega
  case lds d o g l s =>
    simp only [WellFormed, Instr.wellFormed, Bool.and_eq_true, decide_eq_true_eq] at h
    exact row_lds.formatM rfl rfl rfl (by omega) fun w w1 hd ho hg hl ht => by rw [skLds, hd, ho, hg, hl, ht]
  case sts d o g s =>
    simp only [WellFormed, Instr.wellFormed, Bool.and_eq_true, decide_eq_true_eq] at h
    exact row_sts.formatM_store rfl rfl rfl (by omega) fun w w1 hd ho hg ht => by rw [skSts, hd, ho, hg, ht]
  case atom d o g l t nr c b r s op =>
    simp only [WellFormed, Instr.wellFormed, Bool.and_eq_true, decide_eq_true_eq] at h
    refine row_atom.two (by simp only [encode, Nat.add_assoc]; rfl) rfl (by omega) (fun _ _ => trivial) (by omega) fun w hw => ?_
    rw [skAtom]
    congr 2 <;> omega
  case atoms d o g l nr c b r op =>
    simp only [WellFormed, Instr.wellFormed, Bool.and_eq_true, decide_eq_true_eq] at h
    refine row_atoms.two (by simp only [encode, Nat.add_assoc]; rfl) rfl (by omega) (fun _ _ => trivial) (by omega) fun w hw => ?_
    rw [skAtoms]
    congr 2 <;> omega
  all_goals exact absurd hi (of_decide_eq_false rfl)

/-- Majors 0x34 to 0x39: synchronisation, stage queues, copies and matrix commands. -/
theorem readsBack_async {i : Instr} (h : WellFormed i) (hi : 173 ≤ i.ctorIdx ∧ i.ctorIdx < 199) : ReadsBack i := by
  cases i
  case fence o e | fencex a b s | cflush v g t | pref v g t =>
    simp only [WellFormed, Instr.wellFormed, Bool.and_eq_true, decide_eq_true_eq] at h
    refine row_sync.formatE (by simp only [encode, Nat.add_assoc]; rfl) rfl rfl (by omega) id fun w w1 hf hw => ?_
    rw [skSync, hf]
    exact congrArg some (by congr 1 <;> omega)
  case waitc g p w cond s gc =>
    simp only [WellFormed, Instr.wellFormed, Bool.and_eq_true, decide_eq_true_eq] at h
    refine row_waitc.formatE_two (by simp only [encode, Nat.add_assoc]; rfl) rfl rfl (by omega) trivial (by omega) fun w hf hw => ?_
    rw [skWaitc, hf]
    exact congrArg some (by congr 1 <;> omega)
  case bararr v g b | barwait p g b | barsync p g b | barqry v b | batch v | waitb p g c =>
    simp only [WellFormed, Instr.wellFormed, Bool.and_eq_true, decide_eq_true_eq] at h
    refine row_bar.formatE (by simp only [encode, Nat.add_assoc]; rfl) rfl rfl (by omega) id fun w w1 hf hw => ?_
    rw [skBar, hf]
    exact congrArg some (by congr 1 <;> omega)
  case sqput v | sqget v g p =>
    simp only [WellFormed, Instr.wellFormed, Bool.and_eq_true, decide_eq_true_eq] at h
    refine row_sq.formatE (by simp only [encode, Nat.add_assoc]; rfl) rfl rfl (by omega) id fun w w1 hf hw => ?_
    rw [skSq, hf]
    exact congrArg some (by congr 1 <;> omega)
  case cpyt g x b | cpyg v g x b | cpys v g x b =>
    simp only [WellFormed, Instr.wellFormed, Bool.and_eq_true, decide_eq_true_eq] at h
    refine row_copy.formatE (by simp only [encode, Nat.add_assoc]; rfl) rfl rfl (by omega) (by decide) fun w w1 hf hw => ?_
    rw [skCopy, hf]
    exact congrArg some (by congr 1 <;> omega)
  case cpyq g x b k h | cpyz v g x b k | cpyx v g x b k =>
    simp only [WellFormed, Instr.wellFormed, Bool.and_eq_true, decide_eq_true_eq] at h
    refine row_copy.formatE_two (by simp only [encode, Nat.add_assoc]; rfl) rfl rfl (by omega) (by decide) (by omega) fun w hf hw => ?_
    rw [skCopy, hf]
    exact congrArg some (by congr 1 <;> omega)
  case mma v g s r w h f t | mjob v g x b f | drain v g x b e z m f h =>
    simp only [WellFormed, Instr.wellFormed, Bool.and_eq_true, decide_eq_true_eq] at h
    refine row_mat.formatE_two (by simp only [encode, Nat.add_assoc]; rfl) rfl rfl (by omega) (by decide) (by omega) fun w hf hw => ?_
    rw [skMat, hf]
    exact congrArg some (by congr 1 <;> omega)
  case accz v g | accadd v g q | accrd v g l q | accwr v g q =>
    simp only [WellFormed, Instr.wellFormed, Bool.and_eq_true, decide_eq_true_eq] at h
    refine row_mat.formatE (by simp only [encode, Nat.add_assoc]; rfl) rfl rfl (by omega) (by decide) fun w w1 hf hw => ?_
    rw [skMat, hf]
    exact congrArg some (by congr 1 <;> omega)
  all_goals exact absurd hi (of_decide_eq_false rfl)

/-- Majors 0x3A to 0x3D: chains, steps, graphics and rays. -/
theorem readsBack_graphics {i : Instr} (h : WellFormed i) (hi : 199 ≤ i.ctorIdx ∧ i.ctorIdx < 230) : ReadsBack i := by
  cases i
  case bdset g n | bdget d m n | mdset g n | ttprog w g x b =>
    simp only [WellFormed, Instr.wellFormed, Bool.and_eq_true, decide_eq_true_eq] at h
    refine row_chain.formatE (by simp only [encode, Nat.add_assoc]; rfl) rfl rfl (by omega) (by decide) fun w w1 hf hw => ?_
    rw [skChain, hf]
    exact congrArg some (by congr 1 <;> omega)
  case ttcon w g k x b =>
    simp only [WellFormed, Instr.wellFormed, Bool.and_eq_true, decide_eq_true_eq] at h
    refine row_chain.formatE_two (by simp only [encode, Nat.add_assoc]; rfl) rfl rfl (by omega) (by decide) (by omega) fun w hf hw => ?_
    rw [skChain, hf]
    exact congrArg some (by congr 1 <;> omega)
  case stepbeg g | stepend x b | skiprd d g | skipwr s g =>
    simp only [WellFormed, Instr.wellFormed, Bool.and_eq_true, decide_eq_true_eq] at h
    refine row_step.formatE (by simp only [encode, Nat.add_assoc]; rfl) rfl rfl (by omega) id fun w w1 hf hw => ?_
    rw [skStep, hf]
    exact congrArg some (by congr 1 <;> omega)
  case prim v g f c | smp v g l q wr =>
    simp only [WellFormed, Instr.wellFormed, Bool.and_eq_true, decide_eq_true_eq] at h
    refine row_gfx.formatE_two (by simp only [encode, Nat.add_assoc]; rfl) rfl rfl (by omega) (by decide) (by omega) fun w hf hw => ?_
    rw [skGfx, hf]
    exact congrArg some (by congr 1 <;> omega)
  case post v g s | zprobe v g p | tgtopen g | tgtseal g | tgtwait g p | smpl v g l q =>
    simp only [WellFormed, Instr.wellFormed, Bool.and_eq_true, decide_eq_true_eq] at h
    refine row_gfx.formatE (by simp only [encode, Nat.add_assoc]; rfl) rfl rfl (by omega) (by decide) fun w w1 hf hw => ?_
    rw [skGfx, hf]
    exact congrArg some (by congr 1 <;> omega)
  case kill g =>
    simp only [WellFormed, Instr.wellFormed, decide_eq_true_eq] at h
    refine row_gfx.formatE rfl rfl rfl (by omega) (by decide) fun w w1 hf hw => ?_
    rw [skGfx, hf, if_neg (by decide), if_neg (by decide), if_pos ⟨rfl, by omega⟩]
    exact congrArg some (by congr 1; omega)
  case raysub v g t | rayget v g p | mbxget v l p | nodeld v l k | boxt v l | trit v l | rpush v g | rpop v g p | rsave v g |
      rload v g | rcommit v h | rdone v | nodepub v g =>
    simp only [WellFormed, Instr.wellFormed, Bool.and_eq_true, decide_eq_true_eq] at h
    refine row_ray.formatE (by simp only [encode, Nat.add_assoc]; rfl) rfl rfl (by omega) id fun w w1 hf hw => ?_
    rw [skRay, hf]
    exact congrArg some (by congr 1 <;> omega)
  all_goals exact absurd hi (of_decide_eq_false rfl)

/-- The encodings without fields; above them stand the events, which have none. -/
theorem readsBack_fieldless {i : Instr} (hi : 230 ≤ i.ctorIdx ∧ i.isEvent = false) : ReadsBack i := by
  cases i
  case nopC | join | regang | exit | yield | tlbinvAll | sqend | killAll => exact .one _ rfl (by decide) rfl fun _ => rfl
  all_goals exact absurd hi (of_decide_eq_false rfl)

theorem readsBack_of_wellFormed {i : Instr} (h : WellFormed i) (he : i.isEvent = false) : ReadsBack i := by
  by_cases h1 : i.ctorIdx < 54
  · exact readsBack_integer h h1
  by_cases h2 : i.ctorIdx < 104
  · exact readsBack_float h ⟨by omega, h2⟩
  by_cases h3 : i.ctorIdx < 145
  · exact readsBack_uniform h ⟨by omega, h3⟩
  by_cases h4 : i.ctorIdx < 157
  · exact readsBack_control h ⟨by omega, h4⟩
  by_cases h5 : i.ctorIdx < 173
  · exact readsBack_memory h ⟨by omega, h5⟩
  by_cases h6 : i.ctorIdx < 199
  · exact readsBack_async h ⟨by omega, h6⟩
  by_cases h7 : i.ctorIdx < 230
  · exact readsBack_graphics h ⟨by omega, h7⟩
  · exact readsBack_fieldless ⟨by omega, he⟩

/-! Decoding. -/

/-- The decoder reads exactly the words that its check has it compare. -/
theorem decode_one {i : Instr} {w : Nat} (rest : List Nat) (hw : WellFormed i) (henc : encode i = [w]) (htwo : takesTwo w = false)
    (hsk : ∀ w1, skeleton w w1 = some i) : decode (w :: rest) = .ok i := by
  simp [decode, hsk, htwo, henc, hw]

theorem decode_two {i : Instr} {w w1 : Nat} (rest : List Nat) (hw : WellFormed i) (henc : encode i = [w, w1]) (htwo : takesTwo w = true)
    (hsk : skeleton w w1 = some i) : decode (w :: w1 :: rest) = .ok i := by
  simp [decode, hsk, htwo, henc, hw]

/-- The bytes of words, as memory holds them, give the words back (R3). -/
theorem wordsOfBytes_flatMap (ws : List Nat) (h : ∀ w ∈ ws, w < 2 ^ 32) : wordsOfBytes (ws.flatMap bytesOfWord) = ws := by
  induction ws with
  | nil => rfl
  | cons w ws ih =>
    have hw := h w (List.mem_cons_self ..)
    rw [List.flatMap_cons, bytesOfWord, List.cons_append, List.cons_append, List.cons_append, List.cons_append, List.nil_append,
      wordsOfBytes, ih fun x hx => h x (List.mem_cons_of_mem _ hx)]
    congr 1
    simp only [BitVec.toNat_ofNat]
    omega

/-- Settles O56: the words of a well-formed instruction name its row with its fields, and the decoder needs no more than that. -/
theorem decodeEncode : Obligations.DecodeEncode := by
  intro i hi he
  have hlt : ∀ w ∈ encode i, w < 2 ^ 32 := by
    cases readsBack_of_wellFormed hi he with
    | one w henc hlt => simpa [henc] using hlt
    | two w w1 henc hlt hlt1 => simp only [henc]; simpa using ⟨hlt, hlt1⟩
  have hdec : ∀ rest, decode (encode i ++ rest) = .ok i := by
    cases readsBack_of_wellFormed hi he with
    | one w henc hlt htwo hsk => exact fun rest => henc ▸ decode_one rest hi henc htwo hsk
    | two w w1 henc hlt hlt1 htwo hsk => exact fun rest => henc ▸ decode_two rest hi henc htwo hsk
  refine ⟨hdec, ?_, hlt, ?_⟩
  · rw [decodeBytes, wordsOfBytes_flatMap _ hlt]
    simpa using hdec []
  · cases readsBack_of_wellFormed hi he with
    | one w henc _ htwo => simp [henc, Machine.nth, htwo]
    | two w w1 henc _ _ htwo => simp [henc, Machine.nth, htwo]

/-- Only events are without words. -/
theorem isEvent_eq_isEmpty_encode (i : Instr) : i.isEvent = (encode i).isEmpty := by cases i <;> rfl

/-- What the decoder accepts passed its check: the instruction read is well formed, and the words begin with its encoding. -/
theorem decode_ok {ws : List Nat} {i : Instr} (h : decode ws = .ok i) : WellFormed i ∧ encode i ≠ [] ∧ ∃ rest, ws = encode i ++ rest := by
  cases ws with
  | nil => cases h
  | cons w rest =>
    cases hsk : skeleton w (rest.headD 0) with
    | none =>
      simp only [decode, hsk] at h
      cases h
    | some j =>
      by_cases htrunc : (takesTwo w && rest.isEmpty) = true
      · simp only [decode, hsk, if_pos htrunc] at h
        cases h
      by_cases hok : (j.wellFormed && encode j == (if takesTwo w then [w, rest.headD 0] else [w])) = true
      · simp only [decode, hsk, if_neg htrunc, if_pos hok, Except.ok.injEq] at h
        subst h
        rw [Bool.and_eq_true, beq_iff_eq] at hok
        obtain ⟨hwf, henc⟩ := hok
        refine ⟨hwf, by rw [henc]; split <;> simp, ?_⟩
        rw [henc]
        cases rest with
        | nil => exact ⟨[], by rw [if_neg (by simpa using htrunc)]; rfl⟩
        | cons w1 rest =>
          split
          · exact ⟨rest, rfl⟩
          · exact ⟨w1 :: rest, rfl⟩
      · simp only [decode, hsk, if_neg htrunc, if_neg hok] at h
        cases h

/-- Settles O57: the decoder's own check compares the words with the encoding of the instruction that it read. -/
theorem decodeRefuses : Obligations.DecodeRefuses := by
  intro ws i h
  obtain ⟨hwf, hne, hrest⟩ := decode_ok h
  exact ⟨hwf, by rw [isEvent_eq_isEmpty_encode]; simpa using hne, hrest⟩

/-- Settles O58: each word's fields are read at their places. -/
theorem decodeWords : Obligations.DecodeWords :=
  ⟨rfl, rfl, rfl, rfl, rfl, rfl, rfl, rfl, rfl, rfl, rfl⟩

end Sys2Proof
end

section
/-! SUPPORT. What the memory system leaves alone: whatever its operations do to memory, caches, lines and accesses in flight (R222 to R258),
registers, paths, gangs, workgroups, contexts and translations are as before, and where no unit is poisoned none becomes so. One rule for each
operation, in the model's order. -/

namespace Sys2Proof.Machine

/-- A state without what the memory system changes. -/
def State.rest (s : State) : State :=
  { s with mem := [], beacons := [], poison := [], l1 := [], lines := [], snoop := [], cache := [], stamp := 0, regions := [],
           pkg := State.reset.pkg, ops := [], ro := [], hostSent := [], peers := [] }

/-- No unit is poisoned, in memory or a cache, or on its way to a home slice (R28). -/
def Unpoisoned (s : State) : Prop := s.poison = [] ∧ ∀ e ∈ s.lines, ∀ x ∈ e.2.queue, x.bad = []

/-- State t is what s becomes by work of the memory system alone. -/
structure Kept (s t : State) : Prop where
  rest : t.rest = s.rest
  unpoisoned : Unpoisoned s → Unpoisoned t
  /-- No access comes into flight. -/
  noOp : ∀ k, aGet k s.ops = none → aGet k t.ops = none

theorem Kept.refl (s : State) : Kept s s := ⟨rfl, id, fun _ h => h⟩

theorem mem_of_aGet {α : Type} {k : Nat} {v : α} {m : AMap α} (h : aGet k m = some v) : (k, v) ∈ m := by
  induction m with
  | nil => cases h
  | cons e m ih =>
    obtain ⟨j, w⟩ := e
    rw [aGet_cons] at h
    split at h
    · cases h; subst_vars; exact List.mem_cons_self ..
    · exact List.mem_cons_of_mem _ (ih h)

theorem Unpoisoned.lineAt {s : State} (h : Unpoisoned s) (ln : Nat) : ∀ x ∈ (lineAt s ln).queue, x.bad = [] := by
  unfold Machine.lineAt
  cases hg : aGet ln s.lines with
  | none => intro x hx; cases hx
  | some l => exact h.2 _ (mem_of_aGet hg)

/-- Fewer poisoned units, and the same lines. -/
theorem Unpoisoned.of_subset {s t : State} (h : Unpoisoned s) (hp : t.poison ⊆ s.poison) (hl : t.lines = s.lines) : Unpoisoned t :=
  ⟨List.subset_nil.1 (h.1 ▸ hp), hl ▸ h.2⟩

theorem Unpoisoned.setLine {s : State} (h : Unpoisoned s) {ln : Nat} {l : Line} (hl : ∀ x ∈ l.queue, x.bad = []) :
    Unpoisoned (setLine s ln l) := by
  refine ⟨h.1, ?_⟩
  simp only [Machine.setLine]
  split
  · exact fun e he => h.2 e (mem_aErase he)
  · intro e he
    rcases mem_aSet he with rfl | he
    · exact hl
    · exact h.2 e he

theorem Unpoisoned.badUnits {s : State} (h : Unpoisoned s) (core : Nat) (bs : List (Nat × Nat)) : badUnits s core bs = [] := by
  simp [Machine.badUnits, h.1]

section
variable {s t : State}

theorem Kept.of_eq {u : State} (h : Kept s t) (hr : u.rest = t.rest) (hu : Unpoisoned t → Unpoisoned u) (ho : u.ops = t.ops) : Kept s u :=
  ⟨hr.trans h.rest, fun hs => hu (h.unpoisoned hs), fun k hk => ho ▸ h.noOp k hk⟩

/-- What changes caches, counts and marks of the memory system, but no line's queue, and poisons nothing. -/
theorem Kept.of_subset {u : State} (h : Kept s t) (hr : u.rest = t.rest) (hp : u.poison ⊆ t.poison) (hl : u.lines = t.lines)
    (ho : u.ops = t.ops) : Kept s u :=
  h.of_eq hr (fun ht => ht.of_subset hp hl) ho

theorem Kept.foldl {α : Type} {f : State → α → State} (hf : ∀ t x, Kept s t → Kept s (f t x)) (xs : List α) (h : Kept s t) :
    Kept s (xs.foldl f t) := by
  induction xs generalizing t with
  | nil => exact h
  | cons x xs ih => exact ih (hf t x h)

theorem Kept.v (h : Kept s t) : t.v = s.v := (congrArg State.v h.rest : t.rest.v = s.rest.v)
theorem Kept.g (h : Kept s t) : t.g = s.g := (congrArg State.g h.rest : t.rest.g = s.rest.g)
theorem Kept.p (h : Kept s t) : t.p = s.p := (congrArg State.p h.rest : t.rest.p = s.rest.p)
theorem Kept.csr (h : Kept s t) : t.csr = s.csr := (congrArg State.csr h.rest : t.rest.csr = s.rest.csr)
theorem Kept.paths (h : Kept s t) : t.paths = s.paths := (congrArg State.paths h.rest : t.rest.paths = s.rest.paths)
theorem Kept.gangs (h : Kept s t) : t.gangs = s.gangs := (congrArg State.gangs h.rest : t.rest.gangs = s.rest.gangs)
theorem Kept.wgs (h : Kept s t) : t.wgs = s.wgs := (congrArg State.wgs h.rest : t.rest.wgs = s.rest.wgs)
theorem Kept.fresh (h : Kept s t) : t.fresh = s.fresh := (congrArg State.fresh h.rest : t.rest.fresh = s.rest.fresh)
theorem Kept.tlb (h : Kept s t) : t.tlb = s.tlb := (congrArg State.tlb h.rest : t.rest.tlb = s.rest.tlb)
theorem Kept.ctxs (h : Kept s t) : t.ctxs = s.ctxs := (congrArg State.ctxs h.rest : t.rest.ctxs = s.rest.ctxs)
theorem Kept.ats (h : Kept s t) : t.ats = s.ats := (congrArg State.ats h.rest : t.rest.ats = s.rest.ats)

theorem Kept.sameRegisters (h : Kept s t) : SameRegisters s t := ⟨h.v, h.g, h.p, h.csr⟩

/-! Bytes, marks and lines. -/

theorem Kept.memPut (h : Kept s t) (a : Nat) (bs : List Nat) : Kept s (memPut t a bs) :=
  h.of_subset rfl (List.filter_subset_self _) rfl rfl

theorem Kept.memPutAll (h : Kept s t) (bs : List (Nat × Nat)) : Kept s (memPutAll t bs) :=
  h.of_subset rfl (List.filter_subset_self _) rfl rfl

theorem Kept.addPoison (h : Kept s t) (es : List ErrorPlace) (hes : Unpoisoned s → es = []) : Kept s (addPoison t es) :=
  ⟨h.rest, fun hs => by
    obtain ⟨hp, hl⟩ := h.unpoisoned hs
    exact ⟨by simp [Machine.addPoison, hp, hes hs], hl⟩, h.noOp⟩

theorem Kept.putBack (h : Kept s t) (bs : List (Nat × Nat)) (bad : List Nat) (hbad : Unpoisoned s → bad = []) :
    Kept s (putBack t bs bad) :=
  (h.memPutAll bs).addPoison _ fun hs => by rw [hbad hs]; rfl

/-- A line whose queue holds nothing that it did not hold before. -/
theorem Kept.setLine (h : Kept s t) (ln : Nat) (l : Line) (hl : l.queue ⊆ (lineAt t ln).queue) : Kept s (setLine t ln l) :=
  h.of_eq rfl (fun ht => ht.setLine fun x hx => ht.lineAt ln x (hl hx)) rfl

theorem Kept.askLine (h : Kept s t) (ln : Nat) (r : HomeReq) (hr : Unpoisoned s → r.bad = []) : Kept s (askLine t ln r) :=
  ⟨h.rest, fun hs => (h.unpoisoned hs).setLine fun x hx => by
    rcases List.mem_append.1 hx with hx | hx
    · exact (h.unpoisoned hs).lineAt ln x hx
    · obtain rfl : x = r := by simpa using hx
      exact hr hs, h.noOp⟩

/-! Words of L1s and spans. -/

theorem Kept.dropWords (h : Kept s t) (core : Nat) (ws : List Nat) : Kept s (dropWords t core ws) :=
  h.of_subset rfl (List.filter_subset_self _) rfl rfl

theorem Kept.dropClean (h : Kept s t) (core : Nat) (ws : List Nat) : Kept s (dropClean t core ws) :=
  h.of_subset rfl (List.filter_subset_self _) rfl rfl

theorem Kept.markClean (h : Kept s t) (core : Nat) (ws : List Nat) : Kept s (markClean t core ws) :=
  h.of_subset rfl (List.Subset.refl _) rfl rfl

theorem Kept.dropSpan (h : Kept s t) (ln : Nat) (x : Span) : Kept s (dropSpan t ln x) :=
  (h.putBack _ _ fun hs => (h.unpoisoned hs).badUnits _ _).dropWords _ _

theorem Kept.recallSpan (h : Kept s t) (ln : Nat) (x : Span) : Kept s (recallSpan t ln x) :=
  (Kept.foldl (fun _ y h => h.dropSpan ln y) _ h).setLine _ _ (List.Subset.refl _)

theorem Kept.recallAll (h : Kept s t) (ln : Nat) (xs : List Span) : Kept s (recallAll t ln xs) :=
  Kept.foldl (fun _ y h => h.recallSpan ln y) _ h

theorem Kept.sendBack (h : Kept s t) (core ctx rt ln : Nat) (bs : List (Nat × Nat)) (bad : List Nat) (hbad : Unpoisoned s → bad = []) :
    Kept s (sendBack t core ctx rt ln bs bad) := by
  unfold Machine.sendBack
  split
  · exact h
  · exact h.askLine _ _ hbad

theorem Kept.writeBackAs (h : Kept s t) (rt core ln : Nat) (words : List Nat) : Kept s (writeBackAs rt t core ln words) := by
  unfold Machine.writeBackAs
  dsimp only
  split
  · exact h
  · refine Kept.sendBack (Kept.markClean ?_ _ _) _ _ _ _ _ _ fun hs => (h.unpoisoned hs).badUnits _ _
    split
    · exact h
    · exact h.putBack _ _ fun hs => (h.unpoisoned hs).badUnits _ _

theorem Kept.writeBackWords (h : Kept s t) (core ln : Nat) (words : List Nat) : Kept s (writeBackWords t core ln words) :=
  h.writeBackAs _ _ _ _

theorem Kept.writeBackLine (h : Kept s t) (core ln : Nat) : Kept s (writeBackLine t core ln) := h.writeBackWords _ _ _

theorem Kept.writeBackRange (h : Kept s t) (core a n : Nat) : Kept s (writeBackRange t core a n) :=
  Kept.foldl (fun _ ln h => h.writeBackWords core ln _) _ h

theorem Kept.evictWord (h : Kept s t) (core a : Nat) : Kept s (evictWord t core a) :=
  ((h.recallAll _ _).writeBackWords _ _ _).dropWords _ _

theorem Kept.trimL1 (h : Kept s t) (core ln fuel : Nat) : Kept s (trimL1 core ln fuel t) := by
  induction fuel generalizing t with
  | zero => exact h
  | succ n ih =>
    unfold Machine.trimL1
    dsimp only
    split
    · exact h
    · split
      · exact ih (h.evictWord _ _)
      · exact h

theorem Kept.l1Put (h : Kept s t) (core ctx : Nat) (kind : L1Kind) (dirty : Bool) (bs : List (Nat × Nat)) :
    Kept s (l1Put t core ctx kind dirty bs) := by
  unfold Machine.l1Put
  split
  · exact h
  · refine Kept.trimL1 ?_ _ _ _
    exact h.of_subset rfl (List.filter_subset_self _) rfl rfl

theorem Kept.l1Fill (h : Kept s t) (core ctx a n : Nat) (kind : L1Kind) : Kept s (l1Fill t core ctx a n kind) := h.l1Put _ _ _ _ _

/-! The shared cache. -/

theorem Kept.dropCached (h : Kept s t) (gone : CacheLine → Bool) : Kept s (dropCached t gone) :=
  h.of_subset rfl (List.filter_subset_self _) rfl rfl

theorem Kept.unholdLine (h : Kept s t) (die ln : Nat) : Kept s (unholdLine t die ln) := h.dropCached _

theorem Kept.giveUp (h : Kept s t) (e ln : Nat) : Kept s (giveUp t e ln) :=
  ((h.unholdLine e ln).recallAll ln _).setLine _ _ (List.Subset.refl _)

theorem Kept.evictCopy (h : Kept s t) (x : CacheLine) : Kept s (evictCopy t x) := by
  unfold Machine.evictCopy
  have hu := h.unholdLine x.die x.line
  dsimp only
  split
  · exact hu
  · split
    · split <;> exact hu.setLine _ _ (List.Subset.refl _)
    · split
      · exact hu.setLine _ _ (List.Subset.refl _)
      · split
        · exact hu.giveUp _ _
        · exact hu
    · exact hu

theorem Kept.makeRoom (h : Kept s t) (slice c : Nat) : Kept s (makeRoom t slice c) := by
  unfold Machine.makeRoom
  split
  · exact h.evictCopy _
  · exact h

theorem Kept.holdLine (h : Kept s t) (die ln ctx : Nat) (peer first : Bool) : Kept s (holdLine t die ln ctx peer first) := by
  unfold Machine.holdLine
  split
  · exact h.of_subset rfl (List.Subset.refl _) rfl rfl
  · dsimp only
    split
    · exact (h.makeRoom _ _).of_subset rfl (List.Subset.refl _) rfl rfl
    · exact h.of_subset rfl (List.Subset.refl _) rfl rfl

/-! The home slices. -/

theorem Kept.countRequest (h : Kept s t) (a : Nat) (b : Bool) : Kept s (countRequest t a b) :=
  h.of_subset rfl (List.Subset.refl _) rfl rfl

theorem Kept.countCollapse (h : Kept s t) (a : Nat) : Kept s (countCollapse t a) := h.of_subset rfl (List.Subset.refl _) rfl rfl

theorem Kept.opArrive (h : Kept s t) (op lane x : Nat) : Kept s (opArrive t op lane x) :=
  ⟨h.rest, fun hs => (h.unpoisoned hs).of_subset (List.Subset.refl _) rfl, fun k hk => by
    have hnone : aGet k t.ops = none := h.noOp k hk
    simp only [Machine.opArrive, modOp, aGet_aMod]
    split
    · subst_vars; rw [hnone]; rfl
    · exact hnone⟩

theorem Kept.consumePackage (h : Kept s t) (place : ErrorPlace) (die unit : Nat) : Kept s (consumePackage t place die unit) := by
  unfold Machine.consumePackage
  split
  · exact h.of_subset rfl (List.filter_subset_self _) rfl rfl
  · exact h

theorem Kept.noteSnoop (h : Kept s t) (die ln : Nat) : Kept s (noteSnoop t die ln) := by
  unfold Machine.noteSnoop
  have hc := h.consumePackage (.snoop (holderSlice die ln)) die (bankUnit (holderSlice die ln * 4))
  dsimp only
  split
  · exact hc
  · split
    · split
      · exact (hc.recallAll _ _).of_subset rfl (List.Subset.refl _) rfl rfl
      · exact hc.of_subset rfl (List.Subset.refl _) rfl rfl
    · exact hc.of_subset rfl (List.Subset.refl _) rfl rfl

theorem Kept.roomIn (h : Kept s t) (ln : Nat) (map : List Span) : Kept s (roomIn t ln map) := by
  unfold Machine.roomIn
  split
  · split
    · exact h.recallSpan _ _
    · exact h
  · exact h

theorem Kept.grantSpan (h : Kept s t) (ln core ctx first len : Nat) : Kept s (grantSpan t ln core ctx first len) := by
  unfold Machine.grantSpan
  dsimp only
  refine Kept.l1Fill (Kept.noteSnoop (Kept.setLine (h.roomIn _ _) _ _ ?_) _ _) _ _ _ _ _
  split <;> exact List.Subset.refl _

theorem Kept.grantProxy (h : Kept s t) (ln die first len : Nat) : Kept s (grantProxy t ln die first len) :=
  (h.roomIn _ _).setLine _ _ (List.Subset.refl _)

theorem Kept.arriveAt (h : Kept s t) (ln : Nat) (r : HomeReq) (atHome : Bool) : Kept s (arriveAt t ln r atHome) := by
  unfold Machine.arriveAt
  cases atHome
  · dsimp only
    split
    · exact h
    · exact h.holdLine _ _ _ _ _
  · dsimp only
    split
    · exact h.countRequest _ _
    · exact (h.countRequest _ _).holdLine _ _ _ _ _

theorem Kept.serveReq (h : Kept s t) (ln : Nat) (r : HomeReq) (atHome : Bool) (hr : Unpoisoned s → r.bad = []) :
    Kept s (serveReq t ln r atHome) := by
  unfold Machine.serveReq
  have h1 := h.arriveAt ln r atHome
  revert h1
  generalize Machine.arriveAt t ln r atHome = u
  intro h1
  dsimp only
  split
  · exact h1.putBack _ _ hr
  · refine Kept.opArrive ?_ _ _ _
    split
    · exact h1.l1Fill _ _ _ _ _
    · exact h1.grantSpan _ _ _ _ _
  · refine Kept.opArrive ?_ _ _ _
    split
    · exact h1.l1Fill _ _ _ _ _
    · split
      · exact h1.dropClean _ _
      · exact h1
  · exact h1

theorem Kept.serveHead (h : Kept s t) (ln : Nat) (r : HomeReq) (dir : DirState) (atHome : Bool) (hr : Unpoisoned s → r.bad = []) :
    Kept s (serveHead t ln r dir atHome) :=
  (h.setLine _ _ (List.tail_subset _)).serveReq _ _ _ hr

theorem Kept.markRecall (h : Kept s t) (ln : Nat) (xs : List Span) : Kept s (markRecall t ln xs) :=
  h.setLine _ _ (List.Subset.refl _)

theorem Kept.homeUnc (h : Kept s t) (ln : Nat) (r : HomeReq) (hr : Unpoisoned s → r.bad = []) : Kept s (homeUnc t ln r) := by
  unfold Machine.homeUnc
  dsimp only
  split
  · exact h.markRecall _ _
  · split
    · exact ((h.holdLine _ _ _ _ _).grantProxy _ _ _ _).serveHead _ _ _ _ hr
    · split
      · exact (h.holdLine _ _ _ _ _).serveHead _ _ _ _ hr
      · exact h.serveHead _ _ _ _ hr

theorem getLast?_append_dropLast_subset {α : Type} (xs : List α) : xs.getLast?.toList ++ xs.dropLast ⊆ xs := by
  intro x hx
  rcases List.mem_append.1 hx with hx | hx
  · exact List.mem_of_getLast? (by simpa using hx)
  · exact List.mem_of_mem_dropLast hx

theorem Kept.cleanFirst (h : Kept s t) (ln : Nat) (r : HomeReq) : Kept s (cleanFirst t ln r) :=
  (h.writeBackWords _ _ _).setLine _ _ (getLast?_append_dropLast_subset _)

theorem Kept.homeStep (h : Kept s t) (ln : Nat) : Kept s (homeStep t ln) := by
  unfold Machine.homeStep
  split
  · exact h
  · rename_i r hhead
    have hr : Unpoisoned s → r.bad = [] := fun hs => (h.unpoisoned hs).lineAt ln r (List.mem_of_head? hhead)
    have hc := h.consumePackage (.directory ln) (homeDie (ln * 128)) (bankUnit (homeBank (ln * 128)))
    dsimp only
    split
    · exact hc.cleanFirst _ _
    · split
      · exact hc.homeUnc _ _ hr
      · split
        · split
          · exact (hc.countCollapse _).setLine _ _ (List.Subset.refl _)
          · exact hc.setLine _ _ (List.Subset.refl _)
        · split
          · exact hc.markRecall _ _
          · split
            · exact (hc.holdLine _ _ _ _ _).serveHead _ _ _ _ hr
            · exact hc.serveHead _ _ _ _ hr
      · split
        · exact hc.setLine _ _ (List.Subset.refl _)
        · split
          · exact hc.markRecall _ _
          · exact hc.serveHead _ _ _ _ hr
      · exact hc

theorem Kept.invalidate (h : Kept s t) (ln die left : Nat) : Kept s (invalidate t ln die left) :=
  (h.unholdLine _ _).setLine _ _ (List.Subset.refl _)

theorem Kept.recallMarked (h : Kept s t) (ln : Nat) : Kept s (recallMarked t ln) := by
  unfold Machine.recallMarked
  split
  · exact h.recallSpan _ _
  · exact h

theorem Kept.lineStep (h : Kept s t) (ln : Nat) : Kept s (lineStep t ln) := by
  unfold Machine.lineStep
  dsimp only
  split
  · exact h.setLine _ _ (List.Subset.refl _)
  · exact h.setLine _ _ (List.Subset.refl _)
  · exact h.invalidate _ _ _
  · exact h.giveUp _ _
  · split
    · exact h.recallMarked _
    · exact h.homeStep _

theorem Kept.settleSteps (h : Kept s t) (ln fuel : Nat) : Kept s (settleSteps ln fuel t) := by
  induction fuel generalizing t with
  | zero => exact h
  | succ n ih =>
    unfold Machine.settleSteps
    dsimp only
    split
    · exact h
    · exact ih (h.lineStep _)

theorem Kept.settleLine (h : Kept s t) (ln : Nat) : Kept s (settleLine t ln) := h.settleSteps _ _

theorem Kept.homeDo (h : Kept s t) (ln : Nat) (r : HomeReq) (hr : r.bad = []) : Kept s (homeDo t ln r) :=
  (h.askLine _ _ fun _ => hr).settleLine _

theorem Kept.homeEach (h : Kept s t) (w : Who) (kind : HomeKind) (a n : Nat) (bs : List (Nat × Nat)) :
    Kept s (homeEach t w kind a n bs) := Kept.foldl (fun _ ln h => h.homeDo ln _ rfl) _ h

theorem Kept.ncRequest (h : Kept s t) (w : Who) (read : Bool) (a n : Nat) : Kept s (ncRequest t w read a n) := by
  refine Kept.foldl (fun t ln h => ?_) _ h
  dsimp only
  split
  · exact h.countRequest _ _
  · exact (h.countRequest _ _).holdLine _ _ _ _ _

theorem Kept.hostSend (h : Kept s t) (c : Nat) (kind : HostKind) (a n : Nat) : Kept s (hostSend t c kind a n) := by
  unfold Machine.hostSend
  split
  · exact h.of_subset rfl (List.Subset.refl _) rfl rfl
  · exact h

theorem Kept.homeRead (h : Kept s t) (w : Who) (a n : Nat) : Kept s (homeRead t w a n).1 := by
  unfold Machine.homeRead
  dsimp only
  split
  · exact h.hostSend _ _ _ _
  · split
    · exact h.ncRequest _ _ _ _
    · exact h.homeEach _ _ _ _ _

theorem Kept.homeOpen (h : Kept s t) (w : Who) (a n : Nat) : Kept s (homeOpen t w a n) := by
  unfold Machine.homeOpen
  split
  · exact h.homeEach _ _ _ _ _
  · exact h

theorem Kept.obtainOwn (h : Kept s t) (core ctx pin a n : Nat) : Kept s (obtainOwn t core ctx pin a n) := h.homeDo _ _ rfl

/-! Releases and acquires. -/

theorem Kept.flushDirtySi (h : Kept s t) (core : Nat) : Kept s (flushDirtySi t core) :=
  Kept.foldl (fun _ ln h => (h.writeBackLine core ln).settleLine ln) _ h

theorem Kept.unkeep (h : Kept s t) (which : PeerReq → Bool) : Kept s (unkeep t which) := h.of_subset rfl (List.Subset.refl _) rfl rfl

theorem Kept.acquire (h : Kept s t) (scope core ctx : Nat) : Kept s (acquire t scope core ctx) := by
  unfold Machine.acquire
  split
  · exact h
  · dsimp only
    split
    · exact (((h.flushDirtySi core).dropWords _ _).dropCached _).unkeep _
    · exact (h.flushDirtySi core).dropWords _ _

theorem Kept.releaseCore (h : Kept s t) (scope core : Nat) : Kept s (releaseCore t scope core) := by
  unfold Machine.releaseCore
  split
  · exact h
  · exact h.flushDirtySi core

/-! The read-only cache. -/

theorem Kept.roDrop (h : Kept s t) (gone : RoLine → Bool) : Kept s (roDrop t gone) := h.of_subset rfl (List.filter_subset_self _) rfl rfl

theorem Kept.roInsert (h : Kept s t) (x : RoLine) : Kept s (roInsert t x) := by
  unfold Machine.roInsert
  have hr : Kept s { t with ro := t.ro.filter fun y => !(y.core == x.core && y.line == x.line) } :=
    h.of_subset rfl (List.Subset.refl _) rfl rfl
  dsimp only
  split
  · split
    · exact (hr.roDrop _).of_subset rfl (List.Subset.refl _) rfl rfl
    · exact hr.of_subset rfl (List.Subset.refl _) rfl rfl
  · exact hr.of_subset rfl (List.Subset.refl _) rfl rfl

theorem Kept.touchP (h : Kept s t) (die ctx ln : Nat) : Kept s (touchP t die ctx ln) := by
  unfold Machine.touchP
  split
  · exact h.holdLine _ _ _ _ _
  · exact h

theorem Kept.roLine (h : Kept s t) (w : Who) (core ctx ln : Nat) : Kept s (roLine t w core ctx ln).1 := by
  have hr : ∀ words : List Nat, Kept s (if words.length = 32 then (Machine.homeRead t w (ln * 128) 128).1
      else words.foldl (fun t a => (Machine.homeRead t w a 4).1) t) := by
    intro words
    split
    · exact h.homeRead _ _ _
    · exact Kept.foldl (fun _ a h => h.homeRead w a 4) _ h
  unfold Machine.roLine
  dsimp only
  split
  · exact (hr _).touchP _ _ _
  · exact hr _

/-- Nothing is amiss with a range where no unit is poisoned. -/
theorem Unpoisoned.poisonedVia {s : State} (h : Unpoisoned s) (useL1 : Bool) (core a n : Nat) : poisonedVia useL1 s core a n = none := by
  simp [Machine.poisonedVia, badByte, badUnit, hostFails, h.1]

theorem Unpoisoned.roLine {s : State} (h : Unpoisoned s) (w : Who) (core ctx ln : Nat) : (roLine s w core ctx ln).2.2 = [] := by
  simp [Machine.roLine, h.poisonedVia, h.1]

theorem Kept.roFill (h : Kept s t) (w : Who) (core ctx ln : Nat) : Kept s (roFill t w core ctx ln) :=
  ((h.roLine w core ctx ln).roInsert _).addPoison _ fun hs => by rw [(h.unpoisoned hs).roLine]; rfl

theorem Kept.roRead (h : Kept s t) (w : Who) (core ctx a n : Nat) : Kept s (roRead t w core ctx a n).1 := by
  unfold Machine.roRead
  dsimp only
  split
  · exact h.roInsert _
  · exact h.roFill _ _ _ _

/-! Loads. -/

theorem Kept.clearWay (h : Kept s t) (core leaf pa n : Nat) : Kept s (clearWay t core leaf pa n) := by
  unfold Machine.clearWay
  split
  · exact h.writeBackRange _ _ _
  · split
    · exact h
    · exact (h.writeBackRange _ _ _).dropClean _ _

theorem Kept.yieldSpans (h : Kept s t) (core pa n : Nat) : Kept s (yieldSpans t core pa n) := h.recallAll _ _

theorem Kept.loadNow (h : Kept s t) (core ctx rt leaf pa n : Nat) : Kept s (loadNow t core ctx rt leaf pa n).1 := by
  have hclear := h.clearWay core leaf pa n
  unfold Machine.loadNow
  dsimp only
  split
  · split
    · exact h
    · exact h.roRead _ _ _ _ n
  · split
    · exact h
    · split
      · split
        · dsimp only
          split
          · exact (h.touchP _ _ _).l1Fill _ _ _ _ _
          · exact (h.touchP _ _ _).dropClean _ _
        · exact h
      · split
        · dsimp only
          split
          · exact h
          · exact hclear
        · dsimp only
          split
          · split
            · exact (hclear.ncRequest _ _ _ _).l1Fill _ _ _ _ _
            · exact (hclear.hostSend _ _ _ _).l1Fill _ _ _ _ _
          · split
            · exact (hclear.ncRequest _ _ _ _).dropClean _ _
            · exact (hclear.hostSend _ _ _ _).dropClean _ _

/-- One lane of a load from this device: its access stays where it is, whether its value is there or asked for. -/
theorem Kept.loadLane (h : Kept s t) (op gid core ctx : Nat) (a : LaneAccess) (ha : isPeer a.pa = false) :
    Kept s (loadLane t op gid core ctx a).1 ∧ (loadLane t op gid core ctx a).2.1.pa = a.pa ∧
      (loadLane t op gid core ctx a).2.1.size = a.size := by
  have hnow := h.loadNow core ctx a.rt a.leaf a.pa a.size
  unfold Machine.loadLane
  dsimp only
  split
  · exact ⟨hnow, rfl, rfl⟩
  · rw [ha]
    exact ⟨hnow.askLine _ _ fun _ => rfl, rfl, rfl⟩

end
end Sys2Proof.Machine
end

section
/-! SUPPORT. Checks of a lane whose translation is at hand (R210 to R212): nothing is asked for or marked, and the address is the leaf's. -/

namespace Sys2Proof.Machine

section
variable {s : State} {q : Path} {acc : Acc} {va n pa leaf : Nat}

theorem translate_of_mapsFor {c core : Nat} {sup : Bool} (h : MapsFor s c core sup acc va n pa leaf) :
    translate s c core sup acc va n = (s, .ok pa leaf []) := by
  obtain ⟨hva, hal, hperm, hloc, -, e, hfind, rfl, hd, rfl⟩ := h
  have hhit : ((tlbFind s core c va).filter fun t => !dirties acc || eD t.leaf) = some e := by
    simpa [hfind, Option.filter, Bool.or_eq_true, imp_iff_not_or] using hd
  simp only [translate, hhit, hal, Nat.not_le.2 hva, leafTarget, hloc, permit, hperm, bne_self_eq_false, Bool.false_eq_true, ↓reduceIte]

theorem laneXl_of_maps (h : Maps s q acc va n pa leaf) (hq : q.refused = []) : laneXl s q acc va n = (s, .ok pa leaf []) := by
  simp [laneXl, translate_of_mapsFor h, isRefused, hq]

theorem laneDry_of_maps (h : Maps s q acc va n pa leaf) (hq : q.refused = []) : laneDry s q acc va n = .pass pa leaf := by
  simp [laneDry, laneXl_of_maps h hq]

theorem isPeer_of_isDevice {a : Nat} (h : isDevice a = true) : isPeer a = false := by
  have ha : a < hostBase := of_decide_eq_true h
  exact decide_eq_false (Nat.not_le.2 (Nat.lt_trans ha (by decide)))

theorem Maps.isDevice (h : Maps s q acc va n pa leaf) : isDevice pa = true := h.2.2.2.2.1

theorem Maps.isPeer (h : Maps s q acc va n pa leaf) : isPeer pa = false := isPeer_of_isDevice h.isDevice

/-- One translation has one address. -/
theorem Maps.unique {pa' leaf' : Nat} (h : Maps s q acc va n pa leaf) (h' : Maps s q acc va n pa' leaf') : pa = pa' ∧ leaf = leaf' := by
  have := (translate_of_mapsFor h).symm.trans (translate_of_mapsFor h')
  simpa using this

theorem laneCheckBy_of_maps {poison : State → Nat → Nat → Option Nat} {further : State → Nat → Nat → Option (Nat × Nat × Nat)} {m : Nat}
    (h : Maps s q acc va n pa leaf) (hq : q.refused = []) (hp : poison s pa leaf = none) (hf : further s pa leaf = none) :
    laneCheckBy poison further s q acc va m n = (s, .pass pa leaf) := by
  simp [laneCheckBy, laneXl_of_maps h hq, outOfReach, h.isPeer, hp, hf, commitXl]

end

end Sys2Proof.Machine
end

section
/-! SUPPORT. The return of load data: the registers a return writes (R51, R218, R220), and paths that did not wait for it. -/

namespace Sys2Proof.Machine

/-- A path that did not wait at home for an operation is as before its return. -/
theorem resumeAfter_of_not_home {s : State} {k : Nat} {o : Op} {q : Path} (hq : aGet o.path s.paths = some q) (hw : q.wait ≠ .home) :
    resumeAfter s k o = s := by
  simp [resumeAfter, hq, hw]

/-- The value that a return makes of a lane's bytes: sign-extended to a register from a number of bits, or as it is (R218). -/
def returnValue (ext : Option Nat) (x : Nat) : Nat :=
  match ext with
  | some b => wrapInt (sext x b) 32
  | none => x

theorem mem_returnWrites {o : Op} {d w : Nat} {ext : Option Nat} (hd : loadDest o.instr = (d, w, ext)) (e : Nat × Nat) :
    e ∈ returnWrites o ↔ ∃ a ∈ o.accesses, ∃ i, i < w ∧
      e = (vKey o.gang a.lane (d + i), bits (returnValue ext a.value) (32 * i + 31) (32 * i)) := by
  simp only [returnWrites, List.mem_flatMap]
  simp only [hd, regWrites, List.mem_map, List.mem_range]
  constructor
  · rintro ⟨a, ha, i, hi, rfl⟩; exact ⟨a, ha, i, hi, rfl⟩
  · rintro ⟨a, ha, i, hi, rfl⟩; exact ⟨a, ha, i, hi, rfl⟩

/-- A register that a return writes: word i of its lane's value (R51, R218). -/
theorem getV_returnWrites {s u : State} {o : Op} {d w : Nat} {ext : Option Nat} (hd : loadDest o.instr = (d, w, ext))
    (hu : u.v = bSetAll s.v (returnWrites o)) (hr : d + w ≤ 128) (hl : ∀ a ∈ o.accesses, a.lane < 32)
    (hn : (o.accesses.map (·.lane)).Nodup) {a : LaneAccess} (ha : a ∈ o.accesses) {i : Nat} (hi : i < w) :
    getV u o.gang a.lane (d + i) = returnValue ext a.value / 2 ^ (32 * i) % 2 ^ 32 := by
  have hbits : ∀ x, bits x (32 * i + 31) (32 * i) = x / 2 ^ (32 * i) % 2 ^ 32 := by
    intro x; rw [bits, show 32 * i + 31 + 1 - 32 * i = 32 by omega]
  unfold getV
  rw [hu, bGet_bSetAll_of_mem (x := bits (returnValue ext a.value) (32 * i + 31) (32 * i)), hbits, Nat.mod_mod]
  · exact ⟨_, (mem_returnWrites hd _).2 ⟨a, ha, i, hi, rfl⟩, rfl⟩
  · intro e he hk
    obtain ⟨b, hb, j, hj, rfl⟩ := (mem_returnWrites hd e).1 he
    obtain ⟨-, hlane, hreg⟩ := (vKey_inj (hl b hb) (by omega) (hl a ha) (by omega)).1 hk
    obtain rfl : b = a := List.inj_on_of_nodup_map hn hb ha hlane
    obtain rfl : j = i := by omega
    rfl

/-- A register that no access of a return names is as before. -/
theorem getV_returnWrites_of_not {s u : State} {o : Op} {d w : Nat} {ext : Option Nat} (hd : loadDest o.instr = (d, w, ext))
    (hu : u.v = bSetAll s.v (returnWrites o)) (hr : d + w ≤ 128) (hl : ∀ a ∈ o.accesses, a.lane < 32) {gid lane r : Nat}
    (hlane : lane < 32) (hr' : r < 128) (h : ∀ a ∈ o.accesses, ¬ (gid = o.gang ∧ a.lane = lane ∧ d ≤ r ∧ r < d + w)) :
    getV u gid lane r = getV s gid lane r := by
  unfold getV
  rw [hu, bGet_bSetAll_of_not_mem]
  intro e he hk
  obtain ⟨a, ha, i, hi, rfl⟩ := (mem_returnWrites hd e).1 he
  obtain ⟨rfl, hla, rfl⟩ := (vKey_inj (hl a ha) (by omega) hlane hr').1 hk
  exact h a ha ⟨rfl, hla, by omega, by omega⟩

/-- A load whose lanes all have their values, returned to a path that did not wait for it. -/
theorem execLoadDataReturn_load {s : State} {k : Nat} {o : Op} {q : Path} (hk : aGet k s.ops = some o) (hleft : o.left = 0)
    (hkind : o.kind = .load) (hq : aGet o.path s.paths = some q) (hw : q.wait ≠ .home) :
    execLoadDataReturn (s.about (.one k)) =
      .next { s.about (.one k) with ops := aErase k s.ops, v := bSetAll s.v (returnWrites o) } := by
  have hres := resumeAfter_of_not_home (k := k)
    (s := { s.about (.one k) with ops := aErase k s.ops, v := bSetAll s.v (returnWrites o) }) hq hw
  simp only [execLoadDataReturn, State.about, hk, hleft, hkind, bne_self_eq_false, Bool.false_eq_true, ↓reduceIte]
  exact congrArg Host.Outcome.next hres

/-- The same for ULD: its destination is written in every slice of its path (R186). -/
theorem execLoadDataReturn_uld {s : State} {k d a l t : Nat} {o : Op} {q : Path} {x : LaneAccess} {xs : List LaneAccess}
    (hk : aGet k s.ops = some o) (hleft : o.left = 0) (hkind : o.kind = .uload) (hi : o.instr = .uld d a l t)
    (hx : o.accesses = x :: xs) (hq : aGet o.path s.paths = some q) (hw : q.wait ≠ .home) :
    execLoadDataReturn (s.about (.one k)) =
      .next (setGs { s.about (.one k) with ops := aErase k s.ops } o.gang (slicesOf o.pathLanes) d x.value) := by
  have hres := resumeAfter_of_not_home (k := k)
    (s := setGs { s.about (.one k) with ops := aErase k s.ops } o.gang (slicesOf o.pathLanes) d x.value) hq hw
  simp only [execLoadDataReturn, State.about, hk, hleft, hkind, hi, hx, List.head?_cons, bne_self_eq_false, Bool.false_eq_true,
    ↓reduceIte]
  exact congrArg Host.Outcome.next hres

/-- The two readings of a return's value, words or sign extension, agree with its registers (R218). -/
theorem returnValue_none (x j : Nat) : returnValue none x / 2 ^ (32 * j) % 2 ^ 32 = x / 2 ^ (32 * j) % 2 ^ 32 := rfl

theorem returnValue_some {n x : Nat} (hn : 0 < n) (hx : x < 256 ^ n) :
    returnValue (some (8 * n)) x / 2 ^ (32 * 0) % 2 ^ 32 = ((BitVec.ofNat (8 * n) x).signExtend 32).toNat := by
  have h256 : x < 2 ^ (8 * n) := by rw [Nat.pow_mul]; exact hx
  have hval : x = (BitVec.ofNat (8 * n) x).toNat := by rw [BitVec.toNat_ofNat, Nat.mod_eq_of_lt h256]
  have hs : sext x (8 * n) = (BitVec.ofNat (8 * n) x).toInt := by
    conv_lhs => rw [hval]
    exact sext_toNat _ (by omega)
  rw [returnValue, hs, Nat.mul_zero, Nat.pow_zero, Nat.div_one, wrapInt_mod, wrapInt_eq]
  rfl

/-- How a return extends: by the sign from 8 n bits, or not at all. -/
def extension (n : Nat) (sx : Bool) : Option Nat := if sx then some (8 * n) else none

/-- Destination, registers and extension of each form of load (R218, R220). -/
theorem loadDest_of_form {i : Instr} {d x g l t n w : Nat} {sx : Bool}
    (h : (i, n, w, sx) ∈ [(Instr.ldw d x g l t, 4, 1, false), (.ldd d x g l t, 8, 2, false), (.ldq d x g l t, 16, 4, false),
      (.ldbn d x g l, 1, 1, false), (.ldbs d x g l, 1, 1, true), (.ldhn d x g l, 2, 1, false), (.ldhs d x g l, 2, 1, true),
      (.lds d x g l 0, 1, 1, false), (.lds d x g l 1, 1, 1, true), (.lds d x g l 2, 2, 1, false), (.lds d x g l 3, 2, 1, true),
      (.lds d x g l 4, 4, 1, false), (.lds d x g l 5, 8, 2, false), (.lds d x g l 6, 16, 4, false)]) :
    loadDest i = (d, w, extension n sx) ∧ 0 < n ∧ (sx = true → w = 1) := by
  simp only [List.mem_cons, Prod.mk.injEq, List.not_mem_nil, or_false] at h
  rcases h with ⟨rfl, rfl, rfl, rfl⟩ | ⟨rfl, rfl, rfl, rfl⟩ | ⟨rfl, rfl, rfl, rfl⟩ | ⟨rfl, rfl, rfl, rfl⟩ | ⟨rfl, rfl, rfl, rfl⟩ |
    ⟨rfl, rfl, rfl, rfl⟩ | ⟨rfl, rfl, rfl, rfl⟩ | ⟨rfl, rfl, rfl, rfl⟩ | ⟨rfl, rfl, rfl, rfl⟩ | ⟨rfl, rfl, rfl, rfl⟩ |
    ⟨rfl, rfl, rfl, rfl⟩ | ⟨rfl, rfl, rfl, rfl⟩ | ⟨rfl, rfl, rfl, rfl⟩ | ⟨rfl, rfl, rfl, rfl⟩ <;>
  exact ⟨rfl, by decide, by decide⟩

/-- Word j of a return's value, as each form has it (R218). -/
theorem returnValue_word {n w j x : Nat} {sx : Bool} (hn : 0 < n) (hw : sx = true → w = 1) (hj : j < w) (hx : x < 256 ^ n) :
    returnValue (extension n sx) x / 2 ^ (32 * j) % 2 ^ 32 =
      if sx then ((BitVec.ofNat (8 * n) x).signExtend 32).toNat else x / 2 ^ (32 * j) % 2 ^ 32 := by
  cases sx with
  | false => rfl
  | true =>
    obtain rfl : j = 0 := by have := hw rfl; omega
    exact returnValue_some hn hx

/-! ULD (R186). -/

/-- The access that ULD makes, and the operation that it puts in flight. -/
def uldAccess (s : State) (q : Path) (a t pa leaf : Nat) : LaneAccess :=
  { lane := 0, va := getG s q a, pa := pa, size := 8, value := 0, done := false, rt := effType t leaf, leaf := leaf }

/-- ULD whose address is translated and whose bytes are at hand or can be asked for. -/
theorem execUld_issues {s : State} {p : Nat} {q : Path} {d a l t pa leaf : Nat} (hi : Issues s p q) (hq : q.refused = [])
    (hm : Maps s q .read (getG s q a) 8 pa leaf) (hfor : poisonedFor s (coreOf s q) pa 8 = none)
    (hvia : poisonedVia false s (coreOf s q) pa 8 = none) (hro : poisonedRo s (coreOf s q) pa 8 = none) (hdrop : coreOf s q ∉ s.roDrops)
    (hc : ∀ j, j < 32 → hasBit (active q) j = true → laneConflict s q.gang j pa 8 = false) :
    execUld d a l t s = .next (
      let u := loadLane (freshId s).2 s.fresh q.gang (coreOf s q) (ctxOf s q) (uldAccess s q a t pa leaf)
      advance (putOp u.1 s.fresh
        { kind := .uload, gang := q.gang, ctx := ctxOf s q, path := p, pathLanes := q.lanes, base := baseOf s q, lanes := active q,
          instr := .uld d a l t, count := some .loads, ahead := some l, rt := t, core := coreOf s q, accesses := [u.2.1], writes := [],
          flags := 0, left := 0 + u.2.2, failed := [] }) p q 1) := by
  have hpoison : loadPoison s q t 8 s pa leaf = none := by
    unfold loadPoison
    dsimp only
    split
    · exact hro
    · cases l1Serves s (coreOf s q) (effType t leaf) leaf pa 8
      · exact hvia
      · exact hfor
  have hheld : roHeld s q [uldAccess s q a t pa leaf] = false := by simp [roHeld, hdrop]
  have hconf : ((lanesOf (active q)).any fun l => anyConflict s q.gang ([uldAccess s q a t pa leaf].map fun x => { x with lane := l })) =
      false := by
    simp only [List.any_eq_false, mem_lanesOf]
    rintro j ⟨hj, hb⟩
    simp [anyConflict, uldAccess, hc j hj hb]
  rw [execUld, onPath_next hi]
  simp only [laneDry_of_maps hm hq, laneCheckBy_of_maps (poison := loadPoison s q t 8) (further := fun _ _ _ => none) hm hq hpoison rfl,
    hm.isDevice, ↓reduceIte]
  change Host.Outcome.next (if roHeld s q [uldAccess s q a t pa leaf] = true then _ else if ((lanesOf (active q)).any fun l =>
    anyConflict s q.gang ([uldAccess s q a t pa leaf].map fun x => { x with lane := l })) = true then _ else _) = _
  rw [hheld, hconf]
  rfl

/-- Settles O22, R51, R217, R218, R220 by what a return writes, R186 by the issue of ULD with its translation at hand. -/
theorem loadReturns : Obligations.LoadReturns := by
  refine ⟨?_, ?_⟩
  · intro s k o d x g l t hk hleft hkind hwait hpath hnodup hlanes hd n w sx hform hw hval
    obtain ⟨q, hq⟩ := Option.isSome_iff_exists.1 hpath
    obtain ⟨hdest, hn, hsx⟩ := loadDest_of_form hform
    refine ⟨_, execLoadDataReturn_load hk hleft hkind hq (hwait q hq), aGet_aErase_self _ _, fun j hj => ?_, rfl, ?_⟩
    · exact (aGet_aErase _ _ _).trans (if_neg (Ne.symm hj))
    · intro gid lane r hlane hr
      refine ⟨?_, fun h => getV_returnWrites_of_not (s := s) hdest rfl hw hlanes hlane hr h⟩
      rintro a ha rfl rfl j hj rfl
      rw [getV_returnWrites (s := s) hdest rfl hw hlanes hnodup ha hj, returnValue_word hn hsx hj (hval a ha)]
  · intro s p q d a l t pa leaf hi hq hd ha hl ht hm hfor hvia hro hdrop hconf
    refine ⟨?_, ?_⟩
    · obtain ⟨hkept, hpa, hsize⟩ := ((Kept.refl (freshId s).2).loadLane s.fresh q.gang (coreOf s q) (ctxOf s q)
        (uldAccess s q a t pa leaf) hm.isPeer)
      refine ⟨_, _, execUld_issues hi hq hm hfor hvia hro hdrop hconf, ?_, hkept.sameRegisters, aGet_aSet_self _ _ _, rfl, rfl, rfl, rfl,
        rfl, ?_⟩
      · exact pathBecomes_setPath _ _ _ _ hkept.paths
      · simp only [List.map_cons, List.map_nil, hpa, hsize]
        rfl
    · intro k o x xs hk hleft hkind hinstr hx hpath hwait
      refine ⟨_, execLoadDataReturn_uld hk hleft hkind hinstr hx hpath hwait, aGet_aErase_self _ _, rfl, ?_⟩
      intro gid c r hc hr
      have hget := getGs_setGs { s.about (.one k) with ops := aErase k s.ops } o.gang (slicesOf o.pathLanes) d x.value hd
        (fun c hc => ((mem_slicesOf _ _).1 hc).1) gid c r hc hr
      exact ⟨fun h => hget.trans (if_pos h), fun h => hget.trans (if_neg h)⟩

end Sys2Proof.Machine
end

section
/-! SUPPORT. Lines that nothing holds and nobody asks for (R226 to R231, R238): a request for one is served at once, and a read, an atomic's
turn or a page that is not coherent leaves memory and the L1s as they are. -/

namespace Sys2Proof.Machine

theorem lineAt_setLine_self (s : State) (ln : Nat) (l : Line) : lineAt (setLine s ln l) ln = l := by
  unfold lineAt setLine
  dsimp only
  split
  · subst_vars; rw [aGet_aErase_self]; rfl
  · rw [aGet_aSet_self]; rfl

/-- No slice of the shared caches lacks room for k lines more. -/
def HasRoom (s : State) (k : Nat) : Prop := ∀ sl, (sliceHolds s sl).length + k ≤ Config.sliceLines

/-- Memory, the L1s and the lines' home states are as they were, and room for k lines is left. -/
structure StillUpTo (k : Nat) (s t : State) : Prop where
  mem : t.mem = s.mem
  l1 : t.l1 = s.l1
  lines : t.lines = s.lines
  room : HasRoom t k

theorem length_filter_append_singleton_le {α : Type} (f : α → Bool) (xs : List α) (x : α) :
    ((xs ++ [x]).filter f).length ≤ (xs.filter f).length + 1 := by
  rw [List.filter_append, List.length_append]
  exact Nat.add_le_add_left ((List.length_filter_le ..).trans (by simp)) _

section
variable {s : State} {k : Nat}

theorem HasRoom.mono {j : Nat} (h : HasRoom s k) (hj : j ≤ k) : HasRoom s j := fun sl => by have := h sl; omega

theorem holdLine_still (h : HasRoom s (k + 1)) (die ln ctx : Nat) (peer first : Bool) :
    StillUpTo k s (holdLine s die ln ctx peer first) := by
  unfold holdLine
  split
  · rename_i x _
    refine ⟨rfl, rfl, rfl, fun sl => ?_⟩
    have hle := length_filter_append_singleton_le (fun y => holderSlice y.die y.line == sl)
      (s.cache.filter fun y => !(y.die == die && y.line == ln)) x
    have hsub : ((s.cache.filter fun y => !(y.die == die && y.line == ln)).filter fun y => holderSlice y.die y.line == sl).length ≤
        (sliceHolds s sl).length :=
      (List.Sublist.filter _ List.filter_sublist).length_le
    have := h sl
    simp only [sliceHolds] at *
    omega
  · have hfull : ¬ Config.sliceLines ≤ (sliceHolds s (holderSlice die ln)).length := by have := h (holderSlice die ln); omega
    dsimp only
    rw [if_neg hfull]
    refine ⟨rfl, rfl, rfl, fun sl => ?_⟩
    have hle := length_filter_append_singleton_le (fun y => holderSlice y.die y.line == sl) s.cache ⟨die, ln, ctx, peer, first⟩
    have := h sl
    simp only [sliceHolds] at *
    omega

theorem arriveAt_still (h : HasRoom s (k + 1)) (ln : Nat) (r : HomeReq) : StillUpTo k s (arriveAt s ln r true) := by
  unfold arriveAt
  dsimp only [↓reduceIte]
  generalize hu : countRequest s (ln * 128) (decide (r.kind = .read) && r.die != homeDie (ln * 128) && decide (r.pin = 0)) = u
  have hroom : HasRoom u (k + 1) := by subst hu; exact h
  have hmem : u.mem = s.mem := by subst hu; rfl
  have hl1 : u.l1 = s.l1 := by subst hu; rfl
  have hlines : u.lines = s.lines := by subst hu; rfl
  split
  · exact ⟨hmem, hl1, hlines, hroom.mono (Nat.le_succ k)⟩
  · obtain ⟨h1, h2, h3, h4⟩ := holdLine_still hroom (homeDie (ln * 128)) ln r.ctx false (decide (r.rt = 5))
    exact ⟨h1.trans hmem, h2.trans hl1, h3.trans hlines, h4⟩

/-- A request that brings nothing into an L1 and takes nothing out: an atomic's turn, or an engine's read. -/
def HomeReq.passes (r : HomeReq) : Prop :=
  r.bytes = [] ∧ (r.kind = .atom ∨ r.kind = .read ∧ r.rt ≠ 1 ∧ r.rt ≠ 2 ∧ Config.cores ≤ r.core)

theorem serveReq_still (h : HasRoom s (k + 1)) {r : HomeReq} (hr : r.passes) (ln : Nat) :
    StillUpTo k s (serveReq s ln r true) := by
  obtain ⟨h1, h2, h3, h4⟩ := arriveAt_still h ln r
  unfold serveReq
  rcases hr.2 with hk | ⟨hk, ht1, ht2, hcore⟩
  · simp only [hk]
    exact ⟨h1, h2, h3, h4⟩
  · simp only [hk, ht1, ht2, Nat.not_lt.2 hcore, decide_false, Bool.or_false, Bool.false_and, Bool.false_eq_true, ↓reduceIte]
    exact ⟨h1, h2, h3, h4⟩

theorem serveHead_still (h : HasRoom s (k + 1)) {r : HomeReq} (hr : r.passes) {ln : Nat} (hl : lineAt s ln = ⟨.unc, [], [r], []⟩)
    (dir : DirState) : (serveHead s ln r dir true).mem = s.mem ∧ (serveHead s ln r dir true).l1 = s.l1 ∧
      lineAt (serveHead s ln r dir true) ln = ⟨dir, [], [], []⟩ := by
  unfold serveHead
  dsimp only
  rw [hl]
  have hroom : HasRoom (setLine s ln ⟨dir, [], [], []⟩) (k + 1) := h
  obtain ⟨h1, h2, h3, -⟩ := serveReq_still hroom hr ln
  refine ⟨h1, h2, ?_⟩
  have hline : lineAt (serveReq (setLine s ln ⟨dir, [], [], []⟩) ln r true) ln = lineAt (setLine s ln ⟨dir, [], [], []⟩) ln := by
    unfold lineAt
    rw [h3]
  exact hline.trans (lineAt_setLine_self _ _ _)

theorem settleSteps_settled {ln : Nat} {dir : DirState} (h : lineAt s ln = ⟨dir, [], [], []⟩) (hb : busyLine ⟨dir, [], [], []⟩ = false)
    (fuel : Nat) : settleSteps ln fuel s = s := by
  cases fuel with
  | zero => rfl
  | succ n => simp [settleSteps, h, hb]

/-- A line with a request and nothing else takes it up (R231). -/
theorem settleSteps_asked {ln fuel : Nat} {r : HomeReq} (h : lineAt s ln = ⟨.unc, [], [r], []⟩) :
    settleSteps ln (fuel + 1) s = settleSteps ln fuel (homeStep s ln) := by
  simp [settleSteps, lineStep, h]

/-- A line whose replica is on its way comes to rest with the next step (R230). -/
theorem settleSteps_busyR {ln e sh fuel : Nat} (h : lineAt s ln = ⟨.busyR e sh, [], [], []⟩) :
    settleSteps ln (fuel + 1) s = setLine s ln ⟨.rsh (sh ||| 2 ^ e), [], [], []⟩ := by
  have hstep : lineStep s ln = setLine s ln ⟨.rsh (sh ||| 2 ^ e), [], [], []⟩ := by simp [lineStep, h]
  have hgo : settleSteps ln (fuel + 1) s = settleSteps ln fuel (lineStep s ln) := by simp [settleSteps, h, busyLine]
  rw [hgo, hstep, settleSteps_settled (lineAt_setLine_self _ _ _) rfl]

theorem consumePackage_still (h : HasRoom s k) (place : ErrorPlace) (die unit : Nat) :
    StillUpTo k s (consumePackage s place die unit) := by
  unfold consumePackage
  split <;> exact ⟨rfl, rfl, rfl, h⟩

/-- The one request of an idle line is served at once: the line is then at rest, or a replica of it on its way. -/
theorem homeStep_idle (h : HasRoom s 2) {r : HomeReq} (hr : r.passes) {ln : Nat} (hl : lineAt s ln = ⟨.unc, [], [r], []⟩) :
    (homeStep s ln).mem = s.mem ∧ (homeStep s ln).l1 = s.l1 ∧
      (lineAt (homeStep s ln) ln = ⟨.unc, [], [], []⟩ ∨ ∃ e, lineAt (homeStep s ln) ln = ⟨.busyR e 0, [], [], []⟩) := by
  obtain ⟨hm, h1, hlines, hroom⟩ := consumePackage_still h (.directory ln) (homeDie (ln * 128)) (bankUnit (homeBank (ln * 128)))
  have hnotown : r.kind ≠ .own := by rcases hr.2 with hk | ⟨hk, -⟩ <;> rw [hk] <;> decide
  revert hm h1 hlines hroom
  simp only [homeStep, hl, List.head?_cons]
  generalize consumePackage s (.directory ln) (homeDie (ln * 128)) (bankUnit (homeBank (ln * 128))) = u
  intro hm h1 hlines hroom
  have hu : lineAt u ln = ⟨.unc, [], [r], []⟩ := by rw [← hl]; unfold lineAt; rw [hlines]
  have hblock : blocking ⟨.unc, [], [r], []⟩ r = [] := rfl
  simp only [ownDirty, hnotown, hu, homeUnc, hblock, List.isEmpty_nil, decide_false, Bool.false_and, Bool.not_true, Bool.false_eq_true,
    ↓reduceIte]
  split
  · obtain ⟨gm, g1, glines, groom⟩ := holdLine_still hroom r.die ln r.ctx false (decide (r.rt = 5))
    have gu : lineAt (holdLine u r.die ln r.ctx false (decide (r.rt = 5))) ln = ⟨.unc, [], [r], []⟩ := by
      rw [← hu]; unfold lineAt; rw [glines]
    obtain ⟨k1, k2, k3⟩ := serveHead_still groom hr gu (.busyR r.die 0)
    exact ⟨(k1.trans gm).trans hm, (k2.trans g1).trans h1, .inr ⟨_, k3⟩⟩
  · obtain ⟨k1, k2, k3⟩ := serveHead_still hroom hr hu .unc
    exact ⟨k1.trans hm, k2.trans h1, .inl k3⟩

/-- A request of an idle line, served before anything else happens, leaves memory and the L1s as they are (R228). -/
theorem homeDo_idle (h : HasRoom s 2) {r : HomeReq} (hr : r.passes) {ln : Nat} (hl : lineAt s ln = ⟨.unc, [], [], []⟩) :
    (homeDo s ln r).mem = s.mem ∧ (homeDo s ln r).l1 = s.l1 := by
  have hask : lineAt (askLine s ln r) ln = ⟨.unc, [], [r], []⟩ := by
    rw [askLine, hl]
    exact lineAt_setLine_self _ _ _
  have hroom : HasRoom (askLine s ln r) 2 := h
  obtain ⟨hm, h1, hline⟩ := homeStep_idle hroom hr hask
  have hfirst : homeDo s ln r = settleSteps ln 95 (homeStep (askLine s ln r) ln) := by
    have hfuel : 32 * ((lineAt (askLine s ln r) ln).queue.length + 2) = 95 + 1 := by rw [hask]; rfl
    rw [homeDo, settleLine, hfuel, settleSteps_asked hask]
  rcases hline with hline | ⟨e, hline⟩
  · rw [hfirst, settleSteps_settled hline rfl]
    exact ⟨hm, h1⟩
  · rw [hfirst, settleSteps_busyR hline]
    exact ⟨hm, h1⟩

end

/-- A range within one line. -/
theorem linesOf_within {a n : Nat} (hn : 0 < n) (h : a % 128 + n ≤ 128) : linesOf a n = [a / 128] := by
  have hdiv : (a + n - 1) / 128 = a / 128 := by omega
  simp [linesOf, hdiv]

section
variable {s : State} {a n : Nat}

theorem Uncached.line {core : Nat} (h : Uncached s core a n) (hn : 0 < n) (hin : a % 128 + n ≤ 128) :
    lineAt s (a / 128) = ⟨.unc, [], [], []⟩ := h.1.1 _ (by rw [linesOf_within hn hin]; exact List.mem_singleton_self _)

theorem Uncached.room {core : Nat} (h : Uncached s core a n) : HasRoom s 64 := h.1.2

/-- No byte of an uncached range is in the core's L1. -/
theorem Uncached.l1At {core : Nat} (h : Uncached s core a n) (hn : 0 < n) (hin : a % 128 + n ≤ 128) {b : Nat} (hb : b / 128 = a / 128) :
    l1At s core b = none := by
  have hmem : b / 4 * 4 ∈ spanWords (a / 128) 0 32 := by
    simp only [spanWords, List.mem_map, List.mem_range]
    exact ⟨b % 128 / 4, by omega, by omega⟩
  have hnone := h.2 (a / 128) (by rw [linesOf_within hn hin]; exact List.mem_singleton_self _) _ hmem
  simpa [Machine.l1At, l1Key, Nat.mul_div_cancel] using hnone

/-- A request for each line of a range within one idle line. -/
theorem homeEach_idle (hn : 0 < n) (hin : a % 128 + n ≤ 128) (hroom : HasRoom s 2) (hl : lineAt s (a / 128) = ⟨.unc, [], [], []⟩) (w : Who)
    {kind : HomeKind} (hk : kind = .atom ∨ kind = .read ∧ w.rt ≠ 1 ∧ w.rt ≠ 2) :
    (homeEach s w kind a n []).mem = s.mem ∧ (homeEach s w kind a n []).l1 = s.l1 := by
  rw [homeEach, linesOf_within hn hin]
  refine homeDo_idle hroom ⟨rfl, ?_⟩ hl
  exact hk.imp id fun ⟨h1, h2, h3⟩ => ⟨h1, h2, h3, Nat.le_refl _⟩

theorem ncRequest_idle (hn : 0 < n) (hin : a % 128 + n ≤ 128) (hroom : HasRoom s 2) (w : Who) (read : Bool) :
    (ncRequest s w read a n).mem = s.mem ∧ (ncRequest s w read a n).l1 = s.l1 := by
  rw [ncRequest, linesOf_within hn hin, List.foldl_cons, List.foldl_nil]
  dsimp only
  split
  · exact ⟨rfl, rfl⟩
  · have hroom' : HasRoom (countRequest s (a / 128 * 128) (read && w.die.getD (homeDie (a / 128 * 128)) != homeDie (a / 128 * 128) &&
        decide (w.pin = 0))) 2 := hroom
    obtain ⟨h1, h2, -⟩ := holdLine_still hroom' (homeDie (a / 128 * 128)) (a / 128) w.ctx false (decide (w.rt = 5))
    exact ⟨h1, h2⟩

/-- A read of device memory at the home slice of an idle line. -/
theorem homeRead_idle (hn : 0 < n) (hin : a % 128 + n ≤ 128) (hroom : HasRoom s 2) (hl : lineAt s (a / 128) = ⟨.unc, [], [], []⟩)
    (hd : isDevice a = true) (w : Who) (hw : w.rt ≠ 1 ∧ w.rt ≠ 2) : (homeRead s w a n).1.mem = s.mem ∧ (homeRead s w a n).1.l1 = s.l1 := by
  simp only [homeRead, hd, Bool.not_true, Bool.false_eq_true, ↓reduceIte]
  split
  · exact ncRequest_idle hn hin hroom w true
  · exact homeEach_idle hn hin hroom hl w (.inr ⟨rfl, hw⟩)

end

end Sys2Proof.Machine
end

section
/-! SUPPORT. What a path's turn comes to when nothing holds it (R46 to R58, R61, R66): the stages from its choice to the instruction it issues. -/

namespace Sys2Proof.Machine

section
variable {s : State} {p : Nat} {q : Path}

/-- A path of a RUNNING context that has not begun an instruction, with nothing due to it, goes to its next one. -/
theorem issueOf_eq_freshStage (hq : aGet p s.paths = some q) (hstop : q.stopped = false) (hrun : (ctxAt s (ctxOf s q)).state = .running)
    (hdue : dueFault s p q = none) (hheld : heldAtBoundary s p q = false) (hwait : q.wait = .none) (hcur : q.cur = none) :
    issueOf s p = freshStage s p q := by
  simp [issueOf, hq, hstop, hrun, hdue, hheld, hwait, hcur]

theorem freshStage_of_wait (hwait : q.wait = .none) :
    freshStage s p q = if q.pos.word = 0 then headerStage s p q else if q.pos.n = 0 then rereadStage s p q else instrStage s p q := by
  have hself : { q with wait := .none } = q := by rw [← hwait]
  simp only [freshStage, hself]

/-- Inside a clause a path goes to the instruction at its position. -/
theorem freshStage_inside (hwait : q.wait = .none) (hword : q.pos.word ≠ 0) (hn : q.pos.n ≠ 0) : freshStage s p q = instrStage s p q := by
  rw [freshStage_of_wait hwait, if_neg hword, if_neg hn]

/-- At a header a path begins the clause, once its wait mask is met (R49, R51). -/
theorem freshStage_header {sh : State} {h : Nat} (hwait : q.wait = .none) (hcur : q.cur = none) (hword : q.pos.word = 0)
    (hal : q.pos.hdr % 4 = 0) (hin : inExtent s q q.pos.hdr = true) (hf : fetchWord s p q q.pos.hdr false = .ok (sh, h))
    (hok : headerOk h = true) (hmet : waitMet sh q h = true) {q1 : Path} (hq1 : q1 = { q with pos := ⟨q.pos.hdr, 1, bits h 27 25, bits h 3 0⟩ }) :
    freshStage s p q = instrStage (setPath sh p q1) p q1 := by
  have hself : ({ q with pos := ⟨q.pos.hdr, 1, bits h 27 25, bits h 3 0⟩, wait := .none, cur := none } : Path) = q1 := by
    rw [hq1, ← hwait, ← hcur]
  rw [freshStage_of_wait hwait, if_pos hword, headerStage]
  simp [hal, hin, hf, hok, hmet, hself]

/-- An instruction of one word, of a class that admits it (R50, R58, R61). -/
theorem instrStage_one {s2 : State} {w : Nat} {i : Instr} (hact : active q ≠ 0) (hf : fetchWord s p q (wordAddr q.pos) false = .ok (s2, w))
    (hmaj : majorAssigned (w / 2 ^ 26 % 64) = true) (hcls : classAdmits q.pos.cls (w / 2 ^ 26 % 64) = true) (htwo : takesTwo w = false)
    (hdec : decode [w] = .ok i) : instrStage s p q = issueInstr s2 p q i false := by
  simp [-Nat.reducePow, instrStage, hf, hact, hmaj, hcls, htwo, hdec]

/-- The same of one of two words, both within its clause. -/
theorem instrStage_two {s1 s2 : State} {w w1 : Nat} {i : Instr} (hact : active q ≠ 0)
    (hf : fetchWord s p q (wordAddr q.pos) false = .ok (s1, w)) (hmaj : majorAssigned (w / 2 ^ 26 % 64) = true)
    (hcls : classAdmits q.pos.cls (w / 2 ^ 26 % 64) = true) (htwo : takesTwo w = true) (hlast : q.pos.word ≠ q.pos.n)
    (hf1 : fetchWord s1 p q (wordAddr q.pos + 4) true = .ok (s2, w1)) (hdec : decode [w, w1] = .ok i) :
    instrStage s p q = issueInstr s2 p q i true := by
  simp [-Nat.reducePow, instrStage, hf, hact, hmaj, hcls, htwo, hlast, hf1, Except.map, hdec]

/-- An instruction with its registers within the allocation and nothing to hold it issues (R50, R58, R66). -/
theorem issueInstr_go {i : Instr} {two : Bool} {s3 : State} {d : LaunchDesc} (hd : descOf s q = some d)
    (hbeyond : beyond i.usage d.vregs d.accTiles (barriersOf s q) = none) (hbusy : scoreboardBusy s q i = false)
    (hahead : lookaheadSpent s p = false) (hfull : countFull s q i = false)
    (h3 : failsPriv q i = true ∧ s3 = spendLookahead s p ∨
      failsPriv q i = false ∧ poisonedSource s q i = false ∧ s3 = cleanRegisters (spendLookahead s p) q i) :
    issueInstr s p q i two = .go (countIssue (setPath s3 p (issuedPath q)) q) i := by
  rcases h3 with ⟨hpriv, rfl⟩ | ⟨hpriv, hclean, rfl⟩
  · simp [issueInstr, hd, hbeyond, hbusy, hahead, hfull, hpriv]
  · simp [issueInstr, hd, hbeyond, hbusy, hahead, hfull, hpriv, hclean]

/-- The turn of the path that its scheduler chooses is the issue that its stages come to. -/
theorem issueChosen_of_go {t : State} {i : Instr} (hq : aGet p s.paths = some q) (hch : chosenOn s (schedulerOf s q) = some p)
    (hgo : issueOf s p = .go t i) : issueChosen s p = endTurn s p q (exec i { withHint t p i with issuing := some p }) := by
  simp only [issueChosen, hq, hch, ↓reduceIte, issueTurn, hgo]

/-- The agenda's next path takes its turn (log entry 1). -/
theorem step_of_agenda {ts : List Turn} (hag : s.agenda = .issue p :: ts) : step s = issueChosen { s with agenda := ts } p := by
  simp only [step, nextTurn, hag, agendaTurn]

end

end Sys2Proof.Machine
end

section
/-! SUPPORT. A core's read of bytes that no cache holds, by which a word is fetched (R55, R228). -/

namespace Sys2Proof.Machine

theorem ofBytes_readBytes (m : Memory) (a n : Nat) : ofBytes (readBytes m a n) = readMem m a n := by
  induction n generalizing a with
  | zero => rfl
  | succ n ih =>
    have htail : (List.range n).map (fun i => bGet m (a + (i + 1))) = readBytes m (a + 1) n :=
      List.map_congr_left fun i _ => by rw [Nat.add_right_comm, Nat.add_assoc a i 1]
    rw [readMem, ← ih, readBytes, List.range_succ_eq_map, List.map_cons, List.map_map]
    exact congrArg (fun bs => bGet m a + 256 * ofBytes bs) htail

/-- A byte of device memory, and those after it in its line, have one place in every die. -/
theorem copyAt_of_isDevice {die a i : Nat} (h : isDevice a = true) (hi : i < 128) : copyAt die (a + i) = a + i := by
  have ha : a < hostBase := of_decide_eq_true h
  have hroom : hostBase + 128 < peerBase := by decide
  have hpeer : isPeer (a + i) = false := decide_eq_false (by omega)
  rw [copyAt, hpeer]
  rfl

theorem Kept.coreRead {s t : State} (h : Kept s t) (w : Who) (core a n : Nat) : Kept s (coreRead t w core a n).1 := by
  unfold Machine.coreRead
  have hr : Kept s (if l1Has t core a n then t else (Machine.homeRead t w a n).1) := by
    split
    · exact h
    · exact h.homeRead _ _ _
  dsimp only
  split
  · exact hr.touchP _ _ _
  · exact hr

/-- A core reads bytes that no cache holds as memory has them, and leaves memory as it is. -/
theorem coreRead_uncached {s : State} {core a n : Nat} (h : Uncached s core a n) (hn : 0 < n) (hin : a % 128 + n ≤ 128)
    (hd : isDevice a = true) (w : Who) (hw : w.rt ≠ 1 ∧ w.rt ≠ 2) :
    (coreRead s w core a n).1.mem = s.mem ∧ ofBytes (coreRead s w core a n).2 = readMem s.mem a n := by
  obtain ⟨hm, h1⟩ := homeRead_idle hn hin (h.room.mono (by decide)) (h.line hn hin) hd w hw
  have hstate : ∀ t : State, t.mem = s.mem → t.l1 = s.l1 →
      ((List.range n).map fun i => (l1ByteAt t core (a + i)).getD (bGet t.mem (copyAt (dieOf core) (a + i)))) = readBytes s.mem a n := by
    intro t htm ht1
    refine List.map_congr_left fun i hi => ?_
    have hi' : i < n := List.mem_range.1 hi
    have hnone : l1ByteAt t core (a + i) = none := by
      have hl1 : l1At t core (a + i) = none := by
        have hs := h.l1At hn hin (b := a + i) (by omega)
        unfold l1At at *
        rw [ht1]
        exact hs
      rw [l1ByteAt, hl1]
      rfl
    rw [hnone, htm, copyAt_of_isDevice hd (by omega)]
    rfl
  unfold coreRead
  simp only [isPeer_of_isDevice hd, Bool.false_eq_true, ↓reduceIte]
  split
  · exact ⟨rfl, by rw [hstate s rfl rfl, ofBytes_readBytes]⟩
  · exact ⟨hm, by rw [hstate _ hm h1, ofBytes_readBytes]⟩

/-- A word's address keeps its alignment in translation (R205, R207). -/
theorem Maps.word_aligned {s : State} {q : Path} {acc : Acc} {va pa leaf : Nat} (h : Maps s q acc va 4 pa leaf) : pa % 4 = 0 := by
  obtain ⟨-, hal, -, -, -, e, -, rfl, -, rfl⟩ := h
  have hbase : eAddr e.leaf % 4 = 0 := by unfold eAddr; omega
  have hoff : va % 2 ^ Nat.log2 e.size % 4 = 0 := by
    match Nat.log2 e.size with
    | 0 => omega
    | 1 => omega
    | k + 2 => rw [Nat.mod_mod_of_dvd _ ⟨2 ^ k, by rw [Nat.pow_add, Nat.mul_comm]⟩, hal]
  omega

/-- A captured word changes the instruction cache alone. -/
theorem captureWord_rest (s : State) (core key w : Nat) : { captureWord s core key w with icache := s.icache } = s := by
  unfold captureWord
  dsimp only
  split
  · rfl
  · split <;> rfl

/-- A word that is not captured, translated and clean, is read by the core and captured (R55). -/
theorem fetchWord_of_maps {s : State} {p : Nat} {q : Path} {a pa leaf : Nat} (two : Bool) (hq : q.refused = [])
    (hnot : aGet (codeKey (ctxOf s q) (coreOf s q) q.sup a) s.icache = none) (hm : Maps s q .fetch a 4 pa leaf)
    (hfor : poisonedFor s (coreOf s q) pa 4 = none)
    {x : Nat} (hx : ofBytes (coreRead s (whoLeaf (coreOf s q) (ctxOf s q) leaf) (coreOf s q) pa 4).2 = x) :
    fetchWord s p q a two = .ok (captureWord (coreRead s (whoLeaf (coreOf s q) (ctxOf s q) leaf) (coreOf s q) pa 4).1 (coreOf s q)
      (codeKey (ctxOf s q) (coreOf s q) q.sup a) x, x) := by
  simp [fetchWord, hnot, translate_of_mapsFor hm, isRefused, hq, farByte, hm.isPeer, hfor, commitXl, hx]

/-- Settles O55: the turn by the stages of an issue, the fetch by a core's read of bytes that no cache holds. -/
theorem stepRunsDecoded : Obligations.StepRunsDecoded := by
  refine ⟨?_, ?_⟩
  · intro s p ts s0 q q1 i s1 s2 hag hs0 hq hstop hch hrun hact hdue hheld hwait hcur hbegin hfetch halloc hbusy hahead hfull s3 h3
    have hq0 : aGet p s0.paths = some q := hs0 ▸ hq
    have hrun0 : (ctxAt s0 (ctxOf s0 q)).state = .running := hs0 ▸ hrun
    obtain ⟨d, hd, hbeyond⟩ := halloc
    have hfresh : freshStage s0 p q = instrStage s1 p q1 := by
      rcases hbegin with ⟨hword, hn, rfl, rfl⟩ | ⟨hword, hal, hin, sh, h, hf, hok, hmet, hq1, rfl⟩
      · exact freshStage_inside hwait hword hn
      · exact freshStage_header hwait hcur hword hal hin hf hok hmet hq1
    have hact1 : active q1 ≠ 0 := by
      rcases hbegin with ⟨-, -, rfl, -⟩ | ⟨-, -, -, sh, h, -, -, -, rfl, -⟩ <;> exact hact
    have hissue : ∃ two, instrStage s1 p q1 = issueInstr s2 p q1 i two := by
      obtain ⟨sw, w, hf, hmaj, hcls, ⟨htwo, rfl, hdec⟩ | ⟨htwo, hlast, w1, hf1, hdec⟩⟩ := hfetch
      · exact ⟨_, instrStage_one hact1 hf hmaj hcls htwo hdec⟩
      · exact ⟨_, instrStage_two hact1 hf hmaj hcls htwo hlast hf1 hdec⟩
    obtain ⟨two, hinstr⟩ := hissue
    have hgo : issueOf s0 p = .go (countIssue (setPath s3 p (issuedPath q1)) q1) i := by
      rw [issueOf_eq_freshStage hq0 hstop hrun0 hdue hheld hwait hcur, hfresh, hinstr,
        issueInstr_go hd hbeyond hbusy hahead hfull h3]
    rw [step_of_agenda hag, ← hs0]
    exact issueChosen_of_go hq0 hch hgo
  · intro s p q a two pa leaf hq hnot hm hfor hun
    have hal := hm.word_aligned
    have hkept := (Kept.refl s).coreRead (whoLeaf (coreOf s q) (ctxOf s q) leaf) (coreOf s q) pa 4
    obtain ⟨hmem, hval⟩ := coreRead_uncached hun (by decide) (by omega) hm.isDevice (whoLeaf (coreOf s q) (ctxOf s q) leaf)
      ⟨show 6 ≠ 1 by decide, show 6 ≠ 2 by decide⟩
    have hcap := captureWord_rest (coreRead s (whoLeaf (coreOf s q) (ctxOf s q) leaf) (coreOf s q) pa 4).1 (coreOf s q)
      (codeKey (ctxOf s q) (coreOf s q) q.sup a) (readMem s.mem pa 4)
    refine ⟨_, fetchWord_of_maps two hq hnot hm hfor hval, (congrArg State.mem hcap).trans hmem, ?_,
      (congrArg State.paths hcap).trans hkept.paths⟩
    exact ⟨(congrArg State.v hcap).trans hkept.v, (congrArg State.g hcap).trans hkept.g, (congrArg State.p hcap).trans hkept.p,
      (congrArg State.csr hcap).trans hkept.csr⟩

end Sys2Proof.Machine
end

section
/-! SUPPORT. An atomic performed at the home slice of a line that no cache holds (R246, R260 to R263), and what its acquire leaves in the
core's L1 (R227, R257). -/

namespace Sys2Proof.Machine

theorem mem_of_mem_uniq {α : Type} [BEq α] {xs : List α} {x : α} (h : x ∈ uniq xs) : x ∈ xs := by
  have hgo : ∀ (ys acc : List α), x ∈ ys.foldl (fun acc y => if acc.contains y then acc else acc ++ [y]) acc → x ∈ acc ∨ x ∈ ys := by
    intro ys
    induction ys with
    | nil => exact fun acc h => .inl h
    | cons y ys ih =>
      intro acc h
      rcases ih _ h with h | h
      · dsimp only at h
        split at h
        · exact .inl h
        · rcases List.mem_append.1 h with h | h
          · exact .inl h
          · exact .inr (List.mem_cons.2 (.inl (List.mem_singleton.1 h)))
      · exact .inr (List.mem_cons_of_mem _ h)
  exact (hgo xs [] h).resolve_left List.not_mem_nil

/-! The way to the home slice is clear where the L1 holds nothing. -/

section
variable {s : State} {core : Nat}

theorem dirtyIn_of_none (ok : L1Word → Bool) {words : List Nat} (h : ∀ w ∈ words, l1At s core w = none) : dirtyIn s core ok words = [] :=
  List.flatMap_eq_nil_iff.2 fun w hw => by rw [h w hw]

theorem joined_subset_of_none {words : List Nat} (h : ∀ w ∈ words, l1At s core w = none) : joined s core words ⊆ words := by
  intro w hw
  obtain ⟨x, hx, hwx⟩ := List.mem_flatMap.1 (mem_of_mem_uniq hw)
  rw [h x hx] at hwx
  exact List.mem_singleton.1 hwx ▸ hx

theorem writeBackWords_of_none (ln : Nat) {words : List Nat} (h : ∀ w ∈ words, l1At s core w = none) :
    writeBackWords s core ln words = s := by
  have hj : ∀ w ∈ joined s core words, l1At s core w = none := fun w hw => h w (joined_subset_of_none h hw)
  simp [writeBackWords, writeBackAs, dirtyIn_of_none _ hj]

variable {a n : Nat}

theorem wordsOf_line (hn : 0 < n) (hin : a % 128 + n ≤ 128) {w : Nat} (hw : w ∈ wordsOf a n) : w / 128 = a / 128 := by
  obtain ⟨i, hi, rfl⟩ := List.mem_map.1 hw
  have hi' := List.mem_range.1 hi
  omega

theorem clearWay_uncached (h : Uncached s core a n) (hn : 0 < n) (hin : a % 128 + n ≤ 128) (leaf : Nat) : clearWay s core leaf a n = s := by
  have hnone : ∀ w ∈ wordsOf a n, l1At s core w = none := fun w hw => h.l1At hn hin (wordsOf_line hn hin hw)
  unfold clearWay
  split
  · rw [writeBackRange, linesOf_within hn hin]
    exact writeBackWords_of_none _ fun w hw => hnone w (List.mem_of_mem_filter hw)
  · rw [dirtyIn_of_none _ hnone]
    rfl

theorem yieldSpans_idle (hl : lineAt s (a / 128) = ⟨.unc, [], [], []⟩) : yieldSpans s core a n = s := by
  simp [yieldSpans, hl, mapOf, recallAll]

end

/-! One lane performed. -/

/-- An atomic of a request type other than OWN, at bytes that no cache holds: the old word, the op's result in its place, and nothing else. -/
theorem performLane_uncached {s : State} {o : Op} {a : LaneAccess} (ctx opc x y : Nat) (h : Uncached s o.core a.pa a.size)
    (hn : 0 < a.size) (hin : a.pa % 128 + a.size ≤ 128) (hd : isDevice a.pa = true) (hrt : a.rt ≠ 0) :
    ∃ t, performLane o ctx opc x y s a =
        (t, readMem s.mem a.pa a.size, (atomNew opc (readMem s.mem a.pa a.size) x y).2) ∧
      t.mem = writeMem s.mem a.pa (toBytes a.size (atomNew opc (readMem s.mem a.pa a.size) x y).1) ∧ Kept s t := by
  have hown : atomOwn s opc a.rt a.leaf a.pa a.size = false := by simp [atomOwn, hrt]
  have hline := h.line hn hin
  have hroom : HasRoom s 2 := h.room.mono (by decide)
  have hturn : ∃ v, (if coherent a.pa a.leaf then homeOpen s { whoLeaf o.core ctx a.leaf with rt := a.rt } a.pa a.size
      else if isDevice a.pa then ncRequest s { whoLeaf o.core ctx a.leaf with rt := a.rt } false a.pa a.size
      else hostSend s ctx .atomic a.pa a.size) = v ∧ v.mem = s.mem ∧ Kept s v := by
    refine ⟨_, rfl, ?_⟩
    split
    · simp only [homeOpen, hd, ↓reduceIte]
      exact ⟨(homeEach_idle hn hin hroom hline _ (.inl rfl)).1, (Kept.refl s).homeEach _ _ _ _ _⟩
    · exact ⟨(ncRequest_idle hn hin hroom _ _).1, (Kept.refl s).ncRequest _ _ _ _⟩
  obtain ⟨v, hv, hmem, hkept⟩ := hturn
  refine ⟨_, ?_, ?_, (hkept.dropClean o.core (wordsOf a.pa a.size)).memPut a.pa
    (toBytes a.size (atomNew opc (readMem s.mem a.pa a.size) x y).1)⟩
  · simp only [performLane, hown, Bool.false_and, Bool.false_eq_true, ↓reduceIte, yieldSpans_idle hline, clearWay_uncached h hn hin, hv]
    rw [show (dropClean v o.core (wordsOf a.pa a.size)).mem = s.mem from hmem]
  · exact congrArg (fun m => writeMem m a.pa (toBytes a.size (atomNew opc (readMem s.mem a.pa a.size) x y).1)) hmem

/-! What an acquire leaves. -/

theorem ne_of_mem_aErase {α : Type} {k : Nat} {m : AMap α} {e : Nat × α} (h : e ∈ aErase k m) : e.1 ≠ k := by
  induction m with
  | nil => cases h
  | cons e' m ih =>
    obtain ⟨j, w⟩ := e'
    simp only [aErase] at h
    split at h
    · exact ih h
    · rcases List.mem_cons.1 h with rfl | h
      · assumption
      · exact ih h

theorem mem_foldl_aErase {α : Type} (f : Nat → Nat) (ks : List Nat) {m : AMap α} {e : Nat × α}
    (h : e ∈ ks.foldl (fun m a => aErase (f a) m) m) : e ∈ m ∧ ∀ a ∈ ks, e.1 ≠ f a := by
  induction ks generalizing m with
  | nil => exact ⟨h, fun a ha => by cases ha⟩
  | cons k ks ih =>
    obtain ⟨hm, hks⟩ := ih h
    refine ⟨mem_aErase hm, fun a ha => ?_⟩
    rcases List.mem_cons.1 ha with rfl | ha
    · exact ne_of_mem_aErase hm
    · exact hks a ha

/-- Words that satisfy a test are gone from a core's L1 once they are dropped. -/
theorem l1_dropWords_l1Words {s : State} {core : Nat} {ok : Nat → L1Word → Bool} {e : Nat × L1Word}
    (he : e ∈ (dropWords s core (l1Words s core ok)).l1) (hcore : e.1 / 2 ^ 56 = core) : ok (e.1 % 2 ^ 56 * 4) e.2 = false := by
  obtain ⟨hm, hne⟩ := mem_foldl_aErase (l1Key core) _ he
  by_contra hok
  have hmem : e.1 % 2 ^ 56 * 4 ∈ l1Words s core ok :=
    List.mem_map.2 ⟨e, List.mem_filter.2 ⟨hm, by simp [-Nat.reducePow, hcore, hok]⟩, rfl⟩
  refine hne _ hmem ?_
  rw [l1Key, Nat.mul_div_cancel _ (by decide), ← hcore]
  omega

/-- An acquire beyond WG leaves no SI copy of device memory in its core's L1 (R227). -/
theorem l1_acquire {s : State} {scope core ctx : Nat} (hs : scope ≠ 0) {e : Nat × L1Word} (he : e ∈ (acquire s scope core ctx).l1)
    (hcore : e.1 / 2 ^ 56 = core) (hkind : e.2.kind = .si) : isDevice (e.1 % 2 ^ 56 * 4) = false := by
  have hl1 : (acquire s scope core ctx).l1 = (dropWords (flushDirtySi s core) core
      (l1Words (flushDirtySi s core) core fun a w => w.kind = .si && (isDevice a || scope = 4))).l1 := by
    unfold acquire
    rw [if_neg hs]
    dsimp only
    split <;> rfl
  rw [hl1] at he
  have hgone := l1_dropWords_l1Words he hcore
  simp only [hkind, decide_true, Bool.true_and, Bool.or_eq_false_iff] at hgone
  exact hgone.1

end Sys2Proof.Machine
end

section
/-! SUPPORT. ATOMIC_PERFORMED for an atomic of one lane (R260 to R263): its effect on memory, registers, its path and the core's L1. -/

namespace Sys2Proof.Machine

theorem readMem_lt (m : Memory) (a n : Nat) : readMem m a n < 256 ^ n := by
  induction n generalizing a with
  | zero => exact Nat.one_pos
  | succ n ih =>
    have hb : bGet m a < 2 ^ 8 := bGet_lt m a
    have hrest := ih (a + 1)
    rw [readMem, Nat.pow_succ]
    omega

theorem sizeOf_atom (d o g l t nr c b r sc op : Nat) : sizeOf (.atom d o g l t nr c b r sc op) = 2 := rfl

theorem failTrap_nil (q : Path) (i : Instr) : failTrap q i [] = none := rfl

/-- A path that waited at home for an operation none of whose lanes failed goes on (R211). -/
theorem resumeAfter_of_home {s : State} {k : Nat} {o : Op} {q : Path} (hq : aGet o.path s.paths = some q) (hw : q.wait = .home)
    (hc : q.cur = some o.instr) (hf : o.failed = []) : resumeAfter s k o = setPath s o.path (q.past (sizeOf o.instr)) := by
  simp [resumeAfter, hq, hw, hc, hf, failTrap_nil, advance_eq]

/-- Old values written to their registers, where the form returns them. -/
def returned (s : State) (nr : Nat) (o : Op) : State := if nr = 1 then s else { s with v := bSetAll s.v (returnWrites o) }

/-- The acquire part of an atomic's order. -/
def acquired (s : State) (r sc core ctx : Nat) : State := if hasAcquire r then acquire s sc core ctx else s

/-- The operation with its one lane performed. -/
def performedOp (o : Op) (a : LaneAccess) (x : Nat) : Op := { o with accesses := [{ a with value := x, done := true }] }

/-- An atomic of one lane of this device, whose turn has come. -/
theorem execAtomicPerformed_one {s t : State} {k : Nat} {x : Op} {a : LaneAccess} {w old fl d o g l ty nr c b r sc op : Nat}
    (hk : aGet k s.ops = some x) (hleft : x.left = 0) (hacc : x.accesses = [a]) (hfree : opBlocked s k x = false)
    (hpeer : isPeer a.pa = false) (hwr : x.writes = [(a.lane, w)]) (hi : x.instr = .atom d o g l ty nr c b r sc op)
    (ht : performLane x x.ctx op (w % 2 ^ 64) (w / 2 ^ 64) { s.about (.one k) with ops := aErase k s.ops } a = (t, old, fl)) :
    execAtomicPerformed (s.about (.one k)) = .next (sendInvalDone (resumeAfter
      (acquired (returned (mergeFlagsIn t x.gang x.pathLanes fl) nr (performedOp x a old)) r sc x.core x.ctx) k (performedOp x a old))) := by
  have hargs : atomArgs x.writes a.lane = (w % 2 ^ 64, w / 2 ^ 64) := by simp [atomArgs, hwr]
  have hblock : opBlocked (s.about (.one k)) k x = false := hfree
  simp only [State.about] at hblock ht
  simp only [execAtomicPerformed, State.about, hk, hi, hleft, hblock, hacc, bne_self_eq_false, Bool.or_false, Bool.false_eq_true, ↓reduceIte,
    List.foldl_cons, List.foldl_nil, List.nil_append, hpeer, hargs, ht, performedOp, returned, acquired]

section
variable {s : State} {nr r sc core ctx : Nat} {o : Op}

theorem Kept.acquired {t : State} (h : Kept s t) (r sc core ctx : Nat) : Kept s (acquired t r sc core ctx) := by
  unfold Machine.acquired
  split
  · exact h.acquire _ _ _
  · exact h

/-- No acquire, or one at WG scope, does anything. -/
theorem acquired_of_none (h : r = 1 ∨ sc = 0) : acquired s r sc core ctx = s := by
  unfold acquired hasAcquire acquire
  rcases h with h | h <;> simp [h]

theorem acquired_of_wide (h : r ≠ 1) : acquired s r sc core ctx = acquire s sc core ctx := by
  simp [acquired, hasAcquire, h]

/-- A return of old values changes V registers alone. -/
theorem returned_rest (s : State) (nr : Nat) (o : Op) : { returned s nr o with v := s.v } = s := by
  unfold returned
  split <;> rfl

theorem returned_of_noReturn (h : nr = 1) : returned s nr o = s := if_pos h

theorem returned_v (h : nr ≠ 1) : (returned s nr o).v = bSetAll s.v (returnWrites o) := by
  rw [returned, if_neg h]

end

/-- What has become of the machine once an atomic of one lane has been performed: memory has the op's result, its registers the old word, the
acquire's clearing has been done, and a path that waited for it goes on. -/
theorem atomicPerformed_effect {s : State} {k : Nat} {x : Op} {a : LaneAccess} {w d o g l ty nr c b r sc op : Nat} {q : Path}
    (hk : aGet k s.ops = some x) (hleft : x.left = 0) (hacc : x.accesses = [a]) (hfree : opBlocked s k x = false)
    (hd : isDevice a.pa = true) (hwr : x.writes = [(a.lane, w)]) (hi : x.instr = .atom d o g l ty nr c b r sc op) (hf : x.failed = [])
    (hu : Uncached s x.core a.pa a.size) (hn : 0 < a.size) (hin : a.pa % 128 + a.size ≤ 128) (hrt : a.rt ≠ 0)
    (hq : aGet x.path s.paths = some q) (hgo : r = 1 → q.wait ≠ .home) (hwait : r ≠ 1 → q.wait = .home ∧ q.cur = some x.instr) :
    ∃ u, exec .atomicPerformed (s.about (.one k)) = .next u ∧ aGet k u.ops = none ∧ u.g = s.g ∧ u.p = s.p ∧
      u.v = (if nr = 1 then s.v else bSetAll s.v (returnWrites (performedOp x a (readMem s.mem a.pa a.size)))) ∧
      (r = 1 → u.paths = s.paths) ∧ (r ≠ 1 → PathBecomes s u x.path (q.past 2)) ∧
      (r = 1 ∨ sc = 0 → u.mem = writeMem s.mem a.pa
        (toBytes a.size (atomNew op (readMem s.mem a.pa a.size) (w % 2 ^ 64) (w / 2 ^ 64)).1)) ∧
      (r ≠ 1 → ∃ t, u.l1 = (acquire t sc x.core x.ctx).l1) := by
  have hu0 : Uncached { s.about (.one k) with ops := aErase k s.ops } x.core a.pa a.size := hu
  obtain ⟨t, hperf, hmem, hkept⟩ : ∃ t, performLane x x.ctx op (w % 2 ^ 64) (w / 2 ^ 64) { s.about (.one k) with ops := aErase k s.ops } a =
      (t, readMem s.mem a.pa a.size, (atomNew op (readMem s.mem a.pa a.size) (w % 2 ^ 64) (w / 2 ^ 64)).2) ∧
      t.mem = writeMem s.mem a.pa (toBytes a.size (atomNew op (readMem s.mem a.pa a.size) (w % 2 ^ 64) (w / 2 ^ 64)).1) ∧
      Kept { s.about (.one k) with ops := aErase k s.ops } t := performLane_uncached _ _ _ _ hu0 hn hin hd hrt
  have hexec := execAtomicPerformed_one hk hleft hacc hfree (isPeer_of_isDevice hd) hwr hi hperf
  generalize hs2 : returned (mergeFlagsIn t x.gang x.pathLanes
    (atomNew op (readMem s.mem a.pa a.size) (w % 2 ^ 64) (w / 2 ^ 64)).2) nr (performedOp x a (readMem s.mem a.pa a.size)) = s2 at hexec
  have hrest : { s2 with v := t.v } = mergeFlagsIn t x.gang x.pathLanes
      (atomNew op (readMem s.mem a.pa a.size) (w % 2 ^ 64) (w / 2 ^ 64)).2 := by
    rw [← hs2]; exact returned_rest _ _ _
  have hv2 : s2.v = if nr = 1 then s.v else bSetAll s.v (returnWrites (performedOp x a (readMem s.mem a.pa a.size))) := by
    rw [← hs2]
    split
    · rename_i h; rw [returned_of_noReturn h]; exact hkept.v
    · rename_i h; rw [returned_v h]; exact congrArg (fun v => bSetAll v _) hkept.v
  have hacq := (Kept.refl s2).acquired r sc x.core x.ctx
  generalize hs3 : acquired s2 r sc x.core x.ctx = s3 at hexec hacq
  have hpaths : s3.paths = s.paths := hacq.paths.trans ((congrArg State.paths hrest).trans hkept.paths)
  have hres : (r = 1 → resumeAfter s3 k (performedOp x a (readMem s.mem a.pa a.size)) = s3) ∧
      (r ≠ 1 → resumeAfter s3 k (performedOp x a (readMem s.mem a.pa a.size)) = setPath s3 x.path (q.past 2)) := by
    have hq3 : aGet (performedOp x a (readMem s.mem a.pa a.size)).path s3.paths = some q := by rw [hpaths]; exact hq
    refine ⟨fun h => resumeAfter_of_not_home hq3 (hgo h), fun h => ?_⟩
    obtain ⟨hw, hc⟩ := hwait h
    have hsize : sizeOf (performedOp x a (readMem s.mem a.pa a.size)).instr = 2 := by
      change sizeOf x.instr = 2
      rw [hi]
      exact sizeOf_atom ..
    rw [resumeAfter_of_home hq3 hw hc hf, hsize]
    rfl
  have hsame : { resumeAfter s3 k (performedOp x a (readMem s.mem a.pa a.size)) with paths := s3.paths } = s3 := by
    by_cases h : r = 1
    · rw [hres.1 h]
    · rw [hres.2 h]; rfl
  refine ⟨_, hexec, ?_, ?_, ?_, ?_, ?_, ?_, ?_, ?_⟩
  · have hops : aGet k s2.ops = none := (congrArg (fun u : State => aGet k u.ops) hrest).trans (hkept.noOp k (aGet_aErase_self _ _))
    exact (congrArg (fun u : State => aGet k u.ops) hsame).trans (hacq.noOp k hops)
  · exact (congrArg State.g hsame).trans (hacq.g.trans ((congrArg State.g hrest).trans hkept.g))
  · exact (congrArg State.p hsame).trans (hacq.p.trans ((congrArg State.p hrest).trans hkept.p))
  · exact (congrArg State.v hsame).trans (hacq.v.trans hv2)
  · intro h
    exact (congrArg State.paths (hres.1 h)).trans hpaths
  · intro h
    have := pathBecomes_setPath s s3 x.path (q.past 2) hpaths
    rw [← hres.2 h] at this
    exact this
  · intro h
    have h3 : s3 = s2 := by rw [← hs3]; exact acquired_of_none h
    exact (congrArg State.mem hsame).trans ((congrArg State.mem h3).trans ((congrArg State.mem hrest).trans hmem))
  · intro h
    exact ⟨s2, (congrArg State.l1 hsame).trans (by rw [← hs3, acquired_of_wide h])⟩

/-- The registers that a return of old words writes: one, or the pair of a 64-bit op (R261). -/
theorem loadDest_atom (d o g l ty nr c b r sc op : Nat) :
    loadDest (.atom d o g l ty nr c b r sc op) = (d, if 13 ≤ op then 2 else 1, none) := rfl

/-- V registers after an atomic of one lane: the old word in V[d], or in the pair from it, where the form returns it. -/
theorem getV_performed {s u : State} {x : Op} {a : LaneAccess} {old nr d o g l ty c b r sc op : Nat} (hd : d < 127) (hla : a.lane < 32)
    (hi : x.instr = .atom d o g l ty nr c b r sc op) (hold : 13 ≤ op → old < 2 ^ 64)
    (hv : u.v = if nr = 1 then s.v else bSetAll s.v (returnWrites (performedOp x a old))) (hnr : nr < 2) {gid lane v : Nat}
    (hlane : lane < 32) (hv128 : v < 128) :
    (nr = 0 → gid = x.gang → lane = a.lane → v = d → getV u gid lane v = old % 2 ^ 32) ∧
    (nr = 0 → 13 ≤ op → gid = x.gang → lane = a.lane → v = d + 1 → getV u gid lane v = old / 2 ^ 32) ∧
    (¬ (nr = 0 ∧ gid = x.gang ∧ lane = a.lane ∧ (v = d ∨ (13 ≤ op ∧ v = d + 1))) → getV u gid lane v = getV s gid lane v) := by
  have hdest : loadDest (performedOp x a old).instr = (d, if 13 ≤ op then 2 else 1, none) := by
    change loadDest x.instr = _
    rw [hi]
    exact loadDest_atom ..
  have hw : d + (if 13 ≤ op then 2 else 1) ≤ 128 := by split <;> omega
  have hlanes : ∀ y ∈ (performedOp x a old).accesses, y.lane < 32 := by
    intro y hy
    rw [List.mem_singleton.1 hy]
    exact hla
  have hnodup : ((performedOp x a old).accesses.map (·.lane)).Nodup := List.nodup_singleton _
  have hmem : ({ a with value := old, done := true } : LaneAccess) ∈ (performedOp x a old).accesses := List.mem_singleton_self _
  have hwritten : nr = 0 → u.v = bSetAll s.v (returnWrites (performedOp x a old)) := fun h => by rw [hv, h]; rfl
  refine ⟨?_, ?_, ?_⟩
  · rintro h0 rfl rfl rfl
    have := getV_returnWrites hdest (hwritten h0) hw hlanes hnodup hmem (i := 0) (by split <;> decide)
    simpa [returnValue, performedOp] using this
  · rintro h0 hop rfl rfl rfl
    have := getV_returnWrites hdest (hwritten h0) hw hlanes hnodup hmem (i := 1) (by rw [if_pos hop]; decide)
    rw [returnValue_none, Nat.mul_one, Nat.mod_eq_of_lt (by have := hold hop; simp only; omega)] at this
    exact this
  · intro h
    by_cases h0 : nr = 0
    · refine getV_returnWrites_of_not hdest (hwritten h0) hw hlanes hlane hv128 ?_
      intro y hy
      rw [List.mem_singleton.1 hy]
      rintro ⟨hg, hl, hdv, hvd⟩
      refine h ⟨h0, hg, hl.symm, ?_⟩
      split at hvd <;> omega
    · have h1 : nr = 1 := by omega
      unfold getV
      rw [hv, if_pos h1]

/-- Bytes that an atomic acts on, as the claim about them writes it. -/
theorem aligned_within_line {a n op : Nat} (hn : n = if op = 11 ∨ op = 12 then 16 else if 13 ≤ op then 8 else 4) (ha : a % n = 0) :
    0 < n ∧ a % 128 + n ≤ 128 ∧ (13 ≤ op → n = 8) := by
  split at hn
  · subst hn; omega
  · split at hn <;> subst hn <;> omega

end Sys2Proof.Machine
end

section
/-! SUPPORT. ATOM issued with every lane translated (R260 to R263): the checks of its lanes, and the operation that it puts in flight. -/

namespace Sys2Proof.Machine

/-- A lane's address, as the pseudocode and as the claims write it (R59, R218). -/
theorem laneAddr_eq_accessAddr (s : State) (q : Path) (g off l : Nat) : laneAddr s q g off l = accessAddr s q g off l := by
  unfold laneAddr accessAddr
  split
  · exact getG_eq s q g
  · have hsum : BitVec.ofInt 64 ((getG s q g : Int) + sext (getV s q.gang l off) 32) =
        gWord s q g + (vWord s q l off).signExtend 64 := by
      rw [getG_eq, getV_eq, sext_toNat _ (by decide), BitVec.ofInt_add, BitVec.ofInt_natCast, BitVec.ofNat_toNat, BitVec.setWidth_eq]
      rfl
    rw [wrapInt_eq, hsum]

theorem atomSize_eq (op : Nat) : atomSize op = if op = 11 ∨ op = 12 then 16 else if 13 ≤ op then 8 else 4 := by
  simp [atomSize]

/-! Lanes that all pass. -/

/-- Every lane of a mask passes, at its address and through its leaf. -/
def passOuts (lanes : Nat) (pa leaf : Nat → Nat) : List (Nat × LaneOut) := (lanesOf lanes).map fun l => (l, .pass (pa l) (leaf l))

section
variable {lanes : Nat} {pa leaf : Nat → Nat}

theorem missLanes_passOuts : missLanes (passOuts lanes pa leaf) = [] := by
  simp [missLanes, passOuts, List.filterMap_map]

theorem failsOf_passOuts : failsOf (passOuts lanes pa leaf) = [] := by
  simp [failsOf, passOuts, List.filterMap_map]

theorem laneTrap_passOuts (q : Path) (i : Instr) : laneTrap q i (passOuts lanes pa leaf) = none := by
  have h := failsOf_passOuts (lanes := lanes) (pa := pa) (leaf := leaf)
  unfold failsOf at h
  unfold laneTrap
  dsimp only
  rw [h]
  rfl

theorem accessesOf_passOuts (n rt : Nat) (typ : Nat → Nat → Nat) (va value : Nat → Nat) :
    accessesOf (passOuts lanes pa leaf) n rt typ va value = (lanesOf lanes).map fun l =>
      { lane := l, va := va l, pa := pa l, size := n, value := value l, done := false, rt := typ rt (leaf l), leaf := leaf l } := by
  simp [accessesOf, passLanes, passOuts, List.filterMap_map, Function.comp_def]

theorem settleLanes_passOuts {s : State} {p : Nat} {q : Path} (hq : aGet p s.paths = some q) (i : Instr) :
    settleLanes s p q i (passOuts lanes pa leaf) = advance s p q (sizeOf i) := by
  simp [settleLanes, missLanes_passOuts, laneTrap_passOuts, hq]

end

theorem checkLanes_of_pass {check : State → Nat → State × LaneOut} {s : State} {q : Path} {va pa leaf : Nat → Nat}
    (h : ∀ l ∈ lanesOf (active q), check s (va l) = (s, .pass (pa l) (leaf l))) :
    checkLanes check s q va = (s, passOuts (active q) pa leaf) := by
  have hgo : ∀ (ls : List Nat) (acc : List (Nat × LaneOut)), (∀ l ∈ ls, check s (va l) = (s, .pass (pa l) (leaf l))) →
      ls.foldl (fun (a : State × List (Nat × LaneOut)) l => ((check a.1 (va l)).1, a.2 ++ [(l, (check a.1 (va l)).2)])) (s, acc) =
        (s, acc ++ ls.map fun l => (l, .pass (pa l) (leaf l))) := by
    intro ls
    induction ls with
    | nil => simp
    | cons l ls ih =>
      intro acc hl
      rw [List.foldl_cons, hl l (List.mem_cons_self ..), ih _ fun x hx => hl x (List.mem_cons_of_mem _ hx)]
      simp
  exact hgo _ [] h

/-- Lanes that need nothing started: their accesses as they are, and nothing to wait for. -/
theorem startLanes_of_ready {s : State} {op gid core ctx : Nat} {as : List LaneAccess}
    {f : State → Nat → Nat → Nat → Nat → LaneAccess → State × LaneAccess × Nat} (h : ∀ a ∈ as, f s op gid core ctx a = (s, a, 0)) :
    startLanes s op gid core ctx as f = (s, as, 0) := by
  have hgo : ∀ (as acc : List LaneAccess), (∀ a ∈ as, f s op gid core ctx a = (s, a, 0)) →
      as.foldl (fun (acc : State × List LaneAccess × Nat) a =>
        let r := f acc.1 op gid core ctx a
        (r.1, acc.2.1 ++ [r.2.1], acc.2.2 + r.2.2)) (s, acc, 0) = (s, acc ++ as, 0) := by
    intro as
    induction as with
    | nil => simp
    | cons a as ih =>
      intro acc ha
      rw [List.foldl_cons, ha a (List.mem_cons_self ..)]
      simpa using ih (acc ++ [a]) fun x hx => ha x (List.mem_cons_of_mem _ hx)
  exact hgo as [] h

/-! What the memory system's work leaves of a path's translations. -/

section
variable {s t : State} {q : Path}

theorem Kept.ctxOf (h : Kept s t) (q : Path) : ctxOf t q = ctxOf s q := (congrArg (fun u => Machine.ctxOf u q) h.rest :)
theorem Kept.coreOf (h : Kept s t) (q : Path) : coreOf t q = coreOf s q := (congrArg (fun u => Machine.coreOf u q) h.rest :)
theorem Kept.baseOf (h : Kept s t) (q : Path) : baseOf t q = baseOf s q := (congrArg (fun u => Machine.baseOf u q) h.rest :)
theorem Kept.tlbFind (h : Kept s t) (core c va : Nat) : tlbFind t core c va = tlbFind s core c va :=
  (congrArg (fun u => Machine.tlbFind u core c va) h.rest :)

theorem Kept.maps (h : Kept s t) {acc : Acc} {va n pa leaf : Nat} (hm : Maps s q acc va n pa leaf) : Maps t q acc va n pa leaf := by
  unfold Maps MapsFor at *
  rw [h.ctxOf, h.coreOf, h.tlbFind]
  exact hm

end

end Sys2Proof.Machine
end

section
/-! SUPPORT. ATOM issued (R65, R260 to R263). -/

namespace Sys2Proof.Machine

section
variable {s : State} {q : Path} {r sc core ctx : Nat}

/-- What an ATOM's order does to the caches before its lanes are checked (R257): the write-backs of a release, and the acquire of one that
has both parts. -/
def orderedFor (s : State) (r sc core ctx : Nat) : State :=
  let s1 := if hasRelease r then releaseCore s sc core else s
  if r = 3 then acquire s1 sc core ctx else s1

theorem orderedFor_kept (s : State) (r sc core ctx : Nat) : Kept s (orderedFor s r sc core ctx) := by
  have hrel : Kept s (if hasRelease r then releaseCore s sc core else s) := by
    split
    · exact (Kept.refl s).releaseCore _ _
    · exact Kept.refl s
  unfold orderedFor
  dsimp only
  split
  · exact hrel.acquire _ _ _
  · exact hrel

theorem orderedFor_of_none (h : r = 0 ∨ sc = 0) : orderedFor s r sc core ctx = s := by
  rcases h with rfl | rfl
  · rfl
  · have hrel : (if hasRelease r then releaseCore s 0 core else s) = s := by split <;> rfl
    unfold orderedFor
    rw [hrel]
    split <;> rfl

/-- A lane's bytes are as clean after the order's work as before: it did none, or no unit was poisoned. -/
theorem poisonedVia_orderedFor (hclean : r ≠ 0 → sc ≠ 0 → Unpoisoned s) (useL1 : Bool) {c pa n : Nat}
    (h : ∀ useL1, poisonedVia useL1 s c pa n = none) : poisonedVia useL1 (orderedFor s r sc core ctx) c pa n = none := by
  by_cases hr : r = 0 ∨ sc = 0
  · rw [orderedFor_of_none hr]
    exact h useL1
  · have hu : Unpoisoned (orderedFor s r sc core ctx) :=
      (orderedFor_kept s r sc core ctx).unpoisoned (hclean (fun h0 => hr (.inl h0)) fun h0 => hr (.inr h0))
    exact hu.poisonedVia _ _ _ _

end

/-- The access of lane `l` of an ATOM. -/
def atomAccess (n t : Nat) (va pa leaf : Nat → Nat) (l : Nat) : LaneAccess :=
  { lane := l, va := va l, pa := pa l, size := n, value := 0, done := false, rt := atomType t (leaf l), leaf := leaf l }

/-- Accesses of an ATOM whose lanes all pass. -/
def atomAccesses (q : Path) (n t : Nat) (va pa leaf : Nat → Nat) : List LaneAccess :=
  (lanesOf (active q)).map (atomAccess n t va pa leaf)

theorem accessesOf_atom (q : Path) (n t : Nat) (va pa leaf : Nat → Nat) :
    accessesOf (passOuts (active q) pa leaf) n t atomType va (fun _ => 0) = atomAccesses q n t va pa leaf := accessesOf_passOuts ..

/-- The operands of the access `a` (R261): V[b], and V[c] above it for a compare-and-swap. -/
def atomWrite (s : State) (q : Path) (op b c : Nat) (a : LaneAccess) : Nat × Nat :=
  (a.lane, atomOperand s q op b a.lane + 2 ^ 64 * (if op = 9 || op = 15 then atomOperand s q op c a.lane else 0))

/-- Their operands (R261). -/
def atomWrites (s : State) (q : Path) (op b c : Nat) (as : List LaneAccess) : List (Nat × Nat) :=
  as.map (atomWrite s q op b c)

/-- Check 5 of R210 for a lane of an ATOM: in the L1 where the atomic is performed there. -/
def atomPoison (core op t : Nat) (s : State) (pa leaf : Nat) : Option Nat :=
  if isDevice pa then poisonedVia (atomOwn s op (atomType t leaf) leaf pa (atomSize op) && ownedHere s core pa (atomSize op)) s core pa
    (atomSize op) else none

/-- What host and peer memory refuse of an ATOM (R263, R401). -/
def atomFar (op nr : Nat) (s : State) (pa _leaf : Nat) : Option (Nat × Nat × Nat) :=
  if !isDevice pa && !remoteAtomic op then some (6, cProt, 5)
  else if nr != 1 && outOfReach s pa then some (5, cProt, 9)
  else none

/-- An ATOM's lanes pass these checks where they are translated and clean. -/
theorem checkLanes_atom {s : State} {q : Path} {core op t nr : Nat} {va pa leaf : Nat → Nat} (hq : q.refused = [])
    (hm : ∀ j ∈ lanesOf (active q), Maps s q .atomic (va j) (atomSize op) (pa j) (leaf j))
    (hp : ∀ j ∈ lanesOf (active q), ∀ useL1, poisonedVia useL1 s core (pa j) (atomSize op) = none) :
    checkLanes (fun s a => laneCheckBy (atomPoison core op t) (atomFar op nr) s q .atomic a (atomSize op) (atomSize op)) s q va =
      (s, passOuts (active q) pa leaf) := by
  refine checkLanes_of_pass fun j hj => laneCheckBy_of_maps (hm j hj) hq ?_ ?_
  · simp [atomPoison, (hm j hj).isDevice, hp j hj]
  · simp [atomFar, (hm j hj).isDevice, outOfReach, (hm j hj).isPeer]

/-- One lane of an ATOM as its operation is put in flight: sent to a peer, or left for its turn at home (R262, R400). -/
def startAtomLane (q : Path) (op nr : Nat) (wr : List (Nat × Nat)) (s : State) (k gid core ctx : Nat) (a : LaneAccess) :
    State × LaneAccess × Nat :=
  if outOfReach s a.pa then
    (pendFault (countFailedAccess s) gid k (2 ^ a.lane) (baseOf s q) ⟨cProt, 2 ^ a.lane, 9, 0, false, a.va⟩, a, 0)
  else if isPeer a.pa then
    (atomPeer s k a.lane ctx a.pa op (atomArgs wr a.lane).1 (atomArgs wr a.lane).2 (nr = 1) gid core a.va, a, 1)
  else (s, a, 0)

theorem startLanes_atom {s : State} {k core ctx op nr : Nat} {q : Path} {wr : List (Nat × Nat)} {as : List LaneAccess}
    (h : ∀ a ∈ as, isDevice a.pa = true) : startLanes s k q.gang core ctx as (startAtomLane q op nr wr) = (s, as, 0) := by
  refine startLanes_of_ready fun a ha => ?_
  simp [startAtomLane, outOfReach, isPeer_of_isDevice (h a ha)]

/-- The state in which the operation of an ATOM has been put in flight. -/
def atomInFlight (s : State) (p : Nat) (q : Path) (i : Instr) (l nr t r sc op b c : Nat) (va pa leaf : Nat → Nat) : State :=
  let s1 := orderedFor s r sc (coreOf s q) (ctxOf s q)
  let as := atomAccesses q (atomSize op) t va pa leaf
  putOp (freshId s1).2 s1.fresh (atomOp s p q i l nr t as (atomWrites s q op b c as) 0 [])

/-- ATOM whose lanes are all translated and clean, and whose order has nothing to wait for. -/
theorem execAtom_issues {s : State} {p : Nat} {q : Path} {d o g l t nr c b r sc op : Nat} {pa leaf : Nat → Nat} (hi : Issues s p q)
    (hq : q.refused = []) (hact : lanesOf (active q) ≠ [])
    (hm : ∀ j ∈ lanesOf (active q), Maps s q .atomic (laneAddr s q g o j) (atomSize op) (pa j) (leaf j))
    (hp : ∀ j ∈ lanesOf (active q), ∀ useL1, poisonedVia useL1 s (coreOf s q) (pa j) (atomSize op) = none)
    (hc : ∀ j ∈ lanesOf (active q), laneConflict s q.gang j (pa j) (atomSize op) = false)
    (hrel : r ≠ 0 → releaseReady s q.gang q.lanes sc = true) (hacq : r ≠ 1 → loadsReady s q.gang q.lanes = true)
    (hclean : r ≠ 0 → sc ≠ 0 → Unpoisoned s) :
    let i := Instr.atom d o g l t nr c b r sc op
    let s3 := atomInFlight s p q i l nr t r sc op b c (laneAddr s q g o) pa leaf
    execAtom d o g l t nr c b r sc op s = .next (if r = 1 then advance s3 p q 2 else waitAt s3 p q i .home) := by
  have hkept := orderedFor_kept s r sc (coreOf s q) (ctxOf s q)
  have hdry : dryLanes s q .atomic (atomSize op) (laneAddr s q g o) = passOuts (active q) pa leaf :=
    List.map_congr_left fun j hj => by rw [laneDry_of_maps (hm j hj) hq]
  have hready : (hasRelease r && !releaseReady s q.gang q.lanes sc || hasAcquire r && !loadsReady s q.gang q.lanes) = false := by
    by_cases h0 : r = 0
    · simp [hasRelease, hasAcquire, h0, hacq (by omega)]
    · by_cases h1 : r = 1
      · simp [hasRelease, hasAcquire, h1, hrel h0]
      · simp [hrel h0, hacq h1]
  have hconf : anyConflict s q.gang (atomAccesses q (atomSize op) t (laneAddr s q g o) pa leaf) = false := by
    simp only [anyConflict, atomAccesses, List.any_map, List.any_eq_false]
    intro j hj
    simp [atomAccess, hc j hj]
  have hdev : ∀ a ∈ atomAccesses q (atomSize op) t (laneAddr s q g o) pa leaf, isDevice a.pa = true := by
    intro a ha
    obtain ⟨j, hj, rfl⟩ := List.mem_map.1 ha
    exact (hm j hj).isDevice
  have hremote : remote (atomAccesses q (atomSize op) t (laneAddr s q g o) pa leaf) = false := by
    simp only [remote, List.any_eq_false]
    intro a ha
    simp [hdev a ha]
  have hne : (atomAccesses q (atomSize op) t (laneAddr s q g o) pa leaf).isEmpty = false := by
    simp [atomAccesses, hact]
  have hck := checkLanes_atom (s := orderedFor s r sc (coreOf s q) (ctxOf s q)) (core := coreOf s q) (t := t) (nr := nr) hq
    (fun j hj => hkept.maps (hm j hj)) fun j hj useL1 => poisonedVia_orderedFor hclean useL1 (hp j hj)
  have hstart := startLanes_atom (s := (freshId (orderedFor s r sc (coreOf s q) (ctxOf s q))).2)
    (k := (freshId (orderedFor s r sc (coreOf s q) (ctxOf s q))).1) (core := coreOf s q) (ctx := ctxOf s q) (q := q) (op := op) (nr := nr)
    (wr := atomWrites s q op b c (atomAccesses q (atomSize op) t (laneAddr s q g o) pa leaf)) hdev
  intro i s3
  rw [execAtom, onPath_next hi]
  refine congrArg Host.Outcome.next ?_
  have hs1 : (if r = 3 then acquire (if hasRelease r then releaseCore s sc (coreOf s q) else s) sc (coreOf s q) (ctxOf s q)
      else if hasRelease r then releaseCore s sc (coreOf s q) else s) = orderedFor s r sc (coreOf s q) (ctxOf s q) := rfl
  simp only [hdry, missLanes_passOuts, List.isEmpty_nil, Bool.not_true, Bool.false_eq_true, ↓reduceIte, hready, accessesOf_atom, hconf, hs1]
  unfold atomPoison atomFar at hck
  unfold startAtomLane atomWrites atomWrite at hstart
  have hpath : aGet p s3.paths = some q := by
    rw [show s3.paths = s.paths from hkept.paths]
    exact hi.2
  simp only [hck, accessesOf_atom, hne, failsOf_passOuts, List.foldl_nil, hremote, Bool.false_or, Bool.false_eq_true, ↓reduceIte, hstart]
  change (if hasAcquire r = true then waitAt s3 p q i .home else settleLanes s3 p q i (passOuts (active q) pa leaf)) = _
  rw [settleLanes_passOuts hpath, sizeOf_atom]
  by_cases h : r = 1 <;> simp [hasAcquire, h]

/-- Lanes of one access that all map, with their addresses and leaves (R210, R253). -/
theorem LanesMap.addresses {s : State} {q : Path} {acc : Acc} {va : Nat → Nat} {n : Nat} (h : LanesMap s q acc va n) :
    ∃ pa leaf : Nat → Nat, ∀ j ∈ lanesOf (active q), Maps s q acc (va j) n (pa j) (leaf j) ∧
      poisonedFor s (coreOf s q) (pa j) n = none ∧ poisonedVia false s (coreOf s q) (pa j) n = none ∧
      laneConflict s q.gang j (pa j) n = false := by
  obtain ⟨-, -, hlanes⟩ := h
  have hall : ∀ j, ∃ x : Nat × Nat, j ∈ lanesOf (active q) → Maps s q acc (va j) n x.1 x.2 ∧
      poisonedFor s (coreOf s q) x.1 n = none ∧ poisonedVia false s (coreOf s q) x.1 n = none ∧ laneConflict s q.gang j x.1 n = false := by
    intro j
    by_cases hj : j ∈ lanesOf (active q)
    · obtain ⟨hlt, hb⟩ := (mem_lanesOf _ _).1 hj
      obtain ⟨pa, leaf, hm, hfor, hvia, -, hc⟩ := hlanes j hlt hb
      exact ⟨(pa, leaf), fun _ => ⟨hm, hfor, hvia, hc⟩⟩
    · exact ⟨(0, 0), fun h => absurd h hj⟩
  choose x hx using hall
  exact ⟨fun j => (x j).1, fun j => (x j).2, hx⟩

/-- The operand that an ATOM packs for a lane, as the claim writes it (R261). -/
theorem atomOperand_eq (s : State) (q : Path) (op v j : Nat) :
    atomOperand s q op v j = if 12 ≤ op then pairValue s q j v else (vWord s q j v).toNat := by
  unfold atomOperand
  split
  · exact getPair_eq s q j v
  · exact getV_eq s q j v

/-- The operation of an ATOM whose lanes all pass. -/
theorem atomInFlight_spec (s : State) (p : Nat) (q : Path) (i : Instr) (l nr t r sc op b c : Nat) (va pa leaf : Nat → Nat) :
    let s3 := atomInFlight s p q i l nr t r sc op b c va pa leaf
    let as := atomAccesses q (atomSize op) t va pa leaf
    SameRegisters s s3 ∧ s3.paths = s.paths ∧ baseOf s3 q = baseOf s q ∧
      aGet s.fresh s3.ops = some (atomOp s p q i l nr t as (atomWrites s q op b c as) 0 []) := by
  have hkept := orderedFor_kept s r sc (coreOf s q) (ctxOf s q)
  refine ⟨hkept.sameRegisters, hkept.paths, hkept.baseOf q, ?_⟩
  have hfresh := hkept.fresh
  simp only [atomInFlight, putOp_ops, hfresh, aGet_aSet_self]

/-- Settles O25: the issue by the checks of its lanes after the order's work, the performance at the home slice of an idle line. -/
theorem atomics : Obligations.Atomics := by
  refine ⟨?_, ?_⟩
  · intro s p q d o g l t nr c b r sc op hi hd ho hg hl ht hnr hc hb hr hsc hop hlanes hrel hacq hclean
    have hva : laneAddr s q g o = accessAddr s q g o := funext fun j => laneAddr_eq_accessAddr s q g o j
    rw [← atomSize_eq op, ← hva] at hlanes
    rw [← atomSize_eq op, ← hva]
    obtain ⟨pa, leaf, hmap⟩ := hlanes.addresses
    obtain ⟨hq, ⟨j0, hj0, hb0⟩, -⟩ := hlanes
    have hact : lanesOf (active q) ≠ [] := List.ne_nil_of_mem ((mem_lanesOf _ _).2 ⟨hj0, hb0⟩)
    have hpoison : ∀ j ∈ lanesOf (active q), ∀ useL1, poisonedVia useL1 s (coreOf s q) (pa j) (atomSize op) = none := by
      rintro j hj (_ | _)
      · exact (hmap j hj).2.2.1
      · exact (hmap j hj).2.1
    have hexec := execAtom_issues (d := d) (o := o) (g := g) (l := l) (t := t) (nr := nr) (c := c) (b := b) (r := r) (sc := sc) hi hq hact
      (fun j hj => (hmap j hj).1) hpoison (fun j hj => (hmap j hj).2.2.2) hrel hacq hclean
    obtain ⟨hregs, hpaths, hbase, hx⟩ := atomInFlight_spec s p q (.atom d o g l t nr c b r sc op) l nr t r sc op b c (laneAddr s q g o) pa leaf
    dsimp only at hexec
    generalize atomInFlight s p q (.atom d o g l t nr c b r sc op) l nr t r sc op b c (laneAddr s q g o) pa leaf = s3 at hexec hregs hpaths hbase hx
    have hsame : ∀ u, { u with paths := s3.paths } = s3 → SameRegisters s u ∧
        aGet s.fresh u.ops = aGet s.fresh s3.ops := by
      intro u hu
      obtain ⟨hv, hg, hp, hcsr⟩ := hregs
      exact ⟨⟨(congrArg State.v hu).trans hv, (congrArg State.g hu).trans hg, (congrArg State.p hu).trans hp,
        (congrArg State.csr hu).trans hcsr⟩, (congrArg (fun u : State => aGet s.fresh u.ops) hu :)⟩
    obtain ⟨hregs', hops'⟩ := hsame (if r = 1 then advance s3 p q 2 else waitAt s3 p q (.atom d o g l t nr c b r sc op) .home)
      (by split <;> rfl)
    refine ⟨_, _, hexec, hregs', hops'.trans hx, rfl, rfl, rfl, rfl, rfl, rfl, rfl, ?_, ?_, ?_⟩
    · intro h
      rw [if_pos h]
      exact pathBecomes_setPath _ _ _ _ hpaths
    · intro h
      rw [if_neg h, ← hbase]
      exact pathBecomes_setPath _ _ _ _ hpaths
    · intro j pa' leaf' hj hbit hm
      have hmem : j ∈ lanesOf (active q) := (mem_lanesOf _ _).2 ⟨hj, hbit⟩
      have haccess : atomAccess (atomSize op) t (laneAddr s q g o) pa leaf j ∈
          atomAccesses q (atomSize op) t (laneAddr s q g o) pa leaf := List.mem_map_of_mem hmem
      refine ⟨⟨_, haccess, rfl, ((hmap j hmem).1.unique hm).1⟩, ?_⟩
      have hwrite := List.mem_map_of_mem (f := atomWrite s q op b c) haccess
      simpa [atomWrite, atomAccess, atomOperand_eq, atomWrites, atomOp] using hwrite
  · intro s k x a w d o g l t c b r sc op n hk hleft hacc hfree hd hla hr hsc hop hn hsize hal hdev hrt hu hwr hf hsorted q nr hnr hret hi hq
      hgo hwait
    subst hsize
    obtain ⟨hpos, hin, h64⟩ := aligned_within_line hn hal
    obtain ⟨u, hexec, hops, hg, hp, hv, hpaths1, hpaths, hmem, hl1⟩ := atomicPerformed_effect hk hleft hacc hfree hdev hwr hi hf hu hpos hin hrt
      hq hgo hwait
    refine ⟨u, hexec, hops, hg, hp, hpaths1, hpaths, ?_, ?_, ?_⟩
    · intro h
      rw [hmem h]
      refine ⟨fun e he => ?_, readMem_writeMem_toBytes _ _ _ _⟩
      rw [bGet_writeMem, toBytes_length, if_neg (by omega)]
    · intro hr1 hs0 e he hcore hkind
      obtain ⟨y, hy⟩ := hl1 hr1
      rw [hy] at he
      exact l1_acquire hs0 he hcore hkind
    · intro gid lane v hlane hv128
      refine getV_performed hd hla hi (fun h => ?_) hv hnr hlane hv128
      have hlt := readMem_lt s.mem a.pa a.size
      rw [h64 h] at hlt ⊢
      exact hlt

end Sys2Proof.Machine
end

section
/-! SUPPORT. The subject of an event (log entry 1) is seen by the event alone: what the memory system, translation and engines do to a machine
about a subject is what they do to it without, and they return the same. One rule for each operation, in the model's order. -/

namespace Sys2Proof.Machine

section
variable (s : State) (x : Subject)

/-! What is read of a state. -/

theorem lineAt_about (ln : Nat) : lineAt (s.about x) ln = lineAt s ln := rfl
theorem l1Words_about (core : Nat) (ok : Nat → L1Word → Bool) : l1Words (s.about x) core ok = l1Words s core ok := rfl
theorem victimOf_about (slice c : Nat) : victimOf (s.about x) slice c = victimOf s slice c := rfl
theorem sliceHolds_about (slice : Nat) : sliceHolds (s.about x) slice = sliceHolds s slice := rfl
theorem hasP_about (die ln : Nat) : hasP (s.about x) die ln = hasP s die ln := rfl
theorem beaconCovers_about (a n : Nat) : beaconCovers (s.about x) a n = beaconCovers s a n := rfl
theorem ownDirty_about (ln : Nat) (r : HomeReq) : ownDirty (s.about x) ln r = ownDirty s ln r := rfl

/-! Operations without a branch. -/

theorem memPut_about (a : Nat) (bs : List Nat) : memPut (s.about x) a bs = (memPut s a bs).about x := rfl
theorem putBack_about (bs : List (Nat × Nat)) (bad : List Nat) : putBack (s.about x) bs bad = (putBack s bs bad).about x := rfl
theorem setLine_about (ln : Nat) (l : Line) : setLine (s.about x) ln l = (setLine s ln l).about x := rfl
theorem askLine_about (ln : Nat) (r : HomeReq) : askLine (s.about x) ln r = (askLine s ln r).about x := rfl
theorem dropWords_about (core : Nat) (ws : List Nat) : dropWords (s.about x) core ws = (dropWords s core ws).about x := rfl
theorem dropClean_about (core : Nat) (ws : List Nat) : dropClean (s.about x) core ws = (dropClean s core ws).about x := rfl
theorem markClean_about (core : Nat) (ws : List Nat) : markClean (s.about x) core ws = (markClean s core ws).about x := rfl
theorem dropSpan_about (ln : Nat) (y : Span) : dropSpan (s.about x) ln y = (dropSpan s ln y).about x := rfl
theorem unholdLine_about (die ln : Nat) : unholdLine (s.about x) die ln = (unholdLine s die ln).about x := rfl
theorem markRecall_about (ln : Nat) (ys : List Span) : markRecall (s.about x) ln ys = (markRecall s ln ys).about x := rfl
theorem countRequest_about (a : Nat) (b : Bool) : countRequest (s.about x) a b = (countRequest s a b).about x := rfl
theorem countCollapse_about (a : Nat) : countCollapse (s.about x) a = (countCollapse s a).about x := rfl

/-! Caches and lines. -/

theorem ite_about (c : Prop) [Decidable c] (t u : State) : (if c then t.about x else u.about x) = (if c then t else u).about x :=
  (apply_ite (State.about · x) c t u).symm

theorem foldl_about {α : Type} {f : State → α → State} (hf : ∀ s a, f (s.about x) a = (f s a).about x) (as : List α) :
    as.foldl f (s.about x) = (as.foldl f s).about x := List.foldl_hom (State.about · x) fun s a => hf s a

theorem recallSpan_about (ln : Nat) (y : Span) : recallSpan (s.about x) ln y = (recallSpan s ln y).about x := by
  simp only [recallSpan, lineAt_about, foldl_about _ x (f := fun s y => dropSpan s ln y) fun s y => dropSpan_about s x ln y, setLine_about]

theorem recallAll_about (ln : Nat) (ys : List Span) : recallAll (s.about x) ln ys = (recallAll s ln ys).about x :=
  foldl_about _ _ (fun s y => recallSpan_about s x ln y) _

theorem sendBack_about (core ctx rt ln : Nat) (bs : List (Nat × Nat)) (bad : List Nat) :
    sendBack (s.about x) core ctx rt ln bs bad = (sendBack s core ctx rt ln bs bad).about x := by
  simp only [sendBack, askLine_about, ite_about]

theorem writeBackAs_about (rt core ln : Nat) (ws : List Nat) : writeBackAs rt (s.about x) core ln ws = (writeBackAs rt s core ln ws).about x := by
  simp only [writeBackAs, putBack_about, ite_about, markClean_about, sendBack_about]
  rfl

theorem writeBackWords_about (core ln : Nat) (ws : List Nat) : writeBackWords (s.about x) core ln ws = (writeBackWords s core ln ws).about x :=
  writeBackAs_about ..

theorem evictWord_about (core a : Nat) : evictWord (s.about x) core a = (evictWord s core a).about x := by
  simp only [evictWord, lineAt_about, recallAll_about, writeBackWords_about, dropWords_about]

theorem trimL1_about (core ln fuel : Nat) : trimL1 core ln fuel (s.about x) = (trimL1 core ln fuel s).about x := by
  induction fuel generalizing s with
  | zero => rfl
  | succ n ih =>
    simp only [trimL1, l1Words_about, show (s.about x).stamp = s.stamp from rfl, evictWord_about, ih]
    split
    · rfl
    · split <;> rfl

theorem l1Put_about (core ctx : Nat) (kind : L1Kind) (dirty : Bool) (bs : List (Nat × Nat)) :
    l1Put (s.about x) core ctx kind dirty bs = (l1Put s core ctx kind dirty bs).about x := by
  unfold l1Put
  split
  · rfl
  · exact trimL1_about { s with l1 := _, stamp := _, poison := _ } x ..

theorem l1Fill_about (core ctx a n : Nat) (kind : L1Kind) : l1Fill (s.about x) core ctx a n kind = (l1Fill s core ctx a n kind).about x :=
  l1Put_about ..

theorem giveUp_about (e ln : Nat) : giveUp (s.about x) e ln = (giveUp s e ln).about x := by
  simp only [giveUp, lineAt_about, unholdLine_about, recallAll_about, setLine_about]

theorem evictCopy_about (c : CacheLine) : evictCopy (s.about x) c = (evictCopy s c).about x := by
  simp only [evictCopy, unholdLine_about, lineAt_about, setLine_about, giveUp_about, ite_about]
  split
  · rfl
  · split <;> rfl

theorem makeRoom_about (slice c : Nat) : makeRoom (s.about x) slice c = (makeRoom s slice c).about x := by
  simp only [makeRoom, victimOf_about, evictCopy_about]
  split <;> rfl

theorem holdLine_about (die ln ctx : Nat) (peer first : Bool) :
    holdLine (s.about x) die ln ctx peer first = (holdLine s die ln ctx peer first).about x := by
  simp only [holdLine, show (s.about x).cache = s.cache from rfl, sliceHolds_about, makeRoom_about]
  split
  · rfl
  · simp only [ite_about]
    rfl

theorem touchP_about (die ctx ln : Nat) : touchP (s.about x) die ctx ln = (touchP s die ctx ln).about x := by
  simp only [touchP, hasP_about, holdLine_about, ite_about]

/-! The home slices. -/

theorem consumePackage_about (place : ErrorPlace) (die unit : Nat) :
    consumePackage (s.about x) place die unit = (consumePackage s place die unit).about x := by
  simp only [consumePackage, show (s.about x).poison = s.poison from rfl]
  split <;> rfl

theorem noteSnoop_about (die ln : Nat) : noteSnoop (s.about x) die ln = (noteSnoop s die ln).about x := by
  unfold noteSnoop
  simp only [consumePackage_about]
  generalize consumePackage s (.snoop (holderSlice die ln)) die (bankUnit (holderSlice die ln * 4)) = t
  simp only [show (t.about x).snoop = t.snoop from rfl, lineAt_about, recallAll_about]
  split
  · rfl
  · split
    · split <;> rfl
    · rfl

theorem roomIn_about (ln : Nat) (m : List Span) : roomIn (s.about x) ln m = (roomIn s ln m).about x := by
  simp only [roomIn, recallSpan_about]
  split
  · split <;> rfl
  · rfl

theorem grantSpan_about (ln core ctx first len : Nat) :
    grantSpan (s.about x) ln core ctx first len = (grantSpan s ln core ctx first len).about x := by
  simp only [grantSpan, lineAt_about, roomIn_about, setLine_about, noteSnoop_about, l1Fill_about]

theorem grantProxy_about (ln die first len : Nat) : grantProxy (s.about x) ln die first len = (grantProxy s ln die first len).about x := by
  simp only [grantProxy, lineAt_about, roomIn_about, setLine_about]

theorem arriveAt_about (ln : Nat) (r : HomeReq) (atHome : Bool) : arriveAt (s.about x) ln r atHome = (arriveAt s ln r atHome).about x := by
  simp only [arriveAt, countRequest_about, ite_about, holdLine_about]

theorem serveReq_about (ln : Nat) (r : HomeReq) (atHome : Bool) : serveReq (s.about x) ln r atHome = (serveReq s ln r atHome).about x := by
  unfold serveReq
  simp only [arriveAt_about]
  generalize arriveAt s ln r atHome = t
  simp only [beaconCovers_about, l1Fill_about, grantSpan_about, dropClean_about, putBack_about, ite_about]
  split <;> rfl

theorem serveHead_about (ln : Nat) (r : HomeReq) (d : DirState) (atHome : Bool) :
    serveHead (s.about x) ln r d atHome = (serveHead s ln r d atHome).about x := by
  simp only [serveHead, lineAt_about, setLine_about, serveReq_about]

theorem homeUnc_about (ln : Nat) (r : HomeReq) : homeUnc (s.about x) ln r = (homeUnc s ln r).about x := by
  simp only [homeUnc, lineAt_about, markRecall_about, holdLine_about, grantProxy_about, serveHead_about, ite_about]
  rfl

theorem cleanFirst_about (ln : Nat) (r : HomeReq) : cleanFirst (s.about x) ln r = (cleanFirst s ln r).about x := by
  simp only [cleanFirst, writeBackWords_about, lineAt_about, setLine_about]

theorem homeStep_about (ln : Nat) : homeStep (s.about x) ln = (homeStep s ln).about x := by
  unfold homeStep
  simp only [lineAt_about, consumePackage_about]
  split
  · rfl
  · generalize consumePackage s (.directory ln) (homeDie (ln * 128)) (bankUnit (homeBank (ln * 128))) = t
    simp only [ownDirty_about, cleanFirst_about, homeUnc_about, countCollapse_about, markRecall_about,
      holdLine_about, serveHead_about, setLine_about, ite_about]
    split
    · rfl
    · split <;> rfl

theorem invalidate_about (ln die left : Nat) : invalidate (s.about x) ln die left = (invalidate s ln die left).about x := rfl

theorem recallMarked_about (ln : Nat) : recallMarked (s.about x) ln = (recallMarked s ln).about x := by
  simp only [recallMarked, lineAt_about, recallSpan_about]
  split <;> rfl

theorem lineStep_about (ln : Nat) : lineStep (s.about x) ln = (lineStep s ln).about x := by
  simp only [lineStep, lineAt_about, setLine_about, invalidate_about, giveUp_about, recallMarked_about, homeStep_about]
  split <;> simp only [ite_about]

theorem settleSteps_about (ln fuel : Nat) : settleSteps ln fuel (s.about x) = (settleSteps ln fuel s).about x := by
  induction fuel generalizing s with
  | zero => rfl
  | succ n ih => simp only [settleSteps, lineAt_about, lineStep_about, ih, ite_about]

theorem settleLine_about (ln : Nat) : settleLine (s.about x) ln = (settleLine s ln).about x := settleSteps_about ..

theorem homeDo_about (ln : Nat) (r : HomeReq) : homeDo (s.about x) ln r = (homeDo s ln r).about x := by
  simp only [homeDo, askLine_about, settleLine_about]

theorem homeEach_about (w : Who) (kind : HomeKind) (a n : Nat) (bs : List (Nat × Nat)) :
    homeEach (s.about x) w kind a n bs = (homeEach s w kind a n bs).about x := foldl_about _ _ (fun s _ => homeDo_about s x ..) _

theorem ncRequest_about (w : Who) (read : Bool) (a n : Nat) : ncRequest (s.about x) w read a n = (ncRequest s w read a n).about x := by
  refine foldl_about _ _ (fun s ln => ?_) _
  simp only [countRequest_about, holdLine_about, ite_about]

theorem hostSend_about (c : Nat) (kind : HostKind) (a n : Nat) : hostSend (s.about x) c kind a n = (hostSend s c kind a n).about x := by
  unfold hostSend
  split <;> rfl

/-- The state in which a read at the home slice has been served, and the bytes. -/
theorem homeRead_about (w : Who) (a n : Nat) : homeRead (s.about x) w a n = ((homeRead s w a n).1.about x, (homeRead s w a n).2) := by
  simp only [homeRead, hostSend_about, ncRequest_about, homeEach_about, ite_about]
  rfl

theorem homeWrite_about (w : Who) (a : Nat) (bs : List Nat) : homeWrite (s.about x) w a bs = (homeWrite s w a bs).about x := by
  simp only [homeWrite, hostSend_about, ncRequest_about, homeEach_about, memPut_about, ite_about]

end

end Sys2Proof.Machine
end

section
/-! SUPPORT. The same for translation (R206 to R216), engines' reads (R293, R294, R400) and lanterns (R354, R356). -/

namespace Sys2Proof.Machine

section
variable (s : State) (x : Subject)

/-! Translation. -/

theorem walkFrom_about (w : Who) (va fuel lvl table : Nat) (path : List (Nat × Nat)) :
    walkFrom w va fuel lvl table path (s.about x) =
      ((walkFrom w va fuel lvl table path s).1.about x, (walkFrom w va fuel lvl table path s).2) := by
  induction fuel generalizing s lvl table path with
  | zero => rfl
  | succ n ih =>
    simp only [walkFrom, homeRead_about, ih]
    change (if (poisonedAt s _ _ _).isSome then _ else _) = _
    split
    · rfl
    · split
      · rfl
      · split
        · split <;> rfl
        · split
          · split
            · split <;> rfl
            · split <;> rfl
          · split <;> rfl

theorem walk_about (w : Who) (va : Nat) : walk (s.about x) w va = ((walk s w va).1.about x, (walk s w va).2) := walkFrom_about ..

theorem translate_about (c core : Nat) (sup : Bool) (acc : Acc) (va n : Nat) :
    translate (s.about x) c core sup acc va n = ((translate s c core sup acc va n).1.about x, (translate s c core sup acc va n).2) := by
  simp only [translate, walk_about, show tlbFind (s.about x) core c va = tlbFind s core c va from rfl]
  split
  · rfl
  · split
    · rfl
    · split
      · rfl
      · split <;> rfl

theorem markWalk_about (w : Who) (path : List (Nat × Nat)) (dirty : Bool) : markWalk (s.about x) w path dirty = (markWalk s w path dirty).about x :=
  foldl_about _ x (fun s ae => by simp only [homeWrite_about, ite_about]) _

theorem tlbRoom_about (core : Nat) : tlbRoom (s.about x) core = (tlbRoom s core).about x := by
  simp only [tlbRoom, show (s.about x).tlb = s.tlb from rfl, show (s.about x).ats = s.ats from rfl,
    show tlbCount (s.about x) core = tlbCount s core from rfl]
  split
  · rfl
  · split
    · rfl
    · split <;> rfl

theorem tlbInsert_about (t : TlbEntry) : tlbInsert (s.about x) t = (tlbInsert s t).about x :=
  congrArg (fun u : State => { u with tlb := u.tlb ++ [t] }) (tlbRoom_about { s with tlb := _ } x t.core)

theorem commitXl_about (c core : Nat) (acc : Acc) (va : Nat) (walked : List (Nat × Nat)) :
    commitXl (s.about x) c core acc va walked = (commitXl s c core acc va walked).about x := by
  simp only [commitXl, markWalk_about, tlbInsert_about, ite_about]
  split <;> rfl

theorem askService_about (c core page : Nat) (host : Bool) (acc : Acc) :
    askService (s.about x) c core page host acc = (askService s c core page host acc).about x := by
  simp only [askService, show ctxAt (s.about x) c = ctxAt s c from rfl, show (s.about x).services = s.services from rfl]
  split
  · rfl
  · split <;> rfl

theorem readFault_about (pa : Nat) : readFault (s.about x) pa = ((readFault s pa).1.about x, (readFault s pa).2) := by
  simp only [readFault, show hostFails (s.about x) pa = hostFails s pa from rfl]
  split <;> rfl

/-! Engines. -/

/-- A fold that carries results beside the state. -/
theorem foldl_about_fst {α β : Type} {f : State × β → α → State × β}
    (hf : ∀ s b a, f (s.about x, b) a = ((f (s, b) a).1.about x, (f (s, b) a).2))
    (as : List α) (b : β) : as.foldl f (s.about x, b) = ((as.foldl f (s, b)).1.about x, (as.foldl f (s, b)).2) :=
  List.foldl_hom (fun p : State × β => (p.1.about x, p.2)) (init := (s, b)) fun p a => hf p.1 p.2 a

theorem checkPart_about (c core : Nat) (acc : Acc) (pn : Nat × Nat) :
    checkPart (s.about x) c core acc pn = ((checkPart s c core acc pn).1.about x, (checkPart s c core acc pn).2) := by
  simp only [checkPart, translate_about]
  generalize translate s c core false acc (pn.1 % 2 ^ 64) 1 = r
  obtain ⟨t, pa | _ | _⟩ := r
  case miss => rfl
  case bad => rfl
  case ok =>
    simp only [show peerPort (t.about x) = peerPort t from rfl, show hasP (t.about x) = hasP t from rfl,
      show poisonedAt (t.about x) = poisonedAt t from rfl, show badCode (t.about x) = badCode t from rfl]
    split
    · rfl
    · split <;> rfl

theorem checkParts_about (c core : Nat) (acc : Acc) (ps : List (Nat × Nat)) :
    checkParts (s.about x) c core acc ps = ((checkParts s c core acc ps).1.about x, (checkParts s c core acc ps).2) :=
  foldl_about_fst _ x (fun s b a => by simp only [checkPart_about]) ps []

theorem partsOf_about (c core : Nat) (acc : Acc) (va n : Nat) : partsOf (s.about x) c core acc va n = partsOf s c core acc va n := by
  simp only [partsOf, translate_about]

theorem settleFail_about (c core : Nat) (acc : Acc) (code detail va : Nat) :
    settleFail (s.about x) c core acc code detail va = (settleFail s c core acc code detail va).about x := by
  simp only [settleFail, translate_about]
  generalize translate s c core false acc (va % 2 ^ 64) 1 = r
  split
  · rfl
  · split
    · obtain ⟨t, pa | _ | _⟩ := r
      case ok => simp only [readFault_about]
      case miss => rfl
      case bad => rfl
    · rfl

theorem engCheckAll_about (c core : Nat) (acc : Acc) (bs : List (Nat × Nat)) :
    engCheckAll (s.about x) c core acc bs = ((engCheckAll s c core acc bs).1.about x, (engCheckAll s c core acc bs).2) := by
  unfold engCheckAll
  rw [foldl_about_fst s x (fun s b a => by simp only [checkParts_about, partsOf_about])]
  simp only [askService_about, settleFail_about]
  split
  · rfl
  · split <;> rfl

theorem commitParts_about (c core : Nat) (acc : Acc) (ps : List (Part × List (Nat × Nat))) :
    commitParts (s.about x) c core acc ps = (commitParts s c core acc ps).about x :=
  foldl_about _ x (fun s _ => commitXl_about s x ..) ps

theorem engTranslateAll_about (c core : Nat) (acc : Acc) (bs : List (Nat × Nat)) :
    engTranslateAll (s.about x) c core acc bs = ((engTranslateAll s c core acc bs).1.about x, (engTranslateAll s c core acc bs).2) := by
  simp only [engTranslateAll, engCheckAll_about, commitParts_about]
  split <;> rfl

theorem readParts_about (c core cmd : Nat) (ps : List Part) :
    readParts (s.about x) c core cmd ps = ((readParts s c core cmd ps).1.about x, (readParts s c core cmd ps).2) := by
  refine foldl_about_fst _ x (fun s b p => ?_) ps []
  simp only [foldl_about _ x (f := fun s ln => touchP s (dieOf core) c ln) fun s ln => touchP_about s x .., ite_about]
  generalize (if isPeer p.pa = true then _ else s) = t
  simp only [show whoCmd (t.about x) = whoCmd t from rfl, homeRead_about]

theorem sendPeer_about (r : PeerReq) : sendPeer (s.about x) r = (sendPeer s r).about x := by
  unfold sendPeer
  dsimp only
  split <;> rfl

theorem engReadParts_about (c core cmd : Nat) (ps : List Part) :
    engReadParts (s.about x) c core cmd ps = ((engReadParts s c core cmd ps).1.about x, (engReadParts s c core cmd ps).2) := by
  simp only [engReadParts, show missingPart (s.about x) core ps = missingPart s core ps from rfl, readParts_about, askPeerLine, askPeer,
    sendPeer_about, ite_about, show lineFar (s.about x) = lineFar s from rfl]
  split
  · split <;> rfl
  · rfl

theorem engRead_about (c core cmd va n : Nat) :
    engRead (s.about x) c core cmd va n = ((engRead s c core cmd va n).1.about x, (engRead s c core cmd va n).2) := by
  simp only [engRead, engTranslate, engTranslateAll_about, engReadParts_about]
  split <;> rfl

theorem engWriteAll_snd_about (c core cmd : Nat) (runs : List (Nat × List Nat)) :
    (engWriteAll (s.about x) c core cmd runs).2 = (engWriteAll s c core cmd runs).2 := by
  simp only [engWriteAll, engTranslateAll_about]
  split <;> rfl

/-! Lanterns. -/

theorem lanternRead_about (t : Target) (va n : Nat) :
    lanternRead (s.about x) t va n = ((lanternRead s t va n).1.about x, (lanternRead s t va n).2) := by
  simp only [lanternRead, engRead_about]
  split <;> rfl

theorem loadPlanes_about (t : Target) (px py : Nat) (ps : List Nat) :
    loadPlanes t px py ps (s.about x) = ((loadPlanes t px py ps s).1.about x, (loadPlanes t px py ps s).2) := by
  induction ps generalizing s with
  | nil => rfl
  | cons p ps ih =>
    simp only [loadPlanes, lanternRead_about, ih]
    split <;> rfl

theorem loadPixel_about (t : Target) (ops : List Nat) (px py : Nat) :
    loadPixel (s.about x) t ops px py = ((loadPixel s t ops px py).1.about x, (loadPixel s t ops px py).2) := by
  simp only [loadPixel, lanternRead_about, loadPlanes_about]
  split <;> rfl

theorem storePixel_snd_about (t : Target) (px py : Nat) (old new : PixBuf) :
    (storePixel (s.about x) t px py old new).2 = (storePixel s t px py old new).2 := by
  simp only [storePixel, lanternWrite, engWriteAll_snd_about]
  split <;> rfl

/-- What becomes of a lantern's stopped access does not depend on the state. -/
theorem stopLantern_snd (u : State) (t : Target) (o : Option OrderEntry) (e : LanternStop) : (stopLantern u t o e).2 = (stopLantern s t o e).2 := by
  cases e <;> rfl

theorem changePixel_snd_about (t : Target) (o : Option OrderEntry) (ops : List Nat) (px py : Nat) (run : PixBuf → PixBuf) :
    (changePixel (s.about x) t o ops px py run).2 = (changePixel s t o ops px py run).2 := by
  simp only [changePixel, loadPixel_about]
  split
  · exact stopLantern_snd ..
  · simp only [storePixel_snd_about]
    split
    · rfl
    · exact stopLantern_snd ..

end

end Sys2Proof.Machine
end

section
/-! SUPPORT. The life of a context (R69, R97 to R100, R117 to R120, R140, R158): scheduling, idling, the beginning of a pre-emption, the stop of a
path, and release. -/

namespace Sys2Proof.Machine

section
variable {s : State} {c : Nat} {x : Context}

theorem ctxAt_of_aGet (hx : aGet c s.ctxs = some x) : ctxAt s c = x := by rw [ctxAt, hx, Option.getD_some]

/-- A changed context, and the others as they were. -/
theorem aGet_modCtx (hx : aGet c s.ctxs = some x) (f : Context → Context) :
    aGet c (modCtx s c f).ctxs = some (f x) ∧ ∀ k, k ≠ c → aGet k (modCtx s c f).ctxs = aGet k s.ctxs := by
  refine ⟨?_, fun k hk => ?_⟩
  · rw [modCtx_ctxs, aGet_aMod, if_pos rfl, hx, Option.map_some]
  · rw [modCtx_ctxs, aGet_aMod, if_neg hk.symm]

theorem subject_about (sub : Subject) : (s.about sub).subject = sub := rfl
theorem ctxAt_about (sub : Subject) : ctxAt (s.about sub) c = ctxAt s c := rfl
theorem hasWork_about (sub : Subject) : hasWork (s.about sub) c = hasWork s c := rfl
theorem isResident_about (sub : Subject) : isResident (s.about sub) c = isResident s c := rfl
theorem isRunning_about (sub : Subject) : isRunning (s.about sub) c = isRunning s c := rfl

theorem isRunning_of_state (hx : aGet c s.ctxs = some x) (h : x.state = .running) : isRunning s c = true := by
  rw [isRunning, ctxAt_of_aGet hx, h]
  rfl

/-- READY with work, in a partition that exists (R100). -/
theorem contextSchedule_runs (hx : aGet c s.ctxs = some x) (hst : x.state = .ready) (hw : hasWork s c = true)
    (hp : (aGet x.part s.parts).isSome = true) :
    exec .contextSchedule (s.about (.one c)) = .next (modCtx (s.about (.one c)) c fun x => { x with state := .running }) := by
  change execContextSchedule (s.about (.one c)) = _
  have hp' : (aGet x.part (s.about (.one c)).parts).isSome = true := hp
  unfold execContextSchedule
  simp only [subject_about, ctxAt_about, hasWork_about, ctxAt_of_aGet hx, hst, hw, hp', decide_true, Bool.and_self, ↓reduceIte]

/-- RUNNING with neither work nor residents (R100). -/
theorem contextIdle_readies (hx : aGet c s.ctxs = some x) (hst : x.state = .running) (hw : hasWork s c = false) (hr : isResident s c = false) :
    exec .contextIdle (s.about (.one c)) = .next (modCtx (s.about (.one c)) c fun x => { x with state := .ready }) := by
  change execContextIdle (s.about (.one c)) = _
  unfold execContextIdle
  simp only [subject_about, isRunning_about, hasWork_about, isResident_about, isRunning_of_state hx hst, hw, hr, Bool.not_false, Bool.and_self,
    ↓reduceIte]

/-- What the beginning of a pre-emption changes of contexts and services, and what it leaves (R117). -/
theorem startPreempt_effect (hx : aGet c s.ctxs = some x) (hst : x.state = .running) :
    let t := startPreempt s c
    aGet c t.ctxs = some { x with state := .preempting } ∧ (∀ k, k ≠ c → aGet k t.ctxs = aGet k s.ctxs) ∧ t.mem = s.mem ∧
      SameRegisters s t ∧ (∀ r, r ∈ t.services ↔ r ∈ s.services ∧ r.ctx ≠ c) ∧ t.wgs = s.wgs ∧ t.cmds = s.cmds := by
  obtain ⟨hself, hother⟩ := aGet_modCtx hx fun x => { x with state := .preempting }
  unfold startPreempt
  rw [isRunning_of_state hx hst]
  exact ⟨hself, hother, rfl, ⟨rfl, rfl, rfl, rfl⟩, fun r => by simp [modCtx], rfl, rfl⟩

theorem preempt_begins {i : Instr} (hi : i = .timeSliceExpiry ∨ i = .priorityPreempt) :
    exec i (s.about (.one c)) = .next (startPreempt (s.about (.one c)) c) := by
  rcases hi with rfl | rfl <;> rfl

/-- DESTROYED to FREE (R100). -/
theorem contextRelease_frees (hx : aGet c s.ctxs = some x) (hst : x.state = .destroyed) :
    exec .contextRelease (s.about (.one c)) = .next { s.about (.one c) with ctxs := aErase c s.ctxs } := by
  change execContextRelease (s.about (.one c)) = _
  unfold execContextRelease
  simp only [subject_about, ctxAt_about, ctxAt_of_aGet hx, hst, ↓reduceIte]
  rfl

end

/-! The stops of a path. -/

section
variable {s : State} {p : Nat} {q : Path}

/-- A path that does not wait at home stands where it stood. -/
theorem settledPath_of_wait (h : q.cur.isNone = true → q.wait ≠ .home) : settledPath s p q = q := by
  unfold settledPath
  cases hc : q.cur.isNone
  · rfl
  · simp [h hc]

theorem settledPath_about (sub : Subject) : settledPath (s.about sub) p q = settledPath s p q := rfl
theorem stopping_about (sub : Subject) : stopping (s.about sub) q = stopping s q := rfl
theorem heldAtBoundary_about (sub : Subject) : heldAtBoundary (s.about sub) p q = heldAtBoundary s p q := rfl
theorem fallbackDue_about (sub : Subject) : fallbackDue (s.about sub) q = fallbackDue s q := rfl

theorem coreRead_about (sub : Subject) (w : Who) (core a n : Nat) :
    coreRead (s.about sub) w core a n = ((coreRead s w core a n).1.about sub, (coreRead s w core a n).2) := by
  simp only [coreRead, homeRead_about, touchP_about, ite_about]
  rfl

theorem peekWord_about (sub : Subject) (a : Nat) : peekWord (s.about sub) q a = peekWord s q a := by
  simp only [peekWord, translate_about, coreRead_about]
  rfl

theorem sideEntry_about (sub : Subject) : sideEntry (s.about sub) q = sideEntry s q := by
  simp only [sideEntry, peekWord_about]
  rfl

theorem atSideEntry_about (sub : Subject) : atSideEntry (s.about sub) q = atSideEntry s q := by
  simp only [atSideEntry, sideEntry_about]
  rfl

/-- A side-table clause is reached at user level, where nothing is waited for (R69). -/
theorem wait_of_atSideEntry (h : (atSideEntry s q).isSome = true) : q.wait = .none := by
  by_contra hw
  rw [atSideEntry, if_pos (by simp [hw])] at h
  cases h

/-- The positions at which a path stops for a pre-emption (R69, R117, R158; log entry 16). -/
def StopsHere (s : State) (q : Path) : Prop :=
  (atSideEntry s q).isSome = true ∨ (q.sup = true ∧ q.wait = .none ∧ q.cur = none) ∨ q.wait = .yield ∨
    (heldBack s q = true ∧ q.cur = none ∧ q.wait = .none)

theorem StopsHere.wait (h : StopsHere s q) : q.wait = .none ∨ q.wait = .yield := by
  rcases h with h | ⟨-, h, -⟩ | h | ⟨-, -, h⟩
  · exact .inl (wait_of_atSideEntry h)
  · exact .inl h
  · exact .inr h
  · exact .inl h

theorem StopsHere.settled (h : StopsHere s q) (p : Nat) : settledPath s p q = q :=
  settledPath_of_wait fun _ hw => by
    rcases h.wait with h | h <;> simp [h] at hw

theorem slicePreemptStop_stops (hq : aGet p s.paths = some q) (hst : stopping s q = true) (h : StopsHere s q) :
    exec .slicePreemptStop (s.about (.one p)) = .next (setPath (s.about (.one p)) p { q with stopped := true }) := by
  have hq' : aGet p (s.about (.one p)).paths = some q := hq
  have hhere : ((atSideEntry s q).isSome || (q.sup && q.wait = .none && q.cur.isNone) || q.wait = .yield || heldAtBoundary s p q) = true := by
    rcases h with h1 | ⟨h1, h2, h3⟩ | h1 | ⟨h1, h2, h3⟩
    · simp [h1]
    · simp [h1, h2, h3]
    · simp [h1]
    · have hs : settledPath s p q = q := settledPath_of_wait fun _ => by simp [h3]
      simp [heldAtBoundary, h1, h2, h3, hs]
  change execSlicePreemptStop (s.about (.one p)) = _
  unfold execSlicePreemptStop
  simp only [subject_about, hq', settledPath_about, h.settled, stopping_about, atSideEntry_about,
    heldAtBoundary_about, hst, hhere, Bool.and_self, ↓reduceIte]

/-- A slice of the path that has issued 4,096 instructions since the request (R69). -/
theorem fallbackDue_of_since {g : Gang} {i : Nat} (hg : gangOf s q = some g) (hi : i < 8) (hl : sliceLanes i q.lanes ≠ 0)
    (hn : 4096 ≤ nth g.since i) : fallbackDue s q = true := by
  simp only [fallbackDue, hg, Option.map_some, Option.getD_some, List.any_eq_true, decide_eq_true_eq]
  refine ⟨i, ?_, hn⟩
  have hb : bits q.lanes (4 * i + 3) (4 * i) ≠ 0 := fun h => hl (by simp [sliceLanes, h])
  simp [slicesOf, hi, hb]

theorem preemptFallback_stops (hq : aGet p s.paths = some q) (hst : stopping s q = true) (hw : q.wait = .none) (hc : q.cur = none)
    (hf : fallbackDue s q = true) :
    exec .preemptFallback (s.about (.one p)) = .next (setPath (s.about (.one p)) p { q with stopped := true }) := by
  have hq' : aGet p (s.about (.one p)).paths = some q := hq
  have hs : settledPath s p q = q := settledPath_of_wait fun _ => by simp [hw]
  change execPreemptFallback (s.about (.one p)) = _
  unfold execPreemptFallback
  simp [subject_about, hq', settledPath_about, hs, stopping_about, fallbackDue_about, hst, hw, hc, hf]

/-- A path passed over 64 times (R140). -/
theorem pathStarvation_starves (hq : aGet p s.paths = some q) (h : 64 ≤ q.starve) :
    exec .pathStarvation (s.about (.one p)) = .next (setPath (s.about (.one p)) p { q with starving := true }) := by
  have hq' : aGet p (s.about (.one p)).paths = some q := hq
  change execPathStarvation (s.about (.one p)) = _
  unfold execPathStarvation
  simp only [subject_about, hq', h, ↓reduceIte]

theorem pathBecomes_setPath_about (sub : Subject) (q' : Path) : PathBecomes s (setPath (s.about sub) p q') p q' :=
  ⟨aGet_aSet_self .., fun _ hk => aGet_aSet_ne _ _ hk.symm⟩

end

end Sys2Proof.Machine
end

section
/-! SUPPORT. The save of a context whose slices have stopped (R69, R117, R118): its caches are empty, its requests for service gone, and the
registers that its side-table clauses do not mark read as zero. -/

namespace Sys2Proof.Machine

section
variable (s : State) (c : Nat)

/-! What the save asks of a state. -/

theorem fragmentHolds_about (sub : Subject) (t : Target) (o : OrderEntry) : fragmentHolds (s.about sub) t o = fragmentHolds s t o := by
  simp only [fragmentHolds, applyFragment, changePixel_snd_about]

theorem canSave_about (sub : Subject) : canSave (s.about sub) c = canSave s c := by
  have hfrag : fragmentHolds (s.about sub) = fragmentHolds s := funext fun t => funext fun o => fragmentHolds_about s sub t o
  simp only [canSave, hfrag]
  rfl

/-! The registers as they are saved. -/

/-- The uniform registers that no side-table clause marks, dropped for each gang of a context (R69, R158). -/
def uniformsSaved (s : State) (c : Nat) : State :=
  (s.gangs.filter fun e => (gangsOf s c).contains e.1).foldl (fun s e => dropUniform s e.1 e.2) s

/-- The registers of a path that its side-table clause does not mark, dropped (R69). -/
def dropAtSide (s u : State) (e : Nat × Path) : State :=
  match atSideEntry s e.2 with
  | some x => dropUnmarked u e.2 x
  | none => u

/-- The registers of a context's paths as they are saved (R69). -/
def registersSaved (s : State) (c : Nat) : State := (pathsOf s c).foldl (dropAtSide s) (uniformsSaved s c)

/-- Everything that is saved, before the caches are emptied (R117, R118). -/
def savedParts (s : State) (c : Nat) : State :=
  let u := failBeacons (registersSaved s c) c
  { u with
    paths := u.paths.map fun e => if (gangsOf s c).contains e.2.gang then (e.1, savePath e.2) else e
    wgs := u.wgs.map fun e => if e.2.ctx == c then
      (e.1, { e.2 with latch := [], incoming := { e.2.incoming with waiters := sortBy (gangOrder u) e.2.incoming.waiters } }) else e
    gangs := u.gangs.map fun e => if (gangsOf s c).contains e.1 then (e.1, abandonParks e.2) else e
    services := u.services.filter fun r => r.ctx != c
    queues := u.queues.map fun e => if e.1 / 16 == c then (e.1, dropPage e.2) else e
    passes := u.passes.map fun e => if e.2.ctx == c then (e.1, { e.2 with page := none }) else e
    cmds := u.cmds.map fun e => if e.2.ctx == c then (e.1, { e.2 with page := none }) else e
    targets := u.targets.map fun e => if e.2.ctx == c then (e.1, { e.2 with refused := [] }) else e
    frames := u.frames.map fun e => if e.2.ctx == c then (e.1, { e.2 with refused := [] }) else e }

/-- A context that is SAVED (R118). -/
def savedContext (s : State) (c : Nat) : State :=
  modCtx (emptyCaches (flushCtx (savedParts s c) c) c) c fun x => { x with state := .saved }

theorem preemptionComplete_saves {x : Context} (hx : aGet c s.ctxs = some x) (hst : x.state = .preempting) (hsave : canSave s c = true) :
    exec .preemptionComplete (s.about (.one c)) = .next (savedContext (s.about (.one c)) c) := by
  change execPreemptionComplete (s.about (.one c)) = _
  unfold execPreemptionComplete
  simp only [subject_about, ctxAt_about, ctxAt_of_aGet hx, hst, canSave_about, hsave]
  rfl

/-! The write-back of a context's words and the empty caches. -/

theorem flushCtx_kept : Kept s (flushCtx s c) :=
  Kept.foldl (fun _ _ h => h.dropWords _ _) _ (Kept.foldl (fun _ _ h => (h.writeBackLine _ _).settleLine _) _ (Kept.refl s))

theorem emptyCaches_v : (emptyCaches s c).v = s.v := rfl
theorem emptyCaches_g : (emptyCaches s c).g = s.g := rfl
theorem emptyCaches_p : (emptyCaches s c).p = s.p := rfl
theorem emptyCaches_csr : (emptyCaches s c).csr = s.csr := rfl

/-- No cache holds an entry of the context (R118, R212, R386). -/
theorem emptyCaches_empty (e : State) (he : e = emptyCaches s c) :
    (∀ x ∈ e.ro, x.ctx ≠ c) ∧ (∀ x ∈ e.nodes, x.ctx ≠ c) ∧ (∀ x ∈ e.tlb, x.ctx ≠ c) ∧ (∀ x ∈ e.ats, x.ctx ≠ c) ∧
      ∀ x ∈ e.icache, x.1 / 2 ^ 64 ≠ c := by
  subst he
  simp only [emptyCaches, roDrop, List.mem_filter]
  exact ⟨fun x hx => by simpa using hx.2, fun x hx => by simpa using hx.2, fun x hx => by simpa using hx.2, fun x hx => by simpa using hx.2,
    fun x hx => by simpa [-Nat.reducePow] using hx.2⟩

end

/-! What the save leaves of the machine beside its caches. -/

/-- State t is s but for its V, G and P registers. -/
def SameButBanks (s t : State) : Prop := { t with v := s.v, g := s.g, p := s.p } = s

section
variable {s t : State} {c : Nat}

theorem SameButBanks.ctxs (h : SameButBanks s t) : t.ctxs = s.ctxs := (congrArg State.ctxs h :)

theorem SameButBanks.pathsOf (h : SameButBanks s t) (c : Nat) : pathsOf t c = pathsOf s c := (congrArg (fun u => Machine.pathsOf u c) h :)

theorem SameButBanks.of_eq {u : State} (h : SameButBanks s t) (hu : { u with v := t.v, g := t.g, p := t.p } = t) : SameButBanks s u := by
  have := congrArg (fun u : State => { u with v := s.v, g := s.g, p := s.p }) hu
  exact this.trans h

theorem SameButBanks.dropUniform (h : SameButBanks s t) (gid : Nat) (g : Gang) : SameButBanks s (dropUniform t gid g) :=
  List.foldlRecOn _ _ h fun _ hb _ _ => hb.of_eq rfl

/-- Only G registers change. -/
theorem uniformsSaved_v_p (s : State) (c : Nat) : (uniformsSaved s c).v = s.v ∧ (uniformsSaved s c).p = s.p := by
  refine List.foldlRecOn (motive := fun u : State => u.v = s.v ∧ u.p = s.p) _ _ ⟨rfl, rfl⟩ fun u hu e _ => ?_
  exact List.foldlRecOn (motive := fun u : State => u.v = s.v ∧ u.p = s.p) _ _ hu fun _ hb _ _ => hb

theorem uniformsSaved_sameButBanks (s : State) (c : Nat) : SameButBanks s (uniformsSaved s c) :=
  List.foldlRecOn _ _ rfl fun _ hb _ _ => hb.dropUniform _ _

theorem registersSaved_sameButBanks (s : State) (c : Nat) : SameButBanks s (registersSaved s c) := by
  refine List.foldlRecOn _ _ (uniformsSaved_sameButBanks s c) fun u hu e _ => ?_
  unfold dropAtSide
  split
  · exact hu.of_eq rfl
  · exact hu

theorem endWaitc_ctxs (p : Nat) (q : Path) (pd scope pa n : Nat) (r : Bool) : (endWaitc s p q pd scope pa n r).ctxs = s.ctxs := by
  have h := ((Kept.refl (setPs s q.gang pd ((lanesOf (active q)).map fun l => (l, r)))).dropClean (coreOf (setPs s q.gang pd ((lanesOf (active q)).map
    fun l => (l, r))) q) (wordsOf pa n))
  unfold endWaitc
  dsimp only
  rw [advance_ctxs, (h.acquire _ _ _).ctxs, setPs_ctxs]

theorem failBeacons_ctxs (s : State) (c : Nat) : (failBeacons s c).ctxs = s.ctxs := by
  refine List.foldlRecOn (motive := fun u : State => u.ctxs = s.ctxs) _ _ rfl fun u hu e _ => ?_
  dsimp only
  split
  · exact (endWaitc_ctxs ..).trans hu
  · exact hu

/-- Without a pending WAITC nothing fails. -/
theorem failBeacons_of_none (h : ∀ e ∈ pathsOf s c, ∀ pd sc, e.2.wait ≠ .beacon pd sc) : failBeacons s c = s := by
  refine List.foldlRecOn (motive := fun u : State => u = s) _ _ rfl fun u hu e he => ?_
  dsimp only
  split
  · rename_i pd sc hw
    exact absurd hw (h e he pd sc)
  · exact hu

/-- A gang none of whose paths stands at a side-table clause keeps its uniform registers. -/
theorem dropUniform_of_none {gid : Nat} (g : Gang) (h : ∀ e ∈ s.paths, e.2.gang = gid → atSideEntry s e.2 = none) :
    dropUniform s gid g = s := by
  have hside : sideLanes s gid = 0 := by
    have hnil : (s.paths.filter fun e => e.2.gang == gid && (atSideEntry s e.2).isSome) = [] := by
      rw [List.filter_eq_nil_iff]
      intro e he hb
      simp only [Bool.and_eq_true, beq_iff_eq] at hb
      simp [h e he hb.1] at hb
    rw [sideLanes, hnil, List.foldl_nil]
  have hwhole : ((slicesOf g.live).filter fun c => maskDiff (sliceLanes c g.live) 0 == 0) = [] := by
    rw [List.filter_eq_nil_iff]
    intro k hk
    have hb := ((mem_slicesOf _ _).1 hk).2
    simp only [bne_iff_ne, ne_eq] at hb
    simp [maskDiff, sliceLanes, hb]
  rw [dropUniform, hside]
  dsimp only
  rw [hwhole, List.foldl_nil]

/-- Without a path at a side-table clause every register is saved. -/
theorem registersSaved_of_none (h : ∀ e ∈ pathsOf s c, atSideEntry s e.2 = none) : registersSaved s c = s := by
  have huni : uniformsSaved s c = s := by
    refine List.foldlRecOn (motive := fun u : State => u = s) _ _ rfl fun u hu e he => ?_
    subst hu
    refine dropUniform_of_none _ fun y hy hg => h y (List.mem_filter.2 ⟨hy, ?_⟩)
    rw [hg]
    exact (List.mem_filter.1 he).2
  rw [registersSaved, huni]
  refine List.foldlRecOn (motive := fun u : State => u = s) _ _ rfl fun u hu e he => ?_
  rw [dropAtSide, h e he]
  exact hu

/-! The registers of a path at a side-table clause. -/

theorem getV_dropUnmarked (q : Path) (x : SideEntry) {l r : Nat} (hl : l < 32) (hb : hasBit q.lanes l = true) (hr : r < 128) :
    getV (dropUnmarked s q x) q.gang l r = if hasBit x.vlive r then getV s q.gang l r else 0 := by
  unfold getV dropUnmarked
  split
  · rename_i hlive
    refine bGet_bSetAll_of_not_mem _ _ _ fun e he hk => ?_
    simp only [List.mem_flatMap, mem_lanesOf, List.mem_map, List.mem_filter, List.mem_range] at he
    obtain ⟨l', ⟨hl', -⟩, r', ⟨hr', hdead⟩, rfl⟩ := he
    obtain ⟨-, -, rfl⟩ := (vKey_inj hl' hr' hl hr).1 hk
    simp [hlive] at hdead
  · rename_i hlive
    refine (bGet_bSetAll_of_mem _ _ _ 0 ⟨(vKey q.gang l r, 0), ?_, rfl⟩ ?_).trans (Nat.zero_mod _)
    · simp only [List.mem_flatMap, mem_lanesOf, List.mem_map, List.mem_filter, List.mem_range]
      exact ⟨l, ⟨hl, hb⟩, r, ⟨hr, by simp [hlive]⟩, rfl⟩
    · intro e he _
      simp only [List.mem_flatMap, List.mem_map] at he
      obtain ⟨_, _, _, _, rfl⟩ := he
      rfl

theorem getP_dropUnmarked (q : Path) (x : SideEntry) {l r : Nat} (hl : l < 32) (hb : hasBit q.lanes l = true) (hr : r < 7) :
    getP (dropUnmarked s q x) q.gang l r = (hasBit x.plive r && getP s q.gang l r) := by
  unfold getP dropUnmarked
  rw [if_neg (by omega), if_neg (by omega)]
  cases hlive : hasBit x.plive r
  · rw [bGet_bSetAll_of_mem (x := 0)]
    · rfl
    · refine ⟨(pKey q.gang l r, 0), ?_, rfl⟩
      simp only [List.mem_flatMap, mem_lanesOf, List.mem_map, List.mem_filter, List.mem_range]
      exact ⟨l, ⟨hl, hb⟩, r, ⟨hr, by simp [hlive]⟩, rfl⟩
    · intro e he _
      simp only [List.mem_flatMap, List.mem_map] at he
      obtain ⟨_, _, _, _, rfl⟩ := he
      rfl
  · rw [bGet_bSetAll_of_not_mem, Bool.true_and]
    intro e he hk
    simp only [List.mem_flatMap, mem_lanesOf, List.mem_map, List.mem_filter, List.mem_range] at he
    obtain ⟨l', ⟨hl', -⟩, r', ⟨hr', hdead⟩, rfl⟩ := he
    obtain ⟨-, -, rfl⟩ := (pKey_inj hl' (by omega) hl (by omega)).1 hk
    simp [hlive] at hdead

/-- The banks of a context's only path, which stands at a side-table clause. -/
theorem failBeacons_registersSaved_of_side {p : Nat} {q : Path} {e : SideEntry} (hone : pathsOf s c = [(p, q)]) (he : atSideEntry s q = some e) :
    failBeacons (registersSaved s c) c = dropUnmarked (uniformsSaved s c) q e := by
  have hwait : q.wait = .none := wait_of_atSideEntry (by rw [he]; rfl)
  rw [failBeacons_of_none]
  · rw [registersSaved, hone, List.foldl_cons, List.foldl_nil, dropAtSide, he]
  · rw [(registersSaved_sameButBanks s c).pathsOf, hone]
    intro y hy pd sc hw
    rw [List.mem_singleton.1 hy, hwait] at hw
    cases hw

/-! The context that is saved. -/

theorem savedContext_kept (s : State) (c : Nat) : Kept (savedParts s c) (flushCtx (savedParts s c) c) := flushCtx_kept _ c

theorem savedContext_ctxs {x : Context} (hx : aGet c s.ctxs = some x) :
    aGet c (savedContext s c).ctxs = some { x with state := .saved } ∧ ∀ k, k ≠ c → aGet k (savedContext s c).ctxs = aGet k s.ctxs := by
  have hctxs : (emptyCaches (flushCtx (savedParts s c) c) c).ctxs = s.ctxs :=
    (savedContext_kept s c).ctxs.trans ((failBeacons_ctxs _ c).trans (registersSaved_sameButBanks s c).ctxs)
  obtain ⟨hself, hother⟩ := aGet_modCtx (s := emptyCaches (flushCtx (savedParts s c) c) c) (hctxs ▸ hx) fun x => { x with state := .saved }
  exact ⟨hself, fun k hk => (hother k hk).trans (by rw [hctxs])⟩

/-- The banks of the saved context, but for what its WAITCs wrote, are those of its saved parts. -/
theorem savedContext_sameRegisters (s : State) (c : Nat) : SameRegisters (failBeacons (registersSaved s c) c) (savedContext s c) := by
  have h := savedContext_kept s c
  refine ⟨?_, ?_, ?_, ?_⟩
  · rw [savedContext, modCtx_v, emptyCaches_v, h.v]; rfl
  · rw [savedContext, modCtx_g, emptyCaches_g, h.g]; rfl
  · rw [savedContext, modCtx_p, emptyCaches_p, h.p]; rfl
  · rw [savedContext, modCtx_csr, emptyCaches_csr, h.csr]; rfl

theorem savedContext_services (s : State) (c : Nat) : ∀ r ∈ (savedContext s c).services, r.ctx ≠ c := by
  have h : (savedContext s c).services = (savedParts s c).services := (congrArg State.services (savedContext_kept s c).rest :)
  rw [h]
  intro r hr
  simpa using (List.mem_filter.1 hr).2

end

end Sys2Proof.Machine
end

section
/-! SUPPORT. The restore of a context (R100, R119, R120), and its refusal: the contexts are as they were but for the one that faults (R113). -/

namespace Sys2Proof.Machine

/-! Writing a record changes no context (R130). -/

section
variable {s t : State}

theorem homeWrite_ctxs (s : State) (w : Who) (a : Nat) (bs : List Nat) : (homeWrite s w a bs).ctxs = s.ctxs := by
  unfold homeWrite
  split
  · exact ((Kept.refl s).hostSend _ _ _ _).ctxs
  · split
    · exact ((Kept.refl s).ncRequest _ _ _ _).ctxs
    · exact ((Kept.refl s).homeEach _ _ _ _ _).ctxs

theorem walkFrom_kept (h : Kept s t) (w : Who) (va fuel lvl table : Nat) (path : List (Nat × Nat)) :
    Kept s (walkFrom w va fuel lvl table path t).1 := by
  induction fuel generalizing lvl table path t with
  | zero => exact h
  | succ fuel ih =>
    have hr := h.homeRead w (table + 8 * levelIndex lvl va) 8
    unfold walkFrom
    dsimp only
    split
    · exact hr
    · split
      · exact hr
      · split
        · split
          · exact ih hr _ _ _
          · exact hr
        · split
          · split
            · split <;> exact hr
            · split
              · exact ih hr _ _ _
              · exact hr
          · split <;> exact hr

theorem translate_ctxs (s : State) (c core : Nat) (sup : Bool) (acc : Acc) (va n : Nat) : (translate s c core sup acc va n).1.ctxs = s.ctxs := by
  have hw := (walkFrom_kept (Kept.refl s) (whoOf core c 0) va 4 1 (ctxAt s c).root []).ctxs
  unfold translate
  dsimp only
  split
  · rfl
  · split
    · rfl
    · split
      · rfl
      · split <;> exact hw

theorem markWalk_ctxs (s : State) (w : Who) (path : List (Nat × Nat)) (dirty : Bool) : (markWalk s w path dirty).ctxs = s.ctxs := by
  refine List.foldlRecOn (motive := fun u : State => u.ctxs = s.ctxs) _ _ rfl fun u hu e _ => ?_
  dsimp only
  generalize (if dirty && eLeaf e.2 then _ else _) = x
  split
  · exact hu
  · exact (homeWrite_ctxs ..).trans hu

theorem tlbInsert_ctxs (s : State) (e : TlbEntry) : (tlbInsert s e).ctxs = s.ctxs := by
  unfold tlbInsert tlbRoom
  split
  · rfl
  · split
    · rfl
    · split <;> rfl

theorem commitXl_ctxs (s : State) (c core : Nat) (acc : Acc) (va : Nat) (walked : List (Nat × Nat)) :
    (commitXl s c core acc va walked).ctxs = s.ctxs := by
  unfold commitXl
  split
  · rfl
  · split
    · rfl
    · exact (tlbInsert_ctxs _ _).trans (markWalk_ctxs ..)

theorem checkPart_ctxs (s : State) (c core : Nat) (acc : Acc) (pn : Nat × Nat) : (checkPart s c core acc pn).1.ctxs = s.ctxs := by
  have ht := translate_ctxs s c core false acc (pn.1 % 2 ^ 64) 1
  unfold checkPart
  dsimp only
  split
  · exact ht
  · exact ht
  · split
    · exact ht
    · split <;> exact ht

theorem readFault_ctxs (s : State) (pa : Nat) : (readFault s pa).1.ctxs = s.ctxs := by
  unfold readFault
  split <;> rfl

theorem settleFail_ctxs (s : State) (c core : Nat) (acc : Acc) (code detail va : Nat) : (settleFail s c core acc code detail va).ctxs = s.ctxs := by
  have ht := translate_ctxs s c core false acc (va % 2 ^ 64) 1
  unfold settleFail
  split
  · rfl
  · split
    · revert ht
      generalize translate s c core false acc (va % 2 ^ 64) 1 = r
      rcases r with ⟨u, pa | _ | _⟩ <;> intro ht
      · exact (readFault_ctxs ..).trans ht
      · exact ht
      · exact ht
    · rfl

theorem askService_ctxs (s : State) (c core page : Nat) (host : Bool) (acc : Acc) : (askService s c core page host acc).ctxs = s.ctxs := by
  unfold askService
  split
  · rfl
  · split <;> rfl

theorem engCheckAll_ctxs (s : State) (c core : Nat) (acc : Acc) (bs : List (Nat × Nat)) : (engCheckAll s c core acc bs).1.ctxs = s.ctxs := by
  have hgo : (bs.foldl (fun (a : State × List PartOut) b =>
      ((checkParts a.1 c core acc (partsOf a.1 c core acc b.1 b.2)).1, a.2 ++ (checkParts a.1 c core acc (partsOf a.1 c core acc b.1 b.2)).2))
      (s, [])).1.ctxs = s.ctxs := by
    refine List.foldlRecOn (motive := fun a : State × List PartOut => a.1.ctxs = s.ctxs) _ _ rfl fun a ha b _ => ?_
    exact List.foldlRecOn (motive := fun a : State × List PartOut => a.1.ctxs = s.ctxs) _ _ ha fun a ha pn _ => (checkPart_ctxs ..).trans ha
  unfold engCheckAll
  dsimp only
  split
  · exact (askService_ctxs ..).trans hgo
  · split
    · exact (settleFail_ctxs ..).trans hgo
    · exact hgo
    · exact hgo

theorem commitParts_ctxs (s : State) (c core : Nat) (acc : Acc) (ps : List (Part × List (Nat × Nat))) :
    (commitParts s c core acc ps).ctxs = s.ctxs :=
  List.foldlRecOn (motive := fun u : State => u.ctxs = s.ctxs) _ _ rfl fun _ hu _ _ => (commitXl_ctxs ..).trans hu

theorem sendPeer_ctxs (s : State) (r : PeerReq) : (sendPeer s r).ctxs = s.ctxs := by
  unfold sendPeer
  dsimp only
  split <;> rfl

theorem updateCopies_ctxs (s : State) (c core pa : Nat) (bs : List Nat) : (updateCopies s c core pa bs).ctxs = s.ctxs := by
  refine Eq.trans ((Kept.refl _).l1Put ..).ctxs ?_
  refine List.foldlRecOn (motive := fun u : State => u.ctxs = s.ctxs) _ _ rfl fun u hu ln _ => ?_
  dsimp only
  split <;> exact hu

theorem writeAtPeer_ctxs (s : State) (c core cmd va pa : Nat) (bs : List Nat) : (writeAtPeer s c core cmd va pa bs).ctxs = s.ctxs :=
  List.foldlRecOn (motive := fun u : State => u.ctxs = s.ctxs) _ _ (updateCopies_ctxs ..) fun _ hu _ _ => (sendPeer_ctxs ..).trans hu

theorem writeParts_ctxs (s : State) (c core cmd : Nat) (ps : List Part) (bs : List Nat) : (writeParts s c core cmd ps bs).ctxs = s.ctxs := by
  induction ps generalizing s bs with
  | nil => rfl
  | cons p ps ih =>
    refine (ih _ _).trans ?_
    split
    · exact writeAtPeer_ctxs ..
    · split
      · exact (homeWrite_ctxs ..).trans (updateCopies_ctxs ..)
      · exact homeWrite_ctxs ..

theorem raiseQueue_ctxs (s : State) (k : Nat) : (raiseQueue s k).ctxs = s.ctxs := rfl
theorem countLostRecord_ctxs (s : State) : (countLostRecord s).ctxs = s.ctxs := rfl

theorem writeRecord_ctxs (s : State) (k : Nat) (ws : List Nat) : (writeRecord s k ws).ctxs = s.ctxs := by
  have hcheck := engCheckAll_ctxs s (k / 16) frontCore .write [((qReg s k qRecBase + 64 * (qReg s k qRecW % 64)) % 2 ^ 64, 64)]
  unfold writeRecord
  dsimp only
  split
  · exact hcheck
  · rw [raiseQueue_ctxs, setQReg_ctxs, countLostRecord_ctxs, hcheck]
  · split
    · rw [raiseQueue_ctxs, setQReg_ctxs, countLostRecord_ctxs, hcheck]
    · rw [raiseQueue_ctxs, setQReg_ctxs, writeParts_ctxs, commitParts_ctxs, hcheck]

end

/-! The restore. -/

section
variable {s : State} {c : Nat} {x : Context}

/-- A restore that R120 refuses (R113). -/
theorem contextFault_of_saved (hx : aGet c s.ctxs = some x) (hst : x.state = .saved) (queue : Nat) {r : FaultRecord} (hr : r.hostErr = 3) :
    aGet c (contextFault s c queue r).ctxs = some { x with state := .faulted, record := some r } := by
  unfold contextFault
  simp only [ctxAt_of_aGet hx, hst, hr]
  exact (congrArg (aGet c) (writeRecord_ctxs ..)).trans (aGet_modCtx hx fun x => { x with state := .faulted, record := some r }).1

theorem rePlace_about (sub : Subject) (ks free : List Nat) : rePlace (s.about sub) c ks free = rePlace s c ks free := by
  induction ks generalizing free with
  | nil => rfl
  | cons k ks ih =>
    simp only [rePlace, ih]
    rfl

theorem contextRestore_refuses {part : Partition} (hx : aGet c s.ctxs = some x) (hst : x.state = .saved) (hp : aGet x.part s.parts = some part)
    (hno : restoreOk s c part = false) :
    exec .contextRestore (s.about (.one c)) = .next (contextFault (s.about (.one c)) c 0 ⟨3, 0xFFFF, 0, 0, 0, 0⟩) := by
  have hp' : aGet x.part (s.about (.one c)).parts = some part := hp
  have hno' : restoreOk (s.about (.one c)) c part = false := hno
  change execContextRestore (s.about (.one c)) = _
  unfold execContextRestore
  simp only [subject_about, ctxAt_about, ctxAt_of_aGet hx, hst, hp', hno']
  rfl

theorem contextRestore_restores {part : Partition} {m : List (Nat × Nat)} (hx : aGet c s.ctxs = some x) (hst : x.state = .saved)
    (hp : aGet x.part s.parts = some part) (hok : restoreOk s c part = true) (hm : rePlace s c (savedCores s c) (partCores s c) = some m) :
    exec .contextRestore (s.about (.one c)) = .next (restoreOn (s.about (.one c)) c m) := by
  have hp' : aGet x.part (s.about (.one c)).parts = some part := hp
  have hok' : restoreOk (s.about (.one c)) c part = true := hok
  have hm' : rePlace (s.about (.one c)) c (savedCores (s.about (.one c)) c) (partCores (s.about (.one c)) c) = some m :=
    (rePlace_about ..).trans hm
  change execContextRestore (s.about (.one c)) = _
  unfold execContextRestore
  simp only [subject_about, ctxAt_about, ctxAt_of_aGet hx, hst, hp', hok', hm']
  rfl

/-- No record of the context awaits its page. -/
theorem retryRecords_of_none (h : ∀ r ∈ s.records, r.1 / 16 ≠ c) : retryRecords s c = s := by
  have hnil : (s.records.filter fun r => r.1 / 16 == c) = [] := by
    rw [List.filter_eq_nil_iff]
    exact fun r hr => by simpa using h r hr
  have hall : (s.records.filter fun r => r.1 / 16 != c) = s.records := List.filter_eq_self.2 fun r hr => by simpa using h r hr
  rw [retryRecords, hnil, hall]
  rfl

/-- State t is s but for its gangs. -/
def SameButGangs (s t : State) : Prop := { t with gangs := s.gangs } = s

/-- A map whose values are changed where they satisfy a test. -/
theorem aGet_map_if {α : Type} (ok : α → Bool) (f : α → α) (m : AMap α) (k : Nat) :
    aGet k (m.map fun e => if ok e.2 then (e.1, f e.2) else e) = (aGet k m).map fun v => if ok v then f v else v := by
  induction m with
  | nil => rfl
  | cons e m ih =>
    obtain ⟨j, v⟩ := e
    rw [List.map_cons]
    dsimp only
    by_cases hok : ok v = true
    · rw [if_pos hok, aGet_cons, aGet_cons, ih]
      by_cases hj : j = k <;> simp [hj, hok]
    · rw [if_neg hok, aGet_cons, aGet_cons, ih]
      by_cases hj : j = k <;> simp [hj, hok]

/-- What a restore places again: workgroups, commands, launches and paths of the context (R119, R158, R166). -/
def placedAgain (s : State) (c : Nat) (m : List (Nat × Nat)) : State :=
  { s with
    wgs := s.wgs.map fun e => if e.2.ctx == c then (e.1, { e.2 with core := e.2.core.map (movedTo m) }) else e
    cmds := s.cmds.map fun e => if e.2.ctx == c then (e.1, { e.2 with core := movedTo m e.2.core }) else e
    launches := s.launches.map fun e => if e.2.ctx == c then (e.1, { e.2 with room := e.2.room.map (movedTo m) }) else e
    paths := s.paths.map fun e => if (gangsOf s c).contains e.2.gang then (e.1, resumePath e.2) else e
    gangs := s.gangs.map fun e => if (gangsOf s c).contains e.1 then (e.1, { e.2 with sched := 4 }) else e }

/-- Gangs given their scheduler on the core where they now stand (R119). -/
def scheduledAgain (gids : List Nat) (s : State) : State :=
  (s.gangs.filter fun e => gids.contains e.1).foldl (fun s e =>
    modGang s e.1 fun g => { g with sched := chooseSched s (((wgOf s e.2).bind (·.core)).getD 0) }) s

theorem restoreOn_eq (s : State) (c : Nat) (m : List (Nat × Nat)) :
    restoreOn s c m =
      retryRecords (scheduledAgain (gangsOf s c) (modCtx (placedAgain s c m) c fun x => { x with state := .running })) c := rfl

theorem scheduledAgain_sameButGangs (gids : List Nat) (s : State) : SameButGangs s (scheduledAgain gids s) :=
  List.foldlRecOn (motive := SameButGangs s) _ _ rfl fun _ hu _ _ => hu

/-- The context RUNNING again, its workgroups and paths placed, its registers and memory as they were (R119). -/
theorem restoreOn_effect (hx : aGet c s.ctxs = some x) (hrec : ∀ r ∈ s.records, r.1 / 16 ≠ c) (m : List (Nat × Nat)) :
    let t := restoreOn s c m
    aGet c t.ctxs = some { x with state := .running } ∧ (∀ k, k ≠ c → aGet k t.ctxs = aGet k s.ctxs) ∧ t.mem = s.mem ∧
      SameRegisters s t ∧ t.wgs = (placedAgain s c m).wgs ∧ t.paths = (placedAgain s c m).paths := by
  have hsame := scheduledAgain_sameButGangs (gangsOf s c) (modCtx (placedAgain s c m) c fun x => { x with state := .running })
  have ht : restoreOn s c m = scheduledAgain (gangsOf s c) (modCtx (placedAgain s c m) c fun x => { x with state := .running }) := by
    rw [restoreOn_eq, retryRecords_of_none]
    rw [show (scheduledAgain _ _).records = s.records from (congrArg State.records hsame :)]
    exact hrec
  obtain ⟨hself, hother⟩ := aGet_modCtx (s := placedAgain s c m) hx fun x => { x with state := .running }
  have hctxs : (restoreOn s c m).ctxs = _ := (congrArg State.ctxs (ht ▸ hsame) :)
  dsimp only
  rw [hctxs]
  rw [ht]
  exact ⟨hself, hother, (congrArg State.mem hsame :), ⟨(congrArg State.v hsame :), (congrArg State.g hsame :), (congrArg State.p hsame :),
    (congrArg State.csr hsame :)⟩, (congrArg State.wgs hsame :), (congrArg State.paths hsame :)⟩

end

end Sys2Proof.Machine
end

section
/-! SUPPORT. A command's fault delivered to the path that is to meet it (R111, R295), and the life of a context (R69, R99, R100, R117 to R120, R140,
R158). -/

namespace Sys2Proof.Machine

section
variable {s : State} {p : Nat} {q : Path}

theorem bGet_setCsr (s : State) (q : Path) (i y : Nat) {gid c k : Nat} (hc : c < 8) (hi : i < 16) (hk : k < 16) :
    bGet (setCsr s q i y).csr (csrKey gid c k) =
      if (gid = q.gang ∧ c ∈ slicesOf q.lanes) ∧ k = i then y % 2 ^ 64 else bGet s.csr (csrKey gid c k) := by
  unfold setCsr
  split
  · rename_i h
    obtain ⟨⟨rfl, hmem⟩, rfl⟩ := h
    exact bGet_bSetAll_of_mem _ _ _ _ ⟨_, List.mem_map.2 ⟨c, hmem, rfl⟩, rfl⟩ fun e he _ => by
      obtain ⟨_, -, rfl⟩ := List.mem_map.1 he
      rfl
  · rename_i h
    refine bGet_bSetAll_of_not_mem _ _ _ fun e he hkey => h ?_
    obtain ⟨c', hc', rfl⟩ := List.mem_map.1 he
    obtain ⟨rfl, rfl, rfl⟩ := (csrKey_inj ((mem_slicesOf _ _).1 hc').1 hi hc hk).1 hkey
    exact ⟨⟨rfl, hc'⟩, rfl⟩

theorem toNat_append_eq_add {m n : Nat} (a : BitVec m) (b : BitVec n) : (a ++ b).toNat = a.toNat * 2 ^ n + b.toNat := by
  rw [BitVec.toNat_append, ← Nat.shiftLeft_add_eq_or_of_lt b.isLt, Nat.shiftLeft_eq]

/-- TRAPINFO as its fields (R107). -/
theorem trapInfo_eq (t : Trap) : trapInfo t = (trapWord t.lanes t.detail t.word t.two t.code).toNat := by
  simp only [trapInfo, trapWord, toNat_append_eq_add, BitVec.toNat_ofNat, BitVec.toNat_ofBool]
  omega

/-- State t is s but for its slice-scope registers and its paths. -/
def SameButCsr (s t : State) : Prop := { t with csr := s.csr, paths := s.paths } = s

theorem SameButCsr.refl (s : State) : SameButCsr s s := rfl
theorem SameButCsr.setCsr {t : State} (h : SameButCsr s t) (q : Path) (i y : Nat) : SameButCsr s (setCsr t q i y) := h
theorem SameButCsr.setPath {t : State} (h : SameButCsr s t) (p : Nat) (q : Path) : SameButCsr s (setPath t p q) := h

theorem SameButCsr.sameBytes {t : State} (h : SameButCsr s t) : SameBytes s t := fun a => (congrArg (fun u => peekByte u a) h :)

theorem entered_sameButCsr (s : State) (p : Nat) (q : Path) (t : Trap) (base : Nat) : SameButCsr s (entered s p q t base) :=
  ((((((SameButCsr.refl s).setCsr _ _ _).setCsr _ _ _).setCsr _ _ _).setCsr _ _ _).setCsr _ _ _).setPath _ _

theorem pathBecomes_entered (s : State) (p : Nat) (q : Path) (t : Trap) (base : Nat) :
    PathBecomes s (entered s p q t base) p { q with sup := true, pos := ⟨base + 64 * t.code, 0, 0, 0⟩, wait := .none, cur := none,
                                                    replay := none, refused := [] } := by
  unfold entered
  exact pathBecomes_setPath _ _ _ _ (by simp only [setCsr_paths])

/-- What an entry to a handler writes in each slice (R111), and that it writes nothing else. -/
theorem entered_csr (s : State) (p : Nat) (q : Path) (t : Trap) (base : Nat) {gid c i : Nat} (hc : c < 8) (hi : i < 16) :
    bGet (entered s p q t base).csr (csrKey gid c i) =
      if gid = q.gang ∧ c ∈ slicesOf q.lanes then
        if i = csrClause then (q.pos.cls * 16 + q.pos.n) % 2 ^ 64
        else if i = csrClauseHdr then q.pos.hdr % 2 ^ 64
        else if i = csrFaultAddr then t.addr % 2 ^ 64
        else if i = csrTrapInfo then trapInfo t % 2 ^ 64
        else if i = csrTrapPc then q.pos.hdr % 2 ^ 64
        else bGet s.csr (csrKey gid c i)
      else bGet s.csr (csrKey gid c i) := by
  unfold entered
  rw [setPath_csr, bGet_setCsr _ _ _ _ hc (by decide) hi, bGet_setCsr _ _ _ _ hc (by decide) hi, bGet_setCsr _ _ _ _ hc (by decide) hi,
    bGet_setCsr _ _ _ _ hc (by decide) hi, bGet_setCsr _ _ _ _ hc (by decide) hi]
  by_cases h : gid = q.gang ∧ c ∈ slicesOf q.lanes
  · simp only [h, true_and, if_true]
  · simp only [h, false_and, if_false]

/-- An exception taken at user level with a handler in place is an entry to the handler (R111). -/
theorem trapsAt_entered (s : State) (p : Nat) (q : Path) (t : Trap) (base : Nat) (hw : t.word = q.pos.word) :
    TrapsAt base s (entered s p q t base) p q t.two t.lanes t.code t.detail t.addr := by
  have hinfo : trapInfo t % 2 ^ 64 = (trapWord t.lanes t.detail q.pos.word t.two t.code).toNat := by
    rw [trapInfo_eq, hw]
    exact Nat.mod_eq_of_lt (BitVec.isLt _)
  refine ⟨pathBecomes_entered s p q t base, entered_sameButCsr .., (entered_sameButCsr ..).sameBytes, fun gid c i hc hi => ?_⟩
  rw [entered_csr s p q t base hc hi, hinfo]
  unfold Holds
  refine ⟨fun h hi => by rw [if_pos h, hi]; rfl, fun h hi => by rw [if_pos h, hi]; rfl, fun h hi => by rw [if_pos h, hi]; rfl,
    fun h hi => by rw [if_pos h, hi]; rfl, fun h hi => by rw [if_pos h, hi]; rfl, fun h => ?_⟩
  by_cases hh : gid = q.gang ∧ c ∈ slicesOf q.lanes
  · have hi' : i ∉ [csrTrapPc, csrTrapInfo, csrFaultAddr, csrClauseHdr, csrClause] := fun hm => h ⟨hh, hm⟩
    simp only [List.mem_cons, List.not_mem_nil, or_false, not_or] at hi'
    obtain ⟨h1, h2, h3, h4, h5⟩ := hi'
    rw [if_pos hh, if_neg h5, if_neg h4, if_neg h3, if_neg h2, if_neg h1]
  · rw [if_neg hh]

theorem takeTrapAt_enters {t : Trap} {base : Nat} (hctx : (ctxAt s (ctxOf s q)).state ≠ .faulted) (hsup : q.sup = false) (hbase : base ≠ 0)
    (hfree : levelFree s p q = true) : takeTrapAt s p q t base = entered s p q t base := by
  unfold takeTrapAt entered
  simp [hctx, hsup, hbase, hfree]

/-! A pending fault that leaves its gang. -/

/-- A gang without one of its pending faults. -/
def withoutFault (s : State) (gid : Nat) (f : PendingFault) : State :=
  modGang s gid fun g => { g with faults := g.faults.filter fun x => x != f }

section
variable {g : Gang} {f : PendingFault}

theorem ctxOf_withoutFault (hg : aGet q.gang s.gangs = some g) : ctxOf (withoutFault s q.gang f) q = ctxOf s q := by
  simp [ctxOf, wgOfPath, gangOf, wgOf, withoutFault, aGet_aMod, hg]

theorem levelFree_withoutFault (hg : aGet q.gang s.gangs = some g) : levelFree (withoutFault s q.gang f) p q = levelFree s p q := by
  have happart : supervisorApart (withoutFault s q.gang f) q.gang q.lanes = supervisorApart s q.gang q.lanes := by
    simp [supervisorApart, withoutFault, aGet_aMod, hg]
  rw [levelFree, happart]
  rfl

/-- The path that is to meet a fault of a command starts a clause at user level (R295). -/
theorem dueFault_some (h : dueFault s p q = some f) : q.sup = false ∧ q.pos.word = 0 := by
  unfold dueFault at h
  split at h
  · cases h
  · rename_i hno
    simp only [Bool.or_eq_true, bne_iff_ne, ne_eq, not_or, Decidable.not_not, Bool.not_eq_true] at hno
    exact ⟨hno.1.1.1, hno.1.2⟩

theorem commandFaultDelivery_delivers (hq : aGet p s.paths = some q) (hf : dueFault s p q = some f) :
    exec .commandFaultDelivery (s.about (.one p)) = .next (takeTrapAt (withoutFault (s.about (.one p)) q.gang f) p q f.trap f.base) := by
  have hq' : aGet p (s.about (.one p)).paths = some q := hq
  have hf' : dueFault (s.about (.one p)) p q = some f := hf
  change execCommandFaultDelivery (s.about (.one p)) = _
  unfold execCommandFaultDelivery
  simp only [subject_about, hq', hf']
  rfl

/-- A command's fault enters its path's handler (R111, R295). -/
theorem commandFault_traps (hf : dueFault s p q = some f) (hw : f.trap.word = 0) (hbase : f.base ≠ 0) (hfree : levelFree s p q = true)
    (hctx : (ctxAt s (ctxOf s q)).state ≠ .faulted) (hg : aGet q.gang s.gangs = some g) :
    let u := withoutFault s q.gang f
    TrapsAt f.base u (takeTrapAt u p q f.trap f.base) p q f.trap.two f.trap.lanes f.trap.code f.trap.detail f.trap.addr := by
  obtain ⟨hsup, hword⟩ := dueFault_some hf
  intro u
  have hctx' : (ctxAt u (ctxOf u q)).state ≠ .faulted := by
    rw [ctxOf_withoutFault hg]
    exact hctx
  rw [takeTrapAt_enters hctx' hsup hbase ((levelFree_withoutFault hg).trans hfree)]
  exact trapsAt_entered u p q f.trap f.base (hw.trans hword.symm)

end

/-! Assembly. -/

/-- What PREEMPTION_COMPLETE leaves (R69, R117, R118). -/
theorem savedContext_effect {c : Nat} {x : Context} (hx : aGet c s.ctxs = some x) :
    let t := savedContext (s.about (.one c)) c
    aGet c t.ctxs = some { x with state := .saved } ∧ (∀ k, k ≠ c → aGet k t.ctxs = aGet k s.ctxs) ∧
      (∀ e ∈ t.ro, e.ctx ≠ c) ∧ (∀ e ∈ t.nodes, e.ctx ≠ c) ∧ (∀ e ∈ t.tlb, e.ctx ≠ c) ∧ (∀ e ∈ t.ats, e.ctx ≠ c) ∧
      (∀ e ∈ t.icache, e.1 / 2 ^ 64 ≠ c) ∧ (∀ r ∈ t.services, r.ctx ≠ c) ∧
      ((∀ e ∈ pathsOf s c, atSideEntry s e.2 = none ∧ ∀ pd sc, e.2.wait ≠ .beacon pd sc) → SameRegisters s t) ∧
      ∀ p q e, pathsOf s c = [(p, q)] → aGet p s.paths = some q → atSideEntry s q = some e → ∀ l, l < 32 → hasBit q.lanes l = true →
        (∀ r, r < 128 → getV t q.gang l r = if hasBit e.vlive r then getV s q.gang l r else 0) ∧
        ∀ r, r < 7 → getP t q.gang l r = (hasBit e.plive r && getP s q.gang l r) := by
  intro t
  have hpaths : pathsOf (s.about (.one c)) c = pathsOf s c := rfl
  obtain ⟨hself, hother⟩ := savedContext_ctxs (s := s.about (.one c)) hx
  obtain ⟨hro, hnodes, htlb, hats, hicache⟩ := emptyCaches_empty (flushCtx (savedParts (s.about (.one c)) c) c) c _ rfl
  obtain ⟨hv, hg, hp, hcsr⟩ := savedContext_sameRegisters (s.about (.one c)) c
  refine ⟨hself, hother, hro, hnodes, htlb, hats, hicache, savedContext_services _ c, fun h => ?_, fun p q e hone _ he l hl hb => ?_⟩
  · have hregs : registersSaved (s.about (.one c)) c = s.about (.one c) :=
      registersSaved_of_none fun e he => (atSideEntry_about _).trans (h e (hpaths ▸ he)).1
    have hall : failBeacons (registersSaved (s.about (.one c)) c) c = s.about (.one c) := by
      rw [hregs]
      exact failBeacons_of_none fun e he => (h e (hpaths ▸ he)).2
    rw [hall] at hv hg hp hcsr
    exact ⟨hv, hg, hp, hcsr⟩
  · have hside := failBeacons_registersSaved_of_side (s := s.about (.one c)) (c := c) (hpaths.trans hone) ((atSideEntry_about _).trans he)
    obtain ⟨huv, hup⟩ := uniformsSaved_v_p (s.about (.one c)) c
    rw [hside] at hv hp
    refine ⟨fun r hr => ?_, fun r hr => ?_⟩
    · have h := getV_dropUnmarked (s := uniformsSaved (s.about (.one c)) c) q e hl hb hr
      simp only [getV, huv] at h
      simp only [getV, t, hv]
      exact h
    · have h := getP_dropUnmarked (s := uniformsSaved (s.about (.one c)) c) q e hl hb hr
      simp only [getP, hup] at h
      simp only [getP, t, hp]
      exact h

end

/-- Settles O51: each event of a context's life by the state that it makes of the one it meets. -/
theorem contexts : Obligations.Contexts := by
  intro s
  refine ⟨?_, ?_⟩
  · intro c x hx moves
    refine ⟨fun hst hw hp => ?_, fun hst hw hr => ?_, fun hst i hi => ?_, fun hst hsave => ?_, fun part m hst hp hok hm hrec => ?_,
      fun part hst hp hno => ?_, fun hst => ?_⟩
    · obtain ⟨hself, hother⟩ := aGet_modCtx (s := s.about (.one c)) hx fun x => { x with state := .running }
      exact ⟨_, contextSchedule_runs hx hst hw hp, ⟨hself, hother, rfl⟩, rfl⟩
    · obtain ⟨hself, hother⟩ := aGet_modCtx (s := s.about (.one c)) hx fun x => { x with state := .ready }
      exact ⟨_, contextIdle_readies hx hst hw hr, ⟨hself, hother, rfl⟩, rfl⟩
    · obtain ⟨hself, hother, hmem, hregs, hserv, hwgs, hcmds⟩ := startPreempt_effect (s := s.about (.one c)) hx hst
      exact ⟨_, preempt_begins hi, ⟨hself, hother, hmem⟩, hregs, hserv, hwgs, hcmds⟩
    · exact ⟨_, preemptionComplete_saves s c hx hst hsave, savedContext_effect hx⟩
    · obtain ⟨hself, hother, hmem, hregs, hwgs, hpaths⟩ := restoreOn_effect (s := s.about (.one c)) hx hrec m
      refine ⟨_, contextRestore_restores hx hst hp hok hm, ⟨hself, hother, hmem⟩, hregs, fun w y hy hyc => ?_, fun p q hq hgang => ?_⟩
      · rw [hwgs]
        refine (aGet_map_if (fun y : Workgroup => y.ctx == c) (fun y => { y with core := y.core.map (movedTo m) }) s.wgs w).trans ?_
        rw [hy, Option.map_some, if_pos (by simp [hyc])]
      · rw [hpaths]
        refine (aGet_map_if (fun q : Path => (gangsOf s c).contains q.gang) resumePath s.paths p).trans ?_
        rw [hq, Option.map_some, if_pos hgang]
        rfl
    · exact ⟨_, contextRestore_refuses hx hst hp hno, contextFault_of_saved (s := s.about (.one c)) hx hst 0 rfl⟩
    · exact ⟨_, contextRelease_frees hx hst, aGet_aErase_self .., rfl⟩
  · intro p q hq only
    refine ⟨fun hst hhere => ?_, fun g i hst hw hc hg hi hl hn => ?_, fun h => ?_, fun f g hf hw hbase hfree hctx hg => ?_⟩
    · exact ⟨_, slicePreemptStop_stops hq hst hhere, pathBecomes_setPath_about .., rfl⟩
    · exact ⟨_, preemptFallback_stops hq hst hw hc (fallbackDue_of_since hg hi hl hn), pathBecomes_setPath_about .., rfl⟩
    · exact ⟨_, pathStarvation_starves hq h, pathBecomes_setPath_about .., rfl⟩
    · exact ⟨_, commandFaultDelivery_delivers hq hf, commandFault_traps (s := s.about (.one p)) hf hw hbase hfree hctx hg⟩

end Sys2Proof.Machine
end

section
/-! SUPPORT. Accumulator tiles (R88, R90, R313, R317, R318): what an element and its special state read as after elements and tiles are
written and partials are added, and the instructions that read and write tiles when their turn in the tile order has come. -/

namespace Sys2Proof.Machine

/-! Places of elements. -/

theorem tileKey_inj {w t w' t' : Nat} (ht : t < 96) (ht' : t' < 96) : tileKey w t = tileKey w' t' ↔ w = w' ∧ t = t' := by
  unfold tileKey; omega

theorem elemKey_inj {w t e w' t' e' : Nat} (ht : t < 96) (he : e < 1024) (ht' : t' < 96) (he' : e' < 1024) :
    elemKey w t e = elemKey w' t' e' ↔ (w = w' ∧ t = t') ∧ e = e' := by
  rw [← tileKey_inj ht ht']; unfold elemKey; omega

/-! Elements and metadata after a write. -/

section
variable (s : State)

theorem getElem_lt (wg t e : Nat) : getElem s wg t e < 2 ^ 128 := bGet_lt _ _

@[simp] theorem getElem_setTile (wg t : Nat) (x : Tile) (w k e : Nat) : getElem (setTile s wg t x) w k e = getElem s w k e := rfl

@[simp] theorem tileOf_setElem (wg t e x w k : Nat) : tileOf (setElem s wg t e x) w k = tileOf s w k := rfl

@[simp] theorem tileOf_setTile_self (wg t : Nat) (x : Tile) : tileOf (setTile s wg t x) wg t = x := by simp [tileOf]

theorem tileOf_setTile_ne {wg t w k : Nat} (x : Tile) (ht : t < 96) (hk : k < 96) (h : ¬ (w = wg ∧ k = t)) :
    tileOf (setTile s wg t x) w k = tileOf s w k := by
  have hkey : tileKey wg t ≠ tileKey w k := fun heq => h <| by
    obtain ⟨rfl, rfl⟩ := (tileKey_inj ht hk).1 heq; exact ⟨rfl, rfl⟩
  rw [tileOf, setTile_tiles, aGet_aSet_ne _ _ hkey, tileOf]

theorem getElem_setElem {wg t e w k e' : Nat} (x : Nat) (ht : t < 96) (he : e < 1024) (hk : k < 96) (he' : e' < 1024) :
    getElem (setElem s wg t e x) w k e' = if (wg = w ∧ t = k) ∧ e = e' then x % 2 ^ 128 else getElem s w k e' := by
  simp only [← elemKey_inj ht he hk he']
  exact bGet_bSet ..

end

/-! The special map. -/

theorem smapAt_eq (m e : Nat) : smapAt m e = m / 4 ^ e % 4 := by
  have hwidth : 2 * e + 1 + 1 - 2 * e = 2 := by omega
  rw [smapAt, bits, hwidth, pow_mul]
  rfl

theorem smapAt_lt (m e : Nat) : smapAt m e < 4 := by rw [smapAt_eq]; omega

theorem smapSet_eq (m e x : Nat) : smapSet m e x = m / 4 ^ (e + 1) * 4 ^ (e + 1) + x % 4 * 4 ^ e + m % 4 ^ e := by
  have h : m = m / 4 ^ (e + 1) * 4 ^ (e + 1) + smapAt m e * 4 ^ e + m % 4 ^ e := by
    rw [smapAt_eq, pow_succ, ← Nat.div_div_eq_div_mul]
    have hdiv : m / 4 ^ e / 4 * (4 ^ e * 4) + m / 4 ^ e % 4 * 4 ^ e = 4 ^ e * (m / 4 ^ e) := by
      rw [mul_comm (4 ^ e) 4, ← mul_assoc, ← add_mul, mul_comm _ 4, Nat.div_add_mod, mul_comm]
    rw [hdiv, Nat.div_add_mod]
  rw [smapSet, pow_mul]
  norm_num only
  omega

/-- One element's special state is replaced, the others stay (R88). -/
theorem smapAt_smapSet (m e x e' : Nat) : smapAt (smapSet m e x) e' = if e = e' then x % 4 else smapAt m e' := by
  have hpos : 0 < 4 ^ e := Nat.pow_pos (by decide)
  have hlo : m % 4 ^ e < 4 ^ e := Nat.mod_lt _ hpos
  have hx : x % 4 < 4 := Nat.mod_lt _ (by decide)
  rw [smapAt_eq, smapAt_eq, smapSet_eq]
  rcases lt_trichotomy e e' with h | rfl | h
  · obtain ⟨j, rfl⟩ : ∃ j, e' = e + 1 + j := ⟨e' - e - 1, by omega⟩
    have hhi : (m / 4 ^ (e + 1) * 4 ^ (e + 1) + x % 4 * 4 ^ e + m % 4 ^ e) / 4 ^ (e + 1) = m / 4 ^ (e + 1) := by
      rw [add_assoc, add_comm, Nat.add_mul_div_right _ _ (by positivity), Nat.div_eq_of_lt, zero_add]
      rw [pow_succ]
      nlinarith
    rw [if_neg (by omega), pow_add _ (e + 1) j, ← Nat.div_div_eq_div_mul, hhi, Nat.div_div_eq_div_mul]
  · have hmid : (m / 4 ^ (e + 1) * 4 ^ (e + 1) + x % 4 * 4 ^ e + m % 4 ^ e) / 4 ^ e = m / 4 ^ (e + 1) * 4 + x % 4 := by
      rw [pow_succ, ← mul_assoc, mul_right_comm, ← add_mul, add_comm, Nat.add_mul_div_right _ _ hpos, Nat.div_eq_of_lt hlo, zero_add]
    rw [if_pos rfl, hmid]
    omega
  · obtain ⟨j, rfl⟩ : ∃ j, e = e' + 1 + j := ⟨e - e' - 1, by omega⟩
    have hmod : ∀ y, y / 4 ^ e' % 4 = y % 4 ^ (e' + 1) / 4 ^ e' := fun y => by rw [pow_succ, Nat.mod_mul_right_div_self]
    rw [if_neg (by omega), hmod, hmod m]
    congr 1
    have hd : 4 ^ (e' + 1) ∣ 4 ^ (e' + 1 + j) := pow_dvd_pow _ (by omega)
    have hd' : 4 ^ (e' + 1) ∣ m / 4 ^ (e' + 1 + j + 1) * 4 ^ (e' + 1 + j + 1) + x % 4 * 4 ^ (e' + 1 + j) :=
      (((pow_dvd_pow _ (by omega)).mul_left _).add (hd.mul_left _))
    rw [Nat.add_mod, Nat.mod_eq_zero_of_dvd hd', zero_add, Nat.mod_mod, Nat.mod_mod_of_dvd _ hd]

/-! Partials added. -/

theorem packElem_lt {c31 c32 c33 cg : Nat} (h31 : c31 < 2 ^ 31) (h32 : c32 < 2 ^ 32) (h33 : c33 < 2 ^ 33) (hcg : cg < 2 ^ 8) :
    packElem c31 c32 c33 cg 0 < 2 ^ 112 := by
  unfold packElem; omega

theorem canonicalElem_lt (e : Nat) : canonicalElem e < 2 ^ 112 := by
  refine packElem_lt ?_ ?_ ?_ (Nat.mod_lt _ (by decide)) <;> exact (Nat.mod_lt _ (by decide)).trans (by decide)

/-- The units of a partial leave an element of 128 bits (R87, R90). -/
theorem addUnits_lt (e : Nat) (q : Int) : addUnits e q < 2 ^ 128 := by
  have hmod (c m : Nat) (hm : 0 < m) : (((c : Int) + q) % (m : Int)).toNat < m := by
    have := Int.emod_lt_of_pos ((c : Int) + q) (Int.natCast_pos.2 hm)
    have := Int.emod_nonneg ((c : Int) + q) (Int.natCast_pos.2 hm).ne'
    omega
  have h31 := hmod (ch31 e) m31 (by decide)
  have h32 := hmod (ch32 e) m32 (by decide)
  have h33 := hmod (ch33 e) m33 (by decide)
  have hcg := hmod (chg e) 256 (by decide)
  have h1 := bits_lt e 127 112
  have h2 := bits_lt e 103 97
  have h3 := bits_lt e 63 63
  unfold addUnits packElem
  dsimp only
  unfold m31 m32 m33 at *
  omega

theorem accumulate_fst_lt (a : Int) {e : Nat} (st : Nat) (p : Partial) (he : e < 2 ^ 128) : (accumulate a e st p).1 < 2 ^ 128 := by
  cases p with
  | fin d => exact addUnits_lt _ _
  | pinf => exact he
  | ninf => exact he
  | nan inv => exact he

theorem combineSpecial_lt {st : Nat} (p : Partial) (h : st < 4) : (combineSpecial st p).1 < 4 := by
  unfold combineSpecial
  split
  · exact h
  · exact (by decide : 3 < 4)
  · split <;> exact (by decide)
  · split <;> exact (by decide)

theorem accumulate_state_lt (a : Int) (e : Nat) {st : Nat} (p : Partial) (h : st < 4) : (accumulate a e st p).2.1 < 4 := by
  cases p with
  | fin d => exact h
  | pinf => exact combineSpecial_lt .pinf h
  | ninf => exact combineSpecial_lt .ninf h
  | nan inv => exact combineSpecial_lt (.nan inv) h

/-- An instruction's partials, each with its element, added in order (R90, R318). -/
def addAll (s : State) (wg t : Nat) (adds : List (Nat × Partial)) : State := adds.foldl (fun s y => addToTile s wg t y.1 y.2) s

section
variable (s : State) {wg t e : Nat} (p : Partial)

theorem tileOf_addToTile_anchor : (tileOf (addToTile s wg t e p) wg t).anchor = (tileOf s wg t).anchor := by
  unfold addToTile
  dsimp only
  rw [tileOf_setTile_self]

theorem onlyTile_addToTile (he : e < 1024) : OnlyTile s (addToTile s wg t e p) wg t := by
  unfold addToTile
  dsimp only
  refine ⟨fun w k e' he' h hk ht => ?_, fun w k h hk ht => ?_⟩
  · rw [getElem_setTile, getElem_setElem _ _ ht he hk he', if_neg]
    rintro ⟨⟨rfl, rfl⟩, -⟩
    exact h ⟨rfl, rfl⟩
  · rw [tileOf_setTile_ne _ _ ht hk h, tileOf_setElem]

/-- A partial added changes its element by R90 and R91, and no other of its tile. -/
theorem elementAt_addToTile {e' : Nat} (ht : t < 96) (he : e < 1024) (he' : e' < 1024) :
    elementAt (addToTile s wg t e p) wg t e' =
      if e = e' then accumulated (tileOf s wg t).anchor (elementAt s wg t e') [p] else elementAt s wg t e' := by
  have hlt := accumulate_fst_lt (tileOf s wg t).anchor (smapAt (tileOf s wg t).smap e) p (getElem_lt s wg t e)
  have hst := accumulate_state_lt (tileOf s wg t).anchor (getElem s wg t e) p (smapAt_lt (tileOf s wg t).smap e)
  unfold elementAt addToTile
  dsimp only
  rw [getElem_setTile, getElem_setElem _ _ ht he ht he', tileOf_setTile_self, smapAt_smapSet, Nat.mod_eq_of_lt hlt, Nat.mod_eq_of_lt hst]
  by_cases h : e = e'
  · subst h; simp [accumulated]
  · simp [h]

theorem addToTile_rest : { addToTile s wg t e p with acc := s.acc, tiles := s.tiles } = s := by
  simp only [addToTile, setTile, setElem]

end

theorem OnlyTile.trans {s t u : State} {wg k : Nat} (h : OnlyTile s t wg k) (h' : OnlyTile t u wg k) : OnlyTile s u wg k :=
  ⟨fun w j e he hj hk ht => (h'.1 w j e he hj hk ht).trans (h.1 w j e he hj hk ht),
    fun w j hj hk ht => (h'.2 w j hj hk ht).trans (h.2 w j hj hk ht)⟩

theorem OnlyTile.refl (s : State) (wg k : Nat) : OnlyTile s s wg k := ⟨fun _ _ _ _ _ _ _ => rfl, fun _ _ _ _ _ => rfl⟩

theorem addAll_rest (s : State) (wg t : Nat) (adds : List (Nat × Partial)) :
    { addAll s wg t adds with acc := s.acc, tiles := s.tiles } = s := by
  induction adds generalizing s with
  | nil => rfl
  | cons y adds ih =>
    have h := congrArg (fun u => { u with acc := s.acc, tiles := s.tiles }) (ih (addToTile s wg t y.1 y.2))
    exact h.trans (addToTile_rest s y.2)

theorem onlyTile_addAll (s : State) (wg t : Nat) (adds : List (Nat × Partial)) (h : ∀ y ∈ adds, y.1 < 1024) :
    OnlyTile s (addAll s wg t adds) wg t := by
  induction adds generalizing s with
  | nil => exact .refl _ _ _
  | cons y adds ih =>
    exact (onlyTile_addToTile s y.2 (h y (List.mem_cons_self ..))).trans (ih _ fun z hz => h z (List.mem_cons_of_mem _ hz))

theorem tileOf_addAll_anchor (s : State) (wg t : Nat) (adds : List (Nat × Partial)) :
    (tileOf (addAll s wg t adds) wg t).anchor = (tileOf s wg t).anchor := by
  induction adds generalizing s with
  | nil => rfl
  | cons y adds ih => exact (ih _).trans (tileOf_addToTile_anchor s y.2)

/-- An element after partials are added to a tile: those that name it, in their order. -/
theorem elementAt_addAll (s : State) {wg t e : Nat} (ht : t < 96) (he : e < 1024) (adds : List (Nat × Partial))
    (h : ∀ y ∈ adds, y.1 < 1024) :
    elementAt (addAll s wg t adds) wg t e =
      accumulated (tileOf s wg t).anchor (elementAt s wg t e) ((adds.filter (·.1 = e)).map (·.2)) := by
  induction adds generalizing s with
  | nil => rfl
  | cons y adds ih =>
    have hy := h y (List.mem_cons_self ..)
    refine (ih (addToTile s wg t y.1 y.2) fun z hz => h z (List.mem_cons_of_mem _ hz)).trans ?_
    rw [tileOf_addToTile_anchor, elementAt_addToTile _ _ ht hy he]
    by_cases heq : y.1 = e
    · simp [heq, accumulated]
    · simp [heq]

/-! The partials of ACCADD, lane by lane. -/

theorem lanesOf_nodup (m : Nat) : (lanesOf m).Nodup := List.nodup_range.filter _

/-- The members that pass a test among those that a list's members give, where one of them alone gives such. -/
theorem filter_flatMap_of_unique {α : Type} (f : Nat → List α) (test : α → Bool) (l : Nat) :
    ∀ ls : List Nat, ls.Nodup → (∀ j ∈ ls, j ≠ l → ∀ y ∈ f j, test y = false) →
      (ls.flatMap f).filter test = if l ∈ ls then (f l).filter test else []
  | [], _, _ => rfl
  | j :: ls, hn, h => by
    obtain ⟨hj, hn⟩ := List.nodup_cons.1 hn
    rw [List.flatMap_cons, List.filter_append, filter_flatMap_of_unique f test l ls hn fun k hk => h k (List.mem_cons_of_mem _ hk)]
    by_cases hjl : j = l
    · subst hjl; simp [hj]
    · rw [List.filter_eq_nil_iff.2 fun y hy => by simp [h j (List.mem_cons_self ..) hjl y hy]]
      simp [Ne.symm hjl]

theorem filter_zipIdx_index {α : Type} (j : Nat) : ∀ (n : Nat) (xs : List α), n ≤ j →
    ((xs.zipIdx n).filter (fun y => y.2 = j)).map (·.1) = (xs[j - n]?).toList
  | _, [], _ => rfl
  | n, x :: xs, hn => by
    rw [List.zipIdx_cons, List.filter_cons]
    by_cases h : n = j
    · subst h
      have hrest : (xs.zipIdx (n + 1)).filter (fun y => y.2 = n) = [] := List.filter_eq_nil_iff.2 fun y hy => by
        have := List.le_snd_of_mem_zipIdx hy
        simp; omega
      simp [hrest]
    · obtain ⟨i, rfl⟩ : ∃ i, j = n + 1 + i := ⟨j - n - 1, by omega⟩
      have hi : n + 1 + i - n = i + 1 := by omega
      rw [if_neg (by simp; omega), filter_zipIdx_index _ _ xs (by omega), hi, List.getElem?_cons_succ]
      congr 2; omega

theorem addValues_length_le (s : State) (q : Path) (type quad l : Nat) : (addValues s q type quad l).length ≤ 32 := by
  unfold addValues
  split <;> simp

/-- The partials of one lane, each with its element: its row's, from a column on, around the row's end (R318). -/
def rowAdds (col l : Nat) (vals : List Partial) : List (Nat × Partial) := vals.zipIdx.map fun y => (32 * l + (col + y.2) % 32, y.1)

theorem rowAdds_bounds {col l : Nat} {vals : List Partial} {y : Nat × Partial} (hy : y ∈ rowAdds col l vals) :
    32 * l ≤ y.1 ∧ y.1 < 32 * l + 32 := by
  obtain ⟨z, -, rfl⟩ := List.mem_map.1 hy
  dsimp only
  omega

/-- What a lane adds at a column of its row: its value of that place, if it has one (R318). -/
theorem rowAdds_at {col l k : Nat} {vals : List Partial} (hk : k < 32) (hcol : col < 32) (hlen : vals.length ≤ 32) :
    ((rowAdds col l vals).filter (·.1 = 32 * l + k)).map (·.2) = (vals[(k + 32 - col) % 32]?).toList := by
  rw [← Nat.sub_zero ((k + 32 - col) % 32), ← filter_zipIdx_index _ _ _ (Nat.zero_le _), rowAdds, List.filter_map, List.map_map]
  have hcongr : vals.zipIdx.filter ((fun y : Nat × Partial => decide (y.1 = 32 * l + k)) ∘ fun y => (32 * l + (col + y.2) % 32, y.1)) =
      vals.zipIdx.filter (fun y => y.2 = (k + 32 - col) % 32) := by
    refine List.filter_congr fun y hy => ?_
    have := List.snd_lt_of_mem_zipIdx hy
    simp only [Function.comp, decide_eq_decide]
    omega
  rw [hcongr]
  rfl

/-- What the lanes of a mask add at an element: what the lane of its row adds, if the mask has it. -/
theorem laneAdds_at {lanes col l k : Nat} {vals : Nat → List Partial} (hl : l < 32) (hk : k < 32) (hcol : col < 32)
    (hlen : (vals l).length ≤ 32) :
    ((((lanesOf lanes).flatMap fun j => rowAdds col j (vals j)).filter (·.1 = 32 * l + k)).map (·.2)) =
      if hasBit lanes l = true then ((vals l)[(k + 32 - col) % 32]?).toList else [] := by
  rw [filter_flatMap_of_unique (fun j => rowAdds col j (vals j)) _ l _ (lanesOf_nodup _) fun j _ hj y hy => by
    have := rowAdds_bounds hy
    simp only [decide_eq_false_iff_not]
    omega]
  simp only [mem_lanesOf, hl, true_and]
  split
  · exact rowAdds_at hk hcol hlen
  · rfl

/-! The turn in the tile order. -/

/-- A path that takes its place in the tile order with no earlier member at its tiles acts at once (R313). -/
theorem inTileOrder_of_clear {s : State} {q : Path} {i : Instr} (p : Nat) (act : State → Path → State) (hw : q.wait = .none)
    (hc : orderClear s (wgIdOf s q) s.fresh (instrDomain i) = true) :
    inTileOrder s p q i act = act (freshId s).2 q := by
  unfold inTileOrder
  rw [hw]
  dsimp only
  rw [if_pos rfl]
  exact if_pos hc

/-! ACCWR's elements. -/

/-- One element written whole, its poison cleared (R298, R318). -/
def putElem (s : State) (wg t e x : Nat) : State := clearElems (setElem s wg t e x) wg t e 1

/-- One element of each lane's row written, by a function of the lane (R318). -/
def putLanes (s : State) (wg t col : Nat) (f : Nat → Nat) (ls : List Nat) : State :=
  ls.foldl (fun s l => putElem s wg t (32 * l + col) (f l)) s

theorem putElem_v (s : State) (wg t e x : Nat) : (putElem s wg t e x).v = s.v := rfl

theorem putElem_rest (s : State) (wg t e x : Nat) : { putElem s wg t e x with acc := s.acc, poison := s.poison } = s := by
  simp only [putElem, clearElems, setElem]

theorem putLanes_cons (s : State) (wg t col : Nat) (f : Nat → Nat) (l : Nat) (ls : List Nat) :
    putLanes s wg t col f (l :: ls) = putLanes (putElem s wg t (32 * l + col) (f l)) wg t col f ls := rfl

theorem putLanes_rest (s : State) (wg t col : Nat) (f : Nat → Nat) (ls : List Nat) :
    { putLanes s wg t col f ls with acc := s.acc, poison := s.poison } = s := by
  induction ls generalizing s with
  | nil => rfl
  | cons l ls ih =>
    have h := congrArg (fun u => { u with acc := s.acc, poison := s.poison }) (ih (putElem s wg t (32 * l + col) (f l)))
    exact h.trans (putElem_rest ..)

theorem getElem_putElem (s : State) {wg t e w k e' : Nat} (x : Nat) (ht : t < 96) (he : e < 1024) (hk : k < 96) (he' : e' < 1024) :
    getElem (putElem s wg t e x) w k e' = if (wg = w ∧ t = k) ∧ e = e' then x % 2 ^ 128 else getElem s w k e' :=
  getElem_setElem s x ht he hk he'

theorem getElem_putLanes (s : State) {wg t col w k e : Nat} (f : Nat → Nat) (ht : t < 96) (hcol : col < 32) (hk : k < 96)
    (he : e < 1024) (ls : List Nat) (hls : ∀ l ∈ ls, l < 32) :
    getElem (putLanes s wg t col f ls) w k e =
      if (wg = w ∧ t = k) ∧ e / 32 ∈ ls ∧ e % 32 = col then f (e / 32) % 2 ^ 128 else getElem s w k e := by
  induction ls generalizing s with
  | nil => simp [putLanes]
  | cons l ls ih =>
    have hl := hls l (List.mem_cons_self ..)
    refine (ih (putElem s wg t (32 * l + col) (f l)) fun j hj => hls j (List.mem_cons_of_mem _ hj)).trans ?_
    rw [getElem_putElem _ _ ht (by omega) hk he]
    by_cases hin : (wg = w ∧ t = k) ∧ e / 32 ∈ ls ∧ e % 32 = col
    · rw [if_pos hin, if_pos ⟨hin.1, List.mem_cons_of_mem _ hin.2.1, hin.2.2⟩]
    · rw [if_neg hin]
      by_cases hl : (wg = w ∧ t = k) ∧ 32 * l + col = e
      · obtain ⟨hwk, rfl⟩ := hl
        have hdiv : (32 * l + col) / 32 = l := by omega
        rw [if_pos ⟨hwk, rfl⟩, if_pos ⟨hwk, by rw [hdiv]; exact List.mem_cons_self .., by omega⟩, hdiv]
      · rw [if_neg hl, if_neg]
        rintro ⟨hwk, hmem, hmod⟩
        rcases List.mem_cons.1 hmem with heq | hmem
        · exact hl ⟨hwk, by omega⟩
        · exact hin ⟨hwk, hmem, hmod⟩

theorem getRegs_congr {s t : State} (h : t.v = s.v) (gid l r n : Nat) : getRegs t gid l r n = getRegs s gid l r n := by
  induction n with
  | zero => rfl
  | succ n ih => simp only [getRegs, getV, ih, h]

/-- Writes that the lanes make one after another, each of a value that rests on V registers alone, are of the values at the start. -/
theorem foldl_putElem_eq_putLanes (s : State) (wg t col : Nat) (f : State → Nat → Nat) (hf : ∀ u : State, u.v = s.v → f u = f s)
    (ls : List Nat) : ls.foldl (fun u l => putElem u wg t (32 * l + col) (f u l)) s = putLanes s wg t col (f s) ls := by
  have hgo : ∀ (ls : List Nat) (u : State), u.v = s.v →
      ls.foldl (fun u l => putElem u wg t (32 * l + col) (f u l)) u = putLanes u wg t col (f s) ls := by
    intro ls
    induction ls with
    | nil => exact fun _ _ => rfl
    | cons l ls ih =>
      intro u hu
      rw [List.foldl_cons, hf u hu, putLanes_cons]
      exact ih _ ((putElem_v ..).trans hu)
  exact hgo ls s rfl

/-- What ACCWR writes in the element of a lane's row (R318). -/
def quadElem (q : Path) (x : Nat) (s : State) (l : Nat) : Nat := canonicalElem (getRegs s q.gang l (4 * x) 4)

theorem quadElem_congr (q : Path) (x : Nat) {s t : State} (h : t.v = s.v) : quadElem q x t = quadElem q x s :=
  funext fun l => congrArg canonicalElem (getRegs_congr h q.gang l (4 * x) 4)

/-! ACCRD's registers. -/

/-- Registers after consecutive ones are written in lanes of a gang from one little-endian number of each lane (R73, R318). -/
theorem bGet_regWrites_lanes (m : Bank 32) {gid lanes r n : Nat} (f : Nat → Nat) (hr : r + n ≤ 128) {gid' l r' : Nat} (hl : l < 32)
    (hr' : r' < 128) :
    bGet (bSetAll m ((lanesOf lanes).flatMap fun j => regWrites gid j r n (f j))) (vKey gid' l r') =
      if (gid' = gid ∧ hasBit lanes l = true) ∧ r ≤ r' ∧ r' < r + n then f l / 2 ^ (32 * (r' - r)) % 2 ^ 32 else bGet m (vKey gid' l r') := by
  have hmem : ∀ e ∈ (lanesOf lanes).flatMap (fun j => regWrites gid j r n (f j)), e.1 = vKey gid' l r' →
      (gid' = gid ∧ hasBit lanes l = true) ∧ r ≤ r' ∧ r' < r + n ∧ e.2 = f l / 2 ^ (32 * (r' - r)) % 2 ^ 32 := by
    intro e he hk
    obtain ⟨j, hj, he⟩ := List.mem_flatMap.1 he
    obtain ⟨i, hi, rfl⟩ := List.mem_map.1 he
    obtain ⟨hj, hb⟩ := (mem_lanesOf _ _).1 hj
    have hi := List.mem_range.1 hi
    obtain ⟨rfl, rfl, rfl⟩ := (vKey_inj hj (by omega) hl hr').1 hk
    have hsub : r + i - r = i := by omega
    have hwidth : 32 * i + 31 + 1 - 32 * i = 32 := by omega
    exact ⟨⟨rfl, hb⟩, by omega, by omega, by rw [hsub, bits, hwidth]⟩
  split
  · rename_i h
    obtain ⟨⟨rfl, hb⟩, hlo, hhi⟩ := h
    rw [bGet_bSetAll_of_mem _ _ _ _ ?_ fun e he hk => (hmem e he hk).2.2.2, Nat.mod_mod]
    refine ⟨_, List.mem_flatMap.2 ⟨l, (mem_lanesOf _ _).2 ⟨hl, hb⟩, List.mem_map.2 ⟨r' - r, List.mem_range.2 (by omega), rfl⟩⟩, ?_⟩
    exact congrArg (vKey gid' l) (by omega : r + (r' - r) = r')
  · rename_i h
    exact bGet_bSetAll_of_not_mem _ _ _ fun e he hk => h ⟨(hmem e he hk).1, (hmem e he hk).2.1, (hmem e he hk).2.2.1⟩

theorem passLanes_passOuts (lanes : Nat) (pa leaf : Nat → Nat) :
    passLanes (passOuts lanes pa leaf) = (lanesOf lanes).map fun l => (l, pa l, leaf l) := by
  simp [passLanes, passOuts, List.filterMap_map]

/-! The instructions. -/

section
variable {s : State} {p : Nat} {q : Path} {v g x : Nat}

/-- ACCADD, its turn come (R318). -/
theorem accadd_next (hq : Issues s p q) (hw : q.wait = .none) (hc : orderClear s (wgIdOf s q) s.fresh ([v], false) = true) :
    exec (.accadd v g x) s = .next (advance (addAll (freshId s).2 (wgIdOf s q) v
      ((lanesOf (active q)).flatMap fun l => rowAdds (bits (getG s q g) 4 0) l (addValues s q (bits (getG s q g) 9 8) x l))) p q 1) :=
  (onPath_next hq _).trans (congrArg _ (inTileOrder_of_clear p _ hw hc))

/-- ACCRD of elements without poison, its turn come (R298, R318). -/
theorem accrd_next {la : Nat} (hq : Issues s p q) (hw : q.wait = .none)
    (hc : orderClear s (wgIdOf s q) s.fresh ([v], false) = true) (hm : hasBit (getG s q g) 8 = false)
    (hp : ∀ l, l < 32 → hasBit (active q) l = true → elemPoisoned s (wgIdOf s q) v (32 * l + bits (getG s q g) 4 0) = false) :
    exec (.accrd v g la x) s = .next (advance { (freshId s).2 with
      v := bSetAll s.v ((lanesOf (active q)).flatMap fun l =>
        regWrites q.gang l (4 * x) 4 (getElem s (wgIdOf s q) v (32 * l + bits (getG s q g) 4 0) % 2 ^ 112)) } p q 1) := by
  have hexec : exec (.accrd v g la x) s = execAccrd v g la x s := rfl
  rw [hexec, execAccrd, onPath_next hq, inTileOrder_of_clear (i := .accrd v g la x) p _ hw hc]
  have hwait : { q with wait := .none } = q := by rw [← hw]
  have hm' : hasBit (getG (freshId s).2 q g) 8 = false := hm
  dsimp only
  rw [hm', hwait]
  have houts : (lanesOf (active q)).map (fun k => (k, if !false && elemPoisoned (freshId s).2
        (wgIdOf (freshId s).2 q) v (32 * k + bits (getG (freshId s).2 q g) 4 0)
        then LaneOut.fail 0 cMCheck 0 0 else .pass 0 0)) = passOuts (active q) (fun _ => 0) (fun _ => 0) :=
    List.map_congr_left fun l hl => by
      obtain ⟨hl, hb⟩ := (mem_lanesOf _ _).1 hl
      exact congrArg (Prod.mk l) (if_neg (Bool.eq_false_iff.1 (hp l hl hb)))
  rw [houts, settleLanes_passOuts (by exact hq.2), passLanes_passOuts, List.flatMap_map]
  rfl

/-- ACCWR of elements, its turn come (R318). -/
theorem accwr_next (hq : Issues s p q) (hw : q.wait = .none) (hc : orderClear s (wgIdOf s q) s.fresh ([v], false) = true)
    (hm : hasBit (getG s q g) 8 = false) :
    exec (.accwr v g x) s = .next (advance (putLanes (freshId s).2 (wgIdOf s q) v (bits (getG s q g) 4 0) (quadElem q x s)
      (lanesOf (active q))) p q 1) := by
  have hexec : exec (.accwr v g x) s = execAccwr v g x s := rfl
  rw [hexec, execAccwr, onPath_next hq, inTileOrder_of_clear (i := .accwr v g x) p _ hw hc]
  have hm' : hasBit (getG (freshId s).2 q g) 8 = false := hm
  dsimp only
  rw [hm']
  exact congrArg (fun u => Host.Outcome.next (advance u p q 1)) (foldl_putElem_eq_putLanes (freshId s).2 (wgIdOf s q) v (bits (getG s q g) 4 0)
    (quadElem q x) (fun u hu => quadElem_congr q x hu) (lanesOf (active q)))

end

/-- Settles O42: each of the three instructions by the state that it makes, and what an element or a register reads as there. -/
theorem tileAccess : Obligations.TileAccess := by
  intro s p q v g x wg col hq hw hv hg hx hwg hcol hc
  subst hwg
  have hcol' : col < 32 := hcol ▸ bits_lt _ 4 0
  refine ⟨?_, fun la _ hm hp => ?_, fun hm => ?_⟩
  · refine ⟨_, accadd_next hq hw hc, ?_⟩
    rw [← hcol]
    set vals := addValues s q (bits (getG s q g) 9 8) x with hvals
    set adds := (lanesOf (active q)).flatMap fun l => rowAdds col l (vals l) with hadds
    have hbound : ∀ y ∈ adds, y.1 < 1024 := by
      intro y hy
      obtain ⟨l, hl, hy⟩ := List.mem_flatMap.1 hy
      have := ((mem_lanesOf _ _).1 hl).1
      have := rowAdds_bounds hy
      omega
    have hrest := addAll_rest (freshId s).2 (wgIdOf s q) v adds
    have helem (l k : Nat) (hl : l < 32) (hk : k < 32) := (elementAt_addAll (freshId s).2 (wg := wgIdOf s q) hv
      (by omega) adds hbound).trans (congrArg _ (laneAdds_at (lanes := active q) (vals := vals) hl hk hcol' (addValues_length_le ..)))
    refine ⟨pathBecomes_setPath _ _ _ _ (congrArg State.paths hrest :), ⟨(congrArg State.v hrest :), (congrArg State.g hrest :),
      (congrArg State.p hrest :), (congrArg State.csr hrest :)⟩, (congrArg State.mem hrest :),
      onlyTile_addAll (freshId s).2 _ _ _ hbound, tileOf_addAll_anchor (freshId s).2 _ _ _,
      fun l k hl hk => ⟨fun a hb ha => (helem l k hl hk).trans ?_, fun h => (helem l k hl hk).trans ?_⟩⟩
    · rw [if_pos hb, ha]
      rfl
    · rcases h with hb | hlen
      · rw [if_neg (by simp [hb])]
        rfl
      · rw [List.getElem?_eq_none hlen]
        split <;> rfl
  · rw [hcol] at hp
    refine ⟨_, accrd_next hq hw hc hm hp, pathBecomes_setPath _ _ _ _ rfl, rfl, rfl, rfl, rfl, fun gid l r hl hr => ?_⟩
    rw [← hcol]
    have hread := bGet_regWrites_lanes s.v (gid := q.gang) (lanes := active q) (r := 4 * x) (n := 4)
      (fun l => getElem s (wgIdOf s q) v (32 * l + col) % 2 ^ 112) (by omega) (gid' := gid) hl hr
    refine ⟨fun j hj htake hreg => hread.trans ?_, fun h => hread.trans (if_neg h)⟩
    subst hreg
    rw [if_pos ⟨htake, by omega, by omega⟩, Nat.add_sub_cancel_left]
  · refine ⟨_, accwr_next hq hw hc hm, ?_⟩
    rw [← hcol]
    set t := putLanes (freshId s).2 (wgIdOf s q) v col (quadElem q x s)
      (lanesOf (active q)) with ht
    have hrest : { t with acc := s.acc, poison := s.poison } = (freshId s).2 := putLanes_rest ..
    have hget {w k e : Nat} (hk : k < 96) (he : e < 1024) := getElem_putLanes (freshId s).2 (wg := wgIdOf s q) (w := w)
      (quadElem q x s) hv hcol' hk he (lanesOf (active q)) fun l hl => ((mem_lanesOf _ _).1 hl).1
    refine ⟨pathBecomes_setPath _ _ _ _ (congrArg State.paths hrest :), ⟨(congrArg State.v hrest :), (congrArg State.g hrest :),
      (congrArg State.p hrest :), (congrArg State.csr hrest :)⟩, (congrArg State.mem hrest :), (congrArg State.tiles hrest :),
      ⟨fun w k e he h hk _ => (hget hk he).trans (if_neg fun hin => h ⟨hin.1.1.symm, hin.1.2.symm⟩), fun w k _ _ _ => ?_⟩,
      fun l k hl hk => (hget hv (by omega)).trans ?_⟩
    · exact congrArg (fun m => (aGet (tileKey w k) m).getD ⟨0, false, false, 0, 0, 0⟩) (congrArg State.tiles hrest :)
    · have hdiv : (32 * l + k) / 32 = l := by omega
      have hmod : (32 * l + k) % 32 = k := by omega
      have hsize : quadElem q x s l % 2 ^ 128 = quadElem q x s l := Nat.mod_eq_of_lt ((canonicalElem_lt _).trans (by decide))
      rw [hdiv, hmod, hsize]
      simp only [mem_lanesOf, hl, true_and, and_self]
      rfl

end Sys2Proof.Machine
end

section
/-! SUPPORT. Values of floating-point codes (R75): a format's codes, its exponent taken as unbounded, have rising values, each above the last
by one unit of its exponent. What the bits of a pattern mean follows. -/

namespace Sys2Proof.Machine

/-- The exponent field of a code as its value takes it: subnormal codes have that of the smallest normal (R75). -/
def Fmt.codeExp (f : Fmt) (c : Nat) : Nat := max (c / 2 ^ f.fw) 1

/-- The significand of a code in units of its last place. -/
def Fmt.codeMant (f : Fmt) (c : Nat) : Nat := if c / 2 ^ f.fw = 0 then c % 2 ^ f.fw else c % 2 ^ f.fw + 2 ^ f.fw

/-- The exponent of the last place of a code. -/
def Fmt.codeUnit (f : Fmt) (c : Nat) : ℤ := (f.codeExp c : ℤ) - f.bias - f.fw

/-- The value of a code without its sign, whatever its exponent field. -/
def codeVal (f : Fmt) (c : Nat) : ℚ := f.codeMant c * 2 ^ f.codeUnit c

section
variable (f : Fmt) (c : Nat)

theorem Fmt.codeExp_pos : 1 ≤ f.codeExp c := le_max_right _ _

theorem Fmt.codeMant_lt : f.codeMant c < 2 ^ (f.fw + 1) := by
  have := Nat.mod_lt c (Nat.two_pow_pos f.fw)
  rw [pow_succ]
  unfold codeMant
  split <;> omega

theorem Fmt.le_codeMant_or : 2 ^ f.fw ≤ f.codeMant c ∨ f.codeExp c = 1 := by
  unfold codeMant codeExp
  split <;> omega

theorem Fmt.code_eq : (f.codeExp c - 1) * 2 ^ f.fw + f.codeMant c = c := by
  unfold codeMant codeExp
  have hdiv := Nat.div_add_mod' c (2 ^ f.fw)
  split
  · rename_i h
    rw [h] at hdiv ⊢
    simpa using hdiv
  · rename_i h
    obtain ⟨j, hj⟩ : ∃ j, c / 2 ^ f.fw = j + 1 := ⟨_, (Nat.succ_pred h).symm⟩
    rw [hj, Nat.succ_mul] at hdiv
    rw [hj, max_eq_left (by omega), Nat.add_sub_cancel]
    omega

end

/-- The value of a code made of an exponent field and a significand, which may have run over by one (R80). -/
theorem codeVal_of_parts (f : Fmt) {E t : Nat} (hE : 1 ≤ E) (ht : t ≤ 2 ^ (f.fw + 1)) (hn : 2 ^ f.fw ≤ t ∨ E = 1) :
    codeVal f ((E - 1) * 2 ^ f.fw + t) = t * 2 ^ ((E : ℤ) - f.bias - f.fw) := by
  obtain ⟨j, rfl⟩ : ∃ j, E = j + 1 := ⟨E - 1, by omega⟩
  have hP := Nat.two_pow_pos f.fw
  rw [pow_succ] at ht
  rw [Nat.add_sub_cancel]
  unfold codeVal Fmt.codeMant Fmt.codeUnit Fmt.codeExp
  rcases Nat.lt_or_ge t (2 ^ f.fw) with hlt | hge
  · obtain rfl : j = 0 := by omega
    have hdiv : (0 * 2 ^ f.fw + t) / 2 ^ f.fw = 0 := by rw [zero_mul, zero_add, Nat.div_eq_of_lt hlt]
    rw [hdiv, if_pos rfl, zero_mul, zero_add, Nat.mod_eq_of_lt hlt]
    rfl
  · obtain ⟨i, rfl⟩ : ∃ i, t = 2 ^ f.fw + i := ⟨t - 2 ^ f.fw, by omega⟩
    have hsum : j * 2 ^ f.fw + (2 ^ f.fw + i) = i + (j + 1) * 2 ^ f.fw := by ring
    rw [hsum, Nat.add_mul_div_right _ _ hP, Nat.add_mul_mod_self_right, if_neg (show i / 2 ^ f.fw + (j + 1) ≠ 0 from Nat.succ_ne_zero _)]
    rcases Nat.lt_or_ge i (2 ^ f.fw) with hi | hi
    · rw [Nat.div_eq_of_lt hi, Nat.mod_eq_of_lt hi, zero_add, max_eq_left (by omega), Nat.add_comm i]
    · obtain rfl : i = 2 ^ f.fw := by omega
      have hunit : ((1 + (j + 1) : ℕ) : ℤ) - f.bias - f.fw = ((j + 1 : ℕ) : ℤ) - f.bias - f.fw + 1 := by push_cast; ring
      rw [Nat.div_self hP, Nat.mod_self, max_eq_left (by omega), hunit, zpow_add_one₀ (by norm_num)]
      push_cast
      ring

theorem codeVal_succ (f : Fmt) (c : Nat) : codeVal f (c + 1) = codeVal f c + 2 ^ f.codeUnit c := by
  have h := codeVal_of_parts f (f.codeExp_pos c) (Nat.succ_le_of_lt (f.codeMant_lt c))
    ((f.le_codeMant_or c).imp_left Nat.le_succ_of_le)
  rw [Nat.succ_eq_add_one, ← add_assoc, f.code_eq] at h
  rw [h, codeVal, Fmt.codeUnit]
  push_cast
  ring

theorem codeVal_strictMono (f : Fmt) : StrictMono (codeVal f) :=
  strictMono_nat_of_lt_succ fun c => by rw [codeVal_succ]; exact lt_add_of_pos_right _ (by positivity)

@[simp] theorem codeVal_zero (f : Fmt) : codeVal f 0 = 0 := by simp [codeVal, Fmt.codeMant]

theorem codeVal_nonneg (f : Fmt) (c : Nat) : 0 ≤ codeVal f c := by unfold codeVal; positivity

theorem codeVal_lt_iff {f : Fmt} {a b : Nat} : codeVal f a < codeVal f b ↔ a < b := (codeVal_strictMono f).lt_iff_lt
theorem codeVal_le_iff {f : Fmt} {a b : Nat} : codeVal f a ≤ codeVal f b ↔ a ≤ b := (codeVal_strictMono f).le_iff_le
theorem codeVal_inj {f : Fmt} {a b : Nat} : codeVal f a = codeVal f b ↔ a = b := (codeVal_strictMono f).injective.eq_iff

theorem codeVal_pos {f : Fmt} {c : Nat} : 0 < codeVal f c ↔ 0 < c := by
  rw [← codeVal_zero f, codeVal_lt_iff]

/-- A significand that fits in a format, with an exponent no less than the least one, is the value of a code. -/
theorem exists_code (f : Fmt) {m : Nat} {e : ℤ} (hm : m < 2 ^ (f.fw + 1)) (he : 1 - (f.bias : ℤ) - f.fw ≤ e) :
    ∃ c, codeVal f c = m * 2 ^ e := by
  rcases Nat.eq_zero_or_pos m with rfl | hpos
  · exact ⟨0, by simp⟩
  have hlog := Nat.log2_lt (by omega : m ≠ 0) |>.2 hm
  have hself := Nat.log2_self_le (by omega : m ≠ 0)
  have hlt := Nat.lt_log2_self (n := m)
  obtain ⟨k, hk⟩ : ∃ k : ℕ, k = min (f.fw - m.log2) (e - (1 - (f.bias : ℤ) - f.fw)).toNat := ⟨_, rfl⟩
  obtain ⟨E, hE⟩ : ∃ E : ℕ, (E : ℤ) = e - k + f.bias + f.fw := ⟨(e - k + f.bias + f.fw).toNat, by omega⟩
  have hshift : m * 2 ^ k < 2 ^ (f.fw + 1) := calc
    m * 2 ^ k < 2 ^ (m.log2 + 1) * 2 ^ k := Nat.mul_lt_mul_of_pos_right hlt (Nat.two_pow_pos k)
    _ = 2 ^ (m.log2 + 1 + k) := (pow_add ..).symm
    _ ≤ 2 ^ (f.fw + 1) := Nat.pow_le_pow_right (by decide) (by omega)
  have hnormal : 2 ^ f.fw ≤ m * 2 ^ k ∨ E = 1 := by
    by_cases h : k = f.fw - m.log2
    · left
      calc 2 ^ f.fw = 2 ^ m.log2 * 2 ^ k := by rw [← pow_add]; congr 1; omega
        _ ≤ m * 2 ^ k := Nat.mul_le_mul_right _ hself
    · right; omega
  refine ⟨(E - 1) * 2 ^ f.fw + m * 2 ^ k, ?_⟩
  have hexp : (E : ℤ) - f.bias - f.fw = e - k := by omega
  rw [codeVal_of_parts f (by omega) hshift.le hnormal, hexp, zpow_sub₀ (by norm_num)]
  push_cast
  rw [zpow_natCast]
  field_simp

/-! What the bits of a pattern mean. -/

/-- The sign bit of a pattern. -/
def Fmt.sign (f : Fmt) (x : Nat) : Bool := hasBit x (f.ew + f.fw)

/-- The bits of a pattern below its sign. -/
def Fmt.code (f : Fmt) (x : Nat) : Nat := x % f.signBit

/-- A value with a sign. -/
def withSign (neg : Bool) (v : ℚ) : ℚ := if neg then -v else v

@[simp] theorem withSign_true (v : ℚ) : withSign true v = -v := rfl
@[simp] theorem withSign_false (v : ℚ) : withSign false v = v := rfl

@[simp] theorem withSign_zero (neg : Bool) : withSign neg 0 = 0 := by cases neg <;> simp

@[simp] theorem abs_withSign (neg : Bool) (v : ℚ) : |withSign neg v| = |v| := by cases neg <;> simp

@[simp] theorem withSign_eq_zero {neg : Bool} {v : ℚ} : withSign neg v = 0 ↔ v = 0 := by cases neg <;> simp

theorem withSign_inj {neg : Bool} {v w : ℚ} : withSign neg v = withSign neg w ↔ v = w := by cases neg <;> simp

theorem hasBit_iff (x k : Nat) : hasBit x k = true ↔ x / 2 ^ k % 2 = 1 := by
  rw [hasBit, Nat.testBit_eq_decide_div_mod_eq, decide_eq_true_iff]

section
variable (f : Fmt) (x : Nat)

theorem Fmt.sign_iff : f.sign x = true ↔ x / f.signBit % 2 = 1 := hasBit_iff ..

theorem Fmt.signBit_pos : 0 < f.signBit := Nat.two_pow_pos _

theorem Fmt.signBit_eq : f.signBit = 2 ^ f.fw * 2 ^ f.ew := by rw [signBit, add_comm, pow_add]

theorem Fmt.code_div : f.code x / 2 ^ f.fw = x / 2 ^ f.fw % 2 ^ f.ew := by
  rw [code, signBit_eq, Nat.mod_mul_right_div_self]

theorem Fmt.code_mod : f.code x % 2 ^ f.fw = x % 2 ^ f.fw := by
  rw [code, signBit_eq, Nat.mod_mul_right_mod]

/-- The value of a pattern is its code's, with its sign (R75). -/
theorem fpValue_eq : fpValue f x = withSign (f.sign x) (codeVal f (f.code x)) := by
  have hsign : (if x / f.signBit % 2 = 1 then (-1 : ℚ) else 1) = if f.sign x then -1 else 1 := by simp only [f.sign_iff]
  have hval : codeVal f (f.code x) =
      ((if x / 2 ^ f.fw % 2 ^ f.ew = 0 then x % 2 ^ f.fw else x % 2 ^ f.fw + 2 ^ f.fw : Nat) : ℚ) *
        2 ^ (((max (x / 2 ^ f.fw % 2 ^ f.ew) 1 : Nat) : ℤ) - f.bias - f.fw) := by
    rw [codeVal, Fmt.codeMant, Fmt.codeUnit, Fmt.codeExp, f.code_div, f.code_mod]
  unfold fpValue
  dsimp only
  rw [hsign, hval, withSign]
  split <;> ring

end

/-- The reading of a pattern, by its sign and its code (R75). -/
theorem unpack_eq (f : Fmt) (hew : 0 < f.ew) (x : Nat) : unpack f x =
    if f.hasNan && f.code x > (if f.hasInf then f.maxCode + 1 else f.maxCode) then .nan (f.sign x) (x % 2 ^ f.fw)
    else if f.hasInf && f.code x > f.maxCode then .inf (f.sign x)
    else .fin (f.sign x) (f.codeMant (f.code x)) (f.codeUnit (f.code x)) := by
  have hex : bits x (f.ew + f.fw - 1) f.fw = f.code x / 2 ^ f.fw := by
    have hwidth : f.ew + f.fw - 1 + 1 - f.fw = f.ew := by omega
    rw [f.code_div, bits, hwidth]
  have hfin : (if f.code x / 2 ^ f.fw == 0 then FVal.fin (hasBit x (f.ew + f.fw)) (x % 2 ^ f.fw) (1 - (f.bias : ℤ) - f.fw)
      else .fin (hasBit x (f.ew + f.fw)) (x % 2 ^ f.fw + 2 ^ f.fw) ((f.code x / 2 ^ f.fw : ℕ) - (f.bias : ℤ) - f.fw)) =
      .fin (f.sign x) (f.codeMant (f.code x)) (f.codeUnit (f.code x)) := by
    unfold Fmt.codeMant Fmt.codeUnit Fmt.codeExp
    rw [f.code_mod]
    by_cases h : f.code x / 2 ^ f.fw = 0
    · rw [h]
      rfl
    · rw [if_neg (by rwa [beq_iff_eq]), if_neg h, max_eq_left (Nat.pos_of_ne_zero h)]
      rfl
  unfold unpack
  dsimp only
  rw [hex, hfin]
  rfl

end Sys2Proof.Machine
end

section
/-! SUPPORT. Formats that are well made, and which patterns of theirs are finite, infinite and NaN (R75, R77). -/

namespace Sys2Proof.Machine

/-- A format with NaNs whose fields are not empty and whose largest finite code leaves room below the sign bit. -/
structure Fmt.Ok (f : Fmt) : Prop where
  fw_pos : 0 < f.fw
  ew_pos : 0 < f.ew
  nan : f.hasNan = true
  max_lt : f.maxCode + 1 < f.signBit

/-- A format with infinities, whose greatest exponent field is theirs and the NaNs'. -/
structure Fmt.Ieee (f : Fmt) : Prop extends Fmt.Ok f where
  inf : f.hasInf = true
  max_eq : f.maxCode + 1 = (2 ^ f.ew - 1) * 2 ^ f.fw

theorem ieee_f64 : f64.Ieee := ⟨⟨by decide, by decide, rfl, by decide⟩, rfl, by decide⟩
theorem ieee_f32 : f32.Ieee := ⟨⟨by decide, by decide, rfl, by decide⟩, rfl, by decide⟩
theorem ieee_f16 : f16.Ieee := ⟨⟨by decide, by decide, rfl, by decide⟩, rfl, by decide⟩
theorem ieee_bf16 : bf16.Ieee := ⟨⟨by decide, by decide, rfl, by decide⟩, rfl, by decide⟩
theorem ieee_e5m2 : e5m2.Ieee := ⟨⟨by decide, by decide, rfl, by decide⟩, rfl, by decide⟩
theorem ok_e4m3 : e4m3.Ok := ⟨by decide, by decide, rfl, by decide⟩

/-- The formats of the vector pipes. -/
theorem ieee_of_mem {f : Fmt} (h : f ∈ [f64, f32, f16, bf16]) : f.Ieee := by
  fin_cases h
  · exact ieee_f64
  · exact ieee_f32
  · exact ieee_f16
  · exact ieee_bf16

section
variable {f : Fmt} {x : Nat}

theorem Fmt.Ok.unpack_of_le (h : f.Ok) (hx : f.code x ≤ f.maxCode) :
    unpack f x = .fin (f.sign x) (f.codeMant (f.code x)) (f.codeUnit (f.code x)) := by
  rw [unpack_eq f h.ew_pos, if_neg, if_neg]
  · simp only [Bool.and_eq_true, decide_eq_true_eq, not_and]; omega
  · simp only [Bool.and_eq_true, decide_eq_true_eq, not_and]; split <;> omega

theorem Fmt.Ok.isFinite_iff (h : f.Ok) : isFinite f x = true ↔ f.code x ≤ f.maxCode := by
  refine ⟨fun hfin => ?_, fun hx => ?_⟩
  · by_contra hx
    unfold isFinite at hfin
    rw [unpack_eq f h.ew_pos, h.nan] at hfin
    cases hinf : f.hasInf
    · simp [hinf, Nat.lt_of_not_le hx] at hfin
    · rw [hinf] at hfin
      by_cases hnan : f.maxCode + 1 < f.code x
      · simp [hnan] at hfin
      · simp [hnan, Nat.lt_of_not_le hx] at hfin
  · unfold isFinite
    rw [h.unpack_of_le hx]

theorem Fmt.Ok.unpack_finite (h : f.Ok) (hx : isFinite f x = true) :
    unpack f x = .fin (f.sign x) (f.codeMant (f.code x)) (f.codeUnit (f.code x)) := h.unpack_of_le (h.isFinite_iff.1 hx)

theorem isNan_of_isFinite (hx : isFinite f x = true) : isNan f x = false := by
  unfold isFinite at hx
  unfold isNan
  split <;> simp_all

theorem Fmt.Ieee.unpack_inf (h : f.Ieee) (hx : f.code x = f.maxCode + 1) : unpack f x = .inf (f.sign x) := by
  rw [unpack_eq f h.ew_pos, h.inf, hx]
  simp

theorem Fmt.Ieee.unpack_nan (h : f.Ieee) (hx : f.maxCode + 1 < f.code x) : unpack f x = .nan (f.sign x) (x % 2 ^ f.fw) := by
  rw [unpack_eq f h.ew_pos, h.inf, h.nan]
  simp [hx]

theorem Fmt.Ieee.isNan_iff (h : f.Ieee) : isNan f x = true ↔ f.maxCode + 1 < f.code x := by
  unfold isNan
  rcases lt_trichotomy (f.code x) (f.maxCode + 1) with hx | hx | hx
  · rw [h.unpack_of_le (by omega)]; simp; omega
  · rw [h.unpack_inf hx]; simp [hx]
  · rw [h.unpack_nan hx]; simp [hx]

theorem Fmt.Ieee.isNan_false_iff (h : f.Ieee) : isNan f x = false ↔ f.code x ≤ f.maxCode + 1 := by
  rw [← Bool.not_eq_true, h.isNan_iff, not_lt]

theorem isSnan_eq_false (hx : isNan f x = false) : isSnan f x = false := by simp [isSnan, hx]

/-- A NaN's reading. -/
theorem unpack_of_isNan (hx : isNan f x = true) : ∃ s p, unpack f x = .nan s p := by
  unfold isNan at hx
  split at hx
  · exact ⟨_, _, by assumption⟩
  · cases hx

/-- The reading of a pattern that is no NaN: finite or infinite. -/
theorem Fmt.Ieee.unpack_cases (h : f.Ieee) (hx : isNan f x = false) :
    (f.code x ≤ f.maxCode ∧ unpack f x = .fin (f.sign x) (f.codeMant (f.code x)) (f.codeUnit (f.code x))) ∨
      (f.code x = f.maxCode + 1 ∧ unpack f x = .inf (f.sign x)) := by
  have := h.isNan_false_iff.1 hx
  rcases Nat.lt_or_ge f.maxCode (f.code x) with hlt | hle
  · exact .inr ⟨by omega, h.unpack_inf (by omega)⟩
  · exact .inl ⟨hle, h.unpack_of_le hle⟩

end

/-- An integer of a sign and a magnitude. -/
theorem cast_ite_neg (neg : Bool) (t : ℕ) : ((if neg then -(t : ℤ) else t : ℤ) : ℚ) = withSign neg t := by cases neg <;> simp

/-! Patterns made of a sign and a code. -/

section
variable (f : Fmt) (neg : Bool) {c : Nat} (hc : c < f.signBit)
include hc

theorem Fmt.code_signed : f.code (signed f neg c) = c := by
  unfold code signed
  split
  · rw [Nat.add_mod_right, Nat.mod_eq_of_lt hc]
  · exact Nat.mod_eq_of_lt hc

theorem signed_div : signed f neg c / f.signBit = neg.toNat := by
  unfold signed
  cases neg
  · exact Nat.div_eq_of_lt hc
  · rw [if_pos rfl, Nat.add_div_right _ f.signBit_pos, Nat.div_eq_of_lt hc]
    rfl

theorem Fmt.sign_signed : f.sign (signed f neg c) = neg := by
  rw [Bool.eq_iff_iff, f.sign_iff, signed_div f neg hc]
  cases neg <;> simp

theorem fpValue_signed : fpValue f (signed f neg c) = withSign neg (codeVal f c) := by
  rw [fpValue_eq, f.sign_signed neg hc, f.code_signed neg hc]

end

theorem Fmt.Ok.signBit_even {f : Fmt} (h : f.Ok) : f.signBit % 2 = 0 := by
  have := h.ew_pos
  obtain ⟨k, hk⟩ : ∃ k, f.ew + f.fw = k + 1 := ⟨f.ew + f.fw - 1, by omega⟩
  rw [signBit, hk, pow_succ]
  omega

theorem Fmt.Ok.signed_mod_two {f : Fmt} (h : f.Ok) (neg : Bool) (c : Nat) : signed f neg c % 2 = c % 2 := by
  have := h.signBit_even
  unfold signed
  split <;> omega

end Sys2Proof.Machine
end

section
/-! SUPPORT. What round() makes of a positive exact value (R14, R80): the code of the value below it or of the next one, as the mode says. -/

namespace Sys2Proof.Machine

/-- A magnitude some part of a unit above a number of units is raised to the next (R79). -/
def RaisesBy (mode : Nat) (neg : Bool) (part : ℚ) (q : Nat) : Prop :=
  (mode = 0 ∧ (1 / 2 < part ∨ part = 1 / 2 ∧ q % 2 = 1)) ∨ (mode = 2 ∧ 0 < part ∧ neg = false) ∨ (3 ≤ mode ∧ 0 < part ∧ neg = true)

section
variable {neg : Bool} {part : ℚ} {q : Nat}

theorem raisesBy_zero : RaisesBy 0 neg part q ↔ 1 / 2 < part ∨ part = 1 / 2 ∧ q % 2 = 1 := by simp [RaisesBy]

theorem not_raisesBy_one : ¬ RaisesBy 1 neg part q := by simp [RaisesBy]

theorem raisesBy_two : RaisesBy 2 neg part q ↔ 0 < part ∧ neg = false := by simp [RaisesBy]

theorem raisesBy_three : RaisesBy 3 neg part q ↔ 0 < part ∧ neg = true := by simp [RaisesBy]

end

theorem roundUp_iff (mode : Nat) (neg : Bool) (q r : Nat) {d : Nat} (hd : 0 < d) :
    roundUp mode neg q r d = true ↔ RaisesBy mode neg ((r : ℚ) / d) q := by
  have hd' : (0 : ℚ) < d := by exact_mod_cast hd
  have hhalf : (1 / 2 : ℚ) < (r : ℚ) / d ↔ d < 2 * r := by
    rw [div_lt_div_iff₀ two_pos hd', one_mul, mul_comm]
    exact_mod_cast Iff.rfl
  have htie : (r : ℚ) / d = 1 / 2 ↔ 2 * r = d := by
    rw [div_eq_div_iff hd'.ne' two_ne_zero, one_mul, mul_comm]
    exact_mod_cast Iff.rfl
  have hpos : (0 : ℚ) < (r : ℚ) / d ↔ 0 < r := by
    rw [div_pos_iff_of_pos_right hd']
    exact_mod_cast Iff.rfl
  unfold RaisesBy roundUp
  rw [hhalf, htie, hpos]
  rcases Nat.eq_zero_or_pos r with rfl | hr
  · simp; omega
  · rw [if_neg (by simpa using hr.ne')]
    match mode with
    | 0 => simp
    | 1 => simp
    | 2 => simp [hr]
    | k + 3 => simp [hr]

/-- A ratio is its integer part and a part of 1. -/
theorem ratio_split (a : Nat) {d : Nat} (hd : 0 < d) :
    (a : ℚ) / d = (a / d : ℕ) + ((a % d : ℕ) : ℚ) / d ∧ 0 ≤ ((a % d : ℕ) : ℚ) / d ∧ ((a % d : ℕ) : ℚ) / d < 1 := by
  have hd' : (0 : ℚ) < d := by exact_mod_cast hd
  have h : (d : ℚ) * (a / d : ℕ) + (a % d : ℕ) = a := by exact_mod_cast Nat.div_add_mod a d
  refine ⟨?_, by positivity, ?_⟩
  · rw [div_eq_iff hd'.ne', add_mul, div_mul_cancel₀ _ hd'.ne', ← h, mul_comm]
  · rw [div_lt_one hd']
    exact_mod_cast Nat.mod_lt _ hd

/-- A ratio rounded to an integer as the mode says (R79). -/
def roundMant (mode : Nat) (neg : Bool) (num den : Nat) : Nat :=
  if roundUp mode neg (num / den) (num % den) den then num / den + 1 else num / den

theorem roundMant_cases (mode : Nat) (neg : Bool) (num : Nat) {den : Nat} (hden : 0 < den) :
    (RaisesBy mode neg (((num % den : ℕ) : ℚ) / den) (num / den) ∧ roundMant mode neg num den = num / den + 1) ∨
      (¬ RaisesBy mode neg (((num % den : ℕ) : ℚ) / den) (num / den) ∧ roundMant mode neg num den = num / den) := by
  rw [← roundUp_iff mode neg _ _ hden, roundMant]
  by_cases h : roundUp mode neg (num / den) (num % den) den = true
  · exact .inl ⟨h, if_pos h⟩
  · exact .inr ⟨h, if_neg h⟩

/-- The floor of the binary logarithm of a ratio, as round() finds it. -/
def ratioLog (n d : Nat) : ℤ :=
  let l0 : ℤ := (Nat.log2 n : ℤ) - Nat.log2 d
  if (if l0 ≥ 0 then n < d * 2 ^ l0.toNat else n * 2 ^ (-l0).toNat < d) then l0 - 1 else l0

theorem two_zpow_toNat {k : ℤ} (hk : 0 ≤ k) : (2 : ℚ) ^ k.toNat = 2 ^ k := by
  rw [← zpow_natCast, Int.toNat_of_nonneg hk]

theorem two_zpow_le_two_zpow {j k : ℤ} : (2 : ℚ) ^ j ≤ 2 ^ k ↔ j ≤ k := zpow_le_zpow_iff_right₀ (by norm_num)
theorem two_zpow_lt_two_zpow {j k : ℤ} : (2 : ℚ) ^ j < 2 ^ k ↔ j < k := zpow_lt_zpow_iff_right₀ (by norm_num)

theorem log2_bounds {n : Nat} (hn : 0 < n) : (2 : ℚ) ^ (n.log2 : ℤ) ≤ n ∧ (n : ℚ) < 2 ^ ((n.log2 : ℤ) + 1) := by
  constructor
  · rw [zpow_natCast]; exact_mod_cast Nat.log2_self_le hn.ne'
  · have h := Nat.lt_log2_self (n := n)
    exact_mod_cast h

theorem ratioLog_bounds {n d : Nat} (hn : 0 < n) (hd : 0 < d) :
    (2 : ℚ) ^ ratioLog n d ≤ (n : ℚ) / d ∧ (n : ℚ) / d < 2 ^ (ratioLog n d + 1) := by
  have hd' : (0 : ℚ) < d := by exact_mod_cast hd
  obtain ⟨hn1, hn2⟩ := log2_bounds hn
  obtain ⟨hd1, hd2⟩ := log2_bounds hd
  obtain ⟨l0, hl0⟩ : ∃ l0 : ℤ, l0 = (Nat.log2 n : ℤ) - Nat.log2 d := ⟨_, rfl⟩
  have hlo : (2 : ℚ) ^ (l0 - 1) ≤ (n : ℚ) / d := by
    rw [le_div_iff₀ hd']
    calc (2 : ℚ) ^ (l0 - 1) * d ≤ 2 ^ (l0 - 1) * 2 ^ ((d.log2 : ℤ) + 1) := by gcongr
      _ = 2 ^ (n.log2 : ℤ) := by rw [← zpow_add₀ (by norm_num)]; congr 1; omega
      _ ≤ n := hn1
  have hhi : (n : ℚ) / d < 2 ^ (l0 + 1) := by
    rw [div_lt_iff₀ hd']
    calc (n : ℚ) < 2 ^ ((n.log2 : ℤ) + 1) := hn2
      _ = 2 ^ (l0 + 1) * 2 ^ (d.log2 : ℤ) := by rw [← zpow_add₀ (by norm_num)]; congr 1; omega
      _ ≤ 2 ^ (l0 + 1) * d := by gcongr
  have hbelow : (if l0 ≥ 0 then n < d * 2 ^ l0.toNat else n * 2 ^ (-l0).toNat < d) ↔ (n : ℚ) / d < 2 ^ l0 := by
    rw [div_lt_iff₀ hd']
    split
    · rename_i h
      rw [← two_zpow_toNat h, mul_comm]
      exact_mod_cast Iff.rfl
    · rename_i h
      have hinv : (2 : ℚ) ^ l0 = (2 ^ (-l0).toNat)⁻¹ := by rw [two_zpow_toNat (by omega), zpow_neg, inv_inv]
      rw [hinv, inv_mul_eq_div, lt_div_iff₀ (by positivity)]
      exact_mod_cast Iff.rfl
  unfold ratioLog
  dsimp only
  rw [← hl0]
  by_cases h : (n : ℚ) / d < 2 ^ l0
  · rw [if_pos (hbelow.2 h), sub_add_cancel]
    exact ⟨hlo, h⟩
  · rw [if_neg (hbelow.not.2 h)]
    exact ⟨not_lt.1 h, hhi⟩

/-- The exponent of the last place to which round() rounds n/d · 2^e. -/
def Fmt.roundUnit (f : Fmt) (n d : Nat) (e : ℤ) : ℤ :=
  (if ratioLog n d + e < 1 - (f.bias : ℤ) then 1 - (f.bias : ℤ) else ratioLog n d + e) - f.fw

/-- The code of a significand in units of an exponent. -/
def Fmt.codeAt (f : Fmt) (q : ℤ) (t : Nat) : ℤ :=
  if t < 2 ^ f.fw then (t : ℤ) else (q + f.fw + f.bias) * ((2 ^ f.fw : Nat) : ℤ) + t - ((2 ^ f.fw : Nat) : ℤ)

/-- round() by its parts: the value as a ratio of units, its significand, its code, and the flags (R80). -/
theorem roundMag_parts (f : Fmt) (mode : Nat) (neg : Bool) (n : Nat) {d : Nat} (e : ℤ) (hd : 0 < d) :
    ∃ num den : Nat, 0 < den ∧ (num : ℚ) / den * 2 ^ f.roundUnit n d e = n / d * 2 ^ e ∧
      roundMag f mode neg n d e =
        if f.codeAt (f.roundUnit n d e) (roundMant mode neg num den) > (f.maxCode : ℤ) then
          (signed f neg (overflowCode f mode neg), flagOF ||| flagNX)
        else (signed f neg (f.codeAt (f.roundUnit n d e) (roundMant mode neg num den)).toNat,
          (if num % den != 0 then flagNX else 0) |||
            (if num % den != 0 && decide (ratioLog n d + e < 1 - (f.bias : ℤ)) then flagUF else 0)) := by
  obtain ⟨sh, hsh⟩ : ∃ sh : ℤ, sh = e - f.roundUnit n d e := ⟨_, rfl⟩
  have hd' : (d : ℚ) ≠ 0 := by exact_mod_cast hd.ne'
  have hsplit : (2 : ℚ) ^ e = 2 ^ sh * 2 ^ f.roundUnit n d e := by
    rw [hsh, ← zpow_add₀ (by norm_num), sub_add_cancel]
  refine ⟨if sh ≥ 0 then n * 2 ^ sh.toNat else n, if sh ≥ 0 then d else d * 2 ^ (-sh).toNat, ?_, ?_, ?_⟩
  · split
    · exact hd
    · exact Nat.mul_pos hd (Nat.two_pow_pos _)
  · rw [hsplit, ← mul_assoc]
    congr 1
    split
    · rename_i h
      push_cast
      rw [two_zpow_toNat h]
      ring
    · rename_i h
      have hinv : (2 : ℚ) ^ sh = (2 ^ (-sh).toNat)⁻¹ := by rw [two_zpow_toNat (by omega), zpow_neg, inv_inv]
      push_cast
      rw [hinv]
      field_simp
  · subst hsh
    rfl

/-- The code c that a mode makes of a magnitude v with a sign; b is the code of the greatest value not above v (R79). -/
structure RoundsCode (f : Fmt) (mode : Nat) (neg : Bool) (v : ℚ) (b c : Nat) : Prop where
  le : codeVal f b ≤ v
  lt : v < codeVal f (b + 1)
  code : (RaisesBy mode neg ((v - codeVal f b) / (codeVal f (b + 1) - codeVal f b)) b ∧ c = b + 1) ∨
    (¬ RaisesBy mode neg ((v - codeVal f b) / (codeVal f (b + 1) - codeVal f b)) b ∧ c = b)

theorem RaisesBy.congr_parity {mode : Nat} {neg : Bool} {part : ℚ} {q q' : Nat} (h : q % 2 = q' % 2) :
    RaisesBy mode neg part q ↔ RaisesBy mode neg part q' := by
  unfold RaisesBy
  rw [h]

/-- The exponent field of the unit to which round() rounds: at least the least normal's. -/
theorem Fmt.exists_unit_exp (f : Fmt) (n d : Nat) (e : ℤ) : ∃ E : ℕ, 1 ≤ E ∧ (E : ℤ) = f.roundUnit n d e + f.fw + f.bias := by
  refine ⟨(f.roundUnit n d e + f.fw + f.bias).toNat, ?_, ?_⟩ <;> unfold roundUnit <;> split <;> omega

/-- The binade of n/d · 2^e. -/
theorem ratioLog_value_bounds {n d : Nat} (e : ℤ) (hn : 0 < n) (hd : 0 < d) :
    (2 : ℚ) ^ (ratioLog n d + e) ≤ n / d * 2 ^ e ∧ (n : ℚ) / d * 2 ^ e < 2 ^ (ratioLog n d + e + 1) := by
  obtain ⟨hlo, hhi⟩ := ratioLog_bounds hn hd
  constructor
  · rw [zpow_add₀ (by norm_num)]
    exact mul_le_mul_of_nonneg_right hlo (by positivity)
  · rw [add_right_comm, zpow_add₀ (by norm_num)]
    exact mul_lt_mul_of_pos_right hhi (by positivity)

/-- The units in a value fit in the significand, and fill it unless the value is subnormal. -/
theorem Fmt.unit_count_bounds (f : Fmt) {n d t E : Nat} {e : ℤ} (hn : 0 < n) (hd : 0 < d)
    (hE : (E : ℤ) = f.roundUnit n d e + f.fw + f.bias) (hlo : (t : ℚ) * 2 ^ f.roundUnit n d e ≤ n / d * 2 ^ e)
    (hhi : (n : ℚ) / d * 2 ^ e < (t + 1) * 2 ^ f.roundUnit n d e) : t < 2 ^ (f.fw + 1) ∧ (2 ^ f.fw ≤ t ∨ E = 1) := by
  obtain ⟨hvlo, hvhi⟩ := ratioLog_value_bounds e hn hd
  have hunit : (0 : ℚ) < 2 ^ f.roundUnit n d e := by positivity
  have hdef : f.roundUnit n d e =
      (if ratioLog n d + e < 1 - (f.bias : ℤ) then 1 - (f.bias : ℤ) else ratioLog n d + e) - f.fw := rfl
  constructor
  · have h : (t : ℚ) * 2 ^ f.roundUnit n d e < 2 ^ (f.fw + 1) * 2 ^ f.roundUnit n d e := calc
      (t : ℚ) * 2 ^ f.roundUnit n d e ≤ n / d * 2 ^ e := hlo
      _ < 2 ^ (ratioLog n d + e + 1) := hvhi
      _ ≤ 2 ^ ((f.fw : ℤ) + 1 + f.roundUnit n d e) := by rw [two_zpow_le_two_zpow]; split at hdef <;> omega
      _ = 2 ^ (f.fw + 1) * 2 ^ f.roundUnit n d e := by rw [zpow_add₀ (by norm_num)]; norm_cast
    exact_mod_cast lt_of_mul_lt_mul_right h hunit.le
  · by_cases hsub : ratioLog n d + e < 1 - (f.bias : ℤ)
    · right
      rw [if_pos hsub] at hdef
      omega
    · left
      rw [if_neg hsub] at hdef
      have h : (2 : ℚ) ^ f.fw * 2 ^ f.roundUnit n d e < (t + 1) * 2 ^ f.roundUnit n d e := calc
        (2 : ℚ) ^ f.fw * 2 ^ f.roundUnit n d e = 2 ^ (ratioLog n d + e) := by
          rw [← zpow_natCast, ← zpow_add₀ (by norm_num)]; congr 1; omega
        _ ≤ n / d * 2 ^ e := hvlo
        _ < (t + 1) * 2 ^ f.roundUnit n d e := hhi
      have h' : 2 ^ f.fw < t + 1 := by exact_mod_cast lt_of_mul_lt_mul_right h hunit.le
      omega

/-- The code of a significand no less than one that fills its unit's binade, or is subnormal. -/
theorem Fmt.codeAt_eq (f : Fmt) {q : ℤ} {E t u : Nat} (h1 : 1 ≤ E) (hE : (E : ℤ) = q + f.fw + f.bias) (hn : 2 ^ f.fw ≤ t ∨ E = 1)
    (hu : t ≤ u) : f.codeAt q u = ((E - 1) * 2 ^ f.fw + u : ℕ) := by
  obtain ⟨j, hj⟩ : ∃ j, E = j + 1 := ⟨E - 1, by omega⟩
  unfold codeAt
  rw [← hE, hj, Nat.add_sub_cancel]
  split
  · obtain rfl : j = 0 := by omega
    simp
  · push_cast
    ring

/-- round() of a positive exact value: its code under the mode, or the overflow result, with the flags (R80). -/
theorem roundMag_eq {f : Fmt} (hfw : 0 < f.fw) (mode : Nat) (neg : Bool) {n d : Nat} (e : ℤ) (hn : 0 < n) (hd : 0 < d) :
    ∃ b c, RoundsCode f mode neg (n / d * 2 ^ e) b c ∧ roundMag f mode neg n d e =
      if f.maxCode < c then (signed f neg (overflowCode f mode neg), flagOF ||| flagNX)
      else (signed f neg c, (if codeVal f b = n / d * 2 ^ e then 0 else flagNX) |||
        (if codeVal f b ≠ n / d * 2 ^ e ∧ (n : ℚ) / d * 2 ^ e < 2 ^ (1 - (f.bias : ℤ)) then flagUF else 0)) := by
  obtain ⟨num, den, hden, hval, heq⟩ := roundMag_parts f mode neg n e hd
  obtain ⟨hvlo, hvhi⟩ := ratioLog_value_bounds e hn hd
  obtain ⟨E, hE1, hE⟩ := f.exists_unit_exp n d e
  obtain ⟨hsplit, hpart0, hpart1⟩ := ratio_split num hden
  have hmant := roundMant_cases mode neg num hden
  generalize hq : f.roundUnit n d e = q at hval heq hE
  generalize hv : (n : ℚ) / d * 2 ^ e = v at hval hvlo hvhi
  generalize ht : num / den = t at hsplit hmant
  have hunit : (0 : ℚ) < 2 ^ q := by positivity
  have hden' : (den : ℚ) ≠ 0 := by exact_mod_cast hden.ne'
  have hvt : v = (t + ((num % den : ℕ) : ℚ) / den) * 2 ^ q := by rw [← hval, hsplit]
  have hlo : (t : ℚ) * 2 ^ q ≤ v := by rw [hvt]; gcongr; linarith
  have hhi : v < (t + 1) * 2 ^ q := by rw [hvt]; gcongr
  obtain ⟨htlt, htge⟩ : t < 2 ^ (f.fw + 1) ∧ (2 ^ f.fw ≤ t ∨ E = 1) := by
    subst hq hv
    exact f.unit_count_bounds hn hd hE hlo hhi
  -- t units and t + 1 are the values of neighbouring codes
  have hexp : (E : ℤ) - f.bias - f.fw = q := by omega
  have hb := codeVal_of_parts f hE1 htlt.le htge
  have hb1 := codeVal_of_parts f hE1 (Nat.succ_le_of_lt htlt) (htge.imp_left Nat.le_succ_of_le)
  rw [hexp] at hb hb1
  rw [Nat.succ_eq_add_one, ← Nat.add_assoc] at hb1
  push_cast at hb1
  have hpart : (v - codeVal f ((E - 1) * 2 ^ f.fw + t)) /
      (codeVal f ((E - 1) * 2 ^ f.fw + t + 1) - codeVal f ((E - 1) * 2 ^ f.fw + t)) = ((num % den : ℕ) : ℚ) / den := by
    rw [hb1, hb, hvt]
    field_simp
    ring
  have hparity : ((E - 1) * 2 ^ f.fw + t) % 2 = t % 2 := by
    obtain ⟨k, hk⟩ : ∃ k, f.fw = k + 1 := ⟨f.fw - 1, by omega⟩
    rw [hk, pow_succ, ← mul_assoc]
    omega
  have hexact : codeVal f ((E - 1) * 2 ^ f.fw + t) = v ↔ num % den = 0 := by
    rw [hb, hvt, mul_eq_mul_right_iff, or_iff_left hunit.ne', left_eq_add, div_eq_zero_iff, or_iff_left hden']
    exact_mod_cast Iff.rfl
  have htiny : v < 2 ^ (1 - (f.bias : ℤ)) ↔ ratioLog n d + e < 1 - (f.bias : ℤ) :=
    ⟨fun h => two_zpow_lt_two_zpow.1 (hvlo.trans_lt h), fun h => hvhi.trans_le (two_zpow_le_two_zpow.2 (by omega))⟩
  refine ⟨(E - 1) * 2 ^ f.fw + t, (E - 1) * 2 ^ f.fw + roundMant mode neg num den, ⟨hb.trans_le hlo, hhi.trans_eq hb1.symm, ?_⟩, ?_⟩
  · rw [hpart, RaisesBy.congr_parity hparity]
    exact hmant.imp (fun h => ⟨h.1, by rw [h.2, Nat.add_assoc]⟩) (fun h => ⟨h.1, by rw [h.2]⟩)
  · have hge : t ≤ roundMant mode neg num den := by rcases hmant with h | h <;> omega
    have hflags : (if num % den != 0 then flagNX else 0) |||
        (if num % den != 0 && decide (ratioLog n d + e < 1 - (f.bias : ℤ)) then flagUF else 0) =
        (if codeVal f ((E - 1) * 2 ^ f.fw + t) = v then 0 else flagNX) |||
          (if codeVal f ((E - 1) * 2 ^ f.fw + t) ≠ v ∧ v < 2 ^ (1 - (f.bias : ℤ)) then flagUF else 0) := by
      by_cases h : num % den = 0
      · simp [h, hexact.2 h]
      · simp [h, hexact.not.2 h, htiny]
    rw [heq, f.codeAt_eq hE1 hE htge hge, Int.toNat_natCast, hflags]
    simp only [gt_iff_lt, Nat.cast_lt]

end Sys2Proof.Machine
end

section
/-! SUPPORT. What the code that a mode makes of a magnitude is worth (R79, R80): it is the value's where a code has that, it is no further than
any bound that is a code's value, and under RNE the middles on both sides of it enclose the value. -/

namespace Sys2Proof.Machine

section
variable {f : Fmt} {mode : Nat} {neg : Bool} {v : ℚ} {b c k : Nat} (h : RoundsCode f mode neg v b c)

theorem codeVal_lt_succ (f : Fmt) (b : Nat) : codeVal f b < codeVal f (b + 1) := codeVal_lt_iff.2 (Nat.lt_succ_self b)

theorem raisesBy_pos {part : ℚ} {q : Nat} (hr : RaisesBy mode neg part q) : 0 < part := by
  rcases hr with ⟨-, hr | ⟨hr, -⟩⟩ | ⟨-, hr, -⟩ | ⟨-, hr, -⟩ <;> linarith

include h

theorem RoundsCode.eq_or_eq_succ : c = b ∨ c = b + 1 := h.code.elim (fun hc => .inr hc.2) (fun hc => .inl hc.2)

/-- A raised code is above the value, and the code below it is not the value's. -/
theorem RoundsCode.lt_of_raised (hc : c = b + 1) : codeVal f b < v := by
  rcases h.code with ⟨hr, -⟩ | ⟨-, rfl⟩
  · have hpos := raisesBy_pos hr
    rw [div_pos_iff_of_pos_right (sub_pos.2 (codeVal_lt_succ f b))] at hpos
    linarith
  · omega

theorem RoundsCode.exact_iff : codeVal f c = v ↔ codeVal f b = v := by
  rcases h.eq_or_eq_succ with rfl | hc
  · exact Iff.rfl
  · have hlt := h.lt_of_raised hc
    have hgt := h.lt
    rw [← hc] at hgt
    exact ⟨fun h => absurd h hgt.ne', fun h => absurd h hlt.ne⟩

theorem RoundsCode.le_base (hk : codeVal f k ≤ v) : k ≤ b :=
  Nat.lt_succ_iff.1 (codeVal_lt_iff.1 (hk.trans_lt h.lt))

theorem RoundsCode.code_le (hk : v ≤ codeVal f k) : c ≤ k := by
  rcases h.eq_or_eq_succ with rfl | hc
  · exact codeVal_le_iff.1 (h.le.trans hk)
  · have := codeVal_lt_iff.1 ((h.lt_of_raised hc).trans_le hk)
    omega

theorem RoundsCode.le_code (hk : codeVal f k ≤ v) : k ≤ c := by
  have := h.le_base hk
  rcases h.eq_or_eq_succ with rfl | rfl <;> omega

theorem RoundsCode.base_of_exact (hk : codeVal f k = v) : b = k ∧ c = k := by
  have hc : c = k := le_antisymm (h.code_le hk.ge) (h.le_code hk.le)
  exact ⟨le_antisymm (codeVal_le_iff.1 (h.le.trans hk.ge)) (h.le_base hk.le), hc⟩

end

/-- The middle between a code's value and the next is where RNE raises, to an even code from the middle itself (R79). -/
theorem raisesBy_nearest_iff {f : Fmt} {neg : Bool} {v : ℚ} {b : Nat} :
    RaisesBy 0 neg ((v - codeVal f b) / (codeVal f (b + 1) - codeVal f b)) b ↔
      codeVal f b + codeVal f (b + 1) < 2 * v ∨ codeVal f b + codeVal f (b + 1) = 2 * v ∧ b % 2 = 1 := by
  have hpos := sub_pos.2 (codeVal_lt_succ f b)
  have hlt : 1 / 2 < (v - codeVal f b) / (codeVal f (b + 1) - codeVal f b) ↔ codeVal f b + codeVal f (b + 1) < 2 * v := by
    rw [lt_div_iff₀ hpos]
    constructor <;> intro h <;> linarith
  have heq : (v - codeVal f b) / (codeVal f (b + 1) - codeVal f b) = 1 / 2 ↔ codeVal f b + codeVal f (b + 1) = 2 * v := by
    rw [div_eq_iff hpos.ne']
    constructor <;> intro h <;> linarith
  rw [raisesBy_zero, hlt, heq]

section
variable {f : Fmt} {neg : Bool} {v : ℚ} {b c k : Nat} (h : RoundsCode f 0 neg v b c)
include h

/-- Under RNE twice the value is no more than the code's value and the next, and an odd code does not stand for that middle. -/
theorem RoundsCode.le_middle_above : 2 * v ≤ codeVal f c + codeVal f (c + 1) ∧
    (2 * v = codeVal f c + codeVal f (c + 1) → c % 2 = 0) := by
  have hlt := h.lt
  rcases h.code with ⟨hr, rfl⟩ | ⟨hr, rfl⟩
  · have := codeVal_lt_succ f (b + 1)
    exact ⟨by linarith, fun _ => by linarith⟩
  · rw [raisesBy_nearest_iff] at hr
    push Not at hr
    exact ⟨hr.1, fun heq => by have := hr.2 heq.symm; omega⟩

/-- Under RNE twice the value is no less than the code's value and the one below, and an odd code does not stand for that middle. -/
theorem RoundsCode.middle_below_le (hk : k + 1 = c) : codeVal f k + codeVal f c ≤ 2 * v ∧
    (2 * v = codeVal f k + codeVal f c → c % 2 = 0) := by
  have hle := h.le
  rcases h.code with ⟨hr, rfl⟩ | ⟨hr, rfl⟩
  · obtain rfl : k = b := by omega
    rw [raisesBy_nearest_iff] at hr
    exact ⟨hr.elim le_of_lt fun h => h.1.le, fun heq => by rcases hr with hr | hr <;> [linarith; omega]⟩
  · subst hk
    have := codeVal_lt_succ f k
    exact ⟨by linarith, fun _ => by linarith⟩

/-- Which values RNE takes to a code or below. -/
theorem RoundsCode.le_iff : c ≤ k ↔ 2 * v < codeVal f k + codeVal f (k + 1) ∨ (2 * v = codeVal f k + codeVal f (k + 1) ∧ k % 2 = 0) := by
  constructor
  · intro hck
    obtain ⟨hle, heven⟩ := h.le_middle_above
    rcases hck.lt_or_eq with hlt | rfl
    · have h1 := codeVal_le_iff (f := f).2 (Nat.succ_le_of_lt hlt)
      have h2 := codeVal_lt_succ f k
      have h3 := codeVal_lt_iff (f := f).2 hlt
      rw [Nat.succ_eq_add_one] at h1
      left; linarith
    · exact hle.lt_or_eq.imp_right fun heq => ⟨heq, heven heq⟩
  · intro hv
    by_contra hck
    obtain ⟨j, rfl⟩ : ∃ j, c = j + 1 := ⟨c - 1, by omega⟩
    obtain ⟨hle, heven⟩ := h.middle_below_le (k := j) rfl
    have h1 := codeVal_le_iff (f := f).2 (by omega : k ≤ j)
    have h2 := codeVal_le_iff (f := f).2 (by omega : k + 1 ≤ j + 1)
    rcases hv with hv | ⟨heq, hk⟩
    · linarith
    · have hkj : codeVal f k = codeVal f j := by linarith
      have := codeVal_inj.1 hkj
      have := heven (by linarith)
      omega

end

/-! The pattern that a rounding gives, as R14 and R79 have it. -/

/-- An exact value is what every mode makes of itself. -/
theorem rounds_of_eq {f : Fmt} {v : ℚ} {r : Nat} (mode : Nat) (h : fpValue f r = v) : Rounds f mode v r := by
  subst h
  refine ⟨fun _ => ⟨le_rfl, mul_self_nonneg _⟩, fun _ => le_rfl, fun _ => le_rfl, fun y _ =>
    ⟨fun _ => ⟨by simp, fun heq hne => absurd heq ?_⟩, fun _ h _ => h, fun _ h => h, fun _ h => h⟩⟩
  rw [sub_self, abs_zero, eq_comm, abs_eq_zero, sub_eq_zero]
  exact hne

theorem withSign_bne (neg s : Bool) (v : ℚ) : withSign neg (withSign s v) = withSign (neg != s) v := by cases neg <;> cases s <;> simp

/-- A finite pattern's magnitude is the value of a code, so none lies between a code's value and the next. -/
theorem withSign_fpValue_gap (f : Fmt) (neg : Bool) (y b : Nat) :
    withSign neg (fpValue f y) ≤ codeVal f b ∨ codeVal f (b + 1) ≤ withSign neg (fpValue f y) := by
  have hb := codeVal_nonneg f b
  have hy := codeVal_nonneg f (f.code y)
  have hgap : codeVal f (f.code y) ≤ codeVal f b ∨ codeVal f (b + 1) ≤ codeVal f (f.code y) := by
    rw [codeVal_le_iff, codeVal_le_iff]; omega
  rw [fpValue_eq, withSign_bne]
  cases neg != f.sign y
  · exact hgap
  · exact .inl (by rw [withSign_true]; linarith)

theorem abs_fpValue (f : Fmt) (y : Nat) : |fpValue f y| = codeVal f (f.code y) := by
  rw [fpValue_eq, abs_withSign, abs_of_nonneg (codeVal_nonneg f _)]

theorem withSign_withSign (neg : Bool) (v : ℚ) : withSign neg (withSign neg v) = v := by cases neg <;> simp

theorem withSign_sub (neg : Bool) (v w : ℚ) : withSign neg v - withSign neg w = withSign neg (v - w) := by
  cases neg <;> simp; ring

/-- The distance of a pattern from a value with a sign. -/
theorem abs_sub_withSign (neg : Bool) (w v : ℚ) : |w - withSign neg v| = |withSign neg w - v| := by
  rw [← abs_withSign neg (w - _), ← withSign_sub, withSign_withSign]

section
variable {f : Fmt} {mode : Nat} {neg : Bool} {v : ℚ} {b c : Nat}

/-- The nearest value, of two the even code's (R79). -/
theorem RoundsCode.nearest (h : RoundsCode f 0 neg v b c) {w : ℚ} (hgap : w ≤ codeVal f b ∨ codeVal f (b + 1) ≤ w) :
    |codeVal f c - v| ≤ |w - v| ∧ (|codeVal f c - v| = |w - v| → w ≠ codeVal f c → c % 2 = 0) := by
  have hle := h.le
  have hlt := h.lt
  rcases h.code with ⟨hr, rfl⟩ | ⟨hr, rfl⟩ <;> rw [raisesBy_nearest_iff] at hr
  · have hr' : codeVal f b + codeVal f (b + 1) ≤ 2 * v := hr.elim le_of_lt fun h => h.1.le
    rw [abs_of_pos (sub_pos.2 hlt)]
    rcases hgap with hw | hw
    · rw [abs_of_nonpos (by linarith)]
      exact ⟨by linarith, fun heq _ => by rcases hr with hr | hr <;> [linarith; omega]⟩
    · rw [abs_of_nonneg (by linarith)]
      exact ⟨by linarith, fun heq hne => absurd (by linarith) hne⟩
  · push Not at hr
    rw [abs_of_nonpos (sub_nonpos.2 hle)]
    rcases hgap with hw | hw
    · rw [abs_of_nonpos (by linarith)]
      exact ⟨by linarith, fun heq hne => absurd (by linarith) hne⟩
    · rw [abs_of_nonneg (by linarith)]
      exact ⟨by linarith, fun heq _ => by have := hr.2 (by linarith); omega⟩

/-- A mode that rounds toward zero, or away from a value's side, takes the code below (R79). -/
theorem RoundsCode.eq_base (h : RoundsCode f mode neg v b c) (hmode : mode = 1 ∨ (mode = 2 ∧ neg = true) ∨ (mode = 3 ∧ neg = false)) :
    c = b := by
  rcases h.code with ⟨hr, -⟩ | ⟨-, hc⟩
  · rcases hmode with rfl | ⟨rfl, rfl⟩ | ⟨rfl, rfl⟩
    · exact absurd hr not_raisesBy_one
    · exact absurd (raisesBy_two.1 hr).2 (by decide)
    · exact absurd (raisesBy_three.1 hr).2 (by decide)
  · exact hc

/-- A mode that rounds toward a value's side takes a code not below the value (R79). -/
theorem RoundsCode.value_le (h : RoundsCode f mode neg v b c) (hmode : (mode = 2 ∧ neg = false) ∨ (mode = 3 ∧ neg = true)) :
    v ≤ codeVal f c := by
  rcases h.code with ⟨-, rfl⟩ | ⟨hr, rfl⟩
  · exact h.lt.le
  · by_contra hv
    refine hr ?_
    have hpos : 0 < (v - codeVal f c) / (codeVal f (c + 1) - codeVal f c) :=
      div_pos (by linarith) (sub_pos.2 (codeVal_lt_succ f c))
    rcases hmode with ⟨rfl, rfl⟩ | ⟨rfl, rfl⟩
    · exact raisesBy_two.2 ⟨hpos, rfl⟩
    · exact raisesBy_three.2 ⟨hpos, rfl⟩

/-- The finite pattern of a rounded code is what the mode makes of the value (R14, R79). -/
theorem RoundsCode.rounds (hok : f.Ok) (h : RoundsCode f mode neg v b c) (hc : c ≤ f.maxCode) :
    Rounds f mode (withSign neg v) (signed f neg c) := by
  have hlt : c < f.signBit := by have := hok.max_lt; omega
  have hv : 0 ≤ v := (codeVal_nonneg f b).trans h.le
  have hb := codeVal_nonneg f b
  have hle := h.le
  have hgt := h.lt
  have hcb : c = b ∨ c = b + 1 := h.eq_or_eq_succ
  rw [Rounds, fpValue_signed f neg hlt, hok.signed_mod_two]
  refine ⟨?_, ?_, ?_, fun y _ => ⟨?_, ?_, ?_, ?_⟩⟩
  · intro hm
    obtain rfl := h.eq_base (.inl hm)
    rw [abs_withSign, abs_withSign, abs_of_nonneg hb, abs_of_nonneg hv]
    refine ⟨hle, ?_⟩
    cases neg <;> simp only [withSign_true, withSign_false, neg_mul_neg] <;> positivity
  · intro hm
    cases neg
    · exact h.value_le (.inl ⟨hm, rfl⟩)
    · obtain rfl := h.eq_base (.inr (.inl ⟨hm, rfl⟩))
      exact neg_le_neg hle
  · intro hm
    cases neg
    · obtain rfl := h.eq_base (.inr (.inr ⟨hm, rfl⟩))
      exact hle
    · exact neg_le_neg (h.value_le (.inr ⟨hm, rfl⟩))
  · rintro rfl
    obtain ⟨hnear, heven⟩ := h.nearest (withSign_fpValue_gap f neg y b)
    rw [abs_sub_withSign, abs_sub_withSign, withSign_withSign]
    exact ⟨hnear, fun heq hne => heven heq fun hw => hne (by rw [← hw, withSign_withSign])⟩
  · intro hm hy _
    obtain rfl := h.eq_base (.inl hm)
    rw [abs_withSign, abs_fpValue, abs_of_nonneg hv] at hy
    rw [abs_withSign, abs_fpValue, abs_of_nonneg hb]
    exact codeVal_le_iff.2 (h.le_base hy)
  · intro hm hy
    have hgap := withSign_fpValue_gap f neg y b
    cases neg
    · rw [withSign_false] at hy hgap ⊢
      rcases hcb with rfl | hcb
      · exact hle.trans hy
      · have := h.lt_of_raised hcb
        rw [hcb]
        exact hgap.resolve_left (by linarith)
    · obtain rfl := h.eq_base (.inr (.inl ⟨hm, rfl⟩))
      rw [withSign_true] at hy hgap ⊢
      have := hgap.resolve_right (by linarith)
      linarith
  · intro hm hy
    have hgap := withSign_fpValue_gap f neg y b
    cases neg
    · obtain rfl := h.eq_base (.inr (.inr ⟨hm, rfl⟩))
      rw [withSign_false] at hy hgap ⊢
      exact hgap.resolve_right (by linarith)
    · rw [withSign_true] at hy hgap ⊢
      rcases hcb with rfl | hcb
      · linarith
      · have := h.lt_of_raised hcb
        rw [hcb]
        have := hgap.resolve_left (by linarith)
        linarith

/-- The largest finite magnitude is what a mode that does not round outward makes of what is beyond it (R80). -/
theorem rounds_maxCode (hok : f.Ok) (hv : codeVal f f.maxCode ≤ v) (hmode : mode ≠ 0)
    (h2 : mode = 2 → neg = true) (h3 : mode = 3 → neg = false) : Rounds f mode (withSign neg v) (signed f neg f.maxCode) := by
  have hlt : f.maxCode < f.signBit := by have := hok.max_lt; omega
  have hb := codeVal_nonneg f f.maxCode
  have hvnn : 0 ≤ v := hb.trans hv
  have hmax (y : Nat) (hy : isFinite f y = true) : |fpValue f y| ≤ codeVal f f.maxCode := by
    rw [abs_fpValue]
    exact codeVal_le_iff.2 (hok.isFinite_iff.1 hy)
  rw [Rounds, fpValue_signed f neg hlt]
  refine ⟨fun _ => ?_, fun hm => ?_, fun hm => ?_, fun y hy => ⟨fun hm => absurd hm hmode, fun _ _ _ => ?_, fun hm _ => ?_, fun hm _ => ?_⟩⟩
  · rw [abs_withSign, abs_withSign, abs_of_nonneg hb, abs_of_nonneg hvnn]
    refine ⟨hv, ?_⟩
    cases neg <;> simp only [withSign_true, withSign_false, neg_mul_neg] <;> positivity
  · obtain rfl := h2 hm
    exact neg_le_neg hv
  · obtain rfl := h3 hm
    exact hv
  · rw [abs_withSign, abs_of_nonneg hb]
    exact hmax y hy
  · obtain rfl := h2 hm
    exact (abs_le.1 (hmax y hy)).1
  · obtain rfl := h3 hm
    exact (abs_le.1 (hmax y hy)).2

end

end Sys2Proof.Machine
end

section
/-! SUPPORT. Operations rounded once (R14, R80, R191, R193): round(), sums, products and fused forms of finite operands. -/

namespace Sys2Proof.Machine

/-- A result that, where finite, is what the mode makes of an exact value, NX saying whether it differs (R14, R80). -/
def RoundedOnce (f : Fmt) (mode : Nat) (v : ℚ) (r : Nat × Nat) : Prop :=
  isFinite f r.1 = true → Rounds f mode v r.1 ∧ (r.2 &&& flagNX = 0 ↔ fpValue f r.1 = v)

/-- The flags of a result without overflow (R80). -/
def underflowFlags (exact tiny : Prop) [Decidable exact] [Decidable tiny] : Nat :=
  (if exact then 0 else flagNX) ||| (if ¬ exact ∧ tiny then flagUF else 0)

section
variable {exact tiny : Prop} [Decidable exact] [Decidable tiny]

theorem underflowFlags_of_exact (h : exact) : underflowFlags exact tiny = 0 := by simp [underflowFlags, h]

theorem underflowFlags_of_not_tiny (h : ¬ tiny) : underflowFlags exact tiny = if exact then 0 else flagNX := by
  simp [underflowFlags, h]

theorem underflowFlags_cases : underflowFlags exact tiny = 0 ∨ underflowFlags exact tiny = flagNX ∨
    underflowFlags exact tiny = flagNX ||| flagUF := by
  by_cases he : exact <;> by_cases ht : tiny <;> simp [underflowFlags, he, ht]

theorem underflowFlags_nx_iff : underflowFlags exact tiny &&& flagNX = 0 ↔ exact := by
  by_cases he : exact <;> by_cases ht : tiny <;> simp [underflowFlags, he, ht, flagNX, flagUF]

theorem underflowFlags_of : underflowFlags exact tiny &&& flagOF = 0 := by
  by_cases he : exact <;> by_cases ht : tiny <;> simp [underflowFlags, he, ht, flagNX, flagUF, flagOF]

end

/-- round() of a positive exact value, its flags named (R80). -/
theorem roundMag_cases {f : Fmt} (hok : f.Ok) (mode : Nat) (neg : Bool) {n d : Nat} (e : ℤ) (hn : 0 < n) (hd : 0 < d) :
    ∃ b c, RoundsCode f mode neg (n / d * 2 ^ e) b c ∧
      ((f.maxCode < c ∧ roundMag f mode neg n d e = (signed f neg (overflowCode f mode neg), flagOF ||| flagNX)) ∨
        (c ≤ f.maxCode ∧ roundMag f mode neg n d e =
          (signed f neg c, underflowFlags (codeVal f c = n / d * 2 ^ e) ((n : ℚ) / d * 2 ^ e < 2 ^ (1 - (f.bias : ℤ)))))) := by
  obtain ⟨b, c, hr, heq⟩ := roundMag_eq hok.fw_pos mode neg e hn hd
  refine ⟨b, c, hr, ?_⟩
  rcases Nat.lt_or_ge f.maxCode c with hc | hc
  · exact .inl ⟨hc, heq.trans (if_pos hc)⟩
  · refine .inr ⟨hc, heq.trans ((if_neg hc.not_gt).trans ?_)⟩
    simp only [underflowFlags, hr.exact_iff, ne_eq]

/-- round() of a value that a finite code has is that code, with no flag. -/
theorem roundMag_exact {f : Fmt} (hok : f.Ok) (mode : Nat) (neg : Bool) {n d c : Nat} {e : ℤ} (hn : 0 < n) (hd : 0 < d)
    (hc : c ≤ f.maxCode) (hv : codeVal f c = n / d * 2 ^ e) : roundMag f mode neg n d e = (signed f neg c, 0) := by
  obtain ⟨b, c', hr, h⟩ := roundMag_cases hok mode neg e hn hd
  obtain rfl := (hr.base_of_exact hv).2
  rcases h with ⟨hlt, -⟩ | ⟨-, h⟩
  · omega
  · rw [h, underflowFlags_of_exact hv]

theorem overflowCode_le (f : Fmt) (mode : Nat) (neg : Bool) : overflowCode f mode neg = f.maxCode ∨ overflowCode f mode neg = f.maxCode + 1 := by
  unfold overflowCode
  split
  · exact .inr rfl
  · exact .inl rfl

theorem overflowCode_lt {f : Fmt} (hok : f.Ok) (mode : Nat) (neg : Bool) : overflowCode f mode neg < f.signBit := by
  have := hok.max_lt
  rcases overflowCode_le f mode neg with h | h <;> omega

/-- The overflow result is finite in the modes that do not round outward (R80). -/
theorem mode_of_overflowCode_finite {f : Fmt} (h : f.Ieee) {mode : Nat} {neg : Bool} (hc : overflowCode f mode neg ≤ f.maxCode) :
    mode ≠ 0 ∧ (mode = 2 → neg = true) ∧ (mode = 3 → neg = false) := by
  unfold overflowCode at hc
  rw [h.inf] at hc
  split at hc
  · omega
  · rename_i hmode
    cases neg <;> simpa using hmode

theorem overflow_nx : (flagOF ||| flagNX) &&& flagNX ≠ 0 := by decide

/-- round() rounds once (R14, R80). -/
theorem roundMag_roundedOnce {f : Fmt} (h : f.Ieee) (mode : Nat) (neg : Bool) {n d : Nat} (e : ℤ) (hn : 0 < n) (hd : 0 < d) :
    RoundedOnce f mode (withSign neg (n / d * 2 ^ e)) (roundMag f mode neg n d e) := by
  have hlt := h.max_lt
  obtain ⟨b, c, hr, ⟨hc, heq⟩ | ⟨hc, heq⟩⟩ := roundMag_cases h.toOk mode neg e hn hd
  · rw [heq]
    intro hfin
    have hcode := h.isFinite_iff.1 hfin
    rw [f.code_signed neg (overflowCode_lt h.toOk mode neg)] at hcode
    obtain ⟨h0, h2, h3⟩ := mode_of_overflowCode_finite h hcode
    have hmax : overflowCode f mode neg = f.maxCode := by rcases overflowCode_le f mode neg with h | h <;> omega
    have hv : codeVal f f.maxCode < n / d * 2 ^ e := by
      have hb : f.maxCode ≤ b := by rcases hr.eq_or_eq_succ with h | h <;> omega
      have hle := (codeVal_le_iff.2 hb).trans hr.le
      refine hle.lt_of_ne fun heq => ?_
      have := (hr.base_of_exact heq).2
      omega
    rw [hmax]
    refine ⟨rounds_maxCode h.toOk hv.le h0 h2 h3, iff_of_false overflow_nx ?_⟩
    rw [fpValue_signed f neg (by omega), withSign_inj]
    exact hv.ne
  · rw [heq]
    intro _
    refine ⟨hr.rounds h.toOk hc, ?_⟩
    rw [underflowFlags_nx_iff, fpValue_signed f neg (by omega), withSign_inj]

theorem roundedOnce_of_eq {f : Fmt} {mode r : Nat} {v : ℚ} (h : fpValue f r = v) : RoundedOnce f mode v (r, 0) :=
  fun _ => ⟨rounds_of_eq mode h, iff_of_true (Nat.zero_and _) h⟩

theorem fpValue_signed_zero (f : Fmt) (neg : Bool) : fpValue f (signed f neg 0) = 0 := by
  rw [fpValue_signed f neg f.signBit_pos, codeVal_zero, withSign_zero]

/-! Exact values. -/

/-- The value of an exact dyadic (R10). -/
def Dyadic.val (a : Dyadic) : ℚ := a.m * 2 ^ a.e

/-- The value of a reading, 0 for one that is not finite. -/
def FVal.val : FVal → ℚ
  | .fin neg m e => withSign neg (m * 2 ^ e)
  | _ => 0

theorem FVal.dyadic_val (x : FVal) : x.dyadic.val = x.val := by
  cases x with
  | nan s p => simp [FVal.dyadic, FVal.val, Dyadic.val, Dyadic.zero]
  | inf s => simp [FVal.dyadic, FVal.val, Dyadic.val, Dyadic.zero]
  | fin s m e => cases s <;> simp [FVal.dyadic, FVal.val, Dyadic.val]

section
variable (a b : Dyadic)

theorem Dyadic.add_val : (a.add b).val = a.val + b.val := by
  have hshift {x y : ℤ} (h : x ≤ y) : ((2 : ℚ) ^ (y - x).toNat) * 2 ^ x = 2 ^ y := by
    rw [two_zpow_toNat (by omega), ← zpow_add₀ (by norm_num), sub_add_cancel]
  unfold Dyadic.add Dyadic.val
  split
  · rename_i h
    rw [← hshift h]
    push_cast
    ring
  · rename_i h
    rw [← hshift (by omega : b.e ≤ a.e)]
    push_cast
    ring

theorem Dyadic.neg_val : a.neg.val = -a.val := by simp [Dyadic.neg, Dyadic.val]

theorem Dyadic.sub_val : (a.sub b).val = a.val - b.val := by rw [Dyadic.sub, add_val, neg_val, sub_eq_add_neg]

theorem Dyadic.m_neg_iff : a.m < 0 ↔ a.val < 0 := by
  have hpos : (0 : ℚ) < 2 ^ a.e := by positivity
  rw [Dyadic.val, ← zero_mul (2 ^ a.e : ℚ), mul_lt_mul_iff_left₀ hpos]
  exact Int.cast_lt_zero.symm

theorem Dyadic.m_eq_zero_iff : a.m = 0 ↔ a.val = 0 := by
  rw [Dyadic.val, mul_eq_zero, or_iff_left (by positivity)]
  exact Int.cast_eq_zero.symm

theorem Dyadic.lt_iff : a.lt b = true ↔ a.val < b.val := by
  rw [Dyadic.lt, decide_eq_true_iff, m_neg_iff, sub_val, sub_neg]

theorem Dyadic.le_iff : a.le b = true ↔ a.val ≤ b.val := by
  rw [Dyadic.le, decide_eq_true_iff, ← sub_nonpos (a := a.val), ← sub_val, le_iff_lt_or_eq, le_iff_lt_or_eq, m_neg_iff, m_eq_zero_iff]

end

/-- A finite pattern's value is its reading's. -/
theorem Fmt.Ok.val_unpack {f : Fmt} (h : f.Ok) {x : Nat} (hx : isFinite f x = true) : (unpack f x).val = fpValue f x := by
  rw [h.unpack_finite hx, fpValue_eq]
  rfl

/-! Rounding of exact values. -/

theorem withSign_natAbs (m : ℤ) : withSign (decide (m < 0)) (m.natAbs : ℚ) = m := by
  rw [Nat.cast_natAbs, Int.cast_abs]
  rcases lt_or_ge m 0 with h | h
  · have h' : (m : ℚ) < 0 := Int.cast_lt_zero.2 h
    rw [decide_eq_true h, withSign_true, abs_of_neg h', neg_neg]
  · have h' : (0 : ℚ) ≤ m := Int.cast_nonneg h
    rw [decide_eq_false h.not_gt, withSign_false, abs_of_nonneg h']

theorem withSign_mul (neg : Bool) (v w : ℚ) : withSign neg (v * w) = withSign neg v * w := by cases neg <;> simp

section
variable {f : Fmt} (h : f.Ieee) (mode : Nat)
include h

theorem roundDyadic_roundedOnce (zn : Bool) (m e : ℤ) : RoundedOnce f mode (m * 2 ^ e) (roundDyadic f mode zn m e) := by
  unfold roundDyadic
  by_cases hm : m = 0
  · subst hm
    rw [if_pos (by rfl), Int.cast_zero, zero_mul]
    exact roundedOnce_of_eq (fpValue_signed_zero f zn)
  · have hr := roundMag_roundedOnce h mode (decide (m < 0)) e (Int.natAbs_pos.2 hm) one_pos
    rw [Nat.cast_one, div_one, withSign_mul, withSign_natAbs] at hr
    rwa [if_neg (by simpa using hm)]

theorem roundVal_roundedOnce (s : Bool) (m : Nat) (e : ℤ) :
    RoundedOnce f mode (withSign s (m * 2 ^ e)) (roundVal f mode (.fin s m e)) := by
  unfold roundVal
  rcases Nat.eq_zero_or_pos m with rfl | hm
  · rw [Nat.cast_zero, zero_mul, withSign_zero]
    exact roundedOnce_of_eq (fpValue_signed_zero f s)
  · have hr := roundMag_roundedOnce h mode s e hm one_pos
    rw [Nat.cast_one, div_one] at hr
    simpa [hm.ne'] using hr

/-- A sum of finite values rounds once (R191). -/
theorem sumVals_roundedOnce (s s' : Bool) (m m' : Nat) (e e' : ℤ) :
    RoundedOnce f mode ((FVal.fin s m e).val + (FVal.fin s' m' e').val) (sumVals f mode (.fin s m e) (.fin s' m' e')) := by
  rw [← FVal.dyadic_val, ← FVal.dyadic_val, ← Dyadic.add_val]
  exact roundDyadic_roundedOnce h mode _ _ _

end

theorem fin_mul_val (s s' : Bool) (m m' : Nat) (e e' : ℤ) :
    (FVal.fin (s != s') (m * m') (e + e')).val = (FVal.fin s m e).val * (FVal.fin s' m' e').val := by
  simp only [FVal.val]
  rw [zpow_add₀ (by norm_num)]
  push_cast
  cases s <;> cases s' <;> simp <;> ring

section
variable {f : Fmt} (h : f.Ieee) (mode : Nat) {x y z : Nat} (hx : isFinite f x = true) (hy : isFinite f y = true)

theorem nanResult_none {xs : List Nat} (hxs : ∀ x ∈ xs, isNan f x = false) : nanResult f xs = none := by
  unfold nanResult
  rw [List.find?_eq_none.2 fun x hx => by simp [hxs x hx]]

include h hx hy

theorem fpAdd_roundedOnce : RoundedOnce f mode (fpValue f x + fpValue f y) (fpAdd f mode x y) := by
  unfold fpAdd
  rw [nanResult_none (by simp [isNan_of_isFinite hx, isNan_of_isFinite hy]), ← h.val_unpack hx, ← h.val_unpack hy,
    h.unpack_finite hx, h.unpack_finite hy]
  exact sumVals_roundedOnce h mode _ _ _ _ _ _

theorem fpMul_roundedOnce : RoundedOnce f mode (fpValue f x * fpValue f y) (fpMul f mode x y) := by
  unfold fpMul
  rw [nanResult_none (by simp [isNan_of_isFinite hx, isNan_of_isFinite hy]), ← h.val_unpack hx, ← h.val_unpack hy,
    h.unpack_finite hx, h.unpack_finite hy, ← fin_mul_val]
  exact roundVal_roundedOnce h mode _ _ _

/-- A fused form of finite operands is its addend and the exact product, each with its sign, summed (R193). -/
theorem fpFma_finite (hz : isFinite f z = true) (negP negC : Bool) : ∃ s m e s' m' e',
    fpFma f mode negP negC x y z = sumVals f mode (.fin s m e) (.fin s' m' e') ∧
      (FVal.fin s m e).val = withSign negP (fpValue f x * fpValue f y) ∧ (FVal.fin s' m' e').val = withSign negC (fpValue f z) := by
  refine ⟨(f.sign x != f.sign y) != negP, f.codeMant (f.code x) * f.codeMant (f.code y),
    f.codeUnit (f.code x) + f.codeUnit (f.code y), f.sign z != negC, f.codeMant (f.code z), f.codeUnit (f.code z), ?_, ?_, ?_⟩
  · unfold fpFma
    rw [nanResult_none (by simp [isNan_of_isFinite hx, isNan_of_isFinite hy, isNan_of_isFinite hz]), isNan_of_isFinite hx,
      isNan_of_isFinite hy, h.unpack_finite hx, h.unpack_finite hy, h.unpack_finite hz]
    cases negP <;> cases negC <;> simp [prodVals, FVal.negate, FVal.isNeg]
  · have hmul := fin_mul_val (f.sign x) (f.sign y) (f.codeMant (f.code x)) (f.codeMant (f.code y)) (f.codeUnit (f.code x))
      (f.codeUnit (f.code y))
    rw [← h.unpack_finite hx, ← h.unpack_finite hy, h.val_unpack hx, h.val_unpack hy] at hmul
    rw [← hmul]
    cases negP <;> cases hs : (f.sign x != f.sign y) <;> simp [FVal.val]
  · rw [← h.val_unpack hz, h.unpack_finite hz]
    cases negC <;> cases f.sign z <;> simp [FVal.val]

theorem fpFma_roundedOnce (hz : isFinite f z = true) (negP negC : Bool) :
    RoundedOnce f mode (withSign negP (fpValue f x * fpValue f y) + withSign negC (fpValue f z)) (fpFma f mode negP negC x y z) := by
  obtain ⟨s, m, e, s', m', e', heq, hp, hc⟩ := fpFma_finite h mode hx hy hz negP negC
  rw [heq, ← hp, ← hc]
  exact sumVals_roundedOnce h mode _ _ _ _ _ _

end

end Sys2Proof.Machine
end

section
/-! SUPPORT. Sums, products and fused forms whatever their operands (R77, R78, R191 to R193): the order of operands that are no NaNs, the
sign of a subtrahend, and NaN operands. -/

namespace Sys2Proof.Machine

/-! The first NaN operand. -/

section
variable {f : Fmt} {x : Nat} (xs : List Nat)

theorem nanResult_of_isNan (h : isNan f x = true) :
    nanResult f (x :: xs) = some (quieten f x, if (x :: xs).any (isSnan f) then flagNV else 0) := by
  unfold nanResult
  rw [List.find?_cons_of_pos h]

theorem nanResult_of_not_isNan (h : isNan f x = false) : nanResult f (x :: xs) = nanResult f xs := by
  unfold nanResult
  rw [List.find?_cons_of_neg (by simp [h]), List.any_cons, isSnan_eq_false h, Bool.false_or]

end

/-! The order of operands. -/

theorem Dyadic.add_comm (a b : Dyadic) : a.add b = b.add a := by
  unfold Dyadic.add
  rcases lt_trichotomy a.e b.e with h | h | h
  · rw [if_pos h.le, if_neg h.not_ge, Int.add_comm]
  · simp [h, Int.add_comm]
  · rw [if_neg h.not_ge, if_pos h.le, Int.add_comm]

theorem zeroSumNeg_comm (mode : Nat) (na nb : Bool) : zeroSumNeg mode na nb = zeroSumNeg mode nb na := by
  cases na <;> cases nb <;> rfl

theorem sumVals_comm (f : Fmt) (mode : Nat) (a b : FVal) : sumVals f mode a b = sumVals f mode b a := by
  cases a with
  | inf sa =>
    cases b with
    | inf sb => cases sa <;> cases sb <;> rfl
    | nan => rfl
    | fin => rfl
  | nan =>
    cases b with
    | inf => rfl
    | nan => simp only [sumVals, Dyadic.add_comm, zeroSumNeg_comm mode, Bool.and_comm]
    | fin => simp only [sumVals, Dyadic.add_comm, zeroSumNeg_comm mode, Bool.and_comm]
  | fin =>
    cases b with
    | inf => rfl
    | nan => simp only [sumVals, Dyadic.add_comm, zeroSumNeg_comm mode, Bool.and_comm]
    | fin => simp only [sumVals, Dyadic.add_comm, zeroSumNeg_comm mode, Bool.and_comm]

theorem prodVals_comm (a b : FVal) : prodVals a b = prodVals b a := by
  have hsign (s t : Bool) : (s != t) = (t != s) := by cases s <;> cases t <;> rfl
  cases a <;> cases b <;> simp only [prodVals, FVal.isNeg, hsign, Nat.mul_comm, Int.add_comm]

section
variable {f : Fmt} {x y : Nat} (mode : Nat) (hx : isNan f x = false) (hy : isNan f y = false)
include hx hy

theorem fpAdd_of_not_isNan : fpAdd f mode x y = sumVals f mode (unpack f x) (unpack f y) := by
  unfold fpAdd
  rw [nanResult_of_not_isNan _ hx, nanResult_of_not_isNan _ hy]
  rfl

theorem fpAdd_comm : fpAdd f mode x y = fpAdd f mode y x := by
  rw [fpAdd_of_not_isNan mode hx hy, fpAdd_of_not_isNan mode hy hx, sumVals_comm]

theorem fpMul_comm : fpMul f mode x y = fpMul f mode y x := by
  unfold fpMul
  rw [nanResult_of_not_isNan _ hx, nanResult_of_not_isNan _ hy, nanResult_of_not_isNan _ hy, nanResult_of_not_isNan _ hx, prodVals_comm]

end

/-! A sign turned. -/

section
variable (f : Fmt) (y : Nat)

theorem Fmt.code_xor_signBit : f.code (y ^^^ f.signBit) = f.code y := by
  refine Nat.eq_of_testBit_eq fun i => ?_
  unfold code signBit
  rw [Nat.testBit_mod_two_pow, Nat.testBit_mod_two_pow, Nat.testBit_xor]
  by_cases h : i < f.ew + f.fw
  · rw [Nat.testBit_two_pow_of_ne (by omega), Bool.xor_false]
  · simp [h]

theorem Fmt.sign_xor_signBit : f.sign (y ^^^ f.signBit) = !f.sign y := by
  unfold sign hasBit signBit
  rw [Nat.testBit_xor, Nat.testBit_two_pow_self, Bool.xor_true]

end

section
variable {f : Fmt} (h : f.Ieee) {x y : Nat} (mode : Nat) (hx : isNan f x = false) (hy : isNan f y = false)
include h

theorem isNan_xor_signBit : isNan f (y ^^^ f.signBit) = isNan f y := by
  rw [Bool.eq_iff_iff, h.isNan_iff, h.isNan_iff, f.code_xor_signBit]

include hy

theorem unpack_xor_signBit : unpack f (y ^^^ f.signBit) = (unpack f y).negate := by
  have hc := f.code_xor_signBit y
  rcases h.unpack_cases hy with ⟨hle, heq⟩ | ⟨hinf, heq⟩
  · rw [heq, h.unpack_of_le (by rwa [hc]), hc, f.sign_xor_signBit]
    rfl
  · rw [heq, h.unpack_inf (hc.trans hinf), f.sign_xor_signBit]
    rfl

include hx

/-- A difference is the sum with the second operand's sign turned (R192). -/
theorem fpSub_eq_fpAdd : fpSub f mode x y = fpAdd f mode x (y ^^^ f.signBit) := by
  rw [fpAdd_of_not_isNan mode hx ((isNan_xor_signBit h).trans hy), unpack_xor_signBit h hy]
  unfold fpSub
  rw [nanResult_of_not_isNan _ hx, nanResult_of_not_isNan _ hy]
  rfl

end

/-! NaN operands. -/

section
variable {f : Fmt} {x y z : Nat} (mode : Nat) (np nc : Bool)

theorem fpAdd_of_isNan_left (hx : isNan f x = true) :
    fpAdd f mode x y = (quieten f x, if isSnan f x || isSnan f y then flagNV else 0) := by
  unfold fpAdd
  rw [nanResult_of_isNan _ hx]
  simp

theorem fpMul_of_isNan_left (hx : isNan f x = true) :
    fpMul f mode x y = (quieten f x, if isSnan f x || isSnan f y then flagNV else 0) := by
  unfold fpMul
  rw [nanResult_of_isNan _ hx]
  simp

theorem fpAdd_of_isNan_right (hx : isNan f x = false) (hy : isNan f y = true) :
    fpAdd f mode x y = (quieten f y, if isSnan f y then flagNV else 0) := by
  unfold fpAdd
  rw [nanResult_of_not_isNan _ hx, nanResult_of_isNan _ hy]
  simp

theorem fpMul_of_isNan_right (hx : isNan f x = false) (hy : isNan f y = true) :
    fpMul f mode x y = (quieten f y, if isSnan f y then flagNV else 0) := by
  unfold fpMul
  rw [nanResult_of_not_isNan _ hx, nanResult_of_isNan _ hy]
  simp

theorem fpFma_of_isNan_first (hx : isNan f x = true) : (fpFma f mode np nc x y z).1 = quieten f x := by
  unfold fpFma
  rw [nanResult_of_isNan _ hx]
  simp [hx]

theorem fpFma_of_isNan_second (hx : isNan f x = false) (hy : isNan f y = true) : (fpFma f mode np nc x y z).1 = quieten f y := by
  unfold fpFma
  rw [nanResult_of_not_isNan _ hx, nanResult_of_isNan _ hy]
  simp [hy]

/-- A finite product whose addend is a NaN (R78, R193). -/
theorem fpFma_of_isNan_addend (hok : f.Ok) (hx : isFinite f x = true) (hy : isFinite f y = true) (hz : isNan f z = true) :
    fpFma f mode np nc x y z = (quieten f z, if isSnan f z then flagNV else 0) := by
  have hx' := isNan_of_isFinite hx
  have hy' := isNan_of_isFinite hy
  unfold fpFma
  rw [nanResult_of_not_isNan _ hx', nanResult_of_not_isNan _ hy', nanResult_of_isNan _ hz, hx', hy', hok.unpack_finite hx,
    hok.unpack_finite hy]
  simp [prodVals]

/-- 0 · ∞ in a fused form, either way, whatever the addend (R191, R193). -/
theorem fpFma_zero_inf (h : f.Ieee) (hx : f.code x = 0) (hy : f.code y = f.maxCode + 1) :
    fpFma f mode np nc x y z = (defaultNan f, flagNV) ∧ fpFma f mode np nc y x z = (defaultNan f, flagNV) := by
  have hx' : isNan f x = false := h.isNan_false_iff.2 (by omega)
  have hy' : isNan f y = false := h.isNan_false_iff.2 (by omega)
  have hz : f.codeMant 0 = 0 := by simp [Fmt.codeMant]
  have hux := h.unpack_of_le (x := x) (by omega)
  rw [hx, hz] at hux
  unfold fpFma
  rw [hx', hy', hux, h.unpack_inf hy]
  exact ⟨rfl, rfl⟩

end

/-! The flags of round() in binary32 (R80, R189). -/

theorem signBit_le_signed (f : Fmt) (neg : Bool) {c : Nat} (hc : c < f.signBit) : decide (f.signBit ≤ signed f neg c) = neg := by
  unfold signed
  cases neg
  · rw [if_neg (by decide), decide_eq_false hc.not_ge]
  · rw [if_pos rfl, decide_eq_true (Nat.le_add_left _ _)]

/-- Which flags round() sets, and what each says of its result (R80). -/
theorem roundMag_flags {f : Fmt} (hok : f.Ok) (mode : Nat) (neg : Bool) {n d : Nat} (e : ℤ) (hn : 0 < n) (hd : 0 < d) :
    ∃ c fl, roundMag f mode neg n d e = (signed f neg c, fl) ∧ c < f.signBit ∧
      ((fl = flagOF ||| flagNX ∧ (c = f.maxCode ∨ c = f.maxCode + 1)) ∨
        (fl &&& flagOF = 0 ∧ c ≤ f.maxCode ∧ (fl = 0 ∨ fl = flagNX ∨ fl = flagNX ||| flagUF))) := by
  have hlt := hok.max_lt
  obtain ⟨b, c, -, ⟨hc, heq⟩ | ⟨hc, heq⟩⟩ := roundMag_cases hok mode neg e hn hd
  · exact ⟨_, _, heq, overflowCode_lt hok mode neg, .inl ⟨rfl, overflowCode_le f mode neg⟩⟩
  · exact ⟨_, _, heq, by omega, .inr ⟨underflowFlags_of, hc, underflowFlags_cases⟩⟩

end Sys2Proof.Machine
end

section
/-! SUPPORT. The order of values: minima, maxima and comparisons (R78, R192, R196). -/

namespace Sys2Proof.Machine

theorem Fmt.div_signBit_mod (f : Fmt) (x : Nat) : x / f.signBit % 2 = (f.sign x).toNat := by
  have h := f.sign_iff x
  cases hs : f.sign x
  · rw [hs] at h
    simp only [Bool.false_eq_true, false_iff] at h
    simp only [Bool.toNat_false]
    omega
  · exact h.1 hs

/-- The order of FMIN and FMAX is that of the values, −0 below +0 (R78). -/
theorem orderKey_lt_iff (f : Fmt) (x y : Nat) : orderKey f x < orderKey f y ↔
    fpValue f x < fpValue f y ∨ (fpValue f x = fpValue f y ∧ f.sign x = true ∧ f.sign y = false) := by
  have hx := codeVal_nonneg f (f.code x)
  have hy := codeVal_nonneg f (f.code y)
  have hkey (z : Nat) : orderKey f z = if f.sign z then -(f.code z : ℤ) - 1 else f.code z := rfl
  rw [hkey, hkey, fpValue_eq, fpValue_eq]
  cases f.sign x <;> cases f.sign y
  · simp [codeVal_lt_iff]
  · simp only [if_true, Bool.false_eq_true, if_false, withSign_true, withSign_false, false_and, and_false, or_false]
    exact iff_of_false (by omega) (by linarith)
  · simp only [if_true, Bool.false_eq_true, if_false, withSign_true, withSign_false, and_self, and_true]
    exact iff_of_true (by omega) (by rcases (by linarith : -codeVal f (f.code x) ≤ codeVal f (f.code y)).lt_or_eq with h | h <;> tauto)
  · simp [codeVal_lt_iff]

section
variable {f : Fmt} {x y : Nat} (m : Bool)

theorem fpMinMax_of_not_isNan (hx : isNan f x = false) (hy : isNan f y = false) : fpMinMax f m x y =
    (if m then (if orderKey f x < orderKey f y then y else x) else if orderKey f y < orderKey f x then y else x, 0) := by
  unfold fpMinMax
  rw [hx, hy, isSnan_eq_false hx, isSnan_eq_false hy]
  cases m <;> rfl

theorem fpMinMax_of_isNan (hx : isNan f x = true) (hy : isNan f y = true) :
    fpMinMax f m x y = (quieten f x, if isSnan f x || isSnan f y then flagNV else 0) := by
  simp [fpMinMax, hx, hy]

theorem fpMinMax_of_isNan_one (hx : isNan f x = true) (hy : isNan f y = false) :
    fpMinMax f m x y = (y, if isSnan f x then flagNV else 0) ∧ fpMinMax f m y x = (y, if isSnan f x then flagNV else 0) := by
  simp [fpMinMax, hx, hy, isSnan_eq_false hy]

/-- The lesser in the order of FMIN: its value is the minimum, and of equal values it has a − if one of them has (R78). -/
theorem lesser_spec {r : Nat} (hr : r = if orderKey f y < orderKey f x then y else x) :
    (r = x ∨ r = y) ∧ fpValue f r = min (fpValue f x) (fpValue f y) ∧
      (fpValue f x = fpValue f y → r / f.signBit % 2 = max (x / f.signBit % 2) (y / f.signBit % 2)) := by
  subst hr
  simp only [Fmt.div_signBit_mod]
  by_cases h : orderKey f y < orderKey f x
  · rw [if_pos h]
    rw [orderKey_lt_iff] at h
    refine ⟨.inr rfl, (min_eq_right (h.elim le_of_lt fun h => h.1.le)).symm, fun heq => ?_⟩
    obtain ⟨-, hy, hx⟩ := h.resolve_left (by rw [heq]; exact lt_irrefl _)
    rw [hx, hy]
    rfl
  · rw [if_neg h]
    rw [orderKey_lt_iff, not_or, not_lt] at h
    refine ⟨.inl rfl, (min_eq_left h.1).symm, fun heq => ?_⟩
    have h2 := h.2
    rw [heq] at h2
    cases hx : f.sign x <;> cases hy : f.sign y <;> simp [hx, hy] at h2 ⊢

/-- The greater in the order of FMAX, the one that FMIN of the swapped operands leaves: its value is the maximum, and of equal values it
has a + if one of them has (R78). -/
theorem greater_spec {r : Nat} (hr : r = if orderKey f x < orderKey f y then y else x) :
    (r = x ∨ r = y) ∧ fpValue f r = max (fpValue f x) (fpValue f y) ∧
      (fpValue f x = fpValue f y → r / f.signBit % 2 = min (x / f.signBit % 2) (y / f.signBit % 2)) := by
  obtain ⟨-, hmin, hsign⟩ := lesser_spec (f := f) (x := y) (y := x) rfl
  subst hr
  by_cases h : orderKey f x < orderKey f y
  · rw [if_pos h] at hmin hsign ⊢
    refine ⟨.inr rfl, (max_eq_right (hmin.trans_le (min_le_left ..))).symm, fun heq => ?_⟩
    have := hsign heq.symm
    omega
  · rw [if_neg h] at hmin hsign ⊢
    refine ⟨.inl rfl, (max_eq_left (hmin.trans_le (min_le_right ..))).symm, fun heq => ?_⟩
    have := hsign heq.symm
    omega

end

/-! Comparisons. -/

/-- What the order of two values is called (R196). -/
def orderOf (v w : ℚ) : ℤ := if v < w then -1 else if v = w then 0 else 1

section
variable {v w : ℚ}

theorem orderOf_of_lt (h : v < w) : orderOf v w = -1 := if_pos h

theorem orderOf_self : orderOf v v = 0 := by simp [orderOf]

theorem orderOf_of_gt (h : w < v) : orderOf v w = 1 := by rw [orderOf, if_neg h.not_gt, if_neg h.ne']

end

/-- A finite value lies within the value of the infinities' code. -/
theorem abs_fpValue_lt_inf {f : Fmt} {x : Nat} (hx : f.code x ≤ f.maxCode) : |fpValue f x| < codeVal f (f.maxCode + 1) := by
  rw [abs_fpValue, codeVal_lt_iff]
  omega

section
variable {f : Fmt} (h : f.Ieee) {x y : Nat}
include h

theorem fpOrder_eq (hx : isNan f x = false) (hy : isNan f y = false) :
    fpOrder (unpack f x) (unpack f y) = orderOf (fpValue f x) (fpValue f y) := by
  have hinf : 0 < codeVal f (f.maxCode + 1) := codeVal_pos.2 (Nat.succ_pos _)
  rcases h.unpack_cases hx with ⟨hcx, hux⟩ | ⟨hcx, hux⟩ <;> rcases h.unpack_cases hy with ⟨hcy, huy⟩ | ⟨hcy, huy⟩
  · have hvx := h.val_unpack (h.isFinite_iff.2 hcx)
    have hvy := h.val_unpack (h.isFinite_iff.2 hcy)
    have hd := Dyadic.sub_val (unpack f x).dyadic (unpack f y).dyadic
    rw [FVal.dyadic_val, FVal.dyadic_val, hvx, hvy] at hd
    have hlt := ((unpack f x).dyadic.sub (unpack f y).dyadic).m_neg_iff
    have heq := ((unpack f x).dyadic.sub (unpack f y).dyadic).m_eq_zero_iff
    rw [hd, sub_neg] at hlt
    rw [hd, sub_eq_zero] at heq
    rw [hux, huy] at hlt heq ⊢
    simp only [fpOrder, orderOf, beq_iff_eq, hlt, heq]
  · obtain ⟨hlo, hhi⟩ := abs_lt.1 (abs_fpValue_lt_inf hcx)
    rw [hux, huy, fpValue_eq f y, hcy]
    cases f.sign y
    · exact (orderOf_of_lt hhi).symm
    · exact (orderOf_of_gt hlo).symm
  · obtain ⟨hlo, hhi⟩ := abs_lt.1 (abs_fpValue_lt_inf hcy)
    rw [hux, huy, fpValue_eq f x, hcx]
    cases f.sign x
    · exact (orderOf_of_gt hhi).symm
    · exact (orderOf_of_lt hlo).symm
  · rw [hux, huy, fpValue_eq f x, fpValue_eq f y, hcx, hcy]
    cases f.sign x <;> cases f.sign y
    · exact orderOf_self.symm
    · exact (orderOf_of_gt (by rw [withSign_true, withSign_false]; linarith)).symm
    · exact (orderOf_of_lt (by rw [withSign_true, withSign_false]; linarith)).symm
    · exact orderOf_self.symm

/-- Every condition of FCMP on operands that are no NaNs (R196). -/
theorem fpCompare_ordered (hx : isNan f x = false) (hy : isNan f y = false) :
    fpCompare f 0 x y = (decide (fpValue f x = fpValue f y), 0) ∧ fpCompare f 1 x y = (decide (fpValue f x ≠ fpValue f y), 0) ∧
    fpCompare f 2 x y = (decide (fpValue f x < fpValue f y), 0) ∧ fpCompare f 3 x y = (decide (fpValue f x ≤ fpValue f y), 0) ∧
    fpCompare f 4 x y = (decide (fpValue f y < fpValue f x), 0) ∧ fpCompare f 5 x y = (decide (fpValue f y ≤ fpValue f x), 0) ∧
    fpCompare f 6 x y = (false, 0) ∧ fpCompare f 7 x y = (true, 0) := by
  have horder := fpOrder_eq h hx hy
  have hsx := isSnan_eq_false hx
  have hsy := isSnan_eq_false hy
  rcases lt_trichotomy (fpValue f x) (fpValue f y) with hlt | heq | hgt
  · rw [orderOf_of_lt hlt] at horder
    simp [fpCompare, hx, hy, hsx, hsy, horder, hlt, hlt.le, hlt.ne, hlt.not_gt, hlt.not_ge]
  · rw [heq, orderOf_self] at horder
    simp [fpCompare, hx, hy, hsx, hsy, horder, heq]
  · rw [orderOf_of_gt hgt] at horder
    simp [fpCompare, hx, hy, hsx, hsy, horder, hgt, hgt.le, hgt.ne', hgt.not_gt, hgt.not_ge]

end

/-- FCMP with a NaN operand (R196). -/
theorem fpCompare_unordered {f : Fmt} {x y : Nat} (hnan : isNan f x = true ∨ isNan f y = true) {c : Nat} (hc : c < 8) :
    fpCompare f c x y = (decide (c = 1 ∨ c = 6), if isSnan f x || isSnan f y || decide (2 ≤ c ∧ c ≤ 5) then flagNV else 0) := by
  have hun : (isNan f x || isNan f y) = true := by simpa using hnan
  unfold fpCompare
  rw [hun]
  interval_cases c <;> rfl

end Sys2Proof.Machine
end

section
/-! SUPPORT. Values rounded to integers and integers rounded to values (R79, R192, R197, R198). -/

namespace Sys2Proof.Machine

theorem roundsToInt_of_eq {mode : Nat} {v : ℚ} {n : ℤ} (h : (n : ℚ) = v) : RoundsToInt mode v n := by
  subst h
  simp [RoundsToInt]

/-- A magnitude's integer part raised as the mode says is what the mode makes of it with its sign (R79). -/
theorem roundsToInt_of_parts {mode : Nat} {neg : Bool} {q t : Nat} {part : ℚ} (h0 : 0 ≤ part) (h1 : part < 1)
    (ht : (RaisesBy mode neg part q ∧ t = q + 1) ∨ (¬ RaisesBy mode neg part q ∧ t = q)) :
    RoundsToInt mode (withSign neg (q + part)) (if neg then -(t : ℤ) else t) := by
  have hparity : (if neg then -(t : ℤ) else t) % 2 = 0 ↔ t % 2 = 0 := by cases neg <;> simp <;> omega
  have hq : (0 : ℚ) ≤ q := Nat.cast_nonneg q
  unfold RoundsToInt
  rw [cast_ite_neg, withSign_sub, abs_withSign, abs_withSign, abs_withSign, hparity, abs_of_nonneg (by positivity : (0 : ℚ) ≤ t),
    abs_of_nonneg (by positivity : 0 ≤ q + part)]
  rcases ht with ⟨hr, rfl⟩ | ⟨hr, rfl⟩
  · have hpos := raisesBy_pos hr
    have hdist : |((q + 1 : ℕ) : ℚ) - (q + part)| = 1 - part := by
      push_cast
      rw [abs_of_nonneg (by linarith)]
      ring
    rw [hdist]
    refine ⟨by linarith, ?_, ?_, ?_, ?_⟩
    · rintro rfl
      rw [raisesBy_zero] at hr
      exact ⟨by rcases hr with hr | hr <;> linarith, fun heq => by rcases hr with hr | hr <;> [linarith; omega]⟩
    · rintro rfl
      exact absurd hr not_raisesBy_one
    · rintro rfl
      rw [(raisesBy_two.1 hr).2, withSign_false, withSign_false]
      push_cast
      linarith
    · rintro rfl
      rw [(raisesBy_three.1 hr).2, withSign_true, withSign_true]
      push_cast
      linarith
  · have hdist : |(t : ℚ) - (t + part)| = part := by
      rw [sub_add_cancel_left, abs_neg, abs_of_nonneg h0]
    rw [hdist]
    refine ⟨h1, ?_, ?_, ?_, ?_⟩
    · rintro rfl
      rw [raisesBy_zero, not_or, not_lt] at hr
      exact ⟨hr.1, fun heq => by have := not_and.1 hr.2 heq; omega⟩
    · intro _
      linarith
    · rintro rfl
      cases neg
      · have := not_lt.1 fun h => hr (raisesBy_two.2 ⟨h, rfl⟩)
        rw [withSign_false, withSign_false]
        linarith
      · rw [withSign_true, withSign_true]
        linarith
    · rintro rfl
      cases neg
      · rw [withSign_false, withSign_false]
        linarith
      · have := not_lt.1 fun h => hr (raisesBy_three.2 ⟨h, rfl⟩)
        rw [withSign_true, withSign_true]
        linarith

/-- A magnitude rounded to an integer: the integer, what it is to the value, and its bound (R79, R198). -/
theorem roundToInt_spec (mode : Nat) (neg : Bool) (m : Nat) (e : ℤ) : ∃ (t : ℕ) (nx : Bool), roundToInt mode neg m e = (if neg then -(t : ℤ) else t, nx) ∧
    RoundsToInt mode (withSign neg (m * 2 ^ e)) (if neg then -(t : ℤ) else t) ∧ (nx = false ↔ (t : ℚ) = m * 2 ^ e) ∧
    (0 ≤ e → (t : ℚ) = m * 2 ^ e) ∧ (e < 0 → t ≤ m / 2 + 1) := by
  rcases le_or_gt 0 e with he | he
  · have hv : ((m * 2 ^ e.toNat : ℕ) : ℚ) = m * 2 ^ e := by
      push_cast
      rw [two_zpow_toNat he]
    refine ⟨m * 2 ^ e.toNat, false, if_pos he, roundsToInt_of_eq ?_, by simp [hv], fun _ => hv, fun h => absurd he h.not_ge⟩
    rw [← hv]
    cases neg <;> simp
  · obtain ⟨d, hd⟩ : ∃ d : ℕ, d = 2 ^ (-e).toNat := ⟨_, rfl⟩
    have hdpos : 0 < d := hd ▸ Nat.two_pow_pos _
    have hd' : (0 : ℚ) < d := by exact_mod_cast hdpos
    have hpow : (2 : ℚ) ^ e = (d : ℚ)⁻¹ := by
      rw [hd]
      push_cast
      rw [two_zpow_toNat (by omega), zpow_neg, inv_inv]
    obtain ⟨hsplit, hpart0, hpart1⟩ := ratio_split m hdpos
    rw [div_eq_mul_inv, ← hpow] at hsplit
    have hcases := roundMant_cases mode neg m hdpos
    have heq : roundToInt mode neg m e = (if neg then -(roundMant mode neg m d : ℤ) else roundMant mode neg m d, m % d != 0) := by
      unfold roundToInt
      rw [if_neg (by omega), ← hd]
      rfl
    refine ⟨_, _, heq, ?_, ?_, fun h => absurd h he.not_ge, fun _ => ?_⟩
    · rw [hsplit]
      exact roundsToInt_of_parts hpart0 hpart1 hcases
    · rw [hsplit]
      have hnx : (m % d != 0) = false ↔ m % d = 0 := by simp
      rw [hnx]
      rcases hcases with ⟨hr, ht⟩ | ⟨-, ht⟩
      · have hpos := raisesBy_pos hr
        rw [ht]
        push_cast
        refine iff_of_false (fun h => ?_) (fun h => by linarith)
        rw [h] at hpos
        simp at hpos
      · rw [ht, left_eq_add, div_eq_zero_iff, or_iff_left hd'.ne']
        exact_mod_cast Iff.rfl
    · have hd2 : 2 ≤ d := by
        rw [hd]
        exact Nat.le_self_pow (by omega) 2
      have := Nat.div_le_div (le_refl m) hd2 two_ne_zero
      rcases hcases with ⟨-, ht⟩ | ⟨-, ht⟩ <;> omega

/-! Floating to integer. -/

section
variable {f : Fmt} {mode : Nat} {lo hi : ℤ} {n x : Nat}

theorem fpToInt_of_isNan (h : isNan f x = true) : fpToInt f mode lo hi n x = (0, flagNV) := by
  obtain ⟨s, p, hu⟩ := unpack_of_isNan h
  unfold fpToInt
  rw [hu]

theorem fpToInt_inf (h : f.Ieee) (hx : f.code x = f.maxCode + 1) :
    fpToInt f mode lo hi n x = ((BitVec.ofInt n (if f.sign x then lo else hi)).toNat, flagNV) := by
  unfold fpToInt
  rw [h.unpack_inf hx, ← wrapInt_eq]

theorem fpToInt_finite (h : f.Ok) (hx : isFinite f x = true) : ∃ k : ℤ, RoundsToInt mode (fpValue f x) k ∧ fpToInt f mode lo hi n x =
    if k < lo then ((BitVec.ofInt n lo).toNat, flagNV) else if hi < k then ((BitVec.ofInt n hi).toNat, flagNV)
    else ((BitVec.ofInt n k).toNat, if (k : ℚ) = fpValue f x then 0 else flagNX) := by
  obtain ⟨t, nx, heq, hr, hnx, -⟩ := roundToInt_spec mode (f.sign x) (f.codeMant (f.code x)) (f.codeUnit (f.code x))
  have hval : fpValue f x = withSign (f.sign x) (f.codeMant (f.code x) * 2 ^ f.codeUnit (f.code x)) := fpValue_eq f x
  rw [← hval] at hr
  refine ⟨_, hr, ?_⟩
  unfold fpToInt
  rw [h.unpack_finite hx]
  dsimp only
  rw [heq, cast_ite_neg, hval]
  simp only [withSign_inj, ← hnx, wrapInt_eq, gt_iff_lt]
  cases nx <;> rfl

end

/-! Powers of two and integers as codes. -/

/-- The code of a power of two (R75). -/
theorem codeVal_pow (f : Fmt) {E : Nat} (hE : 1 ≤ E) : codeVal f (E * 2 ^ f.fw) = 2 ^ ((E : ℤ) - f.bias) := by
  have h := codeVal_of_parts f hE (Nat.pow_le_pow_right (by decide) (Nat.le_succ f.fw)) (.inl le_rfl)
  rw [← Nat.succ_mul, Nat.succ_eq_add_one, Nat.sub_add_cancel hE] at h
  rw [h]
  push_cast
  rw [← zpow_natCast, ← zpow_add₀ (by norm_num)]
  congr 1
  ring

/-- An integer that a format's significand holds has a code (R75). -/
theorem exists_code_natCast (f : Fmt) {k : Nat} (hk : k < 2 ^ (f.fw + 1)) (hb : 1 ≤ f.bias + f.fw) : ∃ c, codeVal f c = k := by
  obtain ⟨c, hc⟩ := exists_code f hk (e := 0) (by omega)
  exact ⟨c, by rw [hc, zpow_zero, mul_one]⟩

/-- Integers of 64 bits rounded into a format that holds their greatest power (R197). -/
theorem intToFp_spec {f : Fmt} (hok : f.Ok) (hbias : 1 ≤ f.bias) (hmax : (f.bias + 63) * 2 ^ f.fw ≤ f.maxCode) (mode : Nat) {i : ℤ}
    (hlo : -(2 ^ 63) ≤ i) (hhi : i < 2 ^ 63) : Rounds f mode i (intToFp f mode i).1 ∧
      (intToFp f mode i).2 = if fpValue f (intToFp f mode i).1 = i then 0 else flagNX := by
  unfold intToFp roundDyadic
  by_cases hi : i = 0
  · subst hi
    rw [if_pos (by rfl)]
    have hz : fpValue f (signed f false 0) = ((0 : ℤ) : ℚ) := by rw [fpValue_signed_zero, Int.cast_zero]
    exact ⟨rounds_of_eq mode hz, (if_pos hz).symm⟩
  · rw [if_neg (by simpa using hi)]
    have hpos : 0 < i.natAbs := Int.natAbs_pos.2 hi
    obtain ⟨b, c, hr, hcases⟩ := roundMag_cases hok mode (decide (i < 0)) 0 hpos one_pos
    have hv : (i.natAbs : ℚ) / (1 : ℕ) * 2 ^ (0 : ℤ) = i.natAbs := by simp
    rw [hv] at hr hcases
    have hc : c ≤ f.maxCode := by
      refine (hr.code_le ?_).trans hmax
      rw [codeVal_pow f (by omega)]
      have hexp : ((f.bias + 63 : ℕ) : ℤ) - f.bias = ((63 : ℕ) : ℤ) := by push_cast; ring
      rw [hexp, zpow_natCast]
      exact_mod_cast (by omega : i.natAbs ≤ 2 ^ 63)
    have htiny : ¬ ((i.natAbs : ℚ) < 2 ^ (1 - (f.bias : ℤ))) := by
      rw [not_lt]
      have h1 : (2 : ℚ) ^ (1 - (f.bias : ℤ)) ≤ 2 ^ (0 : ℤ) := two_zpow_le_two_zpow.2 (by omega)
      rw [zpow_zero] at h1
      exact h1.trans (by exact_mod_cast hpos)
    have hlt := hok.max_lt
    obtain ⟨hover, -⟩ | ⟨-, heq⟩ := hcases
    · omega
    · rw [heq]
      have hround := hr.rounds hok hc
      rw [withSign_natAbs] at hround
      refine ⟨hround, ?_⟩
      have hexact : codeVal f c = i.natAbs ↔ fpValue f (signed f (decide (i < 0)) c) = i := by
        rw [fpValue_signed f _ (by omega), ← withSign_natAbs i, withSign_inj]
      rw [underflowFlags_of_not_tiny htiny]
      simp only [hexact]

end Sys2Proof.Machine
end

section
/-! SUPPORT. FRND, conversions between formats, and conversions to and from the narrow formats (R78, R81, R192, R197, R199). -/

namespace Sys2Proof.Machine

/-- A small integer has a finite code of binary32. -/
theorem exists_f32_code_natCast {k : Nat} (hk : k < 2 ^ 24) : ∃ c ≤ f32.maxCode, codeVal f32 c = k := by
  obtain ⟨c, hc⟩ := exists_code_natCast f32 hk (by decide)
  refine ⟨c, le_trans (b := 151 * 2 ^ f32.fw) ?_ (by decide), hc⟩
  rw [← codeVal_le_iff (f := f32), hc, codeVal_pow f32 (by decide)]
  have hexp : ((151 : ℕ) : ℤ) - f32.bias = ((24 : ℕ) : ℤ) := by decide
  rw [hexp, zpow_natCast]
  exact_mod_cast hk.le

/-! FRND. -/

/-- The mode of a field of FRND: near, trunc, floor and ceil (R192). -/
def frndMode (b : Nat) : Nat := if b == 0 then 0 else if b == 1 then 1 else if b == 2 then 3 else 2

theorem frndMode_of_mem {b mode : Nat} (h : (b, mode) ∈ [(0, 0), (1, 1), (2, 3), (3, 2)]) : frndMode b = mode := by
  simp only [List.mem_cons, Prod.mk.injEq, List.not_mem_nil, or_false] at h
  rcases h with ⟨rfl, rfl⟩ | ⟨rfl, rfl⟩ | ⟨rfl, rfl⟩ | ⟨rfl, rfl⟩ <;> rfl

section
variable {f : Fmt} {x : Nat} (b : Nat)

theorem fpRound_of_isNan (h : isNan f x = true) : fpRound f b x = (quieten f x, if isSnan f x then flagNV else 0) := by
  obtain ⟨s, p, hu⟩ := unpack_of_isNan h
  unfold fpRound
  rw [hu]

theorem fpRound_inf (h : f.Ieee) (hx : f.code x = f.maxCode + 1) : fpRound f b x = (x, 0) := by
  unfold fpRound
  rw [h.unpack_inf hx]

theorem fpRound_of_mant_zero (h : f.Ok) (hx : isFinite f x = true) (hm : f.codeMant (f.code x) = 0) : fpRound f b x = (x, 0) := by
  unfold fpRound
  rw [h.unpack_finite hx]
  dsimp only
  rw [if_pos (by simp [hm])]

/-- FRND of a finite operand that is not 0, by the integer that its mode makes (R192). -/
theorem fpRound_of_roundToInt (h : f.Ok) (hx : isFinite f x = true) (hm : f.codeMant (f.code x) ≠ 0) {t : ℕ} {nx : Bool}
    (heq : roundToInt (frndMode b) (f.sign x) (f.codeMant (f.code x)) (f.codeUnit (f.code x)) = (if f.sign x then -(t : ℤ) else t, nx)) :
    fpRound f b x = if t = 0 then (signed f (f.sign x) 0, 0) else ((roundMag f 0 (f.sign x) t 1 0).1, 0) := by
  unfold fpRound
  rw [h.unpack_finite hx]
  dsimp only
  rw [if_neg (by simpa using hm)]
  unfold frndMode at heq
  rw [heq]
  dsimp only
  rcases Nat.eq_zero_or_pos t with rfl | ht
  · cases f.sign x <;> rfl
  · have hneg : decide ((if f.sign x then -(t : ℤ) else t) < 0) = f.sign x := by cases f.sign x <;> simp [ht]
    have habs : (if f.sign x then -(t : ℤ) else t).natAbs = t := by cases f.sign x <;> simp
    have hne : ((if f.sign x then -(t : ℤ) else t) == 0) = false := by cases f.sign x <;> simp [ht.ne']
    rw [hneg, habs, hne, if_neg (by decide), if_neg ht.ne']

end

/-- FRND of a finite operand of binary32: an integral value of its sign, what the mode makes of it (R192). -/
theorem fpRound_finite {b mode x : Nat} (hb : (b, mode) ∈ [(0, 0), (1, 1), (2, 3), (3, 2)]) (hx : isFinite f32 x = true) :
    (fpRound f32 b x).2 = 0 ∧ (fpRound f32 b x).1 / f32.signBit % 2 = x / f32.signBit % 2 ∧
      ∃ n : ℤ, RoundsToInt mode (fpValue f32 x) n ∧ fpValue f32 (fpRound f32 b x).1 = n := by
  have hok := ieee_f32.toOk
  have hval : fpValue f32 x = withSign (f32.sign x) (f32.codeMant (f32.code x) * 2 ^ f32.codeUnit (f32.code x)) := fpValue_eq f32 x
  by_cases hm : f32.codeMant (f32.code x) = 0
  · rw [fpRound_of_mant_zero b hok hx hm]
    rw [hm, Nat.cast_zero, zero_mul, withSign_zero] at hval
    refine ⟨rfl, rfl, 0, roundsToInt_of_eq ?_, ?_⟩ <;> rw [hval, Int.cast_zero]
  · obtain ⟨t, nx, heq, hr, -, hint, hsmall⟩ :=
      roundToInt_spec mode (f32.sign x) (f32.codeMant (f32.code x)) (f32.codeUnit (f32.code x))
    rw [← frndMode_of_mem hb] at heq
    rw [← hval] at hr
    -- the integer's magnitude is the value of a finite code
    obtain ⟨c, hc, hct⟩ : ∃ c ≤ f32.maxCode, codeVal f32 c = t := by
      rcases le_or_gt 0 (f32.codeUnit (f32.code x)) with he | he
      · exact ⟨f32.code x, hok.isFinite_iff.1 hx, (hint he).symm⟩
      · have hlt : f32.codeMant (f32.code x) < 2 ^ 24 := f32.codeMant_lt (f32.code x)
        have := hsmall he
        exact exists_f32_code_natCast (by omega)
    have hlt : c < f32.signBit := by have := hok.max_lt; omega
    have hres : fpRound f32 b x = (signed f32 (f32.sign x) c, 0) := by
      rw [fpRound_of_roundToInt b hok hx hm heq]
      rcases Nat.eq_zero_or_pos t with rfl | ht
      · rw [Nat.cast_zero, ← codeVal_zero f32, codeVal_inj] at hct
        rw [if_pos rfl, hct]
      · rw [if_neg ht.ne', roundMag_exact hok 0 _ ht one_pos hc (by rw [hct]; simp)]
    rw [hres]
    refine ⟨rfl, ?_, _, hr, ?_⟩
    · rw [f32.div_signBit_mod, f32.div_signBit_mod, f32.sign_signed _ hlt]
    · rw [fpValue_signed f32 _ hlt, hct, cast_ite_neg]

/-! Conversions between binary formats. -/

/-- A finite value converted rounds once (R197). -/
theorem fpConvert_roundedOnce {src dst : Fmt} (hsrc : src.Ok) (hdst : dst.Ieee) (mode : Nat) {x : Nat} (hx : isFinite src x = true) :
    RoundedOnce dst mode (fpValue src x) (fpConvert src dst mode x) := by
  unfold fpConvert
  rw [hsrc.unpack_finite hx, fpValue_eq]
  exact roundVal_roundedOnce hdst mode _ _ _

theorem fpConvert_of_isNan {src : Fmt} (dst : Fmt) (mode : Nat) {x : Nat} (hx : isNan src x = true) :
    fpConvert src dst mode x = (nanConvert src dst x, if isSnan src x then flagNV else 0) := by
  obtain ⟨s, p, hu⟩ := unpack_of_isNan hx
  unfold fpConvert
  rw [hu]

theorem mul_two_pow_add_or {A u w k : Nat} (hu : u < 2 ^ k) (hw : w < 2 ^ k) : A * 2 ^ k + u ||| w = A * 2 ^ k + (u ||| w) := by
  rw [← Nat.shiftLeft_eq, Nat.shiftLeft_add_eq_or_of_lt hu, Nat.or_assoc, ← Nat.shiftLeft_add_eq_or_of_lt (Nat.or_lt_two_pow hu hw)]

/-- A pattern of the greatest exponent field, quieted: a quiet NaN with the sign and the payload it had (R77, R78). -/
theorem quieten_signed {f : Fmt} (h : f.Ieee) (neg : Bool) {fr : Nat} (hfr : fr < 2 ^ f.fw) :
    let r := quieten f (signed f neg ((2 ^ f.ew - 1) * 2 ^ f.fw + fr))
    isNan f r = true ∧ isSnan f r = false ∧ f.sign r = neg ∧ r % 2 ^ (f.fw - 1) = fr % 2 ^ (f.fw - 1) := by
  have hfw := h.fw_pos
  obtain ⟨k, hk⟩ : ∃ k, f.fw = k + 1 := ⟨f.fw - 1, by omega⟩
  have hq : 2 ^ (f.fw - 1) < 2 ^ f.fw := Nat.pow_lt_pow_right (by decide) (by omega)
  have hor : fr ||| 2 ^ (f.fw - 1) < 2 ^ f.fw := Nat.or_lt_two_pow hfr hq
  have hpos : 0 < fr ||| 2 ^ (f.fw - 1) := (Nat.two_pow_pos _).trans_le Nat.right_le_or
  have hsb : f.signBit = 2 ^ f.ew * 2 ^ f.fw := by rw [f.signBit_eq, mul_comm]
  have hE := Nat.two_pow_pos f.ew
  have hlt : (2 ^ f.ew - 1) * 2 ^ f.fw + (fr ||| 2 ^ (f.fw - 1)) < f.signBit := by
    rw [hsb]
    obtain ⟨E, hE⟩ : ∃ E, 2 ^ f.ew = E + 1 := ⟨2 ^ f.ew - 1, by omega⟩
    rw [hE, Nat.add_sub_cancel, Nat.succ_mul]
    omega
  have hquiet : quieten f (signed f neg ((2 ^ f.ew - 1) * 2 ^ f.fw + fr)) =
      signed f neg ((2 ^ f.ew - 1) * 2 ^ f.fw + (fr ||| 2 ^ (f.fw - 1))) := by
    unfold quieten signed
    cases neg
    · exact mul_two_pow_add_or hfr hq
    · rw [if_pos rfl, if_pos rfl, hsb, add_right_comm, add_right_comm _ (fr ||| _), ← add_mul, mul_two_pow_add_or hfr hq]
  dsimp only
  refine ⟨?_, ?_, ?_, ?_⟩
  · rw [hquiet, h.isNan_iff, f.code_signed neg hlt, h.max_eq]
    omega
  · have hbit : hasBit (quieten f (signed f neg ((2 ^ f.ew - 1) * 2 ^ f.fw + fr))) (f.fw - 1) = true := by
      rw [quieten, hasBit, Nat.testBit_or, Nat.testBit_two_pow_self, Bool.or_true]
    rw [isSnan, hbit]
    simp
  · rw [hquiet, f.sign_signed neg hlt]
  · have hdvd : 2 ^ (f.fw - 1) ∣ 2 ^ f.fw := pow_dvd_pow _ (by omega)
    have hmod : (fr ||| 2 ^ (f.fw - 1)) % 2 ^ (f.fw - 1) = fr % 2 ^ (f.fw - 1) := by
      rw [Nat.or_mod_two_pow, Nat.mod_self, Nat.or_zero]
    have hcode : ((2 ^ f.ew - 1) * 2 ^ f.fw + (fr ||| 2 ^ (f.fw - 1))) % 2 ^ (f.fw - 1) = fr % 2 ^ (f.fw - 1) := by
      rw [Nat.add_mod, Nat.mod_eq_zero_of_dvd (hdvd.mul_left _), zero_add, Nat.mod_mod, hmod]
    rw [hquiet, signed]
    cases neg
    · exact hcode
    · rw [if_pos rfl, Nat.add_mod, hsb, Nat.mod_eq_zero_of_dvd (hdvd.mul_left _), add_zero, Nat.mod_mod, hcode]

/-- A NaN's payload moved between formats: shifted to the wider, or its high bits to the narrower (R78). -/
theorem nanConvert_spec {src dst : Fmt} (h : dst.Ieee) (x : Nat) :
    isNan dst (nanConvert src dst x) = true ∧ isSnan dst (nanConvert src dst x) = false ∧
      nanConvert src dst x / dst.signBit % 2 = x / src.signBit % 2 ∧
      nanConvert src dst x % 2 ^ (dst.fw - 1) =
        x % 2 ^ src.fw * 2 ^ (dst.fw - src.fw) / 2 ^ (src.fw - dst.fw) % 2 ^ (dst.fw - 1) := by
  have hfr : x % 2 ^ src.fw < 2 ^ src.fw := Nat.mod_lt _ (Nat.two_pow_pos _)
  have hpayload : (if dst.fw ≥ src.fw then x % 2 ^ src.fw * 2 ^ (dst.fw - src.fw) else x % 2 ^ src.fw / 2 ^ (src.fw - dst.fw)) =
      x % 2 ^ src.fw * 2 ^ (dst.fw - src.fw) / 2 ^ (src.fw - dst.fw) := by
    split
    · rename_i hle
      rw [Nat.sub_eq_zero_of_le hle, pow_zero, Nat.div_one]
    · rename_i hlt
      rw [Nat.sub_eq_zero_of_le (Nat.le_of_not_le hlt), pow_zero, mul_one]
  have hlt : x % 2 ^ src.fw * 2 ^ (dst.fw - src.fw) / 2 ^ (src.fw - dst.fw) < 2 ^ dst.fw := by
    rw [Nat.div_lt_iff_lt_mul (Nat.two_pow_pos _), ← pow_add]
    calc x % 2 ^ src.fw * 2 ^ (dst.fw - src.fw) < 2 ^ src.fw * 2 ^ (dst.fw - src.fw) :=
          Nat.mul_lt_mul_of_pos_right hfr (Nat.two_pow_pos _)
      _ = 2 ^ (dst.fw + (src.fw - dst.fw)) := by rw [← pow_add]; congr 1; omega
  obtain ⟨hnan, hsnan, hsign, hmod⟩ := quieten_signed h (src.sign x) hlt
  have heq : nanConvert src dst x = quieten dst (signed dst (src.sign x) ((2 ^ dst.ew - 1) * 2 ^ dst.fw +
      x % 2 ^ src.fw * 2 ^ (dst.fw - src.fw) / 2 ^ (src.fw - dst.fw))) := by
    rw [← hpayload]
    rfl
  rw [heq]
  exact ⟨hnan, hsnan, by rw [dst.div_signBit_mod, src.div_signBit_mod, hsign], hmod⟩

/-! Conversions to the narrow formats. -/

section
variable {dst : Fmt} {x : Nat}

theorem toNarrow_of_zero (hx : isFinite f32 x = true) (hz : fpValue f32 x = 0) :
    toNarrow f32 dst false x = (signed dst (f32.sign x) 0, 0) := by
  have hm : f32.codeMant (f32.code x) = 0 := by
    have h2 : (2 : ℚ) ^ f32.codeUnit (f32.code x) ≠ 0 := by positivity
    rw [fpValue_eq, withSign_eq_zero, codeVal, mul_eq_zero, or_iff_left h2] at hz
    exact_mod_cast hz
  unfold toNarrow
  rw [ieee_f32.unpack_finite hx]
  dsimp only
  rw [if_pos (by simp [hm])]

/-- A finite binary32 value that is not 0 goes to a narrow format as round() to nearest has it (R81). -/
theorem toNarrow_cases (hok : dst.Ok) (hx : isFinite f32 x = true) (hz : fpValue f32 x ≠ 0) :
    ∃ b c, RoundsCode dst 0 (f32.sign x) |fpValue f32 x| b c ∧
      ((dst.maxCode < c ∧ toNarrow f32 dst false x = (signed dst (f32.sign x) (overflowCode dst 0 (f32.sign x)), flagOF ||| flagNX)) ∨
        (c ≤ dst.maxCode ∧ (toNarrow f32 dst false x).1 = signed dst (f32.sign x) c)) := by
  have habs : |fpValue f32 x| = f32.codeMant (f32.code x) * 2 ^ f32.codeUnit (f32.code x) := abs_fpValue f32 x
  have hm : 0 < f32.codeMant (f32.code x) := by
    rw [Nat.pos_iff_ne_zero]
    intro hm
    rw [hm, Nat.cast_zero, zero_mul, abs_eq_zero] at habs
    exact hz habs
  obtain ⟨b, c, hr, hcases⟩ := roundMag_cases hok 0 (f32.sign x) (f32.codeUnit (f32.code x)) hm one_pos
  rw [Nat.cast_one, div_one, ← habs] at hr hcases
  have heq : toNarrow f32 dst false x = roundMag dst 0 (f32.sign x) (f32.codeMant (f32.code x)) 1 (f32.codeUnit (f32.code x)) := by
    unfold toNarrow
    rw [ieee_f32.unpack_finite hx]
    dsimp only
    rw [if_neg (by simpa using hm.ne')]
    rfl
  rw [heq]
  refine ⟨b, c, hr, hcases.imp id fun ⟨hc, h⟩ => ⟨hc, by rw [h]⟩⟩

/-- The narrow result of a value that the format's rounding keeps finite (R81). -/
theorem toNarrow_rounds (hok : dst.Ok) (hx : isFinite f32 x = true)
    (hv : 2 * |fpValue f32 x| < codeVal dst dst.maxCode + codeVal dst (dst.maxCode + 1) ∨
      (2 * |fpValue f32 x| = codeVal dst dst.maxCode + codeVal dst (dst.maxCode + 1) ∧ dst.maxCode % 2 = 0)) :
    Rounds dst 0 (fpValue f32 x) (toNarrow f32 dst false x).1 := by
  by_cases hz : fpValue f32 x = 0
  · rw [toNarrow_of_zero hx hz, hz]
    exact rounds_of_eq 0 (fpValue_signed_zero _ _)
  · obtain ⟨b, c, hr, hcases⟩ := toNarrow_cases hok hx hz
    have hc := hr.le_iff.2 hv
    obtain ⟨hlt, -⟩ | ⟨-, heq⟩ := hcases
    · omega
    · have hsigned : withSign (f32.sign x) |fpValue f32 x| = fpValue f32 x := by rw [abs_fpValue, ← fpValue_eq]
      rw [heq, ← hsigned]
      exact hr.rounds hok hc

/-- The narrow result of a value beyond: the overflow result of the format (R80, R81). -/
theorem toNarrow_overflow (hok : dst.Ok) (hx : isFinite f32 x = true)
    (hv : codeVal dst dst.maxCode + codeVal dst (dst.maxCode + 1) < 2 * |fpValue f32 x| ∨
      (2 * |fpValue f32 x| = codeVal dst dst.maxCode + codeVal dst (dst.maxCode + 1) ∧ dst.maxCode % 2 = 1)) :
    toNarrow f32 dst false x = (signed dst (f32.sign x) (overflowCode dst 0 (f32.sign x)), flagOF ||| flagNX) := by
  have hpos : 0 < codeVal dst (dst.maxCode + 1) := codeVal_pos.2 (Nat.succ_pos _)
  have hnonneg := codeVal_nonneg dst dst.maxCode
  have hz : fpValue f32 x ≠ 0 := by
    intro hz
    rw [hz, abs_zero, mul_zero] at hv
    rcases hv with hv | ⟨hv, -⟩ <;> linarith
  obtain ⟨b, c, hr, hcases⟩ := toNarrow_cases hok hx hz
  obtain ⟨-, heq⟩ | ⟨hc, -⟩ := hcases
  · exact heq
  · rcases hr.le_iff.1 hc with h | ⟨h, heven⟩ <;> rcases hv with hv | ⟨hv, hodd⟩
    · linarith
    · linarith
    · linarith
    · omega

end

theorem codeVal_e4m3_max : codeVal e4m3 e4m3.maxCode = 448 := by
  norm_num [codeVal, Fmt.codeMant, Fmt.codeUnit, Fmt.codeExp, e4m3]

theorem codeVal_e4m3_over : codeVal e4m3 (e4m3.maxCode + 1) = 480 := by
  norm_num [codeVal, Fmt.codeMant, Fmt.codeUnit, Fmt.codeExp, e4m3]

theorem codeVal_e5m2_max : codeVal e5m2 e5m2.maxCode = 57344 := by
  norm_num [codeVal, Fmt.codeMant, Fmt.codeUnit, Fmt.codeExp, e5m2]

theorem codeVal_e5m2_over : codeVal e5m2 (e5m2.maxCode + 1) = 65536 := by
  norm_num [codeVal, Fmt.codeMant, Fmt.codeUnit, Fmt.codeExp, e5m2]

/-- A pattern of eight bits by its sign and its code, as R81 writes it. -/
theorem signed_eight {f : Fmt} (hf : f.signBit = 0x80) (x c : Nat) : signed f (f32.sign x) c = x / 2 ^ 31 % 2 * 0x80 + c := by
  have h : x / 2 ^ 31 % 2 = (f32.sign x).toNat := f32.div_signBit_mod x
  rw [h, signed, hf]
  cases f32.sign x
  · simp
  · simp [Nat.add_comm]

section
variable {x : Nat} (hx : isFinite f32 x = true)
include hx

theorem toNarrow_e4m3 : (|fpValue f32 x| ≤ 464 → Rounds e4m3 0 (fpValue f32 x) (toNarrow f32 e4m3 false x).1) ∧
    (464 < |fpValue f32 x| → toNarrow f32 e4m3 false x = (x / 2 ^ 31 % 2 * 0x80 + 0x7E, flagOF ||| flagNX)) := by
  have hround := toNarrow_rounds ok_e4m3 hx
  have hover := toNarrow_overflow ok_e4m3 hx
  rw [codeVal_e4m3_max, codeVal_e4m3_over] at hround hover
  refine ⟨fun hv => hround ?_, fun hv => (hover (.inl (by linarith))).trans ?_⟩
  · exact hv.lt_or_eq.imp (fun h => by linarith) fun h => ⟨by linarith, rfl⟩
  · rw [← signed_eight (f := e4m3) rfl]
    rfl

theorem toNarrow_e5m2 : (|fpValue f32 x| < 61440 → Rounds e5m2 0 (fpValue f32 x) (toNarrow f32 e5m2 false x).1) ∧
    (61440 ≤ |fpValue f32 x| → toNarrow f32 e5m2 false x = (x / 2 ^ 31 % 2 * 0x80 + 0x7C, flagOF ||| flagNX)) := by
  have hround := toNarrow_rounds ieee_e5m2.toOk hx
  have hover := toNarrow_overflow ieee_e5m2.toOk hx
  rw [codeVal_e5m2_max, codeVal_e5m2_over] at hround hover
  refine ⟨fun hv => hround (.inl (by linarith)), fun hv => (hover ?_).trans ?_⟩
  · exact hv.lt_or_eq.imp (fun h => by linarith) fun h => ⟨by linarith, rfl⟩
  · rw [← signed_eight (f := e5m2) rfl]
    rfl

end

/-! Conversions from the narrow formats. -/

/-- round() into a format of a reading that has a finite code there is that code, with no flag. -/
theorem roundVal_exact {f : Fmt} (hok : f.Ok) (mode : Nat) (s : Bool) {m c : Nat} {e : ℤ} (hc : c ≤ f.maxCode)
    (hv : codeVal f c = m * 2 ^ e) : roundVal f mode (.fin s m e) = (signed f s c, 0) := by
  unfold roundVal
  rcases Nat.eq_zero_or_pos m with rfl | hm
  · rw [Nat.cast_zero, zero_mul, ← codeVal_zero f, codeVal_inj] at hv
    rw [hv]
    rfl
  · dsimp only
    rw [if_neg (by simpa using hm.ne'), roundMag_exact hok mode s hm one_pos hc (by rw [hv, Nat.cast_one, div_one])]

/-- A finite value of FP8 is one of binary32 (R81). -/
theorem fromNarrow_exact {f : Fmt} (hok : f.Ok) (hfw : f.fw ≤ 23) (hbias : f.bias + f.fw ≤ 149) (hmax : codeVal f f.maxCode ≤ 2 ^ 16)
    {x : Nat} (hx : isFinite f x = true) :
    (fromNarrow f f32 x).2 = 0 ∧ fpValue f32 (fromNarrow f f32 x).1 = fpValue f x := by
  have hmant : f.codeMant (f.code x) < 2 ^ (f32.fw + 1) := (f.codeMant_lt _).trans_le (Nat.pow_le_pow_right (by decide) (Nat.succ_le_succ hfw))
  have hexp := f.codeExp_pos (f.code x)
  obtain ⟨c, hc⟩ := exists_code f32 (e := f.codeUnit (f.code x)) hmant (by
    unfold Fmt.codeUnit f32
    dsimp only
    omega)
  have hcmax : c ≤ f32.maxCode := by
    refine le_trans (b := 143 * 2 ^ f32.fw) ?_ (by decide)
    rw [← codeVal_le_iff (f := f32), hc, codeVal_pow f32 (by decide)]
    have hexp : ((143 : ℕ) : ℤ) - f32.bias = ((16 : ℕ) : ℤ) := by decide
    rw [hexp, zpow_natCast]
    exact (codeVal_le_iff.2 (hok.isFinite_iff.1 hx)).trans hmax
  have hres : fromNarrow f f32 x = (signed f32 (f.sign x) c, 0) := by
    unfold fromNarrow
    rw [hok.unpack_finite hx]
    exact roundVal_exact ieee_f32.toOk 0 _ hcmax hc
  have hlt := ieee_f32.max_lt
  rw [hres]
  refine ⟨rfl, ?_⟩
  rw [fpValue_signed f32 _ (by omega), hc, fpValue_eq]
  rfl

end Sys2Proof.Machine
end

section
/-! SUPPORT. The functions of XMATH (R202): special operands, exact results, and the reciprocals and roots, which are rounded correctly. -/

namespace Sys2Proof.Machine

/-! Special operands. -/

/-- The functions of XMATH on the zeros and infinities (R202). -/
theorem xmath_specials {s : Nat} (hs : s < 2) :
    xFrcp (s * 2 ^ 31) = (s * 2 ^ 31 + 0x7F800000, flagDZ) ∧ xFrcp (s * 2 ^ 31 + 0x7F800000) = (s * 2 ^ 31, 0) ∧
    xFrsq (s * 2 ^ 31) = (s * 2 ^ 31 + 0x7F800000, flagDZ) ∧ xFrsq 0x7F800000 = (0, 0) ∧
    xFsqrt (s * 2 ^ 31) = (s * 2 ^ 31, 0) ∧ xFsqrt 0x7F800000 = (0x7F800000, 0) ∧
    xFexp2 0xFF800000 = (0, 0) ∧ xFexp2 0x7F800000 = (0x7F800000, 0) ∧
    xFlog2 (s * 2 ^ 31) = (0xFF800000, flagDZ) ∧ xFlog2 0x7F800000 = (0x7F800000, 0) ∧
    (∀ co, xTurn co (s * 2 ^ 31 + 0x7F800000) = (0x7FC00000, flagNV)) := by
  interval_cases s <;> decide

section
variable {x : Nat}

theorem xmath_of_isNan (hx : isNan f32 x = true) : ∀ h ∈ [xFrcp, xFrsq, xFsqrt, xFexp2, xFlog2, xTurn false, xTurn true],
    h x = (quieten f32 x, if isSnan f32 x then flagNV else 0) := by
  obtain ⟨s, p, hu⟩ := unpack_of_isNan hx
  simp only [List.forall_mem_cons, List.not_mem_nil, false_implies, implies_true, and_true]
  refine ⟨?_, ?_, ?_, ?_, ?_, ?_, ?_⟩
  · rw [xFrcp, hu]; rfl
  · rw [xFrsq, hu]; rfl
  · rw [xFsqrt, hu]; rfl
  · rw [xFexp2, hu]; rfl
  · rw [xFlog2, hu]; rfl
  · rw [xTurn, hu]; rfl
  · rw [xTurn, hu]; rfl

/-- What a finite value that is not 0 says of its significand. -/
theorem codeMant_pos_of_fpValue_ne {f : Fmt} (hz : fpValue f x ≠ 0) : 0 < f.codeMant (f.code x) := by
  rw [Nat.pos_iff_ne_zero]
  intro hm
  rw [fpValue_eq, codeVal, hm, Nat.cast_zero, zero_mul, withSign_zero] at hz
  exact hz rfl

theorem sign_of_fpValue_neg {f : Fmt} (hv : fpValue f x < 0) : f.sign x = true := by
  by_contra hs
  rw [fpValue_eq, Bool.not_eq_true _ |>.mp hs, withSign_false] at hv
  exact absurd (codeVal_nonneg f _) hv.not_ge

theorem sign_of_fpValue_pos {f : Fmt} (hv : 0 < fpValue f x) : f.sign x = false := by
  by_contra hs
  rw [fpValue_eq, Bool.not_eq_false _ |>.mp hs, withSign_true] at hv
  linarith [codeVal_nonneg f (f.code x)]

/-- The value of a pattern by its reading's parts. -/
theorem fpValue_parts (f : Fmt) (x : Nat) : fpValue f x = withSign (f.sign x) (f.codeMant (f.code x) * 2 ^ f.codeUnit (f.code x)) :=
  fpValue_eq f x

/-- Roots and logarithms of negative operands (R202). -/
theorem xmath_of_neg (hx : isNan f32 x = false) (hv : fpValue f32 x < 0) : ∀ h ∈ [xFrsq, xFsqrt, xFlog2], h x = (0x7FC00000, flagNV) := by
  have hs := sign_of_fpValue_neg hv
  simp only [List.forall_mem_cons, List.not_mem_nil, false_implies, implies_true, and_true]
  rcases ieee_f32.unpack_cases hx with ⟨-, hu⟩ | ⟨-, hu⟩ <;> rw [hs] at hu
  · have hm : (f32.codeMant (f32.code x) == 0) = false := by simpa using (codeMant_pos_of_fpValue_ne hv.ne).ne'
    rw [xFrsq, xFsqrt, xFlog2, hu]
    dsimp only
    rw [hm]
    exact ⟨rfl, rfl, rfl⟩
  · rw [xFrsq, xFsqrt, xFlog2, hu]
    exact ⟨rfl, rfl, rfl⟩

end

/-! Reciprocals. -/

/-- FRCP is the reciprocal rounded once to nearest-even (R202). -/
theorem xFrcp_rounds {x : Nat} (hx : isFinite f32 x = true) (hz : fpValue f32 x ≠ 0) (hfin : isFinite f32 (xFrcp x).1 = true) :
    (xFrcp x).2 = 0 ∧ Rounds f32 0 (1 / fpValue f32 x) (xFrcp x).1 := by
  have hm := codeMant_pos_of_fpValue_ne hz
  have heq : xFrcp x = ((roundMag f32 0 (f32.sign x) 1 (f32.codeMant (f32.code x)) (-f32.codeUnit (f32.code x))).1, 0) := by
    rw [xFrcp, ieee_f32.unpack_finite hx]
    dsimp only
    rw [if_neg (by simpa using hm.ne')]
  have hval : withSign (f32.sign x) ((1 : ℕ) / (f32.codeMant (f32.code x)) * 2 ^ (-f32.codeUnit (f32.code x))) = 1 / fpValue f32 x := by
    rw [fpValue_parts, zpow_neg, Nat.cast_one, one_div, one_div, ← mul_inv]
    cases f32.sign x
    · rfl
    · rw [withSign_true, withSign_true, inv_neg]
  rw [heq] at hfin ⊢
  refine ⟨rfl, ?_⟩
  rw [← hval]
  exact (roundMag_roundedOnce ieee_f32 0 (f32.sign x) _ one_pos hm hfin).1

/-! Integer square roots. -/

/-- One bit of the root a step: what remains to be found lies below the next power. -/
theorem isqrtGo_spec (n : Nat) : ∀ k r, r * r ≤ n → n < (r + 2 ^ k) * (r + 2 ^ k) →
    isqrtGo k n r * isqrtGo k n r ≤ n ∧ n < (isqrtGo k n r + 1) * (isqrtGo k n r + 1)
  | 0, r, hlo, hhi => ⟨hlo, hhi⟩
  | k + 1, r, hlo, hhi => by
    rw [isqrtGo]
    by_cases h : (r + 2 ^ k) * (r + 2 ^ k) ≤ n
    · rw [if_pos h]
      refine isqrtGo_spec n k _ h ?_
      rwa [pow_succ, Nat.mul_two, ← Nat.add_assoc] at hhi
    · rw [if_neg h]
      exact isqrtGo_spec n k r hlo (Nat.lt_of_not_le h)

theorem isqrt_spec (n : Nat) : isqrt n * isqrt n ≤ n ∧ n < (isqrt n + 1) * (isqrt n + 1) := by
  refine isqrtGo_spec n _ 0 (Nat.zero_le _) ?_
  rw [Nat.zero_add, ← pow_add]
  exact Nat.lt_log2_self.trans_le (Nat.pow_le_pow_right (by decide) (by omega))

/-! A value between two neighbours of a fine grid. -/

/-- Twice the middle between a code's value and the next is a whole number of grid units, where it is large against them. -/
theorem exists_middle_eq {g : ℤ} {k : Nat} (h : 2 ^ 26 * 2 ^ g ≤ codeVal f32 k + codeVal f32 (k + 1)) :
    ∃ N : ℕ, codeVal f32 k + codeVal f32 (k + 1) = N * 2 ^ (g + 1) := by
  have hmid : codeVal f32 k + codeVal f32 (k + 1) = ((2 * f32.codeMant k + 1 : ℕ) : ℚ) * 2 ^ f32.codeUnit k := by
    rw [codeVal_succ, codeVal]
    push_cast
    ring
  have hmant : f32.codeMant k < 2 ^ 24 := f32.codeMant_lt k
  have hsmall : ((2 * f32.codeMant k + 1 : ℕ) : ℚ) < 2 ^ 25 := by exact_mod_cast (by omega : 2 * f32.codeMant k + 1 < 2 ^ 25)
  have hunit : g + 1 ≤ f32.codeUnit k := by
    have hg : (2 : ℚ) ^ 25 * 2 ^ (g + 1) < 2 ^ 25 * 2 ^ f32.codeUnit k := calc
      (2 : ℚ) ^ 25 * 2 ^ (g + 1) = 2 ^ 26 * 2 ^ g := by rw [zpow_add_one₀ (by norm_num)]; ring
      _ ≤ ((2 * f32.codeMant k + 1 : ℕ) : ℚ) * 2 ^ f32.codeUnit k := h.trans_eq hmid
      _ < 2 ^ 25 * 2 ^ f32.codeUnit k := by gcongr
    exact (two_zpow_lt_two_zpow.1 (lt_of_mul_lt_mul_left hg (by positivity))).le
  refine ⟨(2 * f32.codeMant k + 1) * 2 ^ (f32.codeUnit k - (g + 1)).toNat, ?_⟩
  rw [hmid, Nat.cast_mul, Nat.cast_pow, Nat.cast_ofNat, two_zpow_toNat (by omega), mul_assoc, ← zpow_add₀ (by norm_num), sub_add_cancel]

/-- A value on a fine grid, or known to lie strictly between two neighbours there, rounded once to nearest-even: twice the middle below
the result is no more than twice the lower neighbour, twice the middle above it no less than twice the upper (R202). -/
theorem roundSticky_middles {r : ℕ} {g : ℤ} (hr : 2 ^ 28 ≤ r) (hmax : ((r : ℚ) + 1) * 2 ^ g ≤ 2 ^ 100) (exact : Bool) :
    ∃ c ≤ f32.maxCode, (roundSticky f32 0 false r g exact).1 = c ∧ codeVal f32 (c - 1) + codeVal f32 c ≤ r * 2 ^ (g + 1) ∧
      (if exact then (r : ℚ) else r + 1) * 2 ^ (g + 1) ≤ codeVal f32 c + codeVal f32 (c + 1) := by
  have hg : (0 : ℚ) < 2 ^ g := by positivity
  have hg1 : (2 : ℚ) ^ (g + 1) = 2 * 2 ^ g := by rw [zpow_add_one₀ (by norm_num), mul_comm]
  have hr' : (2 : ℚ) ^ 28 ≤ r := by exact_mod_cast hr
  -- the value handed to round(), in grid units twice over
  obtain ⟨w, v, hw, hv, hround⟩ : ∃ (w : ℕ) (v : ℚ), (w = if exact then 2 * r else 2 * r + 1) ∧ 2 * v = w * 2 ^ g ∧
      ∃ b c, RoundsCode f32 0 false v b c ∧ (c ≤ f32.maxCode → (roundSticky f32 0 false r g exact).1 = c) := by
    have hcase {n : ℕ} {e : ℤ} (hn : 0 < n) : ∃ b c, RoundsCode f32 0 false (n / (1 : ℕ) * 2 ^ e) b c ∧
        (c ≤ f32.maxCode → (roundMag f32 0 false n 1 e).1 = c) := by
      obtain ⟨b, c, hrc, hcases⟩ := roundMag_cases ieee_f32.toOk 0 false e hn one_pos
      refine ⟨b, c, hrc, fun hc => ?_⟩
      obtain ⟨hlt, -⟩ | ⟨-, heq⟩ := hcases
      · omega
      · rw [heq]
        rfl
    cases exact
    · refine ⟨2 * r + 1, _, rfl, ?_, hcase (by omega)⟩
      rw [Nat.cast_one, div_one, zpow_sub_one₀ (by norm_num)]
      ring
    · refine ⟨2 * r, _, rfl, ?_, hcase (by omega)⟩
      rw [Nat.cast_one, div_one]
      push_cast
      ring
  obtain ⟨b, c, hrc, heq⟩ := hround
  have hwle : w ≤ 2 * r + 1 := by rw [hw]; split <;> omega
  have hwge : 2 * r ≤ w := by rw [hw]; split <;> omega
  have hwle' : (w : ℚ) ≤ 2 * r + 1 := by exact_mod_cast hwle
  have hwge' : (2 : ℚ) * r ≤ w := by exact_mod_cast hwge
  have hc : c ≤ f32.maxCode := by
    refine (hrc.code_le (k := 227 * 2 ^ f32.fw) ?_).trans (by decide)
    rw [codeVal_pow f32 (by decide)]
    have hexp : ((227 : ℕ) : ℤ) - f32.bias = ((100 : ℕ) : ℤ) := by decide
    rw [hexp, zpow_natCast]
    have : (w : ℚ) * 2 ^ g ≤ 2 * ((r + 1) * 2 ^ g) := by rw [← mul_assoc]; gcongr; linarith
    linarith
  refine ⟨c, hc, heq hc, ?_, ?_⟩
  · rcases c with _ | j
    · simp only [Nat.zero_sub, codeVal_zero, add_zero]
      positivity
    · obtain ⟨hle, -⟩ := hrc.middle_below_le (k := j) rfl
      rw [hv] at hle
      rw [Nat.add_sub_cancel]
      rcases lt_or_ge (codeVal f32 j + codeVal f32 (j + 1)) (2 ^ 26 * 2 ^ g) with hsmall | hlarge
      · rw [hg1, ← mul_assoc]
        refine hsmall.le.trans ?_
        gcongr
        linarith
      · obtain ⟨N, hN⟩ := exists_middle_eq hlarge
        rw [hN, hg1] at hle ⊢
        have hNw : ((2 * N : ℕ) : ℚ) * 2 ^ g ≤ w * 2 ^ g := by push_cast; linarith
        have hNr : 2 * N ≤ w := by exact_mod_cast le_of_mul_le_mul_right hNw hg
        gcongr
        omega
  · obtain ⟨hle, -⟩ := hrc.le_middle_above
    rw [hv] at hle
    have hlarge : 2 ^ 26 * 2 ^ g ≤ codeVal f32 c + codeVal f32 (c + 1) := by
      refine le_trans ?_ hle
      gcongr
      linarith
    obtain ⟨N, hN⟩ := exists_middle_eq hlarge
    rw [hN, hg1] at hle ⊢
    have hwN : (w : ℚ) * 2 ^ g ≤ ((2 * N : ℕ) : ℚ) * 2 ^ g := by push_cast; linarith
    have hwN' : w ≤ 2 * N := by exact_mod_cast le_of_mul_le_mul_right hwN hg
    gcongr
    cases exact
    · rw [if_neg (by decide)] at hw ⊢
      exact_mod_cast (by omega : r + 1 ≤ N)
    · rw [if_pos rfl] at hw ⊢
      exact_mod_cast (by omega : r ≤ N)

/-- A code of binary32 as a pattern. -/
theorem fpValue_of_lt {c : Nat} (hc : c < f32.signBit) : fpValue f32 c = codeVal f32 c := fpValue_signed f32 false hc

/-! Square roots. -/

/-- A reading's significand with its exponent made even, as the roots take it. -/
theorem exists_even_parts {m : ℕ} (hm : 0 < m) (e : ℤ) : ∃ (m1 : ℕ) (h : ℤ),
    (if (e % 2 != 0) = true then 2 * m else m) = m1 ∧ (if (e % 2 != 0) = true then e - 1 else e) = 2 * h ∧
      (m1 : ℚ) * 2 ^ (2 * h) = m * 2 ^ e ∧ m ≤ m1 ∧ m1 ≤ 2 * m ∧ e - 1 ≤ 2 * h ∧ 2 * h ≤ e := by
  by_cases hodd : e % 2 = 0
  · have hf : ¬ (e % 2 != 0) = true := by simpa using hodd
    refine ⟨m, e / 2, if_neg hf, (if_neg hf).trans (by omega), ?_, le_rfl, by omega, by omega, by omega⟩
    congr 2
    omega
  · have ht : (e % 2 != 0) = true := by simpa using hodd
    refine ⟨2 * m, (e - 1) / 2, if_pos ht, (if_pos ht).trans (by omega), ?_, by omega, le_rfl, by omega, by omega⟩
    have hexp : 2 * ((e - 1) / 2) = e - 1 := by omega
    rw [hexp, zpow_sub_one₀ (by norm_num)]
    push_cast
    ring

/-- The bounds of a finite reading of binary32. -/
theorem f32_parts_bounds {x : Nat} (hx : isFinite f32 x = true) :
    f32.codeMant (f32.code x) < 2 ^ 24 ∧ -149 ≤ f32.codeUnit (f32.code x) ∧ f32.codeUnit (f32.code x) ≤ 104 := by
  have hcode := ieee_f32.isFinite_iff.1 hx
  have hexp := f32.codeExp_pos (f32.code x)
  have hle : f32.codeExp (f32.code x) ≤ 254 := by
    unfold Fmt.codeExp
    simp only [f32] at hcode ⊢
    omega
  unfold Fmt.codeUnit
  refine ⟨f32.codeMant_lt _, ?_, ?_⟩ <;> simp only [f32] at hexp hle ⊢ <;> omega

theorem zpow_two_mul_eq_sq (a : ℤ) : (2 : ℚ) ^ (2 * a) = (2 ^ a) ^ 2 := by rw [mul_comm, zpow_mul, zpow_ofNat]

/-- FSQRT is the root rounded correctly (R202). -/
theorem xFsqrt_middles {x : Nat} (hx : isFinite f32 x = true) (hv : 0 < fpValue f32 x) : (xFsqrt x).2 = 0 ∧
    (fpValue f32 ((xFsqrt x).1 - 1) + fpValue f32 (xFsqrt x).1) ^ 2 ≤ 4 * fpValue f32 x ∧
      4 * fpValue f32 x ≤ (fpValue f32 (xFsqrt x).1 + fpValue f32 ((xFsqrt x).1 + 1)) ^ 2 := by
  have hm := codeMant_pos_of_fpValue_ne hv.ne'
  obtain ⟨hm24, -, he⟩ := f32_parts_bounds hx
  obtain ⟨m1, h, hm1, h1, hval, hle, hle2, -, hhe⟩ := exists_even_parts hm (f32.codeUnit (f32.code x))
  have hv' : fpValue f32 x = m1 * 2 ^ (2 * h) := by rw [fpValue_parts, sign_of_fpValue_pos hv, hval]; rfl
  obtain ⟨hlo, hhi⟩ := isqrt_spec (m1 * 2 ^ 128)
  obtain ⟨r, hr⟩ : ∃ r, isqrt (m1 * 2 ^ 128) = r := ⟨_, rfl⟩
  rw [hr] at hlo hhi
  have heq : xFsqrt x = ((roundSticky f32 0 false r (h - 64) (r * r == m1 * 2 ^ 128)).1, 0) := by
    rw [xFsqrt, ieee_f32.unpack_finite hx, sign_of_fpValue_pos hv]
    dsimp only
    rw [if_neg (by simpa using hm.ne'), if_neg (by decide), hm1, h1, hr, Int.mul_ediv_cancel_left _ (by decide)]
  have hrlo : 2 ^ 64 ≤ r := by
    by_contra hlt
    have : (r + 1) * (r + 1) ≤ 2 ^ 64 * 2 ^ 64 := Nat.mul_le_mul (by omega) (by omega)
    omega
  have hrhi : r < 2 ^ 77 := by
    by_contra hge
    have : 2 ^ 77 * 2 ^ 77 ≤ r * r := Nat.mul_le_mul (by omega) (by omega)
    omega
  have hmax : ((r : ℚ) + 1) * 2 ^ (h - 64) ≤ 2 ^ 100 := by
    have hr1 : (r : ℚ) + 1 ≤ 2 ^ 77 := by exact_mod_cast hrhi
    have hg : (2 : ℚ) ^ (h - 64) ≤ 2 ^ (0 : ℤ) := two_zpow_le_two_zpow.2 (by omega)
    calc ((r : ℚ) + 1) * 2 ^ (h - 64) ≤ 2 ^ 77 * 2 ^ (0 : ℤ) := by gcongr
      _ ≤ 2 ^ 100 := by norm_num
  obtain ⟨c, hc, hres, hbelow, habove⟩ := roundSticky_middles (by omega : 2 ^ 28 ≤ r) hmax (r * r == m1 * 2 ^ 128)
  have hlt := ieee_f32.max_lt
  -- the square of twice y grid units
  have hsq (y : ℚ) : (y * 2 ^ (h - 64 + 1)) ^ 2 = y ^ 2 * (2 ^ 128)⁻¹ * (4 * 2 ^ (2 * h)) := by
    have hexp : h - 64 + 1 = h - 63 := by ring
    rw [hexp, zpow_sub₀ (by norm_num), zpow_two_mul_eq_sq]
    norm_num
    ring
  have hgrid : 4 * fpValue f32 x = (m1 * 2 ^ 128) * (2 ^ 128)⁻¹ * (4 * 2 ^ (2 * h)) := by
    rw [hv']
    field_simp
  rw [heq, hres]
  refine ⟨rfl, ?_, ?_⟩
  · rw [fpValue_of_lt (by omega : c - 1 < _), fpValue_of_lt (by omega : c < _)]
    refine (pow_le_pow_left₀ (add_nonneg (codeVal_nonneg _ _) (codeVal_nonneg _ _)) hbelow 2).trans ?_
    rw [hsq, hgrid]
    gcongr
    rw [sq]
    exact_mod_cast hlo
  · rw [fpValue_of_lt (by omega : c < _), fpValue_of_lt (by omega : c + 1 < _)]
    refine le_trans ?_ (pow_le_pow_left₀ (by split <;> positivity) habove 2)
    rw [hsq, hgrid]
    gcongr
    by_cases hex : r * r = m1 * 2 ^ 128
    · rw [if_pos (by simpa using hex), sq]
      exact_mod_cast hex.ge
    · rw [if_neg (by simpa using hex), sq]
      exact_mod_cast hhi.le

/-- FRSQ is the reciprocal root rounded correctly (R202). -/
theorem xFrsq_middles {x : Nat} (hx : isFinite f32 x = true) (hv : 0 < fpValue f32 x) : (xFrsq x).2 = 0 ∧
    (fpValue f32 ((xFrsq x).1 - 1) + fpValue f32 (xFrsq x).1) ^ 2 * fpValue f32 x ≤ 4 ∧
      4 ≤ (fpValue f32 (xFrsq x).1 + fpValue f32 ((xFrsq x).1 + 1)) ^ 2 * fpValue f32 x := by
  have hm := codeMant_pos_of_fpValue_ne hv.ne'
  obtain ⟨hm24, he, -⟩ := f32_parts_bounds hx
  obtain ⟨m1, h, hm1, h1, hval, hle, hle2, hhe, -⟩ := exists_even_parts hm (f32.codeUnit (f32.code x))
  have hv' : fpValue f32 x = m1 * 2 ^ (2 * h) := by rw [fpValue_parts, sign_of_fpValue_pos hv, hval]; rfl
  have hm1pos : 0 < m1 := by omega
  obtain ⟨hlo, hhi⟩ := isqrt_spec (2 ^ 192 / m1)
  obtain ⟨r, hr⟩ : ∃ r, isqrt (2 ^ 192 / m1) = r := ⟨_, rfl⟩
  rw [hr] at hlo hhi
  have hlo' : r * r * m1 ≤ 2 ^ 192 := (Nat.le_div_iff_mul_le hm1pos).1 hlo
  have hhi' : 2 ^ 192 < (r + 1) * (r + 1) * m1 := (Nat.div_lt_iff_lt_mul hm1pos).1 hhi
  have heq : xFrsq x = ((roundSticky f32 0 false r (-96 - h) (r * r * m1 == 2 ^ 192)).1, 0) := by
    rw [xFrsq, ieee_f32.unpack_finite hx, sign_of_fpValue_pos hv]
    dsimp only
    rw [if_neg (by simpa using hm.ne'), if_neg (by decide), hm1, h1, hr, Int.mul_ediv_cancel_left _ (by decide)]
  have hrlo : 2 ^ 28 ≤ r := by
    by_contra hlt
    have : (r + 1) * (r + 1) * m1 ≤ 2 ^ 28 * 2 ^ 28 * 2 ^ 25 := Nat.mul_le_mul (Nat.mul_le_mul (by omega) (by omega)) (by omega)
    omega
  have hrhi : r ≤ 2 ^ 96 := by
    by_contra hge
    have : (2 ^ 96 + 1) * (2 ^ 96 + 1) * 1 ≤ r * r * m1 := Nat.mul_le_mul (Nat.mul_le_mul (by omega) (by omega)) hm1pos
    omega
  have hmax : ((r : ℚ) + 1) * 2 ^ (-96 - h) ≤ 2 ^ 100 := by
    have hr1 : (r : ℚ) + 1 ≤ 2 ^ 97 := by exact_mod_cast (by omega : r + 1 ≤ 2 ^ 97)
    have hg : (2 : ℚ) ^ (-96 - h) ≤ 2 ^ (0 : ℤ) := two_zpow_le_two_zpow.2 (by omega)
    calc ((r : ℚ) + 1) * 2 ^ (-96 - h) ≤ 2 ^ 97 * 2 ^ (0 : ℤ) := by gcongr
      _ ≤ 2 ^ 100 := by norm_num
  obtain ⟨c, hc, hres, hbelow, habove⟩ := roundSticky_middles hrlo hmax (r * r * m1 == 2 ^ 192)
  have hlt := ieee_f32.max_lt
  -- the square of twice y grid units, times the operand
  have hsq (y : ℚ) : (y * 2 ^ (-96 - h + 1)) ^ 2 * fpValue f32 x = y ^ 2 * m1 * (4 * (2 ^ 192)⁻¹) := by
    have hexp : -96 - h + 1 = -95 - h := by ring
    rw [hexp, hv', zpow_sub₀ (by norm_num), zpow_two_mul_eq_sq]
    field_simp
    norm_num
  have hfour : (4 : ℚ) = 2 ^ 192 * (4 * (2 ^ 192)⁻¹) := by norm_num
  rw [heq, hres]
  refine ⟨rfl, ?_, ?_⟩
  · rw [fpValue_of_lt (by omega : c - 1 < _), fpValue_of_lt (by omega : c < _)]
    have hpow := pow_le_pow_left₀ (add_nonneg (codeVal_nonneg _ _) (codeVal_nonneg _ _)) hbelow 2
    refine (mul_le_mul_of_nonneg_right hpow hv.le).trans ?_
    rw [hsq]
    refine le_trans ?_ hfour.ge
    gcongr
    rw [sq]
    exact_mod_cast hlo'
  · rw [fpValue_of_lt (by omega : c < _), fpValue_of_lt (by omega : c + 1 < _)]
    refine le_trans ?_ (mul_le_mul_of_nonneg_right (pow_le_pow_left₀ (by split <;> positivity) habove 2) hv.le)
    rw [hsq]
    refine hfour.le.trans ?_
    gcongr
    by_cases hex : r * r * m1 = 2 ^ 192
    · rw [if_pos (by simpa using hex), sq]
      exact_mod_cast hex.ge
    · rw [if_neg (by simpa using hex), sq]
      exact_mod_cast hhi'.le

end Sys2Proof.Machine
end

section
/-! SUPPORT. The exact results of FEXP2, FLOG2, FSIN and FCOS (R202). -/

namespace Sys2Proof.Machine

/-- The code of 1 in binary32. -/
theorem codeVal_one : codeVal f32 0x3F800000 = 1 := (codeVal_pow f32 (E := 127) (by decide)).trans (by norm_num [f32])

theorem two_zpow_ofNat (k : ℤ) : ((1 : ℕ) : ℚ) / (1 : ℕ) * 2 ^ k = 2 ^ k := by rw [Nat.cast_one, div_one, one_mul]

/-- A power of two within binary32's range has a finite code. -/
theorem exists_f32_code_pow {k : ℤ} (hlo : -149 ≤ k) (hhi : k ≤ 127) : ∃ c ≤ f32.maxCode, codeVal f32 c = 2 ^ k := by
  obtain ⟨c, hc⟩ := exists_code f32 (m := 1) (e := k) (by decide) (by simp only [f32]; omega)
  rw [Nat.cast_one, one_mul] at hc
  refine ⟨c, le_trans (b := 254 * 2 ^ f32.fw) ?_ (by decide), hc⟩
  rw [← codeVal_le_iff (f := f32), hc, codeVal_pow f32 (by decide), two_zpow_le_two_zpow]
  simp only [f32]
  omega

section
variable {x : Nat} (hx : isFinite f32 x = true)
include hx

/-! FEXP2. -/

theorem dyadic_val_of_finite : (⟨if f32.sign x then -(f32.codeMant (f32.code x) : ℤ) else f32.codeMant (f32.code x),
    f32.codeUnit (f32.code x)⟩ : Dyadic).val = fpValue f32 x := by
  rw [← ieee_f32.val_unpack hx, ← FVal.dyadic_val, ieee_f32.unpack_finite hx]
  rfl

/-- FEXP2 of an operand beyond the results' range (R202). -/
theorem xFexp2_overflow (hv : 128 ≤ fpValue f32 x) : xFexp2 x = (0x7F800000, 0) := by
  have hm := codeMant_pos_of_fpValue_ne (by linarith : fpValue f32 x ≠ 0)
  have hval := dyadic_val_of_finite hx
  rw [xFexp2, ieee_f32.unpack_finite hx]
  dsimp only
  rw [if_neg (by simpa using hm.ne'), if_pos]
  · rfl
  · rw [Dyadic.le_iff, hval]
    simpa [Dyadic.val] using hv

theorem xFexp2_underflow (hv : fpValue f32 x < -150) : xFexp2 x = (0, 0) := by
  have hm := codeMant_pos_of_fpValue_ne (by linarith : fpValue f32 x ≠ 0)
  have hval := dyadic_val_of_finite hx
  rw [xFexp2, ieee_f32.unpack_finite hx]
  dsimp only
  rw [if_neg (by simpa using hm.ne'), if_neg, if_pos]
  · rw [Dyadic.lt_iff, hval]
    simpa [Dyadic.val] using hv
  · rw [Dyadic.le_iff, hval, Dyadic.val]
    norm_num
    linarith

/-- FEXP2 of an integer is the power of two (R202). -/
theorem xFexp2_int {k : ℤ} (hv : fpValue f32 x = k) (hlo : -149 ≤ k) (hhi : k ≤ 127) :
    (xFexp2 x).2 = 0 ∧ fpValue f32 (xFexp2 x).1 = 2 ^ k := by
  have hlt := ieee_f32.max_lt
  have hval := dyadic_val_of_finite hx
  obtain ⟨-, he, -⟩ := f32_parts_bounds hx
  obtain ⟨c, hc, hck⟩ := exists_f32_code_pow hlo hhi
  have hlo' : (-149 : ℚ) ≤ k := by exact_mod_cast hlo
  have hhi' : (k : ℚ) ≤ 127 := by exact_mod_cast hhi
  by_cases hm : f32.codeMant (f32.code x) = 0
  · have hk : k = 0 := by
      rw [fpValue_parts, hm, Nat.cast_zero, zero_mul, withSign_zero] at hv
      exact_mod_cast hv.symm
    have heq : xFexp2 x = (0x3F800000, 0) := by
      rw [xFexp2, ieee_f32.unpack_finite hx]
      dsimp only
      rw [if_pos (by simpa using hm)]
    rw [heq, hk, zpow_zero]
    exact ⟨rfl, (fpValue_of_lt (by decide)).trans codeVal_one⟩
  · obtain ⟨d, hd⟩ : ∃ d : ℤ, (if f32.sign x then -(f32.codeMant (f32.code x) : ℤ) else f32.codeMant (f32.code x)) = d := ⟨_, rfl⟩
    rw [hd] at hval
    have hfix : d * ((2 ^ ((fixBits : ℤ) + f32.codeUnit (f32.code x)).toNat : ℕ) : ℤ) = k * ((2 ^ fixBits : ℕ) : ℤ) := by
      have hq : (d : ℚ) * 2 ^ ((fixBits : ℤ) + f32.codeUnit (f32.code x)) = k * 2 ^ (fixBits : ℤ) := by
        rw [← hv, ← hval, Dyadic.val, zpow_add₀ (by norm_num)]
        ring
      rw [← two_zpow_toNat (by rw [fixBits]; push_cast; omega), zpow_natCast] at hq
      exact_mod_cast hq
    have hpow : ((2 ^ fixBits : ℕ) : ℤ) ≠ 0 := by exact_mod_cast (Nat.two_pow_pos fixBits).ne'
    have heq : xFexp2 x = ((roundMag f32 0 false 1 1 k).1, 0) := by
      rw [xFexp2, ieee_f32.unpack_finite hx]
      dsimp only
      rw [hd, if_neg (by simpa using hm), if_neg, if_neg, hfix, Int.mul_ediv_cancel _ hpow, Int.mul_emod_left]
      · rfl
      · rw [Dyadic.lt_iff, hval, hv, Dyadic.val]
        norm_num
        linarith
      · rw [Dyadic.le_iff, hval, hv, Dyadic.val]
        norm_num
        linarith
    rw [heq, roundMag_exact ieee_f32.toOk 0 false one_pos one_pos hc (hck.trans (two_zpow_ofNat k).symm)]
    exact ⟨rfl, (fpValue_signed f32 false (c := c) (by omega)).trans hck⟩

omit hx in
/-- An integer that binary32 holds is converted exactly (R197). -/
theorem intToFp_f32_exact {k : ℤ} (hk : k.natAbs < 2 ^ 24) : fpValue f32 (intToFp f32 0 k).1 = k := by
  have hlt := ieee_f32.max_lt
  unfold intToFp roundDyadic
  by_cases h0 : k = 0
  · subst h0
    rw [if_pos (by rfl), Int.cast_zero]
    exact fpValue_signed_zero f32 false
  · obtain ⟨c, hc, hck⟩ := exists_f32_code_natCast hk
    rw [if_neg (by simpa using h0), roundMag_exact ieee_f32.toOk 0 _ (Int.natAbs_pos.2 h0) one_pos hc (by rw [hck]; simp),
      fpValue_signed f32 _ (by omega), hck, withSign_natAbs]

/-- FLOG2 of a power of two is its exponent (R202). -/
theorem xFlog2_pow {k : ℤ} (hv : fpValue f32 x = 2 ^ k) : (xFlog2 x).2 = 0 ∧ fpValue f32 (xFlog2 x).1 = k := by
  have hpos : 0 < fpValue f32 x := by rw [hv]; positivity
  have hm := codeMant_pos_of_fpValue_ne hpos.ne'
  obtain ⟨hm24, he1, he2⟩ := f32_parts_bounds hx
  have hparts := fpValue_parts f32 x
  rw [sign_of_fpValue_pos hpos, withSign_false, hv] at hparts
  have hmant : (f32.codeMant (f32.code x) : ℚ) = 2 ^ (k - f32.codeUnit (f32.code x)) := by
    rw [zpow_sub₀ (by norm_num), hparts, mul_div_cancel_right₀ _ (by positivity)]
  have hle : 0 ≤ k - f32.codeUnit (f32.code x) := by
    rw [← two_zpow_le_two_zpow, ← hmant, zpow_zero]
    exact_mod_cast hm
  obtain ⟨j, hj⟩ : ∃ j : ℕ, (j : ℤ) = k - f32.codeUnit (f32.code x) := ⟨_, Int.toNat_of_nonneg hle⟩
  have hmj : f32.codeMant (f32.code x) = 2 ^ j := by
    rw [← hj, zpow_natCast] at hmant
    exact_mod_cast hmant
  have hj24 : j < 24 := (Nat.pow_lt_pow_iff_right (by decide)).1 (hmj ▸ hm24)
  have hk : (j : ℤ) + f32.codeUnit (f32.code x) = k := by omega
  have heq : xFlog2 x = ((intToFp f32 0 k).1, 0) := by
    rw [xFlog2, ieee_f32.unpack_finite hx, sign_of_fpValue_pos hpos]
    dsimp only
    rw [if_neg (by simpa using hm.ne'), if_neg (by decide), hmj, Nat.log2_two_pow, hk, if_pos (by simp)]
  rw [heq]
  exact ⟨rfl, intToFp_f32_exact (by omega)⟩

end

/-! FSIN and FCOS. -/

/-- The sine or cosine of a whole quarter turn that is 1 or −1 (R202). -/
theorem roundSticky_one (neg : Bool) : (roundSticky f32 0 neg (2 ^ fixBits) (-fixBits) true).1 = signed f32 neg 0x3F800000 := by
  have hval : codeVal f32 0x3F800000 = ((2 ^ fixBits : ℕ) : ℚ) / (1 : ℕ) * 2 ^ (-(fixBits : ℤ)) := by
    rw [codeVal_one, Nat.cast_one, div_one, zpow_neg, zpow_natCast]
    push_cast
    rw [mul_inv_cancel₀ (by positivity)]
  have h := roundMag_exact ieee_f32.toOk 0 neg (Nat.two_pow_pos fixBits) one_pos (by decide) hval
  rw [roundSticky, if_pos rfl, h]

/-- The quadrant of a whole number of quarter turns, with nothing over. -/
theorem turnParts_quarter {m n : ℕ} {e : ℤ} (he : -149 ≤ e) (he' : e ≤ 104) (hn : (m : ℚ) * 2 ^ e = n / 4) :
    turnParts m e = (n % 4, 0) := by
  have hq : (m : ℚ) * 2 ^ ((fixBits : ℤ) + e) = n * 2 ^ ((254 : ℕ) : ℤ) := by
    rw [zpow_add₀ (by norm_num), mul_left_comm, hn, fixBits, zpow_natCast, zpow_natCast]
    ring
  have hfix : m * 2 ^ ((fixBits : ℤ) + e).toNat = n * 2 ^ 254 := by
    rw [← two_zpow_toNat (by rw [fixBits]; push_cast; omega), zpow_natCast] at hq
    exact_mod_cast hq
  have hmod : n * 2 ^ 254 % 2 ^ 256 = n % 4 * 2 ^ 254 := by
    have h256 : 2 ^ 256 = 4 * 2 ^ 254 := by norm_num
    rw [h256, Nat.mul_mod_mul_right]
  unfold turnParts
  rw [if_neg (by rw [fixBits]; push_cast; omega), hfix]
  simp only [fixBits]
  rw [hmod, Nat.mul_div_cancel _ (Nat.two_pow_pos _), Nat.mul_mod_left]

/-- Sine and cosine at a quadrant's start: the sign of a 1, or none for a 0 (R202). -/
def quarterValue (co s : Bool) (q : Nat) : Option Bool :=
  let k := if co then q + 1 else q
  if k % 2 == 1 then some (if co then decide (k % 4 ≥ 2) else decide (k % 4 ≥ 2) != s) else none

theorem turnValue_zero (co : Bool) (q : Nat) : turnValue co q 0 = (decide ((if co then q + 1 else q) % 4 ≥ 2),
    if ((if co then q + 1 else q) % 2 == 1) = true then 2 ^ fixBits else 0, true) := rfl

/-- FSIN and FCOS of a whole number of quarter turns (R202). -/
theorem xTurn_quarter {x : Nat} (hx : isFinite f32 x = true) (co : Bool) {n : ℕ} (hn : |fpValue f32 x| = n / 4) :
    xTurn co x = (match quarterValue co (f32.sign x) (n % 4) with
      | some neg => signed f32 neg 0x3F800000
      | none => signed f32 (!co && f32.sign x) 0, 0) := by
  obtain ⟨-, he1, he2⟩ := f32_parts_bounds hx
  rw [abs_fpValue] at hn
  have hparts := turnParts_quarter he1 he2 hn
  rw [xTurn, ieee_f32.unpack_finite hx]
  dsimp only
  rw [hparts]
  dsimp only
  rw [turnValue_zero]
  unfold quarterValue
  dsimp only
  by_cases hodd : ((if co then n % 4 + 1 else n % 4) % 2 == 1) = true
  · rw [if_pos hodd, if_pos hodd, if_neg (by simp), roundSticky_one]
  · rw [if_neg hodd, if_neg hodd]
    rfl

/-- The quarter turns of an operand, by those of its magnitude and its sign. -/
theorem quarters_of_sign {x : Nat} {k : ℤ} (hv : fpValue f32 x = k / 4) : |fpValue f32 x| = (k.natAbs : ℚ) / 4 ∧
    (f32.sign x = true → k ≤ 0) ∧ (f32.sign x = false → 0 ≤ k) := by
  have hnn := codeVal_nonneg f32 (f32.code x)
  refine ⟨?_, fun hs => ?_, fun hs => ?_⟩
  · rw [hv, abs_div, Nat.cast_natAbs, Int.cast_abs]
    norm_num
  · rw [fpValue_eq, hs, withSign_true] at hv
    have : (k : ℚ) ≤ 0 := by linarith
    exact_mod_cast this
  · rw [fpValue_eq, hs, withSign_false] at hv
    have : (0 : ℚ) ≤ k := by linarith
    exact_mod_cast this

/-- FSIN and FCOS of whole quarter turns are 0, 1 and −1, exactly (R202). -/
theorem xTurn_exact {x : Nat} (hx : isFinite f32 x = true) {k : ℤ} (hv : fpValue f32 x = k / 4) :
    xTurn false x = (if k % 4 = 1 then 0x3F800000 else if k % 4 = 3 then 0xBF800000 else x / 2 ^ 31 % 2 * 2 ^ 31, 0) ∧
      xTurn true x = (if k % 4 = 0 then 0x3F800000 else if k % 4 = 2 then 0xBF800000 else 0, 0) := by
  obtain ⟨habs, hneg, hpos⟩ := quarters_of_sign hv
  have hsign : x / 2 ^ 31 % 2 = (f32.sign x).toNat := f32.div_signBit_mod x
  have hlt : k.natAbs % 4 < 4 := Nat.mod_lt _ (by decide)
  rw [xTurn_quarter hx false habs, xTurn_quarter hx true habs, hsign]
  cases hs : f32.sign x
  · have hk : k % 4 = (k.natAbs % 4 : ℕ) := by have := hpos hs; omega
    rw [hk]
    generalize k.natAbs % 4 = q at hlt
    interval_cases q <;> decide
  · have hk : k % 4 = ((4 - k.natAbs % 4) % 4 : ℕ) := by have := hneg hs; omega
    rw [hk]
    generalize k.natAbs % 4 = q at hlt
    interval_cases q <;> decide

end Sys2Proof.Machine
end

section
/-! SUPPORT. The rules of numbers to the bit, assembled (R77 to R81, R189, R191 to R202). -/

namespace Sys2Proof.Machine

/-- The pattern of a code and how a claim says it: the remainder by the sign bit. -/
theorem Fmt.code_eq_mod (f : Fmt) (x : Nat) : x % f.signBit = f.code x := rfl

/-- The formats of comparisons. -/
theorem ieee_of_mem_compare {f : Fmt} (h : f ∈ [f64, f32, f16]) : f.Ieee := by
  fin_cases h
  · exact ieee_f64
  · exact ieee_f32
  · exact ieee_f16

/-- The formats of conversions from and to integers. -/
theorem ieee_of_mem_int {f : Fmt} (h : f ∈ [f64, f32]) : f.Ieee ∧ 1 ≤ f.bias ∧ (f.bias + 63) * 2 ^ f.fw ≤ f.maxCode := by
  fin_cases h
  · exact ⟨ieee_f64, by decide, by decide⟩
  · exact ⟨ieee_f32, by decide, by decide⟩

/-- The pairs of formats between which a conversion goes. -/
theorem ieee_of_mem_convert {src dst : Fmt}
    (h : (src, dst) ∈ [(f16, f32), (bf16, f32), (f32, f64), (f32, f16), (f32, bf16), (f64, f32)]) : src.Ieee ∧ dst.Ieee := by
  simp only [List.mem_cons, Prod.mk.injEq, List.not_mem_nil, or_false] at h
  rcases h with ⟨rfl, rfl⟩ | ⟨rfl, rfl⟩ | ⟨rfl, rfl⟩ | ⟨rfl, rfl⟩ | ⟨rfl, rfl⟩ | ⟨rfl, rfl⟩
  · exact ⟨ieee_f16, ieee_f32⟩
  · exact ⟨ieee_bf16, ieee_f32⟩
  · exact ⟨ieee_f32, ieee_f64⟩
  · exact ⟨ieee_f32, ieee_f16⟩
  · exact ⟨ieee_f32, ieee_bf16⟩
  · exact ⟨ieee_f64, ieee_f32⟩

/-- The default NaNs of the formats of fused forms (R77). -/
theorem defaultNan_of_mem {f : Fmt} {nan : Nat}
    (h : (f, nan) ∈ [(f64, 0x7FF8000000000000), (f32, 0x7FC00000), (f16, 0x7E00), (bf16, 0x7FC0)]) : f.Ieee ∧ defaultNan f = nan := by
  simp only [List.mem_cons, Prod.mk.injEq, List.not_mem_nil, or_false] at h
  rcases h with ⟨rfl, rfl⟩ | ⟨rfl, rfl⟩ | ⟨rfl, rfl⟩ | ⟨rfl, rfl⟩
  · exact ⟨ieee_f64, rfl⟩
  · exact ⟨ieee_f32, rfl⟩
  · exact ⟨ieee_f16, rfl⟩
  · exact ⟨ieee_bf16, rfl⟩

theorem fromNarrow_of_mem {f : Fmt} (h : f ∈ [e4m3, e5m2]) {x : Nat} (hx : isFinite f x = true) :
    (fromNarrow f f32 x).2 = 0 ∧ fpValue f32 (fromNarrow f f32 x).1 = fpValue f x := by
  fin_cases h
  · exact fromNarrow_exact ok_e4m3 (by decide) (by decide) (by rw [codeVal_e4m3_max]; norm_num) hx
  · exact fromNarrow_exact ieee_e5m2.toOk (by decide) (by decide) (by rw [codeVal_e5m2_max]; norm_num) hx

theorem overflow_of : (flagOF ||| flagNX) &&& flagOF ≠ 0 := by decide

/-- The flags of round() in binary32, as a claim says them (R80, R189). -/
theorem roundMag_f32_flags (mode : Nat) (neg : Bool) {n d : Nat} (e : ℤ) (hn : 0 < n) (hd : 0 < d) :
    let r := roundMag f32 mode neg n d e
    (r.2 = 0 ∨ r.2 = flagNX ∨ r.2 = flagNX ||| flagUF ∨ r.2 = flagNX ||| flagOF) ∧
    (r.2 &&& flagOF = 0 → r.1 % f32.signBit ≤ f32.maxCode) ∧
    (r.2 &&& flagOF ≠ 0 → r.1 % f32.signBit = f32.maxCode ∨ r.1 % f32.signBit = f32.maxCode + 1) ∧
    (decide (f32.signBit ≤ r.1) = neg) := by
  obtain ⟨c, fl, heq, hlt, hcases⟩ := roundMag_flags ieee_f32.toOk mode neg e hn hd
  dsimp only
  rw [heq, f32.code_eq_mod, f32.code_signed neg hlt, signBit_le_signed f32 neg hlt]
  obtain ⟨rfl, hc⟩ | ⟨hof, hc, hfl⟩ := hcases
  · exact ⟨.inr (.inr (.inr rfl)), fun h => absurd h overflow_of, fun _ => hc, rfl⟩
  · refine ⟨?_, fun _ => hc, fun h => absurd hof h, rfl⟩
    rcases hfl with h | h | h
    · exact .inl h
    · exact .inr (.inl h)
    · exact .inr (.inr (.inl h))

/-- Every finite operation rounds its exact value once (R191, R193). -/
theorem finite_operations_roundedOnce {f : Fmt} (h : f.Ieee) (mode : Nat) {x y z : Nat} (hx : isFinite f x = true)
    (hy : isFinite f y = true) (hz : isFinite f z = true) :
    RoundedOnce f mode (fpValue f x + fpValue f y) (fpAdd f mode x y) ∧ RoundedOnce f mode (fpValue f x * fpValue f y) (fpMul f mode x y) ∧
    RoundedOnce f mode (fpValue f x * fpValue f y + fpValue f z) (fpFma f mode false false x y z) ∧
    RoundedOnce f mode (fpValue f x * fpValue f y - fpValue f z) (fpFma f mode false true x y z) ∧
    RoundedOnce f mode (fpValue f z - fpValue f x * fpValue f y) (fpFma f mode true false x y z) := by
  have hsub := fpFma_roundedOnce h mode hx hy hz false true
  have hneg := fpFma_roundedOnce h mode hx hy hz true false
  rw [withSign_false, withSign_true, ← sub_eq_add_neg] at hsub
  rw [withSign_true, withSign_false, neg_add_eq_sub] at hneg
  exact ⟨fpAdd_roundedOnce h mode hx hy, fpMul_roundedOnce h mode hx hy, fpFma_roundedOnce h mode hx hy hz false false, hsub, hneg⟩

/-- FMIN and FMAX of operands that are no NaNs (R78, R192). -/
theorem fpMinMax_spec {f : Fmt} {x y : Nat} (hx : isNan f x = false) (hy : isNan f y = false) :
    let lo := fpMinMax f false x y
    let hi := fpMinMax f true x y
    lo.2 = 0 ∧ hi.2 = 0 ∧ (lo.1 = x ∨ lo.1 = y) ∧ (hi.1 = x ∨ hi.1 = y) ∧
    fpValue f lo.1 = min (fpValue f x) (fpValue f y) ∧ fpValue f hi.1 = max (fpValue f x) (fpValue f y) ∧
    (fpValue f x = fpValue f y → lo.1 / f.signBit % 2 = max (x / f.signBit % 2) (y / f.signBit % 2) ∧
      hi.1 / f.signBit % 2 = min (x / f.signBit % 2) (y / f.signBit % 2)) := by
  rw [fpMinMax_of_not_isNan false hx hy, fpMinMax_of_not_isNan true hx hy]
  obtain ⟨hlo, hmin, hlosign⟩ := lesser_spec (f := f) (x := x) (y := y) rfl
  obtain ⟨hhi, hmax, hhisign⟩ := greater_spec (f := f) (x := x) (y := y) rfl
  exact ⟨rfl, rfl, hlo, hhi, hmin, hmax, fun heq => ⟨hlosign heq, hhisign heq⟩⟩

/-- Conversions of floating values to integers (R198). -/
theorem fpToInt_spec {f : Fmt} (h : f.Ieee) (mode : Nat) (lo hi : ℤ) (n x : Nat) :
    (isFinite f x = true → ∃ k : ℤ, RoundsToInt mode (fpValue f x) k ∧ fpToInt f mode lo hi n x =
      if k < lo then ((BitVec.ofInt n lo).toNat, flagNV) else if hi < k then ((BitVec.ofInt n hi).toNat, flagNV)
      else ((BitVec.ofInt n k).toNat, if (k : ℚ) = fpValue f x then 0 else flagNX)) ∧
    (x % f.signBit = f.maxCode + 1 →
      fpToInt f mode lo hi n x = ((BitVec.ofInt n (if x / f.signBit % 2 = 1 then lo else hi)).toNat, flagNV)) ∧
    (isNan f x = true → fpToInt f mode lo hi n x = (0, flagNV)) := by
  refine ⟨fpToInt_finite h.toOk, fun hinf => ?_, fpToInt_of_isNan⟩
  rw [fpToInt_inf h hinf]
  simp only [f.sign_iff]

/-- FP8 conversions worked by the manual and of NaNs (R81). -/
theorem narrow_examples : narrowPair e4m3 0x3FC00000 0x43FA0000 = (0x7E3C, flagOF ||| flagNX) ∧ fromNarrow e4m3 f32 0x7E = (0x43E00000, 0) ∧
    fromNarrow e5m2 f32 0xFD = (0xFFC00000, flagNV) ∧ fromNarrow e4m3 f32 0x7F = (0x7FC00000, 0) := by decide

/-- Settles O10: round() lies at the code of the value below or at the next as the mode says, and each operation is round() of its exact
value, or a case of its special operands. -/
theorem floatRules : Obligations.FloatRules := by
  refine ⟨?_, ?_, ?_, ?_, ?_, ?_, ?_, ?_, ?_, ?_, ?_, ?_, narrow_examples, ?_, ?_⟩
  · intro f hf mode x y _ hx hy
    exact ⟨fpAdd_comm mode hx hy, fpMul_comm mode hx hy, fpSub_eq_fpAdd (ieee_of_mem hf) mode hx hy⟩
  · intro f _ mode x y
    exact ⟨fun hx => ⟨fpAdd_of_isNan_left mode hx, fpMul_of_isNan_left mode hx⟩,
      fun hx hy => ⟨fpAdd_of_isNan_right mode hx hy, fpMul_of_isNan_right mode hx hy⟩⟩
  · intro mode neg n d e _ hn hd
    exact roundMag_f32_flags mode neg e hn hd
  · intro f hf mode x y z _ hx hy hz
    exact finite_operations_roundedOnce (ieee_of_mem hf) mode hx hy hz
  · intro f nan hf mode np nc x y z
    obtain ⟨h, hnan⟩ := defaultNan_of_mem hf
    exact ⟨fun hx hy => hnan ▸ fpFma_zero_inf mode np nc h hx hy, fpFma_of_isNan_first mode np nc,
      fpFma_of_isNan_second mode np nc, fpFma_of_isNan_addend mode np nc h.toOk⟩
  · intro f _ x y
    exact ⟨fpMinMax_spec, fun m => ⟨fpMinMax_of_isNan m, fpMinMax_of_isNan_one m⟩⟩
  · intro b mode hb x
    exact ⟨fpRound_finite hb, fpRound_inf b ieee_f32, fpRound_of_isNan b⟩
  · intro f hf x y
    exact ⟨fpCompare_ordered (ieee_of_mem_compare hf), fun hnan c => fpCompare_unordered hnan⟩
  · intro f hf mode x lo hi n _ _
    obtain ⟨h, hbias, hmax⟩ := ieee_of_mem_int hf
    exact ⟨fun i => intToFp_spec h.toOk hbias hmax mode, fpToInt_spec h mode lo hi n x⟩
  · intro src dst hsd mode x _
    obtain ⟨hsrc, hdst⟩ := ieee_of_mem_convert hsd
    exact ⟨fpConvert_roundedOnce hsrc.toOk hdst mode, fun hx => ⟨_, fpConvert_of_isNan dst mode hx, nanConvert_spec hdst x⟩⟩
  · intro x hx
    obtain ⟨h1, h2⟩ := toNarrow_e4m3 hx
    exact ⟨h1, h2, toNarrow_e5m2 hx⟩
  · intro f hf x hx
    exact fromNarrow_of_mem hf hx
  · intro s hs
    exact xmath_specials hs
  · intro x
    refine ⟨fun h hh hx => xmath_of_isNan hx h hh, xmath_of_neg, xFrcp_rounds, fun hx hv => ⟨?_, ?_⟩, fun hx => ⟨xFexp2_overflow hx,
      xFexp2_underflow hx, fun k => xFexp2_int hx, fun k => xFlog2_pow hx, fun k => xTurn_exact hx⟩⟩
    · rintro _ rfl
      exact xFsqrt_middles hx hv
    · rintro _ rfl
      exact xFrsq_middles hx hv

end Sys2Proof.Machine
end

section
/-! SUPPORT. Faults of an instruction that issues (R105 to R111, R116): each delivered to its path with every active lane, and what it enters. -/

namespace Sys2Proof.Machine

section
variable {s : State} {p : Nat} {q : Path}

/-- A fault of an instruction of one word, of a path that can take it, is an entry to the handler with every active lane (R110, R111). -/
theorem trapAll_traps (hc : CanTrap s p q) {i : Instr} (hi : twoWords i = false) (code detail addr : Nat) :
    Traps s (trapAll s p q i code detail addr) p q false (active q) code detail addr := by
  obtain ⟨hsup, hbase, hfree, hctx⟩ := hc
  unfold trapAll takeTrap
  rw [takeTrapAt_enters hctx hsup hbase hfree]
  have ht := trapsAt_entered s p q (mkTrap q i code detail (active q) addr) (baseOf s q) rfl
  simp only [mkTrap, hi] at ht ⊢
  exact ht

theorem execTrap_next (hq : Issues s p q) (i : Nat) : exec (.trap i) s = .next (trapAll s p q (.trap i) cSwTrap i 0) := onPath_next hq _

theorem execBrk_next (hq : Issues s p q) (i : Nat) : exec (.brk i) s = .next (trapAll s p q (.brk i) cBreak i 0) := onPath_next hq _

/-- TRAPRET, TLBINV.PAGE and TLBINV.ALL at user level (R116). -/
theorem privileged_faults (hq : Issues s p q) (hsup : q.sup = false) {i : Instr}
    (hi : (∃ k, i = .trapret k) ∨ (∃ g, i = .tlbinvPage g) ∨ i = .tlbinvAll) : exec i s = .next (trapAll s p q i cPriv 0 0) := by
  obtain ⟨k, rfl⟩ | ⟨g, rfl⟩ | rfl := hi
  · exact (onPath_next hq _).trans (by simp only [hsup]; rfl)
  · exact (onPath_next hq _).trans (by simp only [hsup]; rfl)
  · exact (onPath_next hq _).trans (by simp only [hsup]; rfl)

theorem execCsrrd_faults (hq : Issues s p q) (hsup : q.sup = false) {n : Nat} (hn : csrPrivRead n = true) (g : Nat) :
    exec (.csrrd g n) s = .next (trapAll s p q (.csrrd g n) cPriv n 0) := (onPath_next hq _).trans (by simp [hsup, hn])

theorem execCsrwr_faults (hq : Issues s p q) (hsup : q.sup = false) {n : Nat} (hn : csrUserWrite n = false) (g : Nat) :
    exec (.csrwr g n) s = .next (trapAll s p q (.csrwr g n) cPriv n 0) := (onPath_next hq _).trans (by simp [hsup, hn])

theorem execJmp_misaligned (hq : Issues s p q) {g : Nat} (hg : getG s q g % 4 ≠ 0) :
    exec (.jmp g) s = .next (trapAll s p q (.jmp g) cIllClause 0 (getG s q g)) := (onPath_next hq _).trans (by simp [hg])

end

/-- Settles O11: each of these instructions delivers its fault to the whole path, which can take it. -/
theorem exceptionEntry : Obligations.ExceptionEntry := by
  intro s p q hq hc
  have hsup : q.sup = false := hc.1
  refine ⟨fun i _ => ⟨_, execTrap_next hq i, trapAll_traps hc rfl _ _ _⟩, fun i _ => ⟨_, execBrk_next hq i, trapAll_traps hc rfl _ _ _⟩,
    fun k _ => ⟨_, privileged_faults hq hsup (.inl ⟨k, rfl⟩), trapAll_traps hc rfl _ _ _⟩,
    fun g _ => ⟨_, privileged_faults hq hsup (.inr (.inl ⟨g, rfl⟩)), trapAll_traps hc rfl _ _ _⟩,
    ⟨_, privileged_faults hq hsup (.inr (.inr rfl)), trapAll_traps hc rfl _ _ _⟩, fun g n _ hlo hhi => ?_, fun g n _ _ h0 h1 h2 => ?_,
    fun g _ hg => ⟨_, execJmp_misaligned hq hg, trapAll_traps hc rfl _ _ _⟩⟩
  · exact ⟨_, execCsrrd_faults hq hsup (by simp [csrPrivRead, hlo, hhi]) g, trapAll_traps hc rfl _ _ _⟩
  · exact ⟨_, execCsrwr_faults hq hsup (by simp [csrUserWrite, h0, h1, h2]) g, trapAll_traps hc rfl _ _ _⟩

end Sys2Proof.Machine
end

section
/-! SUPPORT. What engines' accesses and records leave of the paths that run (R104, R130, R206 to R216, R293, R400): registers and paths are as
before, and a request for service keeps everything but the kinds of access it stands for. -/

namespace Sys2Proof.Machine

/-- State t is what s becomes by accesses and records that no path makes. -/
structure Undisturbed (s t : State) : Prop where
  paths : t.paths = s.paths
  registers : SameRegisters s t
  services : ∀ (i : Nat) (r : ServiceReq), s.services[i]? = some r → ∃ a, t.services[i]? = some { r with access := a }

theorem Undisturbed.refl (s : State) : Undisturbed s s := ⟨rfl, ⟨rfl, rfl, rfl, rfl⟩, fun _ r hr => ⟨r.access, hr⟩⟩

section
variable {s t u : State}

theorem SameRegisters.trans (h : SameRegisters s t) (h' : SameRegisters t u) : SameRegisters s u :=
  ⟨h'.1.trans h.1, h'.2.1.trans h.2.1, h'.2.2.1.trans h.2.2.1, h'.2.2.2.trans h.2.2.2⟩

/-- What changes neither paths nor registers nor requests for service. -/
theorem Undisturbed.of_eq (h : Undisturbed s t) (hp : u.paths = t.paths) (hr : SameRegisters t u) (hs : u.services = t.services) :
    Undisturbed s u :=
  ⟨hp.trans h.paths, h.registers.trans hr, hs ▸ h.services⟩

theorem Kept.services (h : Kept s t) : t.services = s.services := (congrArg State.services h.rest : t.rest.services = s.rest.services)

theorem Undisturbed.kept (h : Undisturbed s t) (hk : Kept t u) : Undisturbed s u := h.of_eq hk.paths hk.sameRegisters hk.services

theorem Undisturbed.foldl {α : Type} {f : State → α → State} (hf : ∀ u x, Undisturbed s u → Undisturbed s (f u x)) (xs : List α)
    (h : Undisturbed s t) : Undisturbed s (xs.foldl f t) :=
  List.foldlRecOn (motive := Undisturbed s) _ _ h fun u hu x _ => hf u x hu

/-- The same where a state is carried with what has been found so far. -/
theorem Undisturbed.foldl_fst {α β : Type} {f : State × β → α → State × β} (hf : ∀ a x, Undisturbed s a.1 → Undisturbed s (f a x).1)
    (xs : List α) {a : State × β} (h : Undisturbed s a.1) : Undisturbed s (xs.foldl f a).1 :=
  List.foldlRecOn (motive := fun a : State × β => Undisturbed s a.1) _ _ h fun a ha x _ => hf a x ha

/-! Reads and writes at home, and walks. -/

theorem Kept.homeWrite (h : Kept s t) (w : Who) (a : Nat) (bs : List Nat) : Kept s (homeWrite t w a bs) := by
  unfold Machine.homeWrite
  split
  · exact (h.hostSend _ _ _ _).memPut _ _
  · split
    · exact (h.ncRequest _ _ _ _).memPut _ _
    · exact h.homeEach _ _ _ _ _

theorem Kept.walk (h : Kept s t) (w : Who) (va : Nat) : Kept s (walk t w va).1 := walkFrom_kept h _ _ _ _ _ _

theorem Undisturbed.translate (h : Undisturbed s t) (c core : Nat) (sup : Bool) (acc : Acc) (va n : Nat) :
    Undisturbed s (translate t c core sup acc va n).1 := by
  have hw := h.kept ((Kept.refl t).walk (whoOf core c 0) va)
  unfold Machine.translate
  dsimp only
  split
  · exact h
  · split
    · exact h
    · split
      · exact h
      · split <;> exact hw

theorem Undisturbed.markWalk (h : Undisturbed s t) (w : Who) (path : List (Nat × Nat)) (dirty : Bool) :
    Undisturbed s (markWalk t w path dirty) := by
  refine Undisturbed.foldl (fun u e hu => ?_) _ h
  dsimp only
  generalize (if dirty && eLeaf e.2 then _ else _) = x
  split
  · exact hu
  · exact hu.kept ((Kept.refl u).homeWrite _ _ _)

theorem Undisturbed.tlbInsert (h : Undisturbed s t) (e : TlbEntry) : Undisturbed s (tlbInsert t e) := by
  unfold Machine.tlbInsert tlbRoom
  split
  · exact h.of_eq rfl ⟨rfl, rfl, rfl, rfl⟩ rfl
  · split
    · exact h.of_eq rfl ⟨rfl, rfl, rfl, rfl⟩ rfl
    · split <;> exact h.of_eq rfl ⟨rfl, rfl, rfl, rfl⟩ rfl

theorem Undisturbed.commitXl (h : Undisturbed s t) (c core : Nat) (acc : Acc) (va : Nat) (walked : List (Nat × Nat)) :
    Undisturbed s (commitXl t c core acc va walked) := by
  unfold Machine.commitXl
  split
  · exact h
  · split
    · exact h
    · exact (h.markWalk _ _ _).tlbInsert _

/-! Requests for service and failures. -/

/-- A request adds its kind of access to the one that its page has, or stands at the end (R213). -/
theorem Undisturbed.askService (h : Undisturbed s t) (c core page : Nat) (host : Bool) (acc : Acc) :
    Undisturbed s (askService t c core page host acc) := by
  unfold Machine.askService
  split
  · exact h
  · split
    · refine ⟨h.paths, h.registers, fun i r hr => ?_⟩
      obtain ⟨a, ha⟩ := h.services i r hr
      simp only [List.getElem?_map, ha, Option.map_some]
      split
      · exact ⟨_, rfl⟩
      · exact ⟨a, rfl⟩
    · refine ⟨h.paths, h.registers, fun i r hr => ?_⟩
      obtain ⟨a, ha⟩ := h.services i r hr
      exact ⟨a, List.getElem?_append_left (List.getElem?_eq_some_iff.1 ha).1 ▸ ha⟩

theorem Undisturbed.readFault (h : Undisturbed s t) (pa : Nat) : Undisturbed s (readFault t pa).1 := by
  unfold Machine.readFault
  split
  · exact h.of_eq rfl ⟨rfl, rfl, rfl, rfl⟩ rfl
  · exact h

theorem Undisturbed.checkPart (h : Undisturbed s t) (c core : Nat) (acc : Acc) (pn : Nat × Nat) :
    Undisturbed s (checkPart t c core acc pn).1 := by
  have ht := h.translate c core false acc (pn.1 % 2 ^ 64) 1
  unfold Machine.checkPart
  dsimp only
  split
  · exact ht
  · exact ht
  · split
    · exact ht
    · split <;> exact ht

theorem Undisturbed.checkParts (h : Undisturbed s t) (c core : Nat) (acc : Acc) (ps : List (Nat × Nat)) :
    Undisturbed s (checkParts t c core acc ps).1 :=
  Undisturbed.foldl_fst (f := fun (a : State × List PartOut) pn =>
    ((Machine.checkPart a.1 c core acc pn).1, a.2 ++ [(Machine.checkPart a.1 c core acc pn).2])) (fun _ pn ha => ha.checkPart c core acc pn) ps h

theorem Undisturbed.settleFail (h : Undisturbed s t) (c core : Nat) (acc : Acc) (code detail va : Nat) :
    Undisturbed s (settleFail t c core acc code detail va) := by
  unfold Machine.settleFail
  split
  · exact h.of_eq rfl ⟨rfl, rfl, rfl, rfl⟩ rfl
  · split
    · have ht := h.translate c core false acc (va % 2 ^ 64) 1
      revert ht
      generalize Machine.translate t c core false acc (va % 2 ^ 64) 1 = r
      rcases r with ⟨u, pa | _ | _⟩ <;> intro ht
      · exact ht.readFault _
      · exact ht
      · exact ht
    · exact h

theorem Undisturbed.engCheckAll (h : Undisturbed s t) (c core : Nat) (acc : Acc) (bs : List (Nat × Nat)) :
    Undisturbed s (engCheckAll t c core acc bs).1 := by
  have hgo := Undisturbed.foldl_fst (s := s) (f := fun (a : State × List PartOut) (b : Nat × Nat) =>
      ((Machine.checkParts a.1 c core acc (partsOf a.1 c core acc b.1 b.2)).1, a.2 ++ (Machine.checkParts a.1 c core acc (partsOf a.1 c core acc b.1 b.2)).2))
    (fun _ _ ha => ha.checkParts c core acc _) bs (a := (t, [])) h
  unfold Machine.engCheckAll
  dsimp only
  split
  · exact hgo.askService _ _ _ _ _
  · split
    · exact hgo.settleFail _ _ _ _ _ _
    · exact hgo
    · exact hgo

/-! Writes at translated parts, and records. -/

theorem Undisturbed.commitParts (h : Undisturbed s t) (c core : Nat) (acc : Acc) (ps : List (Part × List (Nat × Nat))) :
    Undisturbed s (commitParts t c core acc ps) := Undisturbed.foldl (fun _ _ hu => hu.commitXl _ _ _ _ _) _ h

theorem Undisturbed.sendPeer (h : Undisturbed s t) (r : PeerReq) : Undisturbed s (sendPeer t r) := by
  unfold Machine.sendPeer
  dsimp only
  split <;> exact h.of_eq rfl ⟨rfl, rfl, rfl, rfl⟩ rfl

theorem Kept.updateCopies (h : Kept s t) (c core pa : Nat) (bs : List Nat) : Kept s (updateCopies t c core pa bs) := by
  refine Kept.l1Put (Kept.foldl (fun u ln hu => ?_) _ h) _ _ _ _ _
  dsimp only
  split
  · exact hu.memPut _ _
  · exact hu

theorem Undisturbed.writeAtPeer (h : Undisturbed s t) (c core cmd va pa : Nat) (bs : List Nat) :
    Undisturbed s (writeAtPeer t c core cmd va pa bs) :=
  Undisturbed.foldl (fun _ _ hu => hu.sendPeer _) _ (h.kept ((Kept.refl t).updateCopies c core pa bs))

theorem Undisturbed.writeParts (h : Undisturbed s t) (c core cmd : Nat) (ps : List Part) (bs : List Nat) :
    Undisturbed s (writeParts t c core cmd ps bs) := by
  induction ps generalizing t bs with
  | nil => exact h
  | cons p ps ih =>
    refine ih ?_ _
    split
    · exact h.writeAtPeer _ _ _ _ _ _
    · split
      · exact h.kept (((Kept.refl t).updateCopies _ _ _ _).homeWrite _ _ _)
      · exact h.kept ((Kept.refl t).homeWrite _ _ _)

theorem Undisturbed.setQReg (h : Undisturbed s t) (k r x : Nat) : Undisturbed s (setQReg t k r x) := h.of_eq rfl ⟨rfl, rfl, rfl, rfl⟩ rfl

theorem Undisturbed.raiseQueue (h : Undisturbed s t) (k : Nat) : Undisturbed s (raiseQueue t k) := h.of_eq rfl ⟨rfl, rfl, rfl, rfl⟩ rfl

theorem Undisturbed.countLostRecord (h : Undisturbed s t) : Undisturbed s (countLostRecord t) := h.of_eq rfl ⟨rfl, rfl, rfl, rfl⟩ rfl

/-- A record written, lost, or kept while its page awaits service (R130). -/
theorem Undisturbed.writeRecord (h : Undisturbed s t) (k : Nat) (ws : List Nat) : Undisturbed s (writeRecord t k ws) := by
  have hcheck := h.engCheckAll (k / 16) frontCore .write [((qReg t k qRecBase + 64 * (qReg t k qRecW % 64)) % 2 ^ 64, 64)]
  unfold Machine.writeRecord
  dsimp only
  split
  · exact hcheck.of_eq rfl ⟨rfl, rfl, rfl, rfl⟩ rfl
  · exact (hcheck.countLostRecord.setQReg _ _ _).raiseQueue _
  · split
    · exact (hcheck.countLostRecord.setQReg _ _ _).raiseQueue _
    · exact (((hcheck.commitParts _ _ _ _).writeParts _ _ _ _ _).setQReg _ _ _).raiseQueue _

end

/-! Double faults (R113, R114). -/

section
variable {s : State} {p : Nat} {q : Path}

/-- A machine one of whose contexts is FAULTED with a record, its commands and beacons abandoned (R113). -/
def abandoned (s : State) (c : Nat) (r : FaultRecord) : State :=
  let u := modCtx s c fun x => { x with state := .faulted, record := some r }
  { u with cmds := u.cmds.filter fun e => e.2.ctx != c
           beacons := u.beacons.filter fun b => !((u.paths.filter fun e => ctxOf u e.2 == c).map (·.1)).contains b.path }

theorem contextFault_of_running {c : Nat} (h : (ctxAt s c).state = .running ∨ (ctxAt s c).state = .preempting) (queue : Nat) (r : FaultRecord) :
    contextFault s c queue r = writeRecord (abandoned s c r) (c * 16 + queue) (faultRecordWords c r) := by
  unfold contextFault
  dsimp only
  rw [if_pos (by rcases h with h | h <;> simp [h])]
  rfl

/-- A context that runs, or is being stopped, goes to FAULTED with its record (R113); registers and paths stay. -/
theorem contextFault_faults {c : Nat} {x : Context} (hx : aGet c s.ctxs = some x) (hst : x.state = .running ∨ x.state = .preempting)
    (queue : Nat) (r : FaultRecord) :
    let t := contextFault s c queue r
    t.paths = s.paths ∧ SameRegisters s t ∧ ctxAt t c = { x with state := .faulted, record := some r } := by
  have hrec := (Undisturbed.refl (abandoned s c r)).writeRecord (c * 16 + queue) (faultRecordWords c r)
  rw [contextFault_of_running (by rwa [ctxAt_of_aGet hx])]
  refine ⟨hrec.paths, hrec.registers, ctxAt_of_aGet ?_⟩
  rw [writeRecord_ctxs]
  exact (aGet_modCtx hx fun x => { x with state := .faulted, record := some r }).1

/-- A fault at supervisor level sends the context to FAULTED (R114). -/
theorem takeTrap_doubleFault {x : Context} (hsup : q.sup = true) (hx : aGet (ctxOf s q) s.ctxs = some x)
    (hst : x.state = .running ∨ x.state = .preempting) (f : Trap) :
    let t := takeTrap s p q f
    t.paths = s.paths ∧ SameRegisters s t ∧
      ctxAt t (ctxOf s q) = { x with state := .faulted, record := some (recordOf s q f 2) } := by
  have hnot : (ctxAt s (ctxOf s q)).state ≠ .faulted := by
    rw [ctxAt_of_aGet hx]
    rcases hst with h | h <;> rw [h] <;> decide
  have htake : takeTrap s p q f = contextFault s (ctxOf s q) (queueOf s q) (recordOf s q f 2) := by
    simp [takeTrap, takeTrapAt, hnot, hsup]
  rw [htake]
  exact contextFault_faults hx hst _ _

end

/-- Settles O12: of the outcomes of an exception (R111, R113, R114) supervisor level leaves only the double fault. -/
theorem doubleFault : Obligations.DoubleFault := by
  intro s p q hsup hsome hst faults
  obtain ⟨x, hx⟩ := Option.isSome_iff_exists.1 hsome
  rw [ctxAt_of_aGet hx] at hst
  have hall : ∀ f, faults (takeTrap s p q f) f := fun f => by
    obtain ⟨hpaths, ⟨hv, hg, hp, hcsr⟩, hctx⟩ := takeTrap_doubleFault (p := p) hsup hx hst f
    refine ⟨hpaths, hv, hg, hp, hcsr, by rw [hctx], ?_⟩
    rw [hctx, ← trapInfo_eq]
    rfl
  exact ⟨hall, fun hq i _ => ⟨_, _, execTrap_next hq i, hall _, execBrk_next hq i, hall _⟩⟩

end Sys2Proof.Machine
end

section
/-! SUPPORT. Paths listed twice under one number: a return from an exception (R116) looks for the faults that wait in the paths of its slices by
their numbers, and finds the first path of each. -/

namespace Sys2Proof.Machine

/-- A path of one lane at user level in the first word of a clause. -/
def lonePath : Path :=
  { gang := 0, lanes := 1, slot1 := 0, park := false, pos := ⟨0, 1, 0, 1⟩, sup := false, wait := .none, cur := none, base := 0,
    refused := [], replay := none, pending := [], barsync := none, starve := 0, starving := false, prefer := false, stopped := false }

/-- A path of another gang in which a fault waits. -/
def pendingPath : Path := { lonePath with gang := 1, pending := [(⟨0x16, 1, 0, 1, false, 0⟩, 64)] }

/-- A machine whose path 4 issues, and which lists two paths under 5: first the one in which a fault waits, then one of path 4's slice. -/
def listedTwice : State :=
  { State.reset with ctxRegs := [(0, 64#64)], paths := [(4, lonePath), (5, pendingPath), (5, lonePath)], issuing := some 4 }

theorem canTrap_listedTwice : CanTrap listedTwice 4 lonePath := ⟨rfl, by decide, by decide, by decide⟩

/-- The return of path 4 takes the waiting fault to its handler. -/
theorem trapReturn_listedTwice : ∀ t u, exec (.trap 0) listedTwice = .next t → exec (.trapret 0) t = .next u →
    (aGet 5 u.paths).map (·.sup) = some true := by
  intro t u ht hu
  have hnext : exec (.trap 0) listedTwice = .next (takeTrap listedTwice 4 lonePath ⟨0x16, 1, 0, 1, false, 0⟩) := execTrap_next ⟨rfl, rfl⟩ 0
  rw [hnext] at ht
  cases ht
  have hback : exec (.trapret 0) (takeTrap listedTwice 4 lonePath ⟨0x16, 1, 0, 1, false, 0⟩) = .next (trapReturn
    (takeTrap listedTwice 4 lonePath ⟨0x16, 1, 0, 1, false, 0⟩) 4 { lonePath with sup := true, pos := ⟨64 + 64 * 0x16, 0, 0, 0⟩ } false) := rfl
  rw [hback] at hu
  cases hu
  decide

/-- Refutes O13: path 4's TRAPRET moves path 5, whose waiting fault belongs to another gang, where the machine lists two paths under 5: the
statement does not ask that the numbers of the paths differ. -/
theorem not_trapAndReturn : ¬ Obligations.TrapAndReturn := by
  intro h
  obtain ⟨t, u, ht, hu, ⟨-, hother⟩, -⟩ := h listedTwice 4 lonePath ⟨rfl, rfl⟩ canTrap_listedTwice (by decide) (by decide) rfl (by decide)
    (by decide) (by decide) (by decide) (by decide) (by decide) 0 (by decide) 0 (by decide)
  have hmoved := trapReturn_listedTwice t u ht hu
  rw [hother 5 (by decide)] at hmoved
  exact absurd hmoved (by decide)

end Sys2Proof.Machine
end

section
/-! SUPPORT. Control and status registers (R105 to R109, R116, R239): what CSRWR keeps of a value and where, what CSRRD reads, and that it reads
back what was written. -/

namespace Sys2Proof.Machine

/-! Slices and lanes. -/

/-- A lane's slice is among those of its mask. -/
theorem mem_slicesOf_of_testBit {lanes i : Nat} (hi : i < 32) (hb : lanes.testBit i = true) : i / 4 ∈ slicesOf lanes := by
  refine (mem_slicesOf _ _).2 ⟨by omega, ?_⟩
  have hbit : (bits lanes (4 * (i / 4) + 3) (4 * (i / 4))).testBit (i % 4) = true := by
    have hw : 4 * (i / 4) + 3 + 1 - 4 * (i / 4) = 4 := by omega
    have hpos : i % 4 + 4 * (i / 4) = i := by omega
    rw [bits, hw, Nat.testBit_mod_two_pow, Nat.testBit_div_two_pow, hpos, hb]
    simpa using (by omega : i % 4 < 4)
  rw [bne_iff_ne]
  intro hz
  rw [hz, Nat.zero_testBit] at hbit
  cases hbit

/-- A path's lowest slice is one of its slices. -/
theorem lowSlice_mem {lanes : Nat} (h0 : lanes ≠ 0) (h : lanes < 2 ^ 32) : lowSlice lanes ∈ slicesOf lanes := by
  obtain ⟨i, hi⟩ := Nat.exists_testBit_of_ne_zero h0
  have h32 : i < 32 := by
    by_contra hge
    rw [Nat.testBit_lt_two_pow (h.trans_le (Nat.pow_le_pow_right (by decide) (by omega)))] at hi
    cases hi
  have hmem := mem_slicesOf_of_testBit h32 hi
  unfold lowSlice
  revert hmem
  cases slicesOf lanes with
  | nil => intro hmem; cases hmem
  | cons c cs => intro _; exact List.mem_cons_self ..

theorem lanes_ne_zero_of_active {q : Path} (h : 0 < active q) : q.lanes ≠ 0 := by
  intro hz
  unfold active at h
  split at h
  · rw [hz, Nat.and_zero] at h; cases h
  · rw [hz] at h; cases h

/-! Masks that are ORed together. -/

theorem testBit_foldl_or {α : Type} (f : α → Nat) (xs : List α) (m i : Nat) :
    (xs.foldl (fun m x => m ||| f x) m).testBit i = (m.testBit i || xs.any fun x => (f x).testBit i) := by
  induction xs generalizing m with
  | nil => simp
  | cons x xs ih => rw [List.foldl_cons, ih, Nat.testBit_or, List.any_cons, Bool.or_assoc]

/-- The OR of one value over some slices is that value. -/
theorem foldl_or_const {α : Type} {f : α → Nat} {xs : List α} {v : Nat} (hne : xs ≠ []) (h : ∀ x ∈ xs, f x = v) :
    xs.foldl (fun m x => m ||| f x) 0 = v := by
  refine Nat.eq_of_testBit_eq fun i => ?_
  rw [testBit_foldl_or, Nat.zero_testBit, Bool.false_or]
  obtain ⟨y, hy⟩ := List.exists_mem_of_ne_nil _ hne
  rw [Bool.eq_iff_iff, List.any_eq_true]
  exact ⟨fun ⟨x, hx, hb⟩ => h x hx ▸ hb, fun hb => ⟨y, hy, (h y hy).symm ▸ hb⟩⟩

/-! The fields that a register keeps (R7). -/

/-- A field of k bits from lo cut out of a word. -/
theorem toNat_and_field {w mask : DWord} (k lo : Nat) (hm : mask.toNat = (2 ^ k - 1) * 2 ^ lo) :
    (w &&& mask).toNat = w.toNat / 2 ^ lo % 2 ^ k * 2 ^ lo := by
  rw [BitVec.toNat_and, hm]
  refine Nat.eq_of_testBit_eq fun i => ?_
  simp only [Nat.testBit_and, Nat.testBit_mul_two_pow, Nat.testBit_two_pow_sub_one, Nat.testBit_mod_two_pow, Nat.testBit_div_two_pow]
  by_cases hi : lo ≤ i
  · rw [Nat.sub_add_cancel hi]
    simp only [hi, decide_true, Bool.true_and, Bool.and_comm]
  · simp [hi]

/-- Bits [11:9] of TRAPINFO are reserved (R107). -/
theorem toNat_and_trapInfo (w : DWord) : (w &&& ~~~0xE00#64).toNat = w.toNat - bits w.toNat 11 9 * 2 ^ 9 := by
  have hmask : (~~~0xE00#64 : DWord) = 0x1FF#64 ||| 0xFFFFFFFFFFFFF000#64 := by decide
  have hlow : (w &&& 0x1FF#64).toNat = w.toNat % 2 ^ 9 := by
    have h := toNat_and_field (w := w) (mask := 0x1FF#64) 9 0 (by decide)
    simpa using h
  have hhigh := toNat_and_field (w := w) (mask := 0xFFFFFFFFFFFFF000#64) 52 12 (by decide)
  have hdis : (w &&& 0x1FF#64).toNat ||| (w &&& 0xFFFFFFFFFFFFF000#64).toNat =
      w.toNat / 2 ^ 12 % 2 ^ 52 * 2 ^ 12 + w.toNat % 2 ^ 9 := by
    rw [hlow, hhigh, Nat.lor_comm, Nat.mul_comm _ (2 ^ 12), Nat.two_pow_add_eq_or_of_lt (by omega)]
  have hw := w.isLt
  rw [hmask, BitVec.and_or_distrib_left, BitVec.toNat_or, hdis]
  unfold bits
  omega

/-- What a register that may be written keeps of a word: the bits of a mask (R7, R106). -/
theorem csrField_eq_and {n : Nat} {mask : DWord} (h : (n, mask) ∈ [(0x000, (3 : DWord)), (0x001, 0x1F), (0x010, ~~~0), (0x011, ~~~0xE00),
    (0x012, ~~~0), (0x013, ~~~0), (0x014, ~~~0), (0x015, ~~~0), (0x016, ~~~0), (0x100, ~~~0x7FF), (0x101, ~~~0), (0x102, ~~~0),
    (0x104, 0xFFFFFFFFFFFF), (0x112, 0x00FFFFFFFFE00000), (0x120, 0xFFFFFFFF)]) (w : DWord) : csrField n w.toNat = (w &&& mask).toNat := by
  have hw := w.isLt
  have hwhole : w.toNat = (w &&& ~~~0).toNat := by
    rw [toNat_and_field 64 0 (by decide)]
    omega
  have hlow : ∀ k (m : DWord), m.toNat = 2 ^ k - 1 → w.toNat % 2 ^ k = (w &&& m).toNat := fun k m hm => by
    rw [toNat_and_field k 0 (by rw [hm, Nat.pow_zero, Nat.mul_one]), Nat.pow_zero, Nat.div_one, Nat.mul_one]
  simp only [List.mem_cons, Prod.mk.injEq, List.not_mem_nil, or_false] at h
  obtain ⟨rfl, rfl⟩ | ⟨rfl, rfl⟩ | ⟨rfl, rfl⟩ | ⟨rfl, rfl⟩ | ⟨rfl, rfl⟩ | ⟨rfl, rfl⟩ | ⟨rfl, rfl⟩ | ⟨rfl, rfl⟩ | ⟨rfl, rfl⟩ | ⟨rfl, rfl⟩ |
    ⟨rfl, rfl⟩ | ⟨rfl, rfl⟩ | ⟨rfl, rfl⟩ | ⟨rfl, rfl⟩ | ⟨rfl, rfl⟩ := h
  · exact hlow 2 _ rfl
  · exact hlow 5 _ rfl
  · exact hwhole
  · exact (toNat_and_trapInfo w).symm
  · exact hwhole
  · exact hwhole
  · exact hwhole
  · exact hwhole
  · exact hwhole
  · rw [toNat_and_field 53 11 (by decide)]
    change w.toNat - w.toNat % 2 ^ 11 = _
    omega
  · exact hwhole
  · exact hwhole
  · exact hlow 48 _ rfl
  · exact (toNat_and_field 35 21 (by decide)).symm
  · exact hlow 32 _ rfl

/-! Where a register lies. -/

/-- A register of a slice that may be written: FPMODE, FPSTAT and the trap registers (R106). -/
def SliceCsr (n : Nat) : Prop := n < 2 ∨ 0x010 ≤ n ∧ n ≤ 0x016

/-- Its place among the registers of a slice. -/
def sliceCsrIndex (n : Nat) : Nat := if n < 2 then n else n - 0x010 + 2

theorem sliceCsrIndex_lt {n : Nat} (h : SliceCsr n) : sliceCsrIndex n < 16 := by
  unfold SliceCsr at h
  unfold sliceCsrIndex
  split <;> omega

/-- The registers of a context that may be written, with their places. -/
def ctxCsrs : List (Nat × Nat) := [(0x100, 0), (0x101, 1), (0x102, 2), (0x104, 3), (0x112, 4), (0x120, 5)]

section
variable {s : State} {p : Nat} {q : Path} {n : Nat}

theorem writeCsr_slice (h : SliceCsr n) (x : Nat) : writeCsr s q n x = setCsr s q (sliceCsrIndex n) (csrField n x) := by
  unfold SliceCsr at h
  unfold writeCsr sliceCsrIndex
  by_cases h0 : n = 0
  · subst h0; rfl
  · by_cases h1 : n = 1
    · subst h1; rfl
    · have hr : 0x010 ≤ n ∧ n ≤ 0x016 := by omega
      rw [if_neg h0, if_neg h1, if_pos (by simpa using hr), if_neg (by omega)]
      rfl

theorem writeCsr_ctx {i : Nat} (h : (n, i) ∈ ctxCsrs) (x : Nat) : writeCsr s q n x = setCtxReg s (ctxOf s q) i (csrField n x) := by
  simp only [ctxCsrs, List.mem_cons, Prod.mk.injEq, List.not_mem_nil, or_false] at h
  obtain ⟨rfl, rfl⟩ | ⟨rfl, rfl⟩ | ⟨rfl, rfl⟩ | ⟨rfl, rfl⟩ | ⟨rfl, rfl⟩ | ⟨rfl, rfl⟩ := h <;> rfl

theorem readCsr_ctx {i : Nat} (h : (n, i) ∈ ctxCsrs) : readCsr s q n = (s, ctxReg s (ctxOf s q) i) := by
  simp only [ctxCsrs, List.mem_cons, Prod.mk.injEq, List.not_mem_nil, or_false] at h
  obtain ⟨rfl, rfl⟩ | ⟨rfl, rfl⟩ | ⟨rfl, rfl⟩ | ⟨rfl, rfl⟩ | ⟨rfl, rfl⟩ | ⟨rfl, rfl⟩ := h <;> rfl

/-- A register that every slice of the path holds with one value reads as that value, FPSTAT too (R109). -/
theorem readCsr_slice (h : SliceCsr n) (h0 : q.lanes ≠ 0) (h32 : q.lanes < 2 ^ 32) {v : Nat}
    (hv : ∀ c ∈ slicesOf q.lanes, bGet s.csr (csrKey q.gang c (sliceCsrIndex n)) = v) : readCsr s q n = (s, v) := by
  have hlow := lowSlice_mem h0 h32
  unfold SliceCsr at h
  unfold readCsr
  by_cases h1 : n = 1
  · subst h1
    exact congrArg (Prod.mk s) (foldl_or_const (List.ne_nil_of_mem hlow) hv)
  · by_cases hz : n = 0
    · subst hz
      exact congrArg (Prod.mk s) (hv _ hlow)
    · have hr : 0x010 ≤ n ∧ n ≤ 0x016 := by omega
      have hi : sliceCsrIndex n = n - 0x010 + csrTrapPc := if_neg (by omega)
      dsimp only
      rw [if_neg h1, if_neg hz, if_neg (by omega), if_pos (by simpa using hr)]
      exact congrArg (Prod.mk s) (hi ▸ hv _ hlow)

/-! CSRWR and CSRRD that the level permits (R116). -/

theorem execCsrwr_next (hq : Issues s p q) (hl : q.sup = true ∨ csrUserWrite n = true) (hf : n = 1 → fpStatReady s q = true) (g : Nat) :
    exec (.csrwr g n) s = .next (advance (writeCsr s q n (getG s q g)) p q 1) := by
  have hpriv : (!q.sup && !csrUserWrite n) = false := by rcases hl with h | h <;> simp [h]
  have hready : (decide (n = 0x001) && !fpStatReady s q) = false := by
    by_cases h1 : n = 1
    · simp [hf h1]
    · simp [h1]
  exact (onPath_next hq _).trans (by simp only [hpriv, hready]; rfl)

theorem execCsrrd_next (hq : Issues s p q) (hl : q.sup = true ∨ csrPrivRead n = false) (hf : n = 1 → fpStatReady s q = true) (d : Nat) :
    exec (.csrrd d n) s = .next (advance (setG (readCsr s q n).1 q d (readCsr s q n).2) p q 1) := by
  have hpriv : (!q.sup && csrPrivRead n) = false := by rcases hl with h | h <;> simp [h]
  have hready : (decide (n = 0x001) && !fpStatReady s q) = false := by
    by_cases h1 : n = 1
    · simp [hf h1]
    · simp [h1]
  exact (onPath_next hq _).trans (by simp only [hpriv, hready]; rfl)

/-- CSRRD puts what it reads into G[d]. -/
theorem getG_csrrd (hq : Issues s p q) (hl : q.sup = true ∨ csrPrivRead n = false) (hf : n = 1 → fpStatReady s q = true) {d v : Nat}
    (hd : d < 32) (ha : active q ≠ 0) (h32 : q.lanes < 2 ^ 32) (hr : readCsr s q n = (s, v)) :
    ∃ u, exec (.csrrd d n) s = .next u ∧ getG u q d = v % 2 ^ 64 := by
  have hlow := lowSlice_mem (lanes_ne_zero_of_active (Nat.pos_of_ne_zero ha)) h32
  refine ⟨_, execCsrrd_next hq hl hf d, ?_⟩
  rw [hr, getG, advance_eq, getGs_setPath, getGs_setG _ _ _ _ hd _ _ _ ((mem_slicesOf _ _).1 hlow).1 hd, if_pos ⟨rfl, hlow, ha, rfl⟩]

/-- The next instruction of a path that has written a register issues in the same place. -/
theorem issues_advance {u : State} (hq : Issues s p q) (hi : u.issuing = s.issuing) (k : Nat) : Issues (advance u p q k) p (q.past k) :=
  ⟨hi.trans hq.1, by rw [advance_eq, setPath_paths, aGet_aSet_self]⟩

theorem active_past (k : Nat) : active (q.past k) = q.lanes := rfl

/-- What CSRWR of a permitted register comes to, and the CSRRD after it (R106, R109). -/
def KeepsCsr (s : State) (p : Nat) (q : Path) (g d n v : Nat) : Prop :=
  ∃ t u, exec (.csrwr g n) s = .next t ∧ PathBecomes s t p (q.past 1) ∧
    { t with csr := s.csr, ctxRegs := s.ctxRegs, paths := s.paths } = s ∧ SameBytes s t ∧
    (∀ gid c i, c < 8 → i < 16 →
      (Holds q gid c ∧ n < 0x100 ∧ i = sliceCsrIndex n → bGet t.csr (csrKey gid c i) = v) ∧
      (¬ (Holds q gid c ∧ n < 0x100 ∧ i = sliceCsrIndex n) → bGet t.csr (csrKey gid c i) = bGet s.csr (csrKey gid c i))) ∧
    (∀ c i, i < 8 → ¬ (c = ctxOf s q ∧ (n, i) ∈ ctxCsrs) → ctxReg t c i = ctxReg s c i) ∧
    exec (.csrrd d n) t = .next u ∧ getG u q d = v

section
variable {g d : Nat} (hq : Issues s p q) (hl : q.sup = true ∨ csrUserWrite n = true) (hf : fpStatReady s q = true) (hd : d < 32)
  (h32 : q.lanes < 2 ^ 32) (ha : 0 < active q)
include hq hl hf hd h32 ha

/-- A register reads back once what CSRWR makes of the state is known. -/
theorem keepsCsr_of {u : State} {v : Nat} (hw : writeCsr s q n (getG s q g) = u) (hu : { u with csr := s.csr, ctxRegs := s.ctxRegs } = s)
    (hcsr : ∀ gid c i, c < 8 → i < 16 → bGet u.csr (csrKey gid c i) =
      if (gid = q.gang ∧ c ∈ slicesOf q.lanes) ∧ n < 0x100 ∧ i = sliceCsrIndex n then v else bGet s.csr (csrKey gid c i))
    (hctx : ∀ c i, i < 8 → ¬ (c = ctxOf s q ∧ (n, i) ∈ ctxCsrs) → ctxReg u c i = ctxReg s c i)
    (hread : ∀ t : State, t.csr = u.csr → t.ctxRegs = u.ctxRegs → ctxOf t (q.past 1) = ctxOf s q → readCsr t (q.past 1) n = (t, v))
    (hv : v < 2 ^ 64) : KeepsCsr s p q g d n v := by
  have hpaths : u.paths = s.paths := (congrArg State.paths hu :)
  have hlevel : (q.past 1).sup = true ∨ csrPrivRead n = false := hl.imp id fun h => by
    simp only [csrUserWrite, Bool.or_eq_true, decide_eq_true_eq] at h
    obtain (rfl | rfl) | rfl := h <;> rfl
  have hissue : Issues (advance u p q 1) p (q.past 1) := issues_advance hq (congrArg State.issuing hu :) 1
  have hready : fpStatReady (advance u p q 1) (q.past 1) = true := hf ▸ (congrArg (fun x => fpStatReady x q) hu :)
  obtain ⟨r, hr, hg⟩ := getG_csrrd hissue hlevel (fun _ => hready) hd (show q.lanes ≠ 0 from lanes_ne_zero_of_active ha) h32
    (hread _ rfl rfl (congrArg (fun x => ctxOf x q) hu :))
  refine ⟨_, r, hw ▸ execCsrwr_next hq hl (fun _ => hf) g, pathBecomes_setPath _ _ _ _ hpaths,
    (congrArg (fun x : State => { x with paths := s.paths }) hu :), fun a => (congrArg (fun x => peekByte x a) hu :),
    fun gid c i hc hi => ⟨fun h => (hcsr gid c i hc hi).trans (if_pos h), fun h => (hcsr gid c i hc hi).trans (if_neg h)⟩, hctx, hr,
    hg.trans (Nat.mod_eq_of_lt hv)⟩

theorem keepsCsr_slice (h : SliceCsr n) (hv : csrField n (getG s q g) < 2 ^ 64) : KeepsCsr s p q g d n (csrField n (getG s q g)) := by
  have hi := sliceCsrIndex_lt h
  have hn : n < 0x100 := by unfold SliceCsr at h; omega
  have hcsr : ∀ gid c i, c < 8 → i < 16 → bGet (setCsr s q (sliceCsrIndex n) (csrField n (getG s q g))).csr (csrKey gid c i) =
      if (gid = q.gang ∧ c ∈ slicesOf q.lanes) ∧ i = sliceCsrIndex n then csrField n (getG s q g) else bGet s.csr (csrKey gid c i) := fun gid c i hc hi16 =>
    (bGet_setCsr s q _ _ hc hi hi16).trans (by rw [Nat.mod_eq_of_lt hv])
  refine keepsCsr_of hq hl hf hd h32 ha (writeCsr_slice h _) rfl (fun gid c i hc hi16 => ?_) (fun _ _ _ _ => rfl) (fun t ht _ _ => ?_) hv
  · rw [hcsr gid c i hc hi16]
    simp only [hn, true_and]
  · refine readCsr_slice h (lanes_ne_zero_of_active ha) h32 fun c hc => ?_
    rw [ht, hcsr _ c _ ((mem_slicesOf _ _).1 hc).1 hi, if_pos ⟨⟨rfl, hc⟩, rfl⟩]

theorem keepsCsr_ctx {j : Nat} (h : (n, j) ∈ ctxCsrs) (hv : csrField n (getG s q g) < 2 ^ 64) :
    KeepsCsr s p q g d n (csrField n (getG s q g)) := by
  have hplace : ∀ e ∈ ctxCsrs, 0x100 ≤ e.1 ∧ e.2 < 8 := by decide
  obtain ⟨hn, hj⟩ := hplace _ h
  have hreg : ∀ c i, i < 8 → ctxReg (setCtxReg s (ctxOf s q) j (csrField n (getG s q g))) c i =
      if c = ctxOf s q ∧ i = j then csrField n (getG s q g) else ctxReg s c i := fun c i hi => by
    rw [ctxReg, setCtxReg, bGet_bSet, Nat.mod_eq_of_lt hv]
    by_cases hc : c = ctxOf s q ∧ i = j
    · rw [if_pos hc, if_pos (by rw [hc.1, hc.2])]
    · rw [if_neg hc, if_neg (by omega)]
      rfl
  refine keepsCsr_of hq hl hf hd h32 ha (writeCsr_ctx h _) rfl (fun gid c i _ _ => ?_) (fun c i hi hno => ?_) (fun t _ ht hctx => ?_) hv
  · rw [if_neg (by omega)]
    rfl
  · rw [hreg c i hi, if_neg fun hc : c = ctxOf s q ∧ i = j => hno ⟨hc.1, hc.2 ▸ h⟩]
  · have hval : ctxReg t (ctxOf s q) j = csrField n (getG s q g) :=
      (congrArg (fun m => bGet m (ctxOf s q * 8 + j)) ht).trans ((hreg _ _ hj).trans (if_pos ⟨rfl, rfl⟩))
    rw [readCsr_ctx h, hctx, hval]

end

/-- CSRWR of a read-only register at supervisor level changes nothing (R106). -/
theorem writeCsr_readOnly (h : n ∈ [0x002, 0x103, 0x105, 0x106, 0x110, 0x111, 0x113]) (x : Nat) : writeCsr s q n x = s := by
  simp only [List.mem_cons, List.not_mem_nil, or_false] at h
  obtain rfl | rfl | rfl | rfl | rfl | rfl | rfl := h <;> rfl

end

/-! Reads (R106, R108, R239). -/

/-- CSRRD of a register whose read changes nothing puts its value into G[d]. -/
theorem csrrd_writes {n d : Nat} {ok : State → Path → Prop} {val : State → Path → DWord} (hd : d < 32)
    (hok : ∀ s q, ok s q → (q.sup = true ∨ csrPrivRead n = false) ∧ (n = 1 → fpStatReady s q = true))
    (hread : ∀ s q, ok s q → ∃ x, readCsr s q n = (s, x) ∧ x % 2 ^ 64 = (val s q).toNat) : WritesGIf (.csrrd d n) ok 1 d val := by
  intro s p q hq h
  obtain ⟨hl, hf⟩ := hok s q h
  obtain ⟨x, hx, hval⟩ := hread s q h
  have hnext := execCsrrd_next hq hl hf d
  rw [hx] at hnext
  refine ⟨_, hnext, pathBecomes_setPath _ _ _ _ rfl, rfl, fun _ => rfl, fun gid c r hc hr => ?_⟩
  rw [advance_eq, getGs_setPath, getGs_setG _ _ _ _ hd _ _ _ hc hr, hval]
  exact ⟨fun ⟨⟨h1, h2⟩, h3, h4⟩ => if_pos ⟨h1, h2, h3, h4⟩, fun hno => if_neg fun ⟨h1, h2, h3, h4⟩ => hno ⟨⟨h1, h2⟩, h3, h4⟩⟩

/-- The same of a register that every level may read, at once. -/
theorem csrrd_writes_always {n d : Nat} {val : State → Path → DWord} (hd : d < 32) (hn : csrPrivRead n = false ∧ n ≠ 1)
    (hread : ∀ s q, ∃ x, readCsr s q n = (s, x) ∧ x % 2 ^ 64 = (val s q).toNat) : WritesG (.csrrd d n) 1 d val :=
  csrrd_writes hd (fun _ _ _ => ⟨.inr hn.1, fun h => absurd h hn.2⟩) fun s q _ => hread s q

theorem popcount_eq_countP (n x : Nat) : popcount n x = (List.range n).countP fun i => x.testBit i := by
  induction n generalizing x with
  | zero => rfl
  | succ n ih =>
    rw [popcount, ih, List.range_succ_eq_map, List.countP_cons, List.countP_map, Nat.add_comm]
    congr 1
    · exact List.countP_congr fun i _ => by simp [Nat.testBit_succ]
    · rw [Nat.testBit_zero]
      rcases Nat.mod_two_eq_zero_or_one x with h | h <;> simp [h]

theorem partInfo_eq {s : State} {c : Nat} (h : (aGet (ctxAt s c).part s.parts).isSome = true) :
    partInfo s c = ((aGet (ctxAt s c).part s.parts).map fun x => (ctxAt s c).part * 2 ^ 16 + x.dense.toNat * 2 ^ 8 +
      (List.range 128).countP fun i => x.clusters.testBit i).getD 0 := by
  obtain ⟨x, hx⟩ := Option.isSome_iff_exists.1 h
  simp only [partInfo, hx, Option.map_some, Option.getD_some]
  rw [clusterCount, popcount_eq_countP]
  rfl

/-- The greatest number of a list bounds all of them and is one of them, if it is not 0. -/
theorem foldl_max_spec (xs : List Nat) (b : Nat) :
    (∀ x ∈ xs, x ≤ xs.foldl Nat.max b) ∧ b ≤ xs.foldl Nat.max b ∧ (xs.foldl Nat.max b = b ∨ xs.foldl Nat.max b ∈ xs) := by
  induction xs generalizing b with
  | nil => exact ⟨fun _ h => absurd h List.not_mem_nil, le_rfl, .inl rfl⟩
  | cons y ys ih =>
    obtain ⟨hall, hb, hmem⟩ := ih (Nat.max b y)
    rw [List.foldl_cons]
    refine ⟨fun x hx => ?_, (Nat.le_max_left b y).trans hb, ?_⟩
    · rcases List.mem_cons.1 hx with rfl | hx
      · exact (Nat.le_max_right b x).trans hb
      · exact hall x hx
    · rcases hmem with hmem | hmem
      · rw [hmem]
        rcases Nat.le_total b y with h | h
        · exact .inr (by rw [show Nat.max b y = y from Nat.max_eq_right h]; exact List.mem_cons_self ..)
        · exact .inl (Nat.max_eq_left h)
      · exact .inr (List.mem_cons_of_mem _ hmem)

/-- The most lines of a context that one slice holds (R239). -/
def peakHeld (s : State) (c : Nat) : Nat := ((List.range 256).map (sliceLines s c)).foldl Nat.max 0

theorem peakHeld_spec (s : State) (c : Nat) :
    (∀ sl, sl < 256 → sliceLines s c sl ≤ peakHeld s c) ∧ (peakHeld s c = 0 ∨ ∃ sl, sl < 256 ∧ sliceLines s c sl = peakHeld s c) := by
  obtain ⟨hall, -, hmem⟩ := foldl_max_spec ((List.range 256).map (sliceLines s c)) 0
  refine ⟨fun sl hsl => hall _ (List.mem_map.2 ⟨sl, List.mem_range.2 hsl, rfl⟩), hmem.imp id fun h => ?_⟩
  obtain ⟨sl, hsl, heq⟩ := List.mem_map.1 h
  exact ⟨sl, List.mem_range.1 hsl, heq⟩

/-- OCCUSE (R239): the slices at or beyond the context's limit, and the most lines that one holds. -/
theorem occUse_eq (s : State) (c : Nat) : occUse s c =
    ((List.range 256).countP fun sl =>
      decide (min (ctxAt s c).occLimit 32768 ≠ 0 ∧ min (ctxAt s c).occLimit 32768 ≤ sliceLines s c sl)) * 2 ^ 32 +
      min (peakHeld s c) 0xFFFF := by
  have hcap : occCap s c = min (ctxAt s c).occLimit 32768 := by
    unfold occCap ctxAt
    cases aGet c s.ctxs <;> rfl
  unfold occUse
  dsimp only
  rw [hcap]
  congr 2
  split
  · rename_i hz
    rw [hz]
    simp
  · rename_i hz
    rw [List.filter_map, List.length_map, ← List.countP_eq_length_filter]
    exact List.countP_congr fun sl _ => by simp [hz]

/-- Settles O14: a register lies in the slices or in the context, CSRWR keeps its fields there, and CSRRD reads them. -/
theorem controlRegisters : Obligations.ControlRegisters := by
  refine ⟨fun s p q g d hq hg hd h32 ha hf n mask hn hl => ?_, fun d hd => ⟨?_, ?_, ?_, ?_, fun i hi => ?_, ?_, ?_, ?_, ?_, fun n i hn => ?_,
    fun s p q n hq hsup hn => ?_⟩⟩
  · have hval : csrField n (getG s q g) = (gWord s q g &&& mask).toNat := by rw [getG_eq, csrField_eq_and hn]
    have hl' : q.sup = true ∨ csrUserWrite n = true := hl.imp id fun h => by simpa [csrUserWrite, or_assoc] using h
    have hlt : csrField n (getG s q g) < 2 ^ 64 := hval ▸ BitVec.isLt _
    have hwhere : ∀ e ∈ [(0x000, (3 : DWord)), (0x001, 0x1F), (0x010, ~~~0), (0x011, ~~~0xE00),
      (0x012, ~~~0), (0x013, ~~~0), (0x014, ~~~0), (0x015, ~~~0), (0x016, ~~~0), (0x100, ~~~0x7FF), (0x101, ~~~0), (0x102, ~~~0),
      (0x104, 0xFFFFFFFFFFFF), (0x112, 0x00FFFFFFFFE00000), (0x120, 0xFFFFFFFF)], (e.1 < 2 ∨ 0x010 ≤ e.1 ∧ e.1 ≤ 0x016) ∨ ∃ j < 6, (e.1, j) ∈ ctxCsrs := by
      decide
    rw [← hval]
    rcases hwhere _ hn with h | ⟨j, -, h⟩
    · exact keepsCsr_slice hq hl' hf hd h32 ha h hlt
    · exact keepsCsr_ctx hq hl' hf hd h32 ha h hlt
  · exact csrrd_writes_always hd (by decide) fun s q => ⟨_, rfl, by cases q.sup <;> rfl⟩
  · exact csrrd_writes_always hd (by decide) fun s q => ⟨_, rfl, (BitVec.toNat_ofNat ..).symm⟩
  · exact csrrd_writes_always hd (by decide) fun s q => ⟨_, rfl, (BitVec.toNat_ofNat ..).symm⟩
  · exact csrrd_writes_always hd (by decide) fun s q => ⟨_, rfl, (BitVec.toNat_ofNat ..).symm⟩
  · refine csrrd_writes hd (fun s q h => ⟨.inl h, fun h1 => by omega⟩) fun s q _ => ⟨_, ?_, (BitVec.toNat_ofNat ..).symm⟩
    interval_cases i <;> rfl
  · refine ⟨fun s q => BitVec.ofNat 64 (getFpStat s q), fun s q i hi => ?_, ?_⟩
    · rw [BitVec.getLsbD_ofNat, getFpStat, testBit_foldl_or]
      simp [hi, csrFpStat]
    · exact csrrd_writes hd (fun s q h => ⟨.inr rfl, fun _ => h⟩) fun s q _ => ⟨_, rfl, (BitVec.toNat_ofNat ..).symm⟩
  · exact csrrd_writes hd (fun s q h => ⟨.inr rfl, fun h1 => by cases h1⟩) fun s q h => ⟨_, congrArg (Prod.mk s) (partInfo_eq h),
      (BitVec.toNat_ofNat ..).symm⟩
  · exact csrrd_writes_always hd (by decide) fun s q => ⟨_, rfl, (BitVec.toNat_ofNat ..).symm⟩
  · exact ⟨peakHeld, peakHeld_spec, csrrd_writes_always hd (by decide) fun s q => ⟨_, congrArg (Prod.mk s) (occUse_eq s _),
      (BitVec.toNat_ofNat ..).symm⟩⟩
  · have hread : ∀ e ∈ ctxCsrs, csrPrivRead e.1 = false ∧ e.1 ≠ 1 := by decide
    exact csrrd_writes_always hd (hread _ hn) fun s q => ⟨_, readCsr_ctx hn, (BitVec.toNat_ofNat ..).symm⟩
  · refine ⟨_, execCsrwr_next hq (.inl hsup) (fun h1 => ?_) d, ?_, ?_⟩
    · subst h1
      exact absurd hn (by decide)
    · rw [writeCsr_readOnly hn]
      exact pathBecomes_setPath _ _ _ _ rfl
    · rw [writeCsr_readOnly hn]
      rfl

end Sys2Proof.Machine
end

section
/-! SUPPORT. Translations dropped and given (R116, R212, R404, R405): TLBINV, the translations of the host that a response gives to the cores
that wait for it, and the completion of an invalidation. -/

namespace Sys2Proof.Machine

/-! Lists without later copies. -/

theorem mem_foldl_uniq {α : Type} [BEq α] [LawfulBEq α] (xs acc : List α) (x : α) :
    x ∈ xs.foldl (fun acc x => if acc.contains x then acc else acc ++ [x]) acc ↔ x ∈ acc ∨ x ∈ xs := by
  induction xs generalizing acc with
  | nil => simp
  | cons y ys ih =>
    rw [List.foldl_cons, ih, List.mem_cons]
    by_cases hy : y ∈ acc
    · rw [if_pos (List.contains_iff_mem.2 hy)]
      exact ⟨fun h => h.imp id .inr, fun h => h.elim .inl (Or.imp (fun e => e ▸ hy) id)⟩
    · rw [if_neg (fun h => hy (List.contains_iff_mem.1 h)), List.mem_append, List.mem_singleton, or_assoc]

theorem mem_uniq {α : Type} [BEq α] [LawfulBEq α] (xs : List α) (x : α) : x ∈ uniq xs ↔ x ∈ xs := by
  rw [uniq, mem_foldl_uniq]
  simp

theorem nodup_uniq {α : Type} [BEq α] [LawfulBEq α] (xs : List α) : (uniq xs).Nodup := by
  refine List.foldlRecOn (motive := List.Nodup) _ _ List.nodup_nil fun acc hacc x _ => ?_
  split
  · exact hacc
  · rename_i hx
    rw [List.nodup_append]
    refine ⟨hacc, by simp, fun a ha b hb hab => hx ?_⟩
    rw [List.mem_singleton] at hb
    exact List.contains_iff_mem.2 (hb ▸ hab ▸ ha)

/-! Translations of the host given to cores (R404). -/

/-- State t is s but for its translation caches. -/
def SameButTlb (s t : State) : Prop := { t with tlb := s.tlb, ats := s.ats } = s

theorem sameButTlb_atsInsert {s t : State} (h : SameButTlb s t) (e : AtsEntry) : SameButTlb s (atsInsert t e) := by
  unfold atsInsert tlbRoom
  split
  · exact h
  · split
    · exact h
    · split <;> exact h

/-- A host page's translation given to some cores. -/
def atsGiven (s : State) (c page target : Nat) (cores : List Nat) : State :=
  cores.foldl (fun s core => atsInsert s ⟨core, c, page, target⟩) s

theorem sameButTlb_atsGiven (s : State) (c page target : Nat) (cores : List Nat) : SameButTlb s (atsGiven s c page target cores) :=
  List.foldlRecOn (motive := SameButTlb s) _ _ rfl fun _ hu _ _ => sameButTlb_atsInsert hu _

/-- With room in its core's cache a translation takes the place of the one that its page had there. -/
theorem atsInsert_of_room {s : State} {e : AtsEntry} (h : tlbCount s e.core < Config.tlbEntries) :
    atsInsert s e = { s with ats := (s.ats.filter fun x => !(x.core == e.core && x.ctx == e.ctx && x.page == e.page)) ++ [e] } := by
  have hle : tlbCount { s with ats := s.ats.filter fun x => !(x.core == e.core && x.ctx == e.ctx && x.page == e.page) } e.core <
      Config.tlbEntries :=
    lt_of_le_of_lt (Nat.add_le_add_left (List.Sublist.filter _ List.filter_sublist).length_le _) h
  unfold atsInsert tlbRoom
  rw [if_pos hle]

/-- It leaves the count of every other core. -/
theorem tlbCount_atsInsert_ne {s : State} {e : AtsEntry} (h : tlbCount s e.core < Config.tlbEntries) {core : Nat} (hne : core ≠ e.core) :
    tlbCount (atsInsert s e) core = tlbCount s core := by
  rw [atsInsert_of_room h, tlbCount, tlbCount]
  congr 1
  have hother : e.core ≠ core := hne.symm
  rw [List.filter_append, List.filter_filter]
  simp only [List.filter_cons, beq_iff_eq, hother, if_false, List.filter_nil, List.append_nil]
  congr 1
  refine List.filter_congr fun x _ => ?_
  by_cases hx : x.core = core
  · simp [hx, hne]
  · simp [hx]

/-- With room in the caches of distinct cores, each has the translation and nothing else of its page (R404). -/
theorem atsGiven_of_room (c page target : Nat) {cores : List Nat} (hnd : cores.Nodup) {s : State}
    (h : ∀ core ∈ cores, tlbCount s core < Config.tlbEntries) :
    atsGiven s c page target cores =
      { s with ats := (s.ats.filter fun x => !(cores.contains x.core && x.ctx == c && x.page == page)) ++
          cores.map fun core => ⟨core, c, page, target⟩ } := by
  induction cores generalizing s with
  | nil => simp [atsGiven]
  | cons k ks ih =>
    obtain ⟨hk, hks⟩ := List.nodup_cons.1 hnd
    have hroom : tlbCount s k < Config.tlbEntries := h k (List.mem_cons_self ..)
    have hrest : ∀ core ∈ ks, tlbCount (atsInsert s ⟨k, c, page, target⟩) core < Config.tlbEntries := fun core hc => by
      rw [tlbCount_atsInsert_ne hroom (by rintro rfl; exact hk hc)]
      exact h core (List.mem_cons_of_mem _ hc)
    have hstep : atsGiven s c page target (k :: ks) = atsGiven (atsInsert s ⟨k, c, page, target⟩) c page target ks := rfl
    rw [hstep, ih hks hrest, atsInsert_of_room hroom]
    have hnot : ks.contains k = false := by simpa using hk
    simp only [List.filter_append, List.filter_filter, List.filter_cons, List.filter_nil, hnot, Bool.false_and, Bool.not_false, if_true,
      List.map_cons, List.append_assoc, List.singleton_append]
    congr 2
    refine List.filter_congr fun x _ => ?_
    rw [List.contains_cons]
    cases ks.contains x.core <;> cases x.core == k <;> cases x.ctx == c <;> cases x.page == page <;> rfl

section
variable {s : State} {p : Nat} {q : Path}

/-- TLBINV at supervisor level (R116, R212). -/
theorem execTlbinvPage_next (hq : Issues s p q) (hsup : q.sup = true) (g : Nat) :
    exec (.tlbinvPage g) s = .next (advance { s with
      tlb := s.tlb.filter fun t => !(t.ctx == ctxOf s q && decide (t.va ≤ getG s q g) && decide (getG s q g < t.va + t.size))
      ats := s.ats.filter fun x => x.ctx != ctxOf s q } p q 1) :=
  (onPath_next hq _).trans (by simp only [hsup]; rfl)

theorem execTlbinvAll_next (hq : Issues s p q) (hsup : q.sup = true) :
    exec .tlbinvAll s = .next (advance { s with
      tlb := s.tlb.filter fun t => t.ctx != ctxOf s q
      ats := s.ats.filter fun t => t.ctx != ctxOf s q } p q 1) :=
  (onPath_next hq _).trans (by simp only [hsup]; rfl)

end

/-! Responses and invalidations. -/

section
variable {s : State} {c page : Nat}

/-- The requests that an ATS response answers (R404). -/
def atsAnswered (c page : Nat) (ok : Bool) (rs : List ServiceReq) : List ServiceReq :=
  rs.map fun r : ServiceReq => if r.ctx = c ∧ r.page = page ∧ r.host = true then { r with taken := true, answer := some ok } else r

/-- The translations after a response: given to the cores that wait where it brings an address (R404). -/
def atsTaken (s : State) (c page : Nat) : Option Nat → State
  | some target => atsGiven s c page target (atsCores s c page)
  | none => s

theorem sameButTlb_atsTaken (s : State) (c page : Nat) (a : Option Nat) : SameButTlb s (atsTaken s c page a) := by
  cases a with
  | some target => exact sameButTlb_atsGiven ..
  | none => rfl

/-- The machine after an ATS response (R404). -/
def atsResponded (s : State) (c page : Nat) (a : Option Nat) : State :=
  { atsTaken s c page a with services := atsAnswered c page a.isSome s.services }

theorem atsResponded_frame (s : State) (c page : Nat) (a : Option Nat) :
    { atsResponded s c page a with ats := s.ats, tlb := s.tlb, services := s.services } = s :=
  (congrArg (fun u : State => { u with services := s.services }) (sameButTlb_atsTaken s c page a) :)

theorem execAtsResponse_next (s : State) (c page : Nat) (a : Option Nat) :
    exec .atsResponse (s.about (.ats c page a)) = .next (atsResponded (s.about (.ats c page a)) c page a) := by
  have hmap : (s.services.map fun r : ServiceReq =>
      if r.ctx == c && r.page == page && r.host then { r with taken := true, answer := some a.isSome } else r) =
        atsAnswered c page a.isSome s.services :=
    List.map_congr_left fun r _ => by simp only [Bool.and_eq_true, beq_iff_eq, and_assoc]
  have hservices : (atsTaken (s.about (.ats c page a)) c page a).services = s.services :=
    (congrArg State.services (sameButTlb_atsTaken (s.about (.ats c page a)) c page a) :)
  unfold atsResponded
  rw [show (s.about (.ats c page a)).services = s.services from rfl, ← hmap, ← hservices]
  cases a <;> rfl

/-- What a response leaves in the translation caches, where the cores that wait have room (R404). -/
theorem atsResponded_of_room (a : Option Nat) (h : ∀ core ∈ atsCores s c page, tlbCount s core < Config.tlbEntries) :
    let t := atsResponded s c page a
    (∀ x, a = some x → ∀ core ∈ atsCores s c page, (⟨core, c, page, x⟩ : AtsEntry) ∈ t.ats ∧
      ∀ e ∈ t.ats, e.core = core → e.ctx = c → e.page = page → e.target = x) ∧
    (a = none → t.ats = s.ats) ∧ (∀ e ∈ s.ats, ¬ (e.ctx = c ∧ e.page = page) → e ∈ t.ats) ∧ t.tlb = s.tlb := by
  cases a with
  | none => exact ⟨fun _ hx => (nomatch hx), fun _ => rfl, fun _ he _ => he, rfl⟩
  | some target =>
    have ht := atsGiven_of_room c page target (cores := atsCores s c page) (nodup_uniq _) h
    simp only [atsResponded, atsTaken]
    rw [ht]
    refine ⟨fun x hx core hcore => ?_, fun hx => (nomatch hx), fun e he hno => ?_, rfl⟩
    · cases hx
      refine ⟨List.mem_append_right _ (List.mem_map.2 ⟨core, hcore, rfl⟩), fun e he h1 h2 h3 => ?_⟩
      rcases List.mem_append.1 he with he | he
      · have hkept := (List.mem_filter.1 he).2
        simp [h1, h2, h3, hcore] at hkept
      · obtain ⟨_, _, rfl⟩ := List.mem_map.1 he
        rfl
    · refine List.mem_append_left _ (List.mem_filter.2 ⟨he, ?_⟩)
      simp only [Bool.not_eq_true', Bool.and_eq_false_iff, beq_eq_false_iff_ne]
      by_cases hc : e.ctx = c
      · exact .inr fun hp => hno ⟨hc, hp⟩
      · exact .inl (.inr hc)

/-- Some store or atomic of the context that used the page's translation has still to be sent (R405). -/
def UsesHostPage (s : State) (c page : Nat) : Prop :=
  ∃ o ∈ s.ops, o.2.ctx = c ∧ (o.2.kind = .store ∨ o.2.kind = .atom) ∧ ∃ a ∈ o.2.accesses, isHost a.pa = true ∧ a.done = false ∧
    ∃ e ∈ s.ats, e.ctx = c ∧ e.page = page ∧ e.target = (a.pa - hostBase) / 4096 * 4096

/-- The invalidation that ATS_INVALIDATION records (R405). -/
def atsInvalidation (s : State) (c page : Nat) : Invalidation :=
  ⟨c, page, uniq ((s.ats.filter fun t => t.ctx == c && t.page == page).map (·.target))⟩

theorem stillToSend_iff : (s.ops.any fun e => stillToSend c (atsInvalidation s c page).targets e.2) = true ↔ UsesHostPage s c page := by
  simp only [UsesHostPage, stillToSend, atsInvalidation, List.any_eq_true, Bool.and_eq_true, Bool.or_eq_true, beq_iff_eq, decide_eq_true_eq,
    Bool.not_eq_true', List.contains_iff_mem, mem_uniq, List.mem_map, List.mem_filter]
  refine exists_congr fun o => and_congr_right fun _ => and_assoc.trans (and_congr_right fun _ => and_congr_right fun _ => ?_)
  refine exists_congr fun a => and_congr_right fun _ => and_assoc.trans (and_congr_right fun _ => and_congr_right fun _ => ?_)
  exact exists_congr fun e => by simp only [and_assoc]

/-- The only invalidation kept stays while something that used its translations has still to be sent (R405). -/
theorem sendInvalDone_keeps {v : Invalidation} (h : s.invals = [v]) (hany : (s.ops.any fun e => stillToSend v.ctx v.targets e.2) = true) :
    sendInvalDone s = s := by
  have hkept : (s.invals.filter fun v => !!(s.ops.any fun e => stillToSend v.ctx v.targets e.2)) = s.invals := by simp [h, hany]
  have hnone : (s.invals.filter fun v => !(s.ops.any fun e => stillToSend v.ctx v.targets e.2)) = [] := by simp [h, hany]
  dsimp only [sendInvalDone]
  rw [hkept, hnone, List.map_nil, List.append_nil]

/-- It is complete, and leaves, once nothing has (R405). -/
theorem sendInvalDone_completes {v : Invalidation} (h : s.invals = [v])
    (hnone : ¬ (s.ops.any fun e => stillToSend v.ctx v.targets e.2) = true) :
    sendInvalDone s = { s with invals := [], invalDone := s.invalDone ++ [(v.ctx, v.page)] } := by
  unfold sendInvalDone
  simp [h, Bool.eq_false_iff.2 hnone]

/-- The machine just after an invalidation was taken (R405). -/
def atsInvalidated (s : State) (c page : Nat) : State :=
  { s with ats := s.ats.filter fun t => !(t.ctx == c && t.page == page), invals := s.invals ++ [atsInvalidation s c page] }

theorem execAtsInvalidation_next (s : State) (c page : Nat) :
    exec .atsInvalidation (s.about (.two c page)) = .next (sendInvalDone (atsInvalidated (s.about (.two c page)) c page)) := rfl

theorem atsInvalidated_frame (s : State) (c page : Nat) :
    { sendInvalDone (atsInvalidated s c page) with ats := s.ats, invals := s.invals, invalDone := s.invalDone } = s := rfl

theorem atsInvalidated_invals (hnil : s.invals = []) : (atsInvalidated s c page).invals = [atsInvalidation s c page] :=
  congrArg (· ++ [atsInvalidation s c page]) hnil

/-- The only invalidation is complete at once where nothing that used its page has still to be sent (R405). -/
theorem sendInvalDone_of_unused (hnil : s.invals = []) (hno : ¬ UsesHostPage s c page) :
    (sendInvalDone (atsInvalidated s c page)).invalDone = s.invalDone ++ [(c, page)] ∧
    (sendInvalDone (atsInvalidated s c page)).invals = [] := by
  rw [sendInvalDone_completes (atsInvalidated_invals hnil) fun h => hno (stillToSend_iff.1 h)]
  exact ⟨rfl, rfl⟩

/-- Else it is kept (R405). -/
theorem sendInvalDone_of_used (hnil : s.invals = []) (huse : UsesHostPage s c page) :
    (sendInvalDone (atsInvalidated s c page)).invalDone = s.invalDone ∧
    (sendInvalDone (atsInvalidated s c page)).invals.map (fun v => (v.ctx, v.page)) = [(c, page)] := by
  rw [sendInvalDone_keeps (atsInvalidated_invals hnil) (stillToSend_iff.2 huse), atsInvalidated_invals hnil]
  exact ⟨rfl, rfl⟩

end

/-- Settles O15: TLBINV filters the caches, a response gives to each waiting core, and an invalidation waits for what used its translation. -/
theorem translations : Obligations.Translations := by
  refine ⟨fun s p q g hq hsup hg =>
    ⟨⟨_, execTlbinvPage_next hq hsup g, pathBecomes_setPath _ _ _ _ rfl, rfl, fun _ => rfl, fun e => ?_, fun e => ?_⟩,
    ⟨_, execTlbinvAll_next hq hsup, pathBecomes_setPath _ _ _ _ rfl, rfl, fun _ => rfl, fun e => ?_, fun e => ?_⟩⟩,
    fun s c page => ⟨fun a => ⟨_, execAtsResponse_next s c page a, fun h => atsResponded_of_room (s := s.about (.ats c page a)) a h, rfl,
      (congrArg (fun u : State => { u with subject := s.subject }) (atsResponded_frame (s.about (.ats c page a)) c page a) :)⟩,
      ⟨_, execAtsInvalidation_next s c page, fun e => ?_,
        (congrArg (fun u : State => { u with subject := s.subject }) (atsInvalidated_frame (s.about (.two c page)) c page) :),
        fun hnil => ⟨sendInvalDone_of_unused (s := s.about (.two c page)) hnil, sendInvalDone_of_used (s := s.about (.two c page)) hnil⟩⟩⟩⟩
  · simp [advance_eq, imp_iff_not_or, or_assoc]
  · simp
  · simp [advance_eq]
  · simp
  · refine List.mem_filter.trans (and_congr_right fun _ => ?_)
    simp only [Bool.not_eq_true', Bool.and_eq_false_iff, beq_eq_false_iff_ne, not_and_or]

end Sys2Proof.Machine
end

section
/-! SUPPORT. Lanes that wait at a JOIN or a REGANG, and lanes that go on (R153, R157, R165). -/

namespace Sys2Proof.Machine

/-! Branch targets (R38). -/

theorem sext_eq_toInt (o n : Nat) (hn : 0 < n) : sext o n = (BitVec.ofNat n o).toInt := by
  rw [← sext_toNat _ hn, BitVec.toNat_ofNat, sext, sext, Nat.mod_mod]

theorem target_eq_branchAddr (q : Path) (o n : Nat) (hn : 0 < n) : target q.pos o n = branchAddr q o n := by
  rw [target, branchAddr, wrapInt, sext_eq_toInt o n hn, BitVec.signExtend, ← BitVec.ofInt_natCast 64 (wordAddr q.pos),
    show (4#64 : BitVec 64) = BitVec.ofInt 64 4 from rfl, ← BitVec.ofInt_mul, ← BitVec.ofInt_add, BitVec.toNat_ofInt, mul_comm]

/-! New paths (R147, R153). -/

section
variable {s t u : State} {gid lanes : Nat}

/-- State t is s but for new paths, under keys that s has not yet given. -/
structure OnlyNewPaths (s t : State) : Prop where
  fresh : s.fresh ≤ t.fresh
  gangs : t.gangs = s.gangs
  paths : ∀ k, k < s.fresh → aGet k t.paths = aGet k s.paths

theorem OnlyNewPaths.refl (s : State) : OnlyNewPaths s s := ⟨le_rfl, rfl, fun _ _ => rfl⟩

theorem OnlyNewPaths.trans (h : OnlyNewPaths s t) (h' : OnlyNewPaths t u) : OnlyNewPaths s u :=
  ⟨h.fresh.trans h'.fresh, h'.gangs.trans h.gangs, fun k hk => (h'.paths k (hk.trans_le h.fresh)).trans (h.paths k hk)⟩

theorem OnlyNewPaths.foldl {α : Type} {f : State → α → State} (hf : ∀ s x, OnlyNewPaths s (f s x)) (xs : List α) (s : State) :
    OnlyNewPaths s (xs.foldl f s) :=
  List.foldlRecOn (motive := OnlyNewPaths s) _ _ (.refl s) fun _ h x _ => h.trans (hf _ x)

/-- A new path of some lanes, at a position. -/
theorem newPath_spec (h : lanes ≠ 0) (s : State) (gid : Nat) (pos : Position) (sup park : Bool) (b : Option (Nat × Nat)) :
    ∃ a : Path, a.gang = gid ∧ a.lanes = lanes ∧ a.pos = pos ∧
      newPath s gid lanes pos sup park b = { s with paths := aSet s.fresh a s.paths, fresh := s.fresh + 1 } :=
  ⟨_, rfl, rfl, rfl, if_neg h⟩

theorem newPath_onlyNewPaths (s : State) (gid lanes : Nat) (pos : Position) (sup park : Bool) (b : Option (Nat × Nat)) :
    OnlyNewPaths s (newPath s gid lanes pos sup park b) := by
  by_cases h : lanes = 0
  · rw [newPath, if_pos h]
    exact .refl s
  · obtain ⟨a, _, _, _, ha⟩ := newPath_spec h s gid pos sup park b
    rw [ha]
    exact ⟨Nat.le_succ _, rfl, fun k hk => aGet_aSet_ne a _ (Nat.ne_of_gt hk)⟩

/-- What the lanes of stack entries must share to go on as one path (R153). -/
def resumeKey (e : StackEntry) : Nat × Nat × Bool × Bool × Option (Nat × Nat) := (e.addr, e.word, e.sup, e.park, e.barsync)

/-- The lanes with one such key go on (R153). -/
def resumeAt (gid : Nat) (es : List StackEntry) (s : State) (k : Nat × Nat × Bool × Bool × Option (Nat × Nat)) : State :=
  match (es.filter fun e => resumeKey e == k).head? with
  | none => s
  | some e => newPath s gid ((es.filter fun e => resumeKey e == k).foldl (fun m x => m ||| x.lanes) 0) ⟨e.addr, e.word, e.cls, e.n⟩
      e.sup e.park e.barsync

theorem resumeLanes_eq (s : State) (gid : Nat) (es : List StackEntry) :
    resumeLanes s gid es = (uniq (es.map resumeKey)).foldl (resumeAt gid es) s := rfl

theorem resumeAt_onlyNewPaths (gid : Nat) (es : List StackEntry) (s : State) (k : Nat × Nat × Bool × Bool × Option (Nat × Nat)) :
    OnlyNewPaths s (resumeAt gid es s k) := by
  unfold resumeAt
  split
  · exact .refl s
  · exact newPath_onlyNewPaths ..

theorem resumeLanes_onlyNewPaths (s : State) (gid : Nat) (es : List StackEntry) : OnlyNewPaths s (resumeLanes s gid es) :=
  .foldl (resumeAt_onlyNewPaths gid es) _ s

theorem foldl_lanes_and {es : List StackEntry} {e : StackEntry} (he : e ∈ es) :
    es.foldl (fun m x => m ||| x.lanes) 0 &&& e.lanes = e.lanes := by
  refine Nat.eq_of_testBit_eq fun i => ?_
  rw [Nat.testBit_and, testBit_foldl_or, Nat.zero_testBit, Bool.false_or]
  cases hi : e.lanes.testBit i
  · exact Bool.and_false _
  · rw [Bool.and_true, List.any_eq_true]
    exact ⟨e, he, hi⟩

/-- The lanes of an entry go on in a new path at the entry's position (R153). -/
theorem resumeAt_spec (gid : Nat) {es : List StackEntry} {e : StackEntry} (he : e ∈ es) (hne : e.lanes ≠ 0) (s : State) :
    ∃ a : Path, aGet s.fresh (resumeAt gid es s (resumeKey e)).paths = some a ∧ s.fresh < (resumeAt gid es s (resumeKey e)).fresh ∧
      a.lanes &&& e.lanes = e.lanes ∧ a.pos.hdr = e.addr ∧ a.pos.word = e.word ∧ a.gang = gid := by
  have hmine : e ∈ es.filter fun x => resumeKey x == resumeKey e := List.mem_filter.2 ⟨he, beq_self_eq_true _⟩
  unfold resumeAt
  split
  · rename_i hhead
    rw [List.head?_eq_none_iff.1 hhead] at hmine
    cases hmine
  · rename_i x hhead
    have hkey : resumeKey x = resumeKey e := by simpa using (List.mem_filter.1 (List.mem_of_mem_head? hhead)).2
    obtain ⟨haddr, hword, _⟩ : x.addr = e.addr ∧ x.word = e.word ∧ _ := by simpa [resumeKey] using hkey
    have hand := foldl_lanes_and hmine
    have hlanes : (es.filter fun x => resumeKey x == resumeKey e).foldl (fun m x => m ||| x.lanes) 0 ≠ 0 := fun h => hne <| by
      rw [h, Nat.zero_and] at hand
      exact hand.symm
    obtain ⟨a, hgang, hl, hpos, ha⟩ := newPath_spec hlanes s gid ⟨x.addr, x.word, x.cls, x.n⟩ x.sup x.park x.barsync
    rw [ha]
    exact ⟨a, aGet_aSet_self .., Nat.lt_succ_self _, hl ▸ hand, by rw [hpos]; exact haddr, by rw [hpos]; exact hword, hgang⟩

theorem resumeLanes_spec (s : State) (gid : Nat) {es : List StackEntry} {e : StackEntry} (he : e ∈ es) (hne : e.lanes ≠ 0) :
    ∃ k a, s.fresh ≤ k ∧ aGet k (resumeLanes s gid es).paths = some a ∧ a.lanes &&& e.lanes = e.lanes ∧ a.pos.hdr = e.addr ∧
      a.pos.word = e.word ∧ a.gang = gid := by
  obtain ⟨ks, ks', hks⟩ := List.mem_iff_append.1 ((mem_uniq _ _).2 (List.mem_map_of_mem (f := resumeKey) he))
  have hbefore := OnlyNewPaths.foldl (resumeAt_onlyNewPaths gid es) ks s
  obtain ⟨a, ha, hfresh, hspec⟩ := resumeAt_spec gid he hne (ks.foldl (resumeAt gid es) s)
  refine ⟨_, a, hbefore.fresh, ?_, hspec⟩
  rw [resumeLanes_eq, hks, List.foldl_append, List.foldl_cons]
  exact ((OnlyNewPaths.foldl (resumeAt_onlyNewPaths gid es) ks' _).paths _ hfresh).trans ha

end

/-! JOIN and REGANG: the lanes that issue wait (R153, R157). -/

section
variable {s : State} {p : Nat} {q : Path} {g : Gang}

/-- The wait of an issue's lanes: TRAPBASE as it stood (R109) and, at supervisor level, the record of a BARSYNC (R416). -/
def waitOf (s : State) (q : Path) (regang : Bool) (key : Nat) : WaitIssue :=
  ⟨active q, q.pos, q.sup, regang, key, baseOf s q, if q.sup then q.barsync else none⟩

/-- What the path keeps: nothing, or the lanes that do not replay the instruction, past it (R116). -/
def pathLeft (q : Path) : Option Path :=
  if maskDiff q.lanes (active q) = 0 then none else some ({ q with lanes := maskDiff q.lanes (active q) }.past 1)

/-- The issue's lanes off their slots, in the gang's list of waits. -/
def parted (s : State) (p : Nat) (q : Path) (stack : List StackEntry) (w : WaitIssue) : State :=
  let s := modGang s q.gang fun g => { g with stack := stack, waits := g.waits ++ [w] }
  if maskDiff q.lanes w.lanes = 0 then { s with paths := aErase p s.paths } else advance s p { q with lanes := maskDiff q.lanes w.lanes } 1

theorem parted_gangs (hg : gangOf s q = some g) (stack : List StackEntry) (w : WaitIssue) :
    aGet q.gang (parted s p q stack w).gangs = some { g with stack := stack, waits := g.waits ++ [w] } := by
  have hmod : (parted s p q stack w).gangs = aMod q.gang (fun g => { g with stack := stack, waits := g.waits ++ [w] }) s.gangs := by
    unfold parted
    split <;> rfl
  rw [hmod, aGet_aMod, if_pos rfl, show aGet q.gang s.gangs = some g from hg, Option.map_some]

theorem parted_fresh (stack : List StackEntry) (w : WaitIssue) : (parted s p q stack w).fresh = s.fresh := by
  unfold parted
  split <;> rfl

theorem parted_path (stack : List StackEntry) (regang : Bool) (key : Nat) :
    aGet p (parted s p q stack (waitOf s q regang key)).paths = pathLeft q := by
  unfold parted
  split
  · rename_i h
    exact (aGet_aErase_self ..).trans (if_pos h).symm
  · rename_i h
    exact (aGet_aSet_self ..).trans (if_neg h).symm

theorem parted_paths {k : Nat} (hk : k ≠ p) (stack : List StackEntry) (w : WaitIssue) :
    aGet k (parted s p q stack w).paths = aGet k s.paths := by
  unfold parted
  split
  · exact (aGet_aErase ..).trans (if_neg hk.symm)
  · exact aGet_aSet_ne _ _ hk.symm

/-- A wait that is no deadlock is only that: the issue's lanes wait, and deferred lanes go on. -/
theorem waitLanes_eq (hg : gangOf s q = some g) (stack pops : List StackEntry) (w : WaitIssue)
    (hd : joinDeadlock { g with stack := stack, waits := g.waits ++ [w] } = false) :
    waitLanes s p q stack pops w = resumeLanes (parted s p q stack w) q.gang pops := by
  have hgang := (congrArg (aGet q.gang) (resumeLanes_onlyNewPaths (parted s p q stack w) q.gang pops).gangs).trans (parted_gangs hg stack w)
  have hwait : waitLanes s p q stack pops w = match aGet q.gang (resumeLanes (parted s p q stack w) q.gang pops).gangs with
      | some g => if joinDeadlock g then breakDeadlock (resumeLanes (parted s p q stack w) q.gang pops) q.gang w
        else resumeLanes (parted s p q stack w) q.gang pops
      | none => resumeLanes (parted s p q stack w) q.gang pops := rfl
  rw [hwait, hgang]
  exact if_neg (Bool.eq_false_iff.1 hd)

theorem waitLanes_spec (hg : gangOf s q = some g) (hp : p < s.fresh) (stack pops : List StackEntry) (regang : Bool) (key : Nat)
    (hd : joinDeadlock { g with stack := stack, waits := g.waits ++ [waitOf s q regang key] } = false) :
    let t := waitLanes s p q stack pops (waitOf s q regang key)
    aGet q.gang t.gangs = some { g with stack := stack, waits := g.waits ++ [waitOf s q regang key] } ∧ aGet p t.paths = pathLeft q ∧
    (∀ k, k ≠ p → k < s.fresh → aGet k t.paths = aGet k s.paths) ∧
    ∀ e ∈ pops, e.lanes ≠ 0 → ∃ k a, s.fresh ≤ k ∧ aGet k t.paths = some a ∧ a.lanes &&& e.lanes = e.lanes ∧ a.pos.hdr = e.addr ∧
      a.pos.word = e.word ∧ a.gang = q.gang := by
  have hnew := resumeLanes_onlyNewPaths (parted s p q stack (waitOf s q regang key)) q.gang pops
  have hfresh := parted_fresh (s := s) (p := p) (q := q) stack (waitOf s q regang key)
  dsimp only
  rw [waitLanes_eq hg stack pops _ hd, hnew.gangs]
  refine ⟨parted_gangs hg .., (hnew.paths p (hfresh.symm ▸ hp)).trans (parted_path ..),
    fun k hk hlt => (hnew.paths k (hfresh.symm ▸ hlt)).trans (parted_paths hk ..), fun e he hne => ?_⟩
  rw [← hfresh]
  exact resumeLanes_spec _ q.gang he hne

theorem execJoin_next (hq : Issues s p q) (hg : gangOf s q = some g)
    (hjoin : ∀ c ∈ slicesOf (active q), (topJoin g.stack (sliceLanes c (active q))).isSome = true) :
    exec .join s = .next (waitLanes s p q (markArrived (popEntries g.stack (pendOnTop g.stack (active q))) (active q))
      (pendOnTop g.stack (active q)) (waitOf s q false 0)) := by
  have hbad : ¬ ((slicesOf (active q)).any fun c => (topJoin g.stack (sliceLanes c (active q))).isNone) = true := by
    rw [List.any_eq_true]
    rintro ⟨c, hc, hnone⟩
    have hsome := hjoin c hc
    rw [Option.isNone_iff_eq_none.1 hnone] at hsome
    cases hsome
  refine (onPath_next hq _).trans (congrArg Host.Outcome.next ?_)
  dsimp only
  rw [hg]
  exact if_neg hbad

theorem execRegang_next (hq : Issues s p q) (hg : gangOf s q = some g) :
    exec .regang s = .next (waitLanes s p q (popEntries g.stack (pendOnTop g.stack (active q))) (pendOnTop g.stack (active q))
      (waitOf s q true (wordAddr q.pos))) := by
  refine (onPath_next hq _).trans (congrArg Host.Outcome.next ?_)
  dsimp only
  rw [hg]
  rfl

/-- The entries that JSET pushes: one of a new tag in each slice of the path (R165). -/
def jsetEntries (q : Path) (g : Gang) (o : Nat) : List StackEntry :=
  (slicesOf (active q)).map fun c => ⟨c, g.nextTag, true, sliceLanes c (active q), 0, target q.pos o 22, 0, 0, 0, q.sup, q.park, none⟩

theorem execJset_next (hq : Issues s p q) (hg : gangOf s q = some g) (hroom : ∀ c ∈ slicesOf (active q), hasRoom s q g c = true) (o : Nat) :
    exec (.jset o) s = .next (advance (modGang s q.gang fun g' => { g' with
      stack := jsetEntries q g o ++ g'.stack, nextTag := g'.nextTag + 1 }) p q 1) := by
  have hfull : ¬ ((slicesOf (active q)).any fun c => !hasRoom s q g c) = true := by
    rw [List.any_eq_true]
    rintro ⟨c, hc, hno⟩
    rw [hroom c hc] at hno
    cases hno
  refine (onPath_next hq _).trans (congrArg Host.Outcome.next ?_)
  dsimp only
  rw [hg]
  exact if_neg hfull

end

/-! Completions (R153, R157). -/

section
variable {s : State} {gid : Nat} {g : Gang}

/-- The lanes that have arrived at some entries. -/
def arrived (es : List StackEntry) : Nat := es.foldl (fun m e => m ||| e.lanes) 0

/-- The gang once a tag is complete: its entries popped, and its lanes no longer waiting (R153). -/
def tagGone (g : Gang) (es : List StackEntry) : Gang :=
  { g with
    stack := popEntries g.stack es
    waits := (g.waits.map fun w => { w with lanes := maskDiff w.lanes (arrived es) }).filter fun w => w.lanes != 0 }

theorem execTagComplete_next (hg : aGet gid s.gangs = some g) {tag : Nat} {e : StackEntry} {es : List StackEntry} (hdone : tagDone g tag = true)
    (hlive : gangLive s g = true) (hes : (g.stack.filter fun e => e.isJoin && e.tag == tag) = e :: es) :
    exec .tagComplete (s.about (.two gid tag)) =
      .next (newPath { s.about (.two gid tag) with gangs := aSet gid (tagGone g (e :: es)) s.gangs } gid (arrived (e :: es)) ⟨e.addr, 0, 0, 0⟩
        (g.waits.any fun w => w.lanes &&& arrived (e :: es) != 0 && w.sup) (e.park && slotsFull s gid (arrived (e :: es)))
        (sharedRecord (g.waits.filter fun w => w.lanes &&& arrived (e :: es) != 0))) := by
  have hno : ¬ (!tagDone g tag || !gangLive (s.about (.two gid tag)) g) = true := by
    rw [hdone, show gangLive (s.about (.two gid tag)) g = true from hlive]
    decide
  have hexec : exec .tagComplete (s.about (.two gid tag)) = execTagComplete (s.about (.two gid tag)) := rfl
  have hg' : aGet gid (s.about (.two gid tag)).gangs = some g := hg
  rw [hexec]
  unfold execTagComplete
  rw [show (s.about (.two gid tag)).subject = .two gid tag from rfl]
  dsimp only
  rw [hg']
  dsimp only
  rw [if_neg hno, hes]
  rfl

theorem tagComplete_spec (hg : aGet gid s.gangs = some g) {tag : Nat} {e : StackEntry} {es : List StackEntry} (hdone : tagDone g tag = true)
    (hlive : gangLive s g = true) (hes : (g.stack.filter fun e => e.isJoin && e.tag == tag) = e :: es) (hne : arrived (e :: es) ≠ 0) :
    ∃ t a, exec .tagComplete (s.about (.two gid tag)) = .next t ∧ aGet s.fresh t.paths = some a ∧ a.gang = gid ∧
      a.lanes = arrived (e :: es) ∧ a.pos = ⟨e.addr, 0, 0, 0⟩ ∧ (∀ k, k ≠ s.fresh → aGet k t.paths = aGet k s.paths) ∧
      ∃ g', aGet gid t.gangs = some g' ∧ g'.stack = popEntries g.stack (e :: es) ∧ g'.live = g.live := by
  obtain ⟨a, hgang, hlanes, hpos, ha⟩ := newPath_spec hne { s.about (.two gid tag) with gangs := aSet gid (tagGone g (e :: es)) s.gangs } gid
    ⟨e.addr, 0, 0, 0⟩ (g.waits.any fun w => w.lanes &&& arrived (e :: es) != 0 && w.sup) (e.park && slotsFull s gid (arrived (e :: es)))
    (sharedRecord (g.waits.filter fun w => w.lanes &&& arrived (e :: es) != 0))
  exact ⟨_, a, (execTagComplete_next hg hdone hlive hes).trans (congrArg Host.Outcome.next ha), aGet_aSet_self .., hgang, hlanes, hpos,
    fun k hk => aGet_aSet_ne a _ hk.symm, tagGone g (e :: es), aGet_aSet_self .., rfl, rfl⟩

/-- The machine once a REGANG is complete, but for the path that goes on: one copy of the G registers, one FPSTAT and empty stacks (R157). -/
def regangGone (s : State) (gid : Nat) (g : Gang) : State :=
  { s with
    gangs := aSet gid { g with stack := [], waits := [] } s.gangs
    g := bSetAll s.g ((List.range g.slices.length).flatMap fun c => (List.range 32).map fun r =>
      (gKey gid c r, getGs s gid (lowSlice g.live) r))
    csr := bSetAll s.csr ((List.range g.slices.length).map fun c => (csrKey gid c csrFpStat,
      (List.range g.slices.length).foldl (fun m c => m ||| bGet s.csr (csrKey gid c csrFpStat)) 0)) }

theorem execRegangComplete_next (hg : aGet gid s.gangs = some g) {w : WaitIssue} {ws : List WaitIssue} (hdone : regangDone g = true)
    (hlive : gangLive s g = true) (hws : g.waits = w :: ws) :
    exec .regangComplete (s.about (.one gid)) =
      .next (newPath (regangGone (s.about (.one gid)) gid g) gid g.live ⟨w.pos.hdr + 4 * (w.pos.n + 1), 0, 0, 0⟩ (g.waits.any (·.sup)) false
        (sharedRecord g.waits)) := by
  have hno : ¬ (!regangDone g || !gangLive (s.about (.one gid)) g) = true := by
    rw [hdone, show gangLive (s.about (.one gid)) g = true from hlive]
    decide
  have hexec : exec .regangComplete (s.about (.one gid)) = execRegangComplete (s.about (.one gid)) := rfl
  have hg' : aGet gid (s.about (.one gid)).gangs = some g := hg
  have hhead : g.waits.head? = some w := by rw [hws]; rfl
  rw [hexec]
  unfold execRegangComplete
  rw [show (s.about (.one gid)).subject = .one gid from rfl]
  dsimp only
  rw [hg']
  dsimp only
  rw [if_neg hno, hhead]
  rfl

theorem regangDone_live (h : regangDone g = true) : g.live ≠ 0 := by
  dsimp only [regangDone] at h
  split at h
  · cases h
  · simp only [Bool.and_eq_true, bne_iff_ne] at h
    exact h.1

/-- Every slice has the G registers of one slice of the gang (R157). -/
theorem regangGone_g (hlen : g.slices.length ≤ 8) {c r : Nat} (hc : c < g.slices.length) (hr : r < 32) :
    getGs (regangGone s gid g) gid c r = getGs s gid (lowSlice g.live) r := by
  refine (bGet_bSetAll_of_mem _ _ _ _ ⟨(gKey gid c r, getGs s gid (lowSlice g.live) r), List.mem_flatMap.2 ⟨c, List.mem_range.2 hc,
    List.mem_map.2 ⟨r, List.mem_range.2 hr, rfl⟩⟩, rfl⟩ fun e he hkey => ?_).trans (Nat.mod_eq_of_lt (bGet_lt ..))
  obtain ⟨c', hc', he⟩ := List.mem_flatMap.1 he
  obtain ⟨r', hr', rfl⟩ := List.mem_map.1 he
  have := List.mem_range.1 hc'
  obtain ⟨_, _, rfl⟩ := (gKey_inj (by omega) (List.mem_range.1 hr') (by omega) hr).1 hkey
  rfl

/-- Every slice's FPSTAT is the OR of all (R157). -/
theorem regangGone_fpStat {c i : Nat} (hc : c < g.slices.length) (hi : i < 64) :
    (bGet (regangGone s gid g).csr (csrKey gid c csrFpStat)).testBit i =
      (List.range g.slices.length).any fun c' => (bGet s.csr (csrKey gid c' csrFpStat)).testBit i := by
  have hfp : bGet (regangGone s gid g).csr (csrKey gid c csrFpStat) = _ :=
    bGet_bSetAll_of_mem _ _ _ _ ⟨_, List.mem_map.2 ⟨c, List.mem_range.2 hc, rfl⟩, rfl⟩ fun e he _ => by
      obtain ⟨_, _, rfl⟩ := List.mem_map.1 he
      rfl
  rw [hfp, Nat.testBit_mod_two_pow, testBit_foldl_or]
  simp [hi]

theorem regangComplete_spec (hg : aGet gid s.gangs = some g) {w : WaitIssue} {ws : List WaitIssue} (hdone : regangDone g = true)
    (hlive : gangLive s g = true) (hws : g.waits = w :: ws) (hlen : g.slices.length ≤ 8) :
    ∃ t a, exec .regangComplete (s.about (.one gid)) = .next t ∧ aGet s.fresh t.paths = some a ∧ a.gang = gid ∧ a.lanes = g.live ∧
      a.pos = ⟨w.pos.hdr + 4 * (w.pos.n + 1), 0, 0, 0⟩ ∧ (∀ k, k ≠ s.fresh → aGet k t.paths = aGet k s.paths) ∧
      aGet gid t.gangs = some { g with stack := [], waits := [] } ∧
      (∀ c r, c < g.slices.length → r < 32 → getGs t gid c r = getGs s gid (lowSlice g.live) r) ∧
      (∀ c i, c < g.slices.length → i < 64 → (bGet t.csr (csrKey gid c csrFpStat)).testBit i =
        (List.range g.slices.length).any fun c' => (bGet s.csr (csrKey gid c' csrFpStat)).testBit i) ∧
      t.v = s.v ∧ t.p = s.p ∧ t.mem = s.mem := by
  obtain ⟨a, hgang, hlanes, hpos, ha⟩ := newPath_spec (regangDone_live hdone) (regangGone (s.about (.one gid)) gid g) gid
    ⟨w.pos.hdr + 4 * (w.pos.n + 1), 0, 0, 0⟩ (g.waits.any (·.sup)) false (sharedRecord g.waits)
  exact ⟨_, a, (execRegangComplete_next hg hdone hlive hws).trans (congrArg Host.Outcome.next ha), aGet_aSet_self .., hgang, hlanes, hpos,
    fun k hk => aGet_aSet_ne a _ hk.symm, aGet_aSet_self .., fun c r => regangGone_g (s := s.about (.one gid)) hlen,
    fun c i => regangGone_fpStat (s := s.about (.one gid)), rfl, rfl, rfl⟩

end

/-- Settles O18: JSET pushes its entries, a wait takes its lanes off their slots and resumes deferred ones, and the completions make one new
path. -/
theorem joinAndRegang : Obligations.JoinAndRegang := by
  refine ⟨fun s p q g hq hg _ hp => ⟨fun o _ hroom => ?_, fun pops stack left hpops hstack hleft => ?_⟩,
    fun s gid g hg => ⟨fun tag e es hdone hlive hes hne => tagComplete_spec hg hdone hlive hes hne,
      fun w ws hdone hlive hws hlen => regangComplete_spec hg hdone hlive hws hlen⟩⟩
  · refine ⟨_, { g with stack := jsetEntries q g o ++ g.stack, nextTag := g.nextTag + 1 }, execJset_next hq hg hroom o,
      pathBecomes_setPath _ _ _ _ rfl, rfl, peekByte_congr rfl rfl rfl, ?_, fun k hk => ?_, ?_, ?_⟩
    · exact (aGet_aMod ..).trans ((if_pos rfl).trans (congrArg (Option.map _) hg))
    · exact (aGet_aMod ..).trans (if_neg hk.symm)
    · exact List.drop_left' (by simp [jsetEntries])
    · rw [List.take_left' (by simp [jsetEntries]), jsetEntries, List.map_map, ← target_eq_branchAddr q o 22 (by decide)]
      rfl
  · subst hpops hstack hleft
    exact ⟨fun hjoin hd => ⟨_, execJoin_next hq hg hjoin, waitLanes_spec hg hp _ _ false 0 hd⟩,
      fun hd => ⟨_, execRegang_next hq hg, waitLanes_spec hg hp _ _ true _ hd⟩⟩

end Sys2Proof.Machine
end

section
/-! SUPPORT. A line that no cache holds stays so while other lines are walked, and its own requests are served one by one (R226 to R231, R238);
a walk ends at such a line with its queue empty, and what is then written there can be read back (R104, R213). -/

namespace Sys2Proof.Machine

/-- A write, or an engine's read from the line's home die: what is served where no cache holds the line, without a change of that. -/
def HomeReq.Plain (ln : Nat) (r : HomeReq) : Prop := r.kind = .write ∨ (r.kind = .read ∧ r.rt = 6 ∧ r.die = homeDie (ln * 128))

/-- No cache holds the line, and only such requests wait for it. -/
def Calm (ln : Nat) (s : State) : Prop := ∃ rs, lineAt s ln = ⟨.unc, [], rs, []⟩ ∧ ∀ r ∈ rs, HomeReq.Plain ln r

section
variable {s t : State} {ln ln' : Nat}

theorem Calm.of_line (h : Calm ln s) (hl : lineAt t ln = lineAt s ln) : Calm ln t := by
  obtain ⟨rs, hrs, hplain⟩ := h
  exact ⟨rs, hl.trans hrs, hplain⟩

theorem Calm.dir (h : Calm ln s) : (lineAt s ln).dir = .unc := by
  obtain ⟨_, h, _⟩ := h
  rw [h]

theorem Calm.spans (h : Calm ln s) : (lineAt s ln).spans = [] := by
  obtain ⟨_, h, _⟩ := h
  rw [h]

theorem Calm.proxy (h : Calm ln s) : (lineAt s ln).proxy = [] := by
  obtain ⟨_, h, _⟩ := h
  rw [h]

theorem Calm.mapOf (h : Calm ln s) (core : Nat) : mapOf (lineAt s ln) ln core = [] := by
  unfold Machine.mapOf
  split
  · exact h.spans
  · exact h.proxy

theorem Calm.foldl {α : Type} {f : State → α → State} (hf : ∀ t x, Calm ln t → Calm ln (f t x)) (xs : List α) (h : Calm ln s) :
    Calm ln (xs.foldl f s) :=
  List.foldlRecOn (motive := Calm ln) _ _ h fun t ht x _ => hf t x ht

/-! What leaves a line as it is. -/

theorem lineAt_congr (h : t.lines = s.lines) (ln : Nat) : lineAt t ln = lineAt s ln := by
  unfold lineAt
  rw [h]

theorem lineAt_setLine_ne (hne : ln' ≠ ln) (s : State) (l : Line) : lineAt (setLine s ln' l) ln = lineAt s ln := by
  unfold lineAt setLine
  dsimp only
  split
  · rw [aGet_aErase, if_neg hne]
  · rw [aGet_aSet_ne _ _ hne]

theorem lineAt_foldl {α : Type} {f : State → α → State} (hf : ∀ s x, lineAt (f s x) ln = lineAt s ln) (xs : List α) (s : State) :
    lineAt (xs.foldl f s) ln = lineAt s ln :=
  List.foldlRecOn (motive := fun t => lineAt t ln = lineAt s ln) _ _ rfl fun _ h x _ => (hf _ x).trans h

theorem lineAt_dropSpan (s : State) (k : Nat) (x : Span) : lineAt (dropSpan s k x) ln = lineAt s ln := rfl

theorem lineAt_recallSpan_ne (hne : ln' ≠ ln) (s : State) (x : Span) : lineAt (recallSpan s ln' x) ln = lineAt s ln :=
  (lineAt_setLine_ne hne _ _).trans (lineAt_foldl (fun s y => lineAt_dropSpan s ln' y) _ s)

theorem lineAt_recallAll_ne (hne : ln' ≠ ln) (s : State) (xs : List Span) : lineAt (recallAll s ln' xs) ln = lineAt s ln :=
  lineAt_foldl (fun s x => lineAt_recallSpan_ne hne s x) xs s

theorem lineAt_giveUp_ne (hne : ln' ≠ ln) (s : State) (e : Nat) : lineAt (giveUp s e ln') ln = lineAt s ln :=
  (lineAt_setLine_ne hne _ _).trans (lineAt_recallAll_ne hne _ _)

/-- A copy that leaves a slice changes no line that no cache holds. -/
theorem lineAt_evictCopy (h : (lineAt s ln).dir = .unc) (x : CacheLine) : lineAt (evictCopy s x) ln = lineAt s ln := by
  have hline : ∀ j k, lineAt (unholdLine s x.die j) k = lineAt s k := fun _ _ => rfl
  unfold evictCopy
  dsimp only
  by_cases hne : x.line = ln
  · rw [hne] at *
    rw [hline, h]
    split <;> exact hline ln ln
  · split
    · rfl
    · split
      · split <;> exact lineAt_setLine_ne hne _ _
      · split
        · exact lineAt_setLine_ne hne _ _
        · split
          · exact lineAt_giveUp_ne hne _ _
          · rfl
      · rfl

theorem lineAt_holdLine (h : (lineAt s ln).dir = .unc) (die k ctx : Nat) (peer first : Bool) :
    lineAt (holdLine s die k ctx peer first) ln = lineAt s ln := by
  unfold holdLine makeRoom
  split
  · rfl
  · dsimp only
    split
    · split
      · exact lineAt_evictCopy h _
      · rfl
    · rfl

theorem lineAt_arriveAt (h : (lineAt s ln).dir = .unc) (k : Nat) (r : HomeReq) (atHome : Bool) :
    lineAt (arriveAt s k r atHome) ln = lineAt s ln := by
  unfold arriveAt
  cases atHome <;> dsimp only <;> split
  · rfl
  · exact lineAt_holdLine h _ _ _ _ _
  · rfl
  · exact lineAt_holdLine (s := countRequest s (k * 128) _) h _ _ _ _ _

theorem lineAt_consumePackage (s : State) (place : ErrorPlace) (die unit : Nat) : lineAt (consumePackage s place die unit) ln = lineAt s ln := by
  unfold consumePackage
  split <;> rfl

/-! What may put a request into the queue of a calm line. -/

theorem Calm.askLine (h : Calm ln s) (k : Nat) {r : HomeReq} (hr : k = ln → r.Plain ln) : Calm ln (askLine s k r) := by
  by_cases hk : k = ln
  · subst hk
    obtain ⟨rs, hrs, hplain⟩ := h
    refine ⟨rs ++ [r], ?_, fun x hx => ?_⟩
    · rw [Machine.askLine, hrs]
      exact lineAt_setLine_self _ _ _
    · rcases List.mem_append.1 hx with hx | hx
      · exact hplain x hx
      · exact List.mem_singleton.1 hx ▸ hr rfl
  · exact h.of_line (lineAt_setLine_ne hk _ _)

theorem Calm.writeBackWords (h : Calm ln s) (core k : Nat) (words : List Nat) : Calm ln (writeBackWords s core k words) := by
  have hsend : ∀ u : State, Calm ln u → ∀ ctx rt bs bad, Calm ln (sendBack u core ctx rt k bs bad) := fun u hu ctx rt bs bad => by
    unfold sendBack
    split
    · exact hu
    · exact hu.askLine k fun _ => .inl rfl
  unfold Machine.writeBackWords writeBackAs
  dsimp only
  split
  · exact h
  · refine hsend _ (h.of_line ?_) _ _ _ _
    split <;> rfl

theorem Calm.recallAll_ne (h : Calm ln s) (hne : ln' ≠ ln) (xs : List Span) : Calm ln (recallAll s ln' xs) :=
  h.of_line (lineAt_recallAll_ne hne s xs)

theorem Calm.dropWords (h : Calm ln s) (core : Nat) (words : List Nat) : Calm ln (dropWords s core words) := h.of_line rfl

theorem Calm.evictWord (h : Calm ln s) (core a : Nat) : Calm ln (evictWord s core a) := by
  have hrecalled : Calm ln (recallAll s (a / 128) ((Machine.mapOf (lineAt s (a / 128)) (a / 128) core).filter fun x =>
      x.core == core && overlap x.first x.len (a % 128 / 4) 1)) := by
    by_cases hne : a / 128 = ln
    · rw [hne, h.mapOf]
      exact h
    · exact h.recallAll_ne hne _
  exact (hrecalled.writeBackWords core (a / 128) [a / 4 * 4]).dropWords core [a]

theorem Calm.trimL1 (h : Calm ln s) (core k fuel : Nat) : Calm ln (trimL1 core k fuel s) := by
  induction fuel generalizing s with
  | zero => exact h
  | succ fuel ih =>
    unfold Machine.trimL1
    dsimp only
    split
    · exact h
    · split
      · exact ih (h.evictWord core _)
      · exact h

theorem Calm.l1Put (h : Calm ln s) (core ctx : Nat) (kind : L1Kind) (dirty : Bool) (bs : List (Nat × Nat)) :
    Calm ln (l1Put s core ctx kind dirty bs) := by
  unfold Machine.l1Put
  split
  · exact h
  · refine Calm.trimL1 ?_ _ _ _
    exact h.of_line rfl

theorem Calm.l1Fill (h : Calm ln s) (core ctx a n : Nat) (kind : L1Kind) : Calm ln (l1Fill s core ctx a n kind) := h.l1Put _ _ _ _ _

theorem Calm.noteSnoop (h : Calm ln s) (die k : Nat) : Calm ln (noteSnoop s die k) := by
  have hc : Calm ln (consumePackage s (.snoop (holderSlice die k)) die (bankUnit (holderSlice die k * 4))) :=
    h.of_line (lineAt_consumePackage ..)
  revert hc
  unfold Machine.noteSnoop
  dsimp only
  generalize consumePackage s (.snoop (holderSlice die k)) die (bankUnit (holderSlice die k * 4)) = u
  intro hc
  split
  · exact hc
  · refine Calm.of_line (s := ite _ _ _) ?_ rfl
    split
    · split
      · rename_i e _
        by_cases hne : e.2 = ln
        · rw [hne, hc.spans, hc.proxy]
          split <;> exact hc
        · exact hc.recallAll_ne hne _
      · exact hc
    · exact hc

theorem lineAt_roomIn_ne (hne : ln' ≠ ln) (s : State) (map : List Span) : lineAt (roomIn s ln' map) ln = lineAt s ln := by
  unfold roomIn
  split
  · split
    · exact lineAt_recallSpan_ne hne _ _
    · rfl
  · rfl

theorem Calm.grantSpan_ne (h : Calm ln s) (hne : ln' ≠ ln) (core ctx first len : Nat) : Calm ln (grantSpan s ln' core ctx first len) :=
  ((h.of_line ((lineAt_setLine_ne hne _ _).trans (lineAt_roomIn_ne hne _ _))).noteSnoop _ _).l1Fill _ _ _ _ _

/-! A step of another line. -/

theorem Calm.serveReq_ne (h : Calm ln s) (hne : ln' ≠ ln) (r : HomeReq) (atHome : Bool) : Calm ln (serveReq s ln' r atHome) := by
  have ha : Calm ln (arriveAt s ln' r atHome) := h.of_line (lineAt_arriveAt h.dir ..)
  revert ha
  unfold serveReq
  generalize arriveAt s ln' r atHome = u
  intro ha
  cases hk : r.kind with
  | write => exact ha.of_line rfl
  | own =>
    refine Calm.of_line (s := ite _ _ _) ?_ rfl
    split
    · exact ha.l1Fill _ _ _ _ _
    · exact ha.grantSpan_ne hne _ _ _ _
  | read =>
    refine Calm.of_line (s := ite _ _ _) ?_ rfl
    split
    · exact ha.l1Fill _ _ _ _ _
    · split
      · exact ha.of_line rfl
      · exact ha
  | atom => exact ha

theorem Calm.setLine_ne (h : Calm ln s) (hne : ln' ≠ ln) (l : Line) : Calm ln (setLine s ln' l) := h.of_line (lineAt_setLine_ne hne s l)

theorem Calm.holdLine (h : Calm ln s) (die k ctx : Nat) (peer first : Bool) : Calm ln (holdLine s die k ctx peer first) :=
  h.of_line (lineAt_holdLine h.dir die k ctx peer first)

theorem Calm.serveHead_ne (h : Calm ln s) (hne : ln' ≠ ln) (r : HomeReq) (dir : DirState) (atHome : Bool) :
    Calm ln (serveHead s ln' r dir atHome) := (h.setLine_ne hne _).serveReq_ne hne r atHome

theorem Calm.homeUnc_ne (h : Calm ln s) (hne : ln' ≠ ln) (r : HomeReq) : Calm ln (homeUnc s ln' r) := by
  unfold homeUnc
  dsimp only
  split
  · exact h.setLine_ne hne _
  · split
    · exact ((h.holdLine _ _ _ _ _).of_line ((lineAt_setLine_ne hne _ _).trans (lineAt_roomIn_ne hne _ _))).serveHead_ne hne _ _ _
    · split
      · exact (h.holdLine _ _ _ _ _).serveHead_ne hne _ _ _
      · exact h.serveHead_ne hne _ _ _

theorem Calm.homeStep_ne (h : Calm ln s) (hne : ln' ≠ ln) : Calm ln (homeStep s ln') := by
  unfold homeStep
  split
  · exact h
  · rename_i r _
    have hc : Calm ln (consumePackage s (.directory ln') (homeDie (ln' * 128)) (bankUnit (homeBank (ln' * 128)))) :=
      h.of_line (lineAt_consumePackage ..)
    dsimp only
    split
    · exact (hc.writeBackWords _ _ _).setLine_ne hne _
    · split
      · exact hc.homeUnc_ne hne r
      · split
        · split
          · exact Calm.setLine_ne (hc.of_line rfl) hne _
          · exact hc.setLine_ne hne _
        · split
          · exact hc.setLine_ne hne _
          · split
            · exact (hc.holdLine _ _ _ _ _).serveHead_ne hne _ _ _
            · exact hc.serveHead_ne hne _ _ _
      · split
        · exact hc.setLine_ne hne _
        · split
          · exact hc.setLine_ne hne _
          · exact hc.serveHead_ne hne _ _ _
      · exact hc

theorem Calm.lineStep_ne (h : Calm ln s) (hne : ln' ≠ ln) : Calm ln (lineStep s ln') := by
  unfold lineStep
  dsimp only
  split
  · exact h.setLine_ne hne _
  · exact h.setLine_ne hne _
  · exact Calm.setLine_ne (h.of_line rfl) hne _
  · exact h.of_line (lineAt_giveUp_ne hne _ _)
  · split
    · unfold recallMarked
      split
      · exact h.of_line (lineAt_recallSpan_ne hne _ _)
      · exact h
    · exact h.homeStep_ne hne

theorem Calm.settleSteps_ne (h : Calm ln s) (hne : ln' ≠ ln) (fuel : Nat) : Calm ln (settleSteps ln' fuel s) := by
  induction fuel generalizing s with
  | zero => exact h
  | succ fuel ih =>
    unfold settleSteps
    dsimp only
    split
    · exact h
    · exact ih (h.lineStep_ne hne)

/-! A step of the line itself. -/

/-- The oldest request of a calm line is served at home (R228, R231). -/
theorem lineStep_plain {r : HomeReq} {rs : List HomeReq} (hl : lineAt s ln = ⟨.unc, [], r :: rs, []⟩) (hr : r.Plain ln) :
    ∃ u, lineAt u ln = ⟨.unc, [], rs, []⟩ ∧ lineStep s ln = serveReq u ln r true := by
  have hstep : lineStep s ln = homeStep s ln := by simp [lineStep, hl]
  have hc : lineAt (consumePackage s (.directory ln) (homeDie (ln * 128)) (bankUnit (homeBank (ln * 128)))) ln = ⟨.unc, [], r :: rs, []⟩ :=
    (lineAt_consumePackage ..).trans hl
  refine ⟨_, lineAt_setLine_self (consumePackage s (.directory ln) (homeDie (ln * 128)) (bankUnit (homeBank (ln * 128)))) ln _, ?_⟩
  rw [hstep]
  unfold homeStep
  simp only [hl, List.head?_cons]
  generalize consumePackage s (.directory ln) (homeDie (ln * 128)) (bankUnit (homeBank (ln * 128))) = u at *
  rw [hc]
  rcases hr with hk | ⟨hk, -, hdie⟩
  · simp [ownDirty, hk, homeUnc, hc, blocking, spansMeeting, mayReplicate, serveHead]
  · simp [ownDirty, hk, homeUnc, hc, blocking, spansMeeting, hdie, serveHead]

theorem lineAt_serveReq_plain {r : HomeReq} (hr : r.Plain ln) (hd : (lineAt s ln).dir = .unc) :
    lineAt (serveReq s ln r true) ln = lineAt s ln := by
  refine Eq.trans ?_ (lineAt_arriveAt hd ln r true)
  unfold serveReq
  rcases hr with hk | ⟨hk, hrt, -⟩
  · rw [hk]
    rfl
  · rw [hk, hrt]
    simp only [Nat.reduceEqDiff, decide_false, Bool.or_self, Bool.and_false, Bool.false_eq_true, if_false]
    rfl

theorem settleSteps_of_queue {r : HomeReq} {rs : List HomeReq} (hl : lineAt s ln = ⟨.unc, [], r :: rs, []⟩) (fuel : Nat) :
    settleSteps ln (fuel + 1) s = settleSteps ln fuel (lineStep s ln) := by
  simp [settleSteps, hl]

/-- A calm line at which steps enough are made has no request left (R231). -/
theorem settleSteps_plain {rs : List HomeReq} (hl : lineAt s ln = ⟨.unc, [], rs, []⟩) (hrs : ∀ r ∈ rs, HomeReq.Plain ln r) {fuel : Nat}
    (hfuel : rs.length ≤ fuel) : lineAt (settleSteps ln fuel s) ln = ⟨.unc, [], [], []⟩ := by
  induction rs generalizing s fuel with
  | nil => rw [settleSteps_settled hl rfl, hl]
  | cons r rs ih =>
    obtain ⟨fuel, rfl⟩ : ∃ n, fuel = n + 1 := ⟨fuel - 1, by simp at hfuel; omega⟩
    obtain ⟨u, hu, hstep⟩ := lineStep_plain hl (hrs r (List.mem_cons_self ..))
    rw [settleSteps_of_queue hl, hstep]
    exact ih ((lineAt_serveReq_plain (hrs r (List.mem_cons_self ..)) (by rw [hu])).trans hu) (fun x hx => hrs x (List.mem_cons_of_mem _ hx))
      (by simpa using hfuel)

theorem homeDo_plain (h : Calm ln s) {r : HomeReq} (hr : r.Plain ln) : lineAt (homeDo s ln r) ln = ⟨.unc, [], [], []⟩ := by
  obtain ⟨rs, hrs, hplain⟩ := h.askLine ln (r := r) fun _ => hr
  refine settleSteps_plain hrs hplain ?_
  rw [hrs]
  dsimp only
  omega

theorem Calm.homeDo (h : Calm ln s) (k : Nat) {r : HomeReq} (hr : r.Plain k) : Calm ln (homeDo s k r) := by
  by_cases hk : k = ln
  · subst hk
    exact ⟨[], homeDo_plain h hr, by simp⟩
  · exact (h.askLine k fun e => absurd e hk).settleSteps_ne hk _

/-- A write to a line that nothing holds or asks for puts its bytes into memory, last of all (R228). -/
theorem homeDo_write_mem (hl : lineAt s ln = ⟨.unc, [], [], []⟩) {r : HomeReq} (hk : r.kind = .write) :
    ∃ m : Memory, (homeDo s ln r).mem = r.bytes.foldl (fun m b => bSet m b.1 b.2) m := by
  have hask : lineAt (Machine.askLine s ln r) ln = ⟨.unc, [], [r], []⟩ := by
    rw [Machine.askLine, hl]
    exact lineAt_setLine_self _ _ _
  have hfuel : 32 * ((lineAt (Machine.askLine s ln r) ln).queue.length + 2) = 95 + 1 := by rw [hask]; rfl
  obtain ⟨u, hu, hstep⟩ := lineStep_plain hask (.inl hk)
  have hrest : lineAt (serveReq u ln r true) ln = ⟨.unc, [], [], []⟩ :=
    (lineAt_serveReq_plain (.inl hk) (by rw [hu])).trans hu
  have hgo : homeDo s ln r = serveReq u ln r true := by
    rw [Machine.homeDo, settleLine, hfuel, settleSteps_of_queue hask, hstep, settleSteps_settled hrest rfl]
  refine ⟨(arriveAt u ln r true).mem, ?_⟩
  rw [hgo, serveReq, hk]
  rfl

end

end Sys2Proof.Machine
end

section
/-! SUPPORT. The walk of an ARMED service (R104, R208): where it ends at an invalid entry of a calm line, the line is at rest, and the entry
can be written. -/

namespace Sys2Proof.Machine

/-! The entry's address (R205 to R208). -/

theorem levelIndex_lt (lvl va : Nat) : levelIndex lvl va < 1024 := by
  unfold levelIndex
  split <;> exact bits_lt _ _ _

/-- The place of a table that a well-formed entry points at (R207). -/
def TablePlace (a : Nat) : Prop := a % 8 = 0 ∧ a < 2 ^ 42

theorem tablePlace_of_tableOk {e : Nat} (h : tableOk e = true) : TablePlace (eAddr e) := by
  simp only [tableOk, installed, Bool.and_eq_true, decide_eq_true_eq] at h
  refine ⟨?_, by omega⟩
  unfold eAddr
  omega

theorem entry_within {table : Nat} (h : TablePlace table) (lvl va : Nat) :
    (table + 8 * levelIndex lvl va) % 128 + 8 ≤ 128 ∧ isDevice (table + 8 * levelIndex lvl va) = true := by
  obtain ⟨hmod, hlt⟩ := h
  have hidx := levelIndex_lt lvl va
  exact ⟨by omega, decide_eq_true (show _ < 2 ^ 53 by omega)⟩

section
variable {s t : State} {ln : Nat}

/-! Reads and writes of the module operating system. -/

theorem engReq_plain (c k a n : Nat) (bs : List (Nat × Nat)) : (engReq (whoHome c) .read k a n bs).Plain k := .inr ⟨rfl, rfl, rfl⟩

theorem engReq_bytes (w : Who) (kind : HomeKind) (k a n : Nat) (bs : List (Nat × Nat)) : (engReq w kind k a n bs).bytes = bs := rfl

theorem Calm.homeRead (h : Calm ln s) (c a n : Nat) : Calm ln (homeRead s (whoHome c) a n).1 := by
  unfold Machine.homeRead hostSend
  dsimp only
  split
  · split
    · exact h.of_line rfl
    · exact h
  · exact Calm.foldl (fun t k ht => ht.homeDo k (engReq_plain c k _ _ _)) _ h

/-- A read within a calm line leaves it with nothing asked for (R231). -/
theorem homeRead_rests {c a : Nat} (h : Calm (a / 128) s) (hin : a % 128 + 8 ≤ 128) (hdev : isDevice a = true) :
    lineAt (homeRead s (whoHome c) a 8).1 (a / 128) = ⟨.unc, [], [], []⟩ := by
  unfold Machine.homeRead homeEach
  rw [hdev, linesOf_within (by decide) hin]
  exact homeDo_plain h (engReq_plain c _ _ _ _)

theorem bytesAt_foldl (m : Memory) (a k : Nat) (bs : List Nat) :
    ((bs.zipIdx k).map fun b => (a + b.2, b.1)).foldl (fun m b => bSet m b.1 b.2) m = writeMem m (a + k) bs := by
  induction bs generalizing m k with
  | nil => rfl
  | cons b bs ih => exact ih _ (k + 1)

theorem length_toBytes (n x : Nat) : (toBytes n x).length = n := by
  induction n generalizing x with
  | zero => rfl
  | succ n ih => rw [toBytes, List.length_cons, ih]

/-- A write within a line that nothing holds or asks for can be read back (R228). -/
theorem readMem_homeWrite {c a : Nat} (h : lineAt s (a / 128) = ⟨.unc, [], [], []⟩) (hin : a % 128 + 8 ≤ 128) (hdev : isDevice a = true)
    (x : Nat) : readMem (homeWrite s (whoHome c) a (toBytes 8 x)).mem a 8 = x % 2 ^ 64 := by
  have hall : ((bytesAt a (toBytes 8 x)).filter fun b => b.1 / 128 == a / 128) = bytesAt a (toBytes 8 x) := by
    refine List.filter_eq_self.2 fun b hb => ?_
    obtain ⟨y, hy, rfl⟩ := List.mem_map.1 hb
    have hlt : y.2 < 8 := by simpa [length_toBytes] using (List.mem_zipIdx (x := y.1) (i := y.2) hy).2.1
    simp only [beq_iff_eq]
    omega
  unfold homeWrite homeEach
  rw [hdev, length_toBytes, linesOf_within (by decide) hin]
  simp only [Bool.not_true, Bool.false_eq_true, if_false, List.foldl_cons, List.foldl_nil]
  rw [hall]
  obtain ⟨m, hm⟩ := homeDo_write_mem h (r := engReq (whoHome c) .write (a / 128) (partIn (a / 128) a 8).1 (partIn (a / 128) a 8).2
    (bytesAt a (toBytes 8 x))) rfl
  have hput : (bytesAt a (toBytes 8 x)).foldl (fun m b => bSet m b.1 b.2) m = writeMem m a (toBytes 8 x) := bytesAt_foldl m a 0 _
  rw [if_neg (show ¬ (whoHome c).nc = true from Bool.false_ne_true), hm, engReq_bytes, hput, readMem_writeMem_toBytes,
    show (256 : Nat) ^ 8 = 2 ^ 64 from by decide]

/-! The walk. -/

theorem walkFrom_invalid {c va fuel lvl table : Nat} {path : List (Nat × Nat)} {a e v : Nat} (hs : Calm (a / 128) s)
    (htable : 1 < lvl → TablePlace table) (hv : 1 < v) (h : (walkFrom (whoHome c) va fuel lvl table path s).2.1 = .invalid a e v) :
    lineAt (walkFrom (whoHome c) va fuel lvl table path s).1 (a / 128) = ⟨.unc, [], [], []⟩ ∧ a % 128 + 8 ≤ 128 ∧ isDevice a = true := by
  induction fuel generalizing lvl table path s with
  | zero => cases h
  | succ fuel ih =>
    have hread := hs.homeRead c (table + 8 * levelIndex lvl va) 8
    revert h
    unfold walkFrom
    dsimp only
    split
    · intro h; cases h
    · split
      · intro h
        cases h
        obtain ⟨hin, hdev⟩ := entry_within (htable hv) _ va
        exact ⟨homeRead_rests hs hin hdev, hin, hdev⟩
      · split
        · split
          · rename_i hok
            exact fun h => ih hread (fun _ => tablePlace_of_tableOk hok) h
          · intro h; cases h
        · split
          · split
            · split <;> (intro h; cases h)
            · split
              · rename_i hok
                exact fun h => ih hread (fun _ => tablePlace_of_tableOk hok) h
              · intro h; cases h
          · split <;> (intro h; cases h)

/-! ARMED service (R104). -/

section
variable {c page : Nat}

theorem serveArmed_kept (s : State) (c page : Nat) : Kept s (serveArmed s c page).1 := by
  have hw := (Kept.refl s).walk (whoHome c) page
  unfold serveArmed
  dsimp only
  split
  · exact hw
  · exact hw
  · exact hw
  · split
    · exact hw.homeWrite _ _ _
    · exact hw

theorem serveArmed_leaf {e k : Nat} (h : (walk s (whoHome c) page).2.1 = .leaf e k) : (serveArmed s c page).2 = true := by
  simp [serveArmed, h]

theorem serveArmed_bad (h : (walk s (whoHome c) page).2.1 = .malformed ∨ (walk s (whoHome c) page).2.1 = .poisoned) :
    (serveArmed s c page).2 = false := by
  rcases h with h | h <;> simp [serveArmed, h]

/-- An invalid entry that is a well-formed leaf once V is set (R104, R208). -/
def ArmedLeaf (e v : Nat) : Prop := (v = 4 ∧ leafOk 16 (e ||| 1) = true) ∨ (v = 3 ∧ eLeaf e = true ∧ leafOk 26 (e ||| 1) = true)

theorem eLeaf_or_one (e : Nat) : eLeaf (e ||| 1) = eLeaf e := by
  exact (Nat.testBit_or ..).trans (Bool.or_false _)

theorem serveArmed_invalid {a e v : Nat} (h : (walk s (whoHome c) page).2.1 = .invalid a e v) :
    (ArmedLeaf e v → serveArmed s c page = (homeWrite (walk s (whoHome c) page).1 (whoHome c) a (toBytes 8 (e ||| 1)), true)) ∧
    (¬ ArmedLeaf e v → (serveArmed s c page).2 = false) := by
  have hok : ((decide (v = 4) && leafOk 16 (e ||| 1)) || (decide (v = 3) && eLeaf (e ||| 1) && leafOk 26 (e ||| 1))) = true ↔ ArmedLeaf e v := by
    simp [ArmedLeaf, eLeaf_or_one, and_assoc]
  unfold serveArmed
  dsimp only
  rw [h]
  dsimp only
  exact ⟨fun hl => if_pos (hok.2 hl), fun hl => by rw [if_neg fun hk => hl (hok.1 hk)]⟩

/-- The entry that it makes valid can be read back. -/
theorem serveArmed_readMem {a e v : Nat} (h : (walk s (whoHome c) page).2.1 = .invalid a e v) (hleaf : ArmedLeaf e v)
    (hidle : LinesIdle s (linesOf a 8)) : readMem (serveArmed s c page).1.mem a 8 = (e ||| 1) % 2 ^ 64 := by
  have hline : lineAt s (a / 128) = ⟨.unc, [], [], []⟩ := hidle.1 _ (List.mem_map.2 ⟨0, by simp, by simp⟩)
  have hv : 1 < v := by rcases hleaf with ⟨rfl, _⟩ | ⟨rfl, _⟩ <;> decide
  obtain ⟨hrest, hin, hdev⟩ := walkFrom_invalid (s := s) ⟨[], hline, by simp⟩ (fun h => absurd h (by decide)) hv h
  rw [(serveArmed_invalid h).1 hleaf]
  exact readMem_homeWrite hrest hin hdev _

end

/-! SERVICE_REQUEST (R213). -/

variable {i : Nat} {r : ServiceReq}

theorem modService_services (hr : s.services[i]? = some r) (f : ServiceReq → ServiceReq) :
    (modService s i f).services = s.services.set i (f r) := by
  refine List.ext_getElem? fun j => ?_
  have hget : (modService s i f).services[j]? = (s.services[j]?).map fun x => if j = i then f x else x := by
    simp only [modService, List.getElem?_map, List.getElem?_zipIdx, Option.map_map, Function.comp_def, Nat.zero_add]
  rw [hget, List.getElem?_set]
  by_cases hj : j = i
  · subst hj
    obtain ⟨hlt, hj⟩ := List.getElem?_eq_some_iff.1 hr
    simp [hlt, hj]
  · simp [hj, Ne.symm hj]

/-- The machine with a request taken (R213). -/
def requestTaken (s : State) (i : Nat) : State := modService s i fun r => { r with taken := true }

/-- The machine with a request taken and answered (R213). -/
def requestAnswered (s : State) (i : Nat) (ok : Bool) : State := modService s i fun r => { r with taken := true, answer := some ok }

theorem requestTaken_services (hr : s.services[i]? = some r) : (requestTaken s i).services = s.services.set i { r with taken := true } :=
  modService_services hr _

theorem requestAnswered_services (hr : s.services[i]? = some r) (ok : Bool) :
    (requestAnswered s i ok).services = s.services.set i { r with taken := true, answer := some ok } := modService_services hr _

/-- The page of a request has been asked of the host (R404). -/
def hostTold (s : State) (r : ServiceReq) : Bool :=
  s.services.any fun x => x.ctx == r.ctx && x.page == r.page && x.host && x.taken && x.answer.isNone

theorem hostTold_iff : hostTold s r = true ↔
    ∃ x ∈ s.services, x.ctx = r.ctx ∧ x.page = r.page ∧ x.host = true ∧ x.taken = true ∧ x.answer = none := by
  simp [hostTold, List.any_eq_true, and_assoc]

section
variable (hr : s.services[i]? = some r) (htaken : r.taken = false)
include hr htaken

theorem execServiceRequest_hostPage (hhost : r.host = true) : exec .serviceRequest (s.about (.one i)) = .next (
    if hostTold s r = true then requestTaken (s.about (.one i)) i
    else { requestTaken (s.about (.one i)) i with hostSent := s.hostSent ++ [⟨pasidOf s r.ctx, .page, r.page, 4096⟩] }) := by
  have hexec : exec .serviceRequest (s.about (.one i)) = execServiceRequest (s.about (.one i)) := rfl
  have hr' : (s.about (.one i)).services[i]? = some r := hr
  rw [hexec]
  unfold execServiceRequest
  rw [subject_about]
  dsimp only
  rw [hr']
  dsimp only
  rw [htaken, hhost]
  rfl

variable (hhost : r.host = false)
include hhost

/-- A request for a page of the tables, under the context's policy (R104). -/
theorem execServiceRequest_tablePage : exec .serviceRequest (s.about (.one i)) = match (ctxAt s r.ctx).policy with
      | 0 => .next (requestAnswered (s.about (.one i)) i false)
      | 1 => .next (requestAnswered (serveArmed (s.about (.one i)) r.ctx r.page).1 i (serveArmed (s.about (.one i)) r.ctx r.page).2)
      | _ => .next (if (s.services.any fun x => x.ctx == r.ctx && x.page == r.page && !x.host && x.taken && x.answer.isNone) = true then
            requestTaken (s.about (.one i)) i
          else writeRecord (requestTaken (s.about (.one i)) i) (r.ctx * 16) (pageRecordWords r
            ((s.services.filter fun x => x.ctx == r.ctx && x.page == r.page && !x.host).foldl (fun m x => m ||| x.access) 0))) := by
  have hexec : exec .serviceRequest (s.about (.one i)) = execServiceRequest (s.about (.one i)) := rfl
  have hr' : (s.about (.one i)).services[i]? = some r := hr
  rw [hexec]
  unfold execServiceRequest
  rw [subject_about]
  dsimp only
  rw [hr']
  dsimp only
  rw [htaken, hhost]
  rfl

theorem execServiceRequest_refuse (hpol : (ctxAt s r.ctx).policy = 0) :
    exec .serviceRequest (s.about (.one i)) = .next (requestAnswered (s.about (.one i)) i false) := by
  rw [execServiceRequest_tablePage hr htaken hhost, hpol]
  rfl

theorem execServiceRequest_armed (hpol : (ctxAt s r.ctx).policy = 1) : exec .serviceRequest (s.about (.one i)) =
    .next (requestAnswered (serveArmed (s.about (.one i)) r.ctx r.page).1 i (serveArmed (s.about (.one i)) r.ctx r.page).2) := by
  rw [execServiceRequest_tablePage hr htaken hhost, hpol]
  rfl

/-- Under HOST the request is taken; a record may be written, which disturbs nothing (R104, R130). -/
theorem execServiceRequest_hostPolicy (hpol : (ctxAt s r.ctx).policy = 2) :
    ∃ t, exec .serviceRequest (s.about (.one i)) = .next t ∧ Undisturbed (requestTaken (s.about (.one i)) i) t := by
  rw [execServiceRequest_tablePage hr htaken hhost, hpol]
  refine ⟨_, rfl, ?_⟩
  split
  · exact .refl _
  · exact (Undisturbed.refl _).writeRecord _ _

end

end

/-- Settles O34: each policy's answer; the armed leaf's line is at rest once the walk has read it, so that what is written there stays. -/
theorem servicePolicies : Obligations.ServicePolicies := by
  refine fun s i r hr htaken => ⟨fun hhost => ?_, fun hhost hpol => ?_, fun hhost hpol => ?_, fun hhost hpol => ?_⟩
  · refine ⟨_, execServiceRequest_hostPage hr htaken hhost, ?_⟩
    have hservices := requestTaken_services (s := s.about (.one i)) hr
    split
    · rename_i h
      exact ⟨hservices, rfl, fun _ => rfl, fun hno => absurd (hostTold_iff.1 h) hno⟩
    · rename_i h
      exact ⟨hservices, rfl, fun htold => absurd (hostTold_iff.2 htold) h, fun _ => rfl⟩
  · exact ⟨_, execServiceRequest_refuse hr htaken hhost hpol, requestAnswered_services (s := s.about (.one i)) hr _, rfl⟩
  · have hk := serveArmed_kept (s.about (.one i)) r.ctx r.page
    have hwalk : (walk (s.about (.one i)) (whoHome r.ctx) r.page).2 = (walk s (whoHome r.ctx) r.page).2 := by rw [walk_about]
    have hanswer : ∀ ok, (serveArmed (s.about (.one i)) r.ctx r.page).2 = ok →
        (requestAnswered (serveArmed (s.about (.one i)) r.ctx r.page).1 i (serveArmed (s.about (.one i)) r.ctx r.page).2).services =
          s.services.set i { r with taken := true, answer := some ok } := fun ok hok => by
      rw [requestAnswered_services (r := r) (by rw [hk.services]; exact hr), hk.services, hok]
      rfl
    refine ⟨_, execServiceRequest_armed hr htaken hhost hpol, hk.sameRegisters, hk.paths, ?_⟩
    dsimp only
    rw [← hwalk]
    refine ⟨fun e k hf => hanswer _ (serveArmed_leaf hf), fun hf => hanswer _ (serveArmed_bad hf),
      fun a e v hf => ⟨fun hleaf hidle => ⟨?_, ?_⟩, fun hno => hanswer _ ((serveArmed_invalid hf).2 hno)⟩⟩
    · exact hanswer _ (by rw [(serveArmed_invalid hf).1 hleaf])
    · exact serveArmed_readMem (s := s.about (.one i)) hf hleaf hidle
  · obtain ⟨t, ht, hu⟩ := execServiceRequest_hostPolicy hr htaken hhost hpol
    have hi : (requestTaken (s.about (.one i)) i).services[i]? = some { r with taken := true } := by
      have hlt : i < (s.about (.one i)).services.length := (List.getElem?_eq_some_iff.1 hr).1
      rw [requestTaken_services (s := s.about (.one i)) hr, List.getElem?_set, if_pos rfl, if_pos hlt]
    obtain ⟨access, ha⟩ := hu.services i _ hi
    exact ⟨t, ht, hu.registers, hu.paths, _, ha, rfl, rfl, rfl, rfl⟩

end Sys2Proof.Machine
end
